-- ==== Sys2Proof/Word.lean ====
section
/-! DEFINITION. Word.lean: the word types of the Osale (R7: registers are 32 bits wide). -/

namespace Sys2Proof

/-- A byte, as the wire and the memories hold it. -/
abbrev Byte := BitVec 8

/-- A register word (R7). -/
abbrev Word := BitVec 32

/-- A byte string, first byte first (R7: multi-byte wire fields go most significant byte first). -/
abbrev Bytes := List Byte

end Sys2Proof
end

