-- ==== Sys2Proof/Types.lean ====
section
/-! DEFINITION. Types.lean: what travels on the Osale's links and what an image holds, as plain data.
Wire fields are bit vectors of their width; counts, unit numbers and lists are not. -/

namespace Sys2Proof

/-! ## Packets and flits (04_flits_and_switching_core.md) -/

/-- A packet: the header of Table 4-4, its payload (LENGTH bytes) and its end-to-end CRC as received (R98, R93).
Reserved header bits are kept, since they are forwarded unchanged (R99). -/
structure Packet where
  dst     : BitVec 20 := 0
  cls     : BitVec 3 := 0
  rsv0    : BitVec 3 := 0
  field   : BitVec 6 := 0
  src     : BitVec 20 := 0
  order   : Bool := false
  transit : Bool := false
  mcast   : Bool := false
  track   : Bool := false
  rsvF    : BitVec 4 := 0
  rsv1    : BitVec 4 := 0
  pkey    : BitVec 16 := 0
  rsv2    : BitVec 3 := 0
  len     : BitVec 13 := 0
  ptype   : BitVec 8 := 0
  islot   : BitVec 8 := 0
  flow    : BitVec 16 := 0
  stamp   : BitVec 32 := 0
  tsw0    : BitVec 32 := 0
  tsw1    : BitVec 32 := 0
  rsv7    : BitVec 2 := 0
  ingress : BitVec 14 := 0
  injSeq  : BitVec 16 := 0
  payload : Bytes := []
  crc     : BitVec 32 := 0
  deriving DecidableEq, Repr

/-- The link tag of a flit (Table 4-1). -/
structure LinkTag where
  type   : BitVec 4 := 0
  vc     : BitVec 3 := 0
  seq    : BitVec 11 := 0
  cvc    : BitVec 3 := 0
  ccount : BitVec 7 := 0
  rsv    : BitVec 4 := 0
  deriving DecidableEq, Repr

/-- What the FEC decoder makes of one received slot (R320, R322, R325).
`corrected` lists the logical lane of every corrected symbol; flits are 128 raw bytes each. `symbols` gives the 514 message
symbols as they stand, whose control field says which of the other kinds the slot is. -/
inductive RxSlot where
  /-- The codeword is uncorrectable. -/
  | uncorrectable
  /-- CTYPE 0b11: reserved, discarded and counted as uncorrectable (Table 13-2). -/
  | reservedType
  /-- A DATA slot with its five flits. -/
  | data (corrected : List Nat) (flits : List Bytes)
  /-- An AM slot with the LINK word of logical lane 0 (Table 13-3), and the spare physical lane on which the logical
  lane of a sparing exchange was found by its LANE symbol, if it was (R327). -/
  | am (corrected : List Nat) (rxOk : Bool) (op : Nat) (lane : Nat) (found : Option Nat)
  /-- An RM slot. -/
  | rm (corrected : List Nat)
  /-- The message symbols 0-513 of a decodable slot, and the spare lane on which a sparing exchange found its lane. -/
  | symbols (corrected : List Nat) (message : List Nat) (found : Option Nat)
  deriving DecidableEq, Repr

/-! ## Bell-lane frames (03_bell_gates_shaping.md, Table 3-1) -/

structure MarkFrame where
  epoch  : BitVec 8 := 0
  locked : Bool := false
  child  : Bool := false
  hop    : Nat := 0
  kexp   : Nat := 0
  root   : Nat := 0
  mask   : BitVec 64 := 0
  m      : Nat := 0
  corr   : Nat := 0
  deriving DecidableEq, Repr

structure ArriveFrame where
  field : Nat := 0
  seq   : Nat := 0
  count : Nat := 0
  maxGt : Nat := 0
  deriving DecidableEq, Repr

structure ReleaseFrame where
  field  : Nat := 0
  seq    : Nat := 0
  status : Nat := 0
  gt     : Nat := 0
  deriving DecidableEq, Repr

structure FaultFrame where
  origin : Nat := 0
  cls    : Nat := 0
  source : Nat := 0
  gt     : Nat := 0
  deriving DecidableEq, Repr

/-- What the receiver of a Bell lane finds when it checks a frame (R63): the last two are a reserved TYPE byte after K28.5
and a frame led by K30.7, whose contents are not read. -/
inductive FrameCheck where
  | good | badCrc | codeViolation | disparity | reservedType | reservedLead
  deriving DecidableEq, Repr

/-- A frame that a Bell port sends (Table 3-1). -/
inductive BellFrame where
  | probe (seq : Nat)
  | echo (seq : Nat) (residence : Nat)
  | mark (f : MarkFrame)
  | arrive (f : ArriveFrame)
  | release (f : ReleaseFrame)
  | fault (f : FaultFrame)
  deriving DecidableEq, Repr

/-! ## Physical surroundings -/

/-- The straps (R36), with the role pins given as asserted or not. -/
structure Straps where
  range      : Nat := 0
  padX       : Nat := 0
  padY       : Nat := 0
  slot       : Nat := 0
  bellwether : Bool := false
  standby    : Bool := false
  deriving DecidableEq, Repr, Inhabited

/-- What a power-up or a cold reset finds (Tables 15-1 and 15-2): the outcomes of its own tests, which the
surroundings decide. Crofts are physical numbers 136 t + q, stacks are Tracts, engines are OE numbers. -/
structure PowerEnv where
  straps          : Straps := {}
  pllFault        : Option Nat := none
  railFault       : Option (Nat × Nat) := none
  fusesVote       : Bool := true
  entropyOk       : Bool := true
  sramFault       : Option Nat := none
  failedCrofts    : List Nat := []
  failedStacks    : List Nat := []
  darkEngines     : List Nat := []
  unlockedEngines : List Nat := []
  atticHeaderOk   : Bool := true
  newSeed         : Bytes := []
  badSeeds        : BitVec 2 := 0
  badKeys         : BitVec 4 := 0
  vid             : Nat := 14
  deriving DecidableEq, Repr, Inhabited

/-- Which event resets the host link (R341). -/
inductive HostResetKind where
  | perst | hotReset | linkDown | flr
  deriving DecidableEq, Repr

/-- Why a port goes down (R324). -/
inductive DownCause where
  | fecLost | signalLost | engineDark | testMode
  deriving DecidableEq, Repr

/-- What the scrubber or a read finds in one 32-byte word (R214). -/
inductive WordCheck where
  | clean | corrected | uncorrectable
  deriving DecidableEq, Repr

/-- The key under which an attention message is assembled (R232). -/
structure MsgKey where
  src     : Nat := 0
  session : Nat := 0
  req     : Nat := 0
  deriving DecidableEq, Repr

/-- The five engines of a Croft (Table 10-1). -/
inductive Engine where
  | mx | vx | mv | fp | fl
  deriving DecidableEq, Repr

/-! ## The contents of an image (11_control_words_images_verifier.md, Table 11-10)
The manual lists what each section holds and gives the sections no byte layout. -/

/-- The plan of one mesh trunk: the neighbour's index, its trunk slot and its key (R43). -/
structure TrunkPlan where
  peer : Nat := 0
  port : Nat := 0
  key  : Bytes := []
  deriving DecidableEq, Repr

/-- Planned role (R43). -/
inductive Role where
  | worker | bellwether | standby
  deriving DecidableEq, Repr, Inhabited

/-- TOPOLOGY (R43, R66): absent entries of the lists are planned NONE. -/
structure Topology where
  trunks     : List (Nat × TrunkPlan) := []
  endpoints  : List (Nat × Nat) := []
  mgmtKey    : BitVec 16 := 0
  devIndex   : Nat := 0
  role       : Role := .worker
  extentW    : Nat := 1
  extentH    : Nat := 1
  bellwether : Nat := 0
  standby    : Nat := 0
  bellCorr   : List Int := []
  sparePorts : List (Nat × Nat) := []
  deriving DecidableEq, Repr, Inhabited

/-- A rectangle of Paddocks. -/
structure Rect where
  xlo : Nat := 0
  xhi : Nat := 0
  ylo : Nat := 0
  yhi : Nat := 0
  deriving DecidableEq, Repr

/-- A right-of-way entry of one guest Field (Table 2-8); host `none` is IDLE. -/
structure RowEntry where
  host  : Option Nat := none
  rect  : Rect := {}
  share : Nat := 0
  deriving DecidableEq, Repr

/-- One Field of the Field map (R49, R52). -/
structure FieldEntry where
  id       : Nat := 0
  key      : BitVec 16 := 0
  rect     : Rect := {}
  rows     : List RowEntry := []
  spanning : Bool := false
  sysRect  : Rect := {}
  deriving DecidableEq, Repr

/-- A gate list (R81) with the port's overhead (R82). -/
structure GateList where
  overhead : Nat := 0
  windows  : List (Nat × BitVec 8) := []
  deriving DecidableEq, Repr

/-- One shaper setting of the SHAPERS section (R87). -/
structure ShaperSet where
  port      : Nat := 0
  vc        : Nat := 0
  rate      : Nat := 0
  bucket    : Nat := 0
  enable    : Bool := false
  resetMode : Bool := false
  deriving DecidableEq, Repr

/-- Where a child of a Pen node is, or a member: the inputs of a node in rank order (R141, R144, R145). -/
inductive PenInput where
  | member (rank : Nat)
  | child (node : Nat)
  deriving DecidableEq, Repr

/-- One node of a Pen policy: its ID, its level, its inputs, the devices of its stripe set and its parent. -/
structure PenNode where
  node    : Nat := 0
  level   : Nat := 0
  inputs  : List PenInput := []
  devices : List Nat := []
  parent  : Option Nat := none
  deriving DecidableEq, Repr

/-- A Pen member: its EID, the logical Croft where the member is a Croft (R270). -/
structure PenMember where
  eid   : Nat := 0
  croft : Option Nat := none
  deriving DecidableEq, Repr

/-- A Pen policy (R141). `canonNodes` is the tree of R144 with its devices, `arrivalNodes` the Arrival tree. -/
structure PenPolicy where
  tag           : Nat := 0
  plane         : Nat := 0
  members       : List PenMember := []
  canonical     : Bool := true
  arrival       : Bool := false
  waitOk        : Bool := true
  excludeOk     : Bool := true
  arrivalWindow : Nat := 256
  canonNodes    : List PenNode := []
  arrivalNodes  : List PenNode := []
  mcast         : List Nat := []
  deriving DecidableEq, Repr

/-- Cellar partitioning of one Tract (Table 8-2); an absent field is `none` (R199). -/
structure CellarPart where
  foldExtra   : Option Nat := none
  croftExtra  : Option Nat := none
  ownMax      : Option Nat := none
  mirrorMax   : Option Nat := none
  xferAttn    : Option Nat := none
  xferCroft   : Option Nat := none
  xferMirror  : Option Nat := none
  xferFold    : Option Nat := none
  retired     : Option (List Nat) := none
  partnersOut : Option (List Nat) := none
  partnersIn  : Option (List Nat) := none
  deriving DecidableEq, Repr

/-- A tick program: entry address, length and its words as the image gives them (R291, R293). -/
structure TickProgram where
  entry : Nat := 0
  len   : Nat := 0
  words : List (BitVec 256) := []
  deriving DecidableEq, Repr

/-- The CROFT section of one logical Croft (R291); a schedule entry `none` is IDLE. -/
structure CroftPlan where
  logical  : Nat := 0
  store    : List (BitVec 256) := []
  programs : List TickProgram := []
  schedule : List (Option Nat) := []
  pantry   : List (Nat × Byte) := []
  step     : BitVec 32 := 0
  capsule  : Nat := 0
  deriving DecidableEq, Repr

/-- An overlay segment: its Tract, its stack address and its bytes (R293). -/
structure OverlaySeg where
  tract : Nat := 0
  addr  : Nat := 0
  data  : Bytes := []
  deriving DecidableEq, Repr

/-- The section contents of a base image. `ordered` marks the ORDERED classes (R103). -/
structure BaseBody where
  topology : Topology := {}
  route    : List (Nat × BitVec 32) := []
  detour   : List (Nat × Byte) := []
  credit   : List (Nat × List Nat) := []
  fields   : List FieldEntry := []
  rootDir  : List (Nat × Bool × Nat) := []
  ordered  : BitVec 8 := 0x20
  deriving DecidableEq, Repr, Inhabited

/-- The section contents of a Field image. `attnCrofts` names the logical Crofts set aside for attention (R245). -/
structure FieldBody where
  key          : BitVec 16 := 0
  barOffset    : Nat := 0
  barDeadline  : Nat := 1
  participants : List Nat := []
  captureSet   : List Nat := []
  sentinel     : Nat := 4
  gates        : List (Nat × GateList) := []
  shapers      : List ShaperSet := []
  pens         : List PenPolicy := []
  cellar       : List CellarPart := []
  attnCrofts   : List Nat := []
  attnShare    : Nat := 16
  crofts       : List CroftPlan := []
  overlays     : List OverlaySeg := []
  seed         : BitVec 64 := 0
  deriving DecidableEq, Repr, Inhabited

/-- The section contents that the bytes of an image stand for. -/
inductive ImageBody where
  | base (b : BaseBody)
  | field (f : FieldBody)
  deriving DecidableEq, Repr, Inhabited

/-! ## What the device puts on its links and pins -/

/-- One output of the device. The list of them is the model's record of what leaves the package. -/
inductive Output where
  /-- A flit of 128 bytes on the port of a core slot 0-63. -/
  | flit (slot : Nat) (bytes : Bytes)
  /-- A slot of a port's stream: its 514 message symbols (R320-R322). -/
  | slot (port : Nat) (symbols : List Nat)
  /-- What an unused spare lane sends for an AM slot (R322). -/
  | spare (oe lane : Nat) (symbols : List Nat)
  /-- b symbols of the DATA slot being sent on a port are corrupted (R334). -/
  | burst (slot b : Nat)
  /-- LINK word of an AM slot: RX_OK, OP and LANE (Table 13-3). -/
  | linkWord (slot : Nat) (rxOk : Bool) (op : Nat) (lane : Nat)
  /-- A frame on a Bell port; `good` is false where its CRC is inverted or a character is spoilt. -/
  | bell (port : Nat) (frame : BellFrame) (good : Bool)
  /-- A FAULT frame, or a takeover, that goes to the fabric manager (R77, R78). -/
  | manager (frame : FaultFrame)
  | takeover (epoch : Nat)
  /-- An MSI-X message (R340). -/
  | msix (vector : Nat)
  /-- Completion of a host read of BAR0 or BAR4. -/
  | readDone (offset : Nat) (value : Word)
  | readBytes (data : Bytes)
  | completerAbort
  | unsupportedRequest
  /-- SMBus answers (R423). -/
  | smbWord (value : BitVec 16)
  | smbNack
  /-- What the test port shifts out: its selected data register (R424). -/
  | jtag (selected : Nat) (value : Word)
  /-- All optical transmission stopped (R352, R366). -/
  | dark
  deriving DecidableEq, Repr

end Sys2Proof
end

