-- ==== Sys2Proof/Syntax.lean ====
section
/-! DEFINITION. Syntax.lean: the commands of the Osale, one constructor per row of spec/opcode_table.json.
Ports are core slots 0-63 (R17), engines OE numbers, Bell ports 0 BN, 1 BE, 2 BS, 3 BW, Crofts logical numbers.
The table gives its rows no operand fields: the operands here are what the row's own rule names. -/

namespace Sys2Proof

inductive Instr where
  -- power, resets, pins
  | powerUp (env : PowerEnv)
  | powerLoss
  | strapChange (bitmap : BitVec 16)
  | hostLinkReset (kind : HostResetKind)
  | fieldReset (field : Nat) (capsule : Bool)
  | warmReset (capsule : Bool)
  | coldReset (env : PowerEnv)
  | railOutOfRange (rail mv : Nat)
  | pllLockLost (pll : Nat)
  | thermalTrip (sensor : Nat) (reading : BitVec 16)
  | throttleEval (readings : List (Nat × BitVec 16))
  | vidStep (code : Nat)
  -- optical links
  | engineModulatorsLocked (oe : Nat)
  | portLightDetected (port : Nat)
  | portAdapted (port : Nat)
  | portAligned (port : Nat) (failed : List Nat)
  | portFecLocked (port : Nat)
  | portUp (port : Nat)
  | portDown (port : Nat) (cause : DownCause) (light : Bool)
  | slotReceive (port : Nat) (slot : RxSlot)
  | laneMoveToSpare (port : Nat)
  | laneUnusable (oe lane : Nat) (dark : Bool)
  | sparingTimeout (port : Nat)
  | feedLost (oe : Nat) (feedB : Bool)
  | feedRestored (oe : Nat) (feedB : Bool)
  | opticalEngineFault (oe : Nat)
  | portTestMode (port mode : Nat)
  | injectBurst (port b : Nat)
  | injectLcrc (port : Nat)
  -- Bell ports
  | bellPortRetrain (b : Nat)
  | bellPortAligned (b peak : Nat)
  | bellInjCv (b : Nat)
  | bellInjDisp (b : Nat)
  | bellInjCrc (b : Nat)
  | bellPortTest (b test : Nat)
  -- host windows
  | bar2Write (off : Nat) (data : Bytes)
  | bar4Read (off len : Nat)
  | bar4Write (off : Nat) (data : Bytes)
  -- link retry and packets
  | ackTimer (port : Nat)
  | replayTimeout (port : Nat)
  | nakRepeat (port : Nat)
  | linkReplayFail (port : Nat)
  | creditInitSend (port : Nat)
  | packetStall (port vc : Nat)
  | egressPacketStart (egress vc ingress : Nat)
  | packetEscape (ingress egress vc : Nat)
  | orderFenceLimit (ingress cls : Nat)
  | dlvAck (p : Packet)
  | dlvAckFlush (device : Nat)
  | discover (port : Nat) (p : Packet)
  | proof (port : Nat) (p : Packet)
  | discoveryTimeout (port : Nat)
  | absentTimeout (port : Nat)
  -- the Bell
  | bellMarkSend
  | mark (b : Nat) (frame : MarkFrame) (check : FrameCheck) (stamp : Nat)
  | upstreamChoice
  | markMissed
  | standbyTakeover
  | probeSend (b : Nat)
  | probe (b seq : Nat) (check : FrameCheck) (residence : Nat)
  | echo (b seq residence : Nat) (check : FrameCheck) (stamp : Nat)
  | arrive (b : Nat) (frame : ArriveFrame) (check : FrameCheck)
  | releaseFrame (b : Nat) (frame : ReleaseFrame) (check : FrameCheck)
  | barrierRelease (field : Nat)
  | barrierTimeout (field : Nat)
  | faultFrame (b : Nat) (frame : FaultFrame) (check : FrameCheck)
  | bellPortStuck (b : Nat)
  | bellPortUnfence (b : Nat)
  | shaperApply (port vc : Nat)
  | fieldLaunchRequest (field : Nat)
  | fieldLaunch
  -- the Fold
  | penOpen (p : Packet)
  | contrib (p : Packet)
  | closingPacket (p : Packet)
  | foldChunkDone (tag step node chunk : Nat) (residueOk : Bool)
  | foldAck (p : Packet)
  | foldResend (p : Packet)
  | lateRecord (p : Packet)
  | abortRecord (p : Packet)
  | foldAbort (p : Packet)
  | arrivalWindow (tag step node chunk : Nat)
  | penDeadline (tag step node : Nat)
  | penLateAbort (tag step : Nat)
  | chunkIncomplete (tag step node chunk input : Nat)
  | penAckDeadline (tag step : Nat)
  | penAbortedExpire (tag step node : Nat)
  | tallyClear
  -- the Storekeeper and the Cellar
  | alloc (tract sid : Nat) (mirrorPool : Bool) (layers : List Nat)
  | free (tract page requester : Nat)
  | share (tract pfx grafter : Nat)
  | addOwner (tract run grafter : Nat)
  | stkRelease (tract run requester : Nat)
  | ceLimit (tract page : Nat)
  | ue (tract addr : Nat)
  | cellarScrub (tract addr : Nat) (found : WordCheck)
  | hbmChannelLost (tract : Nat) (pc : Option Nat)
  | repairQueue (tract pc page : Nat)
  | repairQuiesceStart (tract : Nat)
  | repairDone (tract : Nat) (failedRows : List Nat)
  | quiesceEnd (tract : Nat)
  | mirrorOpen (p : Packet)
  | mirrorData (p : Packet)
  | mirrorGraft (p : Packet)
  | mirrorRelease (p : Packet)
  | mirrorClose (p : Packet)
  | mirrorFetch (p : Packet)
  | mirrorAck (p : Packet)
  | mirrorFetchData (p : Packet)
  | mirrorBreak (p : Packet)
  | mirrorWaitExpire (tract sid : Nat)
  | mirrorGapTimeout (tract sid : Nat)
  | mirrorPromoteRequest (index : Nat)
  | mirrorPromote
  -- the attention service
  | assemblyPacket (slot : Nat) (p : Packet)
  | assemblyTimeout (tract : Nat) (key : MsgKey)
  | sessionOpen (tract : Nat) (key : MsgKey)
  | sessionClose (tract : Nat) (key : MsgKey)
  | append (tract : Nat) (key : MsgKey)
  | attend (tract : Nat) (key : MsgKey)
  | graft (tract : Nat) (key : MsgKey)
  | release (tract : Nat) (key : MsgKey)
  | attentionBatch (tract : Nat)
  | reclaim (tract : Nat)
  | batchLate (tract : Nat)
  | batchHung (tract : Nat) (crofts : List Nat)
  -- Crofts
  | tickProgramStart (c : Nat)
  | wordIssue (c : Nat)
  | wordRetire (c : Nat) (e : Engine)
  | mxLoad (c : Nat)
  | mxReuse (c : Nat)
  | vxAdd (c : Nat)
  | vxSub (c : Nat)
  | vxMul (c : Nat)
  | vxFma (c : Nat)
  | vxMax (c : Nat)
  | vxMin (c : Nat)
  | vxExp (c : Nat)
  | vxRecip (c : Nat)
  | vxLsum (c : Nat)
  | vxLmax (c : Nat)
  | vxConvert (c : Nat)
  | vxSplit (c : Nat)
  | mvCopy (c : Nat)
  | mvTranspose (c : Nat)
  | mvGather (c : Nat)
  | mvScatter (c : Nat)
  | mvFill (c : Nat)
  | mvOverlay (c : Nat)
  | fpSend (c : Nat)
  | fpPost (c : Nat)
  | fpPenOpen (c : Nat)
  | fpPenSend (c : Nat)
  | flNop (c : Nat)
  | flSet (c : Nat)
  | flAdd (c : Nat)
  | flTadd (c : Nat)
  | flBarrier (c : Nat)
  | croftRxPacket (c : Nat) (p : Packet)
  | croftHung (c : Nat)
  -- images and checkpoints
  | verifyBase (body : ImageBody)
  | verifyField (body : ImageBody)
  | discard
  | applyBase
  | verifyDone
  | baseImageTakeEffect
  | imgLock
  | ckptSave
  | ckptCapture
  | ckptSlotsWritten
  | ckptResume
  | ckptResumeAtCount
  | ckptCancel
  -- faults, fences, injection
  | faultRecordClose (source unit : Nat)
  | faultPulseEnd
  | captureClear
  | fence (unit : Nat)
  | unfence (unit : Nat)
  | faultInject (check width unit : Nat)
  | faultIn
  | faultInStuck
  | faultInRelease (active : Bool)
  | capsuleDone
  -- identity and management
  | attest
  | enroll
  | revoke
  | mailboxRead
  | mailboxWrite
  | mgmtRd (p : Packet)
  | mgmtWr (p : Packet)
  | mgmtRsp (p : Packet)
  | mailboxTimeout
  -- thermal, SMBus, test port
  | thmPeakClear
  | smbStatus
  | smbJuncTemp
  | smbHbmTemp
  | smbPower
  | smbDevIndex
  | smbVid
  | smbRailMv (rail : Nat)
  | jtagBypass
  | jtagIdcode
  | jtagSamplePreload
  | jtagExtest
  | jtagHighz
  | jtagClamp
  -- registers and the remaining events
  | registerWrite (off : Nat) (v : Word)
  | registerRead (off : Nat)
  | hostLinkL0
  | switchingCoreControlFault
  | crossingDieControlStateUe (unit off : Nat)
  | tableEntryRefresh (table index : Nat)
  deriving DecidableEq, Repr

end Sys2Proof
end

