-- ==== Sys2Proof/Decode.lean ====
section
/-! DEFINITION. Decode.lean: the commands that words spell. The table of the manual gives no row any bits, since a
command is an event of the device and not a word of a program, so no word spells a command. Control words of Crofts
are data of a Field image, decoded in Machine/Words.lean. -/

namespace Sys2Proof

/-- The command that a word spells by the table's bits: no row of the table has bits. Marks (DESIGN CHOICE 8). -/
def decodeTableWord (_nbits _w : Nat) : Option Instr := none

end Sys2Proof
end

