-- ==== Sys2Proof/Machine/State.lean ====
section
/-! DEFINITION. Machine/State.lean: every piece of state that the manual gives the Osale, as plain data.
Large register files and memories are tables that list only what differs from their reset value. -/

namespace Sys2Proof.Machine

/-- A table by number that lists, in rising order, only the entries that differ from a default. -/
abbrev Tab (α : Type) := List (Nat × α)

/-- Byte-addressed memory: cells with rising addresses, none equal to what an unlisted address reads as. -/
abbrev Memory := List Host.Cell

/-- Why the machine stops with a fault. -/
inductive Fault where
  /-- Raised by every meaning whose operand names a unit, lane, Tract, port or number outside the range the manual
  gives that kind of unit (R10, R17, R346): no such event exists. Safe: the device goes on, the model stops. -/
  | noSuchUnit
  deriving DecidableEq, Repr

/-- Why the machine refuses a command. -/
inductive Refusal where
  /-- Raised by an arm of exec whose command has no meaning yet. Safe. -/
  | notModelled (mnemonic : String)
  deriving DecidableEq, Repr

/-! ## Fuses, position, management (chapters 02, 15, 16) -/

/-- The one-time fuse groups (Table 15-3). -/
structure Fuses where
  grade       : Nat := 0x41
  dieRev      : Nat := 0
  fusedOff    : List Nat := []
  fp64        : Bool := true
  threePass   : Bool := true
  serial      : BitVec 64 := 0
  seedA       : Bytes := []
  markA       : Bool := false
  seedB       : Bytes := []
  markB       : Bool := false
  endorsement : Bytes := []
  keys        : List Bytes := [[], [], [], []]
  enrolled    : BitVec 4 := 1
  revoked     : BitVec 4 := 0
  deriving DecidableEq, Repr

/-- GLB block (Tables 2-3, 13-7, 15-5, 16-3, 16-4). -/
structure Glb where
  grade        : Nat := 0x41
  fuseOk       : Bool := true
  seedBad      : BitVec 2 := 0
  keyBad       : BitVec 4 := 0
  firstBoot    : Bool := false
  stage        : Nat := 0
  sinceT0      : Nat := 0
  elapsedStop  : Option Nat := none
  croftsFailed : Nat := 0
  straps       : Straps := {}
  sampled      : Bool := false
  strapChg     : Bool := false
  scratch      : Word := 0
  lockRej      : Nat := 0
  mgmtCtl      : BitVec 2 := 2
  mgmtWrite    : Bool := false
  mgmtCount    : BitVec 8 := 0
  mgmtTarget   : BitVec 14 := 0
  mgmtOff      : BitVec 26 := 0
  mgmtState    : Nat := 0
  mgmtTag      : BitVec 16 := 0
  mgmtResult   : Nat := 0
  mgmtGt       : Nat := 0
  mgmtData     : Tab Word := []
  winTract     : Nat := 0
  wrRej        : Nat := 0
  hiLatch      : Tab (Option Word) := []
  deriving DecidableEq, Repr

/-! ## Faults and the Attic (chapter 14) -/

/-- First-error capture (R348, Table 14-16); `info` holds the requester's session ID of a DOUBLE_FREE (R213). -/
structure Capture where
  valid  : Bool := false
  inj    : Bool := false
  seen   : BitVec 3 := 0
  cls    : Nat := 0
  access : Nat := 0
  unit   : Nat := 0
  addr   : Nat := 0
  info   : Nat := 0
  gt     : Nat := 0
  count  : Nat := 0
  source : Nat := 0
  deriving DecidableEq, Repr

/-- An armed injection (R356). -/
structure Injection where
  check : Nat := 0
  width : Nat := 0
  unit  : Nat := 0
  deriving DecidableEq, Repr

/-- FLT block (Tables 14-15 to 14-18) and the pins it drives and watches. -/
structure Flt where
  fatal       : Option Nat := none
  cap         : Capture := {}
  cntCe       : Nat := 0
  cntUc       : Nat := 0
  cntFt       : Nat := 0
  ucEvents    : Nat := 0
  ceEvents    : Nat := 0
  hold        : Bool := false
  injMute     : Bool := false
  classEn     : BitVec 3 := 6
  width       : Nat := 10
  pulse       : Bool := false
  pulseGt     : Nat := 0
  inStuck     : Bool := false
  inLevel     : Bool := false
  inSince     : Nat := 0
  inAction    : Nat := 1
  inCnt       : Nat := 0
  inExcess    : Nat := 0
  inBucket    : Nat := 16
  inRefill    : Nat := 0
  inExcessGt  : Option Nat := none
  injReg      : Injection := {}
  armed       : Option Injection := none
  rstCapsule  : Bool := false
  rstTier     : Nat := 0
  rstField    : Nat := 0
  rstState    : Nat := 0
  rstCode     : Nat := 0
  rstWaiting  : Option (Nat × Nat) := none
  rstSeq      : Option Nat := none
  hostSeq     : Option Nat := none
  reportCe    : Bool := false
  bellDrop    : Nat := 0
  lastSource  : Nat := 0
  perstGt     : Option Nat := none
  bootSeq     : Option Nat := none
  deriving DecidableEq, Repr

/-- A fault record (Table 14-14). -/
structure FaultRec where
  seq     : Nat := 0
  cls     : Nat := 0
  access  : Nat := 0
  source  : Nat := 0
  unit    : Nat := 0
  seen    : BitVec 3 := 0
  inj     : Bool := false
  closed  : Bool := false
  fenced  : Bool := false
  count   : Nat := 0
  addr    : Nat := 0
  gtFirst : Nat := 0
  gtLast  : Nat := 0
  info    : Nat := 0
  boot    : Nat := 0
  dev     : Nat := 0
  deriving DecidableEq, Repr

/-- A reset record (R373). -/
structure ResetRec where
  seq     : Nat := 0
  kind    : Nat := 0
  field   : Nat := 0
  cause   : Nat := 0
  boot    : Nat := 0
  gtReq   : Nat := 0
  gtDone  : Nat := 0
  capsule : Nat := 0xFF
  code    : Nat := 0
  deriving DecidableEq, Repr

/-- An image record (R373). -/
structure ImageRec where
  seq     : Nat := 0
  kind    : Nat := 0
  field   : Nat := 0
  keySlot : Nat := 0
  grade   : Nat := 0
  epoch   : Nat := 0
  boot    : Nat := 0
  gt      : Nat := 0
  build   : Nat := 0
  dev     : Nat := 0
  digest  : Bytes := []
  deriving DecidableEq, Repr

/-- One Croft's record of a hang capsule (Table 14-8). -/
structure CapsuleRec where
  logical  : Nat := 0
  physical : Nat := 0
  state    : Word := 0
  step     : BitVec 32 := 0
  prog     : Word := 0
  heads    : List (BitVec 256) := []
  flags    : List Nat := []
  pantry   : Bytes := []
  deriving DecidableEq, Repr

/-- A hang capsule (Table 14-8). -/
structure Capsule where
  cause    : Nat := 0
  field    : Nat := 0
  boot     : Nat := 0
  faultSeq : Nat := 0
  gt       : Nat := 0
  dev      : Nat := 0
  complete : Bool := false
  tflags   : List Nat := []
  records  : List CapsuleRec := []
  deriving DecidableEq, Repr

/-- A capsule request: its cause, Field, causing record and the logical Crofts it covers (R360). -/
structure CapsuleReq where
  cause    : Nat := 0
  field    : Nat := 0
  faultSeq : Nat := 0
  gt       : Nat := 0
  crofts   : List Nat := []
  deriving DecidableEq, Repr

/-- The Attic (Table 14-13) and its writer (R349, R360). -/
structure Attic where
  boots     : Nat := 0
  epoch     : Nat := 0
  faultSeq  : Nat := 0
  resetSeq  : Nat := 0
  imageSeq  : Nat := 0
  nextCap   : Nat := 0
  ring      : Tab (Option FaultRec) := []
  resets    : Tab (Option ResetRec) := []
  images    : Tab (Option ImageRec) := []
  capsules  : Tab (Option Capsule) := []
  openRecs  : List FaultRec := []
  failed    : Bool := false
  headerBad : Bool := false
  writing   : Option CapsuleReq := none
  waiting   : Option CapsuleReq := none
  capSkip   : Nat := 0
  deriving DecidableEq, Repr

/-! ## The Bell, gates and shapers (chapter 03) -/

/-- BEL_STATUS.STATE (Table 3-6). -/
inductive BellState where
  | unsync | acquire | locked | holdover
  deriving DecidableEq, Repr

/-- One Bell port: its error counts, its join delay exchanges and the marks seen on it (R64-R66, R410). `lastGt` is the GT
of its alignment or last complete frame; `markTick`, `markCount` and `multi` count valid MARKs by tick, and the ticks in a
row that brought more than one (R79). `waitQ` holds frames that a MARK holds back, with the GT since when (R64). -/
structure BellPort where
  stale     : Nat := 0
  marks     : Nat := 0
  frames    : Nat := 0
  probeSeq  : Nat := 0
  probeOut  : Option (Nat × Nat) := none
  probeAt   : Option Nat := none
  rounds    : List Int := []
  recent    : List (MarkFrame × Nat) := []
  childMark : Option (Nat × BitVec 64) := none
  lastGt    : Nat := 0
  markTick  : Nat := 0
  markCount : Nat := 0
  multi     : Nat := 0
  waitQ     : List (BellFrame × Bool × Nat) := []
  deriving DecidableEq, Repr

/-- A Field barrier at this device (R73-R75). -/
structure Barrier where
  opened    : Bool := false
  seq       : Nat := 0
  crofts    : List Nat := []
  localGt   : Option Nat := none
  children  : List (Nat × ArriveFrame) := []
  firstGt   : Option Nat := none
  sent      : Bool := false
  release   : Option (Nat × Nat) := none
  waiters   : List (Nat × Nat) := []
  deriving DecidableEq, Repr

/-- BEL block (Tables 3-5, 3-6, 16-6 to 16-8). `launchReg` is BEL_LAUNCH_CTL.FIELD as written,
`launchField` the Field that the last launch request named. -/
structure Bel where
  gt          : Nat := 0
  k           : Nat := 0
  late        : Nat := 0
  launchLo    : Word := 0
  launchHi    : Word := 0
  launchState : Nat := 0
  launchHold  : Bool := false
  launchLost  : Bool := false
  launchCode  : Nat := 0
  launchReg   : BitVec 6 := 0
  launchField : Nat := 0
  launchAt    : Nat := 0
  portValid   : Bool := false
  portSlot    : Nat := 0
  stuck       : BitVec 4 := 0
  takeover    : Bool := false
  hop         : Nat := 0x1FF
  epoch       : BitVec 8 := 0
  barLate     : Bool := false
  upstream    : Nat := 4
  role        : Role := .worker
  acting      : Bool := false
  state       : BellState := .unsync
  inTol       : Nat := 0
  missed      : Nat := 0
  latency     : Nat := 0
  lastM       : Option Nat := none
  sentM       : Option Nat := none
  root        : Nat := 0
  collect     : Option (Nat × Nat × List (Nat × MarkFrame × Nat)) := none
  everLocked  : Bool := false
  ports       : Tab BellPort := []
  barriers    : Tab Barrier := []
  faultQ      : List FaultFrame := []
  dropped     : Nat := 0
  deriving DecidableEq, Repr

/-- The servo's side of GT: its 16 fractional bits and the offset still to be slewed away, in 1/65,536 GT (R61, R67). -/
structure Clock where
  frac : BitVec 16 := 0
  slew : Int := 0
  deriving DecidableEq, Repr

/-- A shaper: staged and applied settings and its tokens in 1/256 byte (R86, R87). -/
structure Shaper where
  sRate     : BitVec 24 := 0
  sBucket   : BitVec 24 := 0
  sEnable   : Bool := false
  resetMode : Bool := false
  rate      : Nat := 0
  bucket    : Nat := 0
  enable    : Bool := false
  tokens    : Nat := 0
  deriving DecidableEq, Repr

/-- Gate list of one port with its counters (Table 16-9). -/
structure GatePort where
  valid   : Bool := false
  ovh     : Nat := 0
  ovr     : Nat := 0
  windows : List (Nat × BitVec 8) := []
  deriving DecidableEq, Repr

/-! ## Links, the switching core and routing (chapters 04, 05) -/

/-- SWC_SLOTn_STATE.DISC (Table 4-11). -/
inductive Disc where
  | unused | discovering | active | absent | quarantined
  deriving DecidableEq, Repr

/-- Per-slot registers (Tables 4-10, 4-11). -/
structure SlotReg where
  fenced     : Bool := false
  linkUp     : Bool := false
  disc       : Disc := .unused
  replayFail : Bool := false
  peerPort   : BitVec 6 := 0
  peerIdent  : BitVec 20 := 0
  stall      : Nat := 0xC35
  aged       : Nat := 0
  trunc      : Nat := 0
  orphan     : Nat := 0
  stranger   : Nat := 0
  fencedCnt  : Nat := 0
  e2e        : Nat := 0
  lcrc       : Nat := 0
  replay     : Nat := 0
  withdrawn  : Nat := 0
  deriving DecidableEq, Repr

/-- A flit for a link: its VC, type and 120-byte body, and the credit report that its tag carried at its first sending,
since a replay has the original bits (R95). -/
structure TxFlit where
  vc   : Nat := 0
  type : BitVec 4 := 0
  body : Bytes := []
  cvc  : BitVec 3 := 0
  cc   : BitVec 7 := 0
  deriving DecidableEq, Repr

/-- One optical link: go-back-N retry, credits, discovery and the slot stream (R91, R95, R118, R44, R321). `turn` is
the VC at which the interleaving of open packets goes on (R94), `slotFlits` the flits of the slot that is filling,
`rmOwed` how much of an RM slot is due, in 1/8,500. -/
structure Link where
  txSeq     : BitVec 11 := 0
  unacked   : List (BitVec 11 × TxFlit) := []
  rxSeq     : BitVec 11 := 0
  nakOut    : Bool := false
  toAck     : Nat := 0
  replays   : Nat := 0
  grants    : Option (List Nat) := none
  sent      : Tab Nat := []
  peerFreed : Tab Nat := []
  lastCc    : Tab Nat := []
  rxHeld    : Tab Nat := []
  freed     : Tab Nat := []
  cvc       : BitVec 3 := 0
  accepted  : Bool := false
  nonce     : Bytes := []
  gotDisc   : Option (Nat × Nat × Bytes) := none
  discSent  : Bool := false
  proofOk   : Bool := false
  discBad   : Bool := false
  lcrcOnce  : Bool := false
  burstOnce : Nat := 0
  turn      : Nat := 0
  slotFlits : List Bytes := []
  sinceAm   : Nat := 0
  rmOwed    : Nat := 0
  amCount   : Nat := 0
  testFlits : Nat := 0
  spaceGt   : Tab Nat := []
  deriving DecidableEq, Repr

/-- The flits of one packet that have entered the core (R94, R115): ingress slot and link VC, the flits it needs by
R97, the flits that are here with their types, how many have left every queue, whether its end has come, whether this
device cut it with an ABORT of its own, and the GT of its last flit. -/
structure Buf where
  ing    : Nat := 0
  vc     : Nat := 0
  need   : Nat := 0
  flits  : List (BitVec 4 × Bytes) := []
  freed  : Nat := 0
  closed : Bool := false
  cut    : Bool := false
  lastGt : Nat := 0
  deriving DecidableEq, Repr

/-- One copy of a packet in a virtual output queue (R104): its header, its ingress slot and link VC, its egress and
link VC, how many flits have left and how many have crossed to the egress, its admission GT, the close of its open run
(R83), the reason of an ABORT that is to end it, and its wait at the front of its queue without credit: GT of the
stretches that have ended and the start of the one under way (R127). Egress 0-127 is a core slot; 128 is the switching
core itself; 256 + n is the discovery of port n. -/
structure Waiting where
  id      : Nat := 0
  p       : Packet := {}
  ing     : Nat := 0
  inVc    : Nat := 0
  eg      : Nat := 0
  vc      : Nat := 0
  started : Bool := false
  sent    : Nat := 0
  held    : Bool := false
  mcast   : Bool := false
  admGt   : Nat := 0
  close   : Option Nat := none
  short   : Option Nat := none
  crossed : Nat := 0
  waited  : Nat := 0
  dryFrom : Option Nat := none
  deriving DecidableEq, Repr

/-- Deliveries to be reported to an ingress device (R134). -/
structure PendDlv where
  device : Nat := 0
  slot   : Nat := 0
  cls    : Nat := 0
  count  : Nat := 0
  deriving DecidableEq, Repr

/-- SWC block (Table 4-10), the links and the core's queues. The rotating pointers: `tie` by ingress slot (R125), `turnVc`
by egress (R85), `turnIn` by egress and VC (R108). `waitIn` holds packets of units whose queues are full (R111). -/
structure Swc where
  age        : Tab Nat := []
  loopOn     : Bool := false
  loopPort   : Nat := 0
  slots      : Tab SlotReg := []
  links      : Tab Link := []
  opens      : Tab (Option Nat) := []
  bufs       : Tab Buf := []
  voq        : List Waiting := []
  nextId     : Nat := 0
  admitted   : Tab Nat := []
  outstand   : Tab Nat := []
  pendDlv    : List PendDlv := []
  tie        : Tab Nat := []
  turnVc     : Tab Nat := []
  turnIn     : Tab Nat := []
  waitIn     : List (Nat × Packet) := []
  deriving DecidableEq, Repr

/-- RTE block (Table 5-7) and the order in which directions were lost (R137). -/
structure Rte where
  route     : Tab Word := []
  detour    : Tab Byte := []
  escWait   : BitVec 10 := 0x20
  fenceCls  : BitVec 8 := 0x3E
  escCnt    : Nat := 0
  detourCnt : Nat := 0
  fenceTo   : Nat := 0
  lost      : List Nat := []
  bad       : List (Nat × Nat) := []
  deriving DecidableEq, Repr

/-! ## The Fold (chapter 06) -/

/-- One segment entry of a PEN_OPEN (Table 6-5): binary32 fields as bits. -/
structure PenSeg where
  start : Nat := 0
  wnorm : BitVec 32 := 0
  scale : BitVec 32 := 0
  deriving DecidableEq, Repr

/-- The fixed part of a PEN_OPEN (Table 6-5). -/
structure PenOpenMsg where
  version     : Nat := 0
  mode        : BitVec 8 := 0
  inFmt       : Nat := 0
  lvlFmt      : BitVec 32 := 0
  chunks      : Nat := 0
  deadline    : Nat := 0
  ackDeadline : Nat := 0
  nseg        : Nat := 0
  seed        : BitVec 64 := 0
  step        : BitVec 32 := 0
  ratioLo     : BitVec 32 := 0
  ratioHi     : BitVec 32 := 0
  segs        : List PenSeg := []
  rsvClear    : Bool := true
  deriving DecidableEq, Repr

/-- A closing trailer (Table 6-6). -/
structure Trailer where
  crc       : BitVec 32 := 0
  verdict   : Nat := 0
  flags     : BitVec 4 := 0
  attempt   : Nat := 0
  count     : Nat := 0
  ovfBlocks : Nat := 0
  deriving DecidableEq, Repr

/-- A copy of a chunk from one input at a node: its data packets, scales and trailer, and whether it is complete. -/
structure ChunkIn where
  pkts    : Tab (Option Bytes) := []
  scales  : Bytes := []
  trailer : Trailer := {}
  good    : Bool := false
  firstGt : Option Nat := none
  deriving DecidableEq, Repr

/-- A node's own output of a chunk, or of one Arrival partial of it: the input copies that it sums, its bits, its
trailer's fields and the biases that its blocks leave for the next instance; `checked` shows that
its residues agreed (R192), `seq` its place in the order of arrival (R19). -/
structure ChunkOut where
  keys       : List Nat := []
  last       : Bool := true
  excluded   : Bool := false
  computed   : Bool := false
  checked    : Bool := false
  good       : Bool := false
  sent       : Bool := false
  attempt    : Nat := 0
  resendTick : Option Nat := none
  data       : Bytes := []
  scales     : Bytes := []
  flags      : BitVec 4 := 0
  count      : Nat := 0
  ovf        : Nat := 0
  bias       : List (Nat × Nat) := []
  seq        : Nat := 0
  deriving DecidableEq, Repr

/-- Pen states at a node (Table 6-10). -/
inductive PenState where
  | opened | sent | final | aborted
  deriving DecidableEq, Repr

/-- A Pen at one node of this device. Inputs are numbered in the policy's order; a copy of a chunk stands under
128 chunk + 4 input + part, an output under 4 chunk + part. `covered` and `acks` are sets of chunks as bits, by the
parent's stripe device and by member rank. `results` holds, at the home of a striped root, the result chunks of the other
stripe devices as sent. `base` and `size` are its byte range in the retention of its Tract (R217). -/
structure PenInst where
  tag       : Nat := 0
  stepLo    : Nat := 0
  node      : PenNode := {}
  arrival   : Bool := false
  policy    : PenPolicy := {}
  msg       : PenOpenMsg := {}
  raw       : Bytes := []
  state     : PenState := .opened
  tick      : Nat := 0
  tract     : Nat := 0
  base      : Nat := 0
  size      : Nat := 0
  opens     : List Nat := []
  ins       : Tab ChunkIn := []
  outs      : Tab ChunkOut := []
  results   : Tab ChunkIn := []
  parentOk  : List Nat := []
  covered   : Tab Nat := []
  sinceAck  : Tab Nat := []
  resent    : Tab Nat := []
  windows   : Tab (Option Nat) := []
  late      : List (Nat × Nat) := []
  excl      : List Nat := []
  judged    : Bool := false
  lateGt    : Option Nat := none
  lateBy    : Nat × Nat := (0, 0)
  statsTick : Option Nat := none
  acks      : Tab Nat := []
  abortTick : Nat := 0
  doneGt    : Tab (Option Nat) := []
  tallied   : Bool := false
  deriving DecidableEq, Repr

/-- A node's scale table for one Pen tag (R155, R159): bias by block number 1,024 chunk + block; `own` lists the chunks that
this device holds, in rising order; `base` is its place in the retention of its Tract. -/
structure ScaleTab where
  tag    : Nat := 0
  node   : Nat := 0
  tract  : Nat := 0
  base   : Nat := 0
  own    : List Nat := []
  bias   : Tab Nat := []
  deriving DecidableEq, Repr

/-- The Tally of one Field (R170). -/
structure Tally where
  pens  : Nat := 0
  slow  : List (Nat × Nat) := []
  hist  : Tab Nat := []
  deriving DecidableEq, Repr

/-- FLD block (Tables 6-11, 6-12) and the Pens held here. -/
structure Fld where
  insts    : List PenInst := []
  scales   : List ScaleTab := []
  abortSt  : Tab Nat := []
  stale    : Nat := 0
  lateDisc : Nat := 0
  retry    : Nat := 0
  resend   : Nat := 0
  crc      : Nat := 0
  ackTo    : Nat := 0
  tallySel : BitVec 6 := 0
  tallies  : Tab Tally := []
  lanes    : Tab (BitVec 10) := []
  residues : Tab (List Nat) := []
  nextSeq  : Nat := 0
  deriving DecidableEq, Repr

/-! ## The Cellar and the Storekeeper (chapter 08) -/

/-- Page states (Table 8-3). -/
inductive PageState where
  | free | held | shared | retired
  deriving DecidableEq, Repr

/-- A page descriptor (Table 8-3). -/
structure Desc where
  state      : PageState := .free
  retirePend : Bool := false
  damaged    : Bool := false
  mirror     : Bool := false
  mirrorPool : Bool := false
  ce         : Nat := 0
  owner      : Nat := 0xFFFFFFFF
  next       : Nat := 0xFFFFF
  fill       : Nat := 0
  run        : Nat := 0xFFFF
  layer      : Nat := 0
  lastPc     : Nat := 0
  deriving DecidableEq, Repr

/-- A session's geometry (Table 9-4). -/
structure Geometry where
  nlayer  : Nat := 0
  kvFmt   : Nat := 0
  kvHeads : Nat := 1
  group   : Nat := 1
  dim     : Nat := 64
  qmode   : Nat := 0
  scale   : BitVec 32 := 0
  posBase : Nat := 0
  deriving DecidableEq, Repr

/-- A run that a session has grafted: run number, its prefix session, RUN_OFF and tokens per layer (R240). -/
structure Graft where
  run    : Nat := 0
  pfx    : Nat := 0
  off    : Nat := 0
  tokens : Nat := 0
  deriving DecidableEq, Repr

/-- Session states (Table 9-7). -/
inductive SessState where
  | empty | active | frozen | closing
  deriving DecidableEq, Repr

/-- A session-table entry (R202, R240, R224). `copyOf` names the primary of a mirror copy. -/
structure Sess where
  state    : SessState := .empty
  geo      : Geometry := {}
  counts   : Tab Nat := []
  chains   : Tab (List Nat) := []
  grafts   : List Graft := []
  offNext  : Nat := 0
  ownOff   : Option Nat := none
  ownRun   : Option Nat := none
  mirror   : Option Nat := none
  broken   : Bool := false
  mseq     : Nat := 0
  acked    : Option Nat := none
  copyOf   : Option Nat := none
  applied  : Option Nat := none
  ahead    : Tab (Option Packet) := []
  gapTick  : Option Nat := none
  deriving DecidableEq, Repr

/-- A run record (R207) with its pages by layer. -/
structure Run where
  pfx       : Nat := 0
  owners    : List Nat := []
  lastOwner : Nat := 0xFFFFFFFF
  pages     : Tab (List Nat) := []
  tokens    : Nat := 0
  geo       : Geometry := {}
  deriving DecidableEq, Repr

/-- A mirror copy that its partner has not yet acknowledged (R225). -/
structure MirrorCopy where
  sid     : Nat := 0
  mseq    : Nat := 0
  partner : Nat := 0
  bytes   : Nat := 0
  deriving DecidableEq, Repr

/-- One Tract: Storekeeper, controller and tables (Tables 8-11 to 8-13). `early` holds mirror copies that came ahead of
their session's OPEN, each with the tick of the gap (R225). -/
structure Tract where
  fenced    : Bool := false
  quiesce   : Bool := false
  quietFrom : Nat := 0
  quietTicks : Nat := 0
  tableUe   : Bool := false
  ce        : Nat := 0
  ue        : Nat := 0
  repairs   : Nat := 0
  repairQ   : List (Nat × Nat) := []
  repairing : Bool := false
  spareUsed : Tab Nat := []
  pages     : Tab Desc := []
  sessions  : Tab (Option Sess) := []
  runs      : Tab (Option Run) := []
  reclaimQ  : List Nat := []
  mirOut    : List MirrorCopy := []
  mirHeld   : List (Nat × Packet) := []
  mirIn     : List Packet := []
  early     : List (Nat × Packet) := []
  empties   : Nat := 0
  nlo       : Nat := 0
  dfree     : Nat := 0
  deriving DecidableEq, Repr

/-- CEL block and the stacks' contents. By a word's Cellar address divided by 32, `check` holds the stored check bytes of a
32-byte word where they are not those of its code (R214), `ue` the words that events found uncorrectable. `promote` names
the lost primaries whose copies the next mark promotes (R227). -/
structure Cel where
  thresh     : BitVec 8 := 8
  autoRepair : Bool := true
  mirrorWait : BitVec 8 := 4
  lastRepair : Nat := 0
  promote    : List Nat := []
  mirBroken  : Nat := 0
  mirRej     : Nat := 0
  mem        : Memory := []
  check      : Tab (Option Bytes) := []
  ue         : List Nat := []
  tracts     : Tab Tract := []
  deriving DecidableEq, Repr

/-! ## The attention service (chapter 09) -/

/-- A message in assembly (R232); `done` is the GT at which it completed. -/
structure Assembly where
  key    : MsgKey := {}
  slot   : Nat := 0
  type   : Nat := 0
  last   : Nat := 0
  first  : Nat := 0
  pkts   : Tab (Option Bytes) := []
  marked : Bool := false
  hdr    : Packet := {}
  done   : Nat := 0
  deriving DecidableEq, Repr

/-- The five admission meters (Table 9-9a). -/
structure Meters where
  pages  : Nat := 0
  array  : Nat := 0
  vector : Nat := 0
  store  : Nat := 0
  batch  : Nat := 0
  deriving DecidableEq, Repr

/-- A request of a batch: its message, the tick it was admitted in. -/
structure Admitted where
  key  : MsgKey := {}
  slot : Nat := 0
  type : Nat := 0
  hdr  : Packet := {}
  body : Bytes := []
  tick : Nat := 0
  deriving DecidableEq, Repr

/-- A response held for the acknowledgement of a mirror partner, with the assembly space of its request (R232, R251). -/
structure HeldResp where
  sid     : Nat := 0
  mseq    : Nat := 0
  tick    : Nat := 0
  slot    : Nat := 0
  partner : Nat := 0
  space   : Nat := 0
  pkts    : List Packet := []
  deriving DecidableEq, Repr

/-- Attention section of one Tract (Tables 9-14, 9-15). -/
structure AtsTract where
  lastDetail : Nat := 0
  lastStatus : Nat := 0
  admitCnt    : Nat := 0
  busy       : Nat := 0
  large      : Nat := 0
  pagesLast  : Nat := 0
  asm        : List Assembly := []
  refused    : List (MsgKey × Nat) := []
  batchTick  : Nat := 0
  used       : Meters := {}
  batch      : List Admitted := []
  short      : List Nat := []
  held       : List HeldResp := []
  dropTick   : Option Nat := none
  deriving DecidableEq, Repr

/-- ATS block. -/
structure Ats where
  reclaimMin : Nat := 0x800
  drop       : Nat := 0
  incomplete : Nat := 0
  disc       : Nat := 0
  badReq     : Nat := 0
  tracts     : Tab AtsTract := []
  deriving DecidableEq, Repr

/-! ## Crofts (chapters 10, 11) -/

/-- A word in an engine's queue: its position in the program, the mixer step it carries, whether it has started. -/
structure QWord where
  word  : BitVec 256 := 0
  pos   : Nat := 0
  step  : BitVec 32 := 0
  done  : Bool := false
  deriving DecidableEq, Repr

/-- A resident tile of the array (R256): the word that loaded it and its K × N codes with block scales. -/
structure Tile where
  word  : BitVec 256 := 0
  elems : List Nat := []
  scale : List Nat := []
  deriving DecidableEq, Repr

/-- A posted receive of DATA or of an attention response under a tag (R269): its buffer, length and flag, the byte
ranges or packets received so far, and how many packets a response has. -/
structure Post where
  response : Bool := false
  tag      : Nat := 0
  buf      : Nat := 0
  len      : Nat := 0
  flag     : Nat := 0
  got      : List (Nat × Nat) := []
  total    : Option Nat := none
  deriving DecidableEq, Repr

/-- A Pen's posted result buffer (R269, R281) and what the fabric port holds of the Pen as a member (R169): the data
packets of each chunk as bits, the committed chunks as bits, chunks committed since the last ACK, the parts of STATS. -/
structure PenPost where
  tag       : Nat := 0
  stepLo    : Nat := 0
  rank      : Nat := 0
  arrival   : Bool := false
  fmt       : Nat := 0
  chunks    : Nat := 0
  buf       : Nat := 0
  flag      : Nat := 0
  data      : Tab Nat := []
  committed : Nat := 0
  sinceAck  : Nat := 0
  statsNeed : Option Nat := none
  statsGot  : Nat := 0
  deriving DecidableEq, Repr

/-- The tick program that a Croft runs: number, next word and words left to issue (R291). -/
structure Running where
  index  : Nat := 0
  next   : Nat := 0
  issued : Nat := 0
  len    : Nat := 0
  deriving DecidableEq, Repr

/-- One physical Croft with its window (Tables 10-6, 10-7, 11-15, 7-12). `entries` counts the marks of the run that it
has met, `shift` those that a quiesce of its Tract kept from it (R220); `fencedTick` is the tick of its fence (R245).
`lambda` is the array's level as it last streamed, `restCc` the core cycle of its last bit-plane since, `lastMx` the program's
last MX word (R258, R259). `busyGt` is the GT of its last start, issue or retirement of a word, `flagGt` when each flag last
changed value (R303). -/
structure Croft where
  fenced    : Bool := false
  fencedTick : Option Nat := none
  hung      : Bool := false
  fused     : Bool := false
  failed    : Bool := false
  spare     : Bool := false
  attn      : Bool := false
  logical   : Option Nat := none
  conflict  : Nat := 0
  rxDrop    : Nat := 0
  ramp      : Nat := 0
  overrun   : Nat := 0
  ovfBlocks : Nat := 0
  nonfinite : Bool := false
  invalid   : Bool := false
  overflow  : Bool := false
  histSat   : Bool := false
  step      : BitVec 32 := 0
  flags     : Tab Nat := []
  pantry    : Memory := []
  store     : Tab (BitVec 256) := []
  softWords : List Nat := []
  badWords  : List Nat := []
  mx        : List QWord := []
  vx        : List QWord := []
  mv        : List QWord := []
  fp        : List QWord := []
  fl        : List QWord := []
  prog      : Option Running := none
  lastProg  : Nat := 0
  active    : Option Tile := none
  shadow    : Option Tile := none
  lambda    : Nat := 0
  restCc    : Option Nat := none
  lastMx    : Option (BitVec 256) := none
  busyGt    : Nat := 0
  flagGt    : Tab Nat := []
  overran   : Bool := false
  entries   : Nat := 0
  shift     : Nat := 0
  posts     : List Post := []
  requests  : List Nat := []
  pens      : List PenPost := []
  deriving DecidableEq, Repr

/-- CRF block: physical Crofts, the logical map and Tract flags, and the Field's run (R273, R289, R291). `halted`
shows that the Crofts have stopped for the capsule of a reset (R361); `tflagGt` holds when each Tract flag last changed
value (R303). -/
structure Crf where
  crofts    : Tab Croft := []
  lmap      : Tab (Option Nat) := []
  tflags    : Tab Nat := []
  tflagGt   : Tab Nat := []
  running   : Bool := false
  launchGt  : Nat := 0
  runsBase  : Nat := 0
  runs      : Nat := 0
  paused    : Bool := false
  halted    : Bool := false
  deriving DecidableEq, Repr

/-! ## Images (chapters 11, 12) -/

/-- IMG_STATUS.STATE (Table 11-14). -/
inductive ImgState where
  | idle | busy | staged | fail
  deriving DecidableEq, Repr

/-- The fields of an image header that later rules use (Table 11-9). -/
structure ImgHeader where
  kind     : Nat := 0
  grade    : Nat := 0
  epoch    : Nat := 0
  kexp     : Nat := 0
  field    : Nat := 0
  sections : Nat := 0
  devIndex : Nat := 0
  keySlot  : Nat := 0
  length   : Nat := 0
  build    : Nat := 0
  deriving DecidableEq, Repr

/-- A verified image: header, digest, section contents, and the digest of the sections that a checkpoint depends on
(PDIGEST, Table 12-5). -/
structure Image where
  hdr     : ImgHeader := {}
  digest  : Bytes := []
  body    : ImageBody := .base {}
  pdigest : Bytes := []
  deriving DecidableEq, Repr

/-- IMG block (Tables 11-12 to 11-14a, 12-6 to 12-8). `checkLen` is IMG_LEN as a verification takes it; `guestKeys` are the
partition keys in force for Fields that this device's Paddock is lent to, where a launch has changed them (R50). -/
structure Img where
  lock       : Bool := false
  atticWin   : Bool := false
  len        : BitVec 29 := 0
  state      : ImgState := .idle
  cmdLost    : Bool := false
  kind       : Nat := 0
  code       : Nat := 0
  sect       : Nat := 0
  errA       : Word := 0
  errB       : Word := 0
  applyLo    : Word := 0
  applyHi    : Word := 0
  applyAt    : Nat := 0
  applyState : Nat := 0
  applyCode  : Nat := 0
  buf        : Memory := []
  checking   : Option (Nat × ImageBody) := none
  checkLen   : Nat := 0
  staged     : Option Image := none
  base       : Option Image := none
  fieldImg   : Option Image := none
  guestKeys  : Tab (BitVec 16) := []
  restore    : Bool := false
  ckptLo     : Word := 0
  ckptHi     : Word := 0
  ckptAt     : Nat := 0
  ckptState  : Nat := 0
  ckptDone   : Bool := false
  ckptCode   : Nat := 0
  captureUs  : Nat := 0
  deriving DecidableEq, Repr

/-! ## Links' physical side (chapter 13) -/

/-- One optical engine (Table 13-10). -/
structure OptEngine where
  fenced     : Bool := false
  dark       : Bool := true
  lostA      : Bool := false
  lostB      : Bool := false
  singleFeed : Bool := false
  broadFault : Bool := false
  thr        : Nat := 14
  autoSpare  : Bool := true
  powerA     : BitVec 16 := 0
  powerB     : BitVec 16 := 0
  badLanes   : List (Nat × Nat) := []
  deriving DecidableEq, Repr

/-- LNK_OEn_Pq_STATE.TSTATE (Table 13-11). -/
inductive TState where
  | off | dark | adapt | align | fec | up | test
  deriving DecidableEq, Repr

/-- A sparing exchange that this port, as receiver, has under way: the logical lane of the port and whether the lane
has lost its light (R326, R327). -/
structure Sparing where
  lane : Nat := 0
  dark : Bool := false
  deriving DecidableEq, Repr

/-- One optical port (Table 13-9). -/
structure OptPort where
  tstate    : TState := .off
  light     : Bool := false
  rxOk      : Bool := false
  peerRxOk  : Bool := false
  sparing   : Option Sparing := none
  spareQ    : List Sparing := []
  noSpare   : Bool := false
  exchanges : Nat := 0
  request   : Option Nat := none
  peerSparing : Bool := false
  cwc       : Nat := 0
  cwu       : Nat := 0
  fecMax    : Nat := 0
  symRate   : BitVec 5 := 0
  mode      : Nat := 0
  testErr   : Nat := 0
  testNext  : Option Nat := none
  deriving DecidableEq, Repr

/-- One physical lane (Table 13-12); logical lanes are of the engine. `recent` holds the GT of each corrected symbol of
the lane's window (R326). -/
structure Lane where
  tx       : Option Nat := none
  txFailed : Bool := false
  rx       : Option Nat := none
  rxFailed : Bool := false
  sym      : Nat := 0
  gen      : BitVec 3 := 0
  chk      : BitVec 3 := 0
  patErr   : Nat := 0
  recent   : List Nat := []
  deriving DecidableEq, Repr

/-- LNK block. Lanes that are not listed ride their home map (R317). -/
structure Lnk where
  engines : Tab OptEngine := []
  ports   : Tab OptPort := []
  lanes   : Tab (Option Lane) := []
  deriving DecidableEq, Repr

/-- One Bell port's physical side (Tables 13-13, 13-14). -/
structure BlnPort where
  signal   : Bool := false
  aligned  : Bool := false
  peakUsed : Nat := 0
  cv       : Nat := 0
  disp     : Nat := 0
  prbsErr  : Nat := 0
  injCv    : Bool := false
  injDisp  : Bool := false
  injCrc   : Bool := false
  test     : Nat := 0
  auto     : Bool := true
  peak     : BitVec 4 := 6
  deriving DecidableEq, Repr

/-! ## Security, thermal, host link, pins (chapters 15, 16, 17) -/

/-- SEC block (Table 15-9). -/
structure Sec where
  cmd    : BitVec 2 := 0
  state  : Nat := 0
  code   : Nat := 0
  nonce  : Tab Word := []
  report : Bytes := []
  pubkey : Bytes := []
  deriving DecidableEq, Repr

/-- One temperature sensor: CUR and PEAK in 0.125 °C (Table 16-10). -/
structure Temp where
  cur  : BitVec 16 := 0
  peak : BitVec 16 := 0
  deriving DecidableEq, Repr

/-- THM block (Tables 16-10, 16-11). -/
structure Thm where
  trip      : Bool := false
  sensor    : Nat := 0
  level     : Nat := 0
  quiet     : Nat := 0
  hbmThr    : Nat := 90
  juncThr   : Nat := 100
  throttled : Nat := 0
  power     : BitVec 12 := 0
  temps     : Tab Temp := []
  deriving DecidableEq, Repr

/-- The host link and its MSI-X table and pending bits (R340, R341). -/
structure HostLink where
  l0      : Bool := true
  table   : Tab Word := []
  pend    : BitVec 64 := 0
  deriving DecidableEq, Repr

/-- Pins, rails and the test port (chapter 17). -/
structure Pins where
  pwrGood   : Bool := true
  released  : Bool := false
  vid       : Nat := 31
  vidGt     : Option Nat := none
  rails     : Tab (BitVec 16) := []
  jtagIr    : Nat := 1
  deriving DecidableEq, Repr

/-- The Osale. `pending` is the queue of commands that wait, first in, first out; `inbox` holds packets that the
core has delivered to a slot inside the package; `out` is everything the device has put on its links and pins,
newest first; `draws` counts the free values drawn so far. -/
structure State where
  pending : List Instr := []
  fuses   : Fuses := {}
  glb     : Glb := {}
  flt     : Flt := {}
  attic   : Attic := {}
  bel     : Bel := {}
  clock   : Clock := {}
  shapers : Tab Shaper := []
  gates   : Tab GatePort := []
  swc     : Swc := {}
  rte     : Rte := {}
  fld     : Fld := {}
  cel     : Cel := {}
  ats     : Ats := {}
  crf     : Crf := {}
  img     : Img := {}
  lnk     : Lnk := {}
  bln     : Tab BlnPort := []
  sec     : Sec := {}
  thm     : Thm := {}
  host    : HostLink := {}
  pins    : Pins := {}
  inbox   : List (Nat × Packet) := []
  out     : List Output := []
  draws   : Nat := 0
  deriving DecidableEq, Repr

/-- Right after reset: STAGE 0, every register at the reset value its table gives, every memory empty, no command
waiting. Values that no table gives are named in notes/assumptions. Marks (DESIGN CHOICE 15, 16, 18, 19). -/
def State.reset : State := {}

end Sys2Proof.Machine
end

