-- ==== Sys2Proof/Machine/Bits.lean ====
section
/-! DEFINITION. Machine/Bits.lean: byte order, bit fields, saturating counts and the CRCs of the manual. -/

namespace Sys2Proof.Machine

/-- The number that a byte string spells, most significant byte first (R7). -/
def beNat : Bytes → Nat := fun bs => bs.foldl (fun n b => n * 256 + b.toNat) 0

/-- `n` bytes of a number, most significant byte first (R7). -/
def beBytes (n v : Nat) : Bytes := (List.range n).map (fun i => BitVec.ofNat 8 (v >>> (8 * (n - 1 - i))))

/-- The number that a byte string spells, least significant byte first. -/
def leNat : Bytes → Nat := fun bs => bs.foldr (fun b n => n * 256 + b.toNat) 0

/-- `n` bytes of a number, least significant byte first. -/
def leBytes (n v : Nat) : Bytes := (List.range n).map (fun i => BitVec.ofNat 8 (v >>> (8 * i)))

/-- Bits [hi:lo] of a number. -/
def bits (v hi lo : Nat) : Nat := (v >>> lo) % 2 ^ (hi + 1 - lo)

/-- Bit i of a number. -/
def bit (v i : Nat) : Bool := v.testBit i

/-- A flag as a number. -/
def ofBool (b : Bool) : Nat := if b then 1 else 0

/-- Bytes [off, off + n) of a string, zero where the string has ended. -/
def slice (bs : Bytes) (off n : Nat) : Bytes := let t := (bs.drop off).take n; t ++ List.replicate (n - t.length) 0

/-- The number in bytes [off, off + n), most significant byte first. -/
def beAt (bs : Bytes) (off n : Nat) : Nat := beNat (slice bs off n)

/-- Saturating increment (R7, R343, R375). -/
def satAdd (lim v n : Nat) : Nat := min lim (v + n)

/-- One count of a 32-bit saturating counter. -/
def sat32 (v : Nat) : Nat := satAdd 0xFFFFFFFF v 1

/-- Two's complement reading of an n-bit number. -/
def toInt (n v : Nat) : Int := if v.testBit (n - 1) then (v : Int) - 2 ^ n else v

/-- Two's complement n-bit code of an integer. -/
def ofInt (n : Nat) (v : Int) : Nat := (v % (2 ^ n : Int)).toNat

/-- One bit of a CRC of `w` bits, most significant bit first. -/
def crcBit (w poly c : Nat) (b : Bool) : Nat :=
  let top := c.testBit (w - 1) != b
  let c := (c * 2) % 2 ^ w
  if top then c ^^^ poly else c

/-- One byte of a CRC, most significant bit first. -/
def crcByte (w poly c : Nat) (b : Byte) : Nat :=
  [7, 6, 5, 4, 3, 2, 1, 0].foldl (fun c i => crcBit w poly c (b.toNat.testBit i)) c

/-- A CRC over a byte string: `w` bits, polynomial, initial value, final inversion mask. -/
def crc (w poly init fin : Nat) (bs : Bytes) : Nat := (bs.foldl (crcByte w poly) init) ^^^ fin

/-- CRC-8 of Bell-lane frames: x^8 + x^2 + x + 1, initial value 0 (chapter 3). -/
def crc8 (bs : Bytes) : Nat := crc 8 0x07 0 0 bs

/-- All the positions below `n` at which a mask of bits is set, in rising order. -/
def setBits (n v : Nat) : List Nat := (List.range n).filter (fun i => v.testBit i)

/-- A list with the element at a position replaced. -/
def setAt {α : Type} : List α → Nat → α → List α
  | [], _, _ => []
  | _ :: r, 0, x => x :: r
  | y :: r, n + 1, x => y :: setAt r n x

/-- Insertion into a rising list without repeats. -/
def insertUp (n : Nat) : List Nat → List Nat
  | [] => [n]
  | m :: r => if n < m then n :: m :: r else if n = m then m :: r else m :: insertUp n r

/-- Insertion into a rising list that may hold repeats. -/
def putUp (n : Nat) : List Nat → List Nat
  | [] => [n]
  | m :: r => if n ≤ m then n :: m :: r else m :: putUp n r

/-- A list in rising order. -/
def sortUp (l : List Nat) : List Nat := l.foldr putUp []

/-! ## Tables by number -/

/-- The entry under a number, or the default. Marks (DESIGN CHOICE 12). -/
def Tab.look {α : Type} (d : α) : Tab α → Nat → α
  | [], _ => d
  | (j, v) :: r, k => if j = k then v else Tab.look d r k

/-- The table with an entry set in its place. -/
def Tab.add {α : Type} (k : Nat) (v : α) : Tab α → Tab α
  | [] => [(k, v)]
  | (j, w) :: r => if k < j then (k, v) :: (j, w) :: r else if k = j then (k, v) :: r else (j, w) :: Tab.add k v r

/-- The table without an entry. -/
def Tab.drop {α : Type} (k : Nat) : Tab α → Tab α
  | [] => []
  | (j, w) :: r => if j = k then Tab.drop k r else (j, w) :: Tab.drop k r

/-- Set an entry; a default value is not listed. -/
def Tab.put {α : Type} [DecidableEq α] (d : α) (t : Tab α) (k : Nat) (v : α) : Tab α :=
  if v = d then Tab.drop k t else Tab.add k v t

/-- Change an entry. -/
def Tab.edit {α : Type} [DecidableEq α] (d : α) (t : Tab α) (k : Nat) (f : α → α) : Tab α :=
  Tab.put d t k (f (Tab.look d t k))

/-- The canonical form: numbers strictly rising, and no entry equal to the default. -/
def Tab.wf {α : Type} [DecidableEq α] (d : α) : Tab α → Bool
  | [] => true
  | (k, v) :: r => decide (v ≠ d) && r.all (fun e => k < e.1) && Tab.wf d r

/-! ## Memories -/

/-- What a byte that nothing has written reads as. DESIGN CHOICE: the manual gives no power-on contents. Marks (DESIGN CHOICE 13). -/
def Memory.blank : Byte := 0

/-- One byte of a memory. -/
def Memory.read (m : Memory) (a : Nat) : Byte := Tab.look Memory.blank m a

/-- `n` bytes of a memory. -/
def Memory.readN (m : Memory) (a n : Nat) : Bytes := (List.range n).map (fun i => Memory.read m (a + i))

/-- Write one byte. -/
def Memory.write (m : Memory) (a : Nat) (b : Byte) : Memory := Tab.put Memory.blank m a b

/-- Write a byte string from an address upward. -/
def Memory.writeN (m : Memory) (a : Nat) : Bytes → Memory
  | [] => m
  | b :: r => Memory.writeN (Memory.write m a b) (a + 1) r

/-- Remove `[a, a + n)` of a memory: those bytes read as blank. -/
def Memory.clear (m : Memory) (a n : Nat) : Memory := m.filter (fun c => !(a ≤ c.1 && c.1 < a + n))

/-- The canonical form of a memory. -/
abbrev Memory.wf (m : Memory) : Bool := Tab.wf Memory.blank m

end Sys2Proof.Machine
end

