-- ==== Sys2Proof/Machine/Keccak.lean ====
section
/-! DEFINITION. Machine/Keccak.lean: SHAKE128 and SHAKE256 of FIPS 202, which R296, R391 and their neighbours name.
The algorithm is taken from that standard. A state is its 25 lanes, lane x + 5 y first by x. -/

namespace Sys2Proof.Machine

/-- A 64-bit lane rotated left. -/
def rotLane (n v : Nat) : Nat := (v <<< n % 2 ^ 64) ||| (v >>> (64 - n))

/-- Rotation of lane x + 5 y in step rho. -/
def rhoOffsets : List Nat :=
  [0, 1, 62, 28, 27, 36, 44, 6, 55, 20, 3, 10, 43, 25, 39, 41, 45, 15, 21, 8, 18, 2, 61, 56, 14]

/-- Round constants of step iota. -/
def roundConstants : List Nat :=
  [0x0000000000000001, 0x0000000000008082, 0x800000000000808A, 0x8000000080008000, 0x000000000000808B,
   0x0000000080000001, 0x8000000080008081, 0x8000000000008009, 0x000000000000008A, 0x0000000000000088,
   0x0000000080008009, 0x000000008000000A, 0x000000008000808B, 0x800000000000008B, 0x8000000000008089,
   0x8000000000008003, 0x8000000000008002, 0x8000000000000080, 0x000000000000800A, 0x800000008000000A,
   0x8000000080008081, 0x8000000000008080, 0x0000000080000001, 0x8000000080008008]

/-- Step theta. -/
def thetaStep (a : List Nat) : List Nat :=
  let c := (List.range 5).map (fun x => (List.range 5).foldl (fun v y => v ^^^ a.getD (x + 5 * y) 0) 0)
  let d := (List.range 5).map (fun x => c.getD ((x + 4) % 5) 0 ^^^ rotLane 1 (c.getD ((x + 1) % 5) 0))
  a.zipIdx.map (fun e => e.1 ^^^ d.getD (e.2 % 5) 0)

/-- Steps rho and pi: lane (x, y) comes from lane (x + 3 y, x). -/
def rhoPi (a : List Nat) : List Nat :=
  let r := List.zipWith rotLane rhoOffsets a
  (List.range 25).map (fun i => r.getD ((i % 5 + 3 * (i / 5)) % 5 + 5 * (i % 5)) 0)

/-- Step chi. -/
def chiStep (a : List Nat) : List Nat :=
  (List.range 25).map (fun i =>
    let l := fun (x : Nat) => a.getD (5 * (i / 5) + x % 5) 0
    l i ^^^ ((2 ^ 64 - 1 - l (i + 1)) &&& l (i + 2)))

/-- Keccak-f[1600]. -/
def keccakF (a : List Nat) : List Nat :=
  roundConstants.foldl (fun a rc => match chiStep (rhoPi (thetaStep a)) with
    | [] => []
    | l :: r => (l ^^^ rc) :: r) a

/-- A block of `8 n` bytes is added to the first n lanes. -/
def absorbBlock (n : Nat) (a : List Nat) (block : Bytes) : List Nat :=
  keccakF (a.zipIdx.map (fun e => if e.2 < n then e.1 ^^^ leNat ((block.drop (8 * e.2)).take 8) else e.1))

/-- Whole blocks of a padded message. -/
def absorbBlocks (n : Nat) : Nat → Bytes → List Nat → List Nat
  | 0, _, a => a
  | k + 1, m, a => absorbBlocks n k (m.drop (8 * n)) (absorbBlock n a (m.take (8 * n)))

/-- The padding of SHAKE to whole blocks of `r` bytes. -/
def shakePad (r : Nat) (m : Bytes) : Bytes :=
  let z := r - 1 - m.length % r
  if z = 0 then m ++ [0x9F] else m ++ [0x1F] ++ List.replicate (z - 1) 0 ++ [0x80]

/-- `k` blocks of output. -/
def squeezeBlocks (n : Nat) : Nat → List Nat → Bytes
  | 0, _ => []
  | k + 1, a => (a.take n).flatMap (leBytes 8) ++ squeezeBlocks n k (keccakF a)

/-- SHAKE with a rate of `8 n` bytes and `out` bytes of output. -/
def shake (n out : Nat) (m : Bytes) : Bytes :=
  let p := shakePad (8 * n) m
  (squeezeBlocks n ((out + 8 * n - 1) / (8 * n)) (absorbBlocks n (p.length / (8 * n)) p (List.replicate 25 0))).take out

def shake128 (out : Nat) (m : Bytes) : Bytes := shake 21 out m
def shake256 (out : Nat) (m : Bytes) : Bytes := shake 17 out m

/-- The 64-byte SHAKE256 digest that images, capsules and attestations carry (R296). -/
def digest (m : Bytes) : Bytes := shake256 64 m

end Sys2Proof.Machine
end

