-- ==== Sys2Proof/Machine/Mldsa.lean ====
section
/-! DEFINITION. Machine/Mldsa.lean: ML-DSA-65 of FIPS 204 with the empty context string: the public key of a seed (R391),
signing with a signer's random bytes (R44, R392, R396) and verification (R44, R296, R395). The algorithms are taken from
that standard, which the manual names. A polynomial is its 256 coefficients modulo q. -/

namespace Sys2Proof.Machine

/-! ## Parameters and arithmetic -/

abbrev Poly := List Nat

def dsaQ : Nat := 8380417
def dsaGamma1 : Nat := 2 ^ 19
def dsaGamma2 : Nat := (dsaQ - 1) / 32
/-- beta = tau · eta. -/
def dsaBeta : Nat := 196
def dsaRows : Nat := 6
def dsaCols : Nat := 5
def dsaOmega : Nat := 55

/-- The seven or eight low bits of a number in reverse. -/
def bitRev8 (m : Nat) : Nat := (List.range 8).foldl (fun v i => 2 * v + (m >>> i) % 2) 0

/-- A power modulo q by repeated squaring, 16 bits of exponent. -/
def powQ (b e : Nat) : Nat :=
  ((List.range 16).reverse).foldl (fun v i => (v * v % dsaQ) * (if e.testBit i then b else 1) % dsaQ) 1

/-- 1753 to the power of the bit-reversed index. -/
def zetas : List Nat := (List.range 256).map (fun m => powQ 1753 (bitRev8 m))
/-- Their inverses: 1753 has order 512. -/
def zetasInv : List Nat := (List.range 256).map (fun m => powQ 1753 ((512 - bitRev8 m) % 512))

def addQ (a b : Nat) : Nat := (a + b) % dsaQ
def subQ (a b : Nat) : Nat := (a + dsaQ - b % dsaQ) % dsaQ
def mulQ (a b : Nat) : Nat := a * b % dsaQ

def polyAdd (a b : Poly) : Poly := List.zipWith addQ a b
def polySub (a b : Poly) : Poly := List.zipWith subQ a b
/-- The product of transforms. -/
def polyMulNtt (a b : Poly) : Poly := List.zipWith mulQ a b
def polyZero : Poly := List.replicate 256 0

/-- The transform of a stretch of 2^n coefficients, of index m in the tree of roots. -/
def nttFrom : Nat → Nat → Poly → Poly
  | 0, _, a => a
  | n + 1, m, a =>
    let t := (a.drop (2 ^ n)).map (mulQ (zetas.getD m 0))
    let lo := a.take (2 ^ n)
    nttFrom n (2 * m) (List.zipWith addQ lo t) ++ nttFrom n (2 * m + 1) (List.zipWith subQ lo t)

/-- Its inverse, but for the factor 2^n. -/
def inttFrom : Nat → Nat → Poly → Poly
  | 0, _, a => a
  | n + 1, m, a =>
    let lo := inttFrom n (2 * m) (a.take (2 ^ n))
    let hi := inttFrom n (2 * m + 1) (a.drop (2 ^ n))
    List.zipWith addQ lo hi ++ (List.zipWith subQ lo hi).map (mulQ (zetasInv.getD m 0))

def ntt (a : Poly) : Poly := nttFrom 8 1 a
def intt (a : Poly) : Poly := (inttFrom 8 1 a).map (mulQ 8347681)

/-- The residue of least size. -/
def centred (a : Nat) : Int := if a ≤ (dsaQ - 1) / 2 then a else (a : Int) - dsaQ
/-- An integer modulo q. -/
def ofCentred (i : Int) : Nat := (i % (dsaQ : Int)).toNat
/-- The largest size of a coefficient. -/
def polyNorm (a : Poly) : Nat := (a.map (fun c => (centred c).natAbs)).foldl max 0
def vecNorm (v : List Poly) : Nat := (v.map polyNorm).foldl max 0

/-! ## Rounding -/

/-- r modulo 2 g, of least size. -/
def modPm (r m : Nat) : Int :=
  let x : Nat := r % m
  if x ≤ m / 2 then (x : Int) else (x : Int) - m

/-- High and low parts by 2^13. -/
def power2Round (r : Nat) : Nat × Int := let r0 := modPm r 8192; (((r : Int) - r0).toNat / 8192, r0)

/-- High and low parts by 2 gamma2. -/
def decompose (r : Nat) : Nat × Int :=
  let r0 := modPm r (2 * dsaGamma2)
  if (r : Int) - r0 = dsaQ - 1 then (0, r0 - 1) else (((r : Int) - r0).toNat / (2 * dsaGamma2), r0)

/-- The high part that a hint corrects. -/
def useHint (h : Bool) (r : Nat) : Nat :=
  let (r1, r0) := decompose r
  if !h then r1 else if 0 < r0 then (r1 + 1) % 16 else (r1 + 15) % 16

/-! ## Strings of bits -/

/-- Coefficients of w bits, the first one lowest. -/
def packBits (w : Nat) (l : List Nat) : Bytes :=
  leBytes (w * l.length / 8) (l.foldr (fun v n => n * 2 ^ w + v) 0)

/-- n coefficients of w bits. -/
def unpackBits (w n : Nat) (bs : Bytes) : List Nat :=
  let v := leNat bs
  (List.range n).map (fun i => (v >>> (w * i)) % 2 ^ w)

/-- Polynomials of w bits a coefficient, one after the other. -/
def unpackVec (w : Nat) : Nat → Bytes → List (List Nat)
  | 0, _ => []
  | k + 1, bs => unpackBits w 256 (bs.take (32 * w)) :: unpackVec w k (bs.drop (32 * w))

/-! ## Sampling -/

/-- Coefficients below q from 3-byte groups. -/
def rejectNtt : Nat → Nat → Bytes → Poly
  | 0, _, _ => []
  | _ + 1, 0, _ => []
  | f + 1, n + 1, a :: b :: c :: r =>
    let z := a.toNat + 256 * b.toNat + 65536 * (c.toNat % 128)
    if z < dsaQ then z :: rejectNtt f n r else rejectNtt f (n + 1) r
  | _ + 1, _ + 1, _ => []

/-- A polynomial of the matrix, in the domain of transforms. -/
def matrixPoly (rho : Bytes) (r c : Nat) : Poly :=
  rejectNtt 1008 256 (shake128 1008 (rho ++ [BitVec.ofNat 8 c, BitVec.ofNat 8 r]))

def matrixOf (rho : Bytes) : List (List Poly) :=
  (List.range dsaRows).map (fun r => (List.range dsaCols).map (matrixPoly rho r))

/-- Matrix times vector, both as transforms. -/
def matrixMul (m : List (List Poly)) (v : List Poly) : List Poly :=
  m.map (fun row => (List.zipWith polyMulNtt row v).foldl polyAdd polyZero)

/-- Coefficients from -4 to 4 from half bytes. -/
def rejectBounded (n : Nat) (bs : Bytes) : Poly :=
  (((bs.flatMap (fun b => [b.toNat % 16, b.toNat / 16])).filter (· < 9)).take n).map (fun (v : Nat) => ofCentred (4 - (v : Int)))

/-- A secret polynomial. -/
def secretPoly (seed : Bytes) (i : Nat) : Poly := rejectBounded 256 (shake256 544 (seed ++ leBytes 2 i))

/-- The places and signs of a challenge, from its bytes after the sign bits. -/
def ballFrom (signs : Nat) : Nat → Nat → Bytes → Poly → Poly
  | 0, _, _, c => c
  | _ + 1, _, [], c => c
  | f + 1, i, b :: r, c =>
    let j := b.toNat
    if 256 ≤ i then c
    else if i < j then ballFrom signs f i r c
    else
      let moved := c.set i (c.getD j 0)
      ballFrom signs f (i + 1) r (moved.set j (if signs.testBit (i - 207) then dsaQ - 1 else 1))

/-- The challenge: 49 coefficients of 1 or -1. -/
def sampleBall (seed : Bytes) : Poly :=
  let bs := shake256 272 seed
  ballFrom (leNat (bs.take 8)) 272 207 (bs.drop 8) polyZero

/-- A masking polynomial. -/
def maskPoly (seed : Bytes) (k : Nat) : Poly :=
  (unpackBits 20 256 (shake256 640 (seed ++ leBytes 2 k))).map (fun (v : Nat) => ofCentred ((dsaGamma1 : Int) - v))

/-! ## Keys -/

/-- The parts of a key pair that its seed gives. -/
structure DsaKey where
  rho : Bytes
  key : Bytes
  s1  : List Poly
  s2  : List Poly
  t   : List Poly

/-- The key pair of a seed. -/
def dsaKey (seed : Bytes) : DsaKey :=
  let x := shake256 128 (seed ++ [BitVec.ofNat 8 dsaRows, BitVec.ofNat 8 dsaCols])
  let rho := x.take 32
  let s1 := (List.range dsaCols).map (secretPoly ((x.drop 32).take 64))
  let s2 := (List.range dsaRows).map (fun i => secretPoly ((x.drop 32).take 64) (i + dsaCols))
  let t := List.zipWith polyAdd ((matrixMul (matrixOf rho) (s1.map ntt)).map intt) s2
  { rho := rho, key := x.drop 96, s1 := s1, s2 := s2, t := t }

/-- The 1,952 bytes of its public key. -/
def DsaKey.public (k : DsaKey) : Bytes := k.rho ++ k.t.flatMap (fun p => packBits 10 (p.map (fun r => (power2Round r).1)))

/-- The public key of a seed. -/
def mldsaPublic (seed : Bytes) : Bytes := (dsaKey seed).public

/-! ## Signatures -/

/-- What is signed in place of a message: a hash of the public key, the empty context and the message. -/
def dsaMessage (pk msg : Bytes) : Bytes := shake256 64 (shake256 64 pk ++ [0, 0] ++ msg)

/-- The challenge seed of high parts. -/
def challengeSeed (mu : Bytes) (w1 : List (List Nat)) : Bytes := shake256 48 (mu ++ w1.flatMap (packBits 4))

/-- The hint's 61 bytes: the places of each row's ones, then where each row's places end. -/
def packHint (h : List (List Bool)) : Bytes :=
  let rows := h.map (fun r => (r.zipIdx.filter (·.1)).map (·.2))
  let ends := (List.range dsaRows).map (fun i => ((rows.take (i + 1)).map List.length).foldl (· + ·) 0)
  let places := rows.flatten
  (places ++ List.replicate (dsaOmega - places.length) 0 ++ ends).map (BitVec.ofNat 8)

/-- Strictly rising. -/
def rising : List Nat → Bool
  | a :: b :: r => decide (a < b) && rising (b :: r)
  | _ => true

/-- The hint of 61 bytes, if they are one. -/
def unpackHint (bs : Bytes) : Option (List (List Bool)) :=
  let n := bs.map BitVec.toNat
  let ends := n.drop dsaOmega
  let starts := 0 :: ends
  let rows := (List.range dsaRows).map (fun i =>
    let a := starts.getD i 0
    (n.take dsaOmega).drop a |>.take (ends.getD i 0 - a))
  if (List.range dsaRows).all (fun i => starts.getD i 0 ≤ ends.getD i 0 && ends.getD i 0 ≤ dsaOmega) &&
      rows.all rising && ((n.take dsaOmega).drop (ends.getD 5 0)).all (· == 0) then
    some (rows.map (fun r => (List.range 256).map r.contains))
  else none

/-- One trial of a signature, with the masks from number `k` on. -/
def signTrial (key : DsaKey) (m : List (List Poly)) (mu mask : Bytes) (k : Nat) : Option Bytes :=
  let y := (List.range dsaCols).map (fun i => maskPoly mask (k + i))
  let w := (matrixMul m (y.map ntt)).map intt
  let seed := challengeSeed mu (w.map (fun p => p.map (fun r => (decompose r).1)))
  let c := ntt (sampleBall seed)
  let times := fun (v : List Poly) => v.map (fun p => intt (polyMulNtt c (ntt p)))
  let z := List.zipWith polyAdd y (times key.s1)
  let r := List.zipWith polySub w (times key.s2)
  let low := (r.map (fun p => (p.map (fun v => (decompose v).2.natAbs)).foldl max 0)).foldl max 0
  let t0 := times (key.t.map (fun p => p.map (fun v => ofCentred (power2Round v).2)))
  let full := List.zipWith polyAdd r t0
  let h := List.zipWith (List.zipWith (fun a b => decide ((decompose a).1 ≠ (decompose b).1))) full r
  let ones := (h.map (fun p => (p.filter id).length)).foldl (· + ·) 0
  if dsaGamma1 - dsaBeta ≤ vecNorm z || dsaGamma2 - dsaBeta ≤ low || dsaGamma2 ≤ vecNorm t0 || dsaOmega < ones then none
  else some (seed ++ z.flatMap (fun p => packBits 20 (p.map (fun v => ((dsaGamma1 : Int) - centred v).toNat))) ++ packHint h)

/-- Trials until one serves; the standard lets an implementation give up after 814. -/
def signFrom (key : DsaKey) (m : List (List Poly)) (mu mask : Bytes) : Nat → Nat → Bytes
  | 0, _ => []
  | n + 1, k => match signTrial key m mu mask k with
    | some sig => sig
    | none => signFrom key m mu mask n (k + dsaCols)

/-- A signature with the key of a seed, the message and 32 random bytes of the signer. -/
def mldsaSign (seed msg random : Bytes) : Bytes :=
  let key := dsaKey seed
  let mu := dsaMessage key.public msg
  signFrom key (matrixOf key.rho) mu (shake256 64 (key.key ++ random ++ mu)) 814 0

/-- Verification: public key, message and signature of 3,309 bytes. Marks (PRESUMED 11). -/
def mldsaVerify (pk msg sig : Bytes) : Bool :=
  let t1 := unpackVec 10 dsaRows (pk.drop 32)
  let z := (unpackVec 20 dsaCols (sig.drop 48)).map (fun p => p.map (fun (v : Nat) => ofCentred ((dsaGamma1 : Int) - v)))
  pk.length == 1952 && sig.length == 3309 &&
  (match unpackHint (sig.drop 3248) with
   | none => false
   | some h =>
     let c := ntt (sampleBall (sig.take 48))
     let az := matrixMul (matrixOf (pk.take 32)) (z.map ntt)
     let ct := t1.map (fun p => polyMulNtt c (ntt (p.map (mulQ 8192))))
     let w := (List.zipWith polySub az ct).map intt
     let w1 := List.zipWith (List.zipWith useHint) h w
     decide (vecNorm z < dsaGamma1 - dsaBeta) && sig.take 48 == challengeSeed (dsaMessage pk msg) w1)

end Sys2Proof.Machine
end

