-- ==== Sys2Proof/Config.lean ====
section
/-! DEFINITION. Config.lean: what the manual leaves to the implementation, as constants with no body. No proof can see a value of one, so a statement holds for every value. Each is named in notes/assumptions. -/

namespace Sys2Proof.Config

/-- Random bytes of the NONCE of DISCOVER (R44): the n-th draw, byte i. -/
opaque nonceByte : Nat → Nat → Byte

/-- Spare rows of each HBM bank (R216); the manual gives no number. -/
opaque spareRows : Nat

/-- FAULT frames that may wait for the upstream port (R78); the manual gives no depth. -/
opaque faultQueueDepth : Nat

/-- IMG_E_DETOUR over the whole Range (R139): the loss case and target that fail, if any.
The check needs the Detour Tables of every device, which no section of one image is said to hold. -/
opaque detourFailure : BaseBody → Option (Nat × Nat)

/-- IMG_E_ESCAPE_CYCLE over the whole Range (R139): the loss case that fails, if any. -/
opaque escapeFailure : BaseBody → Option Nat

/-- The Pen multicast trees of the Range against the escape check (R139, Table 11-11): the tag that fails, if any. -/
opaque penTreeFailure : FieldBody → Option Nat

/-- Whether the mean of 64 join-delay exchanges, half of 1/64 of this sum, is rounded up to a fine unit (R66). -/
opaque delayRoundsUp : Int → Bool

/-- BAR_OFFSET and BAR_DEADLINE that a Bellwether uses for a Field whose image it does not hold (R74, R75). -/
opaque barOffset : Nat → Nat
opaque barDeadline : Nat → Nat

/-- OVF_BLOCKS of a trailer whose count does not fit its 16 bits (R149). -/
opaque ovfBeyond : Nat → BitVec 16

/-- What the bytes of an image buffer stand for (Table 11-10): the manual lists what each section holds and gives the
sections no byte layout. Used where software writes IMG_CTL itself; VERIFY_BASE and VERIFY_FIELD name the contents. -/
opaque imageBody : List (Nat × Byte) → ImageBody

/-- What a cold reset requested by register finds in its surroundings (Tables 15-1 and 15-2): the n-th such draw. -/
opaque powerEnv : Nat → PowerEnv

/-- A value that the manual leaves open: the n-th such value. -/
opaque freeValue : Nat → BitVec 64

end Sys2Proof.Config
end

