-- ==== Sys2Proof/WellFormed.lean ====
section
/-! DEFINITION. WellFormed.lean: which commands name units, lanes, ports and values that exist.
A command that names none is no event of the device; the meanings stop on it by name. -/

namespace Sys2Proof.Wf

/-- An endpoint port or mesh trunk (Table 1-4). -/
def port (n : Nat) : Bool := n < 64
/-- A core port slot (Table 1-4). -/
def slot (n : Nat) : Bool := n < 128
/-- A Cellar port slot (Table 1-4). -/
def cellarPort (n : Nat) : Bool := 96 ≤ n && n < 120
/-- An ingress of the core: a slot, 128 for packets that the core itself sends (R134), or 129 for a port's discovery. -/
def ingress (n : Nat) : Bool := n < 130
/-- A virtual channel. -/
def vc (n : Nat) : Bool := n < 8
/-- An optical engine (R13). -/
def engine (n : Nat) : Bool := n < 16
/-- A physical lane of an engine (R317). -/
def lane (n : Nat) : Bool := n < 34
/-- A Bell port: 0 BN, 1 BE, 2 BS, 3 BW. -/
def bell (n : Nat) : Bool := n < 4
/-- A Tract (R14). -/
def tract (n : Nat) : Bool := n < 32
/-- A Field ID: six bits. -/
def field (n : Nat) : Bool := n < 64
/-- A logical Croft: at most 32 × 128 of them (Table 1-8). -/
def croft (n : Nat) : Bool := n < 4096
/-- A physical Croft: 32 × 136 (R272). -/
def physCroft (n : Nat) : Bool := n < 4352
/-- A temperature sensor (R413). -/
def sensor (n : Nat) : Bool := n < 57
/-- A 32-byte word address of a stack of 64 GiB (R196). -/
def cellar (n : Nat) : Bool := n < 0x1000000000
/-- A page number of a Tract (Table 1-8). -/
def page (n : Nat) : Bool := n < 0x100000
/-- A session ID: 32 bits, and not the reserved one, which the Storekeeper never receives (R203). -/
def session (n : Nat) : Bool := n < 0xFFFFFFFF
/-- A run number (R207). -/
def run (n : Nat) : Bool := n < 0x10000
/-- The layers of an ALLOC of 1 to 64 pages (R205). -/
def layers (l : List Nat) : Bool := 1 ≤ l.length && l.length ≤ 64 && l.all (· < 256)
/-- A management or peer device index: 14 bits. -/
def device (n : Nat) : Bool := n < 16384
/-- A Bell-lane mark's fields within their widths (Table 3-1). Marks (DEDUCED 130, 143). -/
def mark (f : MarkFrame) : Bool :=
  f.hop < 0x10000 && f.kexp < 0x100 && f.root < 0x10000 && f.m < 2 ^ 64 && f.corr < 2 ^ 32
/-- An ARRIVE frame's fields within their widths (Table 3-1). -/
def arrive (f : ArriveFrame) : Bool := f.field < 64 && f.seq < 1024 && f.count < 0x10000 && f.maxGt < 2 ^ 64
/-- A RELEASE frame's fields within their widths (Table 3-1). -/
def release (f : ReleaseFrame) : Bool := f.field < 64 && f.seq < 1024 && f.status < 256 && f.gt < 2 ^ 64
/-- A FAULT frame's fields within their widths (Table 3-1). -/
def fault (f : FaultFrame) : Bool := f.origin < 0x10000 && f.cls < 256 && f.source < 0x10000 && f.gt < 2 ^ 64
/-- A packet whose payload has LENGTH bytes (R97). -/
def packet (p : Packet) : Bool := p.payload.length == p.len.toNat
/-- Straps within their pins (R36). -/
def straps (s : Straps) : Bool := s.range < 4 && s.padX < 16 && s.padY < 16 && s.slot < 16
/-- What a power-up finds names units that exist. -/
def power (e : PowerEnv) : Bool :=
  straps e.straps && (match e.railFault with | none => true | some (r, mv) => r < 7 && mv < 0x10000) &&
  (match e.sramFault with | none => true | some u => u < 0x10000) &&
  e.failedCrofts.all physCroft && e.failedStacks.all tract && e.darkEngines.all engine &&
  e.unlockedEngines.all engine && e.vid ≤ 28
/-- Crossing-die control state (0x0809): Bell logic, loader, identity store, or the control of a Fold slice. -/
def controlUnit (u : Nat) : Bool := u == 0x2F01 || u == 0x2F02 || u == 0x2F04 || (64 ≤ u && u < 96)
/-- A received slot: five flits of 128 bytes, LINK words within their bits, logical lanes of a port, at most 15 corrected
symbols, 514 message symbols of 10 bits. -/
def rxSlot : RxSlot → Bool
  | .uncorrectable => true
  | .reservedType => true
  | .data c fs => c.length ≤ 15 && c.all (· < 8) && fs.length == 5 && fs.all (fun f => f.length == 128)
  | .am c _ op l f =>
    c.length ≤ 15 && c.all (· < 8) && op < 4 && l < 8 && (match f with | none => true | some k => k == 32 || k == 33)
  | .rm c => c.length ≤ 15 && c.all (· < 8)
  | .symbols c m f =>
    c.length ≤ 15 && c.all (· < 8) && m.length == 514 && m.all (· < 1024) &&
    (match f with | none => true | some k => k == 32 || k == 33)

end Sys2Proof.Wf

namespace Sys2Proof

/-- Whether a command names units and values that exist. -/
def Instr.wf : Instr → Bool
  | .powerUp e => Wf.power e
  | .coldReset e => Wf.power e
  | .fieldReset f _ => Wf.field f
  | .railOutOfRange r mv => r < 7 && mv < 0x10000
  | .thermalTrip s _ => Wf.sensor s
  | .throttleEval rs => rs.all (fun r => Wf.sensor r.1)
  | .vidStep c => c ≤ 28
  | .engineModulatorsLocked e => Wf.engine e
  | .portLightDetected p => Wf.port p
  | .portAdapted p => Wf.port p
  | .portAligned p ls => Wf.port p && ls.all (· < 8)
  | .portFecLocked p => Wf.port p
  | .portUp p => Wf.port p
  | .portDown p _ _ => Wf.port p
  | .slotReceive p r => Wf.port p && Wf.rxSlot r
  | .laneMoveToSpare p => Wf.port p
  | .laneUnusable e l _ => Wf.engine e && Wf.lane l
  | .sparingTimeout p => Wf.port p
  | .feedLost e _ => Wf.engine e
  | .feedRestored e _ => Wf.engine e
  | .opticalEngineFault e => Wf.engine e
  | .portTestMode p m => Wf.port p && m < 4
  | .injectBurst p b => Wf.port p && b < 32
  | .injectLcrc p => Wf.port p
  | .bellPortRetrain b => Wf.bell b
  | .bellPortAligned b k => Wf.bell b && k < 16
  | .bellInjCv b => Wf.bell b
  | .bellInjDisp b => Wf.bell b
  | .bellInjCrc b => Wf.bell b
  | .bellPortTest b t => Wf.bell b && t < 4
  | .ackTimer p => Wf.port p
  | .replayTimeout p => Wf.port p
  | .nakRepeat p => Wf.port p
  | .linkReplayFail p => Wf.port p
  | .creditInitSend p => Wf.port p
  | .packetStall p v => Wf.port p && Wf.vc v
  | .egressPacketStart e v i => Wf.slot e && Wf.vc v && Wf.ingress i
  | .packetEscape i e v => Wf.ingress i && Wf.slot e && Wf.vc v
  | .orderFenceLimit i c => Wf.slot i && Wf.vc c
  | .dlvAck p => Wf.packet p
  | .dlvAckFlush d => Wf.device d
  | .discover n p => Wf.port n && Wf.packet p
  | .proof n p => Wf.port n && Wf.packet p
  | .discoveryTimeout p => Wf.port p
  | .absentTimeout p => Wf.port p
  | .mark b f _ t => Wf.bell b && Wf.mark f && t < 2 ^ 70
  | .probeSend b => Wf.bell b
  | .probe b q _ r => Wf.bell b && q < 256 && r < 2 ^ 32
  | .echo b q r _ t => Wf.bell b && q < 256 && r < 2 ^ 32 && t < 2 ^ 70
  | .arrive b f _ => Wf.bell b && Wf.arrive f
  | .releaseFrame b f _ => Wf.bell b && Wf.release f
  | .barrierRelease f => Wf.field f
  | .barrierTimeout f => Wf.field f
  | .faultFrame b f _ => Wf.bell b && Wf.fault f
  | .bellPortStuck b => Wf.bell b
  | .bellPortUnfence b => Wf.bell b
  | .shaperApply p v => Wf.port p && Wf.vc v
  | .fieldLaunchRequest f => Wf.field f
  | .penOpen p => Wf.packet p
  | .contrib p => Wf.packet p
  | .closingPacket p => Wf.packet p
  | .foldAck p => Wf.packet p
  | .foldResend p => Wf.packet p
  | .lateRecord p => Wf.packet p
  | .abortRecord p => Wf.packet p
  | .foldAbort p => Wf.packet p
  | .alloc t i _ l => Wf.tract t && Wf.session i && Wf.layers l
  | .free t g i => Wf.tract t && Wf.page g && Wf.session i
  | .share t i j => Wf.tract t && Wf.session i && Wf.session j
  | .addOwner t r i => Wf.tract t && Wf.run r && Wf.session i
  | .stkRelease t r i => Wf.tract t && Wf.run r && Wf.session i
  | .ceLimit t g => Wf.tract t && Wf.page g
  | .ue t a => Wf.tract t && Wf.cellar a
  | .cellarScrub t a _ => Wf.tract t && Wf.cellar a
  | .hbmChannelLost t pc => Wf.tract t && (match pc with | none => true | some c => c < 64)
  | .repairQueue t pc g => Wf.tract t && pc < 64 && Wf.page g
  | .repairQuiesceStart t => Wf.tract t
  | .repairDone t _ => Wf.tract t
  | .quiesceEnd t => Wf.tract t
  | .mirrorOpen p => Wf.packet p
  | .mirrorData p => Wf.packet p
  | .mirrorGraft p => Wf.packet p
  | .mirrorRelease p => Wf.packet p
  | .mirrorClose p => Wf.packet p
  | .mirrorFetch p => Wf.packet p
  | .mirrorAck p => Wf.packet p
  | .mirrorFetchData p => Wf.packet p
  | .mirrorBreak p => Wf.packet p
  | .mirrorWaitExpire t _ => Wf.tract t
  | .mirrorGapTimeout t _ => Wf.tract t
  | .mirrorPromoteRequest i => Wf.device i
  | .assemblyPacket n p => Wf.cellarPort n && Wf.packet p
  | .assemblyTimeout t _ => Wf.tract t
  | .sessionOpen t _ => Wf.tract t
  | .sessionClose t _ => Wf.tract t
  | .append t _ => Wf.tract t
  | .attend t _ => Wf.tract t
  | .graft t _ => Wf.tract t
  | .release t _ => Wf.tract t
  | .attentionBatch t => Wf.tract t
  | .reclaim t => Wf.tract t
  | .batchLate t => Wf.tract t
  | .batchHung t cs => Wf.tract t && cs.all Wf.physCroft
  | .tickProgramStart c => Wf.croft c
  | .wordIssue c => Wf.croft c
  | .wordRetire c _ => Wf.croft c
  | .mxLoad c => Wf.croft c
  | .mxReuse c => Wf.croft c
  | .vxAdd c => Wf.croft c
  | .vxSub c => Wf.croft c
  | .vxMul c => Wf.croft c
  | .vxFma c => Wf.croft c
  | .vxMax c => Wf.croft c
  | .vxMin c => Wf.croft c
  | .vxExp c => Wf.croft c
  | .vxRecip c => Wf.croft c
  | .vxLsum c => Wf.croft c
  | .vxLmax c => Wf.croft c
  | .vxConvert c => Wf.croft c
  | .vxSplit c => Wf.croft c
  | .mvCopy c => Wf.croft c
  | .mvTranspose c => Wf.croft c
  | .mvGather c => Wf.croft c
  | .mvScatter c => Wf.croft c
  | .mvFill c => Wf.croft c
  | .mvOverlay c => Wf.croft c
  | .fpSend c => Wf.croft c
  | .fpPost c => Wf.croft c
  | .fpPenOpen c => Wf.croft c
  | .fpPenSend c => Wf.croft c
  | .flNop c => Wf.croft c
  | .flSet c => Wf.croft c
  | .flAdd c => Wf.croft c
  | .flTadd c => Wf.croft c
  | .flBarrier c => Wf.croft c
  | .croftRxPacket c p => Wf.croft c && Wf.packet p
  | .croftHung c => Wf.croft c
  | .faultRecordClose s u => s < 0x10000 && u < 0x10000
  | .fence u => u < 0x10000
  | .unfence u => u < 0x10000
  | .faultInject c w u => c < 4 && w < 16 && u < 0x10000
  | .crossingDieControlStateUe u off => Wf.controlUnit u && off < 2 ^ 64
  | .tableEntryRefresh t i => t < 4 && i < 0x10000
  | .mgmtRd p => Wf.packet p
  | .mgmtWr p => Wf.packet p
  | .mgmtRsp p => Wf.packet p
  | .smbRailMv r => r < 7
  | .bar2Write off d => off + d.length ≤ 0x10000000
  | .bar4Read off n => off + n ≤ 2 ^ 36
  | .bar4Write off d => off + d.length ≤ 2 ^ 36
  | .registerWrite off _ => off < 0x4000000
  | .registerRead off => off < 0x4000000
  | .powerLoss | .strapChange _ | .hostLinkReset _ | .warmReset _ | .pllLockLost _
  | .bellMarkSend | .upstreamChoice | .markMissed | .standbyTakeover | .fieldLaunch
  | .foldChunkDone _ _ _ _ _ | .arrivalWindow _ _ _ _ | .penDeadline _ _ _ | .penLateAbort _ _
  | .chunkIncomplete _ _ _ _ _ | .penAckDeadline _ _ | .penAbortedExpire _ _ _ | .tallyClear
  | .mirrorPromote | .verifyBase _ | .verifyField _ | .discard | .applyBase | .verifyDone | .baseImageTakeEffect
  | .imgLock | .ckptSave | .ckptCapture | .ckptSlotsWritten | .ckptResume | .ckptResumeAtCount | .ckptCancel
  | .faultPulseEnd | .captureClear | .faultIn | .faultInStuck | .faultInRelease _ | .capsuleDone
  | .attest | .enroll | .revoke | .mailboxRead | .mailboxWrite | .mailboxTimeout | .thmPeakClear
  | .smbStatus | .smbJuncTemp | .smbHbmTemp | .smbPower | .smbDevIndex | .smbVid
  | .jtagBypass | .jtagIdcode | .jtagSamplePreload | .jtagExtest | .jtagHighz | .jtagClamp
  | .hostLinkL0 | .switchingCoreControlFault => true

end Sys2Proof
end

