-- ==== Sys2Proof/Machine/Ops.lean ====
section
/-! DEFINITION. Machine/Ops.lean: the shared operations: access to the parts of the state, global time, MSI-X,
the recording and reporting of faults (R348-R352). -/

namespace Sys2Proof.Machine

/-- The answer of a command. -/
abbrev Answer := Host.Outcome State Fault Refusal

/-- A command on units that exist ends in `s`; on others it is no event of the device. Marks (DESIGN CHOICE 6). -/
def need (c : Bool) (s : State) : Answer := if c then .next s else .fault .noSuchUnit

/-- Apply `f` where a condition holds; elsewhere nothing happens. Marks (DESIGN CHOICE 7). -/
def onlyIf (c : Bool) (f : State → State) (s : State) : State := if c then f s else s

/-- A write to a block of registers: ignored before the block's STAGE and in the fatal state, and by a block of the
compute side while a warm reset waits (R352, R365, R380, R399). -/
def onBlock (stage : Nat) (compute : Bool) (f : State → State) (s : State) : State :=
  let held := compute && (match s.flt.rstWaiting with | some (2, _) => true | _ => false)
  if s.glb.stage < stage || s.flt.fatal.isSome || held then s else f s

/-! ## Parts of the state -/

def State.modGlb (f : Glb → Glb) (s : State) : State := { s with glb := f s.glb }
def State.modFlt (f : Flt → Flt) (s : State) : State := { s with flt := f s.flt }
def State.modAttic (f : Attic → Attic) (s : State) : State := { s with attic := f s.attic }
def State.modBel (f : Bel → Bel) (s : State) : State := { s with bel := f s.bel }
def State.modSwc (f : Swc → Swc) (s : State) : State := { s with swc := f s.swc }
def State.modRte (f : Rte → Rte) (s : State) : State := { s with rte := f s.rte }
def State.modFld (f : Fld → Fld) (s : State) : State := { s with fld := f s.fld }
def State.modCel (f : Cel → Cel) (s : State) : State := { s with cel := f s.cel }
def State.modAts (f : Ats → Ats) (s : State) : State := { s with ats := f s.ats }
def State.modCrf (f : Crf → Crf) (s : State) : State := { s with crf := f s.crf }
def State.modImg (f : Img → Img) (s : State) : State := { s with img := f s.img }
def State.modLnk (f : Lnk → Lnk) (s : State) : State := { s with lnk := f s.lnk }
def State.modSec (f : Sec → Sec) (s : State) : State := { s with sec := f s.sec }
def State.modThm (f : Thm → Thm) (s : State) : State := { s with thm := f s.thm }
def State.modHost (f : HostLink → HostLink) (s : State) : State := { s with host := f s.host }
def State.modPins (f : Pins → Pins) (s : State) : State := { s with pins := f s.pins }
def State.modFuses (f : Fuses → Fuses) (s : State) : State := { s with fuses := f s.fuses }
def State.modInbox (f : List (Nat × Packet) → List (Nat × Packet)) (s : State) : State := { s with inbox := f s.inbox }
def State.modShapers (f : Tab Shaper → Tab Shaper) (s : State) : State := { s with shapers := f s.shapers }

/-- `n` free values are taken. -/
def State.skip (n : Nat) (s : State) : State := { s with draws := s.draws + n }

/-- Put something on a link or pin. Marks (DESIGN CHOICE 9). -/
def State.emit (o : Output) (s : State) : State := { s with out := o :: s.out }

/-- The next free value (R-open values; Config.freeValue). Marks (DESIGN CHOICE 10). -/
def State.draw (s : State) : BitVec 64 × State := (Config.freeValue s.draws, { s with draws := s.draws + 1 })

/-- `n` free bytes. -/
def State.drawBytes (n : Nat) (s : State) : Bytes × State :=
  ((List.range n).map (fun i => (Config.freeValue (s.draws + i)).setWidth 8), { s with draws := s.draws + n })

def State.slotReg (s : State) (n : Nat) : SlotReg := Tab.look {} s.swc.slots n
def State.modSlot (n : Nat) (f : SlotReg → SlotReg) (s : State) : State :=
  s.modSwc (fun w => { w with slots := Tab.edit {} w.slots n f })
def State.link (s : State) (n : Nat) : Link := Tab.look {} s.swc.links n
def State.modLink (n : Nat) (f : Link → Link) (s : State) : State :=
  s.modSwc (fun w => { w with links := Tab.edit {} w.links n f })
def State.optPort (s : State) (n : Nat) : OptPort := Tab.look {} s.lnk.ports n
def State.modOptPort (n : Nat) (f : OptPort → OptPort) (s : State) : State :=
  s.modLnk (fun l => { l with ports := Tab.edit {} l.ports n f })
def State.engine (s : State) (n : Nat) : OptEngine := Tab.look {} s.lnk.engines n
def State.modEngine (n : Nat) (f : OptEngine → OptEngine) (s : State) : State :=
  s.modLnk (fun l => { l with engines := Tab.edit {} l.engines n f })
def State.bellPort (s : State) (b : Nat) : BellPort := Tab.look {} s.bel.ports b
def State.modBellPort (b : Nat) (f : BellPort → BellPort) (s : State) : State :=
  s.modBel (fun l => { l with ports := Tab.edit {} l.ports b f })
def State.barrier (s : State) (f : Nat) : Barrier := Tab.look {} s.bel.barriers f
def State.modBarrier (f : Nat) (g : Barrier → Barrier) (s : State) : State :=
  s.modBel (fun l => { l with barriers := Tab.edit {} l.barriers f g })
def State.blnPort (s : State) (b : Nat) : BlnPort := Tab.look {} s.bln b
def State.modBln (b : Nat) (f : BlnPort → BlnPort) (s : State) : State := { s with bln := Tab.edit {} s.bln b f }
/-- Shaper of a port slot and VC (R88). -/
def State.shaper (s : State) (p v : Nat) : Shaper := Tab.look {} s.shapers (8 * p + v)
def State.modShaper (p v : Nat) (f : Shaper → Shaper) (s : State) : State :=
  { s with shapers := Tab.edit {} s.shapers (8 * p + v) f }
def State.gatePort (s : State) (p : Nat) : GatePort := Tab.look {} s.gates p
def State.modGate (p : Nat) (f : GatePort → GatePort) (s : State) : State :=
  { s with gates := Tab.edit {} s.gates p f }
def State.tract (s : State) (t : Nat) : Tract := Tab.look {} s.cel.tracts t
def State.modTract (t : Nat) (f : Tract → Tract) (s : State) : State :=
  s.modCel (fun c => { c with tracts := Tab.edit {} c.tracts t f })
def State.attn (s : State) (t : Nat) : AtsTract := Tab.look {} s.ats.tracts t
def State.modAtsTract (t : Nat) (f : AtsTract → AtsTract) (s : State) : State :=
  s.modAts (fun a => { a with tracts := Tab.edit {} a.tracts t f })
/-- A physical Croft. -/
def State.croft (s : State) (k : Nat) : Croft := Tab.look {} s.crf.crofts k
def State.modCroft (k : Nat) (f : Croft → Croft) (s : State) : State :=
  s.modCrf (fun c => { c with crofts := Tab.edit {} c.crofts k f })
/-- The physical Croft of a logical one (R273). -/
def State.physOf (s : State) (c : Nat) : Option Nat := Tab.look none s.crf.lmap c
def State.page (s : State) (t g : Nat) : Desc := Tab.look {} (s.tract t).pages g
def State.modPage (t g : Nat) (f : Desc → Desc) (s : State) : State :=
  s.modTract t (fun r => { r with pages := Tab.edit {} r.pages g f })

/-! ## Position (R37) -/

/-- The device index that the straps give. -/
def strapIndex (p : Straps) : Nat := p.range * 4096 + (p.slot / 2) * 512 + (2 * p.padY + p.slot % 2) * 16 + p.padX

/-- The device's own index. Marks (DESIGN CHOICE 17). -/
def State.devIndex (s : State) : Nat := if s.glb.sampled then strapIndex s.glb.straps else 0

/-- Role that the straps give; both role pins asserted is ROLE_CONFLICT, and the device is a worker (R38). -/
def strapRole (p : Straps) : Role :=
  if p.bellwether && !p.standby then .bellwether else if p.standby && !p.bellwether then .standby else .worker

/-- The identity seed is held in slot A, else in slot B: a slot that is marked and whose check passes (R387, R391). -/
def State.seedInA (s : State) : Bool := s.fuses.markA && !s.glb.seedBad.getLsbD 0
def State.seedInB (s : State) : Bool := !s.seedInA && s.fuses.markB && !s.glb.seedBad.getLsbD 1

/-- The identity seed in use. -/
def State.seed (s : State) : Bytes := if s.seedInA then s.fuses.seedA else if s.seedInB then s.fuses.seedB else []

/-- An image key slot is enrolled and not revoked, and its bytes pass their check (R387, R394). -/
def State.keyUsable (s : State) (i : Nat) : Bool :=
  s.fuses.enrolled.getLsbD i && !s.fuses.revoked.getLsbD i && !s.glb.keyBad.getLsbD i

/-- Whether the device is in the fatal state (R352). -/
def State.isFatal (s : State) : Bool := s.flt.fatal.isSome

/-- The base image in effect, if any. -/
def State.baseBody (s : State) : Option BaseBody :=
  match s.img.base with
  | some i => match i.body with | .base b => some b | .field _ => none
  | none => none

/-- The applied Field image with its Field ID, if any. -/
def State.fieldBody (s : State) : Option (Nat × FieldBody) :=
  match s.img.fieldImg with
  | some i => match i.body with | .field f => some (i.hdr.field, f) | .base _ => none
  | none => none

/-- The topology plan in effect; the plan of an empty device where no base image is in effect. -/
def State.topology (s : State) : Topology := match s.baseBody with | some b => b.topology | none => {}

/-- The entry of the Field map for a Field. -/
def State.fieldEntry (s : State) (f : Nat) : Option FieldEntry :=
  match s.baseBody with | some b => b.fields.find? (·.id == f) | none => none

/-- Mesh coordinates of a device index within its plane (R37). -/
def meshX (i : Nat) : Nat := i % 16
def meshY (i : Nat) : Nat := (i / 16) % 32

/-- Whether a mesh position lies in a rectangle of Paddocks; a Paddock is one mesh column and two rows (R49). -/
def rectHas (r : Rect) (i : Nat) : Bool :=
  r.xlo ≤ meshX i && meshX i ≤ r.xhi && r.ylo ≤ meshY i / 2 && meshY i / 2 ≤ r.yhi

/-- A local flag takes a value at a GT; `flagGt` notes a change (R288, R303). -/
def Croft.putFlag (gt i v : Nat) (c : Croft) : Croft :=
  { c with flags := Tab.put 0 c.flags i v
           flagGt := if Tab.look 0 c.flags i = v then c.flagGt else Tab.put 0 c.flagGt i gt }

/-- A Tract flag, by its number 16 t + i, takes a value at a GT. -/
def Crf.putTflag (gt i v : Nat) (c : Crf) : Crf :=
  { c with tflags := Tab.put 0 c.tflags i v
           tflagGt := if Tab.look 0 c.tflags i = v then c.tflagGt else Tab.put 0 c.tflagGt i gt }

/-! ## Time -/

/-- Tokens of a shaper after `n` GT (R86): 1/256 byte each, up to the bucket. Marks (DEDUCED 145). -/
def Shaper.accrue (n : Nat) (h : Shaper) : Shaper :=
  if h.enable then { h with tokens := min (h.bucket * 256) (h.tokens + n * h.rate) } else h

/-- Length of the Bell tick in GT: 2^k, with k 11 until a base image has taken effect (R6, R431). -/
def State.tickLen (s : State) : Nat := 2 ^ (if s.bel.k = 0 then 11 else s.bel.k)

/-- Tick number of a GT (R61). -/
def State.tickOf (s : State) (gt : Nat) : Nat := gt / s.tickLen

/-- The tick number now. -/
def State.tickNow (s : State) : Nat := s.tickOf s.bel.gt

/-- `n` GT pass: the servo slews by at most 10 ppm of them, which moves the fractional bits (R61, R67). Marks (DEDUCED 126). -/
def Clock.pass (n : Nat) (c : Clock) : Clock :=
  let lim : Int := (n * 65536 / 100000 : Nat)
  let d := max (-lim) (min lim c.slew)
  { frac := c.frac - BitVec.ofInt 16 d, slew := c.slew - d }

/-- `n` GT pass: GT and the time since t0 count, shapers accrue tokens, throttled marks are counted (R61, R86, R412).
Before PLL lock, in STAGE 0, nothing counts. -/
def advance (n : Nat) (s : State) : State :=
  if s.glb.stage = 0 then s else
  let gt := s.bel.gt + n
  let marks := gt / s.tickLen - s.bel.gt / s.tickLen
  { s with
    bel := { s.bel with gt := gt % 2 ^ 64 }
    clock := s.clock.pass n
    glb := { s.glb with sinceT0 := s.glb.sinceT0 + n }
    shapers := s.shapers.map (fun e => (e.1, e.2.accrue n))
    thm := if s.thm.level = 0 then s.thm else { s.thm with throttled := satAdd 0xFFFFFFFF s.thm.throttled marks } }

/-- An event fixed at GT `l` does not come before `l`. Marks (DESIGN CHOICE 3). -/
def advanceTo (l : Nat) (s : State) : State := if s.bel.gt < l then advance (l - s.bel.gt) s else s

/-- GT of the first mark at or after a GT. -/
def State.markAt (s : State) (gt : Nat) : Nat := ((gt + s.tickLen - 1) / s.tickLen) * s.tickLen

/-! ## MSI-X (R340, R341) -/

/-- One word of the MSI-X table: words 4v to 4v + 3 are entry v; PCI Express resets every mask bit to 1. Marks (PRESUMED 46). -/
def HostLink.word (h : HostLink) (i : Nat) : Word := Tab.look (if i % 4 = 3 then 1 else 0) h.table i

/-- Signal a vector: sent where the link is up and the vector is not masked, else pended or lost (R340, R341). -/
def signal (v : Nat) (s : State) : State :=
  if !s.host.l0 then s
  else if (s.host.word (4 * v + 3)).getLsbD 0 then s.modHost (fun h => { h with pend := h.pend ||| (1#64 <<< v) })
  else s.emit (.msix v)

/-! ## Faults (chapter 14) -/

/-- A fault event: SOURCE, UNIT, class of Table 14-1, access of Table 14-3, ADDR, and the record's further fields. -/
structure FaultEvent where
  source : Nat
  unit   : Nat := 0xFFFF
  cls    : Nat := 1
  access : Nat := 0
  addr   : Nat := 0
  info   : Nat := 0
  inj    : Bool := false
  fenced : Bool := false

/-- The SEEN bit of a class: bit 0 CE, 1 UC, 2 FT (Table 14-14). -/
def seenBit (cls : Nat) : BitVec 3 := if cls = 1 then 1 else if cls = 2 then 2 else if cls = 3 then 4 else 0

/-- First-error capture takes an event or merges it (R348). -/
def Capture.take (c : Capture) (e : FaultEvent) (gt : Nat) : Capture :=
  if c.valid then { c with count := sat32 c.count, seen := c.seen ||| seenBit e.cls }
  else { valid := true, inj := e.inj, seen := seenBit e.cls, cls := e.cls, access := e.access, unit := e.unit,
         addr := e.addr, info := e.info, gt := gt, count := 1, source := e.source }

/-- A record is written to its place in the fault ring (Table 14-13); a failed Attic writes nothing. -/
def Attic.putRecord (a : Attic) (r : FaultRec) : Attic :=
  if a.failed then a else { a with ring := Tab.put none a.ring (r.seq % 4096) (some r) }

/-- A record closes: it is written with CLOSED set (R349). -/
def Attic.closeRecord (a : Attic) (r : FaultRec) : Attic := a.putRecord { r with closed := true }

/-- An event merges into its open record (R349). -/
def FaultRec.merge (r : FaultRec) (e : FaultEvent) (gt : Nat) : FaultRec :=
  { r with count := sat32 r.count, gtLast := gt, seen := r.seen ||| seenBit e.cls }

/-- Whether a record is the open one of a SOURCE and UNIT. -/
def FaultRec.is (r : FaultRec) (source unit : Nat) : Bool := r.source == source && r.unit == unit

/-- A new record opens, after the oldest has closed where 64 are open (R349). `openRecs` is oldest first. -/
def Attic.openRecord (a : Attic) (r : FaultRec) : Attic :=
  let a := match a.openRecs with
    | o :: rest => if 64 ≤ a.openRecs.length then { a.closeRecord o with openRecs := rest } else a
    | [] => a
  { a.putRecord r with openRecs := a.openRecs ++ [r], faultSeq := (a.faultSeq + 1) % 2 ^ 32 }

/-- A reset record is written to its ring position (R373). -/
def Attic.putReset (a : Attic) (r : ResetRec) : Attic :=
  if a.failed then a else { a with resets := Tab.put none a.resets (r.seq % 1024) (some r) }

/-- A reset completes: its record is written again with GT_DONE (R373). -/
def Attic.finishReset (a : Attic) (seq gt code : Nat) (cap : Option Nat) : Attic :=
  match Tab.look none a.resets (seq % 1024) with
  | some r => if r.seq = seq then a.putReset { r with gtDone := gt, code := code, capsule := cap.getD r.capsule } else a
  | none => a

/-! ## Bell output (R63, R78, R337) -/

/-- Whether a Bell port has a neighbour in the Bell grid of the Range (R40); the extent is that of the base image. -/
def State.bellJoined (s : State) (b : Nat) : Bool :=
  let p := s.glb.straps
  let y := 16 * p.padY + p.slot
  let t := s.topology
  if b = 0 then y + 1 < 16 * t.extentH else if b = 1 then p.padX + 1 < t.extentW
  else if b = 2 then 0 < y else 0 < p.padX

/-- A Bell port is in Bell service: joined, aligned, not stuck and not in pattern mode (R79, R336, R337). -/
def State.bellServes (s : State) (b : Nat) : Bool :=
  s.bellJoined b && (s.blnPort b).aligned && !s.bel.stuck.getLsbD b &&
  ((s.blnPort b).test == 0 || (s.blnPort b).test == 3)

/-- The bytes of a frame after its leading K symbol, with its CRC-8 (Table 3-1); the first byte of PROBE and ECHO is their
TYPE, which the CRC does not cover. Marks (DEDUCED 258). -/
def frameBytes (f : BellFrame) : Bytes :=
  let data := match f with
    | .probe q => beBytes 1 q
    | .echo q r => beBytes 1 q ++ beBytes 4 r
    | .mark f => beBytes 1 f.epoch.toNat ++ beBytes 1 (ofBool f.locked + 2 * ofBool f.child) ++ beBytes 2 f.hop ++
        beBytes 1 f.kexp ++ beBytes 2 f.root ++ beBytes 8 f.mask.toNat ++ beBytes 8 f.m ++ beBytes 4 f.corr
    | .arrive f => beBytes 1 f.field ++ beBytes 2 f.seq ++ beBytes 2 f.count ++ beBytes 8 f.maxGt
    | .release f => beBytes 1 f.field ++ beBytes 2 f.seq ++ beBytes 1 f.status ++ beBytes 8 f.gt
    | .fault f => beBytes 2 f.origin ++ beBytes 1 f.cls ++ beBytes 2 f.source ++ beBytes 8 f.gt
  let type := match f with | .probe _ => [1] | .echo _ _ => [2] | _ => []
  type ++ data ++ beBytes 1 (crc8 data)

/-- GT of the next Bell mark that a Bellwether has not yet sent. -/
def State.nextMark (s : State) : Nat :=
  let m := s.markAt s.bel.gt
  match s.bel.sentM with | some q => if m ≤ q then q + s.tickLen else m | none => m

/-- GT at which the device must next send a MARK: a Bellwether at the Bell mark, another 8 GT after the next mark of its
upstream is due to arrive (R64, R65). Marks (DEDUCED 259). -/
def State.markDue (s : State) : Option Nat :=
  if s.bel.role = .bellwether then some s.nextMark
  else if s.bel.upstream < 4 && (s.bel.state = .acquire || s.bel.state = .locked) then
    s.bel.lastM.map (· + s.tickLen + (s.bel.latency + 63) / 64 + 8)
  else none

/-- A frame would still be on the lane, at two symbols in one GT, within 32 symbols before the next MARK (R64). -/
def State.heldBack (s : State) (f : BellFrame) : Bool :=
  match s.markDue with
  | some g => decide (s.bel.gt ≤ g) && decide (2 * g < 2 * s.bel.gt + (frameBytes f).length + 1 + 32)
  | none => false

/-- A frame goes out on a Bell port; an injection spoils the next frame and acts once (R337). The exchange of a PROBE
starts (R66). Marks (DEDUCED 135). -/
def putFrame (b : Nat) (f : BellFrame) (good : Bool) (s : State) : State :=
  let l := s.blnPort b
  let s := (s.modBln b (fun l => { l with injCv := false, injDisp := false, injCrc := false })).emit
    (.bell b f (good && !l.injCv && !l.injDisp && !l.injCrc))
  match f with
  | .probe q => s.modBellPort b (fun p => { p with probeOut := some (q, s.bel.gt * 64) })
  | _ => s

/-- A frame that waited: the residence of an ECHO has grown meanwhile. -/
def laterFrame (n : Nat) (f : BellFrame) : BellFrame :=
  match f with | .echo q r => .echo q (r + 64 * n) | _ => f

/-- The frames that waited for a MARK follow it (R64). -/
def flushLane (b : Nat) (s : State) : State :=
  let q := (s.bellPort b).waitQ
  let s := s.modBellPort b (fun p => { p with waitQ := [] })
  q.foldl (fun s e => putFrame b (laterFrame (s.bel.gt - e.2.2) e.1) e.2.1 s) s

/-- Send a frame on a Bell port in service; it waits where it does not fit before the next MARK (R64). -/
def bellSend (b : Nat) (f : BellFrame) (good : Bool) (s : State) : State :=
  if !s.bellServes b then s
  else match f with
    | .mark _ => flushLane b (putFrame b f good s)
    | _ =>
      if s.heldBack f then s.modBellPort b (fun p => { p with waitQ := p.waitQ ++ [(f, good, s.bel.gt)] })
      else putFrame b f good s

/-- Where the Bell leads: the manager at the acting Bellwether, else the upstream port. -/
def bellSendFault (f : FaultFrame) (s : State) : State :=
  if s.bel.acting then s.emit (.manager f) else bellSend s.bel.upstream (.fault f) true s

/-- Whether a FAULT frame can leave now. -/
def State.faultPath (s : State) : Bool := s.bel.acting || (s.bel.upstream < 4 && s.bellServes s.bel.upstream)

/-- Send the FAULT frames that wait, oldest first, then one of CLASS 0xFF for those dropped (R78). -/
def flushFaults (s : State) : State :=
  if !s.faultPath then s else
  let s := (s.bel.faultQ.foldl (fun s f => bellSendFault f s) s).modBel (fun b => { b with faultQ := [] })
  if s.bel.dropped = 0 then s
  else
    let f : FaultFrame := { origin := s.devIndex, cls := 0xFF, source := min 0xFFFF s.bel.dropped, gt := s.bel.gt }
    (bellSendFault f s).modBel (fun b => { b with dropped := 0 })

/-- Queue a FAULT frame for the upstream port; the newest is dropped and counted where the queue is full (R78). Marks (DESIGN CHOICE 141). -/
def queueFault (f : FaultFrame) (s : State) : State :=
  let s := if s.faultPath || s.bel.faultQ.length < Config.faultQueueDepth
    then s.modBel (fun b => { b with faultQ := b.faultQ ++ [f] })
    else (s.modBel (fun b => { b with dropped := b.dropped + 1 })).modFlt
           (fun t => { t with bellDrop := sat32 t.bellDrop })
  flushFaults s

/-- FAULT_OUT_N: a record of an enabled class starts or restarts the pulse (R351). -/
def startPulse (cls : Nat) (inj : Bool) (s : State) : State :=
  if s.flt.classEn.getLsbD (cls - 1) && !(inj && s.flt.injMute) then (let gt := s.bel.gt; s.modFlt (fun t => { t with pulse := true, pulseGt := gt })) else s

/-- Report a record that opens: MSI-X, FAULT frame, pulse (R350). -/
def report (e : FaultEvent) (s : State) : State :=
  let s := signal (3 - e.cls) s
  let s := if 2 ≤ e.cls || s.flt.reportCe
    then queueFault { origin := s.devIndex, cls := e.cls, source := e.source, gt := s.bel.gt } s else s
  (startPulse e.cls e.inj s).modFlt (fun t => { t with lastSource := e.source })

/-- The fatal state (R352): transmission and all compute stop; STAGE shows FATAL and ELAPSED stops. A reset under way
is abandoned (R367). -/
def enterFatal (source : Nat) (s : State) : State :=
  if s.isFatal then s else
  ((s.modFlt (fun t => { t with fatal := some source, rstWaiting := none })).modGlb
    (fun g => { g with stage := 8, elapsedStop := g.elapsedStop.or (some g.sinceT0) })).emit .dark

/-- Record and report a fault event (R348-R352). Marks (DEDUCED 82). -/
def recordFault (e : FaultEvent) (s : State) : State :=
  let gt := s.bel.gt
  let s := s.modFlt (fun t => { t with
    cap := t.cap.take e gt
    cntCe := if e.cls = 1 then sat32 t.cntCe else t.cntCe
    cntUc := if e.cls = 2 then sat32 t.cntUc else t.cntUc
    cntFt := if e.cls = 3 then sat32 t.cntFt else t.cntFt
    ceEvents := if e.cls = 1 then sat32 t.ceEvents else t.ceEvents
    ucEvents := if e.cls = 2 then sat32 t.ucEvents else t.ucEvents })
  let s := if s.attic.openRecs.any (·.is e.source e.unit)
    then
      let merged := fun (r : FaultRec) => if r.is e.source e.unit then r.merge e gt else r
      s.modAttic (fun a => { a with openRecs := a.openRecs.map merged })
    else
      let r : FaultRec := {
        seq := s.attic.faultSeq, cls := e.cls, access := e.access, source := e.source,
        unit := e.unit, seen := seenBit e.cls, inj := e.inj, fenced := e.fenced, count := 1, addr := e.addr,
        gtFirst := gt, gtLast := gt, info := e.info, boot := s.attic.boots, dev := s.devIndex }
      report e (s.modAttic (fun a => a.openRecord r))
  if e.cls = 3 then enterFatal e.source s else s

/-- Unit IDs of Table 14-2. -/
def unitCroft (k : Nat) : Nat := 0x1000 + k
def unitTract (t : Nat) : Nat := 0x2200 + t
def unitChannel (t pc : Nat) : Nat := 0x2400 + 64 * t + pc
def unitLane (sl l : Nat) : Nat := 0x2C00 + 16 * sl + l
def unitEngine (n : Nat) : Nat := 0x2E00 + n
def unitBell (b : Nat) : Nat := 0x2E10 + b

/-- Whether an armed injection is of a check and unit (R356). -/
def State.armedFor (s : State) (check unit : Nat) : Bool :=
  match s.flt.armed with | some i => i.check == check && i.unit == unit | none => false

/-- Take one use of the armed injection: a width above 1 keeps it armed where `stay` (residue checks), else GO clears. -/
def useInjection (stay : Bool) (s : State) : State :=
  s.modFlt (fun t => { t with armed := match t.armed with
    | some i => if stay && 1 < i.width then some { i with width := i.width - 1 } else none
    | none => none })

end Sys2Proof.Machine
end

