-- ==== Sys2Proof/Machine/Wire.lean ====
section
/-! DEFINITION. Machine/Wire.lean: the wire format: headers, flits, link tags and their CRCs
(04_flits_and_switching_core.md, R89-R102). -/

namespace Sys2Proof.Machine

/-- Link CRC (R93). -/
def linkCrc (bs : Bytes) : Nat := crc 32 0x04C11DB7 0xFFFFFFFF 0xFFFFFFFF bs

/-- The end-to-end CRC's polynomial, also that of CRC-32C as R149 and R371 use it (R93). -/
def crc32c (bs : Bytes) : Nat := crc 32 0x1EDC6F41 0xFFFFFFFF 0xFFFFFFFF bs

/-- The eight header words (Table 4-4), flags as in Table 4-5. -/
def headerWords (p : Packet) : List Nat :=
  let flags := ofBool p.order * 128 + ofBool p.transit * 64 + ofBool p.mcast * 32 + ofBool p.track * 16 + p.rsvF.toNat
  [ p.dst.toNat * 4096 + p.cls.toNat * 512 + p.rsv0.toNat * 64 + p.field.toNat,
    p.src.toNat * 4096 + flags * 16 + p.rsv1.toNat,
    p.pkey.toNat * 65536 + p.rsv2.toNat * 8192 + p.len.toNat,
    p.ptype.toNat * 2 ^ 24 + p.islot.toNat * 65536 + p.flow.toNat,
    p.stamp.toNat, p.tsw0.toNat, p.tsw1.toNat,
    p.rsv7.toNat * 2 ^ 30 + p.ingress.toNat * 65536 + p.injSeq.toNat ]

/-- The 32 header bytes (R98). -/
def headerBytes (p : Packet) : Bytes := (headerWords p).flatMap (beBytes 4)

/-- The header that 32 bytes spell (R98). -/
def parseHeader (bs : Bytes) : Packet :=
  let w := fun i => beAt bs (4 * i) 4
  { dst := BitVec.ofNat 20 (w 0 >>> 12), cls := BitVec.ofNat 3 (w 0 >>> 9), rsv0 := BitVec.ofNat 3 (w 0 >>> 6)
    field := BitVec.ofNat 6 (w 0), src := BitVec.ofNat 20 (w 1 >>> 12), order := bit (w 1) 11
    transit := bit (w 1) 10, mcast := bit (w 1) 9, track := bit (w 1) 8, rsvF := BitVec.ofNat 4 (w 1 >>> 4)
    rsv1 := BitVec.ofNat 4 (w 1), pkey := BitVec.ofNat 16 (w 2 >>> 16), rsv2 := BitVec.ofNat 3 (w 2 >>> 13)
    len := BitVec.ofNat 13 (w 2), ptype := BitVec.ofNat 8 (w 3 >>> 24), islot := BitVec.ofNat 8 (w 3 >>> 16)
    flow := BitVec.ofNat 16 (w 3), stamp := BitVec.ofNat 32 (w 4), tsw0 := BitVec.ofNat 32 (w 5)
    tsw1 := BitVec.ofNat 32 (w 6), rsv7 := BitVec.ofNat 2 (w 7 >>> 30), ingress := BitVec.ofNat 14 (w 7 >>> 16)
    injSeq := BitVec.ofNat 16 (w 7) }

/-- The fields that devices write, taken as zero by the end-to-end CRC (R101). -/
def asSent (p : Packet) : Packet :=
  { p with stamp := 0, ingress := 0, islot := 0, injSeq := 0, transit := false, mcast := false, track := false }

/-- End-to-end CRC over the header and the payload (R93). -/
def packetCrc (p : Packet) (payload : Bytes) : BitVec 32 :=
  BitVec.ofNat 32 (crc32c (headerBytes (asSent p) ++ payload))

/-- A packet with its payload, LENGTH and end-to-end CRC filled in. -/
def sealPacket (p : Packet) (payload : Bytes) : Packet :=
  let q := { p with len := BitVec.ofNat 13 payload.length }
  { q with payload := payload, crc := packetCrc q payload }

/-- Number of flits of a packet of LENGTH bytes (R97). -/
def flitCount (len : Nat) : Nat := if len ≤ 84 then 1 else if len ≤ 204 then 2 else 2 + (len - 204 + 119) / 120

/-- Flit types (Table 4-2). -/
def ftHead : BitVec 4 := 1
def ftBody : BitVec 4 := 2
def ftTail : BitVec 4 := 3
def ftSingle : BitVec 4 := 4
def ftLctl : BitVec 4 := 5
def ftAbort : BitVec 4 := 6

/-- The flit bodies of a packet (R97, Table 4-2). -/
def packetFlits (p : Packet) : List (BitVec 4 × Bytes) :=
  let n := flitCount p.len.toNat
  let crcB := beBytes 4 p.crc.toNat
  if n = 1 then [(ftSingle, headerBytes p ++ slice p.payload 0 84 ++ crcB)]
  else
    (ftHead, headerBytes p ++ slice p.payload 0 88) ::
      ((List.range (n - 2)).map (fun i => (ftBody, slice p.payload (88 + 120 * i) 120)) ++
        [(ftTail, slice p.payload (88 + 120 * (n - 2)) 116 ++ crcB)])

/-- The packet that whole flits spell under a header: payload and end-to-end CRC from the bodies. -/
def joinFlits (p : Packet) (fs : List (BitVec 4 × Bytes)) : Packet :=
  let all := fs.flatMap (·.2)
  let body := all.drop 32
  let n := body.length
  { p with payload := (body.take (n - 4)).take p.len.toNat, crc := BitVec.ofNat 32 (beNat (body.drop (n - 4))) }

/-- An abort tail's body (Table 4-2). -/
def abortBody (reason dev : Nat) : Bytes := beBytes 1 reason ++ [0] ++ beBytes 2 dev ++ List.replicate 116 0

/-- Reasons of an ABORT (R113). -/
def rStall : Nat := 1
def rLinkDown : Nat := 2
def rFenced : Nat := 3
def rLength : Nat := 4

/-- The four bytes of a link tag (Table 4-1). -/
def tagBytes (t : LinkTag) : Bytes :=
  beBytes 4 (t.type.toNat * 2 ^ 28 + t.vc.toNat * 2 ^ 25 + t.seq.toNat * 2 ^ 14 + t.cvc.toNat * 2 ^ 11 +
    t.ccount.toNat * 16 + t.rsv.toNat)

/-- The link tag that four bytes spell. -/
def parseTag (bs : Bytes) : LinkTag :=
  let w := beAt bs 0 4
  { type := BitVec.ofNat 4 (w >>> 28), vc := BitVec.ofNat 3 (w >>> 25), seq := BitVec.ofNat 11 (w >>> 14)
    cvc := BitVec.ofNat 3 (w >>> 11), ccount := BitVec.ofNat 7 (w >>> 4), rsv := BitVec.ofNat 4 w }

/-- A flit on the wire: tag, body and link CRC (R89). -/
def flitBytes (t : LinkTag) (body : Bytes) (crcMask : Nat) : Bytes :=
  let front := tagBytes t ++ body
  front ++ beBytes 4 (linkCrc front ^^^ crcMask)

/-- Whether a received flit passes its link CRC and tag checks (R95). -/
def flitOk (f : Bytes) : Bool :=
  let t := parseTag f
  linkCrc (f.take 124) == beAt f 124 4 && t.rsv == 0 && t.type.toNat ≤ 6

/-- Body of an LCTL flit (Table 4-3). -/
def lctlBody (lcode aseq : Nat) (credits : List Nat) : Bytes :=
  slice (beBytes 1 lcode ++ [0] ++ beBytes 2 aseq ++ credits.flatMap (beBytes 2)) 0 120

/-- The PTYPEs of each class (Table 4-6). -/
def ptypesOf (cls : Nat) : List Nat :=
  if cls = 0 then [1, 2, 3, 4, 5, 6] else if cls = 1 then [0x10, 0x11, 0x13, 0x14]
  else if cls = 2 then [0x12, 0x15, 0x16] else if cls = 3 then [0x20, 0x21, 0x22, 0x23, 0x24, 0x25]
  else if cls = 4 then [0x30] else if cls = 5 then [0x40] else []

/-- The PTYPEs of the Fold (Table 6-4). -/
def foldPtype (t : Nat) : Bool := 0x10 ≤ t && t ≤ 0x16

/-- Classes that a device sends to an endpoint (Table 4-7); DISCOVER goes by discovery. Marks (DESIGN CHOICE 252). -/
def toEndpoint (cls : Nat) : Bool := cls == 2 || cls == 4 || cls == 5

/-- EIDs of this device's services (R41). -/
def foldEid (i : Nat) : Nat := 0xF0000 + i
def cellarEid (i : Nat) : Nat := 0xF4000 + i

end Sys2Proof.Machine
end

