-- ==== Sys2Proof/Machine/Slots.lean ====
section
/-! DEFINITION. Machine/Slots.lean: the lanes of the optical engines and the slot stream of a port: codeword layout, AM
slots and their LINK and LANE symbols (13_optical_bell_and_host_links.md R317-R322). The 30 parity symbols of a slot
are those of IEEE 802.3 and are not held. -/

namespace Sys2Proof.Machine

/-! ## Lanes (R317, R318) -/

/-- A physical lane: its listed state, or its home map. -/
def State.lane (s : State) (oe l : Nat) : Lane :=
  match Tab.look none s.lnk.lanes (64 * oe + l) with
  | some x => x
  | none => if l < 32 then { tx := some l, rx := some l } else {}

def State.modLane (oe l : Nat) (f : Lane → Lane) (s : State) : State :=
  let v := f (s.lane oe l)
  let home : Lane := if l < 32 then { tx := some l, rx := some l } else {}
  s.modLnk (fun k => { k with lanes := Tab.put none k.lanes (64 * oe + l) (if v = home then none else some v) })

/-- The physical lane that receives a logical lane. -/
def State.rxLaneOf (s : State) (oe logical : Nat) : Nat :=
  ((List.range 34).find? (fun l => (s.lane oe l).rx == some logical)).getD logical

/-- The physical lane that transmits a logical lane. -/
def State.txLaneOf (s : State) (oe logical : Nat) : Nat :=
  ((List.range 34).find? (fun l => (s.lane oe l).tx == some logical)).getD logical

/-- Engine and port-in-engine of a core slot 0-63 (Table 1-3). -/
def engineOf (n : Nat) : Nat := n / 4
def portIn (n : Nat) : Nat := n % 4

/-- The logical lane of the engine that is lane i of a port (R317). -/
def logicalOf (n i : Nat) : Nat := 8 * portIn n + i

/-! ## Slot layout (R320) -/

/-- The 20-bit control field of a slot (Table 13-2). -/
def slotControl (ctype amcnt : Nat) : Nat := ctype * 2 ^ 18 + amcnt % 65536

/-- The 514 message symbols of 5,140 bits, most significant first: the control field, then 5,120 bits. Marks (DEDUCED 250). -/
def slotSymbols (control rest : Nat) : List Nat :=
  let v := control * 2 ^ 5120 + rest
  (List.range 514).map (fun i => (v >>> (10 * (513 - i))) % 1024)

/-- A DATA slot of five flits, each byte 0 first. -/
def dataSlot (fs : List Bytes) : List Nat := slotSymbols (slotControl 0 0) (beNat fs.flatten)

/-- The bits that message symbols carry, as one number. -/
def slotNumber (m : List Nat) : Nat := m.foldl (fun v x => v * 1024 + x % 1024) 0

/-- The logical lane of a message symbol, and its number among the lane's symbols outside the control field (R322). -/
def symbolLane (i : Nat) : Nat := i % 8
def symbolNumber (i : Nat) : Nat := if i % 8 < 2 then i / 8 - 1 else i / 8

/-- The LINK word (Table 13-3). -/
def linkWord (rxOk : Bool) (op lane : Nat) : Nat := ofBool rxOk * 512 + (op % 4) * 128 + lane % 8

/-- Symbol m of a logical lane in an AM slot (R322): the marker, the LANE symbol, the LINK word on lane 0, filler. -/
def amSymbol (lane link m : Nat) : Nat :=
  if m = 0 then 0x3C5 else if m = 1 then 0x0F3 else if m = 2 then 0x2A6 else if m = 3 then 0x159
  else if m = 4 then lane else if m = 5 then link else 0x155

/-- The LANE symbol of a lane in use: its physical lane and its logical lane of the port. -/
def laneSymbol (physical logical : Nat) : Nat := physical * 8 + logical

/-- An AM slot: its count, the physical lane of each logical lane, and the LINK word on lane 0. -/
def amSlot (amcnt : Nat) (physical : Nat → Nat) (link : Nat) : List Nat :=
  let control := slotControl 1 amcnt
  [control / 1024, control % 1024] ++ ((List.range 512).map (fun k =>
    let i := k + 2
    let j := symbolLane i
    amSymbol (laneSymbol (physical j) j) (if j = 0 then link else 0) (symbolNumber i)))

/-- What an unused spare lane sends in every slot: the symbols of logical lane 0 with IDLE set and LINK 0 (R322). -/
def spareSlot (physical : Nat) : List Nat := (List.range 64).map (amSymbol (512 + laneSymbol physical 0) 0)

/-- The slot that message symbols spell (Tables 13-2 and 13-3). The receiver takes the LINK word from logical lane 0,
symbol 5, which is message symbol 48. -/
def readSlot (corrected m : List Nat) (found : Option Nat) : RxSlot :=
  let v := slotNumber m
  let ctype := v >>> 5138
  if ctype = 0 then
    .data corrected ((List.range 5).map (fun i => slice (beBytes 640 (v % 2 ^ 5120)) (128 * i) 128))
  else if ctype = 1 then
    let link := m.getD 48 0
    .am corrected (bit link 9) (bits link 8 7) (bits link 2 0) found
  else if ctype = 2 then .rm corrected
  else .reservedType

/-! ## The transmitter's stream (R321) -/

/-- RX_OK that a port sends: FEC lock, held back until a base image is in effect (R382). -/
def State.rxOkSent (s : State) (n : Nat) : Bool := (s.optPort n).rxOk && s.baseBody.isSome

/-- The LINK word that a port sends in its AM slots: SPARE while its own exchange is under way, else NONE (R327). -/
def State.linkNow (s : State) (n : Nat) : Nat :=
  match (s.optPort n).sparing with
  | some x => linkWord (s.rxOkSent n) 1 x.lane
  | none => linkWord (s.rxOkSent n) 0 0

/-- An AM slot follows every 19 slots of other kinds (R321). -/
def sendAm (n : Nat) (s : State) : State :=
  let l := s.link n
  let oe := engineOf n
  (s.emit (.slot n (amSlot l.amCount (fun j => s.txLaneOf oe (logicalOf n j)) (s.linkNow n)))).modLink n
    (fun l => { l with sinceAm := 0, amCount := (l.amCount + 1) % 65536 })

/-- An RM slot: its flit bits are 0 (R321). -/
def rmSlot : List Nat := slotSymbols (slotControl 2 0) 0

/-- A DATA or RM slot leaves; the nineteenth since the last AM slot brings the next one (R321). -/
def sendSlot (n : Nat) (m : List Nat) (s : State) : State :=
  let s := (s.emit (.slot n m)).modLink n (fun l => { l with sinceAm := l.sinceAm + 1 })
  if 19 ≤ (s.link n).sinceAm then sendAm n s else s

/-- A flit takes its place in the slot that is filling; five make a DATA slot (R321). Five flits come in each GT and a slot
lasts 5,440 bits at 1,792 Gbit/s (R320), so that 12 slots find fewer than five flits for each 8,500 DATA slots: these are
RM slots. Marks (DEDUCED 277). -/
def fillSlot (n : Nat) (f : Bytes) (s : State) : State :=
  let fs := (s.link n).slotFlits ++ [f]
  if fs.length < 5 then s.modLink n (fun l => { l with slotFlits := fs })
  else
    let s := (sendSlot n (dataSlot fs) s).modLink n (fun l => { l with slotFlits := [], rmOwed := l.rmOwed + 12 })
    if 8500 ≤ (s.link n).rmOwed then sendSlot n rmSlot (s.modLink n (fun l => { l with rmOwed := l.rmOwed - 8500 })) else s

end Sys2Proof.Machine
end

