-- ==== Sys2Proof/Machine/Links.lean ====
section
/-! DEFINITION. Machine/Links.lean: link retry and credits of one optical link (R91, R94-R96, R118-R121). -/

namespace Sys2Proof.Machine

/-- Fixed grants of an endpoint port, and the trunk defaults (Table 5-1). -/
def endpointGrants : List Nat := [16, 208, 0, 96, 0, 192, 0, 0]
def trunkGrants : List Nat := [16, 96, 96, 48, 48, 128, 32, 48]

/-- The receive buffer that this device grants on a port: the image's credit plan on a trunk (R119). Marks (DESIGN CHOICE 276). -/
def State.myGrants (s : State) (n : Nat) : List Nat :=
  if n < 32 then endpointGrants
  else match s.baseBody with
    | some b => match b.credit.find? (·.1 == n) with | some e => e.2 | none => trunkGrants
    | none => trunkGrants

/-- Credit of a VC toward the peer: grant − sent + freed (R120); none before its CREDIT_INIT (R118). -/
def Link.credit (l : Link) (vc : Nat) : Nat :=
  match l.grants with
  | some g => g.getD vc 0 + Tab.look 0 l.peerFreed vc - Tab.look 0 l.sent vc
  | none => 0

/-- Flits of a VC sent and not yet credited back (R125). -/
def Link.inFlight (l : Link) (vc : Nat) : Nat := Tab.look 0 l.sent vc - Tab.look 0 l.peerFreed vc

/-- The tag of the next flit on a link; CVC and CCOUNT report one VC's freed flits (R90, R91). -/
def Link.tag (l : Link) (type : BitVec 4) (vc : Nat) (seq : BitVec 11) : LinkTag :=
  { type := type, vc := BitVec.ofNat 3 vc, seq := seq, cvc := l.cvc
    ccount := BitVec.ofNat 7 (Tab.look 0 l.freed l.cvc.toNat) }

/-- Put one flit with its tag on a link. An armed LCRC injection inverts the link CRC of a sequenced flit, and an armed
burst corrupts its slot (R334). -/
def putTagged (n : Nat) (t : LinkTag) (body : Bytes) (s : State) : State :=
  let l := s.link n
  let sequenced := t.type != ftLctl && t.type != 0
  let f := flitBytes t body (if l.lcrcOnce && sequenced then 0xFFFFFFFF else 0)
  let s1 := s.emit (.flit n f)
  let s2 := if l.burstOnce = 0 then s1 else s1.emit (.burst n l.burstOnce)
  fillSlot n f (s2.modLink n (fun l => { l with burstOnce := 0, lcrcOnce := l.lcrcOnce && !sequenced }))

/-- Put a flit on a link for the first time: the report steps to the next VC (R91). -/
def putFlit (n : Nat) (type : BitVec 4) (vc : Nat) (seq : BitVec 11) (body : Bytes) (s : State) : State :=
  (putTagged n ((s.link n).tag type vc seq) body s).modLink n (fun l => { l with cvc := l.cvc + 1 })

/-- A flit with the report that its tag carries now. -/
def Link.report (l : Link) (f : TxFlit) : TxFlit :=
  { f with cvc := l.cvc, cc := BitVec.ofNat 7 (Tab.look 0 l.freed l.cvc.toNat) }

/-- Send a sequenced flit for the first time: it spends a credit and enters the replay buffer (R95, R120). -/
def sendFlit (n : Nat) (f : TxFlit) (s : State) : State :=
  let seq := (s.link n).txSeq
  let f := (s.link n).report f
  (putFlit n f.type f.vc seq f.body s).modLink n (fun l => { l with
    txSeq := seq + 1
    unacked := l.unacked ++ [(seq, f)]
    sent := Tab.edit 0 l.sent f.vc (· + 1) })

/-- An IDLE flit: no other flit is ready; its tag reports credit and names the next SEQ (Tables 4-1, 4-2). -/
def sendIdle (n : Nat) (s : State) : State := putFlit n 0 0 (s.link n).txSeq (List.replicate 120 0) s

/-- Send link control; its tag carries the number of the next sequenced flit (Table 4-1). -/
def sendLctl (n lcode aseq : Nat) (credits : List Nat) (s : State) : State :=
  putFlit n ftLctl 0 (s.link n).txSeq (lctlBody lcode aseq credits) s

/-- Acknowledge the last accepted SEQ (R95). -/
def sendAck (n : Nat) (s : State) : State :=
  (sendLctl n 1 ((s.link n).rxSeq - 1).toNat [] s).modLink n (fun l => { l with toAck := 0 })

/-- Name the next expected SEQ (R95). -/
def sendNak (n : Nat) (s : State) : State :=
  (sendLctl n 2 (s.link n).rxSeq.toNat [] s).modLink n (fun l => { l with nakOut := true })

/-- CREDIT_INIT with this device's grants (R118). -/
def sendCreditInit (n : Nat) (s : State) : State := sendLctl n 3 0 (s.myGrants n) s

/-- A flit fails: it is counted, and the first failure of a gap is answered with a NAK (R95). Marks (DEDUCED 92). -/
def failFlit (n : Nat) (s : State) : State :=
  let s := s.modSlot n (fun r => { r with lcrc := sat32 r.lcrc })
  if (s.link n).nakOut then s else sendNak n s

/-- The tag of a flit's first sending. -/
def TxFlit.tag (f : TxFlit) (seq : BitVec 11) : LinkTag :=
  { type := f.type, vc := BitVec.ofNat 3 f.vc, seq := seq, cvc := f.cvc, ccount := f.cc }

/-- Resend from a SEQ to the end of the replay buffer, with the original bits (R95, R96). Marks (DEDUCED 251). -/
def resendFrom (n : Nat) (fs : List (BitVec 11 × TxFlit)) (s : State) : State :=
  (fs.foldl (fun s e => putTagged n (e.2.tag e.1) e.2.body s) s).modSlot n
    (fun r => { r with replay := sat32 r.replay })

/-- Position of a SEQ in the window of unacknowledged flits. -/
def Link.unackedAt (l : Link) (seq : BitVec 11) : Option Nat := l.unacked.findIdx? (·.1 == seq)

/-- An ACK frees the flits up to its SEQ; one outside the window is ignored (R95). -/
def onAck (n : Nat) (seq : BitVec 11) (s : State) : State :=
  match (s.link n).unackedAt seq with
  | some i => s.modLink n (fun l => { l with unacked := l.unacked.drop (i + 1), replays := 0 })
  | none => s

/-- Replays that have failed to move the acknowledged SEQ forward (R96). While a port is sparing, the count holds
(R328). -/
def countReplay (n : Nat) (s : State) : State :=
  let o := s.optPort n
  if o.sparing.isSome || o.peerSparing then s else s.modLink n (fun l => { l with replays := l.replays + 1 })

/-- A NAK names the next expected SEQ: what lies before it is acknowledged, the rest is resent; one outside the window
is ignored (R95). Marks (DEDUCED 91). -/
def onNak (n : Nat) (seq : BitVec 11) (s : State) : State :=
  match (s.link n).unackedAt seq with
  | some i =>
    let moved := decide (0 < i)
    let s := s.modLink n (fun l => { l with unacked := l.unacked.drop i, replays := if moved then 0 else l.replays })
    countReplay n (resendFrom n (s.link n).unacked s)
  | none => s

/-- A tag reports the flits of one VC that the peer has freed (R91). -/
def takeReport (n : Nat) (t : LinkTag) (s : State) : State :=
  s.modLink n (fun l =>
    let v := t.cvc.toNat
    let d := (t.ccount.toNat + 128 - Tab.look 0 l.lastCc v) % 128
    { l with lastCc := Tab.put 0 l.lastCc v t.ccount.toNat, peerFreed := Tab.edit 0 l.peerFreed v (· + d) })

/-- Flits of a VC leave the receive buffer: their credit returns to the sender (R120). `spaceGt` notes when a full VC has
space again (R115). -/
def freeFlits (n vc k : Nat) (s : State) : State :=
  let full := decide ((s.myGrants n).getD vc 0 ≤ Tab.look 0 (s.link n).rxHeld vc)
  let gt := s.bel.gt
  s.modLink n (fun l => { l with
    rxHeld := Tab.edit 0 l.rxHeld vc (· - k)
    freed := Tab.edit 0 l.freed vc (· + k)
    spaceGt := if full && 0 < k then Tab.put 0 l.spaceGt vc gt else l.spaceGt })

/-- Whether a port is UP (R323). -/
def State.isUp (s : State) (n : Nat) : Bool := (s.optPort n).tstate == .up

/-! ## Timers -/

/-- ACK_TIMER: an accepted flit has gone 100 ns without an acknowledgement (R95). Marks (DESIGN CHOICE 4). -/
def ackTimer (n : Nat) (s : State) : State :=
  if s.isUp n && 0 < (s.link n).toAck && !s.isFatal then sendAck n s else s

/-- REPLAY_TIMEOUT: 1 µs without ACK progress; held while the port is sparing (R95, R328). -/
def replayTimeout (n : Nat) (s : State) : State :=
  let o := s.optPort n
  if s.isUp n && !(s.link n).unacked.isEmpty && o.sparing.isNone && !o.peerSparing && !s.isFatal
  then countReplay n (resendFrom n (s.link n).unacked s) else s

/-- NAK_REPEAT: a NAK has gone unanswered for 1 µs (R95, R328). -/
def nakRepeat (n : Nat) (s : State) : State :=
  let o := s.optPort n
  if s.isUp n && (s.link n).nakOut && o.sparing.isNone && !o.peerSparing && !s.isFatal then sendNak n s else s

/-- CREDIT_INIT_SEND: until a sequenced flit of the peer has been accepted (R118). -/
def creditInitSend (n : Nat) (s : State) : State :=
  if s.isUp n && !(s.link n).accepted && !s.isFatal then sendCreditInit n s else s

def execAckTimer (port : Nat) (s : State) : Answer := need (Wf.port port) (ackTimer port s)
def execReplayTimeout (port : Nat) (s : State) : Answer := need (Wf.port port) (replayTimeout port s)
def execNakRepeat (port : Nat) (s : State) : Answer := need (Wf.port port) (nakRepeat port s)
def execCreditInitSend (port : Nat) (s : State) : Answer := need (Wf.port port) (creditInitSend port s)

end Sys2Proof.Machine
end

