-- ==== Sys2Proof/Machine/Route.lean ====
section
/-! DEFINITION. Machine/Route.lean: targets, admission and the choice of the egress
(02_ranges_paddocks_fields.md R48-R55, 05_routing_and_credits.md R122-R137). -/

namespace Sys2Proof.Machine

/-! ## Coordinates and Fields -/

/-- System coordinates and plane of a device index (R35, R37). -/
def sysX (i : Nat) : Nat := 16 * ((i / 4096) % 2) + i % 16
def sysY (i : Nat) : Nat := 32 * ((i / 8192) % 2) + (i / 16) % 32
def planeOf (i : Nat) : Nat := (i / 512) % 8
def rangeOf (i : Nat) : Nat := i / 4096

/-- A Field's own Paddocks: its rectangle less its lent rectangles (R48). -/
def fieldOwns (e : FieldEntry) (dev : Nat) : Bool :=
  rectHas e.rect dev && !e.rows.any (fun r => rectHas r.rect dev)

/-- The Field map's entry whose Paddocks hold a device of this Range; a device of another Range is in none. -/
def State.owner (s : State) (dev : Nat) : Option FieldEntry :=
  if rangeOf dev ≠ rangeOf s.devIndex then none
  else match s.baseBody with | some b => b.fields.find? (fun e => fieldOwns e dev) | none => none

/-- The Field of this device's Paddock. -/
def State.home (s : State) : Option FieldEntry := s.owner s.devIndex

/-- The partition key in force for a Field (R50): that of its applied image on a device of the Field, that of its last launch
on a device lent to it, else the map's. -/
def State.keyOf (s : State) (e : FieldEntry) : BitVec 16 :=
  let g := Tab.look 0 s.img.guestKeys e.id
  let k := if g = 0 then e.key else g
  match s.fieldBody with | some (f, b) => if f = e.id then b.key else k | none => k

/-- A device of this Range lies in a rectangle lent to a Field (R53, R128). Marks (DESIGN CHOICE 249). -/
def State.lentTo (s : State) (f dev : Nat) : Bool :=
  rangeOf dev == rangeOf s.devIndex &&
  (match s.fieldEntry f with | some e => e.rows.any (fun r => rectHas r.rect dev) | none => false)

/-- A device of a spanning Field by its system coordinates (R52). -/
def inSysRect (r : Rect) (dev : Nat) : Bool :=
  r.xlo ≤ sysX dev && sysX dev ≤ r.xhi && r.ylo ≤ sysY dev / 2 && sysY dev / 2 ≤ r.yhi

/-! ## Session homes and service slots -/

/-- Home Tract of a session (R201). -/
def homeTract (sid : Nat) : Nat := (List.range 7).foldl (fun t i => t ^^^ ((sid >>> (5 * i)) % 32)) 0

/-- Pen number of a tag (R141). -/
def penNumber (tag : Nat) : Nat := tag % 1024

/-- Fields of the type-specific words of a Fold packet (Table 6-3). -/
def penTag (p : Packet) : Nat := p.tsw0.toNat >>> 16
def penPos (p : Packet) : Nat := p.tsw0.toNat % 65536
def penChunk (p : Packet) : Nat := p.tsw1.toNat >>> 22
def penPkt (p : Packet) : Nat := (p.tsw1.toNat >>> 15) % 128
def penPart (p : Packet) : Nat := (p.tsw1.toNat >>> 13) % 4
def penNode (p : Packet) : Bool := bit p.tsw1.toNat 12
def penStepLo (p : Packet) : Nat := (p.tsw1.toNat >>> 4) % 256

/-- A slice whose lanes for the work are all fenced (R355): reduction lanes 0-7, wide lanes 8-9. -/
def State.sliceOut (s : State) (fp64 : Bool) (sl : Nat) : Bool :=
  let m := (Tab.look 0 s.fld.lanes sl).toNat
  if fp64 then m / 256 == 3 else m % 256 == 255

/-- The slice that R146 maps work to, or the next above it that is not fenced for that work (R355). -/
def State.sliceFor (s : State) (fp64 : Bool) (n : Nat) : Nat :=
  (((List.range 32).map (fun i => (n + i) % 32)).find? (fun sl => !s.sliceOut fp64 sl)).getD (n % 32)

/-- The Fold slice that takes a VC1 packet of a Pen (R146). -/
def State.foldSlot (s : State) (p : Packet) : Nat :=
  let tag := penTag p
  let fp64 := s.fld.insts.any (fun i => i.tag == tag && i.msg.inFmt == 8)
  let data := p.ptype == 0x11 && penPkt p < 0x7E
  64 + s.sliceFor fp64 (if data then penChunk p + penNumber tag else penNumber tag)

/-- The Cellar port of a session's home Tract (R230). -/
def cellarSlotOfSid (sid : Nat) : Nat := 96 + 3 * (homeTract sid / 4) + sid % 3

/-- The Cellar port of a logical Croft (R230, R268). -/
def cellarSlotOfCroft (c : Nat) : Nat := 96 + 3 * (c / 512) + c % 3

/-- The slot at its target that a service packet goes to, where the service takes its CLASS and PTYPE (R123);
128 stands for the switching core, which consumes DLV_ACK (R134). -/
def State.serviceSlot (s : State) (p : Packet) : Option Nat :=
  let t := p.ptype.toNat
  let c := p.cls.toNat
  if p.dst.toNat < 0xF4000 then
    if c = 1 && (ptypesOf 1).contains t then some (s.foldSlot p)
    else if c = 0 && 3 ≤ t && t ≤ 5 then some 64
    else if c = 0 && t = 6 then some 128
    else none
  else if c = 3 && (ptypesOf 3).contains t then some (cellarSlotOfSid p.tsw0.toNat)
  else if c = 4 && t = 0x30 then some (cellarSlotOfCroft (p.tsw1.toNat >>> 20))
  else if c = 5 && t = 0x40 then
    if 0xF0000 ≤ p.src.toNat then some (cellarSlotOfSid p.tsw0.toNat)
    else some (cellarSlotOfCroft (p.tsw0.toNat % 4096))
  else none

/-! ## The target of a packet (R122, R123) -/

/-- Where a packet is headed: system coordinates, and the endpoint port there for an endpoint EID. -/
structure Target where
  x    : Nat
  y    : Nat
  port : Option Nat
  deriving DecidableEq, Repr

/-- The Route Table entry of an EID. -/
def State.routeEntry (s : State) (eid : Nat) : Nat := (Tab.look 0 s.rte.route eid).toNat

/-- The target of a destination; none for an unassigned or reserved EID or another plane's device. -/
def State.targetOf (s : State) (dst : Nat) : Option Target :=
  if dst < 0x10000 then
    let e := s.routeEntry dst
    if bit e 31 then some { x := bits e 13 9, y := bits e 19 14, port := some (bits e 24 20) } else none
  else if 0xF0000 ≤ dst && dst < 0xF8000 then
    let i := dst % 16384
    if planeOf i = planeOf s.devIndex then some { x := sysX i, y := sysY i, port := none } else none
  else none

/-- Whether a target lies in another Range. -/
def State.elsewhere (s : State) (t : Target) : Bool :=
  t.x / 16 + 2 * (t.y / 32) != rangeOf s.devIndex

/-- Whether the target is this device. -/
def State.isHere (s : State) (t : Target) : Bool := t.x == sysX s.devIndex && t.y == sysY s.devIndex

/-! ## Trunks -/

/-- Trunks of a direction: 0 MN, 1 ME, 2 MS, 3 MW. -/
def trunksOf (d : Nat) : List Nat := (List.range 8).map (fun i => 32 + 8 * d + i)

/-- SWC_SLOTn_STATE.FENCED: the slot's unit is fenced, or the optical engine that carries it (Table 4-11). Engine
n div 4 carries optical port n (Table 1-3). -/
def State.fencedSlot (s : State) (n : Nat) : Bool := (s.slotReg n).fenced || (n < 64 && (s.engine (n / 4)).fenced)

/-- A port or trunk is usable if it is ACTIVE and not fenced (chapter 5). -/
def State.usable (s : State) (n : Nat) : Bool := (s.slotReg n).disc == .active && !s.fencedSlot n

/-- The usable trunks of a direction. Marks (DEDUCED 118). -/
def State.openTrunks (s : State) (d : Nat) : List Nat := (trunksOf d).filter s.usable

/-- A direction has a planned trunk; one planned NONE throughout is never lost (R136). -/
def State.planned (s : State) (d : Nat) : Bool := (trunksOf d).any (fun n => s.topology.trunks.any (·.1 == n))

/-- The flow hash (R126): the pinned trunk number. -/
def flowHash (src dst flow : Nat) : Nat :=
  let m := 2 ^ 32
  let h := ((src * 0x0003a8c5) % m) ^^^ dst
  let h := ((h * 0x0003a8c5) % m) ^^^ flow
  let h := h ^^^ (h >>> 13)
  let h := (h * 0x6a3d2c4b) % m
  let h := h ^^^ (h >>> 15)
  h % 8

/-- The device index of the neighbour in a direction, where it lies in this Range (R33). -/
def State.neighbour (s : State) (d : Nat) : Option Nat :=
  let i := s.devIndex
  let x := meshX i
  let y := meshY i
  let base := i - i % 512
  if d = 0 then (if y < 31 then some (base + (y + 1) * 16 + x) else none)
  else if d = 1 then (if x < 15 then some (base + y * 16 + x + 1) else none)
  else if d = 2 then (if 0 < y then some (base + (y - 1) * 16 + x) else none)
  else (if 0 < x then some (base + y * 16 + x - 1) else none)

/-- The receiving device of a direction lies in a rectangle lent to a Field (R128). -/
def State.lentDir (s : State) (f d : Nat) : Bool :=
  match s.neighbour d with | some i => s.lentTo f i | none => false

/-- Depth of an egress VC (R125): flits queued here for it, and those sent and not credited back. Marks (DEDUCED 99). -/
def State.depth (s : State) (n vc : Nat) : Nat :=
  (s.swc.voq.filter (fun w => w.eg == n && w.vc == vc && !w.held)).foldl
    (fun d w => d + ((Tab.look {} s.swc.bufs w.id).flits.length - w.sent)) ((s.link n).inFlight vc)

/-! ## The choice at one device, per head -/

/-- What a head does. -/
inductive Choice where
  /-- Delivered at a slot on the VC of its class (R124). -/
  | deliver (slot : Nat)
  /-- Sent on a trunk on a link VC; `detour` where a Detour entry gave it. -/
  | trunk (slot vc : Nat) (detour : Bool)
  /-- Discarded as to a fenced target (R137). -/
  | fenced
  /-- Discarded as a stranger. -/
  | stranger
  deriving DecidableEq, Repr

/-- The dimension-order direction (R126), y first under R130. -/
def State.dimOrder (s : State) (ing inVc : Nat) (t : Target) : Nat :=
  let x := sysX s.devIndex
  let y := sysY s.devIndex
  let away := (40 ≤ ing && ing < 48 && x < t.x) || (56 ≤ ing && ing < 64 && t.x < x)
  let dy := if y < t.y then 0 else 2
  if t.x = x then dy
  else if (inVc = 6 || inVc = 7) && away && t.y ≠ y then dy
  else if x < t.x then 1 else 3

/-- The productive directions. -/
def State.productive (s : State) (t : Target) : List Nat :=
  (if sysX s.devIndex < t.x then [1] else if t.x < sysX s.devIndex then [3] else []) ++
  (if sysY s.devIndex < t.y then [0] else if t.y < sysY s.devIndex then [2] else [])

/-- The Detour entry of a lost direction for a target (R136): its next direction. -/
def State.detour (s : State) (d : Nat) (t : Target) : Option Nat :=
  let e := (Tab.look 0 s.rte.detour (2048 * d + (t.y % 64) * 32 + t.x)).toNat
  if bit e 7 then some (e % 4) else none

/-- The first usable trunk from the pinned one on (R126). -/
def State.pinned (s : State) (d : Nat) (p : Packet) : Option Nat :=
  let n := flowHash p.src.toNat p.dst.toNat p.flow.toNat
  ((List.range 8).map (fun i => 32 + 8 * d + (n + i) % 8)).find? s.usable

/-- The nearest of some trunks to a rotating pointer, counting upward over the 32 trunk slots. -/
def nearest (ptr : Nat) : List (Nat × Nat) → Option (Nat × Nat)
  | [] => none
  | c :: r => match nearest ptr r with
    | none => some c
    | some d => if (d.1 + 64 - ptr) % 32 < (c.1 + 64 - ptr) % 32 then some d else some c

/-- The least deep of the candidates, ties by the ingress slot's rotating pointer (R125). Marks (DESIGN CHOICE 98). -/
def State.leastDeep (s : State) (ing : Nat) (cs : List (Nat × Nat)) : Option (Nat × Nat) :=
  let ds := cs.map (fun c => (s.depth c.1 c.2, c))
  match ds with
  | [] => none
  | d :: r =>
    let m := r.foldl (fun m e => min m e.1) d.1
    nearest (Tab.look 0 s.swc.tie ing) ((ds.filter (fun e => e.1 == m)).map (·.2))

/-- The class is ORDERED by the base image's marking, VC5 alone by default (R103, Table 4-7). Marks (DEDUCED 100). -/
def State.orderedClass (s : State) (cls : Nat) : Bool :=
  (match s.baseBody with | some b => b.ordered | none => 0x20).getLsbD cls

/-- A packet of a class goes to the receiving device of a direction on VC6 (R128): management belongs to no Field and
never enters it (R55). -/
def State.onVc6 (s : State) (p : Packet) (d : Nat) : Bool := p.cls != 0 && s.lentDir p.field.toNat d

/-- The egress slot and link VC of a point-to-point head (R124-R131, R136, R137). `inVc` is the link VC it arrived
on, 7 for one that escapes. A class that Table 4-7 sends to no endpoint has no way out of an endpoint port. Marks (DEDUCED 105; DESIGN CHOICE 253, 254). -/
def State.choose (s : State) (ing inVc : Nat) (p : Packet) : Choice :=
  match s.targetOf p.dst.toNat with
  | none => .stranger
  | some t =>
    if s.isHere t then
      if p.transit then .stranger
      else match t.port with
        | some n => if toEndpoint p.cls.toNat then .deliver n else .stranger
        | none => match s.serviceSlot p with | some n => .deliver n | none => .stranger
    else
      let cls := p.cls.toNat
      let ordered := s.orderedClass cls
      let free := !ordered && inVc != 6 && inVc != 7
      let want := if free then s.productive t else [s.dimOrder ing inVc t]
      let dirs := want.filter (fun d => !(s.openTrunks d).isEmpty)
      if dirs.isEmpty then
        let lost := s.rte.lost.headD (want.headD 0)
        match s.detour lost t with
        | none => .fenced
        | some d =>
          let v := if s.onVc6 p d then 6 else 7
          match s.leastDeep ing ((s.openTrunks d).map (fun n => (n, v))) with
          | some (n, v) => .trunk n v true
          | none => .fenced
      else
        let vcOf := fun d => if s.onVc6 p d then 6 else if inVc = 7 then 7 else cls
        let d0 := dirs.headD 0
        if ordered then
          match s.pinned d0 p with | some n => .trunk n (vcOf d0) false | none => .fenced
        else
          match s.leastDeep ing (dirs.flatMap (fun d => (s.openTrunks d).map (fun n => (n, vcOf d)))) with
          | some (n, v) => .trunk n v false
          | none => .fenced

/-! ## Admission (R51, R100) -/

/-- The destination of a packet entering at an endpoint port lies in the Field on the same plane (Table 2-7). -/
def State.destInField (s : State) (e : FieldEntry) (p : Packet) : Bool :=
  let d := p.dst.toNat
  match s.targetOf d with
  | none => false
  | some _ =>
    if d < 0x10000 then bits (s.routeEntry d) 30 25 == e.id
    else
      let i := d % 16384
      (s.serviceSlot p).isSome &&
      (if rangeOf i = rangeOf s.devIndex then fieldOwns e i else e.spanning && inSysRect e.sysRect i)

/-- PTYPE listed for its CLASS and LENGTH at most 4,096 (R100). -/
def formOk (p : Packet) : Bool := (ptypesOf p.cls.toNat).contains p.ptype.toNat && p.len.toNat ≤ 4096

/-- Admission at an endpoint port (Table 2-7, R100). -/
def State.admitsEndpoint (s : State) (port inVc : Nat) (p : Packet) : Bool :=
  let c := p.cls.toNat
  formOk p && c == inVc && (c == 1 || c == 3 || c == 5) &&
  (match s.topology.endpoints.find? (·.1 == port) with | some e => e.2 == p.src.toNat | none => false) &&
  (match s.home with
   | some e => e.id == p.field.toNat && s.keyOf e == p.pkey && s.destInField e p
   | none => false)

/-- Admission at a mesh trunk (Table 2-7, R100). -/
def State.admitsTrunk (s : State) (inVc : Nat) (p : Packet) : Bool :=
  formOk p &&
  (if inVc = 0 then p.cls == 0 && p.pkey == s.topology.mgmtKey
   else if inVc = 6 then
     p.transit && s.lentTo p.field.toNat s.devIndex &&
     (match s.fieldEntry p.field.toNat with | some e => s.keyOf e == p.pkey | none => false)
   else
     !p.transit &&
     (match s.home with | some e => e.id == p.field.toNat && s.keyOf e == p.pkey | none => false))

/-- Copy set of a Pen tag: the multicast table of the applied Field image (R109). Marks (DEDUCED 111). -/
def State.mcastSet (s : State) (tag : Nat) : List Nat :=
  match s.fieldBody with
  | some (_, f) => match f.pens.find? (·.tag == tag) with | some q => q.mcast | none => []
  | none => []

end Sys2Proof.Machine
end

