-- ==== Sys2Proof/Machine/Switch.lean ====
section
/-! DEFINITION. Machine/Switch.lean: the switching core: virtual output queues, admission, cut-through, discards,
ORDER holds, delivery acknowledgement (04_flits_and_switching_core.md, 05_routing_and_credits.md). -/

namespace Sys2Proof.Machine

/-! ## Counters of Table 4-9 -/

def countAged (n : Nat) : State → State := State.modSlot n (fun r => { r with aged := sat32 r.aged })
def countTrunc (n : Nat) : State → State := State.modSlot n (fun r => { r with trunc := sat32 r.trunc })
def countOrphan (n : Nat) : State → State := State.modSlot n (fun r => { r with orphan := sat32 r.orphan })
def countStranger (n : Nat) : State → State := State.modSlot n (fun r => { r with stranger := sat32 r.stranger })
def countFenced (n : Nat) : State → State := State.modSlot n (fun r => { r with fencedCnt := sat32 r.fencedCnt })

/-! ## Buffers -/

def State.buf (s : State) (id : Nat) : Buf := Tab.look {} s.swc.bufs id
def State.modBuf (id : Nat) (f : Buf → Buf) (s : State) : State :=
  s.modSwc (fun w => { w with bufs := Tab.edit {} w.bufs id f })

/-- Change the copies that meet a test. -/
def State.modCopies (c : Waiting → Bool) (f : Waiting → Waiting) (s : State) : State :=
  s.modSwc (fun w => { w with voq := w.voq.map (fun e => if c e then f e else e) })

/-- Remove the copies that meet a test. -/
def State.dropCopies (c : Waiting → Bool) (s : State) : State :=
  s.modSwc (fun w => { w with voq := w.voq.filter (fun e => !c e) })

/-- A copy by its packet and egress. -/
def Waiting.is (w : Waiting) (id eg : Nat) : Bool := w.id == id && w.eg == eg

/-- Flits that have crossed to the egress in every copy, or that no copy needs, free their buffer (R109, R120). The ABORT
of a truncation at this device took no buffer. The flits themselves are kept until every copy has sent them. -/
def settleBuf (id : Nat) (s : State) : State :=
  let b := s.buf id
  let copies := s.swc.voq.filter (·.id == id)
  let gone := copies.foldl (fun m w => min m w.sent) b.flits.length
  let crossed := copies.foldl (fun m w => min m (max w.sent w.crossed)) b.flits.length
  let taken := min crossed (b.flits.length - ofBool b.cut)
  let s := if b.ing < 64 then freeFlits b.ing b.vc (taken - b.freed) s else s
  if b.closed && gone = b.flits.length then s.modSwc (fun w => { w with bufs := Tab.drop id w.bufs })
  else s.modBuf id (fun b => { b with freed := max b.freed taken })

/-- A copy that an ABORT ends: it was counted where it was cut short (R115, Table 4-9). -/
def State.aborted (s : State) (w : Waiting) : Bool :=
  w.short.isSome || (match (s.buf w.id).flits.getLast? with | some f => f.1 == ftAbort | none => false)

/-! ## Delivery acknowledgement (R134) -/

/-- Key of a slot and class. -/
def slotClass (slot cls : Nat) : Nat := 8 * slot + cls

/-- A tracked packet is resolved: counted against its ingress device, slot and class. -/
def resolveTrack (p : Packet) (s : State) : State :=
  if !p.track then s
  else
    let dev := p.ingress.toNat
    let slot := p.islot.toNat
    let cls := p.cls.toNat
    if s.swc.pendDlv.any (fun e => e.device == dev && e.slot == slot && e.cls == cls) then
      let bump := fun (e : PendDlv) =>
        if e.device == dev && e.slot == slot && e.cls == cls then { e with count := satAdd 0xFFFF e.count 1 } else e
      s.modSwc (fun w => { w with pendDlv := w.pendDlv.map bump })
    else s.modSwc (fun w => { w with pendDlv := w.pendDlv ++ [{ device := dev, slot := slot, cls := cls, count := 1 }] })

/-- A tracked copy is resolved, unless an ABORT ends it: the device that cut the packet short has counted it. -/
def resolveCopy (w : Waiting) (s : State) : State := if s.aborted w then s else resolveTrack w.p s

/-- A copy is discarded: it leaves its queue, a tracked packet is resolved, its buffer is freed (R112, R134). -/
def discardCopy (w : Waiting) (s : State) : State :=
  settleBuf w.id ((resolveCopy w s).dropCopies (·.is w.id w.eg))

/-! ## Routing a copy -/

/-- A copy takes its egress and link VC; TRANSIT is set on VC6 and cleared elsewhere (R55, R128). In another queue its
wait counts anew (R127). -/
def placeCopy (w : Waiting) (eg vc : Nat) (s : State) : State :=
  let f := fun (e : Waiting) =>
    { e with eg := eg, vc := vc, held := false, p := { e.p with transit := eg < 64 && vc == 6 }
             waited := if e.eg = eg && e.vc = vc then e.waited else 0
             dryFrom := if e.eg = eg && e.vc = vc then e.dryFrom else none }
  s.modCopies (·.is w.id w.eg) f

/-- A Route, Detour, multicast or credit table entry that a lookup needs reads uncorrectable (0x0303). Marks (DEDUCED 112). -/
def State.entryBad (s : State) (p : Packet) : Bool :=
  if p.cls == 2 then s.rte.bad.contains (2, penTag p)
  else p.dst.toNat < 0x10000 && s.rte.bad.contains (0, p.dst.toNat)

/-- An armed injection on the tables acts on the next lookup (R356). Marks (DEDUCED 124). -/
def lookupInjection (p : Packet) (s : State) : State :=
  if !s.armedFor 0 0x2F00 then s
  else
    let w := (s.flt.armed.getD {}).width
    let (tab, ix) := if p.cls == 2 then (2, penTag p) else (0, p.dst.toNat)
    let s := useInjection false s
    if w ≤ 1 then recordFault { source := 0x0301, unit := 0x2F00, cls := 1, access := 9, addr := ix, inj := true } s
    else
      (recordFault { source := 0x0303, unit := 0x2F00, cls := 2, access := 9, addr := tab * 0x10000 + ix % 0x10000,
                     inj := true } s).modRte (fun r => { r with bad := (tab, ix) :: r.bad })

/-- Choose the egress of a point-to-point copy (chapter 5). -/
def routeCopy (w : Waiting) (s : State) : State :=
  let s := lookupInjection w.p s
  if s.entryBad w.p then discardCopy w (countFenced w.ing s)
  else match s.choose w.ing w.inVc w.p with
  | .stranger => discardCopy w (countStranger w.ing s)
  | .fenced => discardCopy w (countFenced w.ing s)
  | .deliver n =>
    if n < 128 && s.fencedSlot n then discardCopy w (countFenced w.ing s)
    else placeCopy w n w.p.cls.toNat s
  | .trunk n v detour =>
    let s := placeCopy w n v s
    let s := if s.orderedClass w.p.cls.toNat then s
      else s.modSwc (fun x => { x with tie := Tab.put 0 x.tie w.ing ((n + 1) % 32) })
    if detour then s.modRte (fun r => { r with detourCnt := sat32 r.detourCnt }) else s

/-! ## Tracking and ORDER (R132, R133) -/

/-- Whether an ingress slot tracks packets. Marks (DEDUCED 102). -/
def trackSlot (n : Nat) : Bool := n < 32 || (96 ≤ n && n < 120)

/-- A packet is bound for another Range. -/
def State.outbound (s : State) (p : Packet) : Bool :=
  match s.targetOf p.dst.toNat with | some t => s.elsewhere t | none => false

/-- Outstanding packets of an ingress slot and class. -/
def State.waitingFor (s : State) (slot cls : Nat) : Nat := Tab.look 0 s.swc.outstand (slotClass slot cls)

/-- Release a copy from ingress: it is tracked where its class is, and takes its egress. Marks (DEDUCED 109). -/
def releaseCopy (w : Waiting) (s : State) : State :=
  let cls := w.p.cls.toNat
  let k := slotClass w.ing cls
  let enabled := (s.rte.fenceCls &&& 0x3E).getLsbD cls
  if trackSlot w.ing && enabled && !s.outbound w.p && (s.targetOf w.p.dst.toNat).isSome then
    let n := Tab.look 0 s.swc.admitted k
    let p := { w.p with track := true, islot := BitVec.ofNat 8 w.ing, injSeq := BitVec.ofNat 16 n }
    let w' := { w with p := p, held := false }
    let s := s.modCopies (·.is w.id w.eg) (fun _ => w')
    routeCopy w' (s.modSwc (fun x => { x with
      admitted := Tab.edit 0 x.admitted k (· + 1)
      outstand := Tab.edit 0 x.outstand k (· + 1) }))
  else
    let w' := { w with held := false }
    routeCopy w' (s.modCopies (·.is w.id w.eg) (fun _ => w'))

/-- Whether an earlier packet of the same ingress slot and class is held before a copy. -/
def State.heldBefore (s : State) (w : Waiting) : Bool :=
  (s.swc.voq.takeWhile (fun e => !(e.is w.id w.eg))).any (fun e => e.held && e.ing == w.ing && e.p.cls == w.p.cls)

/-- A held packet may go: nothing is held before it, and an ORDER packet waits until nothing is outstanding. -/
def State.mayGo (s : State) (w : Waiting) : Bool :=
  !s.heldBefore w && (!w.p.order || (s.waitingFor w.ing w.p.cls.toNat == 0 && !s.outbound w.p))

/-- Release held packets for as long as one may go. -/
def releaseHeld : Nat → State → State
  | 0, s => s
  | n + 1, s =>
    match s.swc.voq.find? (fun w => w.held && s.mayGo w) with
    | some w => releaseHeld n (releaseCopy w s)
    | none => s

/-! ## Entering the core -/

/-- A copy joins the end of the queues. -/
def enqueue (w : Waiting) (s : State) : State := s.modSwc (fun x => { x with voq := x.voq ++ [w] })

/-- A VC2 packet is replicated to its multicast set; without an entry it is a stranger (R109). A copy for an egress
that is fenced is discarded (Table 4-9). -/
def replicate (w : Waiting) (s : State) : State :=
  let set := s.mcastSet (penTag w.p)
  if s.entryBad w.p then settleBuf w.id (countFenced w.ing s)
  else if set.isEmpty then settleBuf w.id (countStranger w.ing s)
  else
    settleBuf w.id (set.foldl (fun s n =>
      if s.fencedSlot n then countFenced n s
      else enqueue { w with eg := n, vc := 2, mcast := true, p := { w.p with mcast := true } } s) s)

/-- Fields written by the ingress device (R101). -/
def stampPacket (p : Packet) (s : State) : Packet :=
  { asSent p with stamp := BitVec.ofNat 32 s.bel.gt, ingress := BitVec.ofNat 14 s.devIndex }

/-- Flits in the virtual output queues of a slot that have not crossed to their egress. -/
def State.queuedAt (s : State) (slot : Nat) : Nat :=
  (s.swc.bufs.filter (fun e => e.2.ing == slot)).foldl (fun n e => n + (e.2.flits.length - e.2.freed)) 0

/-- The queues of slots 64-127 hold 2 MiB, 16,384 flits of 128 bytes, each (Table 4-8). -/
def insideQueue : Nat := 16384

/-- A packet of a unit inside the package has room in its slot's queues (R111, R112). -/
def State.hasRoom (s : State) (slot : Nat) (p : Packet) : Bool :=
  128 ≤ slot || s.queuedAt slot + flitCount p.payload.length ≤ insideQueue

/-- A packet enters the core at a slot inside the package (R18, R101). Slot 128 is the core itself. -/
def enterInside (slot : Nat) (p : Packet) (s : State) : State :=
  let p := sealPacket p p.payload
  let id := s.swc.nextId
  let q := { stampPacket p s with payload := [] }
  let vc := p.cls.toNat
  let b : Buf := { ing := slot, vc := vc, need := flitCount p.len.toNat, flits := packetFlits p, closed := true }
  let w : Waiting := { id := id, p := q, ing := slot, inVc := vc, eg := 999, vc := vc, held := true, admGt := s.bel.gt }
  let s := s.modSwc (fun x => { x with nextId := id + 1, bufs := Tab.put {} x.bufs id b })
  if vc = 2 then replicate { w with held := false } s
  else enqueue w s

/-- A unit inside the package sends a packet through its slot; where the slot's queues are full, or other packets of the
slot wait, it waits in the unit (R112). -/
def inject (slot : Nat) (p : Packet) (s : State) : State :=
  if s.hasRoom slot p && !s.swc.waitIn.any (·.1 == slot) then enterInside slot p s
  else s.modSwc (fun x => { x with waitIn := x.waitIn ++ [(slot, p)] })

/-- Packets that wait in their units enter, in order by slot, for as long as one has room. -/
def enterWaiting : Nat → State → State
  | 0, s => s
  | n + 1, s =>
    let first := fun (e : Nat × Packet) => s.swc.waitIn.find? (·.1 == e.1) == some e
    match s.swc.waitIn.find? (fun e => first e && s.hasRoom e.1 e.2) with
    | some e => enterWaiting n (enterInside e.1 e.2 (s.modSwc (fun x => { x with waitIn := x.waitIn.erase e })))
    | none => s

/-- A DLV_ACK with up to 16 entries goes to an ingress device (R134, Table 5-3). Marks (DESIGN CHOICE 101). -/
def sendDlvAck (dev : Nat) (s : State) : State :=
  let es := (s.swc.pendDlv.filter (·.device == dev)).take 16
  if es.isEmpty then s
  else
    let word := fun (e : PendDlv) => beBytes 4 (e.slot * 2 ^ 24 + e.cls * 2 ^ 21 + e.count)
    let p : Packet := {
      dst := BitVec.ofNat 20 (foldEid dev), cls := 0, src := BitVec.ofNat 20 (foldEid s.devIndex)
      pkey := s.topology.mgmtKey, ptype := 6, payload := es.flatMap word }
    inject 128 p (s.modSwc (fun w => { w with pendDlv := w.pendDlv.filter (fun e => !es.contains e) }))

/-- Send a DLV_ACK to every device that has 16 entries pending. -/
def sendFullAcks (s : State) : State :=
  (s.swc.pendDlv.map (·.device)).foldl
    (fun s d => if 16 ≤ (s.swc.pendDlv.filter (·.device == d)).length then sendDlvAck d s else s) s

/-! ## Records to a Pen's root (R151) -/

/-- The root's home device of a Pen tag, by the root directory (R141). -/
def State.rootDevice (s : State) (tag : Nat) (arrival : Option Bool) : Option Nat :=
  match s.baseBody with
  | some b =>
    (b.rootDir.find? (fun e => e.1 == tag && (match arrival with | some a => e.2.1 == a | none => true))).map (·.2.2)
  | none => none

/-- The header fields that a Fold packet of this device carries. -/
def State.foldHeader (s : State) (dst ptype cls tag pos chunk pkt part : Nat) (node : Bool) (stepLo : Nat) : Packet :=
  let f := s.fieldEntry (tag / 1024)
  { dst := BitVec.ofNat 20 dst, cls := BitVec.ofNat 3 cls, field := BitVec.ofNat 6 (tag / 1024)
    src := BitVec.ofNat 20 (foldEid s.devIndex), pkey := (f.map s.keyOf).getD 0, ptype := BitVec.ofNat 8 ptype
    tsw0 := BitVec.ofNat 32 (tag * 65536 + pos)
    tsw1 := BitVec.ofNat 32 (chunk * 2 ^ 22 + pkt * 2 ^ 15 + part * 2 ^ 13 + ofBool node * 2 ^ 12 + stepLo * 16) }

/-- The 16-byte ABORT header (Table 6-7). -/
def abortHeader (status parts dev node gt : Nat) : Bytes :=
  beBytes 1 status ++ beBytes 1 parts ++ [0, 0] ++ beBytes 2 dev ++ beBytes 2 node ++ beBytes 8 gt

/-- Class of the fault of a Pen abort (Table 6-8); 0 for none. -/
def abortClass (status : Nat) : Nat :=
  if status = 2 || status = 4 || status = 5 then 2 else if status = 6 || status = 7 || status = 9 then 1 else 0

/-- A Pen abort of a status with a fault class is logged (0x0402). -/
def logPenAbort (tag status : Nat) (s : State) : State :=
  if abortClass status = 0 then s
  else recordFault { source := 0x0402, unit := 64 + penNumber tag % 32, cls := abortClass status, access := 4,
                     addr := tag * 2 ^ 32 + status, info := tag } s

/-- An abort record goes to the root's home device (R151). -/
def sendAbortRecord (tag stepLo node status : Nat) (arrival : Option Bool) (tail : Bytes) (s : State) : State :=
  match s.rootDevice tag arrival with
  | none => s
  | some d =>
    let p := s.foldHeader (foldEid d) 0x11 1 tag node 0 0x7F 0 true stepLo
    inject (64 + s.sliceFor false (penNumber tag)) { p with payload := abortHeader status 0 s.devIndex node 0 ++ tail } s

/-! ## Discards at ingress and egress -/

/-- A packet of a Fold PTYPE is discarded for age: its Pen is aborted AGED (R114, R151). Marks (DEDUCED 106). -/
def agedFold (p : Packet) (s : State) : State :=
  if foldPtype p.ptype.toNat
  then sendAbortRecord (penTag p) (penStepLo p) 0 5 none [] (logPenAbort (penTag p) 5 s) else s

/-- Age of a packet (R114). -/
def State.age (s : State) (p : Packet) : Nat := (s.bel.gt % 2 ^ 32 + 2 ^ 32 - p.stamp.toNat) % 2 ^ 32

/-- Age limit of a VC (Table 4-10). -/
def State.ageLimit (s : State) (v : Nat) : Nat := Tab.look 312500 s.swc.age v

/-- Truncation (R115): the packet closes at its ingress; egresses where it has started send an ABORT, the others drop
it. It is counted once, and not where it was discarded at its head; a tracked packet is resolved (R134). Marks (DEDUCED 95). -/
def truncate (id reason : Nat) (s : State) : State :=
  let b := s.buf id
  let s := if s.swc.voq.any (fun w => w.id == id && w.short.isNone) then countTrunc b.ing s else s
  let s := (s.swc.voq.filter (·.id == id)).foldl (fun s w => resolveCopy w s) s
  let s := s.dropCopies (fun w => w.id == id && !w.started)
  let close := fun (b : Buf) =>
    { b with flits := b.flits ++ [(ftAbort, abortBody reason s.devIndex)], closed := true, cut := true }
  let s := s.modBuf id close
  settleBuf id (s.modSwc (fun w => { w with opens := Tab.drop (slotClass b.ing b.vc) w.opens }))

/-! ## A port that stops being usable (R115, R135) -/

/-- The directions that have no usable trunk, in the order in which they were lost (R136, R137). Marks (DESIGN CHOICE 275). -/
def updateLost (s : State) : State :=
  let gone := fun d => s.planned d && (s.openTrunks d).isEmpty
  let kept := s.rte.lost.filter gone
  s.modRte (fun r => { r with lost := kept ++ [0, 1, 2, 3].filter (fun d => gone d && !kept.contains d) })

/-- Open packets of a port are truncated. Marks (DESIGN CHOICE 94). -/
def truncateAll (n reason : Nat) (s : State) : State :=
  (List.range 8).foldl (fun s v =>
    match Tab.look none s.swc.opens (slotClass n v) with | some id => truncate id reason s | none => s) s

/-- The rest of a started copy is discarded as for a fenced target, after an ABORT with reason FENCED where the link can
carry it (Table 4-9, R135). It was counted already where this device had cut it short. -/
def cutCopy (n : Nat) (w : Waiting) (s : State) : State :=
  let known := w.short.isSome || (s.buf w.id).cut
  let s := if known then s else countFenced n s
  if !s.isUp n then discardCopy w s
  else if known then s
  else (resolveCopy w s).modCopies (·.is w.id w.eg) (fun e => { e with short := some rFenced })

/-- Copies queued for a port that stops being usable: what has started is cut short, point-to-point packets that have not
started choose again, VC2 copies stay (R129, R135). -/
def requeue (n : Nat) (s : State) : State :=
  s.swc.voq.foldl (fun s w =>
    if w.eg ≠ n then s
    else if w.ing = 129 then discardCopy w s
    else if w.started then cutCopy n w s
    else if w.mcast then s
    else routeCopy w s) s

/-- A port is fenced (R353, R115, R135): it is not usable, its open packets are truncated, what is queued for it chooses
again or is discarded. Marks (DEDUCED 121). -/
def fencePort (n : Nat) (s : State) : State :=
  requeue n (updateLost (truncateAll n rFenced (s.modSlot n (fun r => { r with fenced := true }))))

/-! ## Gates and shapers at an egress (R81-R87) -/

/-- Frame length of a packet at a port (R82). -/
def State.frameLen (s : State) (port : Nat) (p : Packet) : Nat := flitCount p.len.toNat * 128 + (s.gatePort port).ovh

/-- Windows of a list from an index on, with their lengths, for one turn of the tick. -/
def gateWindows (tick : Nat) (ws : List (Nat × BitVec 8)) : List (Nat × Nat × BitVec 8) :=
  (ws.zip ((ws.drop 1).map (·.1) ++ [tick])).map (fun e => (e.1.1, e.2 - e.1.1, e.1.2))

/-- GT until the open run of a VC closes at an offset in the tick (R82): none where it never closes; 0 where it is
shut. Marks (DEDUCED 144). -/
def openFor (tick : Nat) (ws : List (Nat × BitVec 8)) (v off : Nat) : Option Nat :=
  let gs := gateWindows tick ws
  let i := (gs.takeWhile (fun e => e.1 ≤ off)).length - 1
  match gs[i]? with
  | none => none
  | some w =>
    if !w.2.2.getLsbD v then some 0
    else
      let later := gs.drop (i + 1) ++ gs.take (i + 1)
      let run := later.takeWhile (fun e => e.2.2.getLsbD v)
      if run.length = later.length then none
      else some (w.1 + w.2.1 - off + run.foldl (fun n e => n + e.2.1) 0)

/-- A packet that has run past its close holds the window it started in (R83): a VC is open only if that window, too, opens
it. -/
def State.overrunShuts (s : State) (port v : Nat) : Bool :=
  let g := s.gatePort port
  s.swc.voq.any (fun w => w.eg == port && w.started && (match w.close with
    | some c => decide (c ≤ s.bel.gt) &&
        openFor s.tickLen g.windows v ((c + s.tickLen - 1) % s.tickLen) == some 0
    | none => false))

/-- Whether the gate of a port admits a packet of a VC now (R83). -/
def State.gateFits (s : State) (port v : Nat) (p : Packet) : Bool :=
  let g := s.gatePort port
  if !g.valid then true
  else if s.overrunShuts port v then false
  else match openFor s.tickLen g.windows v (s.bel.gt % s.tickLen) with
    | none => true
    | some r => s.frameLen port p ≤ 640 * r && 0 < r

/-- The close of the open run of a VC at a port, where it closes. -/
def State.closeAt (s : State) (port v : Nat) : Option Nat :=
  let g := s.gatePort port
  if !g.valid then none else (openFor s.tickLen g.windows v (s.bel.gt % s.tickLen)).map (· + s.bel.gt)

/-- Whether the shaper of a port and VC admits a packet (R86). -/
def State.shaperFits (s : State) (port v : Nat) (p : Packet) : Bool :=
  let h := s.shaper port v
  !h.enable || s.frameLen port p * 256 ≤ h.tokens

/-! ## Moving flits -/

/-- While a warm reset is under way, VC1 packets for Fold slots and VC3 and VC5 packets for Cellar ports are consumed
and counted (R365). Marks (DEDUCED 125). -/
def State.warmDiscards (s : State) (slot : Nat) (p : Packet) : Bool :=
  (match s.flt.rstWaiting with | some (2, _) => true | _ => false) &&
  ((64 ≤ slot && slot < 96 && p.cls == 1) || (96 ≤ slot && slot < 120 && (p.cls == 3 || p.cls == 5)))

/-- The home of a striped root gathers the results of the other stripe devices for its STATS (R171). -/
def State.gathers (s : State) (p : Packet) : Bool :=
  s.fld.insts.any (fun i => i.tag == penTag p && i.stepLo == penStepLo p && i.node.parent.isNone &&
    1 < i.node.devices.length && i.node.devices.head? == some s.devIndex)

/-- A packet arrives whole at a slot inside the package: its end-to-end CRC is checked by the service (R102), a
tracked packet is resolved (R134), and it waits for its service; the Fold counts a contribution that fails (R162). A packet
ended by an ABORT is dropped (R113). Marks (DEDUCED 107). -/
def arriveInside (w : Waiting) (s : State) : State :=
  let b := s.buf w.id
  let s := discardCopy w s
  match b.flits.getLast? with
  | some (t, _) =>
    let p := joinFlits w.p b.flits
    let fold := 64 ≤ w.eg && w.eg < 96
    let ignored := fold && ((p.ptype == 0x12 && !s.gathers p) || p.ptype == 0x16)
    let spoilt := packetCrc p p.payload != p.crc && !(fold && p.ptype == 0x11)
    if t == ftAbort || w.short.isSome || spoilt || ignored then s
    else if s.warmDiscards w.eg p then countFenced w.eg s
    else s.modInbox (fun l => l ++ [(w.eg, p)])
  | none => s

/-- The packet of a copy has left an endpoint port whole (R102): its end-to-end CRC is checked and a mismatch counted;
a tracked packet is resolved (R134). -/
def leaveEndpoint (w : Waiting) (inj : Bool) (s : State) : State :=
  let b := s.buf w.id
  let s := resolveCopy w s
  match b.flits.getLast? with
  | some (t, _) =>
    let p := joinFlits w.p b.flits
    if t != ftAbort && (inj || packetCrc p p.payload != p.crc) then
      recordFault { source := 0x0304, unit := w.eg, cls := 1, access := 4, addr := p.src.toNat, inj := inj }
        (s.modSlot w.eg (fun r => { r with e2e := sat32 r.e2e }))
    else s
  | none => s

/-- The body of flit i of a copy: the head carries the copy's own header. -/
def copyBody (w : Waiting) (i : Nat) (body : Bytes) : Bytes :=
  if i = 0 then headerBytes w.p ++ body.drop 32 else body

/-- The last four body bytes inverted: an injected end-to-end CRC (R356). -/
def spoilCrc (body : Bytes) : Bytes := body.take (body.length - 4) ++ (body.drop (body.length - 4)).map (fun b => ~~~b)

/-- A packet that ends after the close of its open run has overrun it (R83). -/
def countOverrun (w : Waiting) (s : State) : State :=
  match w.close with
  | some c => if c < s.bel.gt then s.modGate w.eg (fun g => { g with ovr := sat32 g.ovr }) else s
  | none => s

/-- One flit of a started copy leaves its egress port, where it has credit and the replay buffer has room. -/
def moveFlit (id eg : Nat) (s : State) : State :=
  match s.swc.voq.find? (fun w => w.is id eg && w.started) with
  | none => s
  | some w =>
    let l := s.link eg
    let room := 1 ≤ l.credit w.vc && l.unacked.length < 512
    match w.short with
    | some r =>
      if !room then s
      else
        let s := countOverrun w (sendFlit eg { vc := w.vc, type := ftAbort, body := abortBody r s.devIndex } s)
        settleBuf id (s.dropCopies (·.is id eg))
    | none =>
      let b := s.buf id
      match b.flits[w.sent]? with
      | none => s
      | some (t, body) =>
        if !room then s
        else
          let last := b.closed && w.sent + 1 = b.flits.length
          let inj := last && eg < 32 && t != ftAbort && s.armedFor 3 eg
          let body := copyBody w w.sent body
          let s := sendFlit eg { vc := w.vc, type := t, body := if inj then spoilCrc body else body } s
          let s := s.modCopies (·.is id eg) (fun e => { e with sent := e.sent + 1 })
          if last then
            let s := if inj then useInjection false s else s
            let s := if eg < 32 then leaveEndpoint w inj s else s
            settleBuf id ((countOverrun w s).dropCopies (·.is id eg))
          else settleBuf id s

/-- A VC of a port has an open packet with a flit ready, credit for it and room in the replay buffer (R94). -/
def State.vcReady (s : State) (eg vc : Nat) : Option Waiting :=
  let l := s.link eg
  if l.credit vc = 0 || 512 ≤ l.unacked.length then none
  else s.swc.voq.find? (fun w => w.eg == eg && w.vc == vc && w.started &&
    (w.short.isSome || w.sent < (s.buf w.id).flits.length))

/-- The flits of the open packets of a port leave, its ready VCs taking turns flit by flit (R94). -/
def movePort (eg : Nat) : Nat → State → State
  | 0, s => s
  | n + 1, s =>
    let turn := (s.link eg).turn
    match ((List.range 8).map (fun i => (turn + i) % 8)).findSome? (fun v => s.vcReady eg v) with
    | none => s
    | some w => movePort eg n ((moveFlit w.id eg s).modLink eg (fun l => { l with turn := (w.vc + 1) % 8 }))

/-- A packet at the egress of slot 121 re-enters the core there, admitted as on endpoint port AS_PORT, or is a stranger
(R110). Marks (DEDUCED 110). -/
def loopIn (w : Waiting) (s : State) : State :=
  let b := s.buf w.id
  let s := discardCopy w s
  let p := joinFlits w.p b.flits
  let cut := w.short.isSome || (match b.flits.getLast? with | some f => f.1 == ftAbort | none => true)
  if cut then s
  else if !s.swc.loopOn || !s.admitsEndpoint s.swc.loopPort p.cls.toNat p then countStranger 121 s
  else
    let id := s.swc.nextId
    let vc := p.cls.toNat
    let buf : Buf := { ing := 121, vc := vc, need := flitCount p.len.toNat, flits := b.flits, closed := true }
    enqueue { id := id, p := { stampPacket p s with payload := [] }, ing := 121, inVc := vc, eg := 999, vc := vc
              held := true, admGt := s.bel.gt }
      (s.modSwc (fun x => { x with nextId := id + 1, bufs := Tab.put {} x.bufs id buf }))

/-- Started copies go on: flits leave the optical ports, and whole packets arrive inside. A port has at most eight open
packets of 36 flits each. -/
def pumpCopy (w : Waiting) (s : State) : State :=
  if w.eg < 64 then movePort w.eg 288 s
  else
    let b := s.buf w.id
    if b.closed || w.short.isSome then (if w.eg = 121 then loopIn w s else arriveInside w s)
    else settleBuf w.id (s.modCopies (·.is w.id w.eg) (fun e => { e with sent := b.flits.length }))

/-- The port's VC is free for a new packet: no started copy of that egress and VC is unfinished (R94, R108). -/
def State.vcFree (s : State) (eg vc : Nat) : Bool := !s.swc.voq.any (fun w => w.started && w.eg == eg && w.vc == vc)

/-- A copy meets the three conditions of R83 at its egress. A port that is not ACTIVE carries no traffic but its own
discovery, 129 (Table 2-6). -/
def State.meets (s : State) (w : Waiting) : Bool :=
  s.vcFree w.eg w.vc &&
  (if w.eg < 64 then
    (w.ing == 129 || (s.slotReg w.eg).disc == .active) &&
    s.gateFits w.eg w.vc w.p && 1 ≤ (s.link w.eg).credit w.vc && s.shaperFits w.eg w.vc w.p
   else true)

/-- The tokens of an enabled shaper pay for a packet at its start (R86). -/
def payShaper (w : Waiting) (s : State) : State :=
  if 64 ≤ w.eg then s
  else
    let cost := s.frameLen w.eg w.p * 256
    s.modShaper w.eg w.vc (fun h => if h.enable then { h with tokens := h.tokens - cost } else h)

/-- A packet starts at its egress. -/
def beginCopy (w : Waiting) (s : State) : State :=
  let c := if w.eg < 64 then s.closeAt w.eg w.vc else none
  (payShaper w s).modCopies (·.is w.id w.eg) (fun e => { e with started := true, close := c })

/-- Discovery packets of this device start as soon as they meet R83 (R44); VC0 goes first at a port (R85). -/
def autoStart (s : State) : State :=
  s.swc.voq.foldl (fun s w =>
    if w.ing == 129 && !w.started && !s.fencedSlot w.eg && s.meets w then beginCopy w s else s) s

/-- Flits of the egress resequencing and reassembly buffer: 192 KiB (Table 4-8). -/
def egressBuffer : Nat := 1536

/-- Flits that have crossed to an egress and not left it. -/
def State.atEgress (s : State) (eg : Nat) : Nat :=
  (s.swc.voq.filter (fun w => w.eg == eg)).foldl (fun n w => n + (w.crossed - w.sent)) 0

/-- The flits of a copy that are here cross to its egress, where the egress VC has link credit and the egress has room for
them (R105, R112); their buffer is free then (R120). Marks (DEDUCED 255). -/
def crossCopy (w : Waiting) (s : State) : State :=
  if w.held || 128 ≤ w.eg || (w.eg < 64 && (s.link w.eg).credit w.vc = 0) then s
  else
    let k := min (s.buf w.id).flits.length (max w.sent w.crossed + (egressBuffer - s.atEgress w.eg))
    if k ≤ max w.sent w.crossed then s
    else settleBuf w.id (s.modCopies (·.is w.id w.eg) (fun e => { e with crossed := k }))

/-- All started copies go on; packets for discovery and for the core itself need no start. Marks (DEDUCED 122). -/
def pump (s : State) : State :=
  let cross := fun (s : State) => s.swc.voq.foldl (fun s w => crossCopy w s) s
  let go := fun (s : State) => s.swc.voq.foldl
    (fun s w => if w.started || (128 ≤ w.eg && !w.held) then pumpCopy w s else s) s
  go (autoStart (go (autoStart (cross s))))

/-- The first copy of a virtual output queue (R104, R107). -/
def State.front (s : State) (eg vc ing : Nat) : Option Waiting :=
  s.swc.voq.find? (fun w => !w.held && !w.started && w.eg == eg && w.vc == vc && w.ing == ing)

/-- A copy at the front of its queue waits without credit on its egress VC (R127). -/
def State.dry (s : State) (w : Waiting) : Bool :=
  32 ≤ w.eg && w.eg < 64 && !w.held && !w.started && (s.link w.eg).credit w.vc == 0 &&
  (match s.front w.eg w.vc w.ing with | some f => f.is w.id w.eg | none => false)

/-- The waits without credit begin and end (R127). -/
def countWaits (s : State) : State :=
  let f := fun (w : Waiting) =>
    if s.dry w then { w with dryFrom := w.dryFrom.or (some s.bel.gt) }
    else match w.dryFrom with
      | some g => { w with dryFrom := none, waited := w.waited + (s.bel.gt - g) }
      | none => w
  s.modSwc (fun x => { x with voq := x.voq.map f })

/-- What follows every command that acts on the core: holds end, full acknowledgements leave, flits move, and what
waited for room enters. -/
def settleCore (s : State) : State :=
  let s := releaseHeld (s.swc.voq.length + 1) s
  let s := sendFullAcks s
  let s := pump (releaseHeld (s.swc.voq.length + 1) s)
  if s.swc.waitIn.isEmpty then countWaits s
  else
    let s := enterWaiting s.swc.waitIn.length s
    countWaits (pump (releaseHeld (s.swc.voq.length + 1) s))

/-! ## Reception -/

/-- A head is bound for a fenced target, or has no way but through a lost neighbour (Table 4-9, R137). -/
def State.boundFenced (s : State) (n inVc : Nat) (p : Packet) : Bool :=
  p.cls != 2 && (match s.choose n inVc p with
    | .fenced => true
    | .deliver k => k < 128 && s.fencedSlot k
    | _ => false)

/-- A packet is discarded at its head: on a trunk, a tracked one is resolved (R134); an endpoint's flag means nothing
(R101). -/
def dropHead (n id : Nat) (p : Packet) (s : State) : State := settleBuf id (if n < 32 then s else resolveTrack p s)

/-- A port consumes DISCOVER, and on a trunk PROOF, of a form that R100 allows (R44, Table 4-7). -/
def discoveryHead (n inVc : Nat) (p : Packet) : Bool :=
  p.cls == 0 && inVc == 0 && formOk p && (p.ptype == 1 || (p.ptype == 2 && 32 ≤ n))

/-- An accepted head (R51, R100, R105): the packet enters the core, is admitted or discarded under the first case of Table
4-9 that applies, and is routed, replicated or held. A SINGLE longer than one flit, or a HEAD of one flit, breaks R97 at
once (R115). Marks (DEDUCED 96; DESIGN CHOICE 272). -/
def admitHead (n inVc : Nat) (type : BitVec 4) (body : Bytes) (s : State) : State :=
  let p := parseHeader body
  let id := s.swc.nextId
  let single := type == ftSingle
  let b : Buf := {
    ing := n, vc := inVc, need := flitCount p.len.toNat, flits := [(type, body)], closed := single, lastGt := s.bel.gt }
  let whole := single == (b.need == 1)
  let s := s.modSwc (fun x => { x with
    nextId := id + 1
    bufs := Tab.put {} x.bufs id b
    opens := if single then x.opens else Tab.put none x.opens (slotClass n inVc) (some id) })
  if s.fencedSlot n then dropHead n id p (countFenced n s)
  else if discoveryHead n inVc p then
    let w : Waiting := { id := id, p := p, ing := n, inVc := inVc, eg := 256 + n, vc := inVc, admGt := s.bel.gt }
    if whole then enqueue { w with started := true } s else truncate id rLength (enqueue w s)
  else if (s.slotReg n).disc != .active then dropHead n id p (countStranger n s)
  else if s.boundFenced n inVc p then dropHead n id p (countFenced n s)
  else if !(if n < 32 then s.admitsEndpoint n inVc p else s.admitsTrunk inVc p) then dropHead n id p (countStranger n s)
  else
    let p := if n < 32 then stampPacket p s else p
    let w : Waiting := { id := id, p := p, ing := n, inVc := inVc, eg := 999, vc := inVc, admGt := s.bel.gt }
    if !whole then truncate id rLength (enqueue w s)
    else if p.cls == 2 then replicate w s
    else if n < 32 then enqueue { w with held := true } s
    else routeCopy w (enqueue w s)

/-- A packet whose buffer line reads uncorrectable fails: discarded whole, or ended by ABORT FENCED if started; the
line is withdrawn, and after 16 the slot is fenced (0x0302). -/
def failPacket (id n : Nat) (s : State) : State :=
  let s := s.modSlot n (fun r => { r with withdrawn := r.withdrawn + 1 })
  let fence := 16 ≤ (s.slotReg n).withdrawn
  let s := recordFault { source := 0x0302, unit := n, cls := 2, access := 2, inj := true, fenced := fence } s
  let s := if fence then fencePort n s else s
  if !s.swc.voq.any (fun w => w.id == id && !s.aborted w) then s
  else
    let s := (s.swc.voq.filter (·.id == id)).foldl (fun s w => resolveCopy w s) (countFenced n s)
    let s := s.dropCopies (fun w => w.id == id && !w.started)
    settleBuf id (s.modCopies (fun w => w.id == id) (fun w => { w with short := some rFenced }))

/-- An armed injection on a slot's buffers acts on the next buffer write (R356). -/
def bufferInjection (n id : Nat) (s : State) : State :=
  if !s.armedFor 0 n then s
  else
    let w := (s.flt.armed.getD {}).width
    let s := useInjection false s
    if w ≤ 1 then recordFault { source := 0x0301, unit := n, cls := 1, access := 2, inj := true } s
    else failPacket id n s

/-- A flit of an open packet (R94, R115): it joins the packet, or breaks R97 and truncates it. -/
def takeBody (n inVc id : Nat) (type : BitVec 4) (body : Bytes) (s : State) : State :=
  let b := s.buf id
  let i := b.flits.length + 1
  if type == ftAbort then
    let close := fun (x : Swc) => { x with opens := Tab.drop (slotClass n inVc) x.opens }
    let s := s.modBuf id (fun b => { b with flits := b.flits ++ [(type, body)], closed := true })
    settleBuf id (s.modSwc close)
  else if (type == ftTail && i < b.need) || (type == ftBody && b.need ≤ i) then
    truncate id rLength (freeFlits n inVc 1 s)
  else
    let last := type == ftTail
    let gt := s.bel.gt
    let s := s.modBuf id (fun b => { b with flits := b.flits ++ [(type, body)], closed := last, lastGt := gt })
    let s := if last then s.modSwc (fun x => { x with opens := Tab.drop (slotClass n inVc) x.opens }) else s
    settleBuf id (bufferInjection n id s)

/-- An accepted sequenced flit enters the core (R94, R112, R115). A HEAD while a packet is open on its VC ends that
packet as one whose tail never came. -/
def enterFlit (n : Nat) (vc : Nat) (type : BitVec 4) (body : Bytes) (s : State) : State :=
  let s := s.modLink n (fun l => { l with rxHeld := Tab.edit 0 l.rxHeld vc (· + 1) })
  let openId := Tab.look none s.swc.opens (slotClass n vc)
  if type == ftHead || type == ftSingle then
    let s := match openId with | some id => truncate id rLength s | none => s
    let id := s.swc.nextId
    bufferInjection n id (admitHead n vc type body s)
  else match openId with
    | some id => takeBody n vc id type body s
    | none => countOrphan n (freeFlits n vc 1 s)

/-- One received flit of an UP port (R91, R92, R95, R118, R121). A sequenced flit that is dropped reports no credit. -/
def receiveFlit (linkDown : Nat → State → State) (n : Nat) (f : Bytes) (s : State) : State :=
  if !s.isUp n then s
  else if !flitOk f then failFlit n s
  else
    let t := parseTag f
    let body := (f.drop 4).take 120
    if t.type == 0 then takeReport n t s
    else if t.type == ftLctl then
      let s := takeReport n t s
      let code := beAt body 0 1
      let seq := BitVec.ofNat 11 (beAt body 2 2)
      if code = 1 then onAck n seq s
      else if code = 2 then onNak n seq s
      else if code = 3 then
        let g := (List.range 8).map (fun i => beAt body (4 + 2 * i) 2)
        match (s.link n).grants with
        | none => s.modLink n (fun l => { l with grants := some g })
        | some g0 => if g0 = g then s else linkDown n s
      else s
    else
      let l := s.link n
      let vc := t.vc.toNat
      let room := Tab.look 0 l.rxHeld vc < (s.myGrants n).getD vc 0
      if t.seq != l.rxSeq then
        if l.nakOut then s else failFlit n s
      else if !room then failFlit n s
      else
        let take := fun (l : Link) =>
          { l with rxSeq := l.rxSeq + 1, toAck := l.toAck + 1, nakOut := false, accepted := true }
        let s := enterFlit n vc t.type body ((takeReport n t s).modLink n take)
        if 32 ≤ (s.link n).toAck then sendAck n s else s

/-! ## Starting a packet (EGRESS_PACKET_START) -/

/-- The copies of an egress VC that could start now, each at the front of its queue. -/
def State.ready (s : State) (eg vc : Nat) : List Waiting :=
  s.swc.voq.filter (fun w => !w.held && !w.started && w.eg == eg && w.vc == vc && s.meets w &&
    (match s.front eg vc w.ing with | some f => f.is w.id eg | none => false))

/-- Whose turn it is on an egress VC: ingress slots take turns by packet (R108). Marks (DESIGN CHOICE 256). -/
def State.turnOf (s : State) (eg vc : Nat) : Option Nat :=
  let t := Tab.look 0 s.swc.turnIn (8 * eg + vc)
  (s.ready eg vc).foldl (fun best w => match best with
    | none => some w.ing
    | some i => if (w.ing + 130 - t) % 130 < (i + 130 - t) % 130 then some w.ing else some i) none

/-- The VC that an optical port sends next: VC0, then VC7, then the others in turn (R85). -/
def State.vcOf (s : State) (eg : Nat) : Option Nat :=
  let on := fun v => !(s.ready eg v).isEmpty
  if on 0 then some 0 else if on 7 then some 7
  else
    let t := Tab.look 0 s.swc.turnVc eg
    ((List.range 8).map (fun i => (t + i) % 8)).find? on

/-- It is a packet's turn at its egress. -/
def State.inTurn (s : State) (eg vc ing : Nat) : Bool :=
  s.turnOf eg vc == some ing && (64 ≤ eg || s.vcOf eg == some vc)

/-- The turns pass on after a packet. -/
def passTurn (w : Waiting) (s : State) : State :=
  s.modSwc (fun x => { x with
    turnIn := Tab.put 0 x.turnIn (8 * w.eg + w.vc) ((w.ing + 1) % 130)
    turnVc := if w.vc = 0 || w.vc = 7 then x.turnVc else Tab.put 0 x.turnVc w.eg ((w.vc + 1) % 8) })

/-- An egress takes no traffic: it is fenced, or a VC2 copy's trunk is not usable (R129, Table 4-9). -/
def State.egressShut (s : State) (w : Waiting) : Bool :=
  s.fencedSlot w.eg || (w.mcast && 32 ≤ w.eg && w.eg < 64 && !s.usable w.eg) ||
  (w.eg == 120 && !s.host.l0 && w.p.cls == 0)

/-- A waiting packet is discarded as to a fenced target; where it would start and its turn has come, it is discarded for
age or starts (R83, R85, R108, R114, R129). Marks (DESIGN CHOICE 97). -/
def startPacket (eg vc ing : Nat) (s : State) : State :=
  if s.isFatal then s else
  match s.front eg vc ing with
  | none => s
  | some w =>
    if s.egressShut w then settleCore (discardCopy w (countFenced eg s))
    else if !s.meets w || !s.inTurn eg vc ing then s
    else if ing ≠ 129 && s.ageLimit vc < s.age w.p then settleCore (agedFold w.p (discardCopy w (countAged eg s)))
    else settleCore (passTurn w (beginCopy w s))

/-! ## Other commands on the core -/

/-- PACKET_STALL: the stall limit of an open packet passes, counted from its last flit or from when its VC had buffer
space again; while the VC is full the timer stands (R115). Marks (DEDUCED 123). -/
def packetStall (n vc : Nat) (s : State) : State :=
  if s.isFatal then s else
  match Tab.look none s.swc.opens (slotClass n vc) with
  | some id =>
    let l := s.link n
    let since := max (s.buf id).lastGt (Tab.look 0 l.spaceGt vc)
    if Tab.look 0 l.rxHeld vc < (s.myGrants n).getD vc 0
    then settleCore (truncate id rStall (advanceTo (since + (s.slotReg n).stall) s)) else s
  | none => s

/-- RTE_CTL.ESC_WAIT, where 0 acts as 1 (Table 5-7). -/
def State.escWait (s : State) : Nat := max 1 s.rte.escWait.toNat

/-- PACKET_ESCAPE: an UNORDERED head that has waited ESC_WAIT GT in all without credit moves to VC7 in dimension order
(R127). Marks (DEDUCED 104). -/
def packetEscape (ing eg vc : Nat) (s : State) : State :=
  if s.isFatal then s else
  match s.front eg vc ing with
  | none => s
  | some w =>
    let cls := w.p.cls.toNat
    if s.dry w && vc = cls && !s.orderedClass cls && cls ≠ 2 then
      let from_ := w.dryFrom.getD s.bel.gt
      let s := advanceTo (from_ + (s.escWait - w.waited)) s
      let w' := { w with inVc := 7 }
      let s := (s.modCopies (·.is w.id w.eg) (fun _ => w')).modRte (fun r => { r with escCnt := sat32 r.escCnt })
      settleCore (routeCopy w' s)
    else s

/-- The fence limit of a class (R133). Marks (DEDUCED 103). -/
def State.fenceLimit (s : State) (cls : Nat) : Nat :=
  let stall := (List.range 128).foldl (fun m n => max m (s.slotReg n).stall) 0
  s.ageLimit cls + 36 * stall + 31250

/-- ORDER_FENCE_LIMIT: the hold of a packet ends by the limit (R133). -/
def orderFenceLimit (ing cls : Nat) (s : State) : State :=
  if s.isFatal then s else
  match s.swc.voq.find? (fun w => w.held && w.ing == ing && w.p.cls.toNat == cls) with
  | none => s
  | some w =>
    if !w.p.order then s
    else
      let s := advanceTo (w.admGt + s.fenceLimit cls) s
      let s := if s.outbound w.p then s
        else recordFault { source := 0x0307, unit := ing, cls := 1, access := 0x0B, addr := ing * 256 + cls }
               (s.modRte (fun r => { r with fenceTo := sat32 r.fenceTo }))
      settleCore (releaseCopy w s)

/-- A packet is taken from those that wait inside for their service. Marks (DESIGN CHOICE 108). -/
def takeInbox (p : Packet) (s : State) : State :=
  s.modInbox (fun l => l.eraseIdx (l.findIdx (fun e => e.2 == p)))

/-- DLV_ACK: its counts are subtracted from the outstanding counts (R134, Table 5-3). -/
def dlvAck (p : Packet) (s : State) : State :=
  if p.ptype != 6 || p.cls != 0 || s.isFatal then s
  else
    let s := takeInbox p s
    let es := (List.range (p.payload.length / 4)).map (fun i => beAt p.payload (4 * i) 4)
    settleCore (es.foldl (fun s e =>
      s.modSwc (fun w => { w with outstand := Tab.edit 0 w.outstand (slotClass (bits e 31 24) (bits e 23 21)) (· - e % 65536) })) s)

/-- DLV_ACK_FLUSH: 128 ns after the oldest pending count for a device (R134). -/
def dlvAckFlush (dev : Nat) (s : State) : State := if s.isFatal then s else settleCore (sendDlvAck dev s)

/-! ## Meanings -/

def execPacketStall (port vc : Nat) (s : State) : Answer := need (Wf.port port && Wf.vc vc) (packetStall port vc s)
def execEgressPacketStart (egress vc ingress : Nat) (s : State) : Answer :=
  need (Wf.slot egress && Wf.vc vc && Wf.ingress ingress) (startPacket egress vc ingress s)
def execPacketEscape (ingress egress vc : Nat) (s : State) : Answer :=
  need (Wf.ingress ingress && Wf.slot egress && Wf.vc vc) (packetEscape ingress egress vc s)
def execOrderFenceLimit (ingress cls : Nat) (s : State) : Answer :=
  need (Wf.slot ingress && Wf.vc cls) (orderFenceLimit ingress cls s)
def execDlvAck (p : Packet) (s : State) : Answer := need (Wf.packet p) (dlvAck p s)
def execDlvAckFlush (device : Nat) (s : State) : Answer := need (Wf.device device) (dlvAckFlush device s)

end Sys2Proof.Machine
end

