-- ==== Sys2Proof/Machine/Optics.lean ====
section
/-! DEFINITION. Machine/Optics.lean: optical ports: training, link-up and link-down, lane sparing, laser feeds, test
modes, and discovery (13_optical_bell_and_host_links.md R317-R334, 02_ranges_paddocks_fields.md R43-R46). -/

namespace Sys2Proof.Machine

/-! ## Spare lanes (R318) -/

/-- Whether a spare lane serves a port: on a mesh engine always, on an endpoint engine where the plan names it (R318).
The plan keys a spare by 2 × engine + (lane − 32). -/
def State.spareServes (s : State) (n l : Nat) : Bool :=
  8 ≤ engineOf n || s.topology.sparePorts.any (fun e => e.1 == 2 * engineOf n + (l - 32) && e.2 == portIn n)

/-- The lowest-numbered free transmit spare that serves a port. -/
def State.freeTxSpare (s : State) (n : Nat) : Option Nat :=
  [32, 33].find? (fun l => s.spareServes n l && (s.lane (engineOf n) l).tx.isNone && !(s.lane (engineOf n) l).txFailed)

/-! ## Plans and discovery states (R43, R45, R46) -/

/-- The identity that the plan expects on a port: a device index on a trunk, an EID on an endpoint port. -/
def plannedIdent (t : Topology) (n : Nat) : Option Nat :=
  if n < 32 then (t.endpoints.find? (·.1 == n)).map (·.2) else (t.trunks.find? (·.1 == n)).map (·.2.peer)

def State.trunkPlan (s : State) (n : Nat) : Option TrunkPlan := (s.topology.trunks.find? (·.1 == n)).map (·.2)

/-- A port's discovery state changes: vector 5 (Table 13-8). -/
def setDisc (n : Nat) (d : Disc) (s : State) : State :=
  if (s.slotReg n).disc = d then s else signal 5 (s.modSlot n (fun r => { r with disc := d }))

/-- LINK_UP changes: vector 5. -/
def setLinkUp (n : Nat) (u : Bool) (s : State) : State :=
  if (s.slotReg n).linkUp = u then s else signal 5 (s.modSlot n (fun r => { r with linkUp := u }))

/-- The state that DISC takes when a link goes down or is planned anew (R46). -/
def State.restDisc (s : State) (n : Nat) : Disc :=
  if (plannedIdent s.topology n).isSome then .discovering
  else if (s.slotReg n).disc = .quarantined then .quarantined else .unused

/-! ## Link-down (R96, R115, R135) -/

/-- Why a port is shut: the core's part of a link-down. -/
def linkLost (n reason : Nat) (s : State) : State :=
  let s := truncateAll n reason s
  let loose := fun (e : Nat × Buf) => (e.1, if e.2.ing = n then { e.2 with ing := 999 } else e.2)
  let s := s.modSwc (fun w => { w with links := Tab.drop n w.links, bufs := w.bufs.map loose })
  settleCore (requeue n (updateLost s))

/-- A port goes down (R324): to ADAPT with light on its lanes, else to DARK, or to TEST. -/
def goDown (n : Nat) (light : Bool) (s : State) : State :=
  let wasUp := s.isUp n
  let test := (s.optPort n).mode ≠ 0
  let s := s.modOptPort n (fun o => { o with
    tstate := if test then .test else if light then .adapt else .dark
    light := light, rxOk := false, peerRxOk := false, sparing := none, spareQ := [], request := none
    peerSparing := false })
  if wasUp then linkLost n rLinkDown (setDisc n (s.restDisc n) (setLinkUp n false s)) else s

/-- A link is declared down by R96: REPLAY_FAIL, record 0x0107, retraining. Marks (DEDUCED 93). -/
def replayDown (n : Nat) (s : State) : State :=
  let light := (s.optPort n).light
  goDown n light (recordFault { source := 0x0107, unit := n, cls := 1, access := 8 }
    (s.modSlot n (fun r => { r with replayFail := true })))

/-- LINK_REPLAY_FAIL: 16 successive replays without progress (R96). -/
def linkReplayFail (n : Nat) (s : State) : State :=
  if s.isUp n && 16 ≤ (s.link n).replays && !s.isFatal then replayDown n s else s

/-! ## Discovery (R44, R45) -/

/-- The DISCOVER body of this device on a port (Table 2-5). -/
def State.discoverBody (s : State) (n : Nat) (nonce : Bytes) : Bytes :=
  [1] ++ beBytes 1 n ++ [0, 0] ++ beBytes 4 s.devIndex ++ nonce

/-- A discovery packet of this device joins its port's VC0 queue. -/
def sendDiscovery (n ptype : Nat) (body : Bytes) (s : State) : State :=
  let p : Packet := { dst := 0, cls := 0, src := BitVec.ofNat 20 (foldEid s.devIndex), ptype := BitVec.ofNat 8 ptype }
  let p := sealPacket p body
  let id := s.swc.nextId
  let b : Buf := { ing := 129, vc := 0, need := flitCount p.len.toNat, flits := packetFlits p, closed := true }
  let w : Waiting := { id := id, p := { p with payload := [] }, ing := 129, inVc := 0, eg := n, vc := 0, admGt := s.bel.gt }
  enqueue w (s.modSwc (fun x => { x with nextId := id + 1, bufs := Tab.put {} x.bufs id b }))

/-- DISCOVER_SEND: a fresh NONCE of 32 random bytes (R44). -/
def sendDiscover (n : Nat) (s : State) : State :=
  let nonce := (List.range 32).map (Config.nonceByte s.draws)
  let s := s.skip 1
  (sendDiscovery n 1 (s.discoverBody n nonce) s).modLink n (fun l => { l with nonce := nonce, discSent := true })

/-- Discovery of a port is under way: its link is up and its state is not decided. -/
def State.discovering (s : State) (n : Nat) : Bool :=
  s.isUp n && (s.link n).discSent && !(s.link n).discBad && !(s.link n).proofOk

/-- Record 0x0108: planned IDENT in [51:32], presented in [19:0] (Table 14-4). Marks (DEDUCED 117). -/
def logDiscovery (n access planned presented : Nat) (s : State) : State :=
  recordFault { source := 0x0108, unit := n, cls := 1, access := access,
                addr := (planned % 2 ^ 20) * 2 ^ 32 + presented % 2 ^ 20 } s

/-- Discovery of a port ends in a state of Table 2-6; `presented` is the peer's IDENT. -/
def endDiscovery (n : Nat) (good : Bool) (s : State) : State :=
  let planned := plannedIdent s.topology n
  let presented := match (s.link n).gotDisc with | some (_, i, _) => i | none => 0
  let s := s.modLink n (fun l => { l with proofOk := good, discBad := !good })
  if good && planned.isSome then settleCore (updateLost (setDisc n .active s))
  else settleCore (updateLost (setDisc n .quarantined (logDiscovery n 8 (planned.getD 0) presented s)))

/-- DISCOVER received on a port (R44, R45). Marks (DEDUCED 119). -/
def discover (n : Nat) (p : Packet) (s : State) : State :=
  let s := takeInbox p s
  if !s.discovering n || s.isFatal then s
  else
    let b := p.payload
    let kind := beAt b 0 1
    let good := p.len.toNat == 40 && kind == (if n < 32 then 2 else 1)
    let port := beAt b 1 1
    let ident := beAt b 4 4
    let s := s.modSlot n (fun r => { r with peerPort := BitVec.ofNat 6 port, peerIdent := BitVec.ofNat 20 ident })
    let s := s.modLink n (fun l => { l with gotDisc := some (port, ident, b) })
    if !good then endDiscovery n false s
    else
      if n < 32 then endDiscovery n (plannedIdent s.topology n == some ident) s
      else
        let own := (s.discoverBody n []).take 8
        let (random, s) := s.drawBytes 32
        let sig := mldsaSign s.seed (slice b 8 32 ++ own) random
        let s := settleCore (sendDiscovery n 2 (slice sig 0 3309) s)
        if (plannedIdent s.topology n).isSome then s else endDiscovery n false s

/-- PROOF received on a port (R44, R45). An endpoint port expects none. Marks (DEDUCED 120). -/
def proof (n : Nat) (p : Packet) (s : State) : State :=
  let s := takeInbox p s
  if !s.discovering n || n < 32 || s.isFatal then s
  else
    match (s.link n).gotDisc, s.trunkPlan n with
    | some (port, ident, raw), some t =>
      let msg := (s.link n).nonce ++ raw.take 8
      let good := p.len.toNat == 3309 && mldsaVerify t.key msg p.payload && ident == t.peer && port == t.port
      endDiscovery n good s
    | _, _ => endDiscovery n false s

/-- DISCOVERY_TIMEOUT: an exchange not complete 10 ms after link-up is an identity mismatch (R45). -/
def discoveryTimeout (n : Nat) (s : State) : State :=
  if s.discovering n && !s.isFatal then endDiscovery n false s else s

/-- ABSENT_TIMEOUT: nothing has trained on a planned port (R45, R46, R382). -/
def absentTimeout (n : Nat) (s : State) : State :=
  if !s.isUp n && (plannedIdent s.topology n).isSome && (s.slotReg n).disc == .discovering && !s.isFatal
  then setDisc n .absent (logDiscovery n 0x0B ((plannedIdent s.topology n).getD 0) 0 s) else s

/-! ## Training (R323) -/

/-- A base image is in effect (R382). -/
def State.hasBase (s : State) : Bool := s.baseBody.isSome

/-- The LINK word that a port sends; RX_OK is held back until a base image is in effect (R382). Marks (DESIGN CHOICE 90). -/
def sendLink (n op lane : Nat) (s : State) : State := s.emit (.linkWord n (s.rxOkSent n) op lane)

/-- ENGINE_MODULATORS_LOCKED: link training has begun, a feed is there, the modulators lock (R323, R331). -/
def modulatorsLocked (oe : Nat) (s : State) : State :=
  let e := s.engine oe
  if s.glb.stage < 4 || s.isFatal || e.fenced || (e.lostA && e.lostB) || !e.dark then s
  else
    let on := fun (s : State) q => s.modOptPort (4 * oe + q) (fun o =>
      { o with tstate := if o.tstate = .off then .dark else o.tstate })
    [0, 1, 2, 3].foldl on (s.modEngine oe (fun e => { e with dark := false }))

/-- The optical path of a port is in service. -/
def State.lit (s : State) (n : Nat) : Bool :=
  !(s.engine (engineOf n)).dark && !(s.engine (engineOf n)).fenced && !s.isFatal

/-- Marks (DEDUCED 89). -/
def lightDetected (n : Nat) (s : State) : State :=
  if s.lit n && (s.optPort n).tstate == .dark
  then s.modOptPort n (fun o => { o with tstate := .adapt, light := true }) else s

def portAdapted (n : Nat) (s : State) : State :=
  if s.lit n && (s.optPort n).tstate == .adapt then s.modOptPort n (fun o => { o with tstate := .align }) else s

/-- Start the exchange of the lane at the front of a port's queue (R327). Marks (DEDUCED 113). -/
def startSparing (n : Nat) (s : State) : State :=
  let o := s.optPort n
  match o.sparing, o.spareQ with
  | none, x :: r =>
    sendLink n 1 x.lane (s.modOptPort n (fun o => { o with sparing := some x, spareQ := r, noSpare := false }))
  | _, _ => s

/-- PORT_ALIGNED: a lane that failed to align is spared at once (R323, R329). -/
def portAligned (n : Nat) (failed : List Nat) (s : State) : State :=
  if s.lit n && (s.optPort n).tstate == .align then
    startSparing n (s.modOptPort n (fun o => { o with
      tstate := .fec, spareQ := o.spareQ ++ failed.map (fun l => ({ lane := l, dark := false } : Sparing)) }))
  else s

/-- PORT_FEC_LOCKED: 256 consecutive decodable slots (R323). -/
def fecLocked (n : Nat) (s : State) : State :=
  if s.lit n && (s.optPort n).tstate == .fec
  then sendLink n 0 0 (s.modOptPort n (fun o => { o with rxOk := true })) else s

/-- PORT_UP: link-up (R323): CREDIT_INIT and discovery follow (R44, R118). -/
def portUp (n : Nat) (s : State) : State :=
  let o := s.optPort n
  if s.lit n && o.tstate == .fec && o.rxOk && o.peerRxOk && s.hasBase && o.sparing.isNone && o.mode = 0 then
    let s := s.modOptPort n (fun o => { o with tstate := .up })
    let s := s.modSwc (fun w => { w with links := Tab.drop n w.links })
    let s := setDisc n (s.restDisc n) (setLinkUp n true s)
    settleCore (sendDiscover n (sendCreditInit n s))
  else s

/-- PORT_DOWN (R324): outside a sparing exchange, for the causes that the state shows. -/
def portDown (n : Nat) (cause : DownCause) (light : Bool) (s : State) : State :=
  let o := s.optPort n
  let e := s.engine (engineOf n)
  let holds := match cause with
    | .fecLost => o.sparing.isNone && !o.peerSparing
    | .signalLost => o.sparing.isNone && !o.peerSparing
    | .engineDark => e.dark
    | .testMode => o.mode ≠ 0
  if holds && (o.tstate == .up || o.tstate == .fec || o.tstate == .align || o.tstate == .adapt) && !s.isFatal
  then goDown n light s else s

/-! ## Received slots (R320, R322, R325) -/

/-- GT of 2^24 symbols of a lane: 2^24 × 5 / 112 GBd (R326). Marks (DESIGN CHOICE 114). -/
def laneWindow : Nat := 234057

/-- Corrected symbols are counted against the physical lane that carried them, and in the lane's window. -/
def countSymbols (n : Nat) (cs : List Nat) (s : State) : State :=
  let oe := engineOf n
  let gt := s.bel.gt
  cs.foldl (fun s i => s.modLane oe (s.rxLaneOf oe (logicalOf n i)) (fun l =>
    { l with sym := sat32 l.sym, recent := gt :: l.recent.filter (fun g => gt < g + laneWindow) })) s

/-- The FEC decoder's counts for a decodable slot (R325). -/
def countCorrected (n : Nat) (cs : List Nat) (s : State) : State :=
  if cs.isEmpty then s
  else countSymbols n cs (s.modOptPort n (fun o => { o with cwc := sat32 o.cwc, fecMax := max o.fecMax cs.length }))

/-- Byte b of test flit k (R333). -/
def testFlit (k : Nat) : Bytes := beBytes 4 k ++ (List.range 124).map (fun i => BitVec.ofNat 8 (k + i + 4))

/-- A flit in FLIT test mode is checked against the count (R333). -/
def checkTestFlit (n : Nat) (f : Bytes) (s : State) : State :=
  s.modOptPort n (fun o =>
    let k := match o.testNext with | some k => k | none => beAt f 0 4
    let o := { o with testNext := some ((k + 1) % 2 ^ 32) }
    if f = testFlit k then o else { o with testErr := sat32 o.testErr })

/-- An exchange ends without a spare (R327): a lane without light takes the port down; a noisy one stays in use, and the
port leaves SPARING with OP NONE and a NAK. -/
def endNoSpare (n : Nat) (s : State) : State :=
  match (s.optPort n).sparing with
  | none => s
  | some x =>
    let oe := engineOf n
    let ph := s.rxLaneOf oe (logicalOf n x.lane)
    let s := s.modOptPort n (fun o => { o with sparing := none, noSpare := true })
    let s := signal 5 (recordFault { source := 0x0102, unit := unitEngine oe, cls := 1, access := 8, addr := ph } s)
    if x.dark then goDown n false s
    else
      let s := sendLink n 0 0 s
      startSparing n (if s.isUp n then sendNak n s else s)

/-- Step 3 and 4 of an exchange (R327): the logical lane is found on the spare; decoding resumes with a NAK. -/
def endSparing (n ph : Nat) (s : State) : State :=
  match (s.optPort n).sparing with
  | none => s
  | some x =>
    let oe := engineOf n
    let logical := logicalOf n x.lane
    let old := s.rxLaneOf oe logical
    let s := s.modLane oe old (fun l => { l with rx := none, rxFailed := true })
    let s := s.modLane oe ph (fun l => { l with rx := some logical })
    let s := s.modOptPort n (fun o => { o with sparing := none, exchanges := satAdd 255 o.exchanges 1 })
    let s := signal 5 (recordFault { source := 0x0101, unit := unitEngine oe, cls := 1, access := 8, addr := old } s)
    let s := sendLink n 0 0 s
    startSparing n (if s.isUp n then sendNak n s else s)

/-- The LINK word of an AM slot (Table 13-3): RX_OK, SPARE, NO_SPARE. Every AM slot of an exchange repeats SPARE, which
asks once (R327). -/
def takeLink (n : Nat) (rxOk : Bool) (op lane : Nat) (s : State) : State :=
  let s := s.modOptPort n (fun o => { o with
    peerRxOk := rxOk
    peerSparing := op == 1
    request := if op = 1 && !o.peerSparing then some lane else o.request })
  match (s.optPort n).sparing with
  | some x => if op = 2 && x.lane = lane then endNoSpare n s else s
  | none => s

/-- What a slot is: message symbols are read by their control field (Table 13-2). -/
def slotKind : RxSlot → RxSlot
  | .symbols c m found => readSlot c m found
  | r => r

/-- SLOT_RECEIVE (R325). Slots count from FEC lock on (R323); the LINK word of an AM slot, and the spare on which it finds
a lane, serve the port before the lock, too (R329). Marks (DEDUCED 115). -/
def slotReceive (n : Nat) (r : RxSlot) (s : State) : State :=
  let o := s.optPort n
  let test := o.tstate == .test && o.mode == 2
  let locked := s.isUp n || (o.tstate == .fec && o.rxOk) || test
  if !s.lit n || !(locked || o.tstate == .fec) then s
  else match slotKind r with
  | .uncorrectable | .reservedType | .symbols _ _ _ =>
    if !locked then s
    else
      let s := s.modOptPort n (fun o => { o with cwu := sat32 o.cwu })
      if s.isUp n then settleCore ((List.range 5).foldl (fun s _ => failFlit n s) s) else s
  | .rm cs => if locked then countCorrected n cs s else s
  | .am cs rxOk op lane found =>
    let s := takeLink n rxOk op lane (if locked then countCorrected n cs s else s)
    match found with | some ph => endSparing n ph s | none => s
  | .data cs fs =>
    if !locked then s
    else
      let s := countCorrected n cs s
      if test then fs.foldl (fun s f => checkTestFlit n f s) s
      else settleCore (fs.foldl (fun s f => receiveFlit replayDown n f s) s)

/-! ## Sparing (R326-R328) -/

/-- LANE_MOVE_TO_SPARE: the transmitter's part of an exchange; requests on one engine are served in port order (R327). -/
def moveToSpare (n : Nat) (s : State) : State :=
  match (s.optPort n).request with
  | none => s
  | some lane =>
    if !s.lit n || (List.range (portIn n)).any (fun q => (s.optPort (4 * engineOf n + q)).request.isSome) then s
    else
      let oe := engineOf n
      let logical := logicalOf n lane
      let s0 := s.modOptPort n (fun o => { o with request := none })
      match s.freeTxSpare n with
      | none => sendLink n 2 lane (s0.modOptPort n (fun o => { o with peerSparing := false }))
      | some l =>
        let old := s.txLaneOf oe logical
        let s := s0.modLane oe old (fun k => { k with tx := none, txFailed := true })
        sendLink n 0 0 (s.modLane oe l (fun k => { k with tx := some logical }))

/-- A lane's corrected symbols have reached 2^SPARE_THR within its window (R326). -/
def State.noisy (s : State) (oe l : Nat) : Bool :=
  2 ^ (s.engine oe).thr ≤ ((s.lane oe l).recent.filter (fun g => s.bel.gt < g + laneWindow)).length

/-- LANE_UNUSABLE (R326, R330): the lane has had no light for 100 ns, or is noisy. An exchange starts, unless the fault is
broad, sparing is off, or the lane is noisy while one feed is lost. -/
def laneUnusable (oe l : Nat) (dark : Bool) (s : State) : State :=
  let e := s.engine oe
  if e.fenced || e.dark || s.isFatal || !(dark || s.noisy oe l) then s
  else
    let gt := s.bel.gt
    let recent := (e.badLanes.filter (fun b => gt < b.2 + laneWindow && b.1 ≠ l)) ++ [(l, gt)]
    let s := (s.modEngine oe (fun e => { e with badLanes := recent })).modLane oe l
      (fun k => { k with rxFailed := true, recent := [] })
    if 3 ≤ recent.length then
      recordFault { source := 0x0103, unit := unitEngine oe, cls := 1, access := 8 }
        (s.modEngine oe (fun e => { e with broadFault := true }))
    else match (s.lane oe l).rx with
    | none => s
    | some logical =>
      let n := 4 * oe + logical / 8
      let o := s.optPort n
      if o.tstate != .up && o.tstate != .fec then s
      else if !e.autoSpare || (!dark && (e.lostA || e.lostB)) then
        let s := recordFault { source := 0x0102, unit := unitEngine oe, cls := 1, access := 8, addr := l } s
        if dark then goDown n false s else s
      else startSparing n (s.modOptPort n (fun o => { o with
        spareQ := o.spareQ ++ [{ lane := logical % 8, dark := dark }] }))

/-- SPARING_TIMEOUT (R327). -/
def sparingTimeout (n : Nat) (s : State) : State := if s.lit n then endNoSpare n s else s

/-! ## Laser feeds and engines (R330, R331, R353) -/

/-- All four ports of an engine go down. -/
def portsDown (oe : Nat) (s : State) : State :=
  [0, 1, 2, 3].foldl (fun s q => if (s.optPort (4 * oe + q)).tstate = .off then s else goDown (4 * oe + q) false s) s

/-- FEED_LOST (R330, R331). -/
def feedLost (oe : Nat) (feedB : Bool) (s : State) : State :=
  let e := s.engine oe
  if s.isFatal || (if feedB then e.lostB else e.lostA) then s
  else
    let s := s.modEngine oe (fun e =>
      { e with lostA := e.lostA || !feedB, lostB := e.lostB || feedB, singleFeed := true })
    let s := signal 5 (recordFault { source := 0x0104, unit := unitEngine oe, cls := 1, access := 0x0C, addr := ofBool feedB } s)
    let e := s.engine oe
    if e.lostA && e.lostB then
      portsDown oe (recordFault { source := 0x0105, unit := unitEngine oe, cls := 2, access := 0x0C }
        (s.modEngine oe (fun e => { e with dark := true })))
    else s

/-- FEED_RESTORED (R331, R332): a dark engine starts to relock; its ports then train from DARK. -/
def feedRestored (oe : Nat) (feedB : Bool) (s : State) : State :=
  let e := s.engine oe
  if s.isFatal || !(if feedB then e.lostB else e.lostA) then s
  else signal 5 (s.modEngine oe (fun e => { e with lostA := e.lostA && feedB, lostB := e.lostB && !feedB }))

/-- Fence an optical engine: its four ports go down (Table 14-5). Marks (DESIGN CHOICE 274). -/
def fenceEngine (oe : Nat) (s : State) : State :=
  portsDown oe (updateLost (s.modEngine oe (fun e => { e with fenced := true })))

/-- OPTICAL_ENGINE_FAULT (R353). -/
def engineFault (oe : Nat) (s : State) : State :=
  if s.isFatal then s
  else fenceEngine oe (recordFault { source := 0x0106, unit := unitEngine oe, cls := 2, access := 0x0C, fenced := true } s)

/-! ## Tests and injection (R333, R334) -/

/-- A write of LNK_OEn_Pq_TEST.MODE. MODE 3 is not one of the values that R333 gives; it acts as 0. Marks (DEDUCED 116). -/
def portTestMode (n mode : Nat) (s : State) : State :=
  if s.isFatal then s
  else
    let m := if mode = 3 then 0 else mode
    let was := (s.optPort n).mode
    let s := s.modOptPort n (fun o => { o with mode := m, testNext := none })
    if m = was then s
    else if m = 0 then s.modOptPort n (fun o => { o with tstate := if o.light then .adapt else .dark })
    else goDown n (s.optPort n).light s

/-- INJECT_BURST: 1 to 31 symbols of the next DATA slot (R334). -/
def injectBurst (n b : Nat) (s : State) : State :=
  if b = 0 || s.isFatal then s else s.modLink n (fun l => { l with burstOnce := b })

/-- INJECT_LCRC: the next sequenced flit's link CRC (R334). -/
def injectLcrc (n : Nat) (s : State) : State := if s.isFatal then s else s.modLink n (fun l => { l with lcrcOnce := true })

/-! ## The slot stream with nothing else to send (R321, R322, R333) -/

/-- The next test flit of a port in FLIT test mode (R333). -/
def sendTestFlit (n : Nat) (s : State) : State :=
  let k := (s.link n).testFlits
  let f := testFlit k
  fillSlot n f ((s.emit (.flit n f)).modLink n (fun l => { l with testFlits := (k + 1) % 2 ^ 32 }))

/-- A port completes its slot: IDLE flits fill it, or test flits (R321, R323, R333). -/
def streamPort (n : Nat) (s : State) : State :=
  let o := s.optPort n
  let f := if o.tstate == .test then sendTestFlit n else sendIdle n
  if !s.lit n || o.tstate == .off || (o.tstate == .test && o.mode != 2) then s
  else (List.range (5 - (s.link n).slotFlits.length)).foldl (fun s _ => f s) s

/-- An unused spare lane keeps its receiver aligned (R322). -/
def streamSpare (oe l : Nat) (s : State) : State :=
  let e := s.engine oe
  let k := s.lane oe l
  if e.dark || e.fenced || s.isFatal || k.tx.isSome || k.txFailed then s else s.emit (.spare oe l (spareSlot l))

/-- One slot on every port and spare lane that sends. Marks (DESIGN CHOICE 257). -/
def slotTime (s : State) : State :=
  let s := (List.range 64).foldl (fun s n => streamPort n s) s
  (List.range 16).foldl (fun s oe => streamSpare oe 33 (streamSpare oe 32 s)) s

/-! ## Meanings -/

def execEngineModulatorsLocked (oe : Nat) (s : State) : Answer := need (Wf.engine oe) (modulatorsLocked oe s)
def execPortLightDetected (port : Nat) (s : State) : Answer := need (Wf.port port) (lightDetected port s)
def execPortAdapted (port : Nat) (s : State) : Answer := need (Wf.port port) (portAdapted port s)
def execPortAligned (port : Nat) (failed : List Nat) (s : State) : Answer :=
  need (Wf.port port && failed.all (· < 8)) (portAligned port failed s)
def execPortFecLocked (port : Nat) (s : State) : Answer := need (Wf.port port) (fecLocked port s)
def execPortUp (port : Nat) (s : State) : Answer := need (Wf.port port) (portUp port s)
def execPortDown (port : Nat) (cause : DownCause) (light : Bool) (s : State) : Answer :=
  need (Wf.port port) (portDown port cause light s)
def execSlotReceive (port : Nat) (slot : RxSlot) (s : State) : Answer :=
  need (Wf.port port && Wf.rxSlot slot) (slotReceive port slot s)
def execLaneMoveToSpare (port : Nat) (s : State) : Answer := need (Wf.port port) (moveToSpare port s)
def execLaneUnusable (oe lane : Nat) (dark : Bool) (s : State) : Answer :=
  need (Wf.engine oe && Wf.lane lane) (laneUnusable oe lane dark s)
def execSparingTimeout (port : Nat) (s : State) : Answer := need (Wf.port port) (sparingTimeout port s)
def execFeedLost (oe : Nat) (feedB : Bool) (s : State) : Answer := need (Wf.engine oe) (feedLost oe feedB s)
def execFeedRestored (oe : Nat) (feedB : Bool) (s : State) : Answer := need (Wf.engine oe) (feedRestored oe feedB s)
def execOpticalEngineFault (oe : Nat) (s : State) : Answer := need (Wf.engine oe) (engineFault oe s)
def execPortTestMode (port mode : Nat) (s : State) : Answer := 
  need (Wf.port port && mode < 4) (onBlock 5 false (portTestMode port mode) s)
def execInjectBurst (port b : Nat) (s : State) : Answer := 
  need (Wf.port port && b < 32) (onBlock 5 false (injectBurst port b) s)
def execInjectLcrc (port : Nat) (s : State) : Answer := need (Wf.port port) (onBlock 5 false (injectLcrc port) s)
def execLinkReplayFail (port : Nat) (s : State) : Answer := need (Wf.port port) (linkReplayFail port s)
def execDiscover (port : Nat) (p : Packet) (s : State) : Answer := need (Wf.port port && Wf.packet p) (discover port p s)
def execProof (port : Nat) (p : Packet) (s : State) : Answer := need (Wf.port port && Wf.packet p) (proof port p s)
def execDiscoveryTimeout (port : Nat) (s : State) : Answer := need (Wf.port port) (discoveryTimeout port s)
def execAbsentTimeout (port : Nat) (s : State) : Answer := need (Wf.port port) (absentTimeout port s)

end Sys2Proof.Machine
end

