-- ==== Sys2Proof/Machine/Bell.lean ====
section
/-! DEFINITION. Machine/Bell.lean: marks, the servo, join delays, barriers, holdover and takeover, Bell-port checks,
shapers (03_bell_gates_shaping.md; R336, R337 of 13_optical_bell_and_host_links.md). -/

namespace Sys2Proof.Machine

/-! ## State and errors -/

/-- Bell synchronisation runs from STAGE 6 on, and not in the fatal state (R379, R352). -/
def State.bellOn (s : State) : Bool := 6 ≤ s.glb.stage && !s.isFatal

/-- STAGE 7 READY: ELAPSED stops and the power-up's reset record completes (R373, Table 15-1). -/
def becomeReady (s : State) : State :=
  if s.glb.stage ≠ 6 then s else
  let s := s.modGlb (fun g => { g with stage := 7, elapsedStop := g.elapsedStop.or (some g.sinceT0) })
  match s.flt.bootSeq with
  | some q => (s.modAttic (fun a => a.finishReset q s.bel.gt 0 none)).modFlt (fun t => { t with bootSeq := none })
  | none => s

/-- BEL_STATUS.STATE takes a value; a change signals vector 4 (Table 13-8). -/
def setBellState (st : BellState) (s : State) : State :=
  let s := if s.bel.state = st then s else signal 4 (s.modBel (fun b => { b with state := st }))
  if st = .locked then becomeReady (s.modBel (fun b => { b with everLocked := true })) else s

/-- A complete frame has arrived on a port (R79). -/
def noteFrame (b : Nat) (s : State) : State := s.modBellPort b (fun p => { p with lastGt := s.bel.gt })

/-- A frame is discarded and counted (R63); the Bell link counts what it found (Table 13-13). -/
def badFrame (b : Nat) (c : FrameCheck) (s : State) : State :=
  let s := s.modBellPort b (fun p => { p with frames := satAdd 0xFFFF p.frames 1 })
  match c with
  | .codeViolation => s.modBln b (fun l => { l with cv := sat32 l.cv })
  | .disparity => s.modBln b (fun l => { l with disp := sat32 l.disp })
  | _ => s

/-- The measured delay of a join in fine units: the mean over the last 64 exchanges and the image's correction (R66). Marks (DESIGN CHOICE 127). -/
def State.joinDelay (s : State) (b : Nat) : Int :=
  let t : Int := (s.bellPort b).rounds.foldl (· + ·) 0
  t / 128 + (if t % 128 ≠ 0 && Config.delayRoundsUp t then 1 else 0) + s.topology.bellCorr.getD b 0

/-- The delay of a join is valid after 64 exchanges (Table 3-2). -/
def State.delayValid (s : State) (b : Nat) : Bool := (s.bellPort b).rounds.length == 64

/-! ## Marks (R64, R65) -/

/-- Bit of a Field in a mask. -/
def fieldBit (f : Nat) : BitVec 64 := 1#64 <<< f

/-- The device's subtree mask at a mark (R65). -/
def State.subtreeMask (s : State) (m : Nat) : BitVec 64 :=
  let own := match s.home with | some e => fieldBit e.id | none => 0
  (List.range 4).foldl (fun a b =>
    match (s.bellPort b).childMark with
    | some (m', k) => if m' + s.tickLen = m then a ||| k else a
    | none => a) own

/-- Send a MARK on every Bell port; CHILD only on the copy to the upstream port (R65). -/
def sendMarks (m : Nat) (corr : Int) (kexp : Nat) (good : Bool) (s : State) : State :=
  let f : MarkFrame := {
    epoch := s.bel.epoch
    locked := s.bel.state = .locked
    hop := s.bel.hop
    kexp := kexp
    root := s.bel.root
    mask := s.subtreeMask m
    m := m
    corr := ofInt 32 corr }
  (List.range 4).foldl (fun s b => bellSend b (.mark { f with child := b = s.bel.upstream }) good s) s

/-- The Bell's k is adopted from the marks that are followed; a base image of another k is kept and logged (R381). Marks (DEDUCED 132). -/
def adoptK (k : Nat) (s : State) : State :=
  if s.bel.k = k || k < 8 || 14 < k then s else
  let s := s.modBel (fun b => { b with k := k })
  match s.img.base with
  | some i =>
    if i.hdr.kexp = k then s
    else recordFault { source := 0x0207, unit := 0x2F01, cls := 1, access := 0x0B, addr := i.hdr.kexp * 256 + k } s
  | none => s

/-- HOLDOVER is entered (R76). Marks (DEDUCED 128). -/
def enterHoldover (s : State) : State :=
  if s.bel.state = .holdover then s else
  recordFault { source := 0x0203, unit := 0x2F01, cls := 1, access := 0x0B }
    (setBellState .holdover (s.modBel (fun b => { b with inTol := 0 })))

/-- The one step of GT: GT := expected at the arrival instant (R67), and what has passed since then runs on. -/
def loadGt (expected : Int) (stamp : Nat) (s : State) : State :=
  let e := expected.toNat + (s.bel.gt * 64 - stamp)
  let clear := fun (p : BellPort) => { p with probeOut := none, probeAt := none, lastGt := e / 64 }
  { s with
    clock := { frac := BitVec.ofNat 16 (e % 64 * 1024), slew := 0 }
    bel := { s.bel with gt := (e / 64) % 2 ^ 64, ports := s.bel.ports.map (fun e => (e.1, clear e.2)) } }

/-- The servo acts on the offset of a valid mark from upstream (R67). -/
def servo (off expected : Int) (stamp : Nat) (locked : Bool) (s : State) : State :=
  if s.bel.state = .unsync then
    setBellState .acquire ((loadGt expected stamp s).modBel (fun b => { b with inTol := 0 }))
  else
    let s := { s with clock := { s.clock with slew := off * 1024 } }
    let s := if s.bel.state = .holdover then setBellState .acquire s else s
    let s := if s.bel.state = .locked && 64 < off.natAbs
      then setBellState .acquire (recordFault { source := 0x0202, unit := 0x2F01, cls := 1, access := 0x0B,
                                                addr := ofInt 64 off } s)
      else s
    let s := s.modBel (fun b => { b with inTol := if off.natAbs ≤ 16 then b.inTol + 1 else 0 })
    if s.bel.state = .acquire && 16 ≤ s.bel.inTol && locked then setBellState .locked s else s

/-- A valid MARK from the upstream port: relayed on all four ports, then it drives the servo (R65, R67). The KEXP of the
mark for a count at which a base image is to take effect is judged there (R298). Marks (DEDUCED 131). -/
def followMark (b : Nat) (f : MarkFrame) (stamp : Nat) (relay : Bool) (s : State) : State :=
  let d := s.joinDelay b
  let path := (f.corr : Int) + d
  let s := if s.img.applyState = 1 && s.img.applyAt = f.m then s else adoptK f.kexp s
  let s := s.modBel (fun x => { x with
    hop := f.hop + 1, root := f.root, latency := path.toNat, lastM := some f.m, missed := 0, collect := none })
  let s := if relay && s.bel.state != .unsync && s.bel.state != .holdover
    then sendMarks f.m (path + 512) f.kexp true s else s
  flushFaults (servo ((stamp : Int) - ((f.m : Int) * 64 + path)) ((f.m : Int) * 64 + path) stamp f.locked s)

/-- A port that could be taken as upstream: in Bell service, with a valid delay, its mark without CHILD (R65). -/
def State.candidate (s : State) (b : Nat) (f : MarkFrame) : Bool :=
  s.bellServes b && s.delayValid b && f.epoch == s.bel.epoch && !f.child

/-- The order of R65: lowest HOP, then LOCKED, then BN, BE, BS, BW. -/
def better (x y : Nat × MarkFrame × Nat) : Bool :=
  x.2.1.hop < y.2.1.hop ||
  (x.2.1.hop == y.2.1.hop && ((x.2.1.locked && !y.2.1.locked) || (x.2.1.locked == y.2.1.locked && x.1 < y.1)))

/-- The best of a list of candidates. -/
def best : List (Nat × MarkFrame × Nat) → Option (Nat × MarkFrame × Nat)
  | [] => none
  | x :: r => match best r with | some y => if better x y then some x else some y | none => some x

/-- No MARK is sent for a mark that is missed: the frames that waited for it go. -/
def flushLanes (s : State) : State :=
  (List.range 4).foldl (fun s b => if s.bellServes b then flushLane b s else s) s

/-- Mark M is missed on the upstream port (R76): another port with a lower HOP is taken, or HOLDOVER is entered. -/
def missMark (m : Nat) (s : State) : State :=
  let seen := fun (b : Nat) => (s.bellPort b).recent.find? (fun e => e.1.m == m && e.1.epoch == s.bel.epoch)
  let any := (List.range 4).any (fun b => (seen b).isSome)
  let s := s.modBel (fun b => { b with lastM := some m, missed := if any then 0 else b.missed + 1 })
  let others := (List.range 4).filterMap (fun b =>
    match seen b with
    | some (f, t) => if b != s.bel.upstream && s.candidate b f && f.hop < s.bel.hop then some (b, f, t) else none
    | none => none)
  match best others with
  | some (b, f, t) => flushLanes (followMark b f t false (s.modBel (fun x => { x with upstream := b })))
  | none => flushLanes (enterHoldover s)

/-- Serial comparison of epochs modulo 256 (R77). Marks (DEDUCED 129). -/
def newerEpoch (a b : BitVec 8) : Bool := let d := (a - b).toNat; 0 < d && d < 128

/-- A later epoch is adopted; a Bellwether that has been superseded runs as a worker without upstream (R58, R77). -/
def adoptEpoch (e : BitVec 8) (s : State) : State :=
  let s1 := s.modBel (fun b => { b with epoch := e, missed := 0, collect := none })
  if s.bel.acting || s.bel.role = .bellwether then
    let s2 := s1.modBel (fun b => { b with role := .worker, acting := false, upstream := 4 })
    if s.bel.state = .unsync then s2 else setBellState .holdover s2
  else s1

/-- A valid MARK of the present tick is counted; a tick in a row with more than one counts once (R79). -/
def BellPort.tally (p : BellPort) (tick : Nat) : BellPort :=
  if p.markCount ≠ 0 && p.markTick = tick then
    { p with markCount := p.markCount + 1, multi := if p.markCount = 1 then p.multi + 1 else p.multi }
  else { p with markTick := tick, markCount := 1
                multi := if 2 ≤ p.markCount && p.markTick + 1 = tick then p.multi else 0 }

/-- A valid MARK is counted on its port (R79). -/
def tallyMark (b : Nat) (s : State) : State := s.modBellPort b (fun p => p.tally s.tickNow)

/-- A valid MARK joins those seen on its port; a mark with CHILD clear ends the child there (R65). -/
def noteMark (b : Nat) (f : MarkFrame) (stamp : Nat) (s : State) : State :=
  s.modBellPort b (fun p => { p with
    recent := (f, stamp) :: p.recent.take 3
    childMark := if f.child then some (f.m, f.mask) else none })

/-- A candidate's MARK is collected for the choice of an upstream (R65). -/
def collectMark (b : Nat) (f : MarkFrame) (stamp : Nat) (s : State) : State :=
  match s.bel.collect with
  | none => s.modBel (fun x => { x with collect := some (f.m, s.bel.gt, [(b, f, stamp)]) })
  | some (m, g, l) =>
    if f.m = m && s.bel.gt ≤ g + 512 then s.modBel (fun x => { x with collect := some (m, g, l ++ [(b, f, stamp)]) })
    else s

/-- The Bellwether sends its MARK: HOP 0, CORR 0, LOCKED; from its first mark on it shows LOCKED (R65). -/
def rootMark (m : Nat) (s : State) : State :=
  let s := s.modBel (fun b => { b with
    acting := true, hop := 0, upstream := 4, root := s.devIndex, sentM := some m, collect := none })
  flushFaults (sendMarks m 0 s.bel.k true (setBellState .locked s))

/-- BELL_MARK_SEND: at every Bell mark (R65). -/
def bellMarkSend (s : State) : State :=
  if !s.bellOn || s.bel.role ≠ .bellwether then s else rootMark s.nextMark (advanceTo s.nextMark s)

/-- STANDBY_TAKEOVER: after three mark times without a valid MARK, at the next Bell mark (R77). -/
def standbyTakeover (s : State) : State :=
  if !s.bellOn || s.bel.role ≠ .standby || s.bel.missed < 3 then s else
  let m := s.nextMark
  let s := (advanceTo m s).modBel (fun b => { b with
    role := .bellwether, epoch := b.epoch + 1, takeover := true, missed := 0 })
  let s := (rootMark m s).emit (.takeover s.bel.epoch.toNat)
  recordFault { source := 0x0204, unit := 0x2F01, cls := 1, access := 0x0B, addr := s.bel.epoch.toNat } (signal 4 s)

/-! ## Join delays (R66) -/

/-- PROBE_SEND: each connected Bell port sends a PROBE every 64 GT; t1 is the GT at which it leaves. Marks (DEDUCED 136). -/
def probeSend (b : Nat) (s : State) : State :=
  if !s.bellOn || !s.bellServes b then s else
  let s := match (s.bellPort b).probeAt with | some g => advanceTo g s | none => s
  let q := (s.bellPort b).probeSeq
  (bellSend b (.probe q) true s).modBellPort b (fun p => { p with
    probeAt := some (s.bel.gt + 64), probeSeq := (q + 1) % 256 })

/-- PROBE: answered with an ECHO that carries the residence time. -/
def probe (b seq : Nat) (chk : FrameCheck) (residence : Nat) (s : State) : State :=
  if !s.bellOn || !s.bellServes b then s
  else if chk != .good then badFrame b chk (noteFrame b s)
  else bellSend b (.echo seq residence) true (noteFrame b s)

/-- ECHO: one exchange, t4 - t1 - RESIDENCE, joins the last 64 of the port. -/
def echo (b seq residence : Nat) (chk : FrameCheck) (stamp : Nat) (s : State) : State :=
  if !s.bellOn || !s.bellServes b then s
  else
    let s := noteFrame b (advanceTo (stamp / 64) s)
    if chk != .good then badFrame b chk s
    else match (s.bellPort b).probeOut with
      | some (q, t1) =>
        if q ≠ seq then s
        else s.modBellPort b (fun p => { p with
          probeOut := none, rounds := ((stamp : Int) - t1 - residence) :: p.rounds.take 63 })
      | none => s

/-! ## Barriers (R73-R75, R290) -/

/-- The device belongs to a Field. -/
def State.inField (s : State) (f : Nat) : Bool := match s.home with | some e => e.id == f | none => false

/-- The image of a Field, where this device has applied it. -/
def State.imageOf (s : State) (f : Nat) : Option FieldBody :=
  match s.fieldBody with | some (g, b) => if g = f then some b else none | none => none

/-- Marks (DESIGN CHOICE 137). -/
def State.barOffset (s : State) (f : Nat) : Nat :=
  match s.imageOf f with | some b => b.barOffset | none => Config.barOffset f
def State.barDeadline (s : State) (f : Nat) : Nat :=
  match s.imageOf f with | some b => b.barDeadline | none => Config.barDeadline f

/-- The number of devices of a Field in this Range: 16 in each of its Paddocks (R48). -/
def State.fieldDevices (s : State) (f : Nat) : Nat :=
  match s.fieldEntry f with
  | none => 0
  | some e =>
    let pads := (List.range 256).filter (fun p => fieldOwns e (2 * (p / 16) * 16 + p % 16))
    16 * pads.length

/-- The ports whose last CHILD mark had a Field's bit. -/
def State.childrenOf (s : State) (f : Nat) : List Nat :=
  (List.range 4).filter (fun b => match (s.bellPort b).childMark with
    | some (_, k) => k.getLsbD f
    | none => false)

/-- SEQ of the barrier at hand: the device's own, or that of the newest ARRIVE where it is not of the Field. -/
def State.barrierSeq (s : State) (f : Nat) : Nat :=
  let r := s.barrier f
  if s.inField f then r.seq else match r.children.getLast? with | some (_, a) => a.seq | none => r.seq

/-- COUNT and MAX_GT of the subtree (R73). -/
def State.subtreeCount (s : State) (f : Nat) : Nat × Nat :=
  let r := s.barrier f
  let q := s.barrierSeq f
  let own := match r.localGt with | some g => if s.inField f then (1, g) else (0, 0) | none => (0, 0)
  r.children.foldl (fun a e => if e.2.seq = q then (a.1 + e.2.count, max a.2 e.2.maxGt) else a) own

/-- Send RELEASE to every child of the Field. -/
def relayRelease (fr : ReleaseFrame) (s : State) : State :=
  (s.childrenOf fr.field).foldl (fun s b => bellSend b (.release fr) true s) s

/-- A barrier's arrivals are forgotten; the next one has the next SEQ (R73). -/
def Barrier.next (r : Barrier) (gt : Option Nat) : Barrier := { seq := (r.seq + 1) % 1024, localGt := gt }

/-- A Croft's tick program ends at once: queued words are discarded, words that have started complete (R290). -/
def endProgram (k : Nat) (s : State) : State :=
  let started := fun (q : List QWord) => q.filter (·.done)
  s.modCroft k (fun c => { c with
    prog := none, mx := started c.mx, vx := started c.vx, mv := started c.mv, fp := started c.fp, fl := started c.fl })

/-- A local flag is raised by an amount; flags saturate at 0xFFFF (R288). -/
def raiseFlag (k i n : Nat) (s : State) : State :=
  let gt := s.bel.gt
  s.modCroft k (fun c => c.putFlag gt i (satAdd 0xFFFF (Tab.look 0 c.flags i) n))

/-- Physical Crofts that take part in a Field's barriers on this device. -/
def State.participants (s : State) (f : Nat) : List Nat :=
  match s.imageOf f with | some b => b.participants.filterMap s.physOf | none => []

/-- The participants are released with a status (R74, R290). A device that names none has arrived at the next barrier. -/
def releaseParticipants (f status : Nat) (s : State) : State :=
  let r := s.barrier f
  let s := if status = 0 then r.waiters.foldl (fun s w => raiseFlag w.1 w.2 1 s) s
           else (s.participants f).foldl (fun s k => endProgram k s) s
  let again := if (s.participants f).isEmpty then some s.bel.gt else none
  s.modBarrier f (fun r => r.next again)

/-- RELEASE reaches this device: participants wait for RELEASE_GT, or go at once where it has passed (R75). -/
def takeRelease (fr : ReleaseFrame) (s : State) : State :=
  let f := fr.field
  if !s.inField f then s.modBarrier f (fun _ => {})
  else if (s.barrier f).seq ≠ fr.seq then s
  else if fr.gt < s.bel.gt then
    let s := s.modBel (fun b => { b with barLate := true, late := satAdd 0xFFF b.late 1 })
    releaseParticipants f fr.status (recordFault {
      source := 0x0205, unit := 0x2F01, cls := 1, access := 0x0B, addr := f * 1024 + fr.seq, info := f } s)
  else s.modBarrier f (fun r => { r with release := some (fr.status, fr.gt) })

/-- The Bellwether sends RELEASE and takes it itself. -/
def sendRelease (f status gt : Nat) (s : State) : State :=
  let fr : ReleaseFrame := { field := f, seq := s.barrierSeq f, status := status, gt := gt }
  takeRelease fr (relayRelease fr s)

/-- Whether a device and all its children of the Field have arrived (R73). -/
def State.allArrived (s : State) (f : Nat) : Bool :=
  let r := s.barrier f
  (!s.inField f || r.localGt.isSome) &&
  (s.childrenOf f).all (fun b => r.children.any (fun e => e.1 == b && e.2.seq == s.barrierSeq f))

/-- ARRIVE goes upstream once when both conditions of R73 hold. -/
def sendArrive (f : Nat) (s : State) : State :=
  let (n, g) := s.subtreeCount f
  let r := s.barrier f
  if r.release.isSome || r.sent || n = 0 || !s.allArrived f || 4 ≤ s.bel.upstream then s
  else (bellSend s.bel.upstream (.arrive { field := f, seq := s.barrierSeq f, count := n, maxGt := g }) true s).modBarrier f
    (fun r => { r with sent := true })

/-- After an arrival: the Bellwether releases a full count, others send ARRIVE upstream (R73, R74). -/
def tryArrive (f : Nat) (s : State) : State :=
  if s.bel.acting then
    let (n, g) := s.subtreeCount f
    if !(s.barrier f).release.isSome && n = s.fieldDevices f && 0 < n then sendRelease f 0 (g + s.barOffset f) s else s
  else sendArrive f s

/-- A participating Croft arrives with a BARRIER word that names a flag (R73, R290). -/
def barrierArrive (f k flag : Nat) (s : State) : State :=
  let all := s.participants f
  let s := s.modBarrier f (fun r =>
    let crofts := insertUp k r.crofts
    { r with
      opened := true
      crofts := crofts
      waiters := r.waiters ++ [(k, flag)]
      localGt := if all.all crofts.contains then r.localGt.or (some s.bel.gt) else r.localGt })
  tryArrive f s

/-- An ARRIVE joins the barrier: the deadline runs from the first ARRIVE for the SEQ at hand (R75). Marks (DEDUCED 139). -/
def noteArrive (b : Nat) (f : ArriveFrame) (s : State) : State :=
  let q := s.barrierSeq f.field
  let t := s.modBarrier f.field (fun r => { r with
    opened := true
    sent := if s.inField f.field then r.sent else r.sent && r.children.all (fun e => e.2.seq == f.seq)
    children := r.children.filter (fun e => e.1 != b) ++ [(b, f)] })
  let now := t.barrierSeq f.field
  t.modBarrier f.field (fun r => { r with
    firstGt := if f.seq ≠ now then r.firstGt else if now = q then r.firstGt.or (some s.bel.gt) else some s.bel.gt })

/-- ARRIVE: combined with the subtree's arrivals (R73). -/
def arrive (b : Nat) (f : ArriveFrame) (chk : FrameCheck) (s : State) : State :=
  if !s.bellOn || !s.bellServes b then s
  else if chk != .good then badFrame b chk (noteFrame b s)
  else tryArrive f.field (noteArrive b f (noteFrame b s))

/-- The conditions of every open barrier are judged again, when marks or the tree have changed (R73). -/
def tryBarriers (s : State) : State :=
  if s.bel.acting then s else s.bel.barriers.foldl (fun s e => if e.2.opened then sendArrive e.1 s else s) s

/-- RELEASE: relayed to the children of the Field, and taken (R74, R75). -/
def releaseFrame (b : Nat) (f : ReleaseFrame) (chk : FrameCheck) (s : State) : State :=
  if !s.bellOn || !s.bellServes b then s
  else if chk != .good then badFrame b chk (noteFrame b s)
  else tryArrive f.field (takeRelease f (relayRelease f (noteFrame b s)))

/-- BARRIER_RELEASE: at local GT RELEASE_GT (R74). -/
def barrierRelease (f : Nat) (s : State) : State :=
  if s.isFatal then s else
  match (s.barrier f).release with
  | some (st, g) => tryArrive f (releaseParticipants f st (advanceTo g s))
  | none => s

/-- BARRIER_TIMEOUT: BAR_DEADLINE ticks after the first ARRIVE, at the Bellwether (R75). -/
def barrierTimeout (f : Nat) (s : State) : State :=
  if !s.bellOn || !s.bel.acting || (s.barrier f).release.isSome then s else
  match (s.barrier f).firstGt with
  | none => s
  | some g =>
    let s := advanceTo (g + s.barDeadline f * s.tickLen) s
    let s := recordFault { source := 0x0206, unit := 0x2F01, cls := 2, access := 0x0B,
                           addr := f * 1024 + s.barrierSeq f, info := f } s
    sendRelease f 1 (s.bel.gt + s.barOffset f) s

/-- A received MARK (R63, R65, R67, R76, R77, R79): one that is discarded has no effect but, on a bad CRC found after relaying
has begun, the spoilt copy. A mark whose offset is too great counts as missed when its time has passed. -/
def takeMark (b : Nat) (f : MarkFrame) (chk : FrameCheck) (stamp : Nat) (s : State) : State :=
  if !s.bellOn || !s.bellServes b then s else
  let s := noteFrame b (advanceTo (stamp / 64) s)
  let following := !s.bel.acting && s.bel.upstream = b
  if chk != .good then
    let relay := chk == .badCrc && following && (s.bel.state = .acquire || s.bel.state = .locked)
    badFrame b chk (if relay then sendMarks f.m (f.corr + s.joinDelay b + 512) f.kexp false s else s)
  else if f.epoch != s.bel.epoch && !newerEpoch f.epoch s.bel.epoch then
    s.modBellPort b (fun p => { p with stale := satAdd 255 p.stale 1 })
  else if !s.bel.acting && s.bel.state = .locked && s.delayValid b &&
      512 < ((stamp : Int) - ((f.m : Int) * 64 + f.corr + s.joinDelay b)).natAbs then
    tallyMark b (s.modBellPort b (fun p => { p with marks := satAdd 255 p.marks 1 }))
  else
    let s := noteMark b f stamp (tallyMark b (if f.epoch = s.bel.epoch then s else adoptEpoch f.epoch s))
    if s.bel.acting || s.bel.role = .bellwether || !s.delayValid b then s
    else if s.bel.upstream = b then followMark b f stamp true s
    else if !s.candidate b f then s
    else if s.bel.state = .holdover then
      followMark b f stamp false (s.modBel (fun x => { x with upstream := b }))
    else if s.bel.upstream = 4 then collectMark b f stamp s
    else s

/-- The choice of an upstream (R65). -/
def chooseUpstream (s : State) : State :=
  if !s.bellOn || s.bel.acting || s.bel.upstream ≠ 4 then s else
  match s.bel.collect with
  | none => s
  | some (_, g, l) =>
    let s := (advanceTo (g + 512) s).modBel (fun x => { x with collect := none })
    match best (l.filter (fun e => s.candidate e.1 e.2.1)) with
    | some (b, f, t) => followMark b f t false (s.modBel (fun x => { x with upstream := b }))
    | none => s

/-- No valid MARK came on the upstream port by local GT M + L + 8 (R76). Marks (DESIGN CHOICE 273). -/
def passMark (s : State) : State :=
  if !s.bellOn || s.bel.acting || s.bel.state = .unsync then s else
  match s.bel.lastM with
  | some m0 =>
    let m := m0 + s.tickLen
    missMark m (advanceTo (m + (s.bel.latency + 63) / 64 + 8) s)
  | none => s

/-- MARK: then the barriers that a changed tree completes (R73). -/
def mark (b : Nat) (f : MarkFrame) (chk : FrameCheck) (stamp : Nat) (s : State) : State :=
  tryBarriers (takeMark b f chk stamp s)

/-- UPSTREAM_CHOICE: 512 GT after the first candidate MARK of a mark (R65). Marks (DEDUCED 142). -/
def upstreamChoice (s : State) : State := tryBarriers (chooseUpstream s)

/-- MARK_MISSED (R76). -/
def markMissed (s : State) : State := tryBarriers (passMark s)

/-- A Field reset at the Bellwether ends an open barrier with ABORT; its RELEASE_GT is not stated (R75, R364). Marks (DESIGN CHOICE 138). -/
def abortBarrier (f : Nat) (s : State) : State :=
  if s.bel.acting && (s.barrier f).opened && !(s.barrier f).release.isSome then
    let (g, s) := s.draw
    sendRelease f 2 g.toNat s
  else s

/-! ## FAULT frames and port faults (R78, R79) -/

/-- FAULT: passed to the upstream port, or to the fabric manager at the Bellwether. -/
def faultFrame (b : Nat) (f : FaultFrame) (chk : FrameCheck) (s : State) : State :=
  if !s.bellOn || !s.bellServes b then s
  else if chk != .good then badFrame b chk (noteFrame b s)
  else queueFault f (noteFrame b s)

/-- A port is stuck at once where every tick for more than 64 ticks has brought more than one valid MARK, and otherwise when
more than 64 ticks have passed since its last complete frame (Table 3-4). -/
def stuckAt (b : Nat) (s : State) : State :=
  let p := s.bellPort b
  if 64 < p.multi then s else advanceTo (p.lastGt + 64 * s.tickLen + 1) s

/-- BELL_PORT_STUCK: the port is fenced and the device enters HOLDOVER (R79); a Bellwether defines the count and
a device in UNSYNC has none to hold. Marks (DEDUCED 134). -/
def bellPortStuck (b : Nat) (s : State) : State :=
  if !s.bellOn || !s.bellServes b then s else
  let s := stuckAt b s
  let up := fun (x : Bel) => if x.upstream = b then 4 else x.upstream
  let s := signal 4 (s.modBel (fun x => { x with stuck := x.stuck ||| (1#4 <<< b), upstream := up x }))
  let s := recordFault { source := 0x0201, unit := unitBell b, cls := 1, access := 0x0B, fenced := true } s
  if s.bel.acting || s.bel.state = .unsync then s else enterHoldover s

/-- The lane trains anew: the port is out of Bell service, and its delay is measured again (R336). Marks (DEDUCED 133). -/
def retrainBell (b : Nat) (s : State) : State :=
  (s.modBln b (fun l => { l with aligned := false })).modBellPort b (fun p => { p with
    probeOut := none, probeAt := none, rounds := [], recent := [], waitQ := [], multi := 0, markCount := 0 })

/-- BELL_PORT_UNFENCE: writing 1 to the port's STUCK bit removes the fence and retrains the lane (R79). -/
def bellPortUnfence (b : Nat) (s : State) : State :=
  if !s.bel.stuck.getLsbD b || s.isFatal then s else
  retrainBell b (signal 4 (s.modBel (fun x => { x with stuck := x.stuck &&& ~~~(1#4 <<< b) })))

/-- BELL_PORT_RETRAIN (R336). -/
def bellPortRetrain (b : Nat) (s : State) : State := if s.isFatal then s else retrainBell b s

/-- BELL_PORT_ALIGNED: alignment completes with the CTLE step that the port chose or PEAK (R336). Bell ports send idle
ordered sets from STAGE 5 on. -/
def bellPortAligned (b peak : Nat) (s : State) : State :=
  if s.glb.stage < 5 || s.isFatal then s else
  noteFrame b (s.modBln b (fun l =>
    { l with signal := true, aligned := true, peakUsed := if l.auto then peak else l.peak.toNat }))

/-- BELL_PORT_TEST: raw pattern mode, out of Bell service (R337). A checker that stops has counted an open number of
bit errors. Marks (DESIGN CHOICE 140). -/
def bellPortTest (b test : Nat) (s : State) : State :=
  if s.isFatal then s
  else
    let on := fun n => n == 1 || n == 2
    let s := if on (s.blnPort b).test && !on test
      then (let (v, s) := s.draw; s.modBln b (fun l => { l with prbsErr := v.toNat % 2 ^ 32 })) else s
    s.modBln b (fun l => { l with test := test })

def bellInjCv (b : Nat) (s : State) : State :=
  if s.isFatal then s else s.modBln b (fun l => { l with injCv := true })
def bellInjDisp (b : Nat) (s : State) : State :=
  if s.isFatal then s else s.modBln b (fun l => { l with injDisp := true })
def bellInjCrc (b : Nat) (s : State) : State :=
  if s.isFatal then s else s.modBln b (fun l => { l with injCrc := true })

/-! ## Shapers (R86, R87) -/

/-- The staged settings take effect; tokens are set to the new BUCKET or to 0. -/
def Shaper.apply (h : Shaper) : Shaper :=
  { h with rate := h.sRate.toNat, bucket := h.sBucket.toNat, enable := h.sEnable
           tokens := if h.resetMode then 0 else h.sBucket.toNat * 256 }

/-- SHAPER_APPLY. -/
def shaperApply (p v : Nat) (s : State) : State :=
  if s.isFatal then s else s.modShaper p v Shaper.apply

/-! ## Meanings -/

def execBellMarkSend (s : State) : Answer := .next (bellMarkSend s)
def execMark (b : Nat) (frame : MarkFrame) (check : FrameCheck) (stamp : Nat) (s : State) : Answer :=
  need (Wf.bell b && Wf.mark frame && stamp < 2 ^ 70) (mark b frame check stamp s)
def execUpstreamChoice (s : State) : Answer := .next (upstreamChoice s)
def execMarkMissed (s : State) : Answer := .next (markMissed s)
def execStandbyTakeover (s : State) : Answer := .next (standbyTakeover s)
def execProbeSend (b : Nat) (s : State) : Answer := need (Wf.bell b) (probeSend b s)
def execProbe (b seq : Nat) (check : FrameCheck) (residence : Nat) (s : State) : Answer :=
  need (Wf.bell b && seq < 256 && residence < 2 ^ 32) (probe b seq check residence s)
def execEcho (b seq residence : Nat) (check : FrameCheck) (stamp : Nat) (s : State) : Answer :=
  need (Wf.bell b && seq < 256 && residence < 2 ^ 32 && stamp < 2 ^ 70) (echo b seq residence check stamp s)
def execArrive (b : Nat) (frame : ArriveFrame) (check : FrameCheck) (s : State) : Answer :=
  need (Wf.bell b && Wf.arrive frame) (arrive b frame check s)
def execReleaseFrame (b : Nat) (frame : ReleaseFrame) (check : FrameCheck) (s : State) : Answer :=
  need (Wf.bell b && Wf.release frame) (releaseFrame b frame check s)
def execBarrierRelease (field : Nat) (s : State) : Answer := need (Wf.field field) (barrierRelease field s)
def execBarrierTimeout (field : Nat) (s : State) : Answer := need (Wf.field field) (barrierTimeout field s)
def execFaultFrame (b : Nat) (frame : FaultFrame) (check : FrameCheck) (s : State) : Answer :=
  need (Wf.bell b && Wf.fault frame) (faultFrame b frame check s)
def execBellPortStuck (b : Nat) (s : State) : Answer := need (Wf.bell b) (bellPortStuck b s)
def execBellPortUnfence (b : Nat) (s : State) : Answer := need (Wf.bell b) (onBlock 5 false (bellPortUnfence b) s)
def execBellPortRetrain (b : Nat) (s : State) : Answer := need (Wf.bell b) (onBlock 5 false (bellPortRetrain b) s)
def execBellPortAligned (b peak : Nat) (s : State) : Answer :=
  need (Wf.bell b && peak < 16) (bellPortAligned b peak s)
def execBellInjCv (b : Nat) (s : State) : Answer := need (Wf.bell b) (onBlock 5 false (bellInjCv b) s)
def execBellInjDisp (b : Nat) (s : State) : Answer := need (Wf.bell b) (onBlock 5 false (bellInjDisp b) s)
def execBellInjCrc (b : Nat) (s : State) : Answer := need (Wf.bell b) (onBlock 5 false (bellInjCrc b) s)
def execBellPortTest (b test : Nat) (s : State) : Answer := need (Wf.bell b && test < 4) (onBlock 5 false (bellPortTest b test) s)
def execShaperApply (port vc : Nat) (s : State) : Answer := 
  need (Wf.port port && Wf.vc vc) (onBlock 5 false (shaperApply port vc) s)

end Sys2Proof.Machine
end

