-- ==== Sys2Proof/Machine/Cellar.lean ====
section
/-! DEFINITION. Machine/Cellar.lean: pages, ECC, the Storekeeper's operations and row repair
(08_cellar_and_storekeeper.md R195-R220). -/

namespace Sys2Proof.Machine

/-! ## Addresses and regions (R195-R198) -/

/-- Pages of a Tract. -/
def tractPages : Nat := 0x100000
/-- The first usable page (R197). -/
def firstUsable : Nat := 0x8000
/-- Cellar byte address (R196). Marks (DEDUCED 14). -/
def cellarAddr (t off : Nat) : Nat := t * 2 ^ 36 + off
/-- Pseudo-channel of a byte offset of a Tract: 1 KiB of each page in each (R195). -/
def channelOf (off : Nat) : Nat := (off / 1024) % 64
/-- Bank of a page in a pseudo-channel (R195). -/
def bankOf (page : Nat) : Nat := page % 64

/-- The partitioning section of a Tract in the applied Field image (Table 8-2). Marks (DEDUCED 174). -/
def State.part (s : State) (t : Nat) : CellarPart :=
  match s.fieldBody with | some (_, b) => b.cellar.getD t {} | none => {}

/-- Pages of FOLD_EXTRA and of CROFT_EXTRA. -/
def extraFold (p : CellarPart) : Nat := p.foldExtra.getD 0
def extraCroft (p : CellarPart) : Nat := p.croftExtra.getD 0

/-- One past the last page of the pool (R198): FOLD_EXTRA lies at the top, CROFT_EXTRA below it. -/
def State.poolEnd (s : State) (t : Nat) : Nat :=
  tractPages - extraFold (s.part t) - extraCroft (s.part t)

/-- A page of the pool. -/
def State.inPool (s : State) (t g : Nat) : Bool := firstUsable ≤ g && g < s.poolEnd t

/-- What a page is used for (Tables 8-1 and 8-7). -/
inductive Region where
  | retention | tables | mirrorBuffer | saveArea | work | pool
  deriving DecidableEq, Repr

def State.regionOf (s : State) (t g : Nat) : Region :=
  if g < 0x4000 then .retention else if g < 0x4290 then .tables else if g < 0x4490 then .mirrorBuffer
  else if g < 0x44A0 then .saveArea else if g < firstUsable then .work
  else if g < s.poolEnd t then .pool
  else if g < tractPages - extraFold (s.part t) then .work else .retention

/-! ## Page descriptors (R206) -/

/-- The 16 bytes of a page descriptor (Table 8-3); OWNERS is 1 for a HELD page. -/
def descBytes (d : Desc) : Bytes :=
  let state := match d.state with | .free => 0 | .held => 1 | .shared => 2 | .retired => 3
  beBytes 4 (state * 2 ^ 30 + ofBool d.retirePend * 2 ^ 29 + ofBool d.damaged * 2 ^ 28 + ofBool d.mirror * 2 ^ 27 +
    ofBool d.mirrorPool * 2 ^ 26 + d.ce % 256 * 2 ^ 16 + ofBool (d.state == .held)) ++
  beBytes 4 d.owner ++ beBytes 4 (d.next % 2 ^ 20 * 2 ^ 12 + d.fill % 2 ^ 12) ++
  beBytes 4 (d.run % 2 ^ 16 * 2 ^ 16 + d.layer % 256 * 256 + d.lastPc % 64)

/-- Bytes of a Tract's stack as they stand: the descriptor of page p lies at page 0x4000 + p div 4,096, byte
16 × (p mod 4,096); everything else is memory. Marks (DESIGN CHOICE 262). -/
def State.stackBytes (s : State) (t off n : Nat) : Bytes :=
  if off + n ≤ 0x40000000 || 0x41000000 ≤ off then Memory.readN s.cel.mem (cellarAddr t off) n
  else (List.range n).map (fun i =>
    let o := off + i
    if 0x40000000 ≤ o && o < 0x41000000
    then (descBytes (s.page t ((o - 0x40000000) / 16))).getD (o % 16) 0
    else Memory.read s.cel.mem (cellarAddr t o))

/-! ## Words and their code (R214) -/

/-- Multiplication by α in GF(2^8) modulo x^8 + x^4 + x^3 + x^2 + 1. -/
def gfTwice (a : Byte) : Byte := if a.msb then (a <<< 1) ^^^ 0x1D else a <<< 1

/-- Product in GF(2^8). -/
def gfMul (a b : Byte) : Byte :=
  [7, 6, 5, 4, 3, 2, 1, 0].foldl (fun v i => if b.getLsbD i then gfTwice v ^^^ a else gfTwice v) 0

/-- α^j. -/
def gfPow (j : Nat) : Byte := (List.range j).foldl (fun v _ => gfTwice v) 1

/-- Coefficients of the generator polynomial (x − α^0)(x − α^1)(x − α^2)(x − α^3) below x^4, highest first. -/
def rsGenerator : Bytes := [15, 54, 120, 64]

/-- The four check bytes of a 32-byte word: the remainder of its polynomial times x^4. Marks (DEDUCED 263). -/
def rsCheck (word : Bytes) : Bytes :=
  word.foldl (fun r b =>
    let f := b ^^^ r.headD 0
    List.zipWith (fun a g => a ^^^ gfMul f g) (r.drop 1 ++ [0]) rsGenerator) [0, 0, 0, 0]

/-- Value of the 36 bytes of a code word at α^j. -/
def rsSyndrome (code : Bytes) (j : Nat) : Byte := code.foldl (fun v b => gfMul v (gfPow j) ^^^ b) 0

/-- What the system ECC finds in a word and its check bytes: clean, one erroneous byte, or an uncorrectable word. -/
def rsVerdict (word check : Bytes) : WordCheck :=
  let code := word ++ check
  let s0 := rsSyndrome code 0
  let s1 := rsSyndrome code 1
  let s2 := rsSyndrome code 2
  let s3 := rsSyndrome code 3
  if s0 = 0 && s1 = 0 && s2 = 0 && s3 = 0 then .clean
  else if (List.range 36).any (fun p => let x := gfPow p; s1 == gfMul s0 x && s2 == gfMul s1 x && s3 == gfMul s2 x)
  then .corrected else .uncorrectable

/-- What the code finds in a word; the check bytes of a word that is not listed are those of its data. -/
def Cel.verdict (c : Cel) (w : Nat) : WordCheck :=
  match Tab.look none c.check w with
  | some b => rsVerdict (Memory.readN c.mem (w * 32) 32) b
  | none => .clean

/-- Words with one erroneous byte. -/
def Cel.soft (c : Cel) : List Nat := (c.check.map (·.1)).filter (fun w => c.verdict w = .corrected && !c.ue.contains w)

/-- Words that cannot be corrected. -/
def Cel.bad (c : Cel) : List Nat := c.ue ++ (c.check.map (·.1)).filter (fun w => c.verdict w = .uncorrectable)

/-- The 32-byte words that a byte range touches. -/
def wordsOf (t off n : Nat) : List Nat :=
  let a := cellarAddr t off / 32
  if n = 0 then [] else (List.range ((cellarAddr t off + n - 1) / 32 + 1 - a)).map (a + ·)

/-- A corrected error in a page: CE_COUNT, LAST_PC, the Tract's counter and record 0x0501 (R214, R216). Marks (DEDUCED 168). -/
def correctedError (t off access : Nat) (inj : Bool) (s : State) : State :=
  let s := s.modPage t (off / 65536) (fun d => { d with ce := satAdd 255 d.ce 1, lastPc := channelOf off })
  recordFault { source := 0x0501, unit := unitChannel t (channelOf off), cls := 1, access := access,
                addr := cellarAddr t off, inj := inj }
    (s.modTract t (fun r => { r with ce := sat32 r.ce }))

/-- What a read of the stack finds: its bytes, or the offset of the first word it could not correct. -/
inductive CellRead where
  | data (b : Bytes)
  | failed (off : Nat)

/-- Read bytes of a Tract's stack: single erroneous bytes are corrected and recorded (R214). -/
def cellRead (t off n : Nat) (s : State) : CellRead × State :=
  let ws := wordsOf t off n
  let s := (ws.filter s.cel.soft.contains).foldl (fun s w => correctedError t (w * 32 % 2 ^ 36) 1 true s) s
  match ws.find? s.cel.bad.contains with
  | some w => (.failed (w * 32 % 2 ^ 36), s)
  | none => (.data (s.stackBytes t off n), s)

/-- An armed injection on a Tract's ECC acts on the next 32-byte word written, which stores WIDTH check bytes inverted
(R356). Marks (DEDUCED 175). -/
def eccInjection (t w : Nat) (s : State) : State :=
  if !s.armedFor 0 (unitTract t) then s
  else
    let width := max 1 ((s.flt.armed.getD {}).width)
    (useInjection false s).modCel (fun c =>
      let good := rsCheck (Memory.readN c.mem (w * 32) 32)
      { c with check := Tab.put none c.check w (some ((good.take width).map (~~~ ·) ++ good.drop width)) })

/-- A word is written whole: its code is good again. -/
def freshWord (w : Nat) (s : State) : State :=
  s.modCel (fun c => { c with check := Tab.drop w c.check, ue := c.ue.filter (· != w) })

/-- Write one word's part of a range: read, merge and write where it is not whole (R214). A word that its merge could
not correct is left as it is. -/
def writeWord (t off : Nat) (data : Bytes) (w : Nat) (s : State) : State :=
  let a := cellarAddr t off
  let lo := max a (w * 32)
  let hi := min (a + data.length) (w * 32 + 32)
  let whole := hi - lo = 32
  if !whole && s.cel.bad.contains w then
    recordFault { source := 0x0504, unit := unitChannel t (channelOf (w * 32 % 2 ^ 36)), cls := 2, access := 3,
                  addr := w * 32, inj := true } (s.modTract t (fun r => { r with ue := sat32 r.ue }))
  else
    let s := if !whole && s.cel.soft.contains w then correctedError t (w * 32 % 2 ^ 36) 3 true s else s
    let s := s.modCel (fun c => { c with mem := Memory.writeN c.mem lo (slice data (lo - a) (hi - lo)) })
    eccInjection t w (freshWord w s)

/-- Write bytes to a Tract's stack; nothing is written in the fatal state or to a fenced Tract (R352, R222). Marks (DEDUCED 171). -/
def cellWrite (t off : Nat) (data : Bytes) (s : State) : State :=
  if s.isFatal || (s.tract t).fenced then s
  else (wordsOf t off data.length).foldl (fun s w => writeWord t off data w s) s

/-! ## The Storekeeper (R204-R213) -/

/-- Result codes (Table 8-6). -/
def stOk : Nat := 0
def stEmpty : Nat := 1
def stNotLast : Nat := 2
def stNotOwner : Nat := 3
def stDouble : Nat := 4
def stNotShareable : Nat := 5
def stOwnersFull : Nat := 6
def stFenced : Nat := 7
def stWrongTract : Nat := 8

/-- The absent session. -/
def nobody : Nat := 0xFFFFFFFF

/-- A page of the pool that is FREE: its bit of the free bitmap (R204). -/
def State.pageFree (s : State) (t g : Nat) : Bool := s.inPool t g && (Tab.look {} (s.tract t).pages g).state == .free

/-- The lowest `n` free pages of the pool, or fewer (R204). -/
def State.lowestFree (s : State) (t n : Nat) : List Nat :=
  let r := s.tract t
  let span := min (n + r.pages.length) (s.poolEnd t - firstUsable)
  (((List.range span).map (firstUsable + ·)).filter (s.pageFree t)).take n

/-- Pages of the pool that are not FREE, by a test on their descriptors. -/
def State.countPages (s : State) (t : Nat) (c : Desc → Bool) : Nat :=
  ((s.tract t).pages.filter (fun e => s.inPool t e.1 && c e.2)).length

/-- FREE pages of the pool. -/
def State.freePages (s : State) (t : Nat) : Nat := s.poolEnd t - firstUsable - s.countPages t (fun d => d.state != .free)

/-- HELD and SHARED pages of the own or the mirror pool. -/
def State.heldPages (s : State) (t : Nat) (mirror : Bool) : Nat :=
  ((s.tract t).pages.filter (fun e => (e.2.state == .held || e.2.state == .shared) && e.2.mirrorPool == mirror)).length

/-- The ceiling of a pool (R198); no applied image sets none. -/
def State.ceiling (s : State) (t : Nat) (mirror : Bool) : Nat :=
  let p := s.part t
  (if mirror then p.mirrorMax else p.ownMax).getD tractPages

def State.sess (s : State) (t sid : Nat) : Option Sess := Tab.look none (s.tract t).sessions sid
def State.modSess (t sid : Nat) (f : Sess → Sess) (s : State) : State :=
  s.modTract t (fun r => { r with sessions := Tab.edit none r.sessions sid (Option.map f) })
def State.run (s : State) (t r : Nat) : Option Run := Tab.look none (s.tract t).runs r
def State.modRun (t n : Nat) (f : Run → Run) (s : State) : State :=
  s.modTract t (fun r => { r with runs := Tab.edit none r.runs n (Option.map f) })

/-- A session's own pages in ascending layer and chain order. -/
def Sess.ownPages (e : Sess) : List Nat := e.chains.flatMap (·.2)

/-- Grant one page to a session at the end of a layer's chain (R205, R206). -/
def grantPage (t sid : Nat) (mirror : Bool) (e : Nat × Nat) (s : State) : State :=
  let (g, layer) := e
  let s := match s.sess t sid with
    | some x => match (Tab.look [] x.chains layer).getLast? with
      | some p => s.modPage t p (fun d => { d with next := g })
      | none => s
    | none => s
  let s := s.modPage t g (fun d => { d with
    state := .held, owner := sid, fill := 0, mirror := mirror, mirrorPool := mirror, next := 0xFFFFF, run := 0xFFFF
    layer := layer })
  s.modSess t sid (fun x => { x with chains := Tab.edit [] x.chains layer (· ++ [g]) })

/-- An armed injection on a Tract's Storekeeper acts on the next read of the free bitmap (R356): one bit is corrected;
of two the word is rebuilt and 0x0602 is recorded. Marks (DEDUCED 176). -/
def bitmapInjection (t : Nat) (s : State) : State :=
  if !s.armedFor 0 (unitTract t) then s
  else
    let w := (s.flt.armed.getD {}).width
    let word := (s.lowestFree t 1).headD 0 / 64
    let s := useInjection false s
    if w ≤ 1 then s
    else recordFault { source := 0x0602, unit := unitTract t, cls := 1, access := 1, addr := t * 2 ^ 32 + word
                       inj := true } s

/-- ALLOC n: all n pages in ascending order to the layers in ascending order, or none and POOL_EMPTY (R205). Marks
(DEDUCED 178). Marks (DEDUCED 178). -/
def stkAlloc (t sid : Nat) (mirror : Bool) (layers : List Nat) (s : State) : Nat × State :=
  if (s.tract t).fenced then (stFenced, s)
  else
    let s := bitmapInjection t s
    let n := layers.length
    let got := s.lowestFree t n
    if got.length < n || s.ceiling t mirror < s.heldPages t mirror + n then
      (stEmpty, s.modTract t (fun r => { r with empties := sat32 r.empties }))
    else (stOk, (got.zip (sortUp layers)).foldl (fun s e => grantPage t sid mirror e s) s)

/-- A retirement is logged (R216). Marks (DEDUCED 169). -/
def logRetired (t g access : Nat) (s : State) : State :=
  recordFault { source := 0x0502, unit := unitChannel t (s.page t g).lastPc, cls := 1, access := access
                addr := cellarAddr t (g * 65536) } s

/-- A page becomes FREE, or RETIRED where RETIRE_PEND is set (Table 8-5). -/
def leavePage (t g access : Nat) (s : State) : State :=
  let d := s.page t g
  let s := s.modPage t g (fun d =>
    { lastPc := d.lastPc, retirePend := d.retirePend, state := if d.retirePend then .retired else .free })
  if d.retirePend then logRetired t g access s else s

/-- An operation refused as NOT_LAST_OWNER or NOT_OWNER is counted. -/
def countNlo (t : Nat) (s : State) : State := s.modTract t (fun r => { r with nlo := sat32 r.nlo })

/-- A chain without a page. -/
def dropPage (g : Nat) (chains : Tab (List Nat)) : Tab (List Nat) :=
  chains.foldl (fun c e => Tab.edit [] c e.1 (fun l => l.filter (· != g))) chains

/-- A run's pages. -/
def Run.all (r : Run) : List Nat := r.pages.flatMap (·.2)

/-- A page leaves its chain: the page before it is linked to the one after it (R206). -/
def unlink (t g : Nat) (chain : List Nat) (s : State) : State :=
  match (chain.takeWhile (· != g)).getLast? with
  | some p => s.modPage t p (fun d => { d with next := (s.page t g).next })
  | none => s

/-- FREE of one page (Table 8-5, R213). -/
def stkFree (t g requester : Nat) (s : State) : Nat × State :=
  if (s.tract t).fenced then (stFenced, s)
  else
    let d := s.page t g
    match d.state with
    | .held =>
      if d.owner ≠ requester then (stNotLast, countNlo t s)
      else
        let s := unlink t g (Tab.look [] ((s.sess t requester).getD {}).chains d.layer) s
        (stOk, (leavePage t g 6 s).modSess t requester (fun x => { x with chains := dropPage g x.chains }))
    | .shared =>
      match s.run t d.run with
      | some r =>
        if r.owners.length = 1 && r.lastOwner = requester then
          let s := (leavePage t g 6 (unlink t g (Tab.look [] r.pages d.layer) s)).modRun t d.run (fun r => { r with pages := dropPage g r.pages })
          if ((s.run t d.run).getD {}).all.isEmpty
          then (stOk, s.modTract t (fun x => { x with runs := Tab.drop d.run x.runs })) else (stOk, s)
        else (stNotLast, countNlo t s)
      | none => (stNotLast, countNlo t s)
    | _ =>
      (stDouble, recordFault { source := 0x0601, unit := unitTract t, cls := 2, access := 6
                               addr := cellarAddr t (g * 65536), info := requester }
        (s.modTract t (fun r => { r with dfree := sat32 r.dfree })))

/-- Owner records in use across the runs of a Tract. -/
def Tract.roll (r : Tract) : Nat := r.runs.foldl (fun n e => n + (e.2.getD {}).owners.length) 0

/-- The lowest run number that is not open. Marks (DESIGN CHOICE 173). -/
def Tract.freeRun (r : Tract) : Nat :=
  ((List.range (r.runs.length + 1)).find? (fun n => (Tab.look none r.runs n).isNone)).getD 0

/-- SHARE: a prefix session's pages become a run of two owners, or the operation fails whole (Table 8-5). -/
def stkShare (t pfx grafter : Nat) (s : State) : Nat × State :=
  if (s.tract t).fenced then (stFenced, s)
  else match s.sess t pfx with
  | none => (stNotShareable, s)
  | some x =>
    let pages := x.ownPages
    let r := s.tract t
    if pages.isEmpty || !pages.all (fun g => (s.page t g).state == .held && (s.page t g).owner == pfx)
    then (stNotShareable, s)
    else if 65536 ≤ r.runs.length || 1048576 < r.roll + 2 then (stOwnersFull, s)
    else
      let n := r.freeRun
      let run : Run := {
        pfx := pfx, owners := [pfx, grafter], pages := x.chains, tokens := Tab.look 0 x.counts 0, geo := x.geo }
      let share := fun (d : Desc) => { d with state := .shared, owner := nobody, run := n }
      let s := pages.foldl (fun s g => s.modPage t g share) s
      let s := s.modTract t (fun r => { r with runs := Tab.add n (some run) r.runs })
      (stOk, s.modSess t pfx (fun x => { x with chains := [], ownRun := some n }))

/-- ADD_OWNER (Table 8-5). -/
def stkAddOwner (t n grafter : Nat) (s : State) : Nat × State :=
  if (s.tract t).fenced then (stFenced, s)
  else match s.run t n with
  | none => (stNotShareable, s)
  | some r =>
    if !r.all.all (fun g => (s.page t g).state == .shared && (s.page t g).run == n) then (stNotShareable, s)
    else if 65535 ≤ r.owners.length || 1048576 < (s.tract t).roll + 1 then (stOwnersFull, s)
    else (stOk, s.modRun t n (fun r => { r with owners := r.owners ++ [grafter], lastOwner := nobody }))

/-- RELEASE of a run; its pages are freed in ascending page order (Table 8-5, R210). -/
def stkRelease (t n requester : Nat) (s : State) : Nat × State :=
  if (s.tract t).fenced then (stFenced, s)
  else match s.run t n with
  | none => (stNotOwner, countNlo t s)
  | some r =>
    if !r.owners.contains requester then (stNotOwner, countNlo t s)
    else if 1 < r.owners.length then
      let rest := r.owners.erase requester
      let last := match rest with | [o] => o | _ => nobody
      (stOk, s.modRun t n (fun r => { r with owners := rest, lastOwner := last }))
    else
      let s := (sortUp r.all).foldl (fun s g => leavePage t g 7 s) s
      (stOk, s.modTract t (fun x => { x with runs := Tab.drop n x.runs }))

/-! ## Retirement and repair (R216-R220) -/

/-- RETIRE_THRESH, where 0 acts as 1 (Table 8-11). -/
def Cel.threshold (c : Cel) : Nat := max 1 c.thresh.toNat

/-- Key of a bank of a pseudo-channel. -/
def bankKey (pc g : Nat) : Nat := pc * 64 + bankOf g

/-- A spare row is left in the bank of a row: rows queued take one each. Marks (DESIGN CHOICE 177). -/
def State.spareLeft (s : State) (t pc g : Nat) : Bool :=
  let r := s.tract t
  Tab.look 0 r.spareUsed (bankKey pc g) + (r.repairQ.filter (fun e => bankKey e.1 e.2 == bankKey pc g)).length
    < Config.spareRows

/-- Whether a Tract's queue takes a row, or holds it already; at most 16 rows wait (R220). -/
def State.rowFits (s : State) (t pc g : Nat) : Bool :=
  let r := s.tract t
  r.repairQ.contains (pc, g) || r.repairQ.length < 16

/-- A row is queued for repair. -/
def queueRow (t pc g : Nat) (s : State) : State :=
  s.modTract t (fun r =>
    if r.repairQ.contains (pc, g) || 16 ≤ r.repairQ.length then r else { r with repairQ := r.repairQ ++ [(pc, g)] })

/-- A FREE page of the pool is retired at once, others when they are freed (R216, R219); a page outside the pool keeps
RETIRE_PEND. Marks (DEDUCED 172). -/
def retirePage (t g access : Nat) (s : State) : State :=
  match (s.page t g).state with
  | .free =>
    if s.inPool t g then logRetired t g access (s.modPage t g (fun d => { d with state := .retired }))
    else s.modPage t g (fun d => { d with retirePend := true })
  | .retired => s
  | _ => s.modPage t g (fun d => { d with retirePend := true })

/-- An uncorrectable word in a usable page queues its row, or RETIRE_PEND is set where no spare row is left (R219). -/
def repairFor (t pc g access : Nat) (s : State) : State :=
  if s.spareLeft t pc g then queueRow t pc g s
  else retirePage t g access (s.modCel (fun c => { c with lastRepair := 3 }))

/-- CE_LIMIT on a page, which the controller issues when CE_COUNT has reached the threshold: its row is queued with
AUTO_REPAIR, or it is retired (R211, R216). A row that finds its Tract's queue full changes nothing. Marks (DEDUCED 261). -/
def ceLimit (t g : Nat) (s : State) : State :=
  let d := s.page t g
  if s.isFatal || (s.tract t).fenced then s
  else if s.cel.autoRepair && s.spareLeft t d.lastPc g then
    (if s.rowFits t d.lastPc g then (queueRow t d.lastPc g s).modPage t g (fun d => { d with ce := 0 }) else s)
  else retirePage t g 5 s

/-- REPAIR_QUEUE: CEL_REPAIR.GO queues the row of PAGE in pseudo-channel PC (R228). Marks (DEDUCED 170). -/
def repairQueue (t pc g : Nat) (s : State) : State :=
  if s.isFatal || (s.tract t).fenced then s
  else if s.spareLeft t pc g then queueRow t pc g s
  else s.modCel (fun c => { c with lastRepair := 3 })

/-- Page 0x4490, the first of the save area (Table 8-1). -/
def saveArea : Nat := 0x44900000

/-- 1 KiB of the stacks is copied with its code from one address to another. -/
def Cel.copyRow (src dst : Nat) (c : Cel) : Cel :=
  let one := fun (c : Cel) i =>
    let w := src / 32 + i
    let v := dst / 32 + i
    { c with check := Tab.put none c.check v (Tab.look none c.check w)
             ue := if c.ue.contains w then insertUp v c.ue else c.ue.filter (· != v) }
  (List.range 32).foldl one { c with mem := Memory.writeN c.mem dst (Memory.readN c.mem src 1024) }

/-- Correctable words of a list are corrected. -/
def correctWords (t : Nat) (ws : List Nat) (s : State) : State :=
  (ws.filter s.cel.soft.contains).foldl (fun s w => freshWord w (correctedError t (w * 32 % 2 ^ 36) 1 true s)) s

/-- Row `i` of a repair is copied to the save area: its correctable words are corrected, an uncorrectable one is copied as
found (Table 8-8). Marks (DESIGN CHOICE 264). -/
def copyRow (t off i : Nat) (s : State) : State :=
  (correctWords t (wordsOf t off 1024) s).modCel (Cel.copyRow (cellarAddr t off) (cellarAddr t (saveArea + 1024 * i)))

/-- What the repair of a copied row records: the row is repaired and written back, or fails its check (R220). -/
def rowRepaired (t : Nat) (e : Nat × Nat) (failed : Bool) (s : State) : State :=
  let (pc, g) := e
  let off := g * 65536 + pc * 1024
  let s := recordFault { source := 0x0503, unit := unitChannel t pc, cls := 1, access := 5
                         addr := cellarAddr t off } s
  if failed then
    (retirePage t g 5 s).modCel (fun c => { c with lastRepair := 2 })
  else
    (s.modTract t (fun r => { r with
      repairs := satAdd 0xFFFF r.repairs 1
      spareUsed := Tab.edit 0 r.spareUsed (bankKey pc g) (· + 1) })).modCel (fun c => { c with lastRepair := 1 })

/-- REPAIR_DONE, one queued row: it is copied to the save area, then repaired (R220). -/
def repairRow (t i : Nat) (e : Nat × Nat) (failed : Bool) (s : State) : State :=
  rowRepaired t e failed (copyRow t (e.2 * 65536 + e.1 * 1024) i s)

def repairDone (t : Nat) (failedRows : List Nat) (s : State) : State :=
  let r := s.tract t
  if s.isFatal || r.fenced || !r.quiesce || !r.repairing then s
  else
    let rows := r.repairQ.take 16
    let s := rows.zipIdx.foldl (fun s e => repairRow t e.2 e.1 (failedRows.contains e.2) s) s
    s.modTract t (fun r => { r with repairQ := r.repairQ.drop 16, repairing := false })

/-! ## Meanings -/

def execAlloc (tract sid : Nat) (mirrorPool : Bool) (layers : List Nat) (s : State) : Answer :=
  need (Wf.tract tract && Wf.session sid && Wf.layers layers)
    (if s.isFatal then s else (stkAlloc tract sid mirrorPool layers s).2)
def execFree (tract page requester : Nat) (s : State) : Answer :=
  need (Wf.tract tract && Wf.page page && Wf.session requester)
    (if s.isFatal then s else (stkFree tract page requester s).2)
def execShare (tract pfx grafter : Nat) (s : State) : Answer :=
  need (Wf.tract tract && Wf.session pfx && Wf.session grafter)
    (if s.isFatal then s else (stkShare tract pfx grafter s).2)
def execAddOwner (tract run grafter : Nat) (s : State) : Answer :=
  need (Wf.tract tract && Wf.run run && Wf.session grafter)
    (if s.isFatal then s else (stkAddOwner tract run grafter s).2)
def execStkRelease (tract run requester : Nat) (s : State) : Answer :=
  need (Wf.tract tract && Wf.run run && Wf.session requester)
    (if s.isFatal then s else (stkRelease tract run requester s).2)
def execCeLimit (tract page : Nat) (s : State) : Answer := need (Wf.tract tract && Wf.page page) (ceLimit tract page s)
def execRepairQueue (tract pc page : Nat) (s : State) : Answer :=
  need (Wf.tract tract && pc < 64 && Wf.page page) (onBlock 4 true (repairQueue tract pc page) s)
def execRepairDone (tract : Nat) (failedRows : List Nat) (s : State) : Answer :=
  need (Wf.tract tract) (repairDone tract failedRows s)

end Sys2Proof.Machine
end

