-- ==== Sys2Proof/Machine/Numerics.lean ====
section
/-! DEFINITION. Machine/Numerics.lean: formats, exact values, rounding, the mixer, histograms and the correctly
rounded functions (07_numerics.md R173-R192). -/

namespace Sys2Proof.Machine

/-! ## Exact values -/

/-- A decoded value: (-1)^neg × m × 2^e, an infinity or a NaN (R177). Zero keeps its sign. -/
inductive Val where
  | nan
  | inf (neg : Bool)
  | fin (neg : Bool) (m : Nat) (e : Int)
  deriving DecidableEq, Repr

/-- +0. -/
def Val.zero : Val := .fin false 0 0

/-- The integer m × 2^(e - q) of a value at a lower exponent q. -/
def alignTo (q : Int) (neg : Bool) (m : Nat) (e : Int) : Int :=
  let n : Int := m * 2 ^ (e - q).toNat
  if neg then -n else n

/-- A signed integer times 2^q as a value; an exact zero is +0. -/
def Val.ofInt (n : Int) (q : Int) : Val := .fin (n < 0) n.natAbs q

/-- Exact sum; the sign of an exact zero is that of IEEE 754 to nearest (R175). -/
def Val.add : Val → Val → Val
  | .nan, _ => .nan
  | _, .nan => .nan
  | .inf a, .inf b => if a = b then .inf a else .nan
  | .inf a, .fin _ _ _ => .inf a
  | .fin _ _ _, .inf b => .inf b
  | .fin s m e, .fin t n f =>
    if m = 0 && n = 0 then .fin (s && t) 0 0
    else
      let q := min e f
      Val.ofInt (alignTo q s m e + alignTo q t n f) q

/-- Exact product. -/
def Val.mul : Val → Val → Val
  | .nan, _ => .nan
  | _, .nan => .nan
  | .inf a, .inf b => .inf (a != b)
  | .inf a, .fin t n _ => if n = 0 then .nan else .inf (a != t)
  | .fin s m _, .inf b => if m = 0 then .nan else .inf (s != b)
  | .fin s m e, .fin t n f => .fin (s != t) (m * n) (e + f)

def Val.neg : Val → Val
  | .nan => .nan
  | .inf a => .inf (!a)
  | .fin s m e => .fin (!s) m e

/-- A value times 2^k. -/
def Val.shift (k : Int) : Val → Val
  | .fin s m e => .fin s m (e + k)
  | v => v

def Val.isNeg : Val → Bool
  | .nan => false
  | .inf a => a
  | .fin s _ _ => s

def Val.isNan : Val → Bool
  | .nan => true
  | _ => false

def Val.isInf : Val → Bool
  | .inf _ => true
  | _ => false

def Val.isFin : Val → Bool
  | .fin _ _ _ => true
  | _ => false

/-- floor(log2 |v|) of a finite value other than zero. -/
def Val.log2 : Val → Int
  | .fin _ m e => (m.log2 : Int) + e
  | _ => 0

/-- Comparison of magnitudes m × 2^e ≤ n × 2^f. -/
def magLe (m : Nat) (e : Int) (n : Nat) (f : Int) : Bool :=
  let q := min e f
  m * 2 ^ (e - q).toNat ≤ n * 2 ^ (f - q).toNat

/-- a < b for values that are not NaN, with -0 below +0 (R180). -/
def Val.lt : Val → Val → Bool
  | .inf a, .inf b => a && !b
  | .inf a, .fin _ _ _ => a
  | .fin _ _ _, .inf b => !b
  | .fin s m e, .fin t n f =>
    if m = 0 && n = 0 then s && !t
    else
      let q := min e f
      alignTo q s m e < alignTo q t n f
  | _, _ => false

/-- IEEE 754 maximum and minimum (Table 7-5). -/
def Val.max (a b : Val) : Val := if a.isNan || b.isNan then .nan else if a.lt b then b else a
def Val.min (a b : Val) : Val := if a.isNan || b.isNan then .nan else if b.lt a then b else a

/-! ## Formats (Tables 7-1 and 7-2) -/

/-- A floating-point format: exponent and mantissa bits, bias; `ieee` has infinities and all-ones NaNs, `nanTop` has the
one NaN code of FP8 E4M3. -/
structure Fmt where
  eb     : Nat
  mb     : Nat
  bias   : Nat
  ieee   : Bool := false
  nanTop : Bool := false

/-- The floating-point formats by element code. -/
def fmtOf (elem : Nat) : Option Fmt :=
  match elem with
  | 0 => some { eb := 8, mb := 7, bias := 127, ieee := true }
  | 1 => some { eb := 5, mb := 10, bias := 15, ieee := true }
  | 2 => some { eb := 4, mb := 3, bias := 7, nanTop := true }
  | 3 => some { eb := 5, mb := 2, bias := 15, ieee := true }
  | 4 => some { eb := 3, mb := 2, bias := 3 }
  | 5 => some { eb := 2, mb := 3, bias := 1 }
  | 6 => some { eb := 2, mb := 1, bias := 1 }
  | 8 => some { eb := 11, mb := 52, bias := 1023, ieee := true }
  | 9 => some { eb := 8, mb := 23, bias := 127, ieee := true }
  | _ => none

/-- Bits per element. -/
def elemBits (elem : Nat) : Nat :=
  match elem with
  | 0 => 16 | 1 => 16 | 2 => 8 | 3 => 8 | 4 => 6 | 5 => 6 | 6 => 4 | 7 => 8 | 8 => 64 | 9 => 32
  | 10 => 4 | 11 => 32 | 12 => 32 | _ => 0

/-- An integer format (R173). -/
def isIntElem (elem : Nat) : Bool := elem = 7 || elem = 10 || elem = 11

/-- Exponent of the smallest normal value. -/
def Fmt.emin (f : Fmt) : Int := 1 - f.bias

/-- emax: the exponent of the largest normal value; 0 for MXINT8. -/
def Fmt.emax (f : Fmt) : Int := (2 ^ f.eb - 1 : Nat) - (if f.ieee then 1 else 0) - (f.bias : Int)
def emaxOf (elem : Nat) : Int := match fmtOf elem with | some f => f.emax | none => 0

/-- Largest finite magnitude as m × 2^e. -/
def Fmt.largest (f : Fmt) : Nat × Int :=
  let m := 2 ^ (f.mb + 1) - (if f.nanTop then 2 else 1)
  (m, f.emax - f.mb)

/-- Decode an element code (R174, R177). A BF16 pair decodes as its sum word. -/
def decode (elem : Nat) (scaled : Bool) (code : Nat) : Val :=
  match fmtOf elem with
  | some f =>
    let x := (code / 2 ^ f.mb) % 2 ^ f.eb
    let m := code % 2 ^ f.mb
    let s := code.testBit (f.eb + f.mb)
    if f.ieee && x = 2 ^ f.eb - 1 then (if m = 0 then .inf s else .nan)
    else if f.nanTop && x = 2 ^ f.eb - 1 && m = 2 ^ f.mb - 1 then .nan
    else if x = 0 then .fin s m (f.emin - f.mb)
    else .fin s (2 ^ f.mb + m) (x - f.bias - f.mb)
  | none =>
    if elem = 12 then
      let c := code / 65536
      let x := (c / 128) % 256
      if x = 255 then (if c % 128 = 0 then .inf (c.testBit 15) else .nan)
      else if x = 0 then .fin (c.testBit 15) (c % 128) (-133) else .fin (c.testBit 15) (128 + c % 128) (x - 134)
    else
      let n := toInt (elemBits elem) code
      Val.ofInt n (if elem = 7 && scaled then -6 else 0)

/-- Apply a block scale byte: 0xFF makes the element NaN (R174). -/
def withScale (s : Nat) (v : Val) : Val := if s = 255 then .nan else v.shift (s - 127)

/-- The one NaN of a format (R174). -/
def nanCode (elem : Nat) : Nat :=
  match elem with
  | 0 => 0x7FC0 | 1 => 0x7E00 | 2 => 0x7F | 3 => 0x7E | 8 => 0x7FF8000000000000 | 9 => 0x7FC00000 | _ => 0

/-- Whether a format has a NaN, or infinities. -/
def hasNan (elem : Nat) : Bool := match fmtOf elem with | some f => f.ieee || f.nanTop | none => elem = 12
def hasInf (elem : Nat) : Bool := match fmtOf elem with | some f => f.ieee | none => elem = 12

/-- The code of an infinity. -/
def infCode (elem : Nat) (neg : Bool) : Nat :=
  match fmtOf elem with
  | some f => ofBool neg * 2 ^ (f.eb + f.mb) + (2 ^ f.eb - 1) * 2 ^ f.mb
  | none => 0

/-- Exponent of the quantum of the element that a magnitude rounds to (R185). -/
def quantumExp (elem : Nat) (scaled : Bool) (m : Nat) (e : Int) : Int :=
  match fmtOf elem with
  | some f => (if m = 0 then f.emin else max ((m.log2 : Int) + e) f.emin) - f.mb
  | none => if elem = 7 && scaled then -6 else 0

/-- Magnitude in quanta: floor, and the first 16 bits and the rest of the fraction (R185). -/
structure Trunc where
  n    : Nat
  f16  : Nat
  half : Ordering
  rest : Bool

def truncTo (q : Int) (m : Nat) (e : Int) : Trunc :=
  if q ≤ e then { n := m * 2 ^ (e - q).toNat, f16 := 0, half := .lt, rest := false }
  else
    let k := (q - e).toNat
    let r := m % 2 ^ k
    { n := m / 2 ^ k, f16 := r * 65536 / 2 ^ k, half := compare (2 * r) (2 ^ k), rest := r ≠ 0 }

/-- Whether the magnitude rounds up (Table 7-7). -/
def roundsUp (mode : Nat) (neg : Bool) (t : Trunc) (r : Nat) : Bool :=
  match mode with
  | 0 => t.half = .gt || (t.half = .eq && t.n % 2 = 1)
  | 2 => neg && t.rest
  | 3 => !neg && t.rest
  | 4 => r < t.f16
  | _ => false

/-- Code of a magnitude n × 2^q of a format that can hold it. -/
def encodeMag (elem : Nat) (neg : Bool) (n : Nat) (q : Int) : Nat :=
  match fmtOf elem with
  | some f =>
    let (n, q) := if n = 2 ^ (f.mb + 1) then (n / 2, q + 1) else (n, q)
    let sign := ofBool neg * 2 ^ (f.eb + f.mb)
    if n < 2 ^ f.mb then sign + n else sign + (q + f.mb + f.bias).toNat * 2 ^ f.mb + (n - 2 ^ f.mb)
  | none => ofInt (elemBits elem) (if neg then -(n : Int) else n)

/-- The end of the finite range on a side (R174). -/
def endOfRange (elem : Nat) (neg : Bool) : Nat :=
  match fmtOf elem with
  | some f => encodeMag elem neg f.largest.1 f.largest.2
  | none => let b := elemBits elem; if neg then 2 ^ (b - 1) else 2 ^ (b - 1) - 1

/-- Whether a magnitude lies beyond the finite range. -/
def beyond (elem : Nat) (scaled neg : Bool) (m : Nat) (e : Int) : Bool :=
  match fmtOf elem with
  | some f => !magLe m e f.largest.1 f.largest.2
  | none =>
    let b := elemBits elem
    !magLe m e (if neg then 2 ^ (b - 1) else 2 ^ (b - 1) - 1) (if elem = 7 && scaled then -6 else 0)

/-! ## Binary32 and binary64 -/

/-- Round to nearest, ties to even, in an IEEE format, with IEEE overflow. -/
def roundIeee (elem : Nat) : Val → Nat
  | .nan => nanCode elem
  | .inf s => infCode elem s
  | .fin s m e =>
    let q := quantumExp elem false m e
    let t := truncTo q m e
    let n := if roundsUp 0 s t 0 then t.n + 1 else t.n
    if beyond elem false s n q then infCode elem s else encodeMag elem s n q

/-- rn of R249: a binary32 rounding to nearest. -/
def rn32 (v : Val) : Val := decode 9 false (roundIeee 9 v)
/-- A binary64 rounding to nearest. -/
def rn64 (v : Val) : Val := decode 8 false (roundIeee 8 v)
/-- Rounding to BF16 to nearest. -/
def rnBf16 (v : Val) : Val := decode 0 false (roundIeee 0 v)

/-! ## Conversion to an output format (R185, R186) -/

/-- What a conversion gives: the code, and the conditions of CRF_NUMST. -/
structure Conv where
  code      : Nat := 0
  overflow  : Bool := false
  invalid   : Bool := false
  nonfinite : Bool := false
  nanBlock  : Bool := false

/-- The IEEE overflow result of a rounding mode: an infinity or the largest finite value. -/
def overflowsToInf (mode : Nat) (neg : Bool) : Bool :=
  match mode with | 0 => true | 2 => neg | 3 => !neg | 4 => true | _ => false

/-- A Croft conversion (R185, R186) with the mixer's bits r. -/
def convertCroft (elem : Nat) (scaled : Bool) (sigma : Int) (mode : Nat) (sat : Bool) (r : Nat) : Val → Conv
  | .nan =>
    if hasNan elem then { code := nanCode elem, nonfinite := true }
    else if scaled then { nanBlock := true, nonfinite := true } else { invalid := true }
  | .inf s =>
    if hasInf elem then { code := infCode elem s, nonfinite := true }
    else { code := endOfRange elem s, overflow := true }
  | .fin s m e =>
    let e := e - sigma
    let q := quantumExp elem scaled m e
    let t := truncTo q m e
    let n := if roundsUp mode s t r then t.n + 1 else t.n
    if beyond elem scaled s n q then
      if hasInf elem && !sat && overflowsToInf mode s then { code := infCode elem s, overflow := true, nonfinite := true }
      else { code := endOfRange elem s, overflow := true }
    else { code := encodeMag elem s n q }

/-- The block-scale rule (R155): the exponent of a block of values. -/
def blockScale (elem : Nat) (bias : Nat) (vs : List Val) : Int :=
  let big := vs.foldl (fun (a : Option Int) v =>
    match v with
    | .fin _ m e => if m = 0 then a else some (match a with
        | some b => max b ((m.log2 : Int) + e)
        | none => (m.log2 : Int) + e)
    | _ => a) none
  match big with
  | none => 0
  | some l => max (-127) (min 127 (l - emaxOf elem + bias))

/-! ## The mixer (R187) -/

def word64 (n : Nat) : Nat := n % 2 ^ 64

def stir (z : Nat) : Nat :=
  let z := word64 ((z ^^^ (z >>> 31)) * 0x8f3a5c71e29b04d5)
  let z := word64 ((z ^^^ (z >>> 29)) * 0x5b1d97e3c64a28f9)
  z ^^^ (z >>> 32)

def mixer (seed step id unit index : Nat) : Nat :=
  let k := stir (seed ^^^ 0x7a4ec15f936db2e1)
  let k := stir (k ^^^ (word64 (step <<< 32) ||| (id <<< 16) ||| unit))
  stir (word64 (k + index * 0x7a4ec15f936db2e1)) >>> 48

/-! ## Packing (R176) -/

/-- Cut a byte string into groups of n bytes. -/
def groupsOf (n : Nat) : Nat → Bytes → List Bytes
  | 0, _ => []
  | k + 1, bs => slice bs 0 n :: groupsOf n k (bs.drop n)

/-- Bytes in the smallest whole group of elements of a width. -/
def groupBytes (w : Nat) : Nat := if w = 6 then 3 else if w = 4 then 1 else w / 8

/-- Elements in it. -/
def groupElems (w : Nat) : Nat := if w = 6 then 4 else if w = 4 then 2 else 1

/-- The first `n` element codes of a packed string. -/
def unpack (w n : Nat) (bs : Bytes) : List Nat :=
  if w = 0 then [] else
  let k := groupElems w
  ((groupsOf (groupBytes w) ((n + k - 1) / k) bs).flatMap (fun g =>
    (List.range k).map (fun i => (beNat g >>> (w * (k - 1 - i))) % 2 ^ w))).take n

/-- Pack codes; a last group that is not full is padded with zero bits. -/
def packGroups (w : Nat) : Nat → List Nat → Bytes
  | 0, _ => []
  | k + 1, cs =>
    let j := groupElems w
    let v := (List.range j).foldl (fun a i => a * 2 ^ w + (cs.getD i 0) % 2 ^ w) 0
    beBytes (groupBytes w) v ++ packGroups w k (cs.drop j)

def pack (w : Nat) (cs : List Nat) : Bytes :=
  if w = 0 then [] else packGroups w ((cs.length + groupElems w - 1) / groupElems w) cs

/-- Bytes of a packed string of n elements. -/
def packedLen (w n : Nat) : Nat := if w = 0 then 0 else (n + groupElems w - 1) / groupElems w * groupBytes w

/-! ## Histograms (R189) -/

/-- The bin of a value with respect to a base B. -/
def histBin (b : Int) (v : Val) : Nat :=
  match v with
  | .fin _ m e =>
    if m = 0 then 0
    else
      let l := (m.log2 : Int) + e
      if l < b then 1 else if b + 36 ≤ l then 38 else (2 + (l - b)).toNat
  | _ => 39

/-! ## Correctly rounded functions (Table 7-5, R249)
An inexact positive result is given to more bits than any format holds, with a last bit that marks it as inexact. -/

/-- A positive number as floor and inexactness: 2n + 1 where bits were lost. -/
def sticky (n : Nat) (lost : Bool) : Nat := 2 * n + ofBool lost

/-- Fraction bits of the series. -/
def fracBits : Nat := 320

/-- e^x by Taylor series in fixed point: terms x^k / k! are added for k from `k` up. -/
def expSeries (x : Nat) : Nat → Nat → Nat → Nat → Nat
  | 0, _, _, acc => acc
  | n + 1, k, term, acc =>
    let t := term * x / 2 ^ fracBits / k
    expSeries x n (k + 1) t (acc + t)

/-- Squarings in fixed point. -/
def squarings : Nat → Nat → Nat
  | 0, v => v
  | n + 1, v => squarings n (v * v / 2 ^ fracBits)

/-- e^|x| for |x| = m × 2^e below 128, in fixed point. -/
def expFixed (m : Nat) (e : Int) : Nat :=
  let x := if 0 ≤ e then m * 2 ^ (e.toNat + fracBits) else m * 2 ^ fracBits / 2 ^ (-e).toNat
  squarings 8 (expSeries (x / 256) 100 1 (2 ^ fracBits) (2 ^ fracBits))

/-- exp, correctly rounded to binary32. -/
def exp32 (v : Val) : Val :=
  match v with
  | .nan => .nan
  | .inf s => if s then .zero else .inf false
  | .fin s m e =>
    if m = 0 then .fin false 1 0
    else if !magLe m e 128 0 then (if s then .zero else .inf false)
    else
      let y := expFixed m e
      rn32 (if s then .fin false (sticky (2 ^ (2 * fracBits) / y) true) (-(fracBits : Int) - 1)
            else .fin false (sticky y true) (-(fracBits : Int) - 1))

/-- Quotient a / b of positive numbers, to 200 bits and its inexactness. -/
def quotient (m : Nat) (e : Int) (n : Nat) (f : Int) : Nat × Int :=
  let k := 200 + n.log2
  let x := m * 2 ^ k
  (sticky (x / n) (x % n ≠ 0), e - f - k - 1)

/-- IEEE quotient before rounding. -/
def Val.div : Val → Val → Val
  | .nan, _ => .nan
  | _, .nan => .nan
  | .inf _, .inf _ => .nan
  | .inf a, .fin t _ _ => .inf (a != t)
  | .fin s _ _, .inf b => .fin (s != b) 0 0
  | .fin s m e, .fin t n f =>
    if n = 0 then (if m = 0 then .nan else .inf (s != t))
    else let (x, q) := quotient m e n f; .fin (s != t) x q

/-- recip, correctly rounded to binary32. -/
def recip32 (v : Val) : Val := rn32 (Val.div (.fin false 1 0) v)

/-- Integer square root by bits from 2^k down. -/
def sqrtBits (n : Nat) : Nat → Nat → Nat
  | 0, r => if (r + 1) * (r + 1) ≤ n then r + 1 else r
  | k + 1, r => let c := r + 2 ^ (k + 1); sqrtBits n k (if c * c ≤ n then c else r)

/-- Square root before rounding. -/
def Val.sqrt : Val → Val
  | .nan => .nan
  | .inf s => if s then .nan else .inf false
  | .fin s m e =>
    if m = 0 then .fin s 0 0
    else if s then .nan
    else
      let odd := e % 2 ≠ 0
      let x := (if odd then 2 * m else m) * 2 ^ 200
      let e := if odd then e - 1 else e
      let r := sqrtBits x (x.log2 / 2 + 1) 0
      .fin false (sticky r (r * r ≠ x)) (e / 2 - 100 - 1)

/-- 2 × artanh(z) in fixed point: terms z^(2k+1) / (2k+1). -/
def artanhSeries (zz : Nat) : Nat → Nat → Nat → Nat → Nat
  | 0, _, _, acc => 2 * acc
  | n + 1, k, pow, acc =>
    let p := pow * zz / 2 ^ fracBits
    artanhSeries zz n (k + 1) p (acc + p / (2 * k + 1))

/-- ln of (1 + z) / (1 - z) for z = a / b in fixed point. Marks (DEDUCED 205). -/
def lnRatio (a b : Nat) : Nat :=
  let z := a * 2 ^ fracBits / b
  artanhSeries (z * z / 2 ^ fracBits) 110 1 z z

/-- ln 2 in fixed point. -/
def ln2 : Nat := lnRatio 1 3

/-- ln, correctly rounded to binary32, of a value that is not negative (R249). -/
def ln32 (v : Val) : Val :=
  match v with
  | .nan => .nan
  | .inf s => if s then .nan else .inf false
  | .fin s m e =>
    if m = 0 then .inf true
    else if s then .nan
    else
      let l := m.log2
      let k : Int := (l : Int) + e
      -- the significand m / 2^l lies in [1, 2); above 4/3 it is halved
      let (d, k) := if 4 * 2 ^ l < 3 * m then (2 ^ (l + 1), k + 1) else (2 ^ l, k)
      let up : Bool := d ≤ m
      let part : Int := lnRatio (if up then m - d else d - m) (m + d)
      let total : Int := k * ln2 + (if up then part else -part)
      if total = 0 then .zero else rn32 (.fin (total < 0) (sticky total.natAbs true) (-(fracBits : Int) - 1))

/-! ## Multi-pass operands (R181) -/

/-- Round a finite value to an 8-bit significand with unbounded exponent, to nearest with ties to even. -/
def round8 : Val → Val
  | .fin s m e =>
    if m < 256 then .fin s m e
    else
      let q := e + (m.log2 : Int) - 7
      let t := truncTo q m e
      .fin s (if roundsUp 0 s t 0 then t.n + 1 else t.n) q
  | v => v

/-- The split of an operand into hi, lo and lo2. -/
def split8 (v : Val) : Val × Val × Val :=
  if !v.isFin then (v, .zero, .zero)
  else
    let hi := round8 v
    let rest := v.add hi.neg
    let lo := round8 rest
    (hi, lo, rest.add lo.neg)

end Sys2Proof.Machine
end

