-- ==== Sys2Proof/Machine/Fold.lean ====
section
/-! DEFINITION. Machine/Fold.lean: Pens, node arithmetic, retention, deadlines and the Tally
(06_fold_in_network_reduction.md R141-R172; residues by R192, lanes by R355). -/

namespace Sys2Proof.Machine

/-! ## Shapes of a chunk (Table 6-2) -/

def chunkElems : Nat := 32768
/-- Data packets per chunk, NP; 0 for a reserved code. -/
def dataPackets (fmt : Nat) : Nat :=
  match fmt with | 0 => 16 | 1 => 16 | 2 => 8 | 3 => 8 | 4 => 8 | 5 => 8 | 6 => 4 | 7 => 8 | 8 => 64 | _ => 0
def packetElems (fmt : Nat) : Nat := chunkElems / dataPackets fmt
def dataLen (fmt : Nat) : Nat := packedLen (elemBits fmt) (packetElems fmt)
def scaleLen (fmt : Nat) : Nat := if fmt = 8 then 0 else 1024
def chunkBytes (fmt : Nat) : Nat := dataPackets fmt * dataLen fmt + scaleLen fmt

/-- Verdicts (Table 6-6) and abort statuses (Table 6-8). -/
def vGood : Nat := 0x5A
def vBad : Nat := 0xA5
def abLate : Nat := 1
def abNodeFault : Nat := 2
def abNodeReset : Nat := 3
def abNodeLost : Nat := 4
def abNoRetention : Nat := 6
def abMismatch : Nat := 7
def abUnsupported : Nat := 8
def abTableFull : Nat := 9
def abFieldReset : Nat := 10

/-- The trailer's 16 bytes (Table 6-6). Marks (DESIGN CHOICE 152). -/
def trailerBytes (t : Trailer) : Bytes :=
  beBytes 4 t.crc.toNat ++ beBytes 1 t.verdict ++ beBytes 1 t.flags.toNat ++ beBytes 1 t.attempt ++ [0] ++
  beBytes 4 t.count ++ beBytes 2 (if t.ovfBlocks < 65536 then t.ovfBlocks else (Config.ovfBeyond t.ovfBlocks).toNat) ++
  [0, 0]

def parseTrailer (bs : Bytes) : Trailer :=
  { crc := BitVec.ofNat 32 (beAt bs 0 4), verdict := beAt bs 4 1, flags := BitVec.ofNat 4 (beAt bs 5 1)
    attempt := beAt bs 6 1, count := beAt bs 8 4, ovfBlocks := beAt bs 12 2 }

/-! ## PEN_OPEN (R148) -/

def parsePenOpen (bs : Bytes) : PenOpenMsg :=
  let nseg := beAt bs 14 2
  let seg := fun (i : Nat) => ({
    start := beAt bs (64 + 12 * i) 4, wnorm := BitVec.ofNat 32 (beAt bs (68 + 12 * i) 4)
    scale := BitVec.ofNat 32 (beAt bs (72 + 12 * i) 4) } : PenSeg)
  { version := beAt bs 0 1, mode := BitVec.ofNat 8 (beAt bs 1 1), inFmt := beAt bs 2 1
    lvlFmt := BitVec.ofNat 32 (beAt bs 4 4), chunks := beAt bs 8 2, deadline := beAt bs 10 2
    ackDeadline := beAt bs 12 2, nseg := nseg, seed := BitVec.ofNat 64 (beAt bs 16 8)
    step := BitVec.ofNat 32 (beAt bs 24 4), ratioLo := BitVec.ofNat 32 (beAt bs 28 4)
    ratioHi := BitVec.ofNat 32 (beAt bs 32 4), segs := (List.range (min nseg 256)).map seg
    rsvClear := beAt bs 1 1 < 32 && beAt bs 3 1 == 0 && beAt bs 36 28 == 0 && bs.length == 64 + 12 * nseg }

def PenOpenMsg.isArrival (m : PenOpenMsg) : Bool := m.mode.getLsbD 0
def PenOpenMsg.isExclude (m : PenOpenMsg) : Bool := m.mode.getLsbD 1
def PenOpenMsg.isRecompute (m : PenOpenMsg) : Bool := m.mode.getLsbD 2
def PenOpenMsg.isScaleReset (m : PenOpenMsg) : Bool := m.mode.getLsbD 3
def PenOpenMsg.isRatio (m : PenOpenMsg) : Bool := m.mode.getLsbD 4
/-- Output format of a level, and the input format of a node at it. -/
def PenOpenMsg.outFmt (m : PenOpenMsg) (l : Nat) : Nat := (m.lvlFmt.toNat >>> (4 * l)) % 16
def PenOpenMsg.inFmtAt (m : PenOpenMsg) (l : Nat) : Nat := if l = 0 then m.inFmt else m.outFmt (l - 1)
def PenOpenMsg.isFp64 (m : PenOpenMsg) (top : Nat) : Bool :=
  m.inFmt == 8 || (List.range (top + 1)).any (fun l => m.outFmt l == 8)

/-- Rising segment starts below a limit. -/
def risingStarts (lim : Nat) : List PenSeg → Bool
  | [] => true
  | a :: r => a.start < lim && (match r with | b :: _ => a.start < b.start | [] => true) && risingStarts lim r

/-- The checks of R148 that open MISMATCH. -/
def PenOpenMsg.valid (m : PenOpenMsg) (q : PenPolicy) (top : Nat) : Bool :=
  let lv := List.range (top + 1)
  m.version == 1 && m.rsvClear &&
  (if m.isArrival then q.arrival else q.canonical) && (if m.isExclude then q.excludeOk else q.waitOk) &&
  m.inFmt ≤ 8 && lv.all (fun l => m.outFmt l ≤ 8) &&
  (if m.isFp64 top then m.inFmt == 8 && lv.all (fun l => m.outFmt l == 8)
   else elemBits (m.outFmt 0) ≤ 16 && (List.range top).all (fun l => elemBits (m.outFmt (l + 1)) ≤ elemBits (m.outFmt l))) &&
  16 ≤ m.chunks && m.chunks ≤ 1024 && m.nseg ≤ 256 && 1 ≤ m.deadline && 1 ≤ m.ackDeadline &&
  (match m.segs with | [] => true | a :: _ => a.start == 0) && risingStarts (chunkElems * m.chunks) m.segs

/-! ## Trees (R144, R145) and instances -/

def treeOf (q : PenPolicy) (arrival : Bool) : List PenNode := if arrival then q.arrivalNodes else q.canonNodes

/-- The ranks that an input of a node covers; trees have at most 16 levels. -/
def ranksOf (ns : List PenNode) : Nat → PenInput → List Nat
  | _, .member r => [r]
  | 0, .child _ => []
  | d + 1, .child k =>
    match ns.find? (·.node == k) with | some n => n.inputs.flatMap (ranksOf ns d) | none => []

/-- Who sent a Fold packet (Table 6-3). -/
def penSender (p : Packet) : PenInput := if penNode p then .child (penPos p) else .member (penPos p)

/-- The Pen policy of a tag in the applied Field image. -/
def State.penPolicy (s : State) (tag : Nat) : Option PenPolicy :=
  match s.fieldBody with | some (_, b) => b.pens.find? (·.tag == tag) | none => none

/-- Root level of a tree. -/
def rootLevel (ns : List PenNode) : Nat := match ns.find? (·.parent.isNone) with | some n => n.level | none => 0

/-- Key of an instance at a node. -/
def PenInst.key (i : PenInst) : Nat × Nat × Nat := (i.tag, i.stepLo, i.node.node)

def State.pen (s : State) (k : Nat × Nat × Nat) : Option PenInst := s.fld.insts.find? (·.key == k)
def State.modPen (k : Nat × Nat × Nat) (f : PenInst → PenInst) (s : State) : State :=
  s.modFld (fun l => { l with insts := l.insts.map (fun i => if i.key == k then f i else i) })
/-- All retention of an instance is released and the node is IDLE again (R160). -/
def State.dropPen (k : Nat × Nat × Nat) (s : State) : State :=
  s.modFld (fun l => { l with insts := l.insts.filter (fun i => i.key != k) })

/-- Marks (DEDUCED 161). -/
def countStale (s : State) : State := s.modFld (fun l => { l with stale := sat32 l.stale })

def PenInst.isRoot (i : PenInst) : Bool := i.node.parent.isNone
def PenInst.fmtIn (i : PenInst) : Nat := i.msg.inFmtAt i.node.level
def PenInst.fmtOut (i : PenInst) : Nat := i.msg.outFmt i.node.level
def PenInst.isFp64 (i : PenInst) : Bool := i.fmtOut == 8
/-- Stripe sets (R146): chunk c belongs to device c mod the set's size. -/
def stripeOf (devs : List Nat) (c : Nat) : Nat := c % max 1 devs.length
def nodeOwns (n : PenNode) (dev c : Nat) : Bool := n.devices.getD (stripeOf n.devices c) dev == dev
def PenInst.own (i : PenInst) (dev : Nat) : List Nat := (List.range i.msg.chunks).filter (nodeOwns i.node dev)
/-- Whether this device is the home of the node. -/
def PenInst.atHome (i : PenInst) (dev : Nat) : Bool := i.node.devices.head? == some dev
def PenInst.parentNode (i : PenInst) : Option PenNode :=
  i.node.parent.bind (fun k => (treeOf i.policy i.arrival).find? (·.node == k))
def PenInst.ranks (i : PenInst) (n : Nat) : List Nat :=
  match i.node.inputs[n]? with | some x => ranksOf (treeOf i.policy i.arrival) 16 x | none => []

def inKey (c n part : Nat) : Nat := 128 * c + 4 * n + part
def outKey (c part : Nat) : Nat := 4 * c + part
def PenInst.copy (i : PenInst) (k : Nat) : ChunkIn := Tab.look {} i.ins k
def PenInst.outp (i : PenInst) (c part : Nat) : ChunkOut := Tab.look {} i.outs (outKey c part)
def PenInst.hasOut (i : PenInst) (c part : Nat) : Bool := i.outs.any (·.1 == outKey c part)
/-- Number of outputs of a chunk that have been formed. -/
def PenInst.parts (i : PenInst) (c : Nat) : Nat := ((List.range 4).filter (i.hasOut c)).length
/-- The last output of a chunk has been formed; it is done when its verdict is GOOD. -/
def PenInst.formed (i : PenInst) (c : Nat) : Bool := (List.range 4).any (fun p => i.hasOut c p && (i.outp c p).last)
def PenInst.done (i : PenInst) (c : Nat) : Bool :=
  i.formed c && (List.range (i.parts c)).all (fun p => (i.outp c p).good)

/-- An input's copy of a chunk is complete: a member's one copy, or a child's parts up to the last (R145, R149). -/
def PenInst.hasIn (i : PenInst) (c n : Nat) : Bool :=
  let good := fun p => (i.copy (inKey c n p)).good
  match i.node.inputs[n]? with
  | some (.member _) => good 0
  | some (.child _) => (List.range 4).any (fun p =>
      (i.copy (inKey c n p)).trailer.flags.getLsbD 2 && (List.range (p + 1)).all good)
  | none => false

/-- An input has delivered a chunk. -/
def PenInst.delivered (i : PenInst) (c n : Nat) : Bool := (i.formed c && !i.excl.contains n) || i.hasIn c n

/-- Chunks of the parent's coverage (R160). -/
def PenInst.isCovered (i : PenInst) (c : Nat) : Bool :=
  match i.parentNode with
  | some q => (Tab.look 0 i.covered (stripeOf q.devices c)).testBit c
  | none => false

/-- Chunks that an ACK's UPTO and MASK cover (R150). Marks (DEDUCED 165). -/
def coverBits (chunks upto mask : Nat) : Nat :=
  ((2 ^ upto - 1) ||| (mask <<< (upto + 1))) % 2 ^ chunks

/-! ## Retention (R158, R159) -/

/-- Bytes of retention that an instance still holds on this device. -/
def PenInst.bytes (i : PenInst) (dev : Nat) : Nat :=
  let own := i.own dev
  let held := own.filter (fun c => if i.isRoot then !i.done c else !i.isCovered c)
  let acked := fun c => i.policy.members.length ≤ ((i.acks.filter (fun e => e.2.testBit c)).length)
  i.node.inputs.length * held.length * chunkBytes i.fmtIn +
  (if i.isRoot then (own.filter (fun c => !acked c)).length * chunkBytes i.fmtOut + 2 * i.policy.members.length else 0)

/-- Fold retention of a Tract: 1 GiB and FOLD_EXTRA (Table 8-1, R198). -/
def State.foldRoom (s : State) (t : Nat) : Nat := 2 ^ 30 + extraFold (s.part t) * 65536

def State.foldUsed (s : State) (t : Nat) : Nat :=
  (s.fld.insts.filter (·.tract == t)).foldl (fun n i => n + i.bytes s.devIndex) 0 +
  (s.fld.scales.filter (·.tract == t)).foldl (fun n e => n + 1024 * e.own.length) 0

/-- Free Fold retention in bytes (FLD_RET_FREE). -/
def State.foldFree (s : State) : Nat :=
  (List.range 32).foldl (fun n t => if (s.tract t).fenced then n else n + (s.foldRoom t - s.foldUsed t)) 0

/-- A scale table exists. -/
def State.scaleTab (s : State) (tag node : Nat) : Option ScaleTab :=
  s.fld.scales.find? (fun e => e.tag == tag && e.node == node)

/-- The holding Tract of a new instance (R159). -/
def State.holdingTract (s : State) (tag node need : Nat) : Option Nat :=
  ((List.range 32).map (fun i => (tag + node + i) % 32)).find? (fun t =>
    !(s.tract t).fenced && (s.tract t).repairQ.isEmpty && s.foldUsed t + need ≤ s.foldRoom t)

/-! ## Sending -/

/-- Slot of the Pen-state slice, and of a chunk's slice (R146, R355). -/
def State.penSlot (s : State) (tag : Nat) (fp64 : Bool) : Nat := 64 + s.sliceFor fp64 (penNumber tag)
def State.chunkSlot (s : State) (i : PenInst) (c : Nat) : Nat := 64 + s.sliceFor i.isFp64 (c + penNumber i.tag)

/-- Maximal runs of rising ranks, as first rank and count. -/
def rankRanges : List Nat → List (Nat × Nat)
  | [] => []
  | r :: rest =>
    match rankRanges rest with
    | (f, n) :: more => if f = r + 1 then (r, n + 1) :: more else (r, 1) :: (f, n) :: more
    | [] => [(r, 1)]

def rangeBytes (rs : List (Nat × Nat)) : Bytes := rs.flatMap (fun e => beBytes 2 e.1 ++ beBytes 2 e.2)
def rangeRanks (rs : List (Nat × Nat)) : List Nat := rs.flatMap (fun e => (List.range e.2).map (e.1 + ·))
def parseRanges (bs : Bytes) (n : Nat) : List (Nat × Nat) :=
  (List.range n).map (fun i => (beAt bs (4 * i) 2, beAt bs (4 * i + 2) 2))

/-- Lists of at most 16, one at least. -/
def by16 : Nat → List (Nat × Nat) → List (List (Nat × Nat))
  | 0, l => [l]
  | n + 1, l => if l.length ≤ 16 then [l] else l.take 16 :: by16 n (l.drop 16)

/-- Bitmap parts of a set of ranks, by part number; parts of zeros are not sent (R152). Marks (DEDUCED 153). -/
def bitmapParts (ranks : List Nat) : List (Nat × Bytes) :=
  [1, 2, 3, 4].filterMap (fun p =>
    let rs := ranks.filter (fun r => 16384 * (p - 1) ≤ r && r < 16384 * p)
    if rs.isEmpty then none
    else some (p, leBytes 2048 (rs.foldl (fun n r => n ||| 2 ^ (r - 16384 * (p - 1))) 0)))

/-- A packet of the VC2 multicast of a Pen. -/
def sendMcast (ptype tag stepLo node chunk pkt part slot : Nat) (body : Bytes) (s : State) : State :=
  inject slot { s.foldHeader (foldEid s.devIndex) ptype 2 tag node chunk pkt part true stepLo with payload := body } s

/-- The root issues an ABORT and its bitmap parts, and is IDLE (R152, R167). -/
def issueAbort (tag stepLo node status dev origin : Nat) (ranks : List Nat) (s : State) : State :=
  let fp64 := match s.pen (tag, stepLo, node) with | some i => i.isFp64 | none => false
  let slot := s.penSlot tag fp64
  let parts := if status = abLate || status = abNodeLost then bitmapParts ranks else []
  let hdr := abortHeader status ((parts.map (·.1)).foldl max 0) dev origin s.bel.gt
  let s := sendMcast 0x15 tag stepLo node 0 0 0 slot hdr s
  let s := parts.foldl (fun s e => sendMcast 0x15 tag stepLo node 0 e.1 0 slot e.2 s) s
  let s := s.modFld (fun l => { l with abortSt := Tab.edit 0 l.abortSt status sat32 })
  s.dropPen (tag, stepLo, node)

/-- A node opens an abort: fault classes are logged, the root issues the ABORT at once, another node or a stripe
device that is not the root's home reports it (R151, R167). -/
def reportAbort (tag stepLo : Nat) (n : PenNode) (arrival : Bool) (status : Nat) (ranks : List Nat) (s : State) :
    State :=
  let s := logPenAbort tag status s
  if n.parent.isNone && n.devices.head? == some s.devIndex then
    issueAbort tag stepLo n.node status s.devIndex n.node ranks s
  else
    let rs := by16 4096 (rankRanges ranks)
    let some' := some arrival
    rs.foldl (fun s r => sendAbortRecord tag stepLo n.node status some' (rangeBytes r) s) s

/-- An instance opens an abort; elsewhere than at the root it is ABORTED. -/
def openAbort (i : PenInst) (status : Nat) (ranks : List Nat) (s : State) : State :=
  if i.state = .aborted then s
  else
    let s := s.modPen i.key (fun x => { x with state := .aborted, abortTick := s.tickNow })
    reportAbort i.tag i.stepLo i.node i.arrival status ranks s

/-- Instances that meet a test open an abort. Marks (DEDUCED 154). -/
def abortWhere (c : PenInst → Bool) (status : Nat) (s : State) : State :=
  (s.fld.insts.filter c).foldl (fun s i => openAbort i status [] s) s

/-- A Tract that holds retention is fenced: its instances open NODE_FAULT and its scale tables are lost (R159, R222). -/
def foldTractLost (t : Nat) (s : State) : State :=
  (abortWhere (·.tract == t) abNodeFault s).modFld
    (fun l => { l with scales := l.scales.filter (fun e => e.tract != t) })

/-- Chunks of a child or of a parent go to the stripe device that owns them. -/
def deviceOf (n : PenNode) (c : Nat) : Nat := n.devices.getD (stripeOf n.devices c) 0

/-- Chunks that this device has received from an input, as bits; chunks of other stripe devices count as committed. -/
def PenInst.received (i : PenInst) (dev n : Nat) : Nat :=
  (List.range i.msg.chunks).foldl
    (fun b c => if !nodeOwns i.node dev c || i.delivered c n then b ||| 2 ^ c else b) 0

/-- Lowest chunk that is not in a set of bits. -/
def firstMissing (chunks b : Nat) : Nat := ((List.range chunks).find? (fun c => !b.testBit c)).getD chunks

/-- ACK of a child, to every device of its stripe set; the first one, which answers its PEN_OPEN, has UPTO 0 (R150,
R163). Marks (DEDUCED 167). -/
def ackChild (first : Bool) (k : Nat × Nat × Nat) (n : Nat) (s : State) : State :=
  match s.pen k with
  | none => s
  | some i =>
    match i.node.inputs[n]? with
    | some (.child id) =>
      let got := if first then 0 else i.received s.devIndex n
      let upto := firstMissing i.msg.chunks got
      let mask := (got >>> (upto + 1)) % 2 ^ 64
      let body := beBytes 2 upto ++ [0, 0] ++ beBytes 8 mask
      let devs := match (treeOf i.policy i.arrival).find? (·.node == id) with | some c => c.devices | none => []
      let s := s.modPen k (fun x => { x with sinceAck := if first then x.sinceAck else Tab.put 0 x.sinceAck n 0 })
      devs.foldl (fun s d =>
        inject (s.penSlot i.tag i.isFp64)
          { s.foldHeader (foldEid d) 0x13 1 i.tag id 0 0 0 true i.stepLo with payload := body } s) s
    | _ => s

/-- RESEND of a child's chunk, to the device that owns it (R162). -/
def sendResend (i : PenInst) (id c part : Nat) (s : State) : State :=
  let d := match (treeOf i.policy i.arrival).find? (·.node == id) with | some n => deviceOf n c | none => 0
  inject (s.penSlot i.tag i.isFp64)
    { s.foldHeader (foldEid d) 0x14 1 i.tag id c 0 part true i.stepLo with payload := List.replicate 12 0 } s

/-! ## Node arithmetic (R154-R157, R191) -/

/-- Lists of 32. -/
def by32 {α : Type} : Nat → List α → List (List α)
  | 0, _ => []
  | n + 1, l => l.take 32 :: by32 n (l.drop 32)

/-- The values of a chunk, by blocks of 32 (R143, R174). -/
def chunkValues (fmt : Nat) (data scales : Bytes) : List (List Val) :=
  let codes := (groupsOf (dataLen fmt) (dataPackets fmt) data).flatMap (unpack (elemBits fmt) (packetElems fmt))
  (by32 1024 codes).zipIdx.map (fun e =>
    let sc := if fmt = 8 then 127 else (scales.getD e.2 0).toNat
    e.1.map (fun c => withScale sc (decode fmt true c)))

/-- Data bytes of a copy, in PKT order. -/
def ChunkIn.data (x : ChunkIn) (fmt : Nat) : Bytes :=
  (List.range (dataPackets fmt)).flatMap (fun k => (Tab.look none x.pkts k).getD [])

/-- What a block becomes: its scale byte, its codes, whether it overflowed, whether a sum was not finite, and the bias
it reached. -/
structure BlockOut where
  scale     : Nat := 127
  codes     : List Nat := []
  oflow      : Bool := false
  nonfinite : Bool := false
  bias      : Nat := 0

/-- One rounding of a block at a bias (R155, R185): stochastic, an element beyond the finite range saturates. -/
def roundBlock (fmt bias : Nat) (rs : List Nat) (vs : List Val) : BlockOut :=
  let sg := blockScale fmt bias vs
  let one := fun (e : Val × Nat) =>
    match e.1 with
    | .fin neg m x =>
      if beyond fmt true neg m (x - sg) then (endOfRange fmt neg, true)
      else ((convertCroft fmt true sg 4 true e.2 e.1).code, false)
    | .inf neg => (infCode fmt neg, false)
    | .nan => (nanCode fmt, false)
  let es := (vs.zip rs).map one
  { scale := (sg + 127).toNat, codes := es.map (·.1), oflow := es.any (·.2), nonfinite := vs.any (fun v => !v.isFin)
    bias := bias }

/-- RECOMPUTE: the bias rises until no element overflows or it is 31 (R155). -/
def roundUntil (fmt : Nat) (rs : List Nat) (vs : List Val) : Nat → Nat → Bool → BlockOut
  | 0, bias, oflow => let b := roundBlock fmt bias rs vs; { b with oflow := oflow || b.oflow }
  | n + 1, bias, oflow =>
    let b := roundBlock fmt bias rs vs
    if b.oflow && bias < 31 then roundUntil fmt rs vs n (bias + 1) true else { b with oflow := oflow || b.oflow }

/-- A block of an output (R155, R156). Marks (DEDUCED 150). -/
def foldBlock (fmt bias : Nat) (recompute : Bool) (rs : List Nat) (vs : List Val) : BlockOut :=
  if vs.any (fun v => (v.isNan && !hasNan fmt) || (v.isInf && !hasInf fmt)) then
    { scale := 255, codes := List.replicate 32 0, nonfinite := true, bias := bias }
  else if recompute then roundUntil fmt rs vs 31 bias false
  else let b := roundBlock fmt bias rs vs; if b.oflow then { b with bias := min 31 (bias + 1) } else b

/-- An element of an FP64 Pen: nearest, ties to even; beyond the range it is infinite (R157). -/
def fold64 (v : Val) : Nat × Bool × Bool :=
  let c := roundIeee 8 v
  let r := decode 8 false c
  (c, v.isFin && !r.isFin, !r.isFin)

/-! ## Residues (R192) -/

/-- A register value at a quantum 2^q: an integer. -/
def Val.fixed (q : Int) : Val → Int
  | .fin neg m x => (if neg then -1 else 1) * (m * 2 ^ (x - q).toNat : Nat)
  | _ => 0

/-- The exponent of a value's last bit. -/
def Val.quantum : Val → Int
  | .fin _ _ x => x
  | _ => 0

/-- The residue of a register value, in 0 to 254. -/
def residue255 (v : Int) : Nat := (v % 255).toNat

/-- The residue of an exact sum is the sum of its terms' residues. -/
def sumChecks (terms : List Val) (sum : Val) : Bool :=
  let q := terms.foldl (fun q t => min q t.quantum) sum.quantum
  !(sum.isFin && terms.all Val.isFin) ||
  residue255 (sum.fixed q) == terms.foldl (fun n t => n + residue255 (t.fixed q)) 0 % 255

/-- The residues of a rounded output and of the remainder discarded come to that of the exact sum. -/
def roundChecks (sum out : Val) : Bool :=
  let rest := sum.add out.neg
  let q := min sum.quantum (min out.quantum rest.quantum)
  !(sum.isFin && out.isFin) || (residue255 (out.fixed q) + residue255 (rest.fixed q)) % 255 == residue255 (sum.fixed q)

/-- Both identities hold for every element of a chunk: its inputs, its exact sums and its outputs, by blocks. Marks (DESIGN CHOICE 151). -/
def chunkChecks (ins : List (List (List Val))) (sums outs : List (List Val)) : Bool :=
  sums.zipIdx.all (fun b => b.1.zipIdx.all (fun e =>
    sumChecks (ins.map (fun v => (v.getD b.2 []).getD e.2 .zero)) e.1 &&
    roundChecks e.1 ((outs.getD b.2 []).getD e.2 .zero)))

/-- Flags of a trailer (Table 6-6). -/
def fPartial (b : Bool) : BitVec 4 := if b then 1 else 0
def fOverflow (b : Bool) : BitVec 4 := if b then 2 else 0
def fLast (b : Bool) : BitVec 4 := if b then 4 else 0
def fNonfinite (b : Bool) : BitVec 4 := if b then 8 else 0

/-- The bits of an output from its inputs (R154): exact sums, one rounding, flags and counts carried upward. Marks (DEDUCED 164). -/
def computeOut (i : PenInst) (c : Nat) (bias : Nat → Nat) (o : ChunkOut) : ChunkOut :=
  let ins := o.keys.map i.copy
  let zero : List (List Val) := List.replicate 1024 (List.replicate 32 Val.zero)
  let vals := ins.map (fun x => chunkValues i.fmtIn (x.data i.fmtIn) x.scales)
  let sums := match vals with
    | [] => zero
    | v :: r => r.foldl (fun a b => List.zipWith (fun x y => List.zipWith Val.add x y) a b) v
  -- an exact zero sum is +0 (R175)
  let sums := sums.map (fun b => b.map (fun v => match v with | .fin _ 0 _ => Val.zero | v => v))
  let carried := ins.foldl (fun f x => f ||| (x.trailer.flags &&& 0xB)) 0
  let count := ins.foldl (fun n x => n + x.trailer.count) 0
  let ovf := ins.foldl (fun n x => n + x.trailer.ovfBlocks) 0
  let base := carried ||| fPartial o.excluded ||| fLast o.last
  if i.isFp64 then
    let es := sums.flatMap (fun b => b.map fold64)
    { o with
      computed := true, data := pack 64 (es.map (·.1)), scales := [], count := count, ovf := ovf
      checked := chunkChecks vals sums (by32 1024 (es.map (fun e => decode 8 false e.1)))
      flags := base ||| fOverflow (es.any (·.2.1)) ||| fNonfinite (es.any (·.2.2)) }
  else
    let fmt := i.fmtOut
    let rnd := fun (b j : Nat) =>
      mixer i.msg.seed.toNat i.msg.step.toNat i.tag i.node.node (chunkElems * c + 32 * b + j)
    let bs := sums.zipIdx.map (fun e =>
      foldBlock fmt (bias e.2) i.msg.isRecompute ((List.range 32).map (rnd e.2)) e.1)
    { o with
      computed := true, data := pack (elemBits fmt) (bs.flatMap (·.codes))
      scales := bs.map (fun b => BitVec.ofNat 8 b.scale)
      checked := chunkChecks vals sums (bs.map (fun b => b.codes.map (fun c => withScale b.scale (decode fmt true c))))
      count := count, ovf := ovf + (bs.filter (·.oflow)).length
      flags := base ||| fOverflow (bs.any (·.oflow)) ||| fNonfinite (bs.any (·.nonfinite))
      bias := (bs.zipIdx.filter (·.1.oflow)).map (fun e => (e.2, e.1.bias)) }

/-- Bias of a block in a node's scale table (R155). -/
def State.biasOf (s : State) (i : PenInst) (c b : Nat) : Nat :=
  match s.scaleTab i.tag i.node.node with | some e => Tab.look 0 e.bias (1024 * c + b) | none => 0

/-- The biases that a chunk leaves take effect for the next instance of its tag: the greatest of its outputs. Marks (DEDUCED 149). -/
def keepBias (i : PenInst) (c : Nat) (s : State) : State :=
  let bs := (List.range 4).flatMap (fun p => (i.outp c p).bias)
  let raise := fun (t : Tab Nat) (e : Nat × Nat) => Tab.edit 0 t (1024 * c + e.1) (max e.2)
  s.modFld (fun l => { l with scales := l.scales.map (fun e =>
    if e.tag == i.tag && e.node == i.node.node then { e with bias := bs.foldl raise e.bias } else e) })

/-! ## Lanes (R192, R355) -/

/-- Lanes of a slice that serve the work and are not fenced. -/
def State.lanesFor (s : State) (fp64 : Bool) (sl : Nat) : List Nat :=
  (if fp64 then [8, 9] else List.range 8).filter (fun l => !(Tab.look 0 s.fld.lanes sl).getLsbD l)

/-- The instances that hold state or chunks on a slice. -/
def State.onSlice (s : State) (sl : Nat) (i : PenInst) : Bool :=
  s.penSlot i.tag i.isFp64 == 64 + sl ||
  (i.own s.devIndex).any (fun c => !i.done c && s.chunkSlot i c == 64 + sl)

/-- A Fold lane is fenced (R355): a slice left without lanes for some work fails the instances it serves. -/
def fenceLane (sl l : Nat) (s : State) : State :=
  let hit := s.fld.insts.filter (s.onSlice sl)
  let out0 := fun f => s.sliceOut f sl
  let s := s.modFld (fun f => { f with lanes := Tab.edit 0 f.lanes sl (fun m => m ||| (1#10 <<< l)) })
  hit.foldl (fun s i => if s.sliceOut i.isFp64 sl && !out0 i.isFp64 then openAbort i abNodeFault [] s else s) s

/-- GT in one second (R6: a GT is 3.2 ns). -/
def gtPerSecond : Nat := 312500000

/-- A residue check of a lane fails: four within a second fence the lane (0x0403). -/
def laneFailed (sl l : Nat) (inj : Bool) (s : State) : State :=
  let u := unitLane sl l
  let gs := ((Tab.look [] s.fld.residues u).filter (fun g => s.bel.gt < g + gtPerSecond)) ++ [s.bel.gt]
  let s := s.modFld (fun f => { f with residues := Tab.put [] f.residues u gs })
  if gs.length < 4 then s
  else
    fenceLane sl l
      (recordFault { source := 0x0403, unit := u, cls := 2, access := 4, inj := inj, fenced := true } s)

/-- The lane whose residue check fails, if one does: that of an armed injection, or any of the lanes at work where the
residues disagree. -/
def checkResidue (sl : Nat) (fp64 ok : Bool) (s : State) : Option (Nat × Bool) × State :=
  let lanes := s.lanesFor fp64 sl
  match lanes.find? (fun l => s.armedFor 2 (unitLane sl l)) with
  | some l => (some (l, true), useInjection true s)
  | none =>
    if ok then (none, s)
    else
      let (v, s) := s.draw
      (some (lanes.getD (v.toNat % max 1 lanes.length) 0, false), s)

/-! ## Outputs -/

/-- Send one output of a chunk: its data packets and its closing packet (R143, R149, R161). -/
def sendOut (i : PenInst) (c part : Nat) (o : ChunkOut) (good : Bool) (data : Bytes) (s : State) : State :=
  let fmt := i.fmtOut
  let slot := s.chunkSlot i c
  let pkts := groupsOf (dataLen fmt) (dataPackets fmt) data
  let t : Trailer := {
    crc := BitVec.ofNat 32 (crc32c (data ++ o.scales)), verdict := if good then vGood else vBad, flags := o.flags
    attempt := o.attempt, count := o.count, ovfBlocks := o.ovf }
  let all := pkts ++ [o.scales ++ trailerBytes t]
  all.zipIdx.foldl (fun s e =>
    match i.parentNode with
    | some q =>
      inject slot { s.foldHeader (foldEid (deviceOf q c)) 0x11 1 i.tag i.node.node c e.2 part true i.stepLo with
        payload := e.1 } s
    | none => sendMcast 0x12 i.tag i.stepLo i.node.node c e.2 part slot e.1 s) s

/-- A child sends no CONTRIB before its parent's first ACK (R163). -/
def PenInst.mayReport (i : PenInst) (c : Nat) : Bool :=
  match i.parentNode with | some q => i.parentOk.contains (stripeOf q.devices c) | none => true

def PenInst.setOut (c part : Nat) (o : ChunkOut) (i : PenInst) : PenInst :=
  { i with outs := (Tab.add (outKey c part) o i.outs) }

/-- Binary32 compare that takes both zeros as equal. -/
def plusZero (v : Val) : Val := match v with | .fin _ 0 _ => Val.zero | v => v

/-- Exact sums of squares of a chunk by segment, rounded to binary64, added to the running sums (R171). -/
def addSquares (starts : List Nat) (base : Nat) (vals : List Val) (sums : List Val) : List Val :=
  (starts.zip sums).zipIdx.map (fun e =>
    let lo := e.1.1
    let hi := starts.getD (e.2 + 1) (2 ^ 40)
    let mine := (vals.zipIdx.filter (fun v => lo ≤ base + v.2 && base + v.2 < hi)).map (·.1)
    if mine.isEmpty then e.1.2 else rn64 (e.1.2.add (rn64 (mine.foldl (fun a v => a.add (v.mul v)) .zero))))

/-- A result chunk as sent: its values, flags and count of saturated blocks; at the home of a striped root also those of
the other stripe devices. -/
def PenInst.resultOf (i : PenInst) (dev c : Nat) : List Val × BitVec 4 × Nat :=
  if nodeOwns i.node dev c then
    let o := i.outp c 0
    ((chunkValues i.fmtOut o.data o.scales).flatten, o.flags, o.ovf)
  else
    let x := Tab.look {} i.results c
    ((chunkValues i.fmtOut (x.data i.fmtOut) x.scales).flatten, x.trailer.flags, x.trailer.ovfBlocks)

/-- A result chunk is GOOD, here or on the stripe device that owns it. -/
def PenInst.resultDone (i : PenInst) (dev c : Nat) : Bool :=
  if nodeOwns i.node dev c then i.done c else (Tab.look {} i.results c).good

/-- Every output chunk that the state SENT or FINAL waits for is GOOD: at the root's home those of all stripe devices. -/
def PenInst.allGood (i : PenInst) (dev : Nat) : Bool :=
  if i.isRoot && i.atHome dev then (List.range i.msg.chunks).all (i.resultDone dev) else (i.own dev).all i.done

/-- STATS part 0 (R153, R171); BAND is one field of 256 bits, most significant byte first (R7). Marks (DEDUCED 267). -/
def statsBytes (i : PenInst) (results : List (List Val × BitVec 4 × Nat)) (late : Nat) (anyLate : Bool) : Bytes :=
  let m := i.msg
  let chunks := results.map (·.1)
  let flat := chunks.flatten
  let hist := (List.range 40).map (fun b => (flat.filter (fun v => histBin (-32) v == b)).length)
  let starts := if m.nseg = 0 then [0] else m.segs.map (·.start)
  let sums := chunks.zipIdx.foldl (fun a e => addSquares starts (chunkElems * e.2) e.1 a) (starts.map (fun _ => Val.zero))
  let b32 := fun (w : BitVec 32) => decode 9 false w.toNat
  let ratios := if m.isRatio then (m.segs.zip sums).map (fun e =>
    roundIeee 9 (rn64 (Val.div (rn64 ((b32 e.1.scale).mul (rn64 e.2.sqrt))) (b32 e.1.wnorm)))) else []
  let outside := fun (r : Nat) =>
    let v := plusZero (decode 9 false r)
    v.isNan || v.lt (plusZero (b32 m.ratioLo)) || (plusZero (b32 m.ratioHi)).lt v
  let band := ratios.zipIdx.foldl (fun n e => if outside e.1 then n ||| 2 ^ e.2 else n) 0
  let flags := results.foldl (fun f r => f ||| r.2.1) 0
  let ovf := results.foldl (fun n r => n + r.2.2) 0
  beBytes 2 m.nseg ++
  beBytes 1 (ofBool (flags.getLsbD 0 || anyLate) + 2 * ofBool (flags.getLsbD 1) + 4 * ofBool m.isRatio +
    8 * ofBool (flags.getLsbD 3)) ++
  beBytes 1 late ++ beBytes 4 ovf ++ List.replicate 8 0 ++ hist.flatMap (beBytes 4) ++ beBytes 32 band ++
  sums.flatMap (fun v => beBytes 8 (roundIeee 8 v)) ++ ratios.flatMap (beBytes 4)

/-- The root sends STATS from its home and is FINAL. -/
def sendStats (i : PenInst) (s : State) : State :=
  let s := s.modPen i.key (fun x => { x with state := .final, statsTick := some s.tickNow })
  if !i.atHome s.devIndex then s
  else
    let parts := bitmapParts (rangeRanks i.late)
    let slot := s.penSlot i.tag i.isFp64
    let body := statsBytes i ((List.range i.msg.chunks).map (i.resultOf s.devIndex)) ((parts.map (·.1)).foldl max 0)
      (!i.late.isEmpty)
    let s := sendMcast 0x16 i.tag i.stepLo i.node.node 0 0 0 slot body s
    parts.foldl (fun s e => sendMcast 0x16 i.tag i.stepLo i.node.node 0 e.1 0 slot e.2 s) s

/-- After a change, an instance whose chunks are all done is SENT or FINAL, and one whose coverage is complete is
released (Table 6-10). -/
def settlePen (k : Nat × Nat × Nat) (s : State) : State :=
  match s.pen k with
  | none => s
  | some i =>
    let own := i.own s.devIndex
    let s := if i.state = .opened && i.allGood s.devIndex then
        (if i.isRoot then sendStats i s else s.modPen k (fun x => { x with state := .sent }))
      else s
    match s.pen k with
    | none => s
    | some i =>
      let acked := fun c => (List.range i.policy.members.length).all (fun r => (Tab.look 0 i.acks r).testBit c)
      if (i.state = .sent && own.all i.isCovered) || (i.state = .final && own.all acked) then s.dropPen k
      else
        -- retention of covered and stored chunks is released (R160)
        let free := fun c => i.done c && (i.isRoot || i.isCovered c)
        s.modPen k (fun x => { x with ins := x.ins.filter (fun e => !free (e.1 / 128)) })

/-- Outputs that waited for a parent's first ACK are sent (R163). -/
def sendWaiting (k : Nat × Nat × Nat) (s : State) : State :=
  match s.pen k with
  | none => s
  | some i =>
    i.outs.foldl (fun s e =>
      let c := e.1 / 4
      let p := e.1 % 4
      if e.2.good && !e.2.sent && i.mayReport c
      then (sendOut i c p e.2 true e.2.data s).modPen k (PenInst.setOut c p { e.2 with sent := true }) else s) s

/-- An earlier chunk of its slice waits to be computed: a slice serves its Pens in the order in which their chunks have
arrived (R19). -/
def State.sliceBusy (s : State) (i : PenInst) (c : Nat) (o : ChunkOut) : Bool :=
  let slot := s.chunkSlot i c
  s.fld.insts.any (fun x => x.state == .opened && x.outs.any (fun e =>
    !e.2.good && e.2.seq < o.seq && s.chunkSlot x (e.1 / 4) == slot))

/-- FOLD_CHUNK_DONE: the lowest output of a chunk that waits is computed, rounded, checked and sent (R161), when it is the
first of its slice. -/
def foldChunkDone (tag step node c : Nat) (ok : Bool) (s : State) : State :=
  let k := (tag, step, node)
  match s.pen k with
  | none => s
  | some i =>
    if i.state != .opened then s
    else match (List.range 4).find? (fun p => i.hasOut c p && !(i.outp c p).good) with
    | none => s
    | some p =>
      let o := i.outp c p
      if s.sliceBusy i c o then s
      else
      let o := if o.computed then o else computeOut i c (s.biasOf i c) o
      let sl := s.chunkSlot i c - 64
      let (fail, s) := checkResidue sl i.isFp64 (ok && o.checked) s
      match fail with
      | none =>
        let send := i.mayReport c
        let o := { o with good := true, sent := send }
        let s := if send then sendOut i c p o true o.data s else s
        let i := i.setOut c p o
        let s := s.modPen k (fun _ => i)
        settlePen k (if i.done c then keepBias i c s else s)
      | some (l, inj) =>
        -- the bits of a copy with a BAD verdict are open where the check failed of itself
        let (data, s) := if inj then (o.data, s) else s.drawBytes o.data.length
        let s := if i.mayReport c then sendOut i c p o false data s else s
        let s := s.modPen k (PenInst.setOut c p { o with attempt := o.attempt + 1 })
        if 2 ≤ o.attempt then laneFailed sl l inj (openAbort i abNodeFault [] s)
        else
          let s := s.modFld (fun f => { f with retry := sat32 f.retry })
          laneFailed sl l inj (recordFault { source := 0x0401, unit := unitLane sl l, cls := 1, access := 4,
                                             addr := tag * 2 ^ 32 + c, info := tag, inj := inj } s)

/-- An output of a chunk is formed from the copies that no earlier output has used: the last one when every input is in
or excluded (R145, R166). A root sends each result chunk once, so it forms no partial (R168). -/
def formOut (k : Nat × Nat × Nat) (c : Nat) (window : Bool) (s : State) : State :=
  match s.pen k with
  | none => s
  | some i =>
    if i.state != .opened || i.formed c || !nodeOwns i.node s.devIndex c then s
    else
      let n := i.node.inputs.length
      let used := (List.range 4).flatMap (fun p => (i.outp c p).keys)
      let keys := (List.range n).flatMap (fun m =>
        if i.excl.contains m then [] else (List.range 4).map (inKey c m))
      let fresh := keys.filter (fun e => (i.copy e).good && !used.contains e)
      let all := (List.range n).all (fun m => i.excl.contains m || i.hasIn c m)
      let p := i.parts c
      let form := fun (o : ChunkOut) =>
        (s.modPen k (PenInst.setOut c p { o with keys := fresh, seq := s.fld.nextSeq })).modFld
          (fun l => { l with nextSeq := l.nextSeq + 1 })
      if all then form { last := true, excluded := !i.excl.isEmpty }
      else if window && !i.isRoot && p < 3 && !fresh.isEmpty then form { last := false }
      else s

/-! ## PEN_OPEN -/

/-- Open a new instance: checks, reservation with its address range, first ACK, one PEN_OPEN to the home of the parent
(R148, R158, R163, Table 6-10). Where in the retention a range lies is a free value. -/
def openPen (q : PenPolicy) (n : PenNode) (fits : Bool) (p : Packet) (s : State) : State :=
  let m := parsePenOpen p.payload
  let tag := penTag p
  let step := penStepLo p
  let ns := treeOf q m.isArrival
  let top := rootLevel ns
  let fail := fun st => reportAbort tag step n m.isArrival st [] s
  let here := s.fld.insts.filter (fun i => i.tag == tag && i.node.node == n.node)
  if !fits || !m.valid q top then fail abMismatch
  else if m.isFp64 top && !s.fuses.fp64 then fail abUnsupported
  else if 1024 ≤ s.fld.insts.length || 2 ≤ here.length then fail abTableFull
  else
    let i : PenInst := {
      tag := tag, stepLo := step, node := n, arrival := m.isArrival, policy := q, msg := m, raw := p.payload
      tick := s.tickNow, opens := [n.inputs.idxOf (penSender p)] }
    let own := i.own s.devIndex
    let old := s.scaleTab tag n.node
    let grow := if m.isFp64 top then 0 else match old with
      | some e => (own.filter (fun c => !e.own.contains c)).length
      | none => own.length
    match s.holdingTract tag n.node (i.bytes s.devIndex + 1024 * grow) with
    | none => fail abNoRetention
    | some t =>
      let size := i.bytes s.devIndex
      let room := s.foldRoom t
      let (v, s) := s.draw
      let (w, s) := s.draw
      let i := { i with tract := t, size := size, base := v.toNat % (room - size + 1) }
      let s := s.modFld (fun l => { l with insts := l.insts ++ [i] })
      let s := if m.isFp64 top then s
        else match old with
          | some _ => s.modFld (fun l => { l with scales := l.scales.map (fun e =>
              if e.tag == tag && e.node == n.node then
                { e with own := (List.range 1024).filter (fun c => e.own.contains c || own.contains c), bias := if m.isScaleReset then [] else e.bias } else e) })
          | none => s.modFld (fun l => { l with scales := l.scales ++
              [{ tag := tag, node := n.node, tract := t, own := own, base := w.toNat % (room - 1024 * own.length + 1) }] })
      let s := match i.parentNode with
        | some up => if i.atHome s.devIndex then
            inject (s.penSlot tag i.isFp64)
              { s.foldHeader (foldEid (up.devices.headD 0)) 0x10 1 tag n.node 0 0 0 true step with payload := p.payload } s
          else s
        | none => s
      ackChild true i.key (n.inputs.idxOf (penSender p)) s

/-- The node of this device that takes a sender's packets, in a tree. -/
def State.nodeFor (s : State) (ns : List PenNode) (x : PenInput) : Option PenNode :=
  ns.find? (fun n => n.inputs.contains x && n.devices.contains s.devIndex)

/-- The home of a striped node passes a PEN_OPEN that it has taken to the other devices of its stripe set, which hold the
chunks that its inputs send them (R146). Marks (DEDUCED 146). -/
def passOpen (n : PenNode) (p : Packet) (s : State) : State :=
  match s.pen (penTag p, penStepLo p, n.node) with
  | none => s
  | some i =>
    if !i.atHome s.devIndex || i.state = .aborted then s
    else (n.devices.drop 1).foldl (fun s d =>
      inject (s.penSlot i.tag i.isFp64)
        { s.foldHeader (foldEid d) 0x10 1 i.tag (penPos p) 0 0 0 (penNode p) i.stepLo with payload := p.payload } s) s

/-- A PEN_OPEN opens an instance or joins one. Marks (DEDUCED 147, 148). -/
def penOpen (p : Packet) (s : State) : State :=
  match s.penPolicy (penTag p) with
  | none => countStale s
  | some q =>
    let m := parsePenOpen p.payload
    let x := penSender p
    let (node, fits) := match s.nodeFor (treeOf q m.isArrival) x with
      | some n => (some n, true)
      | none => (s.nodeFor (treeOf q (!m.isArrival)) x, false)
    match node with
    | none => countStale s
    | some n =>
      match s.pen (penTag p, penStepLo p, n.node) with
      | none => passOpen n p (openPen q n fits p s)
      | some i =>
        if i.state = .aborted then s
        else if i.raw != p.payload then openAbort i abMismatch [] s
        else
          let j := n.inputs.idxOf x
          passOpen n p (ackChild true i.key j (s.modPen i.key (fun x => { x with opens := insertUp j x.opens })))

/-! ## Contributions -/

/-- The instance that takes a sender's CONTRIB, and the input's number. -/
def State.penOfSender (s : State) (p : Packet) : Option (PenInst × Nat) :=
  let x := penSender p
  (s.fld.insts.find? (fun i => i.tag == penTag p && i.stepLo == penStepLo p && i.node.inputs.contains x)).map
    (fun i => (i, i.node.inputs.idxOf x))

/-- A contribution that comes after its input was judged late (R164). -/
def PenInst.tooLate (i : PenInst) (dev n : Nat) : Bool :=
  i.judged && (i.excl.contains n || !(i.own dev).all (fun c => i.delivered c n))

def countLate (i : PenInst) (n : Nat) (s : State) : State :=
  match i.node.inputs[n]? with
  | some (.member _) => s.modFld (fun l => { l with lateDisc := sat32 l.lateDisc })
  | _ => s

/-- An injection on a lane of the slice acts on the next Fold SRAM write (R356): one bit is corrected, two are not, and
the instance whose data it holds opens NODE_FAULT. Marks (DEDUCED 159). -/
def foldSram (i : PenInst) (c : Nat) (s : State) : State :=
  let sl := s.chunkSlot i c - 64
  match (List.range 10).find? (fun l => s.armedFor 0 (unitLane sl l)) with
  | none => s
  | some l =>
    let w := (s.flt.armed.getD {}).width
    let s := useInjection false s
    if w ≤ 1 then recordFault { source := 0x0404, unit := unitLane sl l, cls := 1, access := 2, inj := true } s
    else openAbort i abNodeFault []
      (recordFault { source := 0x0405, unit := unitLane sl l, cls := 2, access := 2, inj := true } s)

/-- What happens to a CONTRIB before its chunk is touched: `f` runs for a copy that is still wanted. -/
def withCopy (p : Packet) (f : PenInst → Nat → State → State) (s : State) : State :=
  match s.penOfSender p with
  | none => countStale s
  | some (i, n) =>
    let c := penChunk p
    if i.state = .aborted then s
    else if i.tooLate s.devIndex n then countLate i n s
    else if i.msg.chunks ≤ c || !nodeOwns i.node s.devIndex c then s
    else if i.formed c || (i.copy (inKey c n (penPart p))).good then s
    else f i n s

/-- A data packet of a chunk (R143). -/
def contrib (p : Packet) (s : State) : State :=
  withCopy p (fun i n s =>
    let c := penChunk p
    let k := inKey c n (penPart p)
    if dataPackets i.fmtIn ≤ penPkt p || p.payload.length != dataLen i.fmtIn || packetCrc p p.payload != p.crc then s
    else
      let put := fun (x : ChunkIn) => { x with
        pkts := Tab.put none x.pkts (penPkt p) (some p.payload), firstGt := x.firstGt.or (some s.bel.gt) }
      foldSram i c (s.modPen i.key (fun x => { x with ins := Tab.edit {} x.ins k put }))) s

/-! ## The Tally (R170) -/

/-- A member's lag joins the eight greatest, each EID with its greatest lag. -/
def slowest (eid lag : Nat) (l : List (Nat × Nat)) : List (Nat × Nat) :=
  let old := match l.find? (·.1 == eid) with | some e => e.2 | none => 0
  let l := l.filter (·.1 != eid)
  let v := max old lag
  (l.filter (fun e => v ≤ e.2) ++ (eid, v) :: l.filter (fun e => e.2 < v)).take 8

/-- Bin of a lag. -/
def lagBin (lag : Nat) : Nat := if lag < 256 then 0 else min 15 (lag.log2 - 7)

/-- A level-0 node tallies an instance once each of its members is done or judged. Marks (DEDUCED 156). -/
def tallyPen (k : Nat × Nat × Nat) (s : State) : State :=
  match s.pen k with
  | none => s
  | some i =>
    let ms := i.node.inputs.zipIdx.filterMap (fun e =>
      match e.1 with | .member r => some (r, e.2) | .child _ => none)
    let fin := fun n => Tab.look none i.doneGt n
    if i.tallied || i.node.level ≠ 0 || ms.isEmpty || !(i.judged || ms.all (fun e => (fin e.2).isSome)) then s
    else
      let gts := ms.filterMap (fun e => fin e.2)
      let first := gts.foldl min (gts.headD 0)
      let eid := fun r => (i.policy.members.getD r {}).eid
      let one := fun (t : Tally) (e : Nat × Nat) =>
        match fin e.2 with
        | some g => { t with slow := slowest (eid e.1) (g - first) t.slow
                             hist := Tab.edit 0 t.hist (lagBin (g - first)) sat32 }
        | none => { t with hist := Tab.edit 0 t.hist 15 sat32 }
      let all := fun (t : Tally) => ms.foldl one { t with pens := sat32 t.pens }
      (s.modFld (fun l => { l with tallies := Tab.edit {} l.tallies (i.tag / 1024) all })).modPen k
        (fun x => { x with tallied := true })

/-- A closing packet: the copy is dropped, asked for again, or complete (R149, R161-R163). A member's chunk whose closing
packet fails is dropped; a child's waits for RESEND; both are counted in FLD_CRC. Marks (DEDUCED 268). -/
def closing (p : Packet) (s : State) : State :=
  withCopy p (fun i n s =>
    let c := penChunk p
    let fmt := i.fmtIn
    let k := inKey c n (penPart p)
    if penPkt p ≠ dataPackets fmt then s
    else
      let t := parseTrailer (p.payload.drop (scaleLen fmt))
      let drop := fun (x : PenInst) => { x with ins := Tab.drop k x.ins }
      if packetCrc p p.payload != p.crc || p.payload.length != scaleLen fmt + 16 then
        let s := s.modFld (fun l => { l with crc := sat32 l.crc })
        match i.node.inputs[n]? with | some (.child _) => s | _ => s.modPen i.key drop
      else if t.verdict = vBad then s.modPen i.key drop
      else
        let x := i.copy k
        let scales := p.payload.take (scaleLen fmt)
        let whole := (List.range (dataPackets fmt)).all (fun j => (Tab.look none x.pkts j).isSome)
        if !whole || crc32c (x.data fmt ++ scales) ≠ t.crc.toNat then
          let s := (s.modPen i.key drop).modFld (fun l => { l with crc := sat32 l.crc })
          match i.node.inputs[n]? with
          | some (.child id) => sendResend i id c (penPart p) s
          | _ => s
        else
          let done : ChunkIn := { x with scales := scales, trailer := t, good := true, firstGt := none }
          let s := foldSram i c (s.modPen i.key (fun x => { x with
            ins := Tab.add k done x.ins
            sinceAck := Tab.edit 0 x.sinceAck n (· + 1)
            windows := if x.arrival && (Tab.look none x.windows c).isNone
              then Tab.put none x.windows c (some s.bel.gt) else x.windows }))
          let s := formOut i.key c false s
          match s.pen i.key with
          | none => s
          | some i =>
            let all := (i.own s.devIndex).all (fun c => i.delivered c n)
            let s := if 16 ≤ Tab.look 0 i.sinceAck n || all then ackChild false i.key n s else s
            if all then
              tallyPen i.key (s.modPen i.key (fun x => { x with doneGt := Tab.put none x.doneGt n (some s.bel.gt) }))
            else s) s

/-! ## Results of other stripe devices (R171) -/

/-- A RESULT packet of a chunk that another stripe device of the root owns: data packets are kept, and a closing packet with
a GOOD verdict completes the chunk where it is whole. Marks (DESIGN CHOICE 266). -/
def gatherResult (p : Packet) (s : State) : State :=
  match s.fld.insts.find? (fun i => i.tag == penTag p && i.stepLo == penStepLo p && i.isRoot && i.atHome s.devIndex) with
  | none => s
  | some i =>
    let c := penChunk p
    let fmt := i.fmtOut
    let x := Tab.look {} i.results c
    let put := fun (y : ChunkIn) => s.modPen i.key (fun z => { z with results := Tab.put {} z.results c y })
    if i.state != .opened || nodeOwns i.node s.devIndex c || i.msg.chunks ≤ c || x.good ||
      packetCrc p p.payload != p.crc then s
    else if penPkt p < dataPackets fmt then
      (if p.payload.length = dataLen fmt then put { x with pkts := Tab.put none x.pkts (penPkt p) (some p.payload) } else s)
    else if penPkt p ≠ dataPackets fmt || p.payload.length ≠ scaleLen fmt + 16 then s
    else
      let t := parseTrailer (p.payload.drop (scaleLen fmt))
      let scales := p.payload.take (scaleLen fmt)
      let whole := (List.range (dataPackets fmt)).all (fun j => (Tab.look none x.pkts j).isSome)
      if t.verdict ≠ vGood || !whole || crc32c (x.data fmt ++ scales) ≠ t.crc.toNat then put {}
      else settlePen i.key (put { x with scales := scales, trailer := t, good := true })

/-- ARRIVAL_WINDOW: a node that still lacks inputs emits a partial; its fourth waits for all the rest (R145). Marks (DEDUCED 155). -/
def arrivalExpire (tag step node c : Nat) (s : State) : State :=
  let k := (tag, step, node)
  match s.pen k with
  | none => s
  | some i =>
    match Tab.look none i.windows c with
    | none => s
    | some g =>
      if i.state != .opened || i.formed c then s
      else
        let s := advanceTo (g + i.policy.arrivalWindow) s
        formOut k c true (s.modPen k (fun x => { x with windows := Tab.put none x.windows c (some s.bel.gt) }))

/-- CHUNK_INCOMPLETE: a child's chunk is incomplete one tick after its first packet (R162). -/
def chunkIncomplete (tag step node c n : Nat) (s : State) : State :=
  match s.pen (tag, step, node) with
  | none => s
  | some i =>
    match i.node.inputs[n]?, (List.range 4).find? (fun p => (i.copy (inKey c n p)).firstGt.isSome) with
    | some (.child id), some p =>
      if i.state != .opened || i.formed c || 3 < p then s
      else
        let k := inKey c n p
        let s := advanceTo ((i.copy k).firstGt.getD 0 + s.tickLen) s
        sendResend i id c p
          (s.modPen i.key (fun x => { x with ins := Tab.edit {} x.ins k (fun y => { y with firstGt := none }) }))
    | _, _ => s

/-! ## ACK and RESEND (R150, R160, R162) -/

/-- The instance that an ACK or RESEND is for: a parent addresses a child node, a member the root. -/
def State.penAddressed (s : State) (p : Packet) : Option PenInst :=
  s.fld.insts.find? (fun i => i.tag == penTag p && i.stepLo == penStepLo p &&
    (if penNode p then i.node.node == penPos p && !i.isRoot else i.isRoot))

def foldAck (p : Packet) (s : State) : State :=
  match s.penAddressed p with
  | none => countStale s
  | some i =>
    if i.state = .aborted || p.payload.length != 12 || packetCrc p p.payload != p.crc then s
    else
      let bits := coverBits i.msg.chunks (beAt p.payload 0 2) (beAt p.payload 4 8)
      if i.isRoot then
        if i.policy.members.length ≤ penPos p then s
        else settlePen i.key (s.modPen i.key (fun x => { x with acks := Tab.edit 0 x.acks (penPos p) (· ||| bits) }))
      else match i.parentNode with
        | none => s
        | some q =>
          let d := q.devices.idxOf (p.src.toNat % 16384)
          if q.devices.length ≤ d then s
          else
            let s := s.modPen i.key (fun x => { x with
              covered := Tab.edit 0 x.covered d (· ||| bits), parentOk := insertUp d x.parentOk })
            settlePen i.key (sendWaiting i.key s)

def foldResend (p : Packet) (s : State) : State :=
  match s.penAddressed p with
  | none => countStale s
  | some i =>
    let c := penChunk p
    let o := i.outp c (penPart p)
    if i.state = .aborted || p.payload.length != 12 || packetCrc p p.payload != p.crc then s
    else if i.isRoot then
      if !o.good || o.resendTick = some s.tickNow || !nodeOwns i.node s.devIndex c then s
      else
        let s := (sendOut i c (penPart p) o true o.data s).modFld (fun l => { l with resend := sat32 l.resend })
        s.modPen i.key (PenInst.setOut c (penPart p) { o with resendTick := some s.tickNow })
    else if 2 ≤ Tab.look 0 i.resent c then openAbort i abNodeFault [] s
    else
      let s := s.modPen i.key (fun x => { x with resent := Tab.edit 0 x.resent c (· + 1) })
      if o.good && o.sent then
        (sendOut i c (penPart p) o true o.data s).modFld (fun l => { l with resend := sat32 l.resend })
      else s

/-! ## Records, aborts and deadlines (R151, R152, R164-R167) -/

/-- The instance of a record's Pen at its root's home. -/
def State.penAtRoot (s : State) (p : Packet) : Option PenInst :=
  s.fld.insts.find? (fun i => i.tag == penTag p && i.stepLo == penStepLo p && i.isRoot && i.atHome s.devIndex)

def lateRecord (p : Packet) (s : State) : State :=
  match s.penAtRoot p with
  | none => countStale s
  | some i =>
    if packetCrc p p.payload != p.crc then s
    else
      let rs := parseRanges (p.payload.drop 4) (min 16 (beAt p.payload 0 2))
      s.modPen i.key (fun x => { x with late := x.late ++ rs })

def abortRecord (p : Packet) (s : State) : State :=
  match s.penAtRoot p with
  | none => countStale s
  | some i =>
    if packetCrc p p.payload != p.crc then s
    else
      let st := beAt p.payload 0 1
      let dev := beAt p.payload 4 2 % 16384
      let node := beAt p.payload 6 2
      let rs := parseRanges (p.payload.drop 16) (min 16 ((p.payload.length - 16) / 4))
      if st = abLate then
        s.modPen i.key (fun x => { x with
          late := x.late ++ rs
          lateGt := x.lateGt.or (some s.bel.gt)
          lateBy := if x.lateGt.isSome then x.lateBy else (dev, node) })
      else issueAbort i.tag i.stepLo i.node.node st dev node (rangeRanks rs) s

/-- PEN_LATE_ABORT: one tick after the first LATE record (R165). -/
def penLateAbort (tag step : Nat) (s : State) : State :=
  match s.fld.insts.find? (fun i => i.tag == tag && i.stepLo == step && i.isRoot && i.lateGt.isSome) with
  | none => s
  | some i =>
    let s := advanceTo (i.lateGt.getD 0 + s.tickLen) s
    issueAbort tag step i.node.node abLate i.lateBy.1 i.lateBy.2 (rangeRanks i.late) s

/-- FOLD_ABORT: the ABORT of an instance releases it at every node of this device (R160, Table 6-10). -/
def foldAbort (p : Packet) (s : State) : State :=
  let mine := fun (i : PenInst) => i.tag == penTag p && i.stepLo == penStepLo p
  if !s.fld.insts.any mine then countStale s
  else if packetCrc p p.payload != p.crc then s
  else
    s.modFld (fun l => { l with
      insts := l.insts.filter (fun i => !mine i)
      abortSt := if penPkt p = 0 then Tab.edit 0 l.abortSt (beAt p.payload 0 1) sat32 else l.abortSt })

/-- Ticks from the first PEN_OPEN to a node's deadline (R164). -/
def PenInst.deadline (i : PenInst) : Nat :=
  if i.node.level = 0 then i.msg.deadline else 2 * i.msg.deadline + i.node.level

/-- PEN_DEADLINE: each input that has not delivered every chunk is judged (R164-R166). Marks (DEDUCED 162). -/
def penDeadline (tag step node : Nat) (s : State) : State :=
  let k := (tag, step, node)
  match s.pen k with
  | none => s
  | some i =>
    if i.state != .opened || i.judged then s
    else
      let s := advanceTo ((i.tick + i.deadline) * s.tickLen) s
      let s := s.modPen k (fun x => { x with judged := true })
      let own := i.own s.devIndex
      let bad := (List.range i.node.inputs.length).filter (fun n => !own.all (fun c => i.delivered c n))
      let isChild := fun n => match i.node.inputs[n]? with | some (.child _) => true | _ => false
      let lost := bad.filter (fun n => isChild n && i.opens.contains n)
      let s := tallyPen k s
      if !lost.isEmpty then openAbort i abNodeLost (lost.flatMap i.ranks) s
      else if bad.isEmpty then s
      else
        let ranks := bad.flatMap i.ranks
        if i.msg.isExclude then
          let s := s.modPen k (fun x => { x with
            excl := bad
            ins := x.ins.filter (fun e => e.2.good || !bad.contains (e.1 % 128 / 4)) })
          let s := if i.isRoot && i.atHome s.devIndex
            then s.modPen k (fun x => { x with late := x.late ++ rankRanges ranks })
            else match s.rootDevice tag (some i.arrival) with
              | none => s
              | some d => (by16 4096 (rankRanges ranks)).foldl (fun s r =>
                  inject (s.penSlot tag i.isFp64)
                    { s.foldHeader (foldEid d) 0x11 1 tag i.node.node 0 0x7E 0 true step with
                      payload := beBytes 2 r.length ++ [0, 0] ++ rangeBytes r } s) s
          own.foldl (fun s c => formOut k c false s) s
        else openAbort i abLate (ranks ++ rangeRanks i.late) s

/-- PEN_ACK_DEADLINE: the root releases what members have not acknowledged (R160). Marks (DEDUCED 158). -/
def penAckDeadline (tag step : Nat) (s : State) : State :=
  match s.fld.insts.find? (fun i => i.tag == tag && i.stepLo == step && i.isRoot && i.state == .final) with
  | none => s
  | some i =>
    let s := advanceTo ((i.statsTick.getD 0 + i.msg.ackDeadline) * s.tickLen) s
    let all := fun r => (i.own s.devIndex).all (fun c => (Tab.look 0 i.acks r).testBit c)
    let miss := ((List.range i.policy.members.length).filter (fun r => !all r)).length
    (recordFault { source := 0x0406, unit := s.penSlot tag i.isFp64, cls := 1, access := 0x0B, addr := tag, info := tag }
      (s.modFld (fun l => { l with ackTo := satAdd 0xFFFFFFFF l.ackTo miss }))).dropPen i.key

/-- PEN_ABORTED_EXPIRE: 64 ticks in ABORTED (Table 6-10). Marks (DEDUCED 160). -/
def penAbortedExpire (tag step node : Nat) (s : State) : State :=
  match s.pen (tag, step, node) with
  | none => s
  | some i => if i.state = .aborted then (advanceTo ((i.abortTick + 64) * s.tickLen) s).dropPen i.key else s

/-- Every instance of this device that meets a test ends with a reset's abort; its node is IDLE (R167, R363). -/
def resetPens (c : PenInst → Bool) (status : Nat) (s : State) : State :=
  (s.fld.insts.filter c).foldl (fun s i => (openAbort i status [] s).dropPen i.key) s

/-- TALLY_CLEAR: the selected Field's Tally is cleared (R172). -/
def tallyClear (s : State) : State :=
  s.modFld (fun l => { l with tallies := Tab.put {} l.tallies l.tallySel.toNat {} })

/-! ## Meanings -/

/-- A packet of a class and PTYPE, taken from those that wait for the Fold; nothing in the fatal state (R352). Marks (DEDUCED 166). -/
def foldTakes (ptype : Nat) (c : Packet → Bool) (f : Packet → State → State) (p : Packet) (s : State) : State :=
  if s.isFatal || p.ptype.toNat != ptype || !c p then s else settleCore (f p (takeInbox p s))

def execPenOpen (p : Packet) (s : State) : Answer :=
  need (Wf.packet p) (foldTakes 0x10 (fun _ => true) (fun p s => if packetCrc p p.payload != p.crc then s else penOpen p s) p s)
/-- A data packet of a contribution, or of a RESULT that the home of a striped root gathers. -/
def execContrib (p : Packet) (s : State) : Answer :=
  need (Wf.packet p)
    (if p.ptype = 0x12 then foldTakes 0x12 (fun p => penPkt p < 64) gatherResult p s
     else foldTakes 0x11 (fun p => penPkt p < 64) contrib p s)
/-- A closing packet of a contribution, or of a RESULT that the home of a striped root gathers. -/
def execClosingPacket (p : Packet) (s : State) : Answer :=
  need (Wf.packet p)
    (if p.ptype = 0x12 then foldTakes 0x12 (fun p => penPkt p ≤ 64) gatherResult p s
     else foldTakes 0x11 (fun p => penPkt p < 0x7E) closing p s)
def execFoldChunkDone (tag step node chunk : Nat) (residueOk : Bool) (s : State) : Answer :=
  .next (if s.isFatal then s else settleCore (foldChunkDone tag step node chunk residueOk s))
def execFoldAck (p : Packet) (s : State) : Answer := need (Wf.packet p) (foldTakes 0x13 (fun _ => true) foldAck p s)
def execFoldResend (p : Packet) (s : State) : Answer := need (Wf.packet p) (foldTakes 0x14 (fun _ => true) foldResend p s)
def execLateRecord (p : Packet) (s : State) : Answer :=
  need (Wf.packet p) (foldTakes 0x11 (fun p => penPkt p == 0x7E) lateRecord p s)
def execAbortRecord (p : Packet) (s : State) : Answer :=
  need (Wf.packet p) (foldTakes 0x11 (fun p => penPkt p == 0x7F) abortRecord p s)
def execFoldAbort (p : Packet) (s : State) : Answer := need (Wf.packet p) (foldTakes 0x15 (fun _ => true) foldAbort p s)
def execArrivalWindow (tag step node chunk : Nat) (s : State) : Answer :=
  .next (if s.isFatal then s else settleCore (arrivalExpire tag step node chunk s))
def execPenDeadline (tag step node : Nat) (s : State) : Answer :=
  .next (if s.isFatal then s else settleCore (penDeadline tag step node s))
def execPenLateAbort (tag step : Nat) (s : State) : Answer :=
  .next (if s.isFatal then s else settleCore (penLateAbort tag step s))
def execChunkIncomplete (tag step node chunk input : Nat) (s : State) : Answer :=
  .next (if s.isFatal then s else settleCore (chunkIncomplete tag step node chunk input s))
def execPenAckDeadline (tag step : Nat) (s : State) : Answer :=
  .next (if s.isFatal then s else penAckDeadline tag step s)
def execPenAbortedExpire (tag step node : Nat) (s : State) : Answer :=
  .next (if s.isFatal then s else penAbortedExpire tag step node s)
def execTallyClear (s : State) : Answer := .next (onBlock 4 true tallyClear s)

end Sys2Proof.Machine
end

