-- ==== Sys2Proof/Machine/Fences.lean ====
section
/-! DEFINITION. Machine/Fences.lean: fenced Crofts and Tracts, capsules, mirror packets as they are sent, and what an
uncorrectable word of the Cellar brings about (R217, R222, R224, R353, R360). -/

namespace Sys2Proof.Machine

/-! ## Crofts and capsules -/

/-- Physical Crofts of a Tract (R272). -/
def tractCrofts (t : Nat) : List Nat := (List.range 136).map (fun q => 136 * t + q)

/-- A fenced Croft stops at once and its queued words are discarded (R353). -/
def fenceCroft (k : Nat) (s : State) : State :=
  s.modCroft k (fun c => { c with fenced := true, fencedTick := some s.tickNow, mx := [], vx := [], mv := [], fp := [], fl := [], prog := none })

/-- One capsule is written at a time and one more waits; a further request is skipped and counted (R360). A failed
Attic writes none (Table 14-5). Marks (DEDUCED 80). -/
def requestCapsule (r : CapsuleReq) (s : State) : State :=
  s.modAttic (fun a =>
    if a.failed then a
    else if a.writing.isNone then { a with writing := some r }
    else if a.waiting.isNone then { a with waiting := some r }
    else { a with capSkip := sat32 a.capSkip })

/-- The Crofts of a capsule: those named first, then others in rising logical number, at most 64 (R360). -/
def capsuleSet (first more : List Nat) : List Nat :=
  (first ++ sortUp (more.filter (fun c => !first.contains c))).take 64

/-! ## Mirror packets (R224) -/

def moOpen : Nat := 1
def moData : Nat := 2
def moGraft : Nat := 3
def moRelease : Nat := 4
def moClose : Nat := 5
def moAck : Nat := 6
def moFetch : Nat := 7
def moFetchData : Nat := 8
def moBreak : Nat := 9

/-- The mirror header (Table 8-9). -/
def mirrorHeader (op layer off aux : Nat) : Bytes :=
  beBytes 1 op ++ beBytes 1 layer ++ [0, 0] ++ beBytes 4 off ++ beBytes 4 aux ++ [0, 0, 0, 0]

def mirOp (p : Packet) : Nat := beAt p.payload 0 1
def mirLayer (p : Packet) : Nat := beAt p.payload 1 1
def mirOff (p : Packet) : Nat := beAt p.payload 4 4
def mirAux (p : Packet) : Nat := beAt p.payload 8 4
def mirBody (p : Packet) : Bytes := p.payload.drop 16

/-- A mirror packet of this device's Cellar service. -/
def State.mirrorPacket (s : State) (dev sid mseq op layer off aux : Nat) (data : Bytes) : Packet :=
  let f := s.home
  { dst := BitVec.ofNat 20 (cellarEid dev), cls := 5, field := BitVec.ofNat 6 ((f.map (·.id)).getD 0)
    src := BitVec.ofNat 20 (cellarEid s.devIndex), pkey := (f.map s.keyOf).getD 0, ptype := 0x40
    tsw0 := BitVec.ofNat 32 sid, tsw1 := BitVec.ofNat 32 mseq, payload := mirrorHeader op layer off aux ++ data }

/-- Send a mirror packet from the session's home Tract's Cellar port. -/
def sendMirror (dev sid mseq op layer off aux : Nat) (data : Bytes) (s : State) : State :=
  inject (cellarSlotOfSid sid) (s.mirrorPacket dev sid mseq op layer off aux data) s

/-- A partner frees its copy of a session: own pages, then its runs, then its entry. -/
def freeSession (t sid : Nat) (s : State) : State :=
  match s.sess t sid with
  | none => s
  | some e =>
    let s := e.ownPages.foldl (fun s g => (stkFree t g sid s).2) s
    let runs := e.grafts.map (·.run) ++ e.ownRun.toList
    let s := runs.foldl (fun s r => (stkRelease t r sid s).2) s
    s.modTract t (fun r => { r with sessions := Tab.drop sid r.sessions })

/-- A partner breaks a mirror: BREAK goes to the primary and the copy is freed (R226). -/
def partnerBreak (t sid reason : Nat) (s : State) : State :=
  match (s.sess t sid).bind (·.copyOf) with
  | none => s
  | some p => freeSession t sid (sendMirror p sid 0 moBreak 0 0 reason [] s)

/-! ## A Tract is fenced (R222) -/

/-- Sessions, runs and copies are lost, Pens with retention here abort, Crofts are fenced, a repair is abandoned. Marks (DEDUCED 179, 180). -/
def fenceTract (t : Nat) (s : State) : State :=
  if (s.tract t).fenced then s
  else
    let copies := (s.tract t).sessions.filterMap (fun e => (e.2.bind (·.copyOf)).map (fun p => (e.1, p)))
    let s := copies.foldl (fun s e => sendMirror e.2 e.1 0 moBreak 0 0 4 [] s) s
    let s := foldTractLost t s
    let s := s.modTract t (fun r => { r with
      fenced := true, quiesce := false, repairing := false, repairQ := [], sessions := [], runs := [], reclaimQ := []
      mirOut := [], mirHeld := [], mirIn := [], early := [] })
    (tractCrofts t).foldl (fun s k => fenceCroft k s) s

/-! ## Uncorrectable words (R217, R219) -/

/-- The session that a page's words belong to: its holder, or the prefix session of its run. -/
def State.pageSession (s : State) (t g : Nat) : Option Nat :=
  let d := s.page t g
  match d.state with
  | .held => some d.owner
  | .shared => (s.run t d.run).map (·.pfx)
  | _ => none

/-- Index of a page in its layer's chain. -/
def State.pageIndex (s : State) (t g : Nat) : Nat :=
  let d := s.page t g
  let chain := match d.state with
    | .shared => match s.run t d.run with | some r => Tab.look [] r.pages d.layer | none => []
    | _ => match s.sess t d.owner with | some e => Tab.look [] e.chains d.layer | none => []
  chain.idxOf g

/-- A damaged page of a mirrored session is fetched from the partner; one in the mirror pool breaks its mirror. -/
def mirrorDamaged (t g : Nat) (s : State) : State :=
  match s.pageSession t g with
  | none => s
  | some sid =>
    if (s.page t g).mirrorPool then partnerBreak t sid 3 s
    else match s.sess t sid with
      | some e => match e.mirror with
        | some p => if e.broken then s
          else sendMirror p sid 0 moFetch (s.page t g).layer (65536 * s.pageIndex t g) 0 [] s
        | none => s
      | none => s

/-- Byte of the Fold retention of a Tract that an offset of its stack is: the base part, then FOLD_EXTRA. -/
def State.retentionByte (s : State) (t off : Nat) : Nat :=
  if off < 2 ^ 30 then off else 2 ^ 30 + (off - (tractPages - extraFold (s.part t)) * 65536)

/-- A word of Fold retention: the reservation that holds it, if any, is hit (R217, Table 8-7). Marks (DESIGN CHOICE 157). -/
def retentionUe (t off : Nat) (s : State) : State :=
  let r := s.retentionByte t off
  match s.fld.insts.find? (fun i => i.tract == t && i.base ≤ r && r < i.base + i.size) with
  | some i => openAbort i abNodeFault [] s
  | none =>
    match s.fld.scales.find? (fun e => e.tract == t && e.base ≤ r && r < e.base + 1024 * e.own.length) with
    | some e =>
      let s := s.modFld (fun l => { l with scales := l.scales.map (fun x => if x = e then { x with bias := [] } else x) })
      abortWhere (fun i => i.tag == e.tag && i.node.node == e.node) abNodeFault s
    | none => s

/-- An uncorrectable word is recorded and handled by its region (Table 8-7); `scrub` where the scrubber found it. Marks (DEDUCED 181). -/
def ueAt (t off : Nat) (scrub inj : Bool) (s : State) : State :=
  if (s.tract t).fenced then s
  else
    let g := off / 65536
    let pc := channelOf off
    let access := if scrub then 5 else 1
    let a := cellarAddr t off
    let s := (s.modCel (fun c => { c with ue := insertUp (a / 32) c.ue })).modTract t
      (fun r => { r with ue := sat32 r.ue })
    let e : FaultEvent := { source := 0x0504, unit := unitChannel t pc, cls := 2, access := access, addr := a, inj := inj }
    let region := s.regionOf t g
    let s := if region = .tables && !scrub then s else recordFault e s
    match region with
    | .tables =>
      let s := recordFault { source := 0x0506, unit := unitTract t, cls := 2, access := access, addr := a, inj := inj
                             fenced := true } s
      fenceTract t (s.modTract t (fun r => { r with tableUe := true }))
    | .pool =>
      let st := (s.page t g).state
      if st = .retired || st = .free then repairFor t pc g access (s.modPage t g (fun d => { d with lastPc := pc }))
      else
        let s := s.modPage t g (fun d => { d with damaged := true, lastPc := pc })
        mirrorDamaged t g (repairFor t pc g access s)
    | _ =>
      let s := if region = .retention then retentionUe t off s else s
      if firstUsable ≤ g then repairFor t pc g access (s.modPage t g (fun d => { d with lastPc := pc })) else s

/-- Whether a byte range of the stack meets a damaged page of the pool. -/
def State.damagedIn (s : State) (t off n : Nat) : Bool :=
  0 < n && ((List.range ((off + n - 1) / 65536 + 1 - off / 65536)).map (off / 65536 + ·)).any
    (fun g => s.inPool t g && (s.page t g).damaged)

/-- Read a Tract's stack; a word that cannot be corrected fails the transfer and is handled, and every later read of its
page fails (R217). -/
def readStack (t off n : Nat) (s : State) : Option Bytes × State :=
  if s.damagedIn t off n then (none, s)
  else match cellRead t off n s with
  | (.data b, s) => (some b, s)
  | (.failed o, s) => (none, ueAt t o false true s)

/-! ## Meanings -/

def ueCmd (t a : Nat) (s : State) : State := if s.isFatal then s else settleCore (ueAt t (a % 2 ^ 36) false false s)

/-- CELLAR_SCRUB: a corrected word is written back, an uncorrectable one is handled by its region (R215, R217). -/
def scrub (t a : Nat) (found : WordCheck) (s : State) : State :=
  let off := a % 2 ^ 36
  let w := cellarAddr t off / 32
  if s.isFatal || (s.tract t).fenced then s
  else if s.cel.bad.contains w || found = .uncorrectable then
    settleCore (ueAt t (off / 32 * 32) true (s.cel.bad.contains w) s)
  else if s.cel.soft.contains w || found = .corrected then
    freshWord w (correctedError t (off / 32 * 32) 5 (s.cel.soft.contains w) s)
  else s

/-- HBM_CHANNEL_LOST: the loss of a stack or a channel fences the Tract (R222). -/
def channelLost (t : Nat) (pc : Option Nat) (s : State) : State :=
  if s.isFatal || (s.tract t).fenced then s
  else
    let u := match pc with | some c => unitChannel t c | none => unitTract t
    settleCore (fenceTract t (recordFault { source := 0x0505, unit := u, cls := 2, fenced := true } s))

/-- REPAIR_QUIESCE_START: rows wait and no Pen instance holds retention in the Tract (Table 8-8). -/
def quiesceStart (t : Nat) (s : State) : State :=
  let r := s.tract t
  if s.isFatal || r.fenced || r.quiesce || r.repairQ.isEmpty || s.fld.insts.any (·.tract == t) then s
  else
    let s := advanceTo (s.markAt s.bel.gt) s
    s.modTract t (fun r => { r with quiesce := true, repairing := true, quietFrom := s.tickNow })

def execUe (tract addr : Nat) (s : State) : Answer := need (Wf.tract tract && Wf.cellar addr) (ueCmd tract addr s)
def execCellarScrub (tract addr : Nat) (found : WordCheck) (s : State) : Answer :=
  need (Wf.tract tract && Wf.cellar addr) (scrub tract addr found s)
def execHbmChannelLost (tract : Nat) (pc : Option Nat) (s : State) : Answer :=
  need (Wf.tract tract && (match pc with | none => true | some c => c < 64)) (channelLost tract pc s)
def execRepairQuiesceStart (tract : Nat) (s : State) : Answer := need (Wf.tract tract) (quiesceStart tract s)

end Sys2Proof.Machine
end

