-- ==== Sys2Proof/Machine/Mirror.lean ====
section
/-! DEFINITION. Machine/Mirror.lean: streams of tokens in pages, grafts, mirror copies on both sides, promotion, and
the end of a quiesce (R206-R208, R220-R227, R235, R240, R242). -/

namespace Sys2Proof.Machine

/-! ## Streams of tokens (R234, R235) -/

/-- Bytes of a key or value element. -/
def elemBytes (fmt : Nat) : Nat := if fmt ≤ 1 then 2 else 1
/-- Bytes of one token of one layer. -/
def recordBytes (g : Geometry) : Nat := g.kvHeads * g.dim * 2 * elemBytes g.kvFmt
/-- Tokens that one page holds. -/
def tokensPerPage (g : Geometry) : Nat := 65536 / recordBytes g
/-- Pages for a number of tokens. -/
def pagesFor (g : Geometry) (n : Nat) : Nat := (n + tokensPerPage g - 1) / tokensPerPage g

/-- Where bytes [off, off + n) of a layer's stream lie: keys from offset 0 of a page, values from 32,768 (R235). -/
def streamPieces (chain : List Nat) (g : Geometry) : Nat → Nat → Nat → List (Nat × Nat)
  | 0, _, _ => []
  | k + 1, off, n =>
    if n = 0 then []
    else
      let rec' := recordBytes g
      let half := rec' / 2
      let tok := off / rec'
      let b := off % rec'
      let base := chain.getD (tok / tokensPerPage g) 0 * 65536 + tok % tokensPerPage g * half
      let (a, left) := if b < half then (base + b, half - b) else (base + 32768 + (b - half), rec' - b)
      let m := min left n
      (a, m) :: streamPieces chain g k (off + m) (n - m)

/-- Pieces of a range of a stream. -/
def streamRange (chain : List Nat) (g : Geometry) (off n : Nat) : List (Nat × Nat) :=
  streamPieces chain g (2 * (n / recordBytes g) + 4) off n

/-- Write bytes into a stream. -/
def writeStream (t : Nat) (chain : List Nat) (g : Geometry) (off : Nat) (data : Bytes) (s : State) : State :=
  ((streamRange chain g off data.length).foldl
    (fun (e : Bytes × State) p => (e.1.drop p.2, cellWrite t p.1 (e.1.take p.2) e.2)) (data, s)).2

/-- Read bytes of a stream; none where a word fails. -/
def readStream (t : Nat) (chain : List Nat) (g : Geometry) (off n : Nat) (s : State) : Option Bytes × State :=
  (streamRange chain g off n).foldl (fun (e : Option Bytes × State) p =>
    match e.1 with
    | none => e
    | some b => match readStack t p.1 p.2 e.2 with | (some d, s) => (some (b ++ d), s) | (none, s) => (none, s))
    (some [], s)

/-- FILL of the pages of a chain that holds `n` tokens. -/
def setFill (t : Nat) (chain : List Nat) (g : Geometry) (n : Nat) (s : State) : State :=
  let k := tokensPerPage g
  chain.zipIdx.foldl (fun s e => s.modPage t e.1 (fun d => { d with fill := min k (n - e.2 * k) * recordBytes g / 64 })) s

/-- Pages of a session's own tokens of a layer: its chain, or those of its run once it is frozen. -/
def State.chainOf (s : State) (t sid layer : Nat) : List Nat :=
  match s.sess t sid with
  | none => []
  | some e => match e.ownRun.bind (s.run t) with
    | some r => Tab.look [] r.pages layer
    | none => Tab.look [] e.chains layer

/-- Add bytes at the end of a layer's stream: pages are allocated as needed, then the bytes are written, FILL and the
count rise (R205, R235). -/
def growStream (t sid layer : Nat) (mirror : Bool) (off : Nat) (data : Bytes) (s : State) : Nat × State :=
  match s.sess t sid with
  | none => (stNotOwner, s)
  | some e =>
    let g := e.geo
    let last := off + data.length
    let have' := (Tab.look [] e.chains layer).length
    let want := pagesFor g ((last + recordBytes g - 1) / recordBytes g)
    let (code, s) := if want ≤ have' then (stOk, s) else stkAlloc t sid mirror (List.replicate (want - have') layer) s
    if code ≠ stOk then (code, s)
    else
      let chain := s.chainOf t sid layer
      let s := writeStream t chain g off data s
      let n := last / recordBytes g
      (stOk, (setFill t chain g n s).modSess t sid (fun e => { e with
        counts := Tab.put 0 e.counts layer n
        state := .active
        ownOff := e.ownOff.or (some e.offNext) }))

/-! ## Grafts (R207, R208, R240) -/

/-- The run that a GRAFT of a prefix joins: the prefix session's own, or one that is open under its ID. -/
def State.runOf (s : State) (t pfx : Nat) : Option Nat :=
  match (s.sess t pfx).bind (·.ownRun) with
  | some n => some n
  | none => ((s.tract t).runs.find? (fun e => (e.2.map (·.pfx)) == some pfx)).map (·.1)

/-- Whether a session can become a run: it holds own tokens, the same number in every layer, and no runs. -/
def Sess.shareable (e : Sess) : Bool :=
  e.grafts.isEmpty && e.state == .active && e.ownRun.isNone && 0 < Tab.look 0 e.counts 0 &&
  (List.range (e.geo.nlayer + 1)).all (fun l => Tab.look 0 e.counts l == Tab.look 0 e.counts 0)

/-- SHARE or ADD_OWNER, and the run's place in the grafting session's context; answers code and tokens per layer. Marks (DEDUCED 201). -/
def graftRun (t sid pfx : Nat) (s : State) : Nat × Nat × State :=
  let first := match s.sess t pfx with | some e => e.shareable && e.copyOf == ((s.sess t sid).bind (·.copyOf)) | none => false
  let (code, s) := if first then stkShare t pfx sid s
    else match s.runOf t pfx with
      | some n => stkAddOwner t n sid s
      | none => (stNotShareable, s)
  if code ≠ stOk then (code, 0, s)
  else match s.runOf t pfx with
  | none => (stNotShareable, 0, s)
  | some n =>
    let tokens := ((s.run t n).getD {}).tokens
    let s := s.modSess t pfx (fun e => if first then { e with state := .frozen } else e)
    (stOk, tokens, s.modSess t sid (fun e => { e with
      grafts := e.grafts ++ [{ run := n, pfx := pfx, off := e.offNext, tokens := tokens }]
      offNext := e.offNext + tokens }))

/-- RELEASE of a run that a session holds. -/
def releaseRun (t sid pfx : Nat) (s : State) : Option Nat × State :=
  match (s.sess t sid).bind (fun e => e.grafts.find? (·.pfx == pfx)) with
  | none => (none, s)
  | some g =>
    let (code, s) := stkRelease t g.run sid s
    if code = stOk
    then (some code, s.modSess t sid (fun e => { e with grafts := e.grafts.filter (·.run != g.run) }))
    else (some code, s)

/-- A session closes: it waits for reclaim with its ID and its entry (R241, R242). -/
def closeSession (t sid : Nat) (s : State) : State :=
  (s.modSess t sid (fun e => { e with state := .closing })).modTract t (fun r => { r with reclaimQ := r.reclaimQ ++ [sid] })

/-! ## The primary's side (R224-R226, R251) -/

/-- The window of mirror payload that is not acknowledged, per partner and Tract. -/
def mirrorWindow : Nat := 4 * 1024 * 1024

/-- MIRROR_WAIT, where 0 acts as 1 (Table 8-11). -/
def Cel.wait (c : Cel) : Nat := max 1 c.mirrorWait.toNat

/-- Whether a sequence number comes no later than another, modulo 2^32. -/
def seqLe (a b : Nat) : Bool := (b + 2 ^ 32 - a) % 2 ^ 32 < 2 ^ 31

/-- Send a copy now, and count its payload against the window. -/
def putCopy (t dev : Nat) (p : Packet) (s : State) : State :=
  let c : MirrorCopy := { sid := p.tsw0.toNat, mseq := p.tsw1.toNat, partner := dev, bytes := p.payload.length }
  inject (cellarSlotOfSid p.tsw0.toNat) p (s.modTract t (fun r => { r with mirOut := r.mirOut ++ [c] }))

/-- Whether a payload fits the window of a partner. -/
def State.fitsWindow (s : State) (t dev n : Nat) : Bool :=
  ((s.tract t).mirOut.filter (·.partner == dev)).foldl (fun a c => a + c.bytes) 0 + n ≤ mirrorWindow

/-- One mirror copy of a session; it waits where the window is full or others wait for its partner. -/
def sendCopy (t sid op layer off aux : Nat) (data : Bytes) (s : State) : State :=
  match s.sess t sid with
  | none => s
  | some e =>
    match e.mirror with
    | none => s
    | some dev =>
      if e.broken then s
      else
        let mseq := if op = moOpen then 0 else (e.mseq + 1) % 2 ^ 32
        let s := s.modSess t sid (fun e => { e with mseq := mseq })
        let p := s.mirrorPacket dev sid mseq op layer off aux data
        if (s.tract t).mirHeld.any (·.1 == dev) || !s.fitsWindow t dev p.payload.length
        then s.modTract t (fun r => { r with mirHeld := r.mirHeld ++ [(dev, p)] })
        else putCopy t dev p s

/-- Bytes in pieces of at most 4,080, with their offsets. -/
def mirrorPieces (size : Nat) : Nat → Nat → Bytes → List (Nat × Bytes)
  | 0, _, _ => []
  | k + 1, off, bs => if bs.isEmpty then [] else (off, bs.take size) :: mirrorPieces size k (off + size) (bs.drop size)

/-- The DATA copies of appended records. -/
def sendData (t sid layer off : Nat) (data : Bytes) (s : State) : State :=
  (mirrorPieces 4080 (data.length / 4080 + 1) off data).foldl
    (fun s e => sendCopy t sid moData layer e.1 0 e.2 s) s

/-- Copies that waited leave while the window takes them. -/
def drainHeld (t dev : Nat) : Nat → State → State
  | 0, s => s
  | n + 1, s =>
    match (s.tract t).mirHeld.find? (·.1 == dev) with
    | none => s
    | some e =>
      if s.fitsWindow t dev e.2.payload.length
      then drainHeld t dev n (putCopy t dev e.2 (s.modTract t (fun r => { r with mirHeld := r.mirHeld.erase e })))
      else s

/-- Held responses that meet a test leave, changed by `f` (R251). -/
def releaseHeldResponses (t : Nat) (c : HeldResp → Bool) (f : Packet → Packet) (s : State) : State :=
  let go := (s.attn t).held.filter c
  let s := s.modAtsTract t (fun a => { a with held := a.held.filter (fun h => !c h) })
  go.foldl (fun s h => h.pkts.foldl (fun s p => inject h.slot (f p) s) s) s

/-- A response released as its mirror is lost: STATUS MIRROR_LOST and UNMIRRORED in packet 0 (Table 9-3). -/
def markLost (p : Packet) : Packet :=
  if (p.tsw1.toNat / 256) % 256 = 0 then
    match p.payload with
    | v :: _ :: d :: f :: rest => { p with payload := v :: 0x0B :: d :: (f ||| 1) :: rest }
    | _ => p
  else p

/-- A mirror breaks at the primary (R226): the session is unmirrored for the rest of its life. -/
def breakMirror (t sid : Nat) (s : State) : State :=
  match s.sess t sid with
  | none => s
  | some e =>
    if e.mirror.isNone || e.broken then s
    else
      let s := s.modSess t sid (fun e => { e with broken := true })
      let s := s.modCel (fun c => { c with mirBroken := sat32 c.mirBroken })
      let s := recordFault { source := 0x0507, unit := unitTract t, cls := 1, addr := sid } s
      let s := s.modTract t (fun r => { r with
        mirOut := r.mirOut.filter (·.sid != sid), mirHeld := r.mirHeld.filter (fun e => e.2.tsw0.toNat != sid) })
      let s := drainHeld t (e.mirror.getD 0) (s.tract t).mirHeld.length s
      releaseHeldResponses t (·.sid == sid) markLost s

/-- A reply that concerns a session comes from its partner; responses held for a session that reclaim has removed still
await theirs (R251). -/
def State.fromPartner (s : State) (p : Packet) : Bool :=
  let sid := p.tsw0.toNat
  let dev := p.src.toNat % 16384
  match s.sess (homeTract sid) sid with
  | some e => e.mirror == some dev && !e.broken
  | none => (s.attn (homeTract sid)).held.any (fun h => h.sid == sid && h.partner == dev)

def mirrorAck (p : Packet) (s : State) : State :=
  let sid := p.tsw0.toNat
  let t := homeTract sid
  let dev := p.src.toNat % 16384
  let n := mirAux p
  let s := s.modSess t sid (fun e => { e with acked := some n })
  let s := s.modTract t (fun r => { r with mirOut := r.mirOut.filter (fun c => !(c.sid == sid && seqLe c.mseq n)) })
  let s := drainHeld t dev (s.tract t).mirHeld.length s
  releaseHeldResponses t (fun h => h.sid == sid && seqLe h.mseq n) id s

def mirrorBreakIn (p : Packet) (s : State) : State := breakMirror (homeTract p.tsw0.toNat) p.tsw0.toNat s

/-- FETCH_DATA is written into the page; its last piece ends the damage (R226). -/
def mirrorFetchData (p : Packet) (s : State) : State :=
  let sid := p.tsw0.toNat
  let t := homeTract sid
  match s.sess t sid with
  | none => s
  | some e =>
    let g := e.geo
    let chain := s.chainOf t sid (mirLayer p)
    let span := tokensPerPage g * recordBytes g
    let i := mirOff p / span
    match chain[i]? with
    | none => s
    | some page =>
      if !(s.page t page).damaged then s
      else
        let s := writeStream t chain g (mirOff p) (mirBody p) s
        if i * span + (s.page t page).fill * 64 ≤ mirOff p + (mirBody p).length
        then s.modPage t page (fun d => { d with damaged := false }) else s

/-- MIRROR_WAIT_EXPIRE: a response has waited MIRROR_WAIT ticks for its ACK; it leaves whether or not its session is still
there (R225, R226). Marks (DEDUCED 185). -/
def mirrorWaitExpire (t sid : Nat) (s : State) : State :=
  match (s.attn t).held.find? (·.sid == sid) with
  | none => s
  | some h =>
    releaseHeldResponses t (·.sid == sid) markLost
      (breakMirror t sid (advanceTo ((h.tick + s.cel.wait) * s.tickLen) s))

/-! ## The partner's side -/

/-- A mirror packet is discarded and counted (R224). Marks (DEDUCED 183). -/
def rejectMirror (s : State) : State := s.modCel (fun c => { c with mirRej := sat32 c.mirRej })

/-- ACK of the highest MSEQ applied without a gap (Table 8-9). Marks (DEDUCED 184). -/
def ackMirror (t sid : Nat) (s : State) : State :=
  match s.sess t sid with
  | none => s
  | some e => match e.copyOf with
    | some d => sendMirror d sid 0 moAck 0 0 (e.applied.getD 0) [] s
    | none => s

/-- Some value of a list, chosen by a free number. -/
def pick (l : List Nat) (v : Nat) : Nat := l.getD (v % max 1 l.length) 0

/-- The geometry of a copy: the OPEN copy does not carry it, so it is free among the values of Table 9-4. Marks (DEDUCED 182). -/
def freeGeometry (s : State) : Geometry × State :=
  let v := fun i => (Config.freeValue (s.draws + i)).toNat
  let fmt := v 1 % 4
  let dim := pick [64, 128, 256] (v 2)
  let heads := 1 + v 3 % min 16 (16384 / (dim * 2 * elemBytes fmt))
  ({ nlayer := v 0 % 256, kvFmt := fmt, kvHeads := heads, group := 1 + v 4 % 16, dim := dim, qmode := v 5 % 2
     scale := (Config.freeValue (s.draws + 6)).setWidth 32, posBase := v 7 % 2 ^ 32 }, s.skip 8)

/-- Open sessions of the device, primary and mirror (R229). -/
def State.sessTotal (s : State) : Nat := s.cel.tracts.foldl (fun n e => n + e.2.sessions.length) 0

/-- One copy is applied through the partner's own Storekeeper in its mirror pool (R225). Marks (DEDUCED 187). -/
def applyCopy (t sid : Nat) (p : Packet) (s : State) : State :=
  let op := mirOp p
  if op = moData then
    let (code, s) := growStream t sid (mirLayer p) true (mirOff p) (mirBody p) s
    if code = stOk then s else partnerBreak t sid 1 s
  else if op = moGraft then (graftRun t sid (mirAux p) s).2.2
  else if op = moRelease then (releaseRun t sid (mirAux p) s).2
  else closeSession t sid s

/-- Copies are applied for as long as the next one is here; the time of a further gap counts from then (R226). -/
def applyInOrder (t sid : Nat) : Nat → State → State
  | 0, s => s
  | n + 1, s =>
    match s.sess t sid with
    | none => s
    | some e =>
      let next := (e.applied.getD 0 + 1) % 2 ^ 32
      match Tab.look none e.ahead next with
      | none => if e.ahead.isEmpty then s.modSess t sid (fun e => { e with gapTick := none }) else s
      | some p =>
        let s := s.modSess t sid (fun e => { e with
          applied := some next, ahead := Tab.drop next e.ahead, gapTick := some s.tickNow })
        applyInOrder t sid n (applyCopy t sid p s)

/-- A copy after OPEN joins the buffer of its session and is applied in MSEQ order; one ahead of its OPEN is held (R225). Marks (DEDUCED 188). -/
def takeCopy (p : Packet) (s : State) : State :=
  let sid := p.tsw0.toNat
  let t := homeTract sid
  match s.sess t sid with
  | none => s.modTract t (fun r => { r with early := r.early ++ [(s.tickNow, p)] })
  | some e =>
    let q := p.tsw1.toNat
    if e.copyOf != some (p.src.toNat % 16384) then rejectMirror s
    else if seqLe q (e.applied.getD 0) then s
    else
      let s := s.modSess t sid (fun e => { e with
        ahead := Tab.put none e.ahead q (some p), gapTick := e.gapTick.or (some s.tickNow) })
      let s := applyInOrder t sid (e.ahead.length + 2) s
      match s.sess t sid with
      | some e' => if e'.applied = e.applied then s else ackMirror t sid s
      | none => s

/-- OPEN at the partner: a copy within the limits of R202, or BREAK for the session limit; the copies
held ahead of it follow (R225). -/
def applyOpen (p : Packet) (s : State) : State :=
  let sid := p.tsw0.toNat
  let t := homeTract sid
  let dev := p.src.toNat % 16384
  if (s.sess t sid).isSome then rejectMirror s
  else if 262144 ≤ (s.tract t).sessions.length || 4194304 ≤ s.sessTotal then sendMirror dev sid 0 moBreak 0 0 5 [] s
  else
    let (g, s) := freeGeometry s
    let e : Sess := { geo := g, copyOf := some dev, applied := some 0 }
    let s := ackMirror t sid (s.modTract t (fun r => { r with sessions := Tab.add sid (some e) r.sessions }))
    let mine := fun (e : Nat × Packet) => e.2.tsw0.toNat == sid && e.2.src.toNat % 16384 == dev
    let ready := (s.tract t).early.filter mine
    ready.foldl (fun s e => takeCopy e.2 s) (s.modTract t (fun r => { r with early := r.early.filter (fun e => !mine e) }))

/-- FETCH is answered with the bytes of the page, in whole words (R226). Marks (DEDUCED 186). -/
def answerFetch (p : Packet) (s : State) : State :=
  let sid := p.tsw0.toNat
  let t := homeTract sid
  match s.sess t sid with
  | none => rejectMirror s
  | some e =>
    if e.copyOf != some (p.src.toNat % 16384) then rejectMirror s
    else
      let g := e.geo
      let chain := s.chainOf t sid (mirLayer p)
      let i := mirOff p / 65536
      let base := i * (tokensPerPage g * recordBytes g)
      match chain[i]? with
      | none => s
      | some page =>
        match readStream t chain g base ((s.page t page).fill * 64) s with
        | (none, s) => s
        | (some data, s) =>
          (mirrorPieces 4064 17 base data).foldl
            (fun s e => sendMirror (p.src.toNat % 16384) sid 0 moFetchData (mirLayer p) e.1 0 e.2 s) s

/-- A packet from a primary: OPEN, a further copy, or FETCH. -/
def fromPrimary (p : Packet) (s : State) : State :=
  if mirOp p = moOpen then applyOpen p s else if mirOp p = moFetch then answerFetch p s else takeCopy p s

/-- MIRROR_GAP_TIMEOUT: a gap unfilled for MIRROR_WAIT ticks (R226). -/
def mirrorGapTimeout (t sid : Nat) (s : State) : State :=
  match s.sess t sid with
  | none =>
    match (s.tract t).early.find? (fun e => e.2.tsw0.toNat == sid) with
    | none => s
    | some e =>
      let s := advanceTo ((e.1 + s.cel.wait) * s.tickLen) s
      sendMirror (e.2.src.toNat % 16384) sid 0 moBreak 0 0 2 []
        (s.modTract t (fun r => { r with early := r.early.filter (fun e => e.2.tsw0.toNat != sid) }))
  | some e =>
    match e.gapTick with
    | none => s
    | some g =>
      if e.copyOf.isNone || e.ahead.isEmpty then s
      else partnerBreak t sid 2 (advanceTo ((g + s.cel.wait) * s.tickLen) s)

/-! ## Promotion (R227) and the end of a quiesce (R220) -/

/-- MIRROR_PROMOTE: the copies of the lost primaries become sessions of this device in the own pool. Marks (DEDUCED 189). -/
def mirrorPromote (s : State) : State :=
  let lost := s.cel.promote
  if lost.isEmpty then s
  else
    let s := advanceTo (s.markAt s.bel.gt) s
    let own := fun (d : Desc) => { d with mirror := false, mirrorPool := false }
    (List.range 32).foldl (fun s t =>
      let mine := (s.tract t).sessions.filter (fun e => ((e.2.bind (·.copyOf)).map lost.contains) == some true)
      let ids := mine.map (·.1)
      s.modTract t (fun r => { r with
        sessions := r.sessions.map (fun e =>
          if ids.contains e.1 then
            (e.1, e.2.map (fun x => { x with copyOf := none, applied := none, ahead := [], gapTick := none }))
          else e)
        pages := r.pages.map (fun e =>
          let theirs := match e.2.state with
            | .shared => match Tab.look none r.runs e.2.run with | some x => x.owners.any ids.contains | none => false
            | _ => ids.contains e.2.owner
          if e.2.mirrorPool && theirs then (e.1, own e.2) else e) }))
      (s.modCel (fun c => { c with promote := [] }))

/-- Marks of the Field's run at which the Crofts of a quiesced Tract have started no schedule entry up to now; none while
the Field is paused, whose marks start no entry anyway (R220, R313). -/
def State.keptMarks (s : State) (t : Nat) : Nat :=
  if s.crf.running && !s.crf.paused then s.tickNow - max (s.tract t).quietFrom (s.tickOf s.crf.launchGt) else 0

/-- The Crofts of a Tract are `n` more schedule entries behind their Field's run. -/
def fallBehind (t n : Nat) (s : State) : State :=
  s.modCrf (fun c => { c with
    crofts := c.crofts.map (fun e => if e.1 / 136 = t then (e.1, { e.2 with shift := e.2.shift + n }) else e) })

/-- QUIESCE_END: at the first mark after the repair; mirror packets that waited are taken (Table 8-8). -/
def quiesceEnd (t : Nat) (s : State) : State :=
  let r := s.tract t
  if s.isFatal || !r.quiesce || r.repairing then s
  else
    let s := advanceTo (s.markAt s.bel.gt) s
    let d := s.tickNow - r.quietFrom
    let s := fallBehind t (s.keptMarks t) s
    let s := s.modTract t (fun r => { r with quiesce := false, quietTicks := satAdd 0xFFFF 0 d, mirIn := [] })
    settleCore (r.mirIn.foldl (fun s p => fromPrimary p s) s)

/-! ## Meanings -/

/-- A mirror packet of an operation. From a primary it needs its place in PARTNERS_IN, and waits while its Tract is
quiesced; a fenced Tract answers nothing. A reserved OP is discarded and counted (R224). Marks (DEDUCED 190). -/
def mirrorTakes (op : Nat) (reply : Bool) (f : Packet → State → State) (p : Packet) (s : State) : State :=
  let o := mirOp p
  if s.isFatal || p.cls != 5 || p.ptype != 0x40 || (o != op && 1 ≤ o && o ≤ 9) then s
  else
    let s := takeInbox p s
    let sid := p.tsw0.toNat
    let t := homeTract sid
    let dev := p.src.toNat % 16384
    if packetCrc p p.payload != p.crc then s
    else if o != op || p.payload.length < 16 || sid = nobody then rejectMirror s
    else if reply then (if s.fromPartner p then settleCore (f p s) else rejectMirror s)
    else if !(((s.part t).partnersIn.getD []).contains dev) then rejectMirror s
    else if (s.tract t).fenced then s
    else if (s.tract t).quiesce then s.modTract t (fun r => { r with mirIn := r.mirIn ++ [p] })
    else settleCore (f p s)

/-- CEL_MIR_PROMOTE names the lost primary (R227, R228). -/
def promoteRequest (index : Nat) (s : State) : State := s.modCel (fun c => { c with promote := insertUp index c.promote })

def execMirrorOpen (p : Packet) (s : State) : Answer := need (Wf.packet p) (mirrorTakes moOpen false fromPrimary p s)
def execMirrorData (p : Packet) (s : State) : Answer := need (Wf.packet p) (mirrorTakes moData false fromPrimary p s)
def execMirrorGraft (p : Packet) (s : State) : Answer := need (Wf.packet p) (mirrorTakes moGraft false fromPrimary p s)
def execMirrorRelease (p : Packet) (s : State) : Answer :=
  need (Wf.packet p) (mirrorTakes moRelease false fromPrimary p s)
def execMirrorClose (p : Packet) (s : State) : Answer := need (Wf.packet p) (mirrorTakes moClose false fromPrimary p s)
def execMirrorFetch (p : Packet) (s : State) : Answer := need (Wf.packet p) (mirrorTakes moFetch false fromPrimary p s)
def execMirrorAck (p : Packet) (s : State) : Answer := need (Wf.packet p) (mirrorTakes moAck true mirrorAck p s)
def execMirrorFetchData (p : Packet) (s : State) : Answer :=
  need (Wf.packet p) (mirrorTakes moFetchData true mirrorFetchData p s)
def execMirrorBreak (p : Packet) (s : State) : Answer := need (Wf.packet p) (mirrorTakes moBreak true mirrorBreakIn p s)
def execMirrorWaitExpire (tract sid : Nat) (s : State) : Answer :=
  need (Wf.tract tract) (if s.isFatal then s else settleCore (mirrorWaitExpire tract sid s))
def execMirrorGapTimeout (tract sid : Nat) (s : State) : Answer :=
  need (Wf.tract tract) (if s.isFatal then s else settleCore (mirrorGapTimeout tract sid s))
def execMirrorPromoteRequest (index : Nat) (s : State) : Answer :=
  need (Wf.device index) (onBlock 4 true (promoteRequest index) s)
def execMirrorPromote (s : State) : Answer := .next (if s.isFatal then s else mirrorPromote s)
def execQuiesceEnd (tract : Nat) (s : State) : Answer := need (Wf.tract tract) (quiesceEnd tract s)

end Sys2Proof.Machine
end

