-- ==== Sys2Proof/Machine/Attention.lean ====
section
/-! DEFINITION. Machine/Attention.lean: assembly, admission, batches, the arithmetic of ATTEND, reclaim and the
watchdog (09_attention_service.md R230-R254, R359). -/

namespace Sys2Proof.Machine

/-! ## Responses (R233, R247, Table 9-9) -/

def atOk : Nat := 0
def atBusy : Nat := 1
def atNoSession : Nat := 2
def atExists : Nat := 3
def atBadRequest : Nat := 4
def atBadState : Nat := 5
def atPosition : Nat := 6
def atStore : Nat := 7
def atSessionLimit : Nat := 8
def atNoPrefix : Nat := 9
def atDuplicate : Nat := 0x0A
def atMirrorMismatch : Nat := 0x0C
def atBadPartner : Nat := 0x0D
def atDamaged : Nat := 0x0E
def atFault : Nat := 0x0F
def atIncomplete : Nat := 0x10
def atTooLarge : Nat := 0x11
def atNotHeld : Nat := 0x12

/-- What a request is answered: STATUS, DETAIL, VALUE and the data after the header. -/
structure Reply where
  status : Nat := 0
  detail : Nat := 0
  value  : Nat := 0
  data   : Bytes := []

/-- RFLAGS bit 0: the session is not mirrored, or its mirror has broken (Table 9-3). Marks (DEDUCED 194). -/
def State.unmirrored (s : State) (sid : Nat) : Bool :=
  match s.sess (homeTract sid) sid with
  | some e => e.mirror.isNone || e.broken
  | none => true

/-- The packets of a response: it goes back to the requester with its SESSION and REQ (R231-R233). Marks (DEDUCED 195). -/
def State.replyPackets (s : State) (key : MsgKey) (hdr : Packet) (r : Reply) (tick : Nat) : List Packet :=
  let msg := beBytes 1 1 ++ beBytes 1 r.status ++ beBytes 1 r.detail ++ beBytes 1 (ofBool (s.unmirrored key.session)) ++
    beBytes 4 (16 + r.data.length) ++ beBytes 4 r.value ++ beBytes 4 tick ++ r.data
  let n := (msg.length + 4095) / 4096
  (List.range n).map (fun i => {
    dst := hdr.src, cls := 4, field := hdr.field, src := BitVec.ofNat 20 (cellarEid s.devIndex), pkey := hdr.pkey
    ptype := 0x30, tsw0 := BitVec.ofNat 32 key.session
    tsw1 := BitVec.ofNat 32 (key.req * 65536 + i * 256 + (n - 1)), payload := (msg.drop (4096 * i)).take 4096 })

/-- A refusal is counted (Tables 9-14, 9-15). -/
def countReply (t : Nat) (r : Reply) (s : State) : State :=
  let sized := r.status = atBusy || r.status = atTooLarge
  let s := s.modAtsTract t (fun a => { a with
    lastStatus := r.status
    lastDetail := if sized then r.detail else a.lastDetail
    busy := if r.status = atBusy then sat32 a.busy else a.busy
    large := if r.status = atTooLarge then sat32 a.large else a.large })
  if r.status = atBadRequest then s.modAts (fun a => { a with badReq := sat32 a.badReq }) else s

/-- Short responses of a Tract that have not left yet. Marks (DEDUCED 196). -/
def State.shortWaiting (s : State) (t : Nat) : List Nat :=
  (s.attn t).short.filter (fun id => s.swc.voq.any (fun w => w.id == id && !w.started))

/-- A refusal at once goes to the Tract's queue of 16,384 short responses; where it is full there is no answer (R247). -/
def refuse (t : Nat) (key : MsgKey) (slot : Nat) (hdr : Packet) (r : Reply) (s : State) : State :=
  let waiting := s.shortWaiting t
  if 16384 ≤ waiting.length then
    let s := s.modAts (fun a => { a with drop := sat32 a.drop })
    if (s.attn t).dropTick = some s.tickNow then s
    else recordFault { source := 0x0605, unit := unitTract t, cls := 1, addr := s.ats.drop }
      (s.modAtsTract t (fun a => { a with dropTick := some s.tickNow }))
  else
    let s := countReply t r s
    let s := s.modAtsTract t (fun a => { a with short := waiting ++ [s.swc.nextId] })
    (s.replyPackets key hdr r s.tickNow).foldl (fun s p => inject slot p s) s

/-! ## Assembly (R232) -/

def Assembly.whole (a : Assembly) : Bool := a.pkts.length == a.last + 1
def Assembly.bytes (a : Assembly) : Bytes := a.pkts.flatMap (fun e => e.2.getD [])

/-- Assembly space of a message by its bytes. -/
def asmSpace (n : Nat) : Nat := (n + 4095) / 4096 * 4096

/-- Assembly space in use: a message holds it until it is refused, answered or dropped. -/
def State.asmUsed (s : State) (t : Nat) : Nat :=
  (s.attn t).asm.foldl (fun n a => n + 4096 * (a.last + 1)) 0 +
  (s.attn t).batch.foldl (fun n r => n + asmSpace r.body.length) 0 +
  (s.attn t).held.foldl (fun n h => n + h.space) 0

def State.modAsm (t : Nat) (key : MsgKey) (f : Assembly → Assembly) (s : State) : State :=
  s.modAtsTract t (fun a => { a with asm := a.asm.map (fun m => if m.key = key then f m else m) })
def State.dropAsm (t : Nat) (key : MsgKey) (s : State) : State :=
  s.modAtsTract t (fun a => { a with asm := a.asm.filter (fun m => m.key != key) })

def countDisc (s : State) : State := s.modAts (fun a => { a with disc := sat32 a.disc })

/-- Key of a request packet. -/
def msgKey (p : Packet) : MsgKey :=
  { src := p.src.toNat, session := p.tsw0.toNat, req := p.tsw1.toNat >>> 16 }

/-- ASSEMBLY_PACKET. Marks (DEDUCED 193). -/
def assemblyPacket (slot : Nat) (p : Packet) (s : State) : State :=
  let t := homeTract p.tsw0.toNat
  let key := msgKey p
  let pkt := (p.tsw1.toNat / 256) % 256
  let last := p.tsw1.toNat % 256
  let a := s.attn t
  if a.refused.any (fun e => e.1 = key && s.bel.gt ≤ e.2 + 2 * s.tickLen) then countDisc s
  else
    let bad := last < pkt || (pkt < last && p.payload.length ≠ 4096)
    let fresh := !a.asm.any (·.key = key)
    if fresh && last < pkt then countDisc s
    else if fresh && 32 * 1024 * 1024 < s.asmUsed t + 4096 * (last + 1) then
      let s := s.modAtsTract t (fun a => { a with
        refused := a.refused.filter (fun e => s.bel.gt ≤ e.2 + 2 * s.tickLen) ++ [(key, s.bel.gt)] })
      refuse t key slot p { status := atBusy, detail := 6 } s
    else
      let s := if fresh then s.modAtsTract t (fun a => { a with asm := a.asm ++
        [{ key := key, slot := slot, type := p.ptype.toNat, last := last, first := s.bel.gt, hdr := { p with payload := [] } }] })
        else s
      match (s.attn t).asm.find? (·.key = key) with
      | none => s
      | some m =>
        if m.whole then countDisc s
        else if bad || last ≠ m.last || (Tab.look none m.pkts pkt).isSome then
          countDisc (s.modAsm t key (fun m => { m with marked := true }))
        else
          let m := { m with pkts := Tab.put none m.pkts pkt (some p.payload), done := s.bel.gt }
          let s := s.modAsm t key (fun _ => m)
          if m.whole && m.marked then refuse t key slot m.hdr { status := atBadRequest, detail := 3 } (s.dropAsm t key)
          else s

/-- ASSEMBLY_TIMEOUT: two ticks after its first packet a message is still incomplete. -/
def assemblyTimeout (t : Nat) (key : MsgKey) (s : State) : State :=
  match (s.attn t).asm.find? (·.key = key) with
  | none => s
  | some m =>
    if m.whole then s
    else
      let s := (advanceTo (m.first + 2 * s.tickLen) s).dropAsm t key
      let s := s.modAts (fun a => { a with incomplete := sat32 a.incomplete })
      refuse t key m.slot m.hdr
        (if m.marked then { status := atBadRequest, detail := 3 } else { status := atIncomplete }) s

/-! ## Requests (R233-R238) -/

def rqOpen : Nat := 0x20
def rqClose : Nat := 0x21
def rqAppend : Nat := 0x22
def rqAttend : Nat := 0x23
def rqGraft : Nat := 0x24
def rqRelease : Nat := 0x25

/-- Geometry of a SESSION_OPEN (Table 9-4). -/
def parseGeometry (b : Bytes) : Geometry :=
  { nlayer := beAt b 8 1, kvFmt := beAt b 9 1, kvHeads := beAt b 10 1, group := beAt b 11 1, dim := beAt b 12 2
    qmode := beAt b 14 1, scale := BitVec.ofNat 32 (beAt b 20 4), posBase := beAt b 24 4 }

/-- The part of a SESSION_OPEN holds only allowed values (R234). -/
def geometryOk (b : Bytes) : Bool :=
  let g := parseGeometry b
  let o := beAt b 15 1
  let partner := beAt b 16 2
  g.kvFmt ≤ 3 && 1 ≤ g.kvHeads && g.kvHeads ≤ 16 && 1 ≤ g.group && g.group ≤ 16 &&
  [64, 128, 256].contains g.dim && g.qmode ≤ 1 && (g.qmode == 0 || g.kvFmt == 0) && o ≤ 1 &&
  partner < 16384 && (o == 1 || partner == 0) && beAt b 18 2 == 0 && beAt b 28 4 == 0 &&
  recordBytes g ≤ 16384 && g.kvHeads * g.group * g.dim ≤ 32768

/-- Parts of APPEND and ATTEND (Tables 9-5, 9-6): layer, queries, appended tokens, mask, start, window. -/
structure AppendPart where
  layer  : Nat
  nq     : Nat
  napp   : Nat
  mask   : Nat
  start  : Nat
  window : Nat

def parsePart (type : Nat) (b : Bytes) : AppendPart :=
  if type = rqAppend then
    { layer := beAt b 8 1, nq := 0, napp := beAt b 10 2, mask := 0, start := beAt b 12 4, window := 0 }
  else
    { layer := beAt b 8 1, nq := beAt b 9 1, napp := beAt b 10 1, mask := beAt b 11 1, start := beAt b 12 4
      window := beAt b 16 4 }

/-- Offset of the appended records in a request. -/
def recordsAt (type nq : Nat) : Nat := if type = rqAppend then 16 else 20 + 4 * nq
def queryHeads (g : Geometry) : Nat := g.kvHeads * g.group
def queryBytes (g : Geometry) : Nat := if g.qmode = 1 then 4 else 2
/-- LEN of a request by its part. -/
def wantedLen (type : Nat) (g : Geometry) (q : AppendPart) : Nat :=
  recordsAt type q.nq + q.napp * recordBytes g + q.nq * queryHeads g * g.dim * queryBytes g

/-- The DETAIL of BAD_REQUEST that a message's own bytes call for, with the session's geometry where it has one. -/
def badDetail (type : Nat) (b : Bytes) (geo : Option Geometry) : Option Nat :=
  if beAt b 0 1 ≠ 1 || beAt b 1 3 ≠ 0 || b.length < 8 then some 1
  else if beAt b 4 4 ≠ b.length then some 3
  else if type = rqOpen then (if b.length ≠ 32 then some 3 else if geometryOk b then none else some 2)
  else if type = rqClose then (if b.length = 8 then none else some 3)
  else if type = rqGraft || type = rqRelease then (if b.length = 12 then none else some 3)
  else
    let q := parsePart type b
    if b.length < recordsAt type q.nq then some 3
    else if type = rqAppend && beAt b 9 1 ≠ 0 then some 1
    else if type = rqAppend && q.napp = 0 then some 9
    else if type = rqAttend && (q.nq = 0 || 32 < q.nq || 32 < q.napp) then some 9
    else if type = rqAttend && (3 ≤ q.mask || (if q.mask = 1 then q.window = 0 else q.window ≠ 0)) then some 6
    else match geo with
      | none => none
      | some g =>
        if g.nlayer < q.layer then some 5
        else if b.length ≠ wantedLen type g q then some 3
        else if type = rqAttend && 1048576 < 16 + q.nq * queryHeads g * (2 * g.dim + 4) then some 4
        else none

/-! ## Costs and meters (R244, Table 9-9a) -/

/-- Whole cycles per tick, and the reclaim reserve. -/
def State.cycles (s : State) : Nat := 72 * s.tickLen / 10
def State.reclaimReserve (s : State) : Nat := min s.ats.reclaimMin (s.cycles / 2)

/-- Attention Crofts of a Tract that the budgets of this tick count: one fenced in this tick still counts (R245). Marks
(DEDUCED 202). Marks (DEDUCED 202). -/
def State.attnCount (s : State) (t : Nat) : Nat :=
  ((tractCrofts t).filter (fun k =>
    let c := s.croft k
    c.attn && (!c.fenced || c.fencedTick == some s.tickNow))).length

/-- Budgets of an empty tick. -/
def State.budgets (s : State) (t : Nat) : Meters :=
  let n := s.attnCount t
  let c := s.cycles
  { pages := 1024 * (s.part t).xferAttn.getD 0, array := n * 2304 * (c - 1024), vector := n * 64 * (c - 1024)
    store := c - s.reclaimReserve, batch := 4096 }

/-- Budgets with throttling at LEVEL (R432). -/
def throttle (level : Nat) (m : Meters) : Meters :=
  { m with pages := m.pages * (8 - level) / 8, array := m.array * (8 - level) / 8, vector := m.vector * (8 - level) / 8 }

def Meters.add (a b : Meters) : Meters :=
  { pages := a.pages + b.pages, array := a.array + b.array, vector := a.vector + b.vector, store := a.store + b.store
    batch := a.batch + b.batch }

/-- The first meter that a cost exceeds, as DETAIL. -/
def Meters.exceeds (a lim : Meters) : Option Nat :=
  if lim.pages < a.pages then some 1 else if lim.array < a.array then some 2
  else if lim.vector < a.vector then some 3 else if lim.store < a.store then some 4
  else if lim.batch < a.batch then some 5 else none

/-- Cycles per product of a query against a key format (Table 7-4). -/
def queryCycles (g : Geometry) : Nat :=
  if g.qmode = 1 then 16 else match g.kvFmt with | 0 => 8 | 1 => 11 | 2 => 4 | _ => 3

/-- Requests of a session that wait in the batch. -/
def State.pendingOf (s : State) (t sid : Nat) : List Admitted := (s.attn t).batch.filter (·.key.session == sid)

/-- The geometry of a session, or of its OPEN in the batch. -/
def State.geoOf (s : State) (t sid : Nat) : Option Geometry :=
  match s.sess t sid with
  | some e => if e.copyOf.isSome then none else some e.geo
  | none => ((s.pendingOf t sid).find? (·.type == rqOpen)).map (fun r => parseGeometry r.body)

/-- Own tokens of a layer after the requests of the batch. -/
def State.ownAfter (s : State) (t sid layer : Nat) : Nat :=
  let now := match s.sess t sid with | some e => Tab.look 0 e.counts layer | none => 0
  (s.pendingOf t sid).foldl (fun n r =>
    if r.type == rqAppend || r.type == rqAttend then
      let q := parsePart r.type r.body
      if q.layer = layer then n + q.napp else n
    else n) now

/-- Tokens and pages of a layer of the runs that a session holds, or grafts in the batch. -/
def State.runLoad (s : State) (t sid layer : Nat) : Nat × Nat :=
  let held := match s.sess t sid with | some e => e.grafts.map (·.pfx) | none => []
  let coming := (s.pendingOf t sid).filterMap (fun r => if r.type == rqGraft then some (beAt r.body 8 4) else none)
  (held ++ coming).foldl (fun (e : Nat × Nat) pfx =>
    match (s.runOf t pfx).bind (s.run t) with
    | some r => (e.1 + r.tokens, e.2 + (Tab.look [] r.pages layer).length)
    | none => match s.geoOf t pfx with
      | some g => let n := s.ownAfter t pfx layer; (e.1 + n, e.2 + pagesFor g n)
      | none => e) (0, 0)

/-- Pages of a session's chains after the requests of the batch. -/
def State.pagesAfter (s : State) (t sid : Nat) : Nat :=
  match s.geoOf t sid with
  | none => 0
  | some g =>
    let chains := match s.sess t sid with | some e => e.chains | none => []
    (List.range (g.nlayer + 1)).foldl (fun n l =>
      n + max (Tab.look [] chains l).length (pagesFor g (s.ownAfter t sid l))) 0

/-- Pages of the run of a prefix after the requests of the batch: the open run's, or those that its SHARE will take. -/
def State.runPagesAfter (s : State) (t pfx : Nat) : Nat :=
  match (s.runOf t pfx).bind (s.run t) with | some r => r.all.length | none => s.pagesAfter t pfx

/-- A run of a prefix is open, or a GRAFT of the batch will open it. -/
def State.runComes (s : State) (t pfx : Nat) : Bool :=
  (s.runOf t pfx).isSome || (s.attn t).batch.any (fun r => r.type == rqGraft && beAt r.body 8 4 == pfx)

/-- Cost of a request on the five meters. -/
def State.cost (s : State) (t : Nat) (key : MsgKey) (type : Nat) (b : Bytes) : Meters :=
  let sid := key.session
  let one : Meters := { batch := 1 }
  let pfx := beAt b 8 4
  if type = rqOpen || type = rqClose then { one with store := 40 }
  else if type = rqGraft then { one with store := if s.runComes t pfx then 40 else 40 + 4 * s.pagesAfter t pfx }
  else if type = rqRelease then { one with store := 40 + 4 * s.runPagesAfter t pfx }
  else match s.geoOf t sid with
  | none => one
  | some g =>
    let q := parsePart type b
    let n0 := s.ownAfter t sid q.layer
    let n := n0 + q.napp
    let fresh := pagesFor g n - pagesFor g n0
    let store := if fresh = 0 then 0 else 40 + 8 * (fresh - 1)
    let bytes := q.napp * recordBytes g
    if type = rqAppend then { one with pages := bytes / 64, store := store }
    else
      let (rt, rp) := s.runLoad t sid q.layer
      let tt := rt + n
      let pp := rp + pagesFor g n
      let hd := queryHeads g
      { one with
        pages := 1024 * pp + bytes / 64, array := 2 * q.nq * hd * g.dim * tt * queryCycles g
        vector := q.nq * hd * (8 * tt + 2 * g.dim * pp + 64), store := store }

/-- A new tick begins for a Tract's meters: the last batch has closed (R243). Marks (DEDUCED 200). -/
def rollMeters (t : Nat) (s : State) : State :=
  let a := s.attn t
  let now := s.tickNow
  if a.batchTick = now then s
  else
    s.modAtsTract t (fun a => { a with
      pagesLast := if a.batchTick + 1 = now then a.used.pages else 0, used := {}, batchTick := now })

/-- PAGES granules admitted to the last closed batch: that of the tick before this one (Table 9-14). -/
def State.closedPages (s : State) (t : Nat) : Nat :=
  let a := s.attn t
  if a.batchTick = s.tickNow then a.pagesLast else if a.batchTick + 1 = s.tickNow then a.used.pages else 0

/-- The whole message that a Tract admits next: the first to have completed, of two at one GT that of the lower slot
(R243). Marks (DEDUCED 260). -/
def AtsTract.nextWhole (a : AtsTract) : Option Assembly :=
  (a.asm.filter Assembly.whole).foldl (fun best m =>
    match best with
    | none => some m
    | some b => if m.done < b.done || (m.done = b.done && m.slot < b.slot) then some m else some b) none

/-- A complete request, the first of its Tract, is checked and admitted, or refused at once (R243, R244, R247). -/
def admitRequest (type t : Nat) (key : MsgKey) (s : State) : State :=
  match (s.attn t).nextWhole with
  | none => s
  | some m =>
    if m.key ≠ key || m.type ≠ type then s
    else
    let s := rollMeters t (s.dropAsm t key)
    let b := m.bytes
    let no := fun (r : Reply) => refuse t key m.slot m.hdr r s
    let closing := match s.sess t key.session with | some e => e.state == .closing && e.copyOf.isNone | none => false
    if (s.tract t).fenced then no { status := atStore, detail := stFenced }
    else if (s.tract t).quiesce then no { status := atBusy, detail := 7 }
    else if s.flt.rstWaiting.isSome then no { status := atBusy, detail := 9 }
    else match badDetail type b (s.geoOf t key.session) with
    | some d => no { status := atBadRequest, detail := d }
    | none =>
      if key.session = nobody then
        no (if type = rqOpen then { status := atBadRequest, detail := 8 } else { status := atNoSession })
      else if closing && type ≠ rqOpen && type ≠ rqClose then no { status := atBadRequest, detail := 7 }
      else
        let c := s.cost t key type b
        let full := s.budgets t
        match c.exceeds full with
        | some d => no { status := atTooLarge, detail := d }
        | none =>
          match (c.add (s.attn t).used).exceeds (throttle s.thm.level full) with
          | some d => no { status := atBusy, detail := d }
          | none =>
            let r : Admitted := {
              key := key, slot := m.slot, type := type, hdr := m.hdr, body := b, tick := s.tickNow }
            s.modAtsTract t (fun a => { a with
              used := c.add a.used, batch := a.batch ++ [r], admitCnt := sat32 a.admitCnt })

/-! ## What ATTEND computes (R249) -/

/-- A token of the context: its position, its key and its value by head. -/
structure Token where
  pos : Nat
  key : List (List Val)
  val : List (List Val)

/-- Elements of one token of one page side, by head. -/
def headVals (g : Geometry) (b : Bytes) : List (List Val) :=
  let n := g.dim * elemBytes g.kvFmt
  (groupsOf n g.kvHeads b).map (fun h => (unpack (elemBits g.kvFmt) g.dim h).map (decode g.kvFmt false))

/-- Masks (Table 9-6), compared as exact integers. -/
def masked (mask window pq pos : Nat) : Bool :=
  match mask with
  | 0 => pq < pos
  | 1 => pq < pos || pos + window < pq + 1
  | _ => false

/-- Binary32 rounding of an exact sum, and of a product and sum. -/
def add32 (a b : Val) : Val := rn32 (a.add b)
def mul32 (a b : Val) : Val := rn32 (a.mul b)
def fma32 (a b c : Val) : Val := rn32 ((a.mul b).add c)
def bf16 (v : Val) : Val := decode 0 false (roundIeee 0 v)

/-- A dot product: one binary32 rounding per addition, e ascending (R179). -/
def dotFrom (acc : Val) (q k : List Val) : Val := (q.zip k).foldl (fun a e => add32 a (e.1.mul e.2)) acc

/-- Dot product of a query and a key, in two passes with QMODE 1; the later pass adds nothing where an operand is not finite
(R181, R182). -/
def score (g : Geometry) (q k : List Val) : Val :=
  let dot := if g.qmode = 1 then
      let p := (q.map split8).zip k
      let later := p.filter (fun e => e.1.1.isFin && e.2.isFin)
      dotFrom (dotFrom .zero (p.map (·.1.1)) k) (later.map (·.1.2.1)) (later.map (·.2))
    else dotFrom .zero q k
  mul32 dot (decode 9 false g.scale.toNat)

/-- Running state over the pages: maximum, sum of weights, accumulated outputs. -/
structure Walk where
  m   : Val := .inf true
  l   : Val := .zero
  acc : List Val := []

/-- One page of the walk. -/
def walkPage (g : Geometry) (mask window pq h : Nat) (q : List Val) (page : List Token) (w : Walk) : Walk :=
  let hd := h / g.group
  let ts := page.filter (fun t => !masked mask window pq t.pos)
  let sc := ts.map (fun t => (score g q (t.key.getD hd []), t.val.getD hd []))
  if sc.isEmpty then w
  else
    let mn := sc.foldl (fun m e => m.max e.1) w.m
    let c := exp32 (add32 w.m mn.neg)
    let zeros : List Val := List.replicate g.dim .zero
    let (lsum, pv) := sc.foldl (fun (e : Val × List Val) x =>
      let p := bf16 (exp32 (add32 x.1 mn.neg))
      (add32 e.1 p, (e.2.zip x.2).map (fun y => fma32 p y.2 y.1))) (.zero, zeros)
    { m := mn, l := fma32 w.l c lsum, acc := (w.acc.zip pv).map (fun e => fma32 e.1 c e.2) }

def Val.isZero : Val → Bool
  | .fin _ 0 _ => true
  | _ => false

/-- Output elements and log-sum-exp of one query token and head. -/
def attendHead (g : Geometry) (mask window pq h : Nat) (q : List Val) (pages : List (List Token)) :
    List Nat × Nat :=
  let w := pages.foldl (fun w p => walkPage g mask window pq h q p w) { acc := List.replicate g.dim .zero }
  if w.l.isZero then (w.acc.map (fun _ => 0), infCode 9 true)
  else
    let r := recip32 w.l
    (w.acc.map (fun a => roundIeee 0 (mul32 a r)), roundIeee 9 (w.m.add (ln32 w.l)))

/-- The tokens of one page: `n` tokens at positions from `pos`; none where its read fails. -/
def readPage (t page n pos : Nat) (g : Geometry) (s : State) : Option (List Token) × State :=
  let half := recordBytes g / 2
  match readStack t (page * 65536) (n * half) s with
  | (none, s) => (none, s)
  | (some ks, s) =>
    match readStack t (page * 65536 + 32768) (n * half) s with
    | (none, s) => (none, s)
    | (some vs, s) =>
      let kb := groupsOf half n ks
      let vb := groupsOf half n vs
      (some ((kb.zip vb).zipIdx.map (fun e =>
        { pos := pos + e.2, key := headVals g e.1.1, val := headVals g e.1.2 })), s)

/-- The pages of a chain with `n` tokens at positions from `pos`, in walk order. -/
def walkList (g : Geometry) (chain : List Nat) (n pos : Nat) : List (Nat × Nat × Nat) :=
  let k := tokensPerPage g
  (chain.zipIdx.map (fun e => (e.1, min k (n - e.2 * k), pos + e.2 * k))).filter (fun e => 0 < e.2.1)

/-- The walk of a layer (R240): grafted runs in the order of grafting, then the own pages. -/
def State.walkOf (s : State) (t : Nat) (e : Sess) (layer : Nat) (sid : Nat) : List (Nat × Nat × Nat) :=
  let base := e.geo.posBase
  e.grafts.flatMap (fun r =>
    let chain := match s.run t r.run with | some x => Tab.look [] x.pages layer | none => []
    walkList e.geo chain r.tokens (base + r.off)) ++
  walkList e.geo (s.chainOf t sid layer) (Tab.look 0 e.counts layer) (base + e.ownOff.getD 0)

/-- Outputs and log-sum-exp values of an ATTEND (R239); none where a walked page fails. -/
def attendData (t sid : Nat) (e : Sess) (q : AppendPart) (b : Bytes) (s : State) : Option Bytes × State :=
  let g := e.geo
  let (pages, s) := (s.walkOf t e q.layer sid).foldl
    (fun (x : Option (List (List Token)) × State) w =>
      match x.1 with
      | none => x
      | some ps => match readPage t w.1 w.2.1 w.2.2 g x.2 with
        | (some p, s) => (some (ps ++ [p]), s)
        | (none, s) => (none, s)) (some [], s)
  match pages with
  | none => (none, s)
  | some pages =>
    let hd := queryHeads g
    let qb := g.dim * queryBytes g
    let qs := groupsOf qb (q.nq * hd) (b.drop (recordsAt rqAttend q.nq + q.napp * recordBytes g))
    let elem := if g.qmode = 1 then 9 else 0
    let res := qs.zipIdx.map (fun x =>
      attendHead g q.mask q.window (beAt b (20 + 4 * (x.2 / hd)) 4) (x.2 % hd)
        ((unpack (elemBits elem) g.dim x.1).map (decode elem false)) pages)
    (some (res.flatMap (fun r => r.1.flatMap (beBytes 2)) ++ res.flatMap (fun r => beBytes 4 r.2)), s)

/-! ## The effects of requests (Table 9-8) -/

/-- SESSION_OPEN. -/
def doOpen (t sid : Nat) (b : Bytes) (s : State) : Reply × State :=
  match s.sess t sid with
  | some e => (if e.copyOf.isSome then { status := atNoSession } else
      { status := atExists, detail := ofBool (e.state == .closing) }, s)
  | none =>
    let dev := beAt b 16 2
    let mirror := bit (beAt b 15 1) 0
    if 262144 ≤ (s.tract t).sessions.length then ({ status := atSessionLimit }, s)
    else if 4194304 ≤ s.sessTotal then ({ status := atSessionLimit, detail := 1 }, s)
    else if mirror && !((s.part t).partnersOut.getD []).contains dev then ({ status := atBadPartner }, s)
    else
      let e : Sess := { geo := parseGeometry b, mirror := if mirror then some dev else none }
      let s := s.modTract t (fun r => { r with sessions := Tab.add sid (some e) r.sessions })
      ({}, sendCopy t sid moOpen 0 0 1 [] s)

/-- SESSION_CLOSE. -/
def doClose (t sid : Nat) (e : Sess) (s : State) : Reply × State :=
  if e.state == .closing then ({ status := atExists, detail := 1 }, s)
  else ({ value := e.ownPages.length }, closeSession t sid (sendCopy t sid moClose 0 0 0 [] s))

/-- The append of an APPEND or ATTEND. -/
def doAppend (t sid : Nat) (e : Sess) (type : Nat) (q : AppendPart) (b : Bytes) (s : State) : Reply × State :=
  let n := Tab.look 0 e.counts q.layer
  if e.state == .frozen then ({ status := atBadState, detail := 1 }, s)
  else if q.start ≠ n then ({ status := atPosition, value := n }, s)
  else
    let data := (b.drop (recordsAt type q.nq)).take (q.napp * recordBytes e.geo)
    let off := n * recordBytes e.geo
    let (code, s) := growStream t sid q.layer false off data s
    if code ≠ stOk then ({ status := atStore, detail := code }, s)
    else ({ value := n + q.napp }, sendData t sid q.layer off data s)

/-- ATTEND; `hung` where its Crofts hang. -/
def doAttend (t sid : Nat) (e : Sess) (hung : Bool) (b : Bytes) (s : State) : Reply × State :=
  let q := parsePart rqAttend b
  let (r, s) := if q.napp = 0 then (({ value := Tab.look 0 e.counts q.layer } : Reply), s)
    else doAppend t sid e rqAttend q b s
  if r.status ≠ atOk then (r, s)
  else if hung then ({ r with status := atFault }, s)
  else match s.sess t sid with
    | none => (r, s)
    | some e => match attendData t sid e q b s with
      | (some d, s) => ({ r with data := d }, s)
      | (none, s) => ({ r with status := atDamaged }, s)

/-- The same NLAYER, KV_FMT, KV_HEADS and HEAD_DIM. -/
def sameGeo (a b : Geometry) : Bool :=
  a.nlayer == b.nlayer && a.kvFmt == b.kvFmt && a.kvHeads == b.kvHeads && a.dim == b.dim

/-- GRAFT: of a session that can become a run or has become one, or of a run that is open under the prefix's ID; the prefix's
mirror copies have all been acknowledged (R223, Table 9-8). -/
def doGraft (t sid : Nat) (e : Sess) (pfx : Nat) (s : State) : Reply × State :=
  if e.state == .active || e.state == .frozen then ({ status := atBadState, detail := 2 }, s)
  else if pfx = sid then ({ status := atBadState, detail := 5 }, s)
  else if pfx = nobody then ({ status := atNoPrefix }, s)
  else if e.grafts.any (·.pfx == pfx) then ({ status := atDuplicate }, s)
  else if 4 ≤ e.grafts.length then ({ status := atBadState, detail := 4 }, s)
  else if homeTract pfx ≠ t then ({ status := atStore, detail := stWrongTract }, s)
  else
    let p := match s.sess t pfx with | some x => if x.copyOf.isSome then none else some x | none => none
    let run := (s.runOf t pfx).bind (s.run t)
    if p.isNone && run.isNone then ({ status := atNoPrefix }, s)
    else
      let first := match p with | some x => x.shareable || x.ownRun.isSome | none => false
      let fits := match p, run with
        | some x, none => first && sameGeo x.geo e.geo
        | some x, some r => sameGeo (if first then x.geo else r.geo) e.geo
        | none, some r => sameGeo r.geo e.geo
        | none, none => false
      if !fits then ({ status := atBadState, detail := 3 }, s)
      else
        let live := e.mirror.isSome && !e.broken
        let same := match p with | some x => first && x.mirror == e.mirror && !x.broken | none => false
        let acked := match p with
          | some x => x.mirror.isNone || x.broken || x.acked.any (fun a => seqLe x.mseq a)
          | none => true
        if live && !same then ({ status := atMirrorMismatch }, s)
        else if first && !acked then ({ status := atBusy, detail := 8 }, s)
        else
          let (code, n, s) := graftRun t sid pfx s
          if code ≠ stOk then ({ status := atStore, detail := code }, s)
          else ({ value := n }, sendCopy t sid moGraft 0 0 pfx [] s)

/-- RELEASE. -/
def doRelease (t sid pfx : Nat) (s : State) : Reply × State :=
  match releaseRun t sid pfx s with
  | (none, s) => ({ status := atNotHeld }, s)
  | (some code, s) =>
    if code ≠ stOk then ({ status := atStore, detail := code }, s)
    else ({}, sendCopy t sid moRelease 0 0 pfx [] s)

/-- A request of a batch takes effect; the session is as earlier requests have left it. -/
def doRequest (t : Nat) (r : Admitted) (hung : Bool) (s : State) : Reply × State :=
  let sid := r.key.session
  if (s.tract t).fenced then ({ status := atStore, detail := stFenced }, s)
  else if r.type = rqOpen then doOpen t sid r.body s
  else match s.sess t sid with
  | none => ({ status := atNoSession }, s)
  | some e =>
    if e.copyOf.isSome then ({ status := atNoSession }, s)
    else if r.type = rqClose then doClose t sid e s
    else if e.state == .closing then ({ status := atBadRequest, detail := 7 }, s)
    else match badDetail r.type r.body (some e.geo) with
    | some d => ({ status := atBadRequest, detail := d }, s)
    | none =>
      if r.type = rqAppend then doAppend t sid e rqAppend (parsePart rqAppend r.body) r.body s
      else if r.type = rqAttend then doAttend t sid e hung r.body s
      else if r.type = rqGraft then doGraft t sid e (beAt r.body 8 4) s
      else doRelease t sid (beAt r.body 8 4) s

/-- Whether a request changed its session: its response waits for the mirror's acknowledgement (R251). -/
def changes (r : Admitted) (a : Reply) : Bool :=
  (a.status = atOk || a.status = atDamaged || a.status = atFault) &&
  (r.type ≠ rqAttend || (parsePart rqAttend r.body).napp ≠ 0)

/-- A request of a batch is applied and answered, or its response is held (R248, R251). -/
def answerRequest (t : Nat) (hung : Bool) (r : Admitted) (s : State) : State :=
  let (a, s) := doRequest t r hung s
  let s := if a.status = atOk || a.status = atDamaged || a.status = atFault then s else countReply t a s
  let pkts := s.replyPackets r.key r.hdr a r.tick
  let e := s.sess t r.key.session
  let live := match e with | some x => x.mirror.isSome && !x.broken | none => false
  if live && changes r a then
    let h : HeldResp := {
      sid := r.key.session, mseq := (e.map (·.mseq)).getD 0, tick := s.tickNow, slot := r.slot, pkts := pkts
      partner := (e.bind (·.mirror)).getD 0, space := asmSpace r.body.length }
    s.modAtsTract t (fun x => { x with held := x.held ++ [h] })
  else pkts.foldl (fun s p => inject r.slot p s) s

/-- The oldest batch leaves the queue: its requests in admission order. -/
def takeBatch (t : Nat) (s : State) : List Admitted × State :=
  let b := (s.attn t).batch
  let tick := match b with | r :: _ => r.tick | [] => 0
  (b.filter (·.tick == tick), s.modAtsTract t (fun a => { a with batch := a.batch.filter (·.tick != tick) }))

/-- An attention Croft of a Tract was fenced in this tick (Table 9-10). -/
def State.attnLost (s : State) (t : Nat) : Bool :=
  (tractCrofts t).any (fun k => (s.croft k).attn && (s.croft k).fencedTick == some s.tickNow)

/-- A request of a batch is answered; where an attention Croft has been fenced in this tick, a free value says whether the
work of an ATTEND fell on it (R252). Marks (DESIGN CHOICE 265). -/
def computeRequest (t : Nat) (r : Admitted) (s : State) : State :=
  if r.type = rqAttend && s.attnLost t then
    let (v, s) := s.draw
    answerRequest t (v.getLsbD 0) r s
  else answerRequest t false r s

/-- ATTENTION_BATCH: the batch of tick n is computed in tick n + 1 (R243). Marks (DEDUCED 204). -/
def attentionBatch (t : Nat) (s : State) : State :=
  match (s.attn t).batch with
  | [] => rollMeters t s
  | r :: _ =>
    let s := rollMeters t (advanceTo ((r.tick + 1) * s.tickLen) s)
    let (rs, s) := takeBatch t s
    rs.foldl (fun s r => computeRequest t r s) s

/-- RECLAIM: the session at the head of the queue is freed (R242). Marks (DEDUCED 198). -/
def reclaim (t : Nat) (s : State) : State :=
  match (s.tract t).reclaimQ with
  | [] => s
  | sid :: rest =>
    if (s.tract t).fenced then s
    else freeSession t sid (s.modTract t (fun r => { r with reclaimQ := rest }))

/-- BATCH_LATE: requests of tick n are unanswered at mark n + 2 (R359). Marks (DEDUCED 197). -/
def batchLate (t : Nat) (s : State) : State :=
  match (s.attn t).batch with
  | [] => s
  | r :: _ =>
    recordFault { source := 0x0603, unit := unitTract t, cls := 1, access := 0x0B, addr := r.tick % 2 ^ 32 }
      (advanceTo ((r.tick + 2) * s.tickLen) s)

/-- A hung Croft is fenced; its queues stay as they are, for its capsule (R303, R361). -/
def hangCroft (k : Nat) (s : State) : State := s.modCroft k (fun c => { c with fenced := true, hung := true, fencedTick := some s.tickNow })

/-- BATCH_HUNG: at mark n + 6 they are answered FAULT, with their appends (R359). Marks (DEDUCED 199). -/
def batchHung (t : Nat) (crofts : List Nat) (s : State) : State :=
  match (s.attn t).batch with
  | [] => s
  | r :: _ =>
    let s := advanceTo ((r.tick + 6) * s.tickLen) s
    let (rs, s) := takeBatch t s
    let s := rs.foldl (fun s r => answerRequest t true r s) s
    let mine := crofts.filter (fun k => (tractCrofts t).contains k && (s.croft k).attn)
    let s := mine.foldl (fun s k => hangCroft k s) s
    let seq := s.attic.faultSeq
    let s := recordFault { source := 0x0604, unit := unitTract t, cls := 2, access := 0x0B, addr := r.tick % 2 ^ 32
                           fenced := true } s
    let f := ((s.home).map (·.id)).getD 0
    requestCapsule { cause := 2, field := f, faultSeq := seq, gt := s.bel.gt, crofts := (mine.filterMap (fun k => (s.croft k).logical)).take 64 } s

/-! ## Meanings -/

/-- A request packet arrives at the Cellar port slot of its session (R18, R230); no other slot takes it. -/
def execAssemblyPacket (slot : Nat) (p : Packet) (s : State) : Answer :=
  need (Wf.cellarPort slot && Wf.packet p)
    (if s.isFatal || slot != cellarSlotOfSid p.tsw0.toNat || p.cls != 3 || !(ptypesOf 3).contains p.ptype.toNat then s
     else
       let s := takeInbox p s
       if packetCrc p p.payload != p.crc then s else settleCore (assemblyPacket slot p s))
def execAssemblyTimeout (tract : Nat) (key : MsgKey) (s : State) : Answer :=
  need (Wf.tract tract) (if s.isFatal then s else settleCore (assemblyTimeout tract key s))

/-- A complete request of a type. Marks (DEDUCED 192, 203). -/
def request (type t : Nat) (key : MsgKey) (s : State) : State :=
  if s.isFatal then s else settleCore (admitRequest type t key s)

def execSessionOpen (tract : Nat) (key : MsgKey) (s : State) : Answer := need (Wf.tract tract) (request rqOpen tract key s)
def execSessionClose (tract : Nat) (key : MsgKey) (s : State) : Answer :=
  need (Wf.tract tract) (request rqClose tract key s)
def execAppend (tract : Nat) (key : MsgKey) (s : State) : Answer := need (Wf.tract tract) (request rqAppend tract key s)
def execAttend (tract : Nat) (key : MsgKey) (s : State) : Answer := need (Wf.tract tract) (request rqAttend tract key s)
def execGraft (tract : Nat) (key : MsgKey) (s : State) : Answer := need (Wf.tract tract) (request rqGraft tract key s)
def execRelease (tract : Nat) (key : MsgKey) (s : State) : Answer :=
  need (Wf.tract tract) (request rqRelease tract key s)
def execAttentionBatch (tract : Nat) (s : State) : Answer :=
  need (Wf.tract tract) (if s.isFatal then s else settleCore (attentionBatch tract s))
def execReclaim (tract : Nat) (s : State) : Answer := need (Wf.tract tract) (if s.isFatal then s else reclaim tract s)
def execBatchLate (tract : Nat) (s : State) : Answer := need (Wf.tract tract) (if s.isFatal then s else batchLate tract s)
def execBatchHung (tract : Nat) (crofts : List Nat) (s : State) : Answer :=
  need (Wf.tract tract && crofts.all Wf.physCroft)
    (if s.isFatal then s else settleCore (batchHung tract crofts s))

end Sys2Proof.Machine
end

