-- ==== Sys2Proof/Machine/Words.lean ====
section
/-! DEFINITION. Machine/Words.lean: the fields of control words and the bytes that their operands lie in
(11_control_words_images_verifier.md R277-R285, 07_numerics.md R176). -/

namespace Sys2Proof.Machine

/-- Bits [hi:lo] of a control word. -/
def wbits (w : BitVec 256) (hi lo : Nat) : Nat := bits w.toNat hi lo

/-! ## The head (Table 11-1) -/

def wEngine (w : BitVec 256) : Nat := wbits w 255 253
def wOp (w : BitVec 256) : Nat := wbits w 252 248
def wRepeat (w : BitVec 256) : Nat := wbits w 247 232
def wWaitEn (w : BitVec 256) : Bool := w.getLsbD 231
def wWaitTract (w : BitVec 256) : Bool := w.getLsbD 230
def wWaitFlag (w : BitVec 256) : Nat := wbits w 229 224
def wWaitCount (w : BitVec 256) : Nat := wbits w 223 208
def wSigEn (w : BitVec 256) : Bool := w.getLsbD 207
def wSigTract (w : BitVec 256) : Bool := w.getLsbD 206
def wSigFlag (w : BitVec 256) : Nat := wbits w 205 200
def wBound (w : BitVec 256) : Nat := wbits w 199 192

/-- Engine codes of Table 11-1. -/
def engineCode : Engine → Nat
  | .mx => 0 | .vx => 1 | .mv => 2 | .fp => 3 | .fl => 4

def engineNamed (w : BitVec 256) : Option Engine :=
  match wEngine w with
  | 0 => some .mx | 1 => some .vx | 2 => some .mv | 3 => some .fp | 4 => some .fl | _ => none

/-- Operations that each engine has (Table 11-2). -/
def opsOf : Engine → Nat
  | .mx => 2 | .vx => 12 | .mv => 6 | .fp => 4 | .fl => 6

def isOp (e : Engine) (op : Nat) (w : BitVec 256) : Bool := engineNamed w == some e && wOp w == op

/-- A STEP word (R271). -/
def isStep (w : BitVec 256) : Bool := isOp .fl 4 w

/-- A word that writes the program store. -/
def isOverlay (w : BitVec 256) : Bool := isOp .mv 5 w

/-! ## The compute body (Table 11-3) -/

structure Compute where
  fmtA     : Nat
  fmtB     : Nat
  fmtD     : Nat
  passes   : Nat
  round    : Nat
  acc      : Bool
  sat      : Bool
  grad     : Bool
  ecomp    : Bool
  swap     : Bool
  hist     : Bool
  k        : Nat
  n        : Nat
  run      : Nat
  aBase    : Nat
  bBase    : Nat
  dBase    : Nat
  aStride  : Nat
  bStride  : Nat
  dStride  : Nat
  tensor   : Nat
  elemBase : Nat
  histAddr : Nat
  histB    : Int

def compute (w : BitVec 256) : Compute :=
  { fmtA := wbits w 191 187, fmtB := wbits w 186 182, fmtD := wbits w 181 177, passes := wbits w 176 175
    round := wbits w 174 172, acc := w.getLsbD 171, sat := w.getLsbD 170, grad := w.getLsbD 169, ecomp := w.getLsbD 168
    swap := w.getLsbD 167, hist := w.getLsbD 166, k := wbits w 165 160 + 1, n := wbits w 159 154 + 1
    run := wbits w 165 154 + 1, aBase := wbits w 153 135, bBase := wbits w 134 116, dBase := wbits w 115 97
    aStride := wbits w 96 84, bStride := wbits w 83 71, dStride := wbits w 70 58, tensor := wbits w 57 42
    elemBase := 2048 * wbits w 41 21, histAddr := 64 * wbits w 20 8, histB := toInt 8 (wbits w 7 0) }

/-- ELEM and SCALED of a format code (R173). -/
def elemOf (fmt : Nat) : Nat := fmt % 16
def isScaled (fmt : Nat) : Bool := fmt / 16 == 1

/-- A format code that Table 7-1 gives. -/
def fmtValid (fmt : Nat) : Bool := elemOf fmt ≤ 12 && (!isScaled fmt || elemOf fmt ≤ 7)

/-- Table 7-3: significand width; the words of a BF16 pair are BF16. -/
def sigWidth (fmt : Nat) : Nat :=
  match elemOf fmt with
  | 0 => 8 | 1 => 11 | 2 => 4 | 3 => 3 | 4 => 3 | 5 => 4 | 6 => 2 | 7 => 8 | 8 => 53 | 9 => 24 | 10 => 4 | _ => 8

/-- Cells of a resident element (R256). Marks (DEDUCED 212). -/
def cellsOf (fmt : Nat) : Nat := (sigWidth fmt + 7) / 8

/-- Element code of the accumulator of R179. -/
def accElem (fmtA fmtB : Nat) : Nat :=
  let int := fun (f : Nat) => !isScaled f && (elemOf f = 7 || elemOf f = 10)
  if int fmtA && int fmtB then 11 else if elemOf fmtA = 8 || elemOf fmtB = 8 then 8 else 9

/-- Whether operand A is streamed (R178): the smaller width, A where equal; SWAP takes the other operand. With a pass
count every operand is BF16 wide or an FP32 operand. -/
def streamsA (c : Compute) : Bool := (decide (sigWidth c.fmtA ≤ sigWidth c.fmtB)) != c.swap

/-- The largest tile K × N of a word by the cells of a resident element (Table 10-2); with a pass count the array holds BF16
parts. -/
def tileMax (c : Compute) : Nat × Nat :=
  match if c.passes = 0 then cellsOf (if streamsA c then c.fmtB else c.fmtA) else 1 with
  | 1 => (48, 48) | 2 => (48, 24) | 3 => (48, 16) | _ => (47, 7)

/-! ## The mover body (Table 11-4) -/

structure Mover where
  srcSpace : Nat
  dstSpace : Nat
  src      : Nat
  dst      : Nat
  run      : Nat
  c1       : Nat
  c2       : Nat
  srcUnit  : Int
  dstUnit  : Int
  s1       : Int
  s2       : Int
  s3       : Int
  d1       : Int
  d2       : Int
  d3       : Int

/-- A stride unit: one byte, 64 B, 4 KiB, 64 KiB. -/
def unitBytes (u : Nat) : Int := match u with | 0 => 1 | 1 => 64 | 2 => 4096 | _ => 65536

/-- The mover body; FILL's source is its pattern, in the Pantry. -/
def mover (w : BitVec 256) : Mover :=
  let sp := if isOp .mv 4 w then 0 else wbits w 191 190
  let dp := wbits w 189 188
  { srcSpace := sp, dstSpace := dp
    src := if sp = 0 then wbits w 170 152 else wbits w 187 152
    dst := if dp = 0 then wbits w 134 116 else wbits w 151 116
    run := wbits w 115 104 + 1, c1 := wbits w 103 96 + 1, c2 := wbits w 95 88 + 1
    srcUnit := unitBytes (wbits w 87 86), dstUnit := unitBytes (wbits w 43 42)
    s1 := toInt 14 (wbits w 85 72), s2 := toInt 14 (wbits w 71 58), s3 := toInt 14 (wbits w 57 44)
    d1 := toInt 14 (wbits w 41 28), d2 := toInt 14 (wbits w 27 14), d3 := toInt 14 (wbits w 13 0) }

/-- Address of the index list of GATHER and of SCATTER (R280). -/
def gatherIdx (w : BitVec 256) : Nat := wbits w 62 44
def scatterIdx (w : BitVec 256) : Nat := wbits w 18 0

/-- Source and destination byte offsets of the runs of a word, in the order of R285. In the program store the
destination is counted in bytes from 32 × DST_ADDR. Marks (DEDUCED 214). -/
def moverRuns (m : Mover) (rep : Nat) : List (Int × Int) :=
  let d0 : Int := if m.dstSpace = 2 then 32 * m.dst else m.dst
  (List.range rep).flatMap (fun (i3 : Nat) => (List.range m.c2).flatMap (fun (i2 : Nat) =>
    (List.range m.c1).map (fun (i1 : Nat) =>
    let x1 : Int := i1
    let x2 : Int := i2
    let x3 : Int := i3
    ((m.src : Int) + (x1 * m.s1 + x2 * m.s2 + x3 * m.s3) * m.srcUnit,
     d0 + (x1 * m.d1 + x2 * m.d2 + x3 * m.d3) * m.dstUnit))))

/-! ## The fabric-port and flag bodies (Tables 11-5 and 11-6) -/

structure Port where
  peer   : Nat
  ptype  : Nat
  flow   : Nat
  order  : Bool
  buf    : Nat
  len    : Nat
  tsw0   : Nat
  tsw1   : Nat
  rxFlag : Nat
  aux    : Nat

def portWord (w : BitVec 256) : Port :=
  { peer := wbits w 191 172, ptype := wbits w 171 164, flow := wbits w 163 148, order := w.getLsbD 147
    buf := wbits w 146 128, len := wbits w 127 107, tsw0 := wbits w 106 75, tsw1 := wbits w 74 43
    rxFlag := wbits w 42 37, aux := wbits w 36 18 }

def flFlag (w : BitVec 256) : Nat := wbits w 191 186
def flValue (w : BitVec 256) : Nat := wbits w 185 170
def flDelta (w : BitVec 256) : Nat := wbits w 169 138

/-! ## Operands in the Pantry (R284) -/

/-- Bytes of a Pantry (R261). -/
def pantrySize : Nat := 0x60000

/-- A strided operand: `rows` rows of `per` packed elements. -/
structure Operand where
  fmt    : Nat
  base   : Nat
  stride : Nat
  rows   : Nat
  per    : Nat

def Operand.elem (o : Operand) : Nat := elemOf o.fmt
def Operand.rowBytes (o : Operand) : Nat := packedLen (elemBits o.elem) o.per
def Operand.rowAt (o : Operand) (r : Nat) : Nat := o.base + r * o.stride
/-- One past the last element byte. -/
def Operand.stop (o : Operand) : Nat := o.rowAt (o.rows - 1) + o.rowBytes
/-- The scale string lies at the first line boundary after the last element byte. -/
def Operand.scaleAt (o : Operand) : Nat := (o.stop + 63) / 64 * 64
def Operand.scales (o : Operand) : Nat := if isScaled o.fmt then (o.rows * o.per + 31) / 32 else 0
/-- The byte ranges of an operand. -/
def Operand.ranges (o : Operand) : List (Nat × Nat) :=
  (List.range o.rows).map (fun r => (o.rowAt r, o.rowBytes)) ++
  (if isScaled o.fmt then [(o.scaleAt, o.scales)] else [])

/-- Element codes of a row. -/
def Operand.codes (o : Operand) (m : Memory) (r : Nat) : List Nat :=
  unpack (elemBits o.elem) o.per (Memory.readN m (o.rowAt r) o.rowBytes)

/-- The scale byte of element i of the walk; 127 where the operand is not scaled. -/
def Operand.scaleOf (o : Operand) (m : Memory) (i : Nat) : Nat :=
  if isScaled o.fmt then (Memory.read m (o.scaleAt + i / 32)).toNat else 127

/-- An element with its block scale: its value (R177). -/
def elemVal (fmt scale code : Nat) : Val := withScale scale (decode (elemOf fmt) (isScaled fmt) code)

/-- Row r of an operand as codes with their scale bytes. -/
def Operand.row (o : Operand) (m : Memory) (r : Nat) : List (Nat × Nat) :=
  (o.codes m r).zipIdx.map (fun e => (e.1, o.scaleOf m (r * o.per + e.2)))

/-- Row r as values. -/
def Operand.vals (o : Operand) (m : Memory) (r : Nat) : List Val := (o.row m r).map (fun e => elemVal o.fmt e.2 e.1)

/-- hi and lo of an element for multi-pass products (R181): a pair supplies its sum and error words. -/
def hiLo (fmt : Nat) (e : Nat × Nat) : Val × Val :=
  if elemOf fmt = 12 then (decode 0 false (e.1 / 65536), decode 0 false (e.1 % 65536))
  else let x := split8 (elemVal fmt e.2 e.1); (x.1, x.2.1)

/-- The operands of a compute word. -/
def Compute.opA (c : Compute) (rep : Nat) (mx : Bool) : Operand :=
  { fmt := c.fmtA, base := c.aBase, stride := c.aStride, rows := rep, per := if mx then c.k else 64 * c.run }
def Compute.opB (c : Compute) (rep : Nat) (mx : Bool) : Operand :=
  { fmt := c.fmtB, base := c.bBase, stride := c.bStride, rows := if mx then c.k else rep
    per := if mx then c.n else 64 * c.run }
/-- The output format: error-compensated output is written as BF16 pairs (R183). -/
def Compute.outFmt (c : Compute) : Nat := if c.ecomp then 12 else c.fmtD
def Compute.opD (c : Compute) (rep per : Nat) : Operand :=
  { fmt := c.outFmt, base := c.dBase, stride := c.dStride, rows := rep, per := per }

/-! ## Operands of a word -/

/-- Operands that a vector operation reads beside A. -/
def vxReadsB (op : Nat) : Bool := op ≤ 5
def vxReadsD (op : Nat) : Bool := op == 3

def usesB (w : BitVec 256) : Bool := isOp .mx 0 w || isOp .mx 1 w || (engineNamed w == some .vx && vxReadsB (wOp w))
def isMx (w : BitVec 256) : Bool := engineNamed w == some .mx
def isVx (w : BitVec 256) : Bool := engineNamed w == some .vx
def isSplit (w : BitVec 256) : Bool := isOp .vx 11 w

/-- Operands A, B and D of a compute word as the Pantry holds them. -/
def opA (w : BitVec 256) : Operand := (compute w).opA (wRepeat w) (isMx w)
def opB (w : BitVec 256) : Operand := (compute w).opB (wRepeat w) (isMx w)
def opD (w : BitVec 256) : Operand :=
  let x := compute w
  let per := if isMx w then x.n else if isOp .vx 8 w || isOp .vx 9 w then x.run else 64 * x.run
  if isSplit w then { fmt := 0, base := x.dBase, stride := x.dStride, rows := wRepeat w, per := per }
  else x.opD (wRepeat w) per
/-- The lo and lo2 outputs of SPLIT. -/
def splitOuts (w : BitVec 256) : List Operand :=
  let x := compute w
  let per := 64 * x.run
  if isSplit w then
    [{ fmt := 0, base := x.bBase, stride := x.bStride, rows := wRepeat w, per := per },
     { fmt := 0, base := x.histAddr, stride := 2 * per, rows := wRepeat w, per := per }]
  else []

/-- Shape of a chunk's data by its bytes (Table 6-2): packets, bytes of each, scale bytes. -/
def chunkShape (n : Nat) : Nat × Nat × Nat :=
  if n = 262144 then (64, 4096, 0) else if n = 24576 then (8, 3072, 1024) else ((n + 4095) / 4096, 4096, 1024)

/-! ## Accesses to the Pantry (R262, R263) -/

/-- Lines that a byte span touches. -/
def linesOf (a n : Nat) : List Nat := if n = 0 then [] else (List.range ((a + n - 1) / 64 + 1 - a / 64)).map (a / 64 + ·)

/-- Lines of an operand's rows, each row in its own cycle. -/
def rowCycles (o : Operand) : List (List Nat) := (List.range o.rows).map (fun r => linesOf (o.rowAt r) o.rowBytes)

/-- Lines of an operand that is read once through, one line a cycle. -/
def onceCycles (o : Operand) : List (List Nat) :=
  ((List.range o.rows).flatMap (fun r => linesOf (o.rowAt r) o.rowBytes)).eraseDups.map (fun l => [l])

/-- The scale string of an operand, one line a cycle. -/
def scaleCycles (o : Operand) : List (List Nat) :=
  if isScaled o.fmt then (linesOf o.scaleAt o.scales).map (fun l => [l]) else []

/-- Lines of group g of 64 lanes in run r of a vector operand. -/
def groupLines (o : Operand) (r g : Nat) : List Nat :=
  let b := elemBits o.elem
  linesOf (o.rowAt r + 64 * g * b / 8) (8 * b)

/-- A byte string moved in steps of `n` bytes: lines of each step at one address. -/
def stepCycles (n a len : Nat) : List (List Nat) :=
  (List.range ((len + n - 1) / n)).map (fun i => linesOf (a + n * i) (min n (len - n * i)))

/-- Line accesses of a word, cycle by cycle, as the verifier counts them (R262, R263). -/
def accesses (w : BitVec 256) : List (List Nat) :=
  let x := compute w
  let rep := wRepeat w
  match engineNamed w with
  | some .mx =>
    let p := if x.passes = 0 then 1 else x.passes
    (List.replicate p (rowCycles (opA w))).flatten ++
    (if wOp w = 0 then (List.replicate (if x.passes = 3 then 2 else 1) (onceCycles (opB w))).flatten else []) ++
    (if x.acc then rowCycles (opD w) else []) ++ rowCycles (opD w) ++
    scaleCycles (opA w) ++ (if wOp w = 0 then scaleCycles (opB w) else []) ++ scaleCycles (opD w)
  | some .vx =>
    let reduce := wOp w = 8 || wOp w = 9
    let d := opD w
    let group := fun (r g : Nat) =>
      groupLines (opA w) r g ++ (if usesB w then groupLines (opB w) r g else []) ++
      (if vxReadsD (wOp w) then groupLines d r g else []) ++
      (if reduce then linesOf (d.rowAt r + g * elemBits d.elem / 8) ((elemBits d.elem + 7) / 8) else groupLines d r g) ++
      (splitOuts w).flatMap (fun o => groupLines o r g)
    (List.range rep).flatMap (fun r => (List.range x.run).map (group r)) ++
    scaleCycles (opA w) ++ (if usesB w then scaleCycles (opB w) else []) ++ scaleCycles d
  | some .mv =>
    let m := mover w
    let n := if wOp w = 1 || wOp w = 5 then 32 else 64
    let runs := if wOp w = 2 then (List.range rep).map (fun (i : Nat) => ((m.src : Int), (m.dst : Int) + i * m.run))
      else if wOp w = 3 then (List.range rep).map (fun (i : Nat) => ((m.src : Int) + i * m.run, (m.dst : Int)))
      else moverRuns m rep
    (if wOp w = 2 then stepCycles 64 (gatherIdx w) (4 * rep) else if wOp w = 3 then stepCycles 64 (scatterIdx w) (4 * rep)
     else if wOp w = 4 then stepCycles 64 m.src 8 else []) ++
    runs.flatMap (fun r =>
      let a := if m.srcSpace = 0 && wOp w != 4 then stepCycles n r.1.toNat m.run else []
      let b := if m.dstSpace = 0 then stepCycles n r.2.toNat m.run else []
      (List.range ((m.run + n - 1) / n)).map (fun i => a.getD i [] ++ b.getD i []))
  | some .fp =>
    let p := portWord w
    if wOp w = 1 then [] else
    stepCycles 64 p.buf p.len ++
    (if wOp w = 3 then stepCycles 64 p.aux ((chunkShape (p.len / max 1 rep)).2.2 * rep) else [])
  | _ => []

/-! ## Streaming and loading of the array (R258) -/

/-- Streaming time of an MX word: M × ws × P. -/
def mxStream (w : BitVec 256) : Nat :=
  let x := compute w
  let ws := if x.passes != 0 then 8 else if streamsA x then sigWidth x.fmtA else sigWidth x.fmtB
  wRepeat w * ws * (if x.passes = 0 then 1 else x.passes)

/-- Cycles of a resident load (R258). -/
def mxLoadTime (w : BitVec 256) : Nat :=
  let x := compute w
  let b := elemBits (elemOf (if streamsA x then x.fmtB else x.fmtA))
  (x.k * x.n * b + 511) / 512 * (if x.passes = 3 then 2 else 1)

/-- The unhidden resident load after the previous MX word. -/
def mxUnhidden (last : Option (BitVec 256)) (w : BitVec 256) : Nat :=
  if wOp w = 1 then 0
  else match last with
    | none => mxLoadTime w
    | some l => if (compute l).passes = 3 then mxLoadTime w else mxLoadTime w - mxStream l

end Sys2Proof.Machine
end

