-- ==== Sys2Proof/Machine/Crofts.lean ====
section
/-! DEFINITION. Machine/Crofts.lean: how Crofts issue, run and retire their words
(10_crofts_and_bit_serial_arrays.md, 11_control_words_images_verifier.md R277-R303). -/

namespace Sys2Proof.Machine

/-! ## Flags (R288, R289) -/

/-- A local flag of a physical Croft. -/
def State.flag (s : State) (k i : Nat) : Nat := Tab.look 0 (s.croft k).flags i

/-- A Tract flag. -/
def State.tflag (s : State) (t i : Nat) : Nat := Tab.look 0 s.crf.tflags (16 * t + i)

/-- A sum held between 0 and 0xFFFF. -/
def satFlag (v : Nat) (d : Int) : Nat := min 0xFFFF ((v : Int) + d).toNat

def addFlag (k i : Nat) (d : Int) (s : State) : State :=
  let gt := s.bel.gt
  s.modCroft k (fun c => c.putFlag gt i (satFlag (Tab.look 0 c.flags i) d))
def setFlag (k i v : Nat) (s : State) : State :=
  let gt := s.bel.gt
  s.modCroft k (fun c => c.putFlag gt i v)
def addTflag (t i : Nat) (d : Int) (s : State) : State :=
  let gt := s.bel.gt
  s.modCrf (fun c => c.putTflag gt (16 * t + i) (satFlag (Tab.look 0 c.tflags (16 * t + i)) d))

/-- A word's wait is met (R288). -/
def State.waitMet (s : State) (k : Nat) (w : BitVec 256) : Bool :=
  !wWaitEn w || wWaitCount w ≤ (if wWaitTract w then s.tflag (k / 136) (wWaitFlag w) else s.flag k (wWaitFlag w))

/-- The signal of a word that retires (R287). -/
def signalWord (k : Nat) (w : BitVec 256) (s : State) : State :=
  if !wSigEn w then s
  else if wSigTract w then addTflag (k / 136) (wSigFlag w) 1 s else addFlag k (wSigFlag w) 1 s

/-! ## Pantry and program store with their code (R261, R356) -/

/-- Keys of code words: 8 bytes of the Pantry, or one word of the program store. -/
def storeKey (i : Nat) : Nat := 0x100000 + i
def keyAddr (key : Nat) : Nat := if 0x100000 ≤ key then key - 0x100000 else 8 * key

/-- An armed injection on a Croft acts on its next write. Marks (DEDUCED 217). -/
def eccMark (k key : Nat) (s : State) : State :=
  if !s.armedFor 0 (unitCroft k) then s
  else
    let width := (s.flt.armed.getD {}).width
    let s := useInjection false s
    if width ≤ 1 then s.modCroft k (fun c => { c with softWords := insertUp key c.softWords })
    else s.modCroft k (fun c => { c with badWords := insertUp key c.badWords })

/-- Write bytes to a Pantry; addresses from 0x6_0000 on do not exist. -/
def pantryPut (k a : Nat) (bs : Bytes) (s : State) : State :=
  let bs := bs.take (pantrySize - a)
  if bs.isEmpty then s
  else
    let keep := fun (key : Nat) => !(a ≤ 8 * key && 8 * key + 8 ≤ a + bs.length)
    eccMark k (a / 8) (s.modCroft k (fun c => { c with
      pantry := Memory.writeN c.pantry a bs, softWords := c.softWords.filter keep, badWords := c.badWords.filter keep }))

/-- Write a word of the program store, which is a ring of 2,048 words (R291). -/
def storePut (k i : Nat) (w : BitVec 256) (s : State) : State :=
  let i := i % 2048
  let keep := fun (key : Nat) => key != storeKey i
  eccMark k (storeKey i) (s.modCroft k (fun c => { c with
    store := Tab.put 0 c.store i w, softWords := c.softWords.filter keep, badWords := c.badWords.filter keep }))

/-- A Croft's word fails: the fault is recorded, the Croft is fenced and stops at once (Table 14-4). -/
def failWord (k source access addr : Nat) (s : State) : State :=
  fenceCroft k (recordFault { source := source, unit := unitCroft k, cls := 2, access := access, addr := addr
                              inj := true, fenced := true } s)

/-- A read of code words: corrected ones are recorded and written back, an uncorrectable one fails the word. -/
def checkKeys (k : Nat) (hit : Nat → Bool) (s : State) : Bool × State :=
  match (s.croft k).badWords.find? hit with
  | some key => (false, failWord k 0x0702 1 (keyAddr key) s)
  | none =>
    let soft := (s.croft k).softWords.filter hit
    let s := soft.foldl (fun s key => recordFault {
      source := 0x0701, unit := unitCroft k, cls := 1, access := 1, addr := keyAddr key, inj := true } s) s
    (true, s.modCroft k (fun c => { c with softWords := c.softWords.filter (fun x => !hit x) }))

/-- A read of byte ranges of the Pantry. -/
def checkRanges (k : Nat) (rs : List (Nat × Nat)) (s : State) : Bool × State :=
  checkKeys k (fun key => rs.any (fun r => 0 < r.2 && r.1 / 8 ≤ key && key ≤ (r.1 + r.2 - 1) / 8)) s

/-! ## Queues (R286, R287) -/

def Croft.queue (c : Croft) : Engine → List QWord
  | .mx => c.mx | .vx => c.vx | .mv => c.mv | .fp => c.fp | .fl => c.fl

def Croft.setQueue (c : Croft) (e : Engine) (q : List QWord) : Croft :=
  match e with
  | .mx => { c with mx := q } | .vx => { c with vx := q } | .mv => { c with mv := q }
  | .fp => { c with fp := q } | .fl => { c with fl := q }

/-- Unretired words. -/
def Croft.unretired (c : Croft) : List QWord := c.mx ++ c.vx ++ c.mv ++ c.fp ++ c.fl

/-- The word that an engine may start next (Table 11-8): MX and VX words overlap the end of the word before. -/
def Croft.next (c : Croft) (e : Engine) : Option QWord :=
  match e with
  | .mx => c.mx.find? (fun q => !q.done)
  | .vx => c.vx.find? (fun q => !q.done)
  | e => (c.queue e).head?.filter (fun q => !q.done)

/-- The first word that has not started is marked as started. Marks (DEDUCED 207). -/
def markDone : List QWord → List QWord
  | [] => []
  | q :: r => if q.done then q :: markDone r else { q with done := true } :: r

/-- A Croft works: it is not fenced, nor stopped by a reset's capsule, nor paused by a quiesce of its Tract (R220), and
the device is not in the fatal state. -/
def State.works (s : State) (k : Nat) : Bool :=
  !s.isFatal && !(s.croft k).fenced && !s.crf.halted && !(s.tract (k / 136)).quiesce

/-- The next word of an engine of a logical Croft starts, where it is of an operation and its wait is met; `f` gives
its effect and whether it went ahead. -/
def startWord (c : Nat) (e : Engine) (op : Nat) (f : Nat → QWord → State → Bool × State) (s : State) : State :=
  match s.physOf c with
  | none => s
  | some k =>
    if !s.works k then s
    else match (s.croft k).next e with
      | none => s
      | some q =>
        if isOp e op q.word && s.waitMet k q.word then
          let (went, s) := f k q s
          let gt := s.bel.gt
          if went then s.modCroft k (fun x => { x.setQueue e (markDone (x.queue e)) with busyGt := gt }) else s
        else s

/-- Word position as verifier and records name it (R299). -/
def State.wordPos (s : State) (c k : Nat) (q : QWord) : Nat :=
  c * 2 ^ 20 + (((s.croft k).prog.map (·.index)).getD 0) * 2 ^ 16 + q.pos

/-- Words of other engines under way. -/
def Croft.rivals (c : Croft) (e : Engine) : List (BitVec 256) :=
  ([Engine.mx, .vx, .mv, .fp].filter (· != e)).flatMap (fun o => ((c.queue o).filter (·.done)).map (·.word))

/-- The bank of a line of the Pantry (R261). -/
def pantryBank (line : Nat) : Nat := line / 2048 * 8 + line % 8

/-- Accesses in banks that other accesses use too. -/
def contested (mine theirs : List Nat) : Nat :=
  let banks := (theirs.map pantryBank).eraseDups
  (mine.filter (fun l => banks.contains (pantryBank l))).length

/-- Cycles lost to bank conflicts between accesses that begin and the words of other engines under way (R262): at most 3 for
each access in a bank that both use. Which request has waited longest is a matter of cycles below a GT: how many are lost is a
free value up to that bound. Marks (DESIGN CHOICE 218). -/
def conflicts (k : Nat) (e : Engine) (mine : List Nat) (s : State) : State :=
  let rivals := (s.croft k).rivals e
  if rivals.isEmpty then s
  else
    let theirs := rivals.flatMap (fun w => (accesses w).flatten)
    let n := 3 * (contested mine theirs + contested theirs mine)
    if n = 0 then s
    else
      let (v, s) := s.draw
      s.modCroft k (fun c => { c with conflict := satAdd 0xFFFFFFFF c.conflict (v.toNat % (n + 1)) })

/-- A word's own accesses meet those of the words under way. -/
def wordConflicts (k : Nat) (e : Engine) (w : BitVec 256) (s : State) : State :=
  if ((s.croft k).rivals e).isEmpty then s else conflicts k e (accesses w).flatten s

/-- The fabric port writes received bytes to the Pantry. -/
def portPut (k a : Nat) (bs : Bytes) (s : State) : State := pantryPut k a bs (conflicts k .fp (linesOf a bs.length) s)

/-! ## Outputs of compute words (R183-R190, R284) -/

/-- What a compute word reads and writes, and the conditions it raises. -/
structure Effect where
  reads     : List (Nat × Nat) := []
  writes    : List (Nat × Bytes) := []
  overflow  : Bool := false
  invalid   : Bool := false
  nonfinite : Bool := false
  histSat   : Bool := false
  ovf       : Nat := 0

/-- The conversion of a word: format, mode and the mixer's inputs (R188). -/
structure Rounder where
  fmt   : Nat
  mode  : Nat
  sat   : Bool
  seed  : Nat
  step  : Nat
  id    : Nat
  unit  : Nat
  base  : Nat

def Rounder.bits (r : Rounder) (i : Nat) : Nat :=
  if r.mode = 4 then mixer r.seed r.step r.id r.unit ((r.base + i) % 2 ^ 32) else 0

/-- A BF16 pair (R183): the sum is a conversion to BF16, to nearest, with the word's SAT (R186). -/
def pairConv (sat : Bool) (v : Val) : Conv :=
  let sum := convertCroft 0 false 0 0 sat 0 v
  let back := decode 0 false sum.code
  let err := roundIeee 0 (v.add back.neg)
  { sum with code := sum.code * 65536 + err, nonfinite := !back.isFin }

/-- Elements from index i on, each with its scale byte. -/
def Rounder.plain (r : Rounder) (i : Nat) (vs : List Val) : List (Conv × Nat) :=
  vs.zipIdx.map (fun e =>
    (if elemOf r.fmt = 12 then pairConv r.sat e.1
     else convertCroft (elemOf r.fmt) false 0 r.mode r.sat (r.bits (i + e.2)) e.1, 127))

/-- A block of 32 of a scaled output (R186). -/
def Rounder.block (r : Rounder) (i : Nat) (vs : List Val) : List (Conv × Nat) :=
  let sg := blockScale (elemOf r.fmt) 0 vs
  let cs := vs.zipIdx.map (fun e => convertCroft (elemOf r.fmt) true sg r.mode r.sat (r.bits (i + e.2)) e.1)
  if cs.any (·.nanBlock) then cs.map (fun c => ({ c with code := 0, nonfinite := true }, 255))
  else cs.map (fun c => (c, (sg + 127).toNat))

/-- The converted elements of an output sequence. -/
def Rounder.run (r : Rounder) (vs : List Val) : List (Conv × Nat) :=
  if isScaled r.fmt then
    ((by32 ((vs.length + 31) / 32) vs).zipIdx.map (fun e => r.block (32 * e.2) e.1)).flatten
  else r.plain 0 vs

/-- Consecutive groups of n. -/
def chunksOf {α : Type} (n : Nat) : Nat → List α → List (List α)
  | 0, _ => []
  | k + 1, l => l.take n :: chunksOf n k (l.drop n)

/-- The bytes that an output writes, row by row, then its scale string. -/
def outWrites (o : Operand) (cs : List (Conv × Nat)) : List (Nat × Bytes) :=
  let rows := (chunksOf o.per o.rows cs).zipIdx.map (fun e =>
    (o.rowAt e.2, pack (elemBits o.elem) (e.1.map (·.1.code))))
  if isScaled o.fmt then
    rows ++ [(o.scaleAt, (by32 o.scales cs).map (fun b => BitVec.ofNat 8 ((b.headD ({}, 0)).2)))]
  else rows

/-- An output as an effect. -/
def outEffect (o : Operand) (cs : List (Conv × Nat)) : Effect :=
  let blocks := if isScaled o.fmt then ((by32 o.scales cs).filter (·.any (·.1.overflow))).length else 0
  { writes := outWrites o cs, overflow := cs.any (·.1.overflow), invalid := cs.any (·.1.invalid)
    nonfinite := cs.any (·.1.nonfinite), ovf := blocks }

/-- The histogram of an output added to its counters (R189, R190). -/
def histEffect (m : Memory) (addr : Nat) (b : Int) (fmt : Nat) (cs : List (Conv × Nat)) : Effect :=
  let bins := cs.map (fun e => histBin b (elemVal fmt e.2 e.1.code))
  let sums := (List.range 40).map (fun i => beNat (Memory.readN m (addr + 4 * i) 4) + (bins.filter (· == i)).length)
  { reads := [(addr, 160)], writes := [(addr, sums.flatMap (fun n => beBytes 4 (min 0xFFFFFFFF n)))]
    histSat := sums.any (0xFFFFFFFF ≤ ·) }

/-- Two effects of one word. -/
def Effect.also (a b : Effect) : Effect :=
  { reads := a.reads ++ b.reads, writes := a.writes ++ b.writes, overflow := a.overflow || b.overflow
    invalid := a.invalid || b.invalid, nonfinite := a.nonfinite || b.nonfinite, histSat := a.histSat || b.histSat
    ovf := a.ovf + b.ovf }

/-- A word's effect takes place, unless an uncorrectable word of the Pantry fails it. -/
def applyEffect (k : Nat) (e : Effect) (s : State) : Bool × State :=
  let (ok, s) := checkRanges k e.reads s
  if !ok then (true, s)
  else
    let s := e.writes.foldl (fun s w => pantryPut k w.1 w.2 s) s
    (true, s.modCroft k (fun c => { c with
      ovfBlocks := satAdd 0xFFFF c.ovfBlocks e.ovf, overflow := c.overflow || e.overflow
      invalid := c.invalid || e.invalid, nonfinite := c.nonfinite || e.nonfinite, histSat := c.histSat || e.histSat }))

/-- Seed of the applied Field image (R188). -/
def State.fieldSeed (s : State) : Nat := match s.fieldBody with | some (_, b) => b.seed.toNat | none => 0

def State.rounder (s : State) (c : Nat) (q : QWord) (x : Compute) : Rounder :=
  { fmt := x.outFmt, mode := x.round, sat := x.sat, seed := s.fieldSeed, step := q.step.toNat, id := x.tensor, unit := c
    base := x.elemBase }

/-- The output of a compute word with its histogram. Marks (DEDUCED 211). -/
def finish (r : Rounder) (x : Compute) (m : Memory) (o : Operand) (rows : List (List Val)) : Effect :=
  let cs := r.run rows.flatten
  let e := outEffect o cs
  if x.hist then e.also (histEffect m x.histAddr x.histB x.outFmt cs) else e

/-! ## The array (R178, R179, R181, R182, R256) -/

/-- One rounding of an accumulator; INT32 saturates. -/
def roundAcc (elem : Nat) (v : Val) : Val × Bool :=
  if elem = 8 then (rn64 v, false)
  else if elem = 9 then (rn32 v, false)
  else
    let lo := Val.ofInt (-(2 ^ 31)) 0
    let hi := Val.ofInt (2 ^ 31 - 1) 0
    if v.lt lo then (lo, true) else if hi.lt v then (hi, true) else (v, false)

/-- The terms of one output element in the order of R179: every pass over ascending k. -/
def mxTerms (x : Compute) (as bs : List (Nat × Nat)) : List Val :=
  let va := fun (e : Nat × Nat) => elemVal x.fmtA e.2 e.1
  let vb := fun (e : Nat × Nat) => elemVal x.fmtB e.2 e.1
  if x.passes = 0 then (as.zip bs).map (fun e => (va e.1).mul (vb e.2))
  else
    let sp := (as.zip bs).map (fun e =>
      let a := hiLo x.fmtA e.1
      let b := hiLo x.fmtB e.2
      if streamsA x then (a, b) else (b, a))
    let odd := fun (e : (Val × Val) × (Val × Val)) => !e.1.1.isFin || !e.2.1.isFin
    let later := sp.filter (fun e => !odd e)
    sp.map (fun e => e.1.1.mul e.2.1) ++
    (if 2 ≤ x.passes then later.map (fun e => e.1.2.mul e.2.1) else []) ++
    (if x.passes = 3 then later.map (fun e => e.1.1.mul e.2.2) else [])

/-- One output element: the chain of rounded additions. -/
def mxElement (x : Compute) (acc : Val) (as bs : List (Nat × Nat)) : Val × Bool :=
  let t := accElem x.fmtA x.fmtB
  (mxTerms x as bs).foldl (fun a v => let r := roundAcc t (a.1.add v); (r.1, a.2 || r.2)) (acc, false)

/-- Column n of a tile. -/
def Tile.col (t : Tile) (k n j : Nat) : List (Nat × Nat) :=
  (List.range k).map (fun i => (t.elems.getD (i * n + j) 0, t.scale.getD (i * n + j) 127))

/-- The tile that operand B makes resident. -/
def loadTile (x : Compute) (w : BitVec 256) (m : Memory) : Tile :=
  let b := x.opB 1 true
  let es := (List.range x.k).flatMap (fun r => b.row m r)
  { word := w, elems := es.map (·.1), scale := es.map (·.2) }

/-- An MX word streams M rows of A past a tile. Marks (DESIGN CHOICE 206). -/
def mxEffect (r : Rounder) (x : Compute) (rep : Nat) (t : Tile) (m : Memory) : Effect :=
  let a := x.opA rep true
  let o := x.opD rep x.n
  let rows := (List.range rep).map (fun i =>
    let as := a.row m i
    let old := if x.acc then o.vals m i else []
    (List.range x.n).map (fun j => mxElement x (old.getD j Val.zero) as (t.col x.k x.n j)))
  let e := finish r x m o (rows.map (·.map (·.1)))
  { e with reads := e.reads ++ a.ranges ++ (if x.acc then o.ranges else []),
           overflow := e.overflow || rows.any (·.any (·.2)) }

/-- Core cycles up to a GT: a GT is 7.2 cc (R6). -/
def ccAt (gt : Nat) : Nat := 36 * gt / 5

/-- The array's activity level once it has idled `idle` more cycles (R259): after the last bit-plane it falls by one every
4 cc. -/
def Croft.level (gt idle : Nat) (c : Croft) : Nat :=
  let rest := match c.restCc with | none => 0 | some r => ccAt gt - r
  c.lambda - min c.lambda ((rest + idle) / 4)

/-- The array ramps up for an MX word, after it has stood idle for the word's unhidden load (R258, R260); a ramp-up from level
0 is counted. -/
def rampUp (k : Nat) (w : BitVec 256) (s : State) : State :=
  let gt := s.bel.gt
  s.modCroft k (fun c => { c with
    ramp := if c.level gt (mxUnhidden c.lastMx w) = 0 then sat32 c.ramp else c.ramp
    lambda := 8, restCc := none, lastMx := some w })

/-- The array's last bit-plane ends at a core cycle, with nothing ready to stream. -/
def Croft.rest (cc : Nat) (c : Croft) : Croft := { c with restCc := some cc }

/-- Whether an injected residue or parity check fails the word (Table 14-6). -/
def checkFails (c k check : Nat) (q : QWord) (s : State) : Bool × State :=
  if s.armedFor check (unitCroft k) then (true, failWord k 0x0703 4 (s.wordPos c k q) (useInjection false s)) else (false, s)

/-- MX LOAD: B becomes the active tile, and A streams past it. Marks (DEDUCED 226). -/
def mxLoad (c k : Nat) (q : QWord) (s : State) : Bool × State :=
  let x := compute q.word
  let (bad, s) := checkFails c k 2 q s
  if bad then (true, s)
  else
    let m := (s.croft k).pantry
    let t := loadTile x q.word m
    let e := mxEffect (s.rounder c q x) x (wRepeat q.word) t m
    let s := wordConflicts k .mx q.word (rampUp k q.word (s.modCroft k (fun y => { y with
      active := some t, shadow := if x.passes = 3 then some t else y.active })))
    applyEffect k { e with reads := e.reads ++ (x.opB 1 true).ranges } s

/-- MX REUSE: A streams past the active tile; without one the word has no operand and does not start. -/
def mxReuse (c k : Nat) (q : QWord) (s : State) : Bool × State :=
  let x := compute q.word
  let (bad, s) := checkFails c k 2 q s
  if bad then (true, s)
  else match (s.croft k).active with
    | none => (false, s)
    | some t =>
      let e := mxEffect (s.rounder c q x) x (wRepeat q.word) t (s.croft k).pantry
      applyEffect k e (wordConflicts k .mx q.word (rampUp k q.word s))

/-! ## The vector unit (R180) -/

/-- Sixty-four lanes combined pairwise (Table 7-5). -/
def lanes (f : Val → Val → Val) : Nat → List Val → Val
  | 0, l => l.headD Val.zero
  | n + 1, l => lanes f n (List.zipWith f (l.take (2 ^ n)) (l.drop (2 ^ n)))

/-- One element of a lane-by-lane operation. Marks (DEDUCED 213). -/
def vxLane (op : Nat) (a b d : Val) : Val :=
  match op with
  | 0 => rn32 (a.add b)
  | 1 => rn32 (a.add b.neg)
  | 2 => rn32 (a.mul b)
  | 3 => rn32 ((a.mul b).add d)
  | 4 => rn32 (a.max b)
  | 5 => rn32 (a.min b)
  | 6 => exp32 (rn32 a)
  | 7 => recip32 (rn32 a)
  | _ => a

/-- One run of a vector word. -/
def vxRun (op : Nat) (as bs ds : List Val) : List Val :=
  let groups := chunksOf 64 (as.length / 64) as
  if op = 8 then groups.map (fun g => lanes (fun a b => rn32 (a.add b)) 6 (g.map rn32))
  else if op = 9 then groups.map (fun g => lanes Val.max 6 (g.map rn32))
  else as.zipIdx.map (fun e => vxLane op e.1 (bs.getD e.2 Val.zero) (ds.getD e.2 Val.zero))

/-- The effect of a vector word other than SPLIT. -/
def vxEffect (op : Nat) (r : Rounder) (x : Compute) (rep : Nat) (m : Memory) : Effect :=
  let a := x.opA rep false
  let b := x.opB rep false
  let per := if op = 8 || op = 9 then x.run else 64 * x.run
  let o := x.opD rep per
  let rows := (List.range rep).map (fun i =>
    vxRun op (a.vals m i) (if vxReadsB op then b.vals m i else []) (if vxReadsD op then o.vals m i else []))
  let e := finish r x m o rows
  { e with reads := e.reads ++ a.ranges ++ (if vxReadsB op then b.ranges else []) ++
                    (if vxReadsD op then o.ranges else []) }

/-- SPLIT: hi to D, lo to B, lo2 from the line HIST_ADDR on, all as BF16 (R181, R182). -/
def splitEffect (r : Rounder) (x : Compute) (rep : Nat) (m : Memory) : Effect :=
  let a := x.opA rep false
  let vs := ((List.range rep).flatMap (fun i => a.vals m i)).map split8
  let per := 64 * x.run
  let r := { r with fmt := 0 }
  let one := fun (o : Operand) (l : List Val) => outEffect o (r.run l)
  let e := one { fmt := 0, base := x.dBase, stride := x.dStride, rows := rep, per := per } (vs.map (·.1))
  let e := e.also (one { fmt := 0, base := x.bBase, stride := x.bStride, rows := rep, per := per } (vs.map (·.2.1)))
  let e := e.also (one { fmt := 0, base := x.histAddr, stride := 2 * per, rows := rep, per := per } (vs.map (·.2.2)))
  { e with reads := e.reads ++ a.ranges }

/-- A vector word. -/
def vxWord (op c k : Nat) (q : QWord) (s : State) : Bool × State :=
  let x := compute q.word
  let (bad, s) := checkFails c k 1 q s
  if bad then (true, s)
  else
    let m := (s.croft k).pantry
    let r := s.rounder c q x
    let e := if op = 11 then splitEffect r x (wRepeat q.word) m else vxEffect op r x (wRepeat q.word) m
    applyEffect k e (wordConflicts k .vx q.word s)

/-! ## The mover (R264-R266, R280, R285, R293) -/

/-- A page that Croft programs may address: the work area less the checkpoint slot, and CROFT_EXTRA (R265, R312). -/
def State.granted (s : State) (t g : Nat) : Bool := s.regionOf t g = .work && !(0x7000 ≤ g && g < 0x8000)

/-- Read one run: bytes outside the Pantry, or of pages that are not granted, are open. Marks (DESIGN CHOICE 215). -/
def moverRead (k space : Nat) (off : Int) (n : Nat) (s : State) : Option Bytes × State :=
  let o := off.toNat
  let t := k / 136
  if space = 0 then
    if 0 ≤ off && o + n ≤ pantrySize then (some (Memory.readN (s.croft k).pantry o n), s)
    else let (b, s) := s.drawBytes n; (some b, s)
  else if 0 ≤ off && s.granted t (o / 65536) && s.granted t ((o + n - 1) / 65536) then readStack t o n s
  else let (b, s) := s.drawBytes n; (some b, s)

/-- The 32-byte words of a string. -/
def words32 : Nat → Bytes → List (BitVec 256)
  | 0, _ => []
  | n + 1, bs => BitVec.ofNat 256 (beNat (slice bs 0 32)) :: words32 n (bs.drop 32)

/-- Write one run; what lies outside the Pantry or the granted pages is not written. -/
def moverWrite (k space : Nat) (off : Int) (bs : Bytes) (s : State) : State :=
  let o := off.toNat
  let t := k / 136
  if off < 0 then s
  else if space = 0 then pantryPut k o bs s
  else if space = 1 then
    if s.granted t (o / 65536) && s.granted t ((o + bs.length - 1) / 65536) then cellWrite t o bs s else s
  else (words32 (bs.length / 32) bs).zipIdx.foldl (fun s e => storePut k (o / 32 + e.2) e.1 s) s

/-- A Croft stops: its queued words are discarded and it starts again at the next mark. Marks (DEDUCED 216). -/
def stopCroft (k : Nat) (s : State) : State :=
  let gt := s.bel.gt
  s.modCroft k (fun c =>
    let c := if c.mx.any (·.done) then c.rest (ccAt gt) else c
    { c with mx := [], vx := [], mv := [], fp := [], fl := [], prog := none })

/-- Move runs of n bytes one after the other (R285); an uncorrectable word of a source ends the moving. -/
def moveEach (k : Nat) (m : Mover) (n : Nat) : List (Int × Int) → State → State
  | [], s => s
  | r :: rest, s =>
    let mine := if m.srcSpace = 0 && decide (0 ≤ r.1) then [(r.1.toNat, n)] else []
    let (ok, s) := checkRanges k mine s
    if !ok then s
    else match moverRead k m.srcSpace r.1 n s with
      | (none, s) => stopCroft k s
      | (some b, s) => moveEach k m n rest (moverWrite k m.dstSpace r.2 b s)

/-- Move runs of n bytes for a word. `idx` is the index list, if the word reads one. -/
def moveRuns (k : Nat) (w : BitVec 256) (n : Nat) (idx : List (Nat × Nat)) (runs : List (Int × Int)) (s : State) :
    Bool × State :=
  let (ok, s) := checkRanges k idx (wordConflicts k .mv w s)
  (true, if ok then moveEach k (mover w) n runs s else s)

/-- COPY, TRANSPOSE and OVERLAY walk the runs of R285. -/
def mvWalk (k : Nat) (q : QWord) (s : State) : Bool × State :=
  let m := mover q.word
  moveRuns k q.word m.run [] (moverRuns m (wRepeat q.word)) s

/-- The 32-bit indices of a list in the Pantry. -/
def State.indices (s : State) (k a n : Nat) : List Nat :=
  (List.range n).map (fun i => beNat (Memory.readN (s.croft k).pantry (a + 4 * i) 4))

/-- GATHER: for each index, S bytes go to consecutive rows of the destination. -/
def mvGather (k : Nat) (q : QWord) (s : State) : Bool × State :=
  let m := mover q.word
  let rep := wRepeat q.word
  let is := s.indices k (gatherIdx q.word) rep
  let run := fun (e : Nat × Nat) => ((m.src : Int) + (e.1 : Int) * (m.s1 * m.srcUnit), (m.dst : Int) + (e.2 * m.run : Nat))
  moveRuns k q.word m.run [(gatherIdx q.word, 4 * rep)] (is.zipIdx.map run) s

/-- SCATTER: the inverse; a later index overwrites an earlier one. -/
def mvScatter (k : Nat) (q : QWord) (s : State) : Bool × State :=
  let m := mover q.word
  let rep := wRepeat q.word
  let is := s.indices k (scatterIdx q.word) rep
  let run := fun (e : Nat × Nat) => ((m.src : Int) + (e.2 * m.run : Nat), (m.dst : Int) + (e.1 : Int) * (m.d1 * m.dstUnit))
  moveRuns k q.word m.run [(scatterIdx q.word, 4 * rep)] (is.zipIdx.map run) s

/-- FILL: the 8 bytes at SRC_ADDR are written over every run. -/
def mvFill (k : Nat) (q : QWord) (s : State) : Bool × State :=
  let m := mover q.word
  let (ok, s) := checkRanges k [(m.src, 8)] (wordConflicts k .mv q.word s)
  if !ok then (true, s)
  else
    let pat := Memory.readN (s.croft k).pantry m.src 8
    let bs := (List.range m.run).map (fun i => pat.getD (i % 8) 0)
    (true, (moverRuns m (wRepeat q.word)).foldl (fun s r => moverWrite k m.dstSpace r.2 bs s) s)

/-! ## The fabric port (R268-R270, R281) -/

/-- A packet that a Croft sends: the service EID of its device, its Field and key (R268). -/
def State.croftPacket (s : State) (x : Port) (cls : Nat) (order : Bool) (tsw1 : Nat) (body : Bytes) : Packet :=
  let f := s.home
  { dst := BitVec.ofNat 20 x.peer, cls := BitVec.ofNat 3 cls, field := BitVec.ofNat 6 ((f.map (·.id)).getD 0)
    src := BitVec.ofNat 20 (cellarEid s.devIndex), order := order, pkey := (f.map s.keyOf).getD 0
    len := BitVec.ofNat 13 body.length, ptype := BitVec.ofNat 8 x.ptype, flow := BitVec.ofNat 16 x.flow
    tsw0 := BitVec.ofNat 32 x.tsw0, tsw1 := BitVec.ofNat 32 tsw1, payload := body }

/-- What a Croft may send, and where (R268). -/
def State.mayCroftSend (s : State) (p : Packet) : Bool :=
  let d := p.dst.toNat
  let kind := if p.cls == 5 then decide (d < 0x10000) else if p.cls == 3 then decide (0xF4000 ≤ d)
              else decide (0xF0000 ≤ d && d < 0xF4000)
  kind && formOk p && (match s.home with | some e => s.destInField e p | none => false)

/-- Send a packet through a Croft's Cellar port, or discard it there as a stranger. -/
def croftSend (c : Nat) (p : Packet) (s : State) : State :=
  let slot := cellarSlotOfCroft c
  if s.mayCroftSend p then inject slot p s else countStranger slot s

/-- Pieces of a message of at most 4,096 bytes. -/
def pieces (bs : Bytes) : List Bytes := chunksOf 4096 ((bs.length + 4095) / 4096) bs

/-- FP SEND: a DATA message or an attention request. Marks (DEDUCED 219). -/
def fpSend (c k : Nat) (q : QWord) (s : State) : Bool × State :=
  let x := portWord q.word
  let (ok, s) := checkRanges k [(x.buf, x.len)] (wordConflicts k .fp q.word s)
  if !ok then (true, s)
  else
    let ps := pieces (Memory.readN (s.croft k).pantry x.buf x.len)
    let req := x.ptype != 0x40
    let tag := (x.tsw1 >>> 16) % 16
    let tsw1 := fun (i : Nat) =>
      if req then c * 2 ^ 20 + tag * 2 ^ 16 + i * 2 ^ 8 + (ps.length - 1) else x.tsw1
    let s := ps.zipIdx.foldl (fun s e =>
      croftSend c (s.croftPacket x (if req then 3 else 5) (x.order && e.2 == 0) (tsw1 e.2) e.1) s) s
    (true, if req then s.modCroft k (fun y => { y with requests := insertUp tag y.requests }) else s)

/-- FP POST: a receive is posted; at the limit the queue is held (R290). -/
def fpPost (k : Nat) (q : QWord) (s : State) : Bool × State :=
  let x := portWord q.word
  let resp := x.ptype == 0x30
  let lim := if resp then 16 else 32
  if lim ≤ ((s.croft k).posts.filter (·.response == resp)).length then (false, s)
  else
    let p : Post := { response := resp, tag := if resp then (x.tsw1 >>> 16) % 16 else x.tsw0 >>> 16
                      buf := x.buf, len := x.len, flag := x.rxFlag }
    (true, s.modCroft k (fun y => { y with posts := y.posts ++ [p] }))

/-- The root of a Pen's tree. -/
def State.penRoot (s : State) (tag : Nat) (arrival : Bool) : Option PenNode :=
  (s.penPolicy tag).bind (fun q => (treeOf q arrival).find? (·.parent.isNone))

/-- FP PEN_OPEN: the message is sent and the Pen's result buffer posted. -/
def fpPenOpen (c k : Nat) (q : QWord) (s : State) : Bool × State :=
  let x := portWord q.word
  let (ok, s) := checkRanges k [(x.buf, x.len)] (wordConflicts k .fp q.word s)
  if !ok then (true, s)
  else
    let body := Memory.readN (s.croft k).pantry x.buf x.len
    let m := parsePenOpen body
    let tag := x.tsw0 >>> 16
    let lvl := match s.penRoot tag m.isArrival with | some n => n.level | none => 0
    let post : PenPost := { tag := tag, stepLo := (x.tsw1 >>> 4) % 256, rank := x.tsw0 % 65536, arrival := m.isArrival
                            fmt := m.outFmt lvl, chunks := m.chunks, buf := x.aux, flag := x.rxFlag }
    let s := s.modCroft k (fun y => { y with pens := y.pens ++ [post] })
    (true, (pieces body).zipIdx.foldl (fun s e =>
      croftSend c (s.croftPacket x 1 (x.order && e.2 == 0) x.tsw1 e.1) s) s)

/-- FP PEN_SEND: REPEAT chunks from CHUNK on, each as its data packets and a closing packet (R149, R169). -/
def fpPenSend (c k : Nat) (q : QWord) (s : State) : Bool × State :=
  let x := portWord q.word
  let rep := wRepeat q.word
  let per := x.len / max 1 rep
  let (np, dl, sl) := chunkShape per
  let (ok, s) := checkRanges k [(x.buf, x.len), (x.aux, sl * rep)] (wordConflicts k .fp q.word s)
  if !ok then (true, s)
  else
    let m := (s.croft k).pantry
    let first := x.tsw1 >>> 22
    let low := x.tsw1 % 2 ^ 15
    let one := fun (s : State) (i : Nat) =>
      let data := Memory.readN m (x.buf + i * per) per
      let scales := Memory.readN m (x.aux + i * sl) sl
      let t : Trailer := { crc := BitVec.ofNat 32 (crc32c (data ++ scales)), count := 1 }
      (groupsOf dl np data ++ [scales ++ trailerBytes t]).zipIdx.foldl (fun s e =>
        croftSend c (s.croftPacket x 1 (x.order && i == 0 && e.2 == 0)
          ((first + i) % 1024 * 2 ^ 22 + e.2 * 2 ^ 15 + low) e.1) s) s
    (true, (List.range rep).foldl one s)

/-! ## Receiving (R169, R269) -/

/-- Whether byte ranges cover [0, n). -/
def coversFrom (got : List (Nat × Nat)) (n : Nat) : Nat → Nat → Bool
  | 0, pos => decide (n ≤ pos)
  | f + 1, pos =>
    if n ≤ pos then true
    else match got.find? (fun r => r.1 ≤ pos && pos < r.1 + r.2) with
      | some r => coversFrom got n f (r.1 + r.2)
      | none => false
def covers (got : List (Nat × Nat)) (n : Nat) : Bool := coversFrom got n got.length 0

def countRxDrop (k : Nat) : State → State := State.modCroft k (fun c => { c with rxDrop := sat32 c.rxDrop })

/-- Replace a posted receive. -/
def setPost (old : Post) (new : Option Post) (c : Croft) : Croft :=
  let i := c.posts.idxOf old
  { c with posts := match new with | some p => setAt c.posts i p | none => c.posts.eraseIdx i }

/-- A DATA packet from an endpoint. -/
def rxData (k : Nat) (p : Packet) (s : State) : State :=
  let off := p.tsw1.toNat
  let tag := p.tsw0.toNat >>> 16
  let n := p.payload.length
  match (s.croft k).posts.find? (fun r => !r.response && r.tag == tag) with
  | none => countRxDrop k s
  | some r =>
    if r.len < off + n || (p.tsw0.toNat >>> 12) % 16 ≠ 0 then countRxDrop k s
    else
      let s := portPut k (r.buf + off) p.payload s
      let r' := { r with got := r.got ++ [(off, n)] }
      if covers r'.got r.len then addFlag k r.flag 1 (s.modCroft k (setPost r none))
      else s.modCroft k (setPost r (some r'))

/-- A packet of an attention response. Marks (DEDUCED 222). -/
def rxResponse (k : Nat) (p : Packet) (s : State) : State :=
  let tag := (p.tsw1.toNat >>> 16) % 16
  let pkt := (p.tsw1.toNat / 256) % 256
  let last := p.tsw1.toNat % 256
  let answered := fun (c : Croft) => { c with requests := c.requests.filter (· != tag) }
  match (s.croft k).posts.find? (fun r => r.response && r.tag == tag) with
  | none => (countRxDrop k s).modCroft k (fun c => if pkt = last then answered c else c)
  | some r =>
    if r.len < 4096 * pkt + p.payload.length then countRxDrop k s
    else
      let s := portPut k (r.buf + 4096 * pkt) p.payload s
      let got := if r.got.contains (pkt, 1) then r.got else r.got ++ [(pkt, 1)]
      let r' := { r with got := got, total := some (last + 1) }
      if covers r'.got (last + 1) then addFlag k r.flag 1 ((s.modCroft k (setPost r none)).modCroft k answered)
      else s.modCroft k (setPost r (some r'))

/-- Send an ACK or a RESEND of a member Croft to a device that holds the Pen's root. -/
def penReply (c : Nat) (r : PenPost) (dev ptype chunk : Nat) (body : Bytes) (s : State) : State :=
  let p := s.foldHeader (foldEid dev) ptype 1 r.tag r.rank chunk 0 0 false r.stepLo
  inject (cellarSlotOfCroft c) { p with src := BitVec.ofNat 20 (cellarEid s.devIndex), payload := body } s

def PenPost.rootDevs (r : PenPost) (s : State) : List Nat :=
  match s.penRoot r.tag r.arrival with | some n => n.devices | none => []

def PenPost.allBits (r : PenPost) : Nat := 2 ^ r.chunks - 1

/-- ACK to the root (R150, R169). -/
def penAck (c : Nat) (r : PenPost) (s : State) : State :=
  let upto := firstMissing r.chunks r.committed
  let body := beBytes 2 upto ++ [0, 0] ++ beBytes 8 ((r.committed >>> (upto + 1)) % 2 ^ 64)
  (r.rootDevs s).foldl (fun s d => penReply c r d 0x13 0 body s) s

/-- RESEND of a chunk to the device that owns it. -/
def penResend (c : Nat) (r : PenPost) (chunk : Nat) (s : State) : State :=
  let ds := r.rootDevs s
  match ds[stripeOf ds chunk]? with
  | some d => penReply c r d 0x14 chunk (List.replicate 12 0) s
  | none => s

def State.modPenPost (k : Nat) (r : PenPost) (f : PenPost → Option PenPost) (s : State) : State :=
  s.modCroft k (fun c => { c with pens := c.pens.filterMap (fun x => if x.tag == r.tag && x.stepLo == r.stepLo then f x else some x) })

/-- Bytes of the result buffer before the completion record: the data of every chunk, then their scales. -/
def PenPost.size (r : PenPost) : Nat := r.chunks * chunkBytes r.fmt

/-- The Pen is over for this member: the completion record is written and the flag raised (R281). -/
def penOver (k : Nat) (r : PenPost) (status : Nat) (s : State) : State :=
  let rec' := beBytes 1 status ++ List.replicate 7 0 ++ beBytes 8 s.bel.gt
  addFlag k r.flag 1 (portPut k (r.buf + r.size) rec' (s.modPenPost k r (fun _ => none)))

/-- The instance is complete when every chunk is committed and STATS has come with its parts (R169): they come in rising order,
parts of zeros are not sent, and the last one, LATE_PARTS, is. Marks (DEDUCED 220). -/
def penSettle (k : Nat) (r : PenPost) (s : State) : State :=
  let parts := match r.statsNeed with | some n => r.statsGot.testBit n | none => false
  if parts && r.committed == r.allBits then penOver k r 0 s else s.modPenPost k r (fun _ => some r)

/-- A RESULT packet lands in the result buffer; a chunk is committed by its good closing packet. -/
def rxResult (c k : Nat) (r : PenPost) (p : Packet) (s : State) : State :=
  let ch := penChunk p
  let pkt := penPkt p
  let np := dataPackets r.fmt
  let dl := dataLen r.fmt
  let sl := scaleLen r.fmt
  let at0 := r.buf + ch * (np * dl)
  if r.chunks ≤ ch || np < pkt then countRxDrop k s
  else if r.committed.testBit ch then s
  else if pkt < np then
    if p.payload.length ≠ dl then countRxDrop k s
    else
      let s := portPut k (at0 + pkt * dl) p.payload s
      s.modPenPost k r (fun x => some { x with data := Tab.edit 0 x.data ch (· ||| 2 ^ pkt) })
  else
    let t := parseTrailer (p.payload.drop sl)
    let scales := p.payload.take sl
    if p.payload.length ≠ sl + 16 then countRxDrop k s
    else if t.verdict ≠ vGood then s.modPenPost k r (fun x => some { x with data := Tab.put 0 x.data ch 0 })
    else
      let data := Memory.readN (s.croft k).pantry at0 (np * dl)
      if Tab.look 0 r.data ch ≠ 2 ^ np - 1 || crc32c (data ++ scales) ≠ t.crc.toNat then penResend c r ch s
      else
        let s := portPut k (r.buf + r.chunks * (np * dl) + ch * sl) scales s
        let r := { r with committed := r.committed ||| 2 ^ ch, data := Tab.put 0 r.data ch 0, sinceAck := r.sinceAck + 1 }
        if 16 ≤ r.sinceAck || r.committed = r.allBits then penSettle k { r with sinceAck := 0 } (penAck c r s)
        else penSettle k r s

/-- STATS: its parts, and a RESEND for every chunk that is not committed. -/
def rxStats (c k : Nat) (r : PenPost) (p : Packet) (s : State) : State :=
  let part := penPkt p
  let r := { r with statsGot := r.statsGot ||| 2 ^ part
                    statsNeed := if part = 0 then some (beAt p.payload 3 1) else r.statsNeed }
  let s := penSettle k r s
  if part ≠ 0 then s
  else ((List.range r.chunks).filter (fun ch => !r.committed.testBit ch)).foldl (fun s ch => penResend c r ch s) s

/-- A VC2 packet of a Pen. Marks (DESIGN CHOICE 221). -/
def rxPen (c k : Nat) (p : Packet) (s : State) : State :=
  match (s.croft k).pens.find? (fun r => r.tag == penTag p && r.stepLo == penStepLo p) with
  | none => countRxDrop k s
  | some r =>
    if p.ptype == 0x12 then rxResult c k r p s
    else if p.ptype == 0x16 then rxStats c k r p s
    else if p.ptype == 0x15 then (if penPkt p = 0 then penOver k r (beAt p.payload 0 1) s else s)
    else countRxDrop k s

/-- CROFT_RX_PACKET: a packet that the core has delivered for a Croft. Marks (DEDUCED 223). -/
def croftRx (c : Nat) (p : Packet) (s : State) : State :=
  let mine := (p.cls == 5 && p.ptype == 0x40 && p.src.toNat < 0xF0000 && p.tsw0.toNat % 4096 == c) ||
              (p.cls == 4 && p.ptype == 0x30 && p.tsw1.toNat >>> 20 == c) || p.cls == 2
  if s.isFatal || !mine then s
  else
    let s := takeInbox p s
    if packetCrc p p.payload != p.crc then s
    else match s.physOf c with
      | none => s
      | some k =>
        if (s.croft k).fenced then countFenced (cellarSlotOfCroft c) s
        else if p.cls == 5 then rxData k p s
        else if p.cls == 4 then rxResponse k p s
        else rxPen c k p s

/-! ## The flag unit (R271, R282, R290) -/

def flWord (f : Nat → QWord → State → State) (k : Nat) (q : QWord) (s : State) : Bool × State := (true, f k q s)

def flSetDo (k : Nat) (q : QWord) (s : State) : State := setFlag k (flFlag q.word) (flValue q.word) s
def flAddDo (k : Nat) (q : QWord) (s : State) : State := addFlag k (flFlag q.word) (toInt 16 (flValue q.word)) s
def flTaddDo (k : Nat) (q : QWord) (s : State) : State :=
  addTflag (k / 136) (flFlag q.word) (toInt 16 (flValue q.word)) s
/-- BARRIER: a participant arrives at the Field's open barrier. Marks (DEDUCED 224). -/
def flBarrierDo (k : Nat) (q : QWord) (s : State) : State :=
  match s.fieldBody with
  | some (f, _) => if (s.participants f).contains k then barrierArrive f k (flFlag q.word) s else s
  | none => s

/-! ## Tick programs (R286, R291, R292) -/

/-- The CROFT section of a logical Croft in the applied image. -/
def State.plan (s : State) (c : Nat) : Option CroftPlan :=
  match s.fieldBody with | some (_, b) => b.crofts.find? (·.logical == c) | none => none

/-- TICK_PROGRAM_START: at the next mark of the run that the Croft has not met. Marks (DEDUCED 209, 210). -/
def tickStart (c : Nat) (s : State) : State :=
  match s.physOf c, s.plan c with
  | some k, some pl =>
    if !s.works k || !s.crf.running || s.crf.paused || (s.croft k).attn || pl.schedule.isEmpty then s
    else
      let len := s.tickLen
      let t := max (s.croft k).entries ((s.bel.gt - s.crf.launchGt + len - 1) / len)
      let s := advanceTo (s.crf.launchGt + t * len) s
      let i := (s.crf.runsBase + t - (s.croft k).shift) % pl.schedule.length
      let gt := s.bel.gt
      let s := s.modCroft k (fun x => { x with entries := t + 1, busyGt := gt })
      if (s.croft k).prog.isSome then
        let first := !(s.croft k).overran
        let s := s.modCroft k (fun x => { x with overrun := sat32 x.overrun, overran := true })
        if first then recordFault { source := 0x0704, unit := unitCroft k, cls := 1, access := 0x0B, addr := i } s else s
      else
        let s := s.modCroft k (fun x => { x with flags := x.flags.filter (fun e => 48 ≤ e.1), lastMx := none })
        match (pl.schedule.getD i none).bind (fun n => (pl.programs[n]?).map (fun p => (n, p))) with
        | none => s
        | some (n, p) => s.modCroft k (fun x => { x with
            prog := some { index := n, next := p.entry, len := p.len }, lastProg := n * 2 ^ 28 + p.entry % 2048 })
  | _, _ => s

/-- Store words that an unretired OVERLAY word writes (R293). -/
def overlaid (q : QWord) : List Nat :=
  if isOverlay q.word then
    let m := mover q.word
    (moverRuns m (wRepeat q.word)).flatMap (fun r =>
      (List.range ((m.run + 31) / 32)).map (fun i => (r.2.toNat / 32 + i) % 2048))
  else []

/-- Whether the decoder may issue its next word, which is `w` for an engine (R286). -/
def Croft.mayIssue (c : Croft) (e : Engine) (i : Nat) : Bool :=
  (c.queue e).length < 128 && c.unretired.length < 512 && !(c.unretired.flatMap overlaid).contains i

/-- WORD_ISSUE: the decoder issues the next word; it applies a STEP word itself (R271). Marks (DEDUCED 208). -/
def wordIssue (c : Nat) (s : State) : State :=
  match s.physOf c with
  | none => s
  | some k =>
    let x := s.croft k
    match x.prog with
    | none => s
    | some g =>
      let i := g.next % 2048
      let w := Tab.look 0 x.store i
      match engineNamed w with
      | none => s
      | some e =>
        if !s.works k || g.len ≤ g.issued || !x.mayIssue e i then s
        else
          let (ok, s) := checkKeys k (· == storeKey i) s
          let gt := s.bel.gt
          if !ok then s
          else s.modCroft k (fun x =>
            let step := if isStep w then x.step + BitVec.ofNat 32 (flDelta w) else x.step
            let x := x.setQueue e (x.queue e ++ [{ word := w, pos := g.issued, step := x.step }])
            { x with step := step, busyGt := gt, lastProg := g.index * 2 ^ 28 + (i + 1) % 2048
                     prog := some { g with next := g.next + 1, issued := g.issued + 1 } })

/-- WORD_RETIRE: the word at the head of a queue retires and applies its signal (R287). An MX word's last bit-plane ended K + 8
cc before; the level falls from then on where no other MX word streams or is ready (R258, R259). -/
def wordRetire (c : Nat) (e : Engine) (s : State) : State :=
  match s.physOf c with
  | none => s
  | some k =>
    match (s.croft k).queue e with
    | [] => s
    | q :: rest =>
      if !s.works k || !(q.done || (isStep q.word && s.waitMet k q.word)) then s
      else
        let s := signalWord k q.word (s.modCroft k (fun x => x.setQueue e rest))
        let ready := match (s.croft k).next .mx with | some n => s.waitMet k n.word | none => false
        let gt := s.bel.gt
        let still := e = .mx && !ready && !rest.any (·.done)
        let s := if still then s.modCroft k (Croft.rest (ccAt gt - ((compute q.word).k + 8))) else s
        s.modCroft k (fun x =>
          let x := { x with busyGt := gt }
          match x.prog with
          | some g => if g.len ≤ g.issued && x.unretired.isEmpty then { x with prog := none } else x
          | none => x)

/-! ## The stall sentinel (R303) -/

/-- A POST that is held at the limit. -/
def Croft.heldPost (c : Croft) : Option QWord :=
  (c.next .fp).filter (fun q => isOp .fp 1 q.word &&
    (let r := (portWord q.word).ptype == 0x30
     (if r then 16 else 32) ≤ (c.posts.filter (·.response == r)).length))

/-- The flag that a waiting queue head waits on: number, and 0x100 for a Tract flag. -/
def State.waitedOn (s : State) (k : Nat) : Option Nat :=
  let c := s.croft k
  match [Engine.mx, .vx, .mv, .fp, .fl].findSome? (fun e => (c.next e).filter (fun q => !s.waitMet k q.word)) with
  | some q => some (wWaitFlag q.word + if wWaitTract q.word then 0x100 else 0)
  | none =>
    c.heldPost.map (fun q =>
      let r := (portWord q.word).ptype == 0x30
      match c.posts.find? (·.response == r) with | some p => p.flag | none => 0)

/-- The flags that waiting queue heads wait on, a Tract flag as 0x100 above its number; a held POST waits on those of the
outstanding receives (R303). -/
def State.waitsOn (s : State) (k : Nat) : List Nat :=
  let c := s.croft k
  ([Engine.mx, .vx, .mv, .fp, .fl].filterMap (fun e => (c.next e).filter (fun q => !s.waitMet k q.word))).map (fun q =>
    wWaitFlag q.word + if wWaitTract q.word then 0x100 else 0) ++
  (match c.heldPost with
   | some q => (c.posts.filter (·.response == ((portWord q.word).ptype == 0x30))).map (·.flag)
   | none => [])

/-- GT since which a Croft has been quiet: no word started, issued or retired, and no flag waited on changed (R303). -/
def State.quietSince (s : State) (k : Nat) : Nat :=
  let c := s.croft k
  ((s.waitsOn k).map (fun w =>
    if 0x100 ≤ w then Tab.look 0 s.crf.tflagGt (16 * (k / 136) + w % 0x100) else Tab.look 0 c.flagGt w)).foldl max c.busyGt

/-- No word is under way and none can start or be issued. -/
def State.stalled (s : State) (k : Nat) : Bool :=
  let c := s.croft k
  let idle := c.unretired.all (fun q => !q.done) &&
    [Engine.mx, .vx, .mv, .fp, .fl].all (fun e => match c.next e with
      | some q => !s.waitMet k q.word || (e == .fp && c.heldPost.isSome)
      | none => true)
  let decoder := match c.prog with
    | none => true
    | some g =>
      let i := g.next % 2048
      g.len ≤ g.issued || (match engineNamed (Tab.look 0 c.store i) with | some e => !c.mayIssue e i | none => true)
  idle && decoder

/-- CROFT_HUNG, at the first mark by which the Croft has been quiet for SENTINEL_TICKS whole ticks (R303): it is fenced and
logged, and a capsule is asked for. Marks (DEDUCED 225). -/
def croftHung (c : Nat) (s : State) : State :=
  match s.physOf c with
  | none => s
  | some k =>
    match s.waitedOn k with
    | none => s
    | some w =>
      if !s.works k || !s.stalled k then s
      else
        let n := match s.fieldBody with | some (_, b) => b.sentinel | none => 4
        let due := ((s.quietSince k + s.tickLen - 1) / s.tickLen + n) * s.tickLen
        let s := advanceTo (max due (s.markAt s.bel.gt)) s
        let (f, set) := match s.fieldBody with | some (f, b) => (f, b.captureSet) | none => (0, [])
        let seq := s.attic.faultSeq
        let s := recordFault { source := 0x0705, unit := unitCroft k, cls := 2, access := 0x0B, addr := w, fenced := true }
          (hangCroft k s)
        requestCapsule { cause := 1, field := f, faultSeq := seq, gt := s.bel.gt, crofts := capsuleSet [c] set } s

/-! ## Meanings -/

/-- What acts on the core is followed by what the core does at once. -/
def onCore (f : State → State) (s : State) : State := if s.isFatal then s else settleCore (f s)

def execTickProgramStart (c : Nat) (s : State) : Answer := need (Wf.croft c) (tickStart c s)
def execWordIssue (c : Nat) (s : State) : Answer := need (Wf.croft c) (wordIssue c s)
def execWordRetire (c : Nat) (e : Engine) (s : State) : Answer := need (Wf.croft c) (wordRetire c e s)
def execMxLoad (c : Nat) (s : State) : Answer := need (Wf.croft c) (startWord c .mx 0 (mxLoad c) s)
def execMxReuse (c : Nat) (s : State) : Answer := need (Wf.croft c) (startWord c .mx 1 (mxReuse c) s)
def execVxAdd (c : Nat) (s : State) : Answer := need (Wf.croft c) (startWord c .vx 0 (vxWord 0 c) s)
def execVxSub (c : Nat) (s : State) : Answer := need (Wf.croft c) (startWord c .vx 1 (vxWord 1 c) s)
def execVxMul (c : Nat) (s : State) : Answer := need (Wf.croft c) (startWord c .vx 2 (vxWord 2 c) s)
def execVxFma (c : Nat) (s : State) : Answer := need (Wf.croft c) (startWord c .vx 3 (vxWord 3 c) s)
def execVxMax (c : Nat) (s : State) : Answer := need (Wf.croft c) (startWord c .vx 4 (vxWord 4 c) s)
def execVxMin (c : Nat) (s : State) : Answer := need (Wf.croft c) (startWord c .vx 5 (vxWord 5 c) s)
def execVxExp (c : Nat) (s : State) : Answer := need (Wf.croft c) (startWord c .vx 6 (vxWord 6 c) s)
def execVxRecip (c : Nat) (s : State) : Answer := need (Wf.croft c) (startWord c .vx 7 (vxWord 7 c) s)
def execVxLsum (c : Nat) (s : State) : Answer := need (Wf.croft c) (startWord c .vx 8 (vxWord 8 c) s)
def execVxLmax (c : Nat) (s : State) : Answer := need (Wf.croft c) (startWord c .vx 9 (vxWord 9 c) s)
def execVxConvert (c : Nat) (s : State) : Answer := need (Wf.croft c) (startWord c .vx 10 (vxWord 10 c) s)
def execVxSplit (c : Nat) (s : State) : Answer := need (Wf.croft c) (startWord c .vx 11 (vxWord 11 c) s)
def execMvCopy (c : Nat) (s : State) : Answer := need (Wf.croft c) (startWord c .mv 0 mvWalk s)
def execMvTranspose (c : Nat) (s : State) : Answer := need (Wf.croft c) (startWord c .mv 1 mvWalk s)
def execMvGather (c : Nat) (s : State) : Answer := need (Wf.croft c) (startWord c .mv 2 mvGather s)
def execMvScatter (c : Nat) (s : State) : Answer := need (Wf.croft c) (startWord c .mv 3 mvScatter s)
def execMvFill (c : Nat) (s : State) : Answer := need (Wf.croft c) (startWord c .mv 4 mvFill s)
def execMvOverlay (c : Nat) (s : State) : Answer := need (Wf.croft c) (startWord c .mv 5 mvWalk s)
def execFpSend (c : Nat) (s : State) : Answer := need (Wf.croft c) (onCore (startWord c .fp 0 (fpSend c)) s)
def execFpPost (c : Nat) (s : State) : Answer := need (Wf.croft c) (startWord c .fp 1 fpPost s)
def execFpPenOpen (c : Nat) (s : State) : Answer := need (Wf.croft c) (onCore (startWord c .fp 2 (fpPenOpen c)) s)
def execFpPenSend (c : Nat) (s : State) : Answer := need (Wf.croft c) (onCore (startWord c .fp 3 (fpPenSend c)) s)
def execFlNop (c : Nat) (s : State) : Answer := need (Wf.croft c) (startWord c .fl 0 (flWord (fun _ _ s => s)) s)
def execFlSet (c : Nat) (s : State) : Answer := need (Wf.croft c) (startWord c .fl 1 (flWord flSetDo) s)
def execFlAdd (c : Nat) (s : State) : Answer := need (Wf.croft c) (startWord c .fl 2 (flWord flAddDo) s)
def execFlTadd (c : Nat) (s : State) : Answer := need (Wf.croft c) (startWord c .fl 3 (flWord flTaddDo) s)
def execFlBarrier (c : Nat) (s : State) : Answer := need (Wf.croft c) (startWord c .fl 5 (flWord flBarrierDo) s)
def execCroftRxPacket (c : Nat) (p : Packet) (s : State) : Answer :=
  need (Wf.croft c && Wf.packet p) (onCore (croftRx c p) s)
def execCroftHung (c : Nat) (s : State) : Answer := need (Wf.croft c) (croftHung c s)

end Sys2Proof.Machine
end

