-- ==== Sys2Proof/Machine/Verifier.lean ====
section
/-! DEFINITION. Machine/Verifier.lean: the image container and the verifier's checks up to the control words
(11_control_words_images_verifier.md R294-R299, and the rules that Table 11-11 names). -/

namespace Sys2Proof.Machine

/-! ## Failures -/

/-- A failed check: its code, SECTION and named items. `none` is a value that no rule states. -/
structure Reject where
  code : Nat
  sect : Option Nat := some 0xFFFF
  a    : Option Nat := some 0
  b    : Option Nat := some 0
  deriving DecidableEq, Repr

/-- The first failure of a list of checks (R299). -/
def firstFail (cs : List (Option Reject)) : Option Reject := cs.findSome? id

/-- One check. -/
def passIf (ok : Bool) (r : Reject) : Option Reject := if ok then none else some r

/-- Active Crofts per Tract of the latched grade (Table 15-4). Marks (DEDUCED 232). -/
def State.activeCrofts (s : State) : Nat := if s.glb.grade = 0x43 then 120 else if s.glb.grade = 0x46 then 32 else 128

/-! ## The container (R294, R296) -/

/-- An image header in the buffer (Table 11-9). -/
def parseImage (m : Memory) : ImgHeader :=
  let f := fun (off n : Nat) => beNat (Memory.readN m off n)
  { kind := f 6 1, grade := f 7 1, epoch := f 8 4, kexp := f 12 1, field := f 13 1, sections := f 14 2
    devIndex := f 16 2 % 16384, keySlot := f 18 1, length := f 20 4, build := f 24 8 }

/-- An entry of the section table. -/
structure Section where
  type   : Nat
  offset : Nat
  length : Nat
  clear  : Bool
  deriving DecidableEq, Repr

def readSection (m : Memory) (i : Nat) : Section :=
  let f := fun (off n : Nat) => beNat (Memory.readN m (32 + 16 * i + off) n)
  { type := f 0 2, offset := f 4 4, length := f 8 4, clear := f 2 2 == 0 && f 12 4 == 0 }

def readSections (m : Memory) (h : ImgHeader) : List Section := (List.range h.sections).map (readSection m)

/-- Bytes of the signature block (R296). Marks (DEDUCED 228). -/
def sigBlock : Nat := 3312

/-- Sections are 64-byte aligned, rise and do not overlap, within the image before the signature block (R294). Marks (DEDUCED 227). -/
def sectionsLaid (stop : Nat) : Nat → List Section → Bool
  | _, [] => true
  | pos, e :: r =>
    e.clear && e.offset % 64 == 0 && decide (pos ≤ e.offset) && decide (e.offset + e.length ≤ stop) &&
    sectionsLaid stop (e.offset + e.length) r

/-- IMG_E_FORMAT (Table 11-11): the header, LENGTH against IMG_LEN, KIND against the command, the section layout. -/
def headerOk (s : State) (kind : Nat) (h : ImgHeader) : Bool :=
  let m := s.img.buf
  let f := fun (off n : Nat) => beNat (Memory.readN m off n)
  let top := 32 + 16 * h.sections
  f 0 4 == 0x56504C49 && f 4 2 == 1 && h.kind == kind && 8 ≤ h.kexp && h.kexp ≤ 14 &&
  (if kind = 1 then h.field == 0xFF else h.field < 64) && h.keySlot < 4 && f 19 1 == 0 &&
  h.length == s.img.checkLen && h.length ≤ 268435456 && top + sigBlock ≤ h.length &&
  sectionsLaid (h.length - sigBlock) top (readSections m h)

/-- The digest that is signed (R296). -/
def imageDigest (s : State) (h : ImgHeader) : Bytes :=
  digest (Memory.readN s.img.buf 0 (h.length - sigBlock))

/-- IMG_E_SIGNATURE: an ML-DSA-65 signature of the digest under the enrolled key of KEY_SLOT, then 3 zero bytes. -/
def signatureOk (s : State) (h : ImgHeader) : Bool :=
  let sig := Memory.readN s.img.buf (h.length - sigBlock) 3309
  s.keyUsable h.keySlot &&
  mldsaVerify (s.fuses.keys.getD h.keySlot []) (imageDigest s h) sig &&
  Memory.readN s.img.buf (h.length - 3) 3 == [0, 0, 0]

/-- Section types of a base image and of a Field image (Table 11-10). -/
def sectionTypes (kind : Nat) : List Nat :=
  if kind = 1 then [1, 2, 3, 4, 5] else [0x10, 0x11, 0x12, 0x13, 0x14, 0x15, 0x16, 0x17]

/-- Index of a section of the image under check. -/
def sectIndex (ss : List Section) (type : Nat) : Nat := (ss.findIdx? (·.type == type)).getD 0xFFFF

/-- R295: each type of the kind exactly once; entry by entry, then what is missing, for which no entry exists. -/
def sectionSet (kind : Nat) (ss : List Section) : Option Reject :=
  let types := ss.map (·.type)
  let bad := fun (e : Nat × Nat) => !(sectionTypes kind).contains e.1 || (types.take e.2).contains e.1
  match types.zipIdx.find? bad with
  | some (_, i) => some { code := 8, sect := some i, a := some i }
  | none =>
    passIf ((sectionTypes kind).all types.contains) { code := 8, sect := none, a := none }

/-! ## Field ranges within sections (Table 11-11, IMG_E_SECTION) -/

/-- Ranges of the sections of a base image, by section type. -/
def baseRanges (b : BaseBody) (type : Nat) : Bool :=
  let t := b.topology
  if type = 1 then
    1 ≤ t.extentW && t.extentW ≤ 16 && 1 ≤ t.extentH && t.extentH ≤ 16 && t.mgmtKey != 0 && t.devIndex < 16384 &&
    t.bellwether < 16384 && t.standby < 16384 && t.bellCorr.length ≤ 4 &&
    t.trunks.all (fun e => 32 ≤ e.1 && e.1 < 64 && e.2.peer < 16384 && 32 ≤ e.2.port && e.2.port < 64) &&
    t.endpoints.all (fun e => e.1 < 32 && e.2 < 65536)
  else if type = 2 then b.route.all (fun e => e.1 < 65536 && e.2.toNat % 512 == 0)
  else if type = 3 then b.detour.all (fun e => e.1 < 8192 && e.2.toNat % 128 < 4)
  else if type = 4 then b.credit.all (fun e => 32 ≤ e.1 && e.1 < 64 && e.2.length == 8)
  else
    b.fields.all (fun f => f.id < 64 && f.key != 0 && f.rows.all (fun r => (r.host.getD 0) < 64)) &&
    b.rootDir.all (fun e => e.1 < 65536 && e.2.2 < 16384)

/-- A field of Table 8-2 within its range, where it is there. -/
def partRanges (p : CellarPart) : Bool :=
  let le := fun (o : Option Nat) (n : Nat) => match o with | some v => decide (v ≤ n) | none => true
  let ls := fun (o : Option (List Nat)) (n : Nat) => match o with | some l => decide (l.length ≤ n) | none => true
  le p.foldExtra 1015808 && le p.croftExtra 1015808 && p.foldExtra.getD 0 % 1024 == 0 &&
  p.croftExtra.getD 0 % 1024 == 0 && le p.ownMax 1015808 && le p.mirrorMax 1015808 && le p.xferAttn 288 &&
  le p.xferCroft 288 && le p.xferMirror 288 && le p.xferFold 288 && ls p.retired 4096 && ls p.partnersOut 8 &&
  ls p.partnersIn 8

/-- A Croft's section within its ranges (R291). -/
def croftRanges (c : CroftPlan) : Bool :=
  c.store.length ≤ 2048 && c.programs.length ≤ 16 &&
  c.programs.all (fun p => p.entry < 2048 && 1 ≤ p.len && p.len ≤ 65535 && p.words.length == p.len) &&
  1 ≤ c.schedule.length && c.schedule.length ≤ 256 &&
  c.schedule.all (fun e => match e with | some i => decide (i < c.programs.length) | none => true) &&
  c.capsule % 64 == 0

/-- Ranges of the sections of a Field image, by section type. -/
def fieldRanges (f : FieldBody) (type : Nat) : Bool :=
  if type = 0x10 then
    f.key != 0 && 1 ≤ f.barDeadline && f.barDeadline ≤ 65535 && 1 ≤ f.sentinel && f.sentinel ≤ 255
  else if type = 0x11 then f.gates.all (fun g => g.2.overhead ≤ 255)
  else if type = 0x12 then f.shapers.all (fun h => h.port < 64 && h.vc < 8 && h.rate < 2 ^ 24 && h.bucket < 2 ^ 24)
  else if type = 0x13 then f.pens.all (fun p => p.tag < 65536)
  else if type = 0x14 then f.cellar.all partRanges
  else if type = 0x16 then f.crofts.all croftRanges && f.overlays.all (fun o => o.tract < 32)
  else true

/-- Every section's ranges, in the order of the section table. -/
def sectionRanges (body : ImageBody) (ss : List Section) : Option Reject :=
  let ok := fun (t : Nat) => match body with | .base b => baseRanges b t | .field f => fieldRanges f t
  match ss.findIdx? (fun e => !ok e.type) with
  | some i => some { code := 8, sect := some i, a := some i }
  | none => none

/-! ## Base images -/

/-- Bell position of a device index (R37, R40). -/
def bellPos (i : Nat) : Nat × Nat := (meshX i, 16 * (meshY i / 2) + 2 * planeOf i + meshY i % 2)

/-- Joins between two Bell positions, every join working. -/
def bellHops (a b : Nat × Nat) : Nat := (max a.1 b.1 - min a.1 b.1) + (max a.2 b.2 - min a.2 b.2)

/-- R69: depth at most 140 from the Bellwether and from the standby; a corner of the grid lies deepest. -/
def depthOk (t : Topology) : Bool :=
  [t.bellwether, t.standby].all (fun r =>
    [(0, 0), (t.extentW - 1, 0), (0, 16 * t.extentH - 1), (t.extentW - 1, 16 * t.extentH - 1)].all (fun c =>
      decide (bellHops (bellPos r) c ≤ 140)))

/-- R119: every trunk grants at least 16 flits on each VC and at most 512 in all. -/
def creditFail (b : BaseBody) : Option Nat :=
  (b.credit.find? (fun e => e.2.any (· < 16) || 512 < e.2.foldl (· + ·) 0)).map (·.1)

/-- IMG_E_ROUTE for one entry (Table 5-6). The plan of another device is not in this image, so its ports are not
judged; nor are devices and Fields of another Range. Marks (DEDUCED 229). -/
def routeOk (b : BaseBody) (dev : Nat) (e : Nat × BitVec 32) : Bool :=
  let w := e.2.toNat
  let x := bits w 13 9
  let y := bits w 19 14
  let t := b.topology
  let near := x / 16 == (rangeOf dev) % 2 && y / 32 == (rangeOf dev) / 2
  let i := (y % 32) * 16 + x % 16
  !bit w 31 || (bits w 24 20 < 32 &&
    (!near || (x % 16 < t.extentW && y % 32 < 2 * t.extentH &&
      ((b.fields.find? (fun f => fieldOwns f i)).map (·.id)) == some (bits w 30 25) &&
      (!(x == sysX dev && y == sysY dev) || t.endpoints.any (fun p => p.1 == bits w 24 20 && p.2 == e.1)))))

/-- Paddocks of a rectangle. -/
def cellsIn (r : Rect) : List (Nat × Nat) :=
  (List.range (r.xhi + 1 - r.xlo)).flatMap (fun i => (List.range (r.yhi + 1 - r.ylo)).map (fun j => (r.xlo + i, r.ylo + j)))

def inRect (r : Rect) (c : Nat × Nat) : Bool := r.xlo ≤ c.1 && c.1 ≤ r.xhi && r.ylo ≤ c.2 && c.2 ≤ r.yhi

/-- A Field's own Paddocks (R48). -/
def ownCells (f : FieldEntry) : List (Nat × Nat) := (cellsIn f.rect).filter (fun c => !f.rows.any (fun r => inRect r.rect c))

/-- Paddocks with a common edge. -/
def sharesEdge (a b : Nat × Nat) : Bool :=
  (a.1 == b.1 && (a.2 + 1 == b.2 || b.2 + 1 == a.2)) || (a.2 == b.2 && (a.1 + 1 == b.1 || b.1 + 1 == a.1))

/-- The Paddocks reached from `seen` through edges. -/
def spread (cells : List (Nat × Nat)) : Nat → List (Nat × Nat) → List (Nat × Nat)
  | 0, seen => seen
  | n + 1, seen => spread cells n (cells.filter (fun c => seen.contains c || seen.any (sharesEdge c)))

/-- Own Paddocks are connected through edges (R54). -/
def connected (cells : List (Nat × Nat)) : Bool :=
  match cells with | [] => false | c :: _ => (spread cells cells.length [c]).length == cells.length

/-- Lent rectangles that do not overlap, so that the covering is exact (R54). -/
def apart : List Rect → Bool
  | [] => true
  | r :: rest => rest.all (fun q => !(cellsIn r).any (inRect q)) && apart rest

/-- Shape of one Field within the map (R48, R49, R53, R54): no other entry has its ID or one of its Paddocks. -/
def shapeOk (b : BaseBody) (f : FieldEntry) : Bool :=
  let t := b.topology
  let within := fun (q r : Rect) =>
    r.xlo ≤ q.xlo && q.xlo ≤ q.xhi && q.xhi ≤ r.xhi && r.ylo ≤ q.ylo && q.ylo ≤ q.yhi && q.yhi ≤ r.yhi
  let own := ownCells f
  let holder := fun (c : Nat × Nat) => (b.fields.find? (fun g => (ownCells g).contains c)).map (·.id)
  f.rect.xlo ≤ f.rect.xhi && f.rect.xhi < t.extentW && f.rect.ylo ≤ f.rect.yhi && f.rect.yhi < t.extentH &&
  f.rows.length ≤ 4 &&
  f.rows.all (fun r => within r.rect f.rect && r.share != 0 && (cellsIn r.rect).all (fun c => holder c == r.host)) &&
  apart (f.rows.map (·.rect)) && connected own &&
  (b.fields.filter (·.id == f.id)).length == 1 &&
  b.fields.all (fun g => g.id == f.id || own.all (fun c => !(ownCells g).contains c))

/-- The Field that fails IMG_E_FIELD_SHAPE: by its shape, or as the one that brings the entries above 64 (R53). -/
def shapeFail (b : BaseBody) : Option Nat :=
  let total := fun (n : Nat) => ((b.fields.take (n + 1)).map (fun f => f.rows.length)).foldl (· + ·) 0
  (b.fields.zipIdx.find? (fun e => !shapeOk b e.1 || 64 < total e.2)).map (·.1.id)

/-! ## This device's Detour Tables (Table 5-6)

The image of one device holds its own four tables. They are judged here as far as they alone decide; what the tables of
the other devices add is `Config.detourFailure` and `Config.escapeFailure`. -/

/-- The device in a direction, where it lies in this Range. -/
def stepTo (i d : Nat) : Option Nat :=
  let x := meshX i
  let y := meshY i
  if d = 0 then (if y < 31 then some (i + 16) else none)
  else if d = 1 then (if x < 15 then some (i + 1) else none)
  else if d = 2 then (if 0 < y then some (i - 16) else none)
  else (if 0 < x then some (i - 1) else none)

/-- The dimension-order direction at a device on VC7 (R126), y first where R130 says so; `came` is the direction of
travel. -/
def escapeDir (i came t : Nat) : Nat :=
  let dy := if meshY i < meshY t then 0 else 2
  let away := (came == 1 && decide (meshX t < meshX i)) || (came == 3 && decide (meshX i < meshX t))
  if meshX t = meshX i || (away && meshY t != meshY i) then dy
  else if meshX i < meshX t then 1 else 3

/-- Paddocks that a Field's traffic may use: its own and those lent to it (R55). -/
def roams (f : FieldEntry) (i : Nat) : Bool := rectHas f.rect i

/-- Whether a packet on VC7 at a device still may reach its target, once detoured at `self` around the neighbour `lost` in
direction d: it fails where it leaves its Field's Paddocks or comes to the same Detour entry again. Where it meets the loss
at another device, that device's table decides. -/
def detourWalk (f : FieldEntry) (self lost d t : Nat) : Nat → Nat → Nat → Bool
  | 0, _, _ => false
  | n + 1, i, came =>
    if i == t then true else
    let e := escapeDir i came t
    if i == self && e == d then false else
    match stepTo i e with
    | none => false
    | some j => if j == lost then i != self else roams f j && detourWalk f self lost d t n j e

/-- A Detour entry of this device that reaches its target as far as this image shows (R136, R137). -/
def detourEntryOk (b : BaseBody) (f : FieldEntry) (dev lost d t : Nat) : Bool :=
  let e := ((b.detour.find? (fun p => p.1 == 2048 * d + sysY t * 32 + sysX t)).map (fun p => p.2.toNat)).getD 0
  let k := e % 4
  let planned := (List.range 8).any (fun i => b.topology.trunks.any (fun p => p.1 == 32 + 8 * k + i))
  bit e 7 && k != d && planned &&
  (match stepTo dev k with | some j => roams f j && detourWalk f dev lost d t 96 j k | none => false)

/-- The devices of a Field's own Paddocks on a device's plane, in this Range. -/
def ownDevices (f : FieldEntry) (dev : Nat) : List Nat :=
  ((List.range 512).map (fun k => dev - dev % 512 + k)).filter (fieldOwns f)

/-- IMG_E_DETOUR as far as this device's own tables decide it (R139): for the loss in each planned direction, every target
of this device's Field that its dimension-order route reaches that way, but for the lost neighbour itself (R137). The
loss case and the target. -/
def detourFail (b : BaseBody) (dev : Nat) : Option (Nat × Nat) :=
  match b.fields.find? (fun f => fieldOwns f dev) with
  | none => none
  | some f =>
    (List.range 4).findSome? (fun d =>
      match stepTo dev d with
      | none => none
      | some lost =>
        if (List.range 8).any (fun i => b.topology.trunks.any (fun p => p.1 == 32 + 8 * d + i)) then
          ((ownDevices f dev).find? (fun t =>
            t != dev && t != lost && escapeDir dev 4 t == d && !detourEntryOk b f dev lost d t)).map (fun t => (d, t))
        else none)

/-- IMG_E_BELL_DEPTH to IMG_E_ESCAPE_CYCLE of a base image, in the order of Table 11-11. -/
def baseFail (s : State) (ss : List Section) (b : BaseBody) : Option Reject :=
  let si := sectIndex ss
  firstFail [
    passIf (depthOk b.topology) { code := 9, sect := some (si 1), a := some (si 1) },
    (creditFail b).map (fun n => { code := 0x0A, sect := some (si 4), a := some n }),
    (b.route.find? (fun e => !routeOk b s.devIndex e)).map (fun e => { code := 0x0B, sect := some (si 2), a := some e.1 }),
    (shapeFail b).map (fun f => { code := 0x0C, sect := some (si 5), a := some f }),
    (detourFail b s.devIndex).map (fun _ => { code := 0x0E, sect := some (si 3), a := none, b := none }),
    (Config.detourFailure b).map (fun e => { code := 0x0E, sect := some (si 3), a := some e.1, b := some e.2 }),
    (Config.escapeFailure b).map (fun n => { code := 0x0F, sect := some (si 3), a := some n }) ]

/-! ## Field images against the applied base image -/

/-- D_f of R74: the deepest device of a Field below the Bellwether or the standby. -/
def fieldDepth (b : BaseBody) (f : Nat) : Nat :=
  match b.fields.find? (·.id == f) with
  | none => 0
  | some e =>
    ((ownCells e).flatMap (fun c => (List.range 16).flatMap (fun k =>
      [b.topology.bellwether, b.topology.standby].map (fun r => bellHops (bellPos r) (c.1, 16 * c.2 + k))))).foldl max 0

/-- VC6 is routed through a trunk whose receiving device lies in a rectangle lent to a Field that this device carries: its
own, or a guest that this device too is lent to (R55, R128). -/
def lentTrunk (b : BaseBody) (dev port : Nat) : Bool :=
  match b.topology.trunks.find? (·.1 == port) with
  | none => false
  | some e => rangeOf e.2.peer == rangeOf dev &&
    b.fields.any (fun f => rectHas f.rect dev && f.rows.any (fun r => rectHas r.rect e.2.peer))

/-- VCs that reach an egress port (R18, Table 4-7): all on a trunk, but for VC6 where no guest goes that way; on an endpoint
port those from device to endpoint. -/
def routedVc (b : BaseBody) (dev port v : Nat) : Bool :=
  if v = 6 then lentTrunk b dev port else decide (32 ≤ port) || v == 0 || v == 2 || v == 4 || v == 5

/-- The largest packet of a VC (R97, R44): DISCOVER on an endpoint port's VC0, PROOF on a trunk's, else 4,096 bytes. Marks (DEDUCED 230). -/
def largestPacket (port v : Nat) : Nat := if v = 0 then (if port < 32 then 40 else 3309) else 4096

/-- Open runs of a VC over one tick (R82): first window and GT; `none` where every window admits it. -/
def openRuns (tick : Nat) (ws : List (Nat × BitVec 8)) (v : Nat) : Option (List (Nat × Nat)) :=
  let n := ws.length
  let opens := fun (i : Nat) => ((ws.getD (i % n) (0, 0)).2).getLsbD v
  let len := fun (i : Nat) =>
    (if i % n + 1 < n then (ws.getD (i % n + 1) (0, 0)).1 else tick) - (ws.getD (i % n) (0, 0)).1
  if (List.range n).all opens then none else
  let starts := (List.range n).filter (fun i => opens i && !opens (i + n - 1))
  some (starts.map (fun i =>
    let run := (List.range n).takeWhile (fun j => opens (i + j))
    (i, (run.map (fun j => len (i + j))).foldl (· + ·) 0)))

/-- VC6 bytes per tick that right-of-way entries lend through this device's trunks (R56). -/
def lentShare (b : BaseBody) (dev : Nat) : Nat :=
  ((b.fields.flatMap (·.rows)).map (fun r => if rectHas r.rect dev then r.share else 0)).foldl (· + ·) 0

/-- The window of a gate list that breaks R81: window 0 at 0, starts rising below 2^k; 1 to 16 windows. -/
def windowFail (tick : Nat) (g : GateList) : Option Nat :=
  if g.windows.isEmpty then some 0 else if 16 < g.windows.length then some 16 else
  (List.range g.windows.length).find? (fun i =>
    let w := (g.windows.getD i (0, 0)).1
    !(decide (w < tick) && (if i = 0 then w == 0 else decide ((g.windows.getD (i - 1) (0, 0)).1 < w))))

/-- The window that breaks the fit rules of R84 for one VC; a VC that every window admits is open for the whole tick. Marks (DEDUCED 237). -/
def fitFail (b : BaseBody) (dev tick port : Nat) (g : GateList) (v : Nat) : Option Nat :=
  let short := fun (total : Nat) => v == 6 && decide (32 ≤ port) && decide (640 * total < lentShare b dev)
  match openRuns tick g.windows v with
  | none => if short tick then some 0 else none
  | some runs =>
    let need := flitCount (largestPacket port v) * 128 + g.overhead
    let total := (runs.map (·.2)).foldl (· + ·) 0
    if runs.isEmpty && (v == 0 || v == 7) then some 0
    else match runs.find? (fun r => routedVc b dev port v && 640 * r.2 < need) with
      | some r => some r.1
      | none => if short total then some 0 else none

/-- IMG_E_GATE_FIT: port and window. -/
def gateFail (b : BaseBody) (dev tick : Nat) (f : FieldBody) : Option (Nat × Nat) :=
  f.gates.findSome? (fun e =>
    if 64 ≤ e.1 then some (e.1, 0) else
    ((windowFail tick e.2).or ((List.range 8).findSome? (fitFail b dev tick e.1 e.2))).map (fun w => (e.1, w)))

/-- The field of Table 8-2, by its row, that breaks R199 in one Tract. -/
def partFail (s : State) (b : BaseBody) (fieldId kexp : Nat) (p : CellarPart) : Option Nat :=
  let missing := [p.foldExtra.isNone, p.croftExtra.isNone, p.ownMax.isNone, p.mirrorMax.isNone, p.xferAttn.isNone,
    p.xferCroft.isNone, p.xferMirror.isNone, p.xferFold.isNone, p.retired.isNone, p.partnersOut.isNone, p.partnersIn.isNone]
  let xfer := p.xferAttn.getD 0 + p.xferCroft.getD 0 + p.xferMirror.getD 0 + p.xferFold.getD 0
  let out := fun (i : Nat) => !(planeOf i == planeOf s.devIndex && rangeOf i == rangeOf s.devIndex &&
    ((b.fields.find? (fun f => fieldOwns f i)).map (·.id)) == some fieldId)
  match missing.findIdx? id with
  | some i => some i
  | none =>
    if 1015808 < p.foldExtra.getD 0 + p.croftExtra.getD 0 then some 1
    else if 9 * 2 ^ kexp / 128 < xfer then some 4
    else if (p.retired.getD []).any (fun g => !(firstUsable ≤ g && g < tractPages)) then some 8
    else if (p.partnersOut.getD []).any out then some 9
    else if (p.partnersIn.getD []).any out then some 10
    else none

/-- IMG_E_CELLAR: Tract and field; a Tract that the section does not give misses its first field. -/
def cellarFail (s : State) (b : BaseBody) (fieldId kexp : Nat) (f : FieldBody) : Option (Nat × Nat) :=
  (List.range 32).findSome? (fun t => (partFail s b fieldId kexp (f.cellar.getD t {})).map (fun i => (t, i)))

/-- IMG_E_ATTN: a Tract with too many Crofts, a Croft that a program also uses, ATTN_SHARE (R245, R246). -/
def attnFail (s : State) (f : FieldBody) : Option (Option Nat × Option Nat) :=
  let tooMany := (List.range 32).find? (fun t => s.activeCrofts < (f.attnCrofts.filter (fun c => c / 128 == t)).length)
  match tooMany with
  | some t => some (some t, none)
  | none =>
    match f.attnCrofts.find? (fun c => f.crofts.any (fun p => p.logical == c && !p.programs.isEmpty)) with
    | some c => some (some (c / 128), some c)
    | none => if 8 ≤ f.attnShare && f.attnShare ≤ 56 then none else some (none, none)

/-! ## Pen policies (R141-R146, R270) -/

/-- Nodes of each level of the Canonical tree of N members (R144). -/
def canonLevels : Nat → Nat → List Nat
  | 0, _ => []
  | f + 1, n => let m := (n + 31) / 32; if m ≤ 1 then [1] else m :: canonLevels f m

/-- The Canonical tree as (node, level, inputs, parent). -/
def canonTree (n : Nat) : List (Nat × Nat × List PenInput × Option Nat) :=
  let ls := canonLevels 4 n
  ls.zipIdx.flatMap (fun e => (List.range e.1).map (fun j =>
    let below := if e.2 = 0 then n else ls.getD (e.2 - 1) 0
    let ins := (List.range (min 32 (below - 32 * j))).map (fun i =>
      if e.2 = 0 then PenInput.member (32 * j + i) else PenInput.child ((e.2 - 1) * 4096 + 32 * j + i))
    (e.2 * 4096 + j, e.2, ins, if e.2 + 1 = ls.length then none else some ((e.2 + 1) * 4096 + j / 32))))

/-- A stripe set holds 1, 2, 4 or 8 devices (R146). -/
def stripesOk (ns : List PenNode) : Bool := ns.all (fun n => [1, 2, 4, 8].contains n.devices.length)

/-- The nodes are exactly those of R144. -/
def canonOk (q : PenPolicy) : Bool :=
  let want := canonTree q.members.length
  q.members.length ≤ 4096 && q.canonNodes.length == want.length && stripesOk q.canonNodes &&
  want.all (fun w => q.canonNodes.any (fun n => (n.node, n.level, n.inputs, n.parent) == w))

/-- Ranks that run without a gap. -/
def contiguous : List Nat → Bool
  | a :: b :: r => a + 1 == b && contiguous (b :: r)
  | _ => true

/-- The Arrival tree (R145): at most 32 inputs, members at level 0, contiguous ranks, one root over all ranks. -/
def arrivalOk (q : PenPolicy) : Bool :=
  let ns := q.arrivalNodes
  let member := fun (i : PenInput) => match i with | .member _ => true | .child _ => false
  let up := fun (n : PenNode) (i : PenInput) => match i with
    | .member _ => n.level == 0
    | .child c => 0 < n.level && ns.any (fun m => m.node == c && m.parent == some n.node && m.level + 1 == n.level)
  stripesOk ns && (ns.filter (·.parent.isNone)).length == 1 &&
  ns.all (fun n => 1 ≤ n.inputs.length && n.inputs.length ≤ 32 && n.inputs.all (up n) &&
    n.inputs.all (fun i => contiguous (ranksOf ns 16 i)) && (n.level != 0 || n.inputs.all member)) &&
  ns.all (fun n => n.parent.isSome || ranksOf ns 16 (.child n.node) == List.range q.members.length)

/-- Range of an endpoint by its Route Table entry, or of the device of a service EID (R41, R42). -/
def State.rangeOfEid (s : State) (eid : Nat) : Nat :=
  if eid < 0x10000 then
    let e := s.routeEntry eid
    bits e 13 9 / 16 + 2 * (bits e 19 14 / 32)
  else rangeOf (eid % 16384)

/-- All members of a Canonical Pen lie in one Range (R142). -/
def State.oneRange (s : State) (q : PenPolicy) : Bool :=
  match q.members with | [] => true | m :: r => r.all (fun n => s.rangeOfEid n.eid == s.rangeOfEid m.eid)

/-- The multicast entry of this device covers what an allowed mode places here (R141): the endpoint ports of members, the
Cellar ports of Croft members, and a Fold slot where a node is held. -/
def State.mcastOk (s : State) (q : PenPolicy) : Bool :=
  let nodes := (if q.canonical then q.canonNodes else []) ++ (if q.arrival then q.arrivalNodes else [])
  let ports := s.topology.endpoints
  q.plane != planeOf s.devIndex ||
  (q.members.all (fun m => match m.croft with
      | some c => m.eid % 16384 != s.devIndex || q.mcast.contains (cellarSlotOfCroft c)
      | none => ports.all (fun p => p.2 != m.eid || q.mcast.contains p.1)) &&
   (nodes.all (fun n => !n.devices.contains s.devIndex) || q.mcast.any (fun n => 64 ≤ n && n < 96)))

/-- The devices of every node of an allowed mode lie on the policy's plane (R141). -/
def nodesOnPlane (q : PenPolicy) : Bool :=
  let on := fun (ns : List PenNode) => ns.all (fun n => n.devices.all (fun i => planeOf i == q.plane))
  (!q.canonical || on q.canonNodes) && (!q.arrival || on q.arrivalNodes)

/-- The Field spans Ranges (R52). -/
def State.spans (s : State) (f : Nat) : Bool := match s.fieldEntry f with | some e => e.spanning | none => false

/-- A policy that keeps the rules of chapter 6, and those of R52 where its Field spans Ranges. -/
def penOk (s : State) (fieldId : Nat) (q : PenPolicy) : Bool :=
  q.tag / 1024 == fieldId && q.plane < 8 && 2 ≤ q.members.length && q.members.length ≤ 65536 &&
  decide (q.members.Nodup) && (q.canonical || q.arrival) && (q.waitOk || q.excludeOk) &&
  64 ≤ q.arrivalWindow && q.arrivalWindow ≤ 65535 && (!q.canonical || (canonOk q && s.oneRange q)) &&
  (!q.arrival || arrivalOk q) && (!s.spans fieldId || !q.canonical) && nodesOnPlane q && s.mcastOk q &&
  q.members.all (fun m => match m.croft with | some c => decide (c < 4096) && m.eid / 2 ^ 14 == 0x3D | none => true)

/-- Bytes that the result of a Pen takes (R143, R281): the chunks in the root's format and the completion record. -/
def resultBytes (q : PenPolicy) (m : PenOpenMsg) : Nat :=
  m.chunks * chunkBytes (m.outFmt (rootLevel (treeOf q m.isArrival))) + 16

/-- The initial Pantry data of a Croft (R291). -/
def pantryOf (c : CroftPlan) : Memory := c.pantry.foldl (fun m e => Memory.write m e.1 e.2) []

/-- A PEN_OPEN word posts a buffer with room for the whole result (R270); its message is read from the image's
initial Pantry data. -/
def postsRoom (f : FieldBody) (c : CroftPlan) (w : BitVec 256) : Bool :=
  let x := portWord w
  let m := parsePenOpen (Memory.readN (pantryOf c) x.buf x.len)
  match f.pens.find? (·.tag == x.tsw0 / 65536) with
  | some q => decide (x.aux + resultBytes q m ≤ pantrySize)
  | none => true

/-- IMG_E_PEN: the Pen tag. Marks (DEDUCED 231). -/
def penFail (s : State) (fieldId : Nat) (f : FieldBody) : Option Nat :=
  let tags := f.pens.map (·.tag)
  ((f.pens.zipIdx.find? (fun e => !penOk s fieldId e.1 || (tags.take e.2).contains e.1.tag)).map (·.1.tag)).or
    ((f.crofts.findSome? (fun c => c.programs.findSome? (fun p =>
      (p.words.find? (fun w => isOp .fp 2 w && !postsRoom f c w)).map (fun w => (portWord w).tsw0 / 65536)))).or
    (Config.penTreeFailure f))

/-- IMG_E_FIELD_KEY to IMG_E_PEN of a Field image, in the order of Table 11-11. -/
def fieldFail (s : State) (h : ImgHeader) (ss : List Section) (b : BaseBody) (f : FieldBody) : Option Reject :=
  let si := fun (t : Nat) => some (sectIndex ss t)
  let same := match s.fieldBody with | some (i, g) => s.crf.running && i == h.field && g.key == f.key | none => false
  firstFail [
    passIf (!same) { code := 0x0D, sect := si 0x10 },
    passIf (decide (48 * fieldDepth b h.field + 64 ≤ f.barOffset)) { code := 0x10, sect := si 0x10 },
    (gateFail b s.devIndex (2 ^ h.kexp) f).map (fun e => { code := 0x11, sect := si 0x11, a := some e.1, b := some e.2 }),
    (cellarFail s b h.field h.kexp f).map (fun e => { code := 0x12, sect := si 0x14, a := some e.1, b := some e.2 }),
    (attnFail s f).map (fun e => { code := 0x13, sect := si 0x15, a := e.1, b := e.2 }),
    (penFail s h.field f).map (fun t => { code := 0x14, sect := si 0x13, a := some t }) ]

end Sys2Proof.Machine
end

