-- ==== Sys2Proof/Machine/Budget.lean ====
section
/-! DEFINITION. Machine/Budget.lean: the verifier's checks of control words, flags and tick budgets
(11_control_words_images_verifier.md R283, R293, R300-R302; 10_crofts_and_bit_serial_arrays.md R258-R268). -/

namespace Sys2Proof.Machine

/-- A word of an image: its Croft, its program and its position. -/
structure Place where
  plan : CroftPlan
  prog : Nat
  pos  : Nat
  word : BitVec 256

/-- How IMG_ERR names a word (R299). -/
def itemOf (logical prog pos : Nat) : Nat := logical * 2 ^ 20 + prog * 2 ^ 16 + pos
def Place.item (p : Place) : Nat := itemOf p.plan.logical p.prog p.pos

/-- Every word of every program, in the image's order. -/
def placesOf (f : FieldBody) : List Place :=
  f.crofts.flatMap (fun c => c.programs.zipIdx.flatMap (fun p => p.1.words.zipIdx.map (fun w =>
    { plan := c, prog := p.2, pos := w.2, word := w.1 })))

/-- Whole cycles of a tick of 2^k GT (R6). -/
def tickCycles (kexp : Nat) : Nat := 36 * 2 ^ kexp / 5

/-! ## Raises and waits (R288-R290, R300) -/

/-- Raises of local flags that a word makes itself: its signal and FL ADD. -/
def wordRaises (w : BitVec 256) : List (Nat × Nat) :=
  (if wSigEn w && !wSigTract w then [(wSigFlag w, 1)] else []) ++
  (if isOp .fl 2 w && flValue w < 0x8000 then [(flFlag w, flValue w)] else [])

/-- Local flags that a receive, a response, a Pen completion or a barrier release raises for a word. -/
def eventRaises (w : BitVec 256) : List Nat :=
  if isOp .fp 1 w || isOp .fp 2 w then [(portWord w).rxFlag] else if isOp .fl 5 w then [flFlag w] else []

/-- A resolved wait (R300). -/
def resolved (ws : List (BitVec 256)) (w : BitVec 256) : Bool :=
  wWaitEn w && !wWaitTract w && wWaitFlag w < 48 && !ws.any (fun v => (eventRaises v).contains (wWaitFlag w))

/-- How far a word raises a flag. -/
def raiseOf (flag : Nat) (w : BitVec 256) : Nat :=
  ((wordRaises w).map (fun e => if e.1 = flag then e.2 else 0)).foldl (· + ·) 0

/-- Position of the word whose raise first brings a flag to a count (R301). -/
def raiser (ws : List (BitVec 256)) (flag count : Nat) : Option Nat :=
  (List.range ws.length).find? (fun j => decide (count ≤ ((ws.take (j + 1)).map (raiseOf flag)).foldl (· + ·) 0))

/-- The raising word of a resolved wait. -/
def raiserOf (ws : List (BitVec 256)) (w : BitVec 256) : Option Nat :=
  if resolved ws w then raiser ws (wWaitFlag w) (wWaitCount w) else none

/-! ## Illegal words (R283, R285) -/

/-- Codes of ENGINE and OP. -/
def codesOk (w : BitVec 256) : Bool :=
  match engineNamed w with | some e => decide (wOp w < opsOf e) | none => false

/-- Reserved bits of the bodies (Tables 11-4 to 11-6), and REPEAT of FL words (Table 11-1). -/
def reservedOk (w : BitVec 256) : Bool :=
  match engineNamed w with
  | some .mv =>
    wbits w 191 190 < 2 && wbits w 189 188 < (if wOp w = 5 then 3 else 2) &&
    (wOp w != 2 || wbits w 71 63 == 0) && (wOp w != 3 || wbits w 27 19 == 0)
  | some .fp =>
    wbits w 17 0 == 0 && (wOp w == 2 || wOp w == 3 || wbits w 36 18 == 0) && 1 ≤ wbits w 127 107 &&
    wbits w 127 107 ≤ 1048576
  | some .fl => wbits w 137 0 == 0 && wRepeat w == 0
  | _ => true

/-- A row of packed elements fills whole bytes, or whole groups of 6-bit elements (R176). -/
def rowWhole (o : Operand) : Bool :=
  let b := elemBits o.elem
  (b != 4 || o.per % 2 == 0) && (b != 6 || o.per % 4 == 0)

/-- Formats of a compute word (R173, R179, R182-R184), D of FMA among its operands (Table 11-2), and the tile of an MX word
(Table 10-2). -/
def computeOk (w : BitVec 256) : Bool :=
  let x := compute w
  let mx := isMx w
  let fma := isOp .vx 3 w
  let pair := fun (f : Nat) => elemOf f = 12
  let operand := fun (f : Nat) => elemOf f != 11 && (!pair f || (mx && x.passes != 0))
  let narrow := fun (f : Nat) => elemOf f = 9 || elemOf f = 0 || elemOf f = 12
  let ops := x.fmtA :: ((if usesB w then [x.fmtB] else []) ++ (if fma then [x.outFmt] else []))
  fmtValid x.fmtA && fmtValid x.fmtB && fmtValid x.fmtD && x.round ≤ 4 && ops.all operand &&
  (!pair x.fmtD || x.ecomp) &&
  (!(mx && x.acc) || (!isScaled x.fmtD && elemOf x.fmtD == accElem x.fmtA x.fmtB)) &&
  (!x.grad || x.round == 4) && !(x.grad && x.ecomp) && (x.passes == 0 || ops.all (fun f => narrow f)) &&
  rowWhole (opA w) && (!usesB w || rowWhole (opB w)) && rowWhole (opD w) && !(isSplit w && x.hist) &&
  (!mx || (decide (x.k ≤ (tileMax x).1) && decide (x.n ≤ (tileMax x).2)))

/-- The LOAD that loaded the tile that is active at a position. -/
def loadBefore (ws : List (BitVec 256)) (j : Nat) : Option (BitVec 256) := ((ws.take j).filter (isOp .mx 0)).getLast?

/-- The B fields of a REUSE are those of the LOAD. Marks (DEDUCED 234). -/
def reuseOk (ws : List (BitVec 256)) (j : Nat) (w : BitVec 256) : Bool :=
  if isOp .mx 1 w then
    match loadBefore ws j with
    | some l =>
      let a := compute l
      let b := compute w
      a.fmtB == b.fmtB && a.bBase == b.bBase && a.bStride == b.bStride
    | none => false
  else true

/-- No scope names a Tract flag above 15. -/
def scopesOk (w : BitVec 256) : Bool :=
  !(wWaitEn w && wWaitTract w && 15 < wWaitFlag w) && !(wSigEn w && wSigTract w && 15 < wSigFlag w) &&
  !(isOp .fl 3 w && 15 < flFlag w)

/-- An unresolved wait has a BOUND within the tick. -/
def boundOk (ws : List (BitVec 256)) (cycles : Nat) (w : BitVec 256) : Bool :=
  !wWaitEn w || resolved ws w || (wBound w != 0 && decide (128 * wBound w ≤ cycles))

/-- Numbers rising by at least `n`. -/
def spaced (n : Int) : List Int → Bool
  | a :: b :: r => decide (a + n ≤ b) && spaced n (b :: r)
  | _ => true

/-- Insertion sort of integers. -/
def insertInt (x : Int) : List Int → List Int
  | [] => [x]
  | y :: r => if x ≤ y then x :: y :: r else y :: insertInt x r
def sortInts (l : List Int) : List Int := l.foldr insertInt []

/-- Mover words: element sizes and counts of TRANSPOSE (R264, R283), and no byte written by two runs (R285). SCATTER's rows
follow its data. -/
def moverOk (w : BitVec 256) : Bool :=
  if engineNamed w == some .mv then
    let m := mover w
    (wOp w != 1 || ([1, 2, 4, 8].contains m.run && m.c1 ≤ 64 && m.c2 ≤ 64)) &&
    (wOp w == 2 || wOp w == 3 || spaced m.run (sortInts ((moverRuns m (wRepeat w)).map (·.2))))
  else true

/-- A legal word (R283, R285). Marks (DEDUCED 233). -/
def wordOk (ws : List (BitVec 256)) (cycles j : Nat) (w : BitVec 256) : Bool :=
  codesOk w && reservedOk w && (engineNamed w == some .fl || wRepeat w != 0) &&
  (!(isMx w || isVx w) || computeOk w) && reuseOk ws j w && scopesOk w && boundOk ws cycles w &&
  !(isOp .fl 1 w && flFlag w < 48) && !(isOp .fl 2 w && flFlag w < 48 && 0x8000 ≤ flValue w) &&
  (!isOp .fp 1 w || (portWord w).ptype == 0x40 || (portWord w).ptype == 0x30) && moverOk w

/-! ## Fused features, addresses, destinations -/

/-- A word that uses a feature that the grade fuses off (R4, Table 15-4). -/
def fusedWord (u : Fuses) (w : BitVec 256) : Bool :=
  let x := compute w
  (isMx w || isVx w) && ((!u.threePass && x.passes == 3) ||
    (!u.fp64 && (elemOf x.fmtA == 8 || (usesB w && elemOf x.fmtB == 8) || elemOf x.fmtD == 8)))

/-- Byte ranges of a word in the Pantry. -/
def pantryRanges (w : BitVec 256) : List (Int × Nat) :=
  let x := compute w
  let m := mover w
  let nat := fun (l : List (Nat × Nat)) => l.map (fun e => ((e.1 : Int), e.2))
  match engineNamed w with
  | some .mv =>
    let runs := moverRuns m (wRepeat w)
    let rows := (List.range (wRepeat w)).map (fun (i : Nat) => (i : Int) * m.run)
    let src := if wOp w = 2 then [((m.src : Int), m.run)]
      else if wOp w = 3 then rows.map (fun r => ((m.src : Int) + r, m.run))
      else if wOp w = 4 then [((m.src : Int), 8)] else runs.map (fun r => (r.1, m.run))
    let dst := if wOp w = 2 then rows.map (fun r => ((m.dst : Int) + r, m.run))
      else if wOp w = 3 then [((m.dst : Int), m.run)] else runs.map (fun r => (r.2, m.run))
    (if m.srcSpace = 0 then src else []) ++ (if m.dstSpace = 0 then dst else []) ++
    (if wOp w = 2 then [((gatherIdx w : Int), 4 * wRepeat w)] else if wOp w = 3 then [((scatterIdx w : Int), 4 * wRepeat w)]
     else [])
  | some .fp =>
    let p := portWord w
    let sl := (chunkShape (p.len / max 1 (wRepeat w))).2.2
    [((p.buf : Int), p.len)] ++ (if wOp w = 3 then [((p.aux : Int), sl * wRepeat w)] else [])
  | some .fl => []
  | _ =>
    nat ((opA w).ranges ++ (if usesB w then (opB w).ranges else []) ++ (opD w).ranges ++
      (splitOuts w).flatMap Operand.ranges ++ (if x.hist then [(x.histAddr, 160)] else []))

/-- Byte ranges of a mover word in the stack: sources, then destinations. -/
def stackRanges (w : BitVec 256) : List (Int × Nat) × List (Int × Nat) :=
  let m := mover w
  let runs := moverRuns m (wRepeat w)
  let rows := (List.range (wRepeat w)).map (fun (i : Nat) => (i : Int) * m.run)
  if engineNamed w != some .mv then ([], []) else
  let src := if wOp w = 2 then [((m.src : Int), m.run)] else if wOp w = 3 then rows.map (fun r => ((m.src : Int) + r, m.run))
    else runs.map (fun r => (r.1, m.run))
  let dst := if wOp w = 2 then rows.map (fun r => ((m.dst : Int) + r, m.run)) else if wOp w = 3 then [((m.dst : Int), m.run)]
    else runs.map (fun r => (r.2, m.run))
  (if m.srcSpace = 1 then src else [], if m.dstSpace = 1 then dst else [])

/-- A page that the partitioning grants to Croft programs (R265, R312). -/
def grantedIn (p : CellarPart) (g : Nat) : Bool :=
  let top := tractPages - extraFold p
  (0x44A0 ≤ g && g < 0x7000) || (top - extraCroft p ≤ g && g < top)

/-- A stack range lies in granted pages. -/
def inGranted (p : CellarPart) (r : Int × Nat) : Bool :=
  let a := r.1.toNat
  0 ≤ r.1 && (List.range ((a + r.2 - 1) / 65536 + 1 - a / 65536)).all (fun i => grantedIn p (a / 65536 + i))

/-- Byte ranges meet. -/
def meet (a : Int × Nat) (b : Int × Nat) : Bool := decide (a.1 < b.1 + b.2) && decide (b.1 < a.1 + a.2)

/-- Addresses of a word (R261, R265, R293). -/
def boundsOk (f : FieldBody) (c : CroftPlan) (w : BitVec 256) : Bool :=
  let t := c.logical / 128
  let p := f.cellar.getD t {}
  let m := mover w
  let (src, dst) := stackRanges w
  let segs := (f.overlays.filter (·.tract == t)).map (fun o => ((o.addr : Int), o.data.length))
  (pantryRanges w).all (fun r => decide (0 ≤ r.1) && decide (r.1 + r.2 ≤ pantrySize)) &&
  (src ++ dst).all (inGranted p) && !dst.any (fun d => segs.any (meet d)) &&
  (!isOverlay w || m.dstSpace != 2 ||
    (moverRuns m (wRepeat w)).all (fun r => decide (0 ≤ r.2) && decide (r.2 + m.run ≤ 65536)))

/-- A logical Croft that the grade has (R10). -/
def State.croftExists (s : State) (c : Nat) : Bool := c < 4096 && c % 128 < s.activeCrofts

/-- What Crofts an image names elsewhere: the attention set, barrier participants, Pen members. -/
def namedCrofts (f : FieldBody) : List Nat :=
  f.attnCrofts ++ f.participants ++ f.captureSet ++ f.pens.flatMap (fun q => q.members.filterMap (·.croft))

/-- A plan's own addresses: initial Pantry data and the capsule address (R261, R291). -/
def planBounds (s : State) (c : CroftPlan) : Bool :=
  s.croftExists c.logical && c.pantry.all (fun e => e.1 < pantrySize) && c.capsule + 4096 ≤ pantrySize

/-- Destination of a word within R268 and R281: DATA to an endpoint, a request to a Cellar service, a Pen word to a
device of the member's entry node. -/
def destOk (s : State) (fieldId : Nat) (f : FieldBody) (c : Nat) (w : BitVec 256) : Bool :=
  let x := portWord w
  let inField := fun (d : Nat) => match s.fieldEntry fieldId, s.targetOf d with
    | some e, some _ =>
      if d < 0x10000 then bits (s.routeEntry d) 30 25 == e.id
      else
        let i := d % 16384
        if rangeOf i = rangeOf s.devIndex then fieldOwns e i else e.spanning && inSysRect e.sysRect i
    | _, _ => false
  let holds := fun (q : PenPolicy) (ns : List PenNode) => ns.any (fun n => n.devices.any (fun d => x.peer == 0xF0000 + d) &&
    n.inputs.any (fun i => match i with
      | .member r => (match q.members[r]? with
          | some mb => mb.croft == some c && mb.eid == cellarEid s.devIndex
          | none => false)
      | .child _ => false))
  if isOp .fp 0 w then
    if x.ptype = 0x40 then x.peer < 0x10000 && inField x.peer
    else 0x20 ≤ x.ptype && x.ptype ≤ 0x25 && 0xF4000 ≤ x.peer && x.peer < 0xF8000 && inField x.peer
  else if isOp .fp 2 w || isOp .fp 3 w then
    x.ptype == (if isOp .fp 2 w then 0x10 else 0x11) &&
    (match f.pens.find? (·.tag == x.tsw0 / 65536) with
      | some q => (q.canonical && holds q q.canonNodes) || (q.arrival && holds q q.arrivalNodes)
      | none => false)
  else true

/-! ## Overlays (R293) -/

/-- A byte of a Tract's overlay segments, or of a Croft's initial Pantry data. -/
def sourceByte (f : FieldBody) (c : CroftPlan) (space : Nat) (a : Int) : Byte :=
  if space = 0 then Memory.read (pantryOf c) a.toNat
  else match f.overlays.find? (fun o => o.tract == c.logical / 128 && o.addr ≤ a.toNat && a.toNat < o.addr + o.data.length) with
    | some o => o.data.getD (a.toNat - o.addr) 0
    | none => 0

/-- The program store as bytes. -/
def storeBytes (ws : List (BitVec 256)) : Memory :=
  ws.zipIdx.foldl (fun m e => Memory.writeN m (32 * e.2) (beBytes 32 e.1.toNat)) []

/-- An OVERLAY word writes the program store. -/
def overlayStore (f : FieldBody) (c : CroftPlan) (w : BitVec 256) (m : Memory) : Memory :=
  let x := mover w
  if !isOverlay w || x.dstSpace != 2 then m else
  (moverRuns x (wRepeat w)).foldl (fun m r =>
    Memory.writeN m r.2.toNat ((List.range x.run).map (fun (i : Nat) => sourceByte f c x.srcSpace (r.1 + i)))) m

/-- One run of a program over the store: position of the first word that differs, and the store at the end. -/
def overlayRun (f : FieldBody) (c : CroftPlan) (entry : Nat) : List (BitVec 256 × Nat) → Memory → Option Nat × Memory
  | [], m => (none, m)
  | (w, j) :: r, m =>
    if beNat (Memory.readN m (32 * ((entry + j) % 2048)) 32) = w.toNat
    then overlayRun f c entry r (overlayStore f c w m) else (some j, m)

/-- IMG_E_OVERLAY of one program: a word that differs, or the last word where the store is not restored. Marks (DEDUCED 235). -/
def overlayFail (f : FieldBody) (c : CroftPlan) (p : TickProgram) : Option Nat :=
  let m := storeBytes c.store
  match overlayRun f c p.entry p.words.zipIdx m with
  | (some j, _) => some j
  | (none, m') => if m' = m then none else some (p.len - 1)

/-! ## The flag graph (R301) -/

/-- Earlier words of the same engine, in order. -/
def sameBefore (ws : List (BitVec 256)) (j : Nat) : List Nat :=
  (List.range j).filter (fun i => (ws.getD i 0 >>> 253) == (ws.getD j 0 >>> 253))

/-- The word of the same engine `n` places earlier. -/
def placesBack (ws : List (BitVec 256)) (j n : Nat) : Option Nat :=
  let b := sameBefore ws j
  if n ≤ b.length then b[b.length - n]? else none

/-- What a node depends on: 2j is word j's issue, 2j + 1 its retirement. -/
def dependsOn (ws : List (BitVec 256)) (node : Nat) : List Nat :=
  let j := node / 2
  let ret := fun (o : Option Nat) => match o with | some i => [2 * i + 1] | none => []
  if node % 2 = 0 then
    (if j = 0 then [] else [2 * (j - 1)]) ++ ret (placesBack ws j 128) ++ (if 512 ≤ j then [2 * (j - 512) + 1] else [])
  else [2 * j] ++ ret (placesBack ws j 1) ++ ret (raiserOf ws (ws.getD j 0))

/-- The nodes that some nodes depend on, as bits. -/
def reachFrom (ws : List (BitVec 256)) : Nat → List Nat → Nat → Nat
  | 0, _, m => m
  | _ + 1, [], m => m
  | n + 1, x :: r, m => if m.testBit x then reachFrom ws n r m else reachFrom ws n (dependsOn ws x ++ r) (m ||| 2 ^ x)

/-- Everything that a word's retirement depends on. -/
def needs (ws : List (BitVec 256)) (j : Nat) : Nat := reachFrom ws (16 * ws.length + 16) (dependsOn ws (2 * j + 1)) 0

/-- Two words of which neither waits for the other's retirement (R302). -/
def mayOverlap (ws : List (BitVec 256)) (i j : Nat) : Bool :=
  !(needs ws j).testBit (2 * i + 1) && !(needs ws i).testBit (2 * j + 1)

/-- IMG_E_FLAG_SOURCE: two words of different engines that raise one tick flag. -/
def sourceFail (ws : List (BitVec 256)) : Option (Nat × Nat) :=
  (List.range 48).findSome? (fun flag =>
    let rs := (List.range ws.length).filter (fun j => (wordRaises (ws.getD j 0)).any (·.1 == flag))
    match rs with
    | [] => none
    | a :: r => (r.find? (fun b => engineNamed (ws.getD a 0) != engineNamed (ws.getD b 0))).map (fun b => (a, b)))

/-- IMG_E_FLAG_NEVER: a resolved wait that no raise meets. -/
def neverFail (ws : List (BitVec 256)) : Option Nat :=
  (List.range ws.length).find? (fun j =>
    let w := ws.getD j 0
    resolved ws w && (raiser ws (wWaitFlag w) (wWaitCount w)).isNone)

/-- IMG_E_FLAG_CYCLE: the first waiting word whose raising word waits for it. -/
def cycleFail (ws : List (BitVec 256)) : Option (Nat × Nat) :=
  (List.range ws.length).findSome? (fun j =>
    match raiserOf ws (ws.getD j 0) with
    | some r => if r = j || (needs ws r).testBit (2 * j + 1) then some (j, r) else none
    | none => none)

/-! ## Pantry accesses and conflicts (R262, R263) -/

/-- Extra cycles of one cycle's lines: the most extra lines of any one bank (R262). -/
def extraCycles (ls : List Nat) : Nat :=
  let d := ls.eraseDups
  let bank := fun (l : Nat) => l / 2048 * 8 + l % 8
  (d.map (fun l => (d.filter (fun k => bank k == bank l)).length - 1)).foldl max 0

/-- Self-conflict of a word. -/
def selfConflict (w : BitVec 256) : Nat := ((accesses w).map extraCycles).foldl (· + ·) 0

/-- Line accesses of a word in a bank group. -/
def groupAccesses (g : Nat) (w : BitVec 256) : Nat := ((accesses w).flatten.filter (fun l => l / 2048 == g)).length

/-- What R263 charges a word for the words that may run beside it. -/
def crossConflict (ws : List (BitVec 256)) (j : Nat) : Nat :=
  let w := ws.getD j 0
  ((List.range ws.length).map (fun i =>
    let v := ws.getD i 0
    if i != j && engineNamed v != engineNamed w && mayOverlap ws i j
    then ((List.range 3).map (fun g => min (groupAccesses g w) (groupAccesses g v))).foldl (· + ·) 0 else 0)).foldl (· + ·) 0

/-! ## Costs (R258, R260, R264, R266, R267, R302) -/

/-- Ramp penalty by starting level (Table 10-3). -/
def rampPenalty (level : Nat) : Nat := [16, 12, 9, 6, 4, 2, 1, 0, 0].getD level 0

/-- T of R258. -/
def mxCost (last : Option (BitVec 256)) (w : BitVec 256) : Nat :=
  let l := mxUnhidden last w
  let r := if last.isNone || wWaitEn w then 16 else rampPenalty (8 - min 8 (l / 4))
  r + l + mxStream w + (compute w).k + 8

/-- Issue interval and latency (Table 10-5). -/
def vxTiming (op : Nat) : Nat × Nat :=
  if op ≤ 3 then (1, 4) else if op ≤ 5 then (1, 2) else if op ≤ 7 then (4, 14) else if op = 8 then (7, 24)
  else if op = 9 then (7, 18) else (1, 3)

/-- Time for which a VX word holds the unit. -/
def vxBusy (w : BitVec 256) : Nat := wRepeat w * (compute w).run * (vxTiming (wOp w)).1

/-- Bytes that a mover word moves. -/
def moverBytes (w : BitVec 256) : Nat :=
  let m := mover w
  if wOp w = 2 || wOp w = 3 then wRepeat w * m.run else wRepeat w * m.c1 * m.c2 * m.run

/-- A word that moves to or from the stack. -/
def isStack (w : BitVec 256) : Bool :=
  engineNamed w == some .mv && ((mover w).srcSpace == 1 || (mover w).dstSpace == 1)

/-- A Tract's guarantee to stack words: XFER_CROFT, whole cycles of the tick, Crofts with stack words (R266). -/
structure Grant where
  xfer   : Nat
  cycles : Nat
  crofts : Nat

/-- ⌈B / min(64, g)⌉ for g = xfer × 65,536 / (cycles × crofts); none where g is 0. -/
def Grant.time (g : Grant) (b : Nat) : Option Nat :=
  let n := g.xfer * 65536
  let d := g.cycles * g.crofts
  if 64 * d ≤ n then some ((b + 63) / 64) else if n = 0 then none else some ((b * d + n - 1) / n)

/-- Cost of a mover word (Table 10-4, R266). -/
def mvCost (g : Grant) (w : BitVec 256) : Option Nat :=
  let b := moverBytes w
  if isStack w then (g.time b).map (· + 600)
  else some (if wOp w = 2 || wOp w = 3 then wRepeat w * (1 + ((mover w).run + 63) / 64)
    else if wOp w = 1 || wOp w = 5 then (b + 31) / 32 else (b + 63) / 64)

/-- Packets and bytes that a fabric-port word sends. -/
def sentBy (w : BitVec 256) : Nat × Nat :=
  let p := portWord w
  if wOp w = 3 then
    let (np, _, sl) := chunkShape (p.len / max 1 (wRepeat w))
    (wRepeat w * (np + 1), p.len + wRepeat w * (sl + 16))
  else ((p.len + 4095) / 4096, p.len)

/-- Cost of a word (R302); none is without bound. Marks (DEDUCED 236). -/
def wordCost (g : Grant) (lastMx : Option (BitVec 256)) (w : BitVec 256) : Option Nat :=
  match engineNamed w with
  | some .mx => some (mxCost lastMx w)
  | some .vx => some (vxBusy w + (vxTiming (wOp w)).2)
  | some .mv => mvCost g w
  | some .fp => some (if wOp w = 1 then 1 else ((sentBy w).2 + 63) / 64 + 16 * (sentBy w).1)
  | _ => some (if isOp .fl 3 w then 8 else 1)

/-! ## The budget (R302) -/

/-- Times of a word in cc from the program's start. -/
structure Timing where
  iss   : Nat
  start : Nat
  ret   : Nat
  deriving DecidableEq, Repr

/-- A line that one word writes and another reads. -/
def readsFrom (a b : BitVec 256) : Bool :=
  let outs := (opD a).ranges ++ (splitOuts a).flatMap Operand.ranges
  let ins := (opA b).ranges ++ (if usesB b then (opB b).ranges else []) ++ (if isOp .vx 3 b then (opD b).ranges else [])
  ins.any (fun i => (linesOf i.1 i.2).any (fun l => outs.any (fun o => (linesOf o.1 o.2).contains l)))

/-- When the next word of an engine may start (Table 11-8). -/
def freeAfter (v : BitVec 256) (t : Timing) (w : BitVec 256) : Nat :=
  match engineNamed v with
  | some .mx => t.ret - ((compute v).k + 8)
  | some .vx => if readsFrom v w then t.ret else t.start + vxBusy v
  | _ => t.ret

/-- Times of word j, where everything that it waits for has its own. -/
def timeWord (ws : List (BitVec 256)) (g : Grant) (ts : Tab Timing) (j : Nat) : Option Timing :=
  let w := ws.getD j 0
  let at? := fun (i : Nat) => ((ts.find? (·.1 == i)).map (·.2) : Option Timing)
  let ret := fun (o : Option Nat) => match o with | none => some 0 | some i => (at? i).map Timing.ret
  let early := (List.range (j + 1 - 512)).map at?
  let lastMx := ((sameBefore ws j).getLast?).map (fun i => ws.getD i 0)
  let issued := if j = 0 then some 0 else (at? (j - 1)).map (fun (t : Timing) => t.iss + 1)
  let free := match placesBack ws j 1 with
    | none => some 0
    | some i => (at? i).map (fun t => freeAfter (ws.getD i 0) t w)
  let wait := match raiserOf ws w with
    | some r => (at? r).map (fun (t : Timing) => t.ret + 1)
    | none => some (if wWaitEn w && !resolved ws w then 128 * wBound w else 0)
  match issued, ret (placesBack ws j 128), free, wait, wordCost g lastMx w with
  | some i, some b, some f, some u, some c =>
    if early.all Option.isSome then
      let iss := max (max i b) ((early.map (fun (o : Option Timing) => match o with | some t => t.ret | none => 0)).foldl max 0)
      let start := max (max (iss + 1) u) f
      some { iss := iss, start := start, ret := start + c + selfConflict w + crossConflict ws j }
    else none
  | _, _, _, _, _ => none

/-- One pass over the words in program order. -/
def timePass (ws : List (BitVec 256)) (g : Grant) (ts : Tab Timing) : Tab Timing :=
  (List.range ws.length).foldl (fun ts j =>
    if ts.any (·.1 == j) then ts
    else match timeWord ws g ts j with | some t => Tab.add j t ts | none => ts) ts

/-- Passes until every word has its times; a program without a cycle needs no more than its length. -/
def timePasses (ws : List (BitVec 256)) (g : Grant) : Nat → Tab Timing → Tab Timing
  | 0, ts => ts
  | n + 1, ts => if ts.length = ws.length then ts else timePasses ws g n (timePass ws g ts)

def timeProgram (ws : List (BitVec 256)) (g : Grant) : Tab Timing := timePasses ws g ws.length []

/-- IMG_E_BUDGET: the last word to retire, where the budget exceeds the tick. -/
def budgetFail (ws : List (BitVec 256)) (g : Grant) : Option Nat :=
  let ts := timeProgram ws g
  let top := (ts.map (fun e => e.2.ret)).foldl max 0
  if ts.length < ws.length then (List.range ws.length).find? (fun j => !ts.any (·.1 == j))
  else if top ≤ g.cycles then none else (ts.find? (fun e => e.2.ret == top)).map (·.1)

/-! ## Transfers (R266) -/

/-- Transfers of the stack words of one program. -/
def programTransfers (p : TickProgram) : Nat :=
  ((p.words.filter isStack).map (fun w => (moverBytes w + 65535) / 65536)).foldl (· + ·) 0

/-- The Crofts of a Tract. -/
def tractPlans (f : FieldBody) (t : Nat) : List CroftPlan := f.crofts.filter (fun c => c.logical / 128 == t)

/-- Transfers of a Tract in tick n after the launch. -/
def tickTransfers (f : FieldBody) (t n : Nat) : Nat :=
  ((tractPlans f t).map (fun c =>
    match c.schedule.getD (n % max 1 c.schedule.length) none with
    | some i => programTransfers (c.programs.getD i {})
    | none => 0)).foldl (· + ·) 0

/-- IMG_E_XFER: a Tract with a tick whose transfers exceed XFER_CROFT. -/
def xferFail (f : FieldBody) : Option Nat :=
  (List.range 32).find? (fun t =>
    let span := ((tractPlans f t).map (fun c => c.schedule.length)).foldl Nat.lcm 1
    (List.range span).any (fun n => (f.cellar.getD t {}).xferCroft.getD 0 < tickTransfers f t n))

/-- The guarantee of a Tract. -/
def grantOf (f : FieldBody) (kexp t : Nat) : Grant :=
  let usesStack := fun (c : CroftPlan) => c.programs.any (fun p => p.words.any isStack)
  { xfer := (f.cellar.getD t {}).xferCroft.getD 0, cycles := tickCycles kexp
    crofts := ((tractPlans f t).filter usesStack).length }

/-! ## IMG_E_WORD to IMG_E_BUDGET -/

/-- The checks of the CROFT part in the order of Table 11-11. -/
def wordFail (s : State) (h : ImgHeader) (ss : List Section) (f : FieldBody) : Option Reject :=
  let at16 := some (sectIndex ss 0x16)
  let places := placesOf f
  let words := fun (p : Place) => ((p.plan.programs.getD p.prog {}).words)
  let one := fun (code : Nat) (ok : Place → Bool) =>
    (places.find? (fun p => !ok p)).map (fun p => ({ code := code, sect := at16, a := some p.item } : Reject))
  let progs := f.crofts.flatMap (fun c => c.programs.zipIdx.map (fun p => (c, p.2, p.1)))
  let each := fun (code : Nat) (bad : CroftPlan → TickProgram → Option (Nat × Option Nat)) =>
    progs.findSome? (fun e => (bad e.1 e.2.2).map (fun j => ({
      code := code, sect := at16, a := some (itemOf e.1.logical e.2.1 j.1)
      b := match j.2 with | some k => some (itemOf e.1.logical e.2.1 k) | none => some 0 } : Reject)))
  let single := fun (o : Option Nat) => o.map (fun j => (j, (none : Option Nat)))
  let pair := fun (o : Option (Nat × Nat)) => o.map (fun e => (e.1, some e.2))
  let plans := (f.crofts.find? (fun c => !planBounds s c)).map (fun c => c.logical)
  let segs := f.overlays.all (fun o => decide (0x44A00000 ≤ o.addr) && decide (o.addr + o.data.length ≤ 0x80000000))
  firstFail [
    one 0x15 (fun p => wordOk (words p) (tickCycles h.kexp) p.pos p.word),
    one 0x16 (fun p => !fusedWord s.fuses p.word),
    plans.map (fun c => { code := 0x17, sect := at16, a := some (itemOf c 0 0) }),
    ((namedCrofts f).find? (fun c => !s.croftExists c)).map (fun c => { code := 0x17, sect := none, a := some (itemOf c 0 0) }),
    passIf segs { code := 0x17, sect := at16, a := none },
    one 0x17 (fun p => boundsOk f p.plan p.word),
    one 0x18 (fun p => destOk s h.field f p.plan.logical p.word),
    each 0x19 (fun c p => single (overlayFail f c p)),
    each 0x1A (fun _ p => pair (sourceFail p.words)),
    each 0x1B (fun _ p => single (neverFail p.words)),
    each 0x1C (fun _ p => pair (cycleFail p.words)),
    (xferFail f).map (fun t => { code := 0x1D, sect := at16, a := some t }),
    each 0x1E (fun c p => single (budgetFail p.words (grantOf f h.kexp (c.logical / 128)))) ]

end Sys2Proof.Machine
end

