-- ==== Sys2Proof/Machine/Pins.lean ====
section
/-! DEFINITION. Machine/Pins.lean: rails, clocks, thermal block, VID, SMBus and test port
(17_package_electrical_thermal.md, 16_register_map.md). -/

namespace Sys2Proof.Machine

/-! ## Thermal (R412, R413, R431, R433) -/

/-- Whether a sensor is one of an HBM stack (R413). -/
def hbmSensor (i : Nat) : Bool := 9 ≤ i && i ≤ 40

/-- Temperature of a sensor in units of 0.125 °C. -/
def State.temp (s : State) (i : Nat) : Temp := Tab.look {} s.thm.temps i

/-- Onset of throttling of a sensor, in units of 0.125 °C (R431). -/
def State.onset (s : State) (i : Nat) : Int := 8 * (if hbmSensor i then (s.thm.hbmThr : Int) else s.thm.juncThr)

/-- A sensor reads: CUR is the reading and PEAK the highest since it was cleared (Table 16-10). -/
def sense (i : Nat) (v : BitVec 16) (s : State) : State :=
  let read := fun (e : Temp) => ({ cur := v, peak := if e.peak.slt v then v else e.peak } : Temp)
  s.modThm (fun t => { t with temps := Tab.edit {} t.temps i read })

/-- The level that one sensor asks for (R431). -/
def State.wants (s : State) (i : Nat) : Nat :=
  let t := (s.temp i).cur.toInt
  if t < s.onset i then 0 else min 7 (1 + ((t - s.onset i) / 4).toNat)

/-- The greatest level asked for, and the lowest-numbered sensor that asks for it. -/
def State.want (s : State) : Nat × Nat :=
  (List.range 57).foldl (fun b i => if b.1 < s.wants i then (s.wants i, i) else b) (0, 0)

/-- Whether every sensor lies below the point at which a level is left (R431). -/
def State.quietNow (s : State) (level : Nat) : Bool :=
  (List.range 57).all (fun i => (s.temp i).cur.toInt < s.onset i + 4 * ((level : Int) - 1) - 8)

/-- One evaluation of LEVEL (R431); a change of LEVEL signals vector 7, entry from level 0 records 0x0805 (R412). -/
def evalLevel (s : State) : State :=
  let (w, i) := s.want
  let level := s.thm.level
  if level < w then
    let s1 := s.modThm (fun t => { t with level := w, quiet := 0, sensor := i })
    let s2 := if level = 0 then recordFault { source := 0x0805, unit := 0x2F05, cls := 1, access := 0x0C,
                                               addr := i * 2 ^ 32 + (s.temp i).cur.toNat } s1 else s1
    signal 7 s2
  else if 0 < level && s.quietNow level then
    if s.thm.quiet + 1 = 16 then signal 7 (s.modThm (fun t => { t with level := level - 1, quiet := 0 }))
    else s.modThm (fun t => { t with quiet := t.quiet + 1 })
  else s.modThm (fun t => { t with quiet := 0 })

/-- THROTTLE_EVAL: the sensors are read and LEVEL is evaluated at the next Bell mark (R431). GT runs from t0. Marks (DEDUCED 85). -/
def throttleEval (rs : List (Nat × BitVec 16)) (s : State) : State :=
  if s.glb.stage = 0 then s else
  evalLevel (rs.foldl (fun s r => sense r.1 r.2 s) (advanceTo (s.markAt s.bel.gt) s))

/-- Trip point of a sensor, in units of 0.125 °C (R433). -/
def tripPoint (i : Nat) : Int := 8 * (if hbmSensor i then 98 else 108)

/-- THERMAL_TRIP: THERM_TRIP_N is asserted and the device enters the fatal state (R433). Marks (DEDUCED 86). -/
def thermalTrip (i : Nat) (v : BitVec 16) (s : State) : State :=
  if v.toInt < tripPoint i then s else
  recordFault { source := 0x0806, unit := 0x2F05, cls := 3, access := 0x0C, addr := i * 2 ^ 32 + v.toNat }
    ((sense i v s).modThm (fun t => { t with trip := true }))

/-- THM_PEAK_CLEAR: every PEAK is set to its CUR (Table 16-10). -/
def peakClear (s : State) : State :=
  let one := fun m i => Tab.edit {} m i (fun (e : Temp) => { e with peak := e.cur })
  s.modThm (fun t => { t with temps := (List.range 57).foldl one t.temps })

/-! ## Rails, clocks, VID (R417, R418, R421) -/

/-- RAIL_OUT_OF_RANGE: fatal event 0x0807 while PWR_GOOD stays asserted (R418). Marks (DEDUCED 83). -/
def railOut (rail mv : Nat) (s : State) : State :=
  if !s.pins.pwrGood then s else
  recordFault { source := 0x0807, unit := 0x2F05, cls := 3, access := 0x0C, addr := rail * 2 ^ 32 + mv }
    (s.modPins (fun p => { p with rails := Tab.put 0 p.rails rail (BitVec.ofNat 16 mv) }))

/-- PLL_LOCK_LOST: fatal event 0x0808; the PLLs lock from t0 (R421). -/
def pllLost (pll : Nat) (s : State) : State :=
  if s.glb.stage = 0 then s else
  recordFault { source := 0x0808, unit := 0x2F06, cls := 3, access := 0x0B, addr := pll } s

/-- VID_STEP: one step of the code, at most one per 10 ms, held in the fatal state (R417). Marks (DEDUCED 84). -/
def vidStep (code : Nat) (s : State) : State :=
  if s.glb.stage = 0 || s.isFatal || s.pins.vid == 31 then s
  else if code + 1 = s.pins.vid || code = s.pins.vid + 1 then
    let s := match s.pins.vidGt with | some g => advanceTo (g + 3125000) s | none => s
    s.modPins (fun p => { p with vid := code, vidGt := some s.bel.gt })
  else s

/-! ## SMBus (R423) -/

/-- The hottest CUR of some sensors. -/
def State.hottest (s : State) (is : List Nat) : BitVec 16 :=
  match is with
  | [] => 0
  | i :: r => r.foldl (fun m j => if m.slt (s.temp j).cur then (s.temp j).cur else m) (s.temp i).cur

/-- The power that the on-die monitors estimate is open; while STAGE is 0 none is taken (Table 16-10). Marks (DESIGN CHOICE 52). -/
def samplePower (s : State) : State :=
  if s.glb.stage = 0 then s else (let (v, s) := s.draw; s.modThm (fun t => { t with power := v.setWidth 12 }))

/-- The millivolts at the sense contacts of a rail are open, too. -/
def sampleRail (rail : Nat) (s : State) : State :=
  if s.glb.stage = 0 then s
  else (let (v, s) := s.draw; s.modPins (fun p => { p with rails := Tab.put 0 p.rails rail (v.setWidth 16) }))

/-- The target NACKs its address while STAGE is 0 (R423). Marks (DEDUCED 88). -/
def smbAnswer (w : State → BitVec 16) (s : State) : State :=
  if s.glb.stage = 0 then s.emit .smbNack else s.emit (.smbWord (w s))

/-- Command 0x00 (Table 17-7). -/
def smbStatusWord (s : State) : BitVec 16 :=
  BitVec.ofNat 16 (s.glb.stage * 4096 + ofBool s.isFatal * 2048 + ofBool s.thm.trip * 1024 + s.thm.level)

/-! ## Test port (R424) -/

/-- SAMPLE/PRELOAD, EXTEST, HIGHZ and CLAMP are accepted only before the first release of PERST_N. -/
def State.scanOpen (s : State) : Bool := s.glb.stage == 0

/-- BYPASS selects the one-bit bypass register, which shifts out 0. -/
def jtagSelect (ir : Nat) (value : Word) (s : State) : State :=
  (s.modPins (fun p => { p with jtagIr := ir })).emit (.jtag ir value)

/-- A boundary-scan instruction: its own register while open, else BYPASS. The chain's contents are open. Marks (DESIGN CHOICE 87). -/
def jtagScan (ir : Nat) (s : State) : State :=
  if s.scanOpen then jtagSelect ir (s.draw.1.setWidth 32) s.draw.2 else jtagSelect 0 0 s

/-- HIGHZ and CLAMP select the bypass register while they act on the pins. -/
def jtagHold (ir : Nat) (s : State) : State := if s.scanOpen then jtagSelect ir 0 s else jtagSelect 0 0 s

/-- IDCODE is 0xv096_056B with v = DIE_REV[3:0]. -/
def State.idcode (s : State) : Word := BitVec.ofNat 32 ((s.fuses.dieRev % 16) * 2 ^ 28 + 0x096056B)

/-! ## Meanings -/

def execThrottleEval (readings : List (Nat × BitVec 16)) (s : State) : Answer :=
  need (readings.all (fun r => Wf.sensor r.1)) (throttleEval readings s)
def execThermalTrip (sensor : Nat) (reading : BitVec 16) (s : State) : Answer :=
  need (Wf.sensor sensor) (thermalTrip sensor reading s)
def execThmPeakClear (s : State) : Answer := .next (if s.glb.stage < 2 then s else peakClear s)
def execRailOutOfRange (rail mv : Nat) (s : State) : Answer := need (rail < 7 && mv < 0x10000) (railOut rail mv s)
def execPllLockLost (pll : Nat) (s : State) : Answer := .next (pllLost pll s)
def execVidStep (code : Nat) (s : State) : Answer := need (code ≤ 28) (vidStep code s)
def execSmbStatus (s : State) : Answer := .next (smbAnswer smbStatusWord s)
def execSmbJuncTemp (s : State) : Answer :=
  .next (smbAnswer (fun s => s.hottest (List.range 9 ++ (List.range 16).map (· + 41))) s)
def execSmbHbmTemp (s : State) : Answer := .next (smbAnswer (fun s => s.hottest ((List.range 32).map (· + 9))) s)
def execSmbPower (s : State) : Answer := .next (smbAnswer (fun s => s.thm.power.setWidth 16) (samplePower s))
def execSmbDevIndex (s : State) : Answer := .next (smbAnswer (fun s => BitVec.ofNat 16 s.devIndex) s)
def execSmbVid (s : State) : Answer := .next (smbAnswer (fun s => BitVec.ofNat 16 s.pins.vid) s)
def execSmbRailMv (rail : Nat) (s : State) : Answer :=
  need (rail < 7) (smbAnswer (fun s => Tab.look 0 s.pins.rails rail) (sampleRail rail s))
def execJtagBypass (s : State) : Answer := .next (jtagSelect 0 0 s)
def execJtagIdcode (s : State) : Answer := .next (jtagSelect 1 s.idcode s)
def execJtagSamplePreload (s : State) : Answer := .next (jtagScan 2 s)
def execJtagExtest (s : State) : Answer := .next (jtagScan 3 s)
def execJtagHighz (s : State) : Answer := .next (jtagHold 4 s)
def execJtagClamp (s : State) : Answer := .next (jtagHold 5 s)

end Sys2Proof.Machine
end

