-- ==== Sys2Proof/Machine/Resets.lean ====
section
/-! DEFINITION. Machine/Resets.lean: power-up, power loss, the three reset tiers, host-link resets, capsules, fences and
injection by command, inputs (14_faults_hangs_recovery.md R345-R374, 15_power_up_identity_grades.md R377-R391,
13_optical_bell_and_host_links.md R341). -/

namespace Sys2Proof.Machine

/-! ## Reset records (R373) -/

/-- A reset record is written at the request of a reset; `cause` is the last fault SOURCE for kinds 1, 2, 3 and 6. -/
def openReset (kind field : Nat) (s : State) : Nat × State :=
  let n := s.attic.resetSeq
  let cause := if kind = 4 || kind = 5 then 0 else s.flt.lastSource
  let r : ResetRec := { seq := n, kind := kind, field := field, cause := cause, boot := s.attic.boots, gtReq := s.bel.gt }
  (n, s.modAttic (fun a => { a.putReset r with resetSeq := (n + 1) % 2 ^ 32 }))

/-! ## Capsules (R360, R361) -/

/-- CRF_STATE of a physical Croft (Table 10-7). -/
def Croft.stateWord (c : Croft) : Nat :=
  ofBool c.fenced * 2 ^ 31 + ofBool c.hung * 2 ^ 30 + ofBool c.fused * 2 ^ 29 + ofBool c.failed * 2 ^ 28 +
  ofBool c.spare * 2 ^ 27 + ofBool c.attn * 2 ^ 26 +
  (match c.logical with | some l => 2 ^ 25 + l | none => 0)

/-- The record of one logical Croft (Table 14-8). Marks (DEDUCED 81). -/
def State.capsuleRec (s : State) (c : Nat) : Option CapsuleRec :=
  (s.physOf c).map (fun k =>
    let x := s.croft k
    let a := match s.plan c with | some p => p.capsule | none => 0
    { logical := c, physical := k, state := BitVec.ofNat 32 x.stateWord, step := x.step
      prog := BitVec.ofNat 32 x.lastProg
      heads := [x.mx, x.vx, x.mv, x.fp, x.fl].map (fun q => match q.head? with | some w => w.word | none => 0)
      flags := (List.range 64).map (Tab.look 0 x.flags), pantry := Memory.readN x.pantry a 4096 })

/-- The capsule of a request as the Crofts stand. -/
def State.capsuleOf (s : State) (r : CapsuleReq) : Capsule :=
  { cause := r.cause, field := r.field, boot := s.attic.boots, faultSeq := r.faultSeq, gt := r.gt, dev := s.devIndex
    complete := true, tflags := (List.range 512).map (Tab.look 0 s.crf.tflags)
    records := r.crofts.filterMap s.capsuleRec }

/-- The capsule being written is complete, and the one that waits is begun; a failed Attic has written nothing. -/
def endCapsule (s : State) : State :=
  match s.attic.writing with
  | none => s
  | some r =>
    let c := s.capsuleOf r
    s.modAttic (fun a =>
      let a := { a with writing := a.waiting, waiting := none }
      if a.failed then a
      else { a with capsules := Tab.put none a.capsules a.nextCap (some c), nextCap := (a.nextCap + 1) % 8 })

/-! ## Croft state at a reset (R273-R275) -/

/-- What stays of a physical Croft when its state is cleared. -/
def Croft.bare (c : Croft) : Croft :=
  { fenced := c.fenced, hung := c.hung, fused := c.fused, failed := c.failed, spare := c.spare, attn := c.attn
    logical := c.logical }

/-- A program store as an image loads it: words from address 0. -/
def storeOf (ws : List (BitVec 256)) : Tab (BitVec 256) :=
  ws.zipIdx.filterMap (fun e => if e.1 = 0 then none else some (e.2, e.1))

/-- A Croft cleared, with the Pantry data and programs that the applied image gives its logical number. -/
def reloadCroft (l k : Nat) (s : State) : State :=
  let plan := s.plan l
  s.modCroft k (fun c => match plan with
    | some p => { c.bare with pantry := pantryOf p, store := storeOf p.store }
    | none => c.bare)

/-- The lowest-numbered healthy spare of a Tract. -/
def State.spareOf (s : State) (t : Nat) : Option Nat :=
  (tractCrofts t).find? (fun k => let c := s.croft k; c.spare && !c.fenced && !c.failed && !c.fused)

/-- A fenced Croft leaves service: a spare takes its logical number, or the number is absent (R274). Marks (DEDUCED 67). -/
def replaceCroft (l k : Nat) (s : State) : State :=
  let attn := (s.croft k).attn
  match s.spareOf (k / 136) with
  | some j =>
    let s := s.modCroft k (fun c => { c with fenced := false, hung := false, failed := true, logical := none, attn := false, fencedTick := none })
    let s := s.modCroft j (fun c => { c with spare := false, logical := some l, attn := attn })
    s.modCrf (fun r => { r with lmap := Tab.put none r.lmap l (some j) })
  | none =>
    (s.modCroft k (fun c => { c with logical := none, attn := false })).modCrf
      (fun r => { r with lmap := Tab.put none r.lmap l none })

/-- Fenced Crofts are replaced; those of a fenced Tract stay fenced, as their Tract does (Table 14-5). -/
def replaceFenced (s : State) : State :=
  s.crf.lmap.foldl (fun s e => match e.2 with
    | some k => if (s.croft k).fenced && !(s.tract (k / 136)).fenced then replaceCroft e.1 k s else s
    | none => s) s

/-- The Crofts of the device are cleared and reloaded; flags are zero, nothing runs, and no Croft waits at a barrier. -/
def reloadCrofts (s : State) : State :=
  let s := s.crf.lmap.foldl (fun s e => match e.2 with | some k => reloadCroft e.1 k s | none => s) s
  let s := match s.home with | some e => s.modBarrier e.id (fun r => { r with waiters := [] }) | none => s
  s.modCrf (fun c => { c with tflags := [], tflagGt := [], running := false, paused := false, halted := false })

/-- A reset's part on the Crofts: fenced ones are replaced, then all are cleared and reloaded. -/
def clearCrofts (s : State) : State := reloadCrofts (replaceFenced s)

/-! ## What a reset ends (R364, R367, R409) -/

/-- IMG_CKPT_STATUS.STATE takes a value, which signals vector 3 (Table 13-8). -/
def setCkpt (st code : Nat) (s : State) : State :=
  signal 3 (s.modImg (fun i => { i with ckptState := st, ckptCode := code }))

/-- A pending SAVE or RESUME fails, with a CODE that no rule states; a pause is over (R367). -/
def endCkpt (s : State) : State :=
  let st := s.img.ckptState
  if st = 1 || st = 2 || st = 5 then
    let (v, s) := s.draw
    setCkpt 4 (v.toNat % 256) s
  else if st = 3 then setCkpt 0 0 s
  else s

/-- A pending launch ends in IDLE with FIELD_E_RESET (R409). -/
def endLaunch (c : Nat → Bool) (s : State) : State :=
  if s.bel.launchState = 1 && c s.bel.launchField then s.modBel (fun b => { b with launchState := 0, launchCode := 8 }) else s

/-- Messages in assembly and batches not yet answered are dropped (Table 9-10). -/
def dropRequests (s : State) : State :=
  (List.range 32).foldl (fun s t => s.modAtsTract t (fun r => { r with asm := [], batch := [] })) s

/-- Steps 1 to 4 of a Field reset where the device has the Field (R364). Marks (DEDUCED 77, 163). -/
def fieldSteps (f : Nat) (s : State) : State :=
  let s := resetPens (fun i => i.tag / 1024 == f) abFieldReset s
  let s := s.modFld (fun l => { l with scales := l.scales.filter (fun e => e.tag / 1024 != f) })
  endCkpt (clearCrofts (dropRequests s))

/-- A Field reset: the device's own part, and RELEASE ABORT at the Bellwether. -/
def fieldResetSteps (f : Nat) (s : State) : State :=
  let s := if s.inField f then fieldSteps f s else s
  settleCore (abortBarrier f (endLaunch (· == f) s))

/-- The Storekeeper of a Tract comes back from a warm reset (R221): accepted operations and a repair under way are
complete, the quiesce ends, rows still queued stay queued, registers are reset. Marks (DEDUCED 44). -/
def restartTract (t : Nat) (s : State) : State :=
  let r := s.tract t
  let s := if r.quiesce then quiesceEnd t (repairDone t [] s) else s
  s.modTract t (fun r => { r with quietTicks := 0, tableUe := false, ce := 0, ue := 0, empties := 0, nlo := 0, dfree := 0 })

/-- Step 1 of Table 14-10: every Pen with a node here aborts, requests are lost, and what waits at the Fold slots and
Cellar ports is discarded and counted. -/
def warmStart (s : State) : State :=
  let s := resetPens (fun _ => true) abNodeReset s
  let s := (List.range 32).foldl (fun s t => s.modAtsTract t (fun r =>
    { r with asm := [], batch := [], held := [], refused := [], short := [] })) s
  let s := s.modFlt (fun x => { x with rstWaiting := some (2, 0) })
  let lost := s.inbox.filter (fun e => s.warmDiscards e.1 e.2)
  let s := lost.foldl (fun s e => countFenced e.1 s) s
  s.modInbox (fun l => l.filter (fun e => !s.warmDiscards e.1 e.2))

/-- Steps 3 to 6 of Table 14-10: FLD, CEL, STK, ATS and CRF are reset but for RWL fields; Fold lanes are retested. Marks (DEDUCED 68). -/
def warmSteps (s : State) : State :=
  let s := (List.range 32).foldl (fun s t => restartTract t s) s
  let s := s.modFld (fun _ => {})
  let s := s.modCel (fun c => { c with lastRepair := 0, promote := [], mirBroken := 0, mirRej := 0 })
  let s := s.modAts (fun a => { reclaimMin := a.reclaimMin })
  settleCore (endLaunch (fun _ => true) (endCkpt (clearCrofts s)))

/-! ## Requests (R362-R367) -/

/-- FLT_RESET.STATE and CODE. -/
def showReset (st code : Nat) (s : State) : State := s.modFlt (fun x => { x with rstState := st, rstCode := code })

/-- A Field or warm reset runs its steps and is DONE (R364, R365, R373). -/
def runReset (tier f : Nat) (cap : Option Nat) (s : State) : State :=
  let s := if tier = 1 then fieldResetSteps f s else warmSteps s
  let seq := s.flt.rstSeq
  let gt := s.bel.gt
  let s := match seq with | some q => s.modAttic (fun a => a.finishReset q gt 0 cap) | none => s
  showReset 5 0 (s.modFlt (fun x => { x with rstWaiting := none, rstSeq := none }))

/-- The logical Crofts that a reset's capsule covers (R360). -/
def State.resetCrofts (s : State) (tier f : Nat) : List Nat :=
  let set := match s.fieldBody with | some (g, b) => if tier = 2 || g = f then b.captureSet else [] | none => []
  capsuleSet [] (set.filter (fun c => (s.physOf c).isSome))

/-- A reset is accepted: its record opens, and it waits for its capsule where one is due (R360, R361). Marks (DESIGN CHOICE 66). -/
def startReset (tier f : Nat) (capsule : Bool) (s : State) : State :=
  let field := if tier = 1 then f else 0xFF
  let (q, s) := openReset tier field s
  let s := s.modFlt (fun x => { x with rstSeq := some q })
  let s := if tier = 2 then warmStart s else s
  let crofts := s.resetCrofts tier f
  let room := !s.attic.failed && (s.attic.writing.isNone || s.attic.waiting.isNone)
  if capsule && !crofts.isEmpty then
    let s := requestCapsule { cause := tier + 2, field := field, gt := s.bel.gt, crofts := crofts } s
    if room then
      showReset 1 0 ((s.modFlt (fun x => { x with rstWaiting := some (tier, f) })).modCrf (fun c => { c with halted := true }))
    else runReset tier f none s
  else runReset tier f none s

/-- Whether a device may take a Field reset of a Field (R367). -/
def State.resetsField (s : State) (f : Nat) : Bool := s.inField f || s.bel.acting

/-- A reset of this tier or a higher one is under way. -/
def State.resetUnderWay (s : State) (tier : Nat) : Bool :=
  match s.flt.rstWaiting with | some (t, _) => decide (tier ≤ t) | none => false

/-- The code with which a request is refused, if it is (R367, R384). Marks (DEDUCED 65). -/
def State.resetRefusal (s : State) (tier f : Nat) : Option Nat :=
  if s.isFatal then (if tier = 3 then none else some 3)
  else if s.glb.stage < 7 then some 1
  else if s.resetUnderWay tier then some 1
  else if tier = 1 && !s.resetsField f then some 2
  else none

/-- A write of FLT_RESET with GO and TIER 1 or 2. -/
def requestReset (tier f : Nat) (capsule : Bool) (s : State) : State :=
  if s.glb.stage < 2 then s
  else
    let s := s.modFlt (fun x => { x with rstTier := tier, rstField := f, rstCapsule := capsule })
    match s.resetRefusal tier f with
    | some code => showReset 6 code s
    | none => startReset tier f capsule s

/-- CAPSULE_DONE: the capsule that waits is begun, and the reset whose capsule this was goes on (R360). -/
def capsuleDone (s : State) : State :=
  match s.attic.writing with
  | none => s
  | some r =>
    let cap := if s.attic.failed then none else some s.attic.nextCap
    let s := endCapsule s
    match s.flt.rstWaiting with
    | some (tier, f) => if r.cause = tier + 2 then runReset tier f cap s else s
    | none => s

/-! ## Power-up (R379-R391) -/

/-- The Attic completes its open records and the capsule that it is writing; it begins no other (R374). -/
def settleAttic (s : State) : State :=
  let s := endCapsule (s.modAttic (fun a => { a with waiting := none }))
  s.modAttic (fun a => { a.openRecs.foldl Attic.closeRecord a with openRecs := [], capSkip := 0 })

/-- What no reset takes: the queue, the fuses, the Attic, and the model's own record of outputs and draws. -/
def State.stripped (s : State) : State :=
  { State.reset with pending := s.pending, fuses := s.fuses, attic := s.attic, out := s.out, draws := s.draws }

/-- The identity seed (R391): a marked slot whose check passes is used (R387); else the drawn seed goes to slot A, or to B
where A was abandoned. Marks (DEDUCED 271). -/
def seedFuses (seed : Bytes) (bad : BitVec 2) (u : Fuses) : Fuses × Bool :=
  if (u.markA && !bad.getLsbD 0) || (u.markB && !bad.getLsbD 1) then (u, false)
  else if u.seedA.isEmpty && !u.markA then ({ u with seedA := seed, markA := true }, true)
  else if u.seedB.isEmpty && !u.markB then ({ u with seedB := seed, markB := true }, true)
  else (u, false)

/-- An image key slot with key bits but no enrolled marker is marked revoked (R395). -/
def Fuses.revokePartial (u : Fuses) : Fuses :=
  { u with revoked := (List.range 4).foldl (fun m i =>
      if !(u.keys.getD i []).isEmpty && !u.enrolled.getLsbD i then m ||| (1#4 <<< i) else m) u.revoked }

/-- A physical Croft after the self-test (R273): the passing Crofts of its Tract serve the logical indexes in rising
order, and the next eight are spares. -/
def bootCroft (fused failed : Nat → Bool) (active k : Nat) : Croft :=
  let t := k / 136
  let ok := (tractCrofts t).filter (fun j => !fused j && !failed j)
  match ok.idxOf? k with
  | some i => { logical := if i < active then some (128 * t + i) else none, spare := active ≤ i && i < active + 8 }
  | none => { fused := fused k, failed := failed k && !fused k }

/-- Step 5 of Table 15-1: the Croft map. -/
def bootCrofts (e : PowerEnv) (s : State) : State :=
  let fused := s.fuses.fusedOff.contains
  let failed := e.failedCrofts.contains
  let all := (List.range 4352).map (fun k => (k, bootCroft fused failed s.activeCrofts k))
  let map := all.filterMap (fun x => x.2.logical.map (fun l => (l, some x.1)))
  (s.modCrf (fun c => { c with crofts := all.filter (fun x => decide (x.2 ≠ {})), lmap := map })).modGlb
    (fun g => { g with croftsFailed := (all.filter (·.2.failed)).length })

/-- Steps 6 and 7 of Table 15-1: stacks that fail training fence their Tracts; engines without a feed stay dark, those
whose modulators do not lock are fenced (Table 15-2). Marks (DEDUCED 63). -/
def bootLinks (e : PowerEnv) (s : State) : State :=
  let s := e.failedStacks.foldl (fun s t =>
    if (s.tract t).fenced then s
    else fenceTract t (recordFault { source := 0x0505, unit := unitTract t, cls := 2, fenced := true } s)) s
  let s := e.darkEngines.foldl (fun s n => s.modEngine n (fun g => { g with lostA := true, lostB := true })) s
  let s := (List.range 16).foldl (fun s n =>
    let g := s.engine n
    if g.lostA && g.lostB then recordFault { source := 0x0105, unit := unitEngine n, cls := 2, access := 0x0C } s else s) s
  e.unlockedEngines.foldl (fun s n => engineFault n s) s

/-- Step 3 of Table 15-1, the Attic: its header is read, BOOTS rises and a record of KIND 4 is written. A bad header
stops its writing and every image (Table 15-2). -/
def bootAttic (e : PowerEnv) (s : State) : State :=
  let s := s.modAttic (fun a => { a with failed := !e.atticHeaderOk, headerBad := !e.atticHeaderOk })
  if e.atticHeaderOk then
    let (q, s) := openReset 4 0xFF (s.modAttic (fun a => { a with boots := (a.boots + 1) % 2 ^ 32 }))
    s.modFlt (fun x => { x with bootSeq := some q })
  else recordFault { source := 0x080A, unit := 0x2F03, cls := 2, access := 1, fenced := true } s

/-- The stage shown, unless the device is in the fatal state. -/
def toStage (n : Nat) (s : State) : State := if s.isFatal then s else s.modGlb (fun g => { g with stage := n })

/-- Table 15-1 from step 2 to step 7; what is fatal stops it (Table 15-2). Marks (DEDUCED 62). -/
def bootSteps (e : PowerEnv) (s : State) : State :=
  let s := s.modGlb (fun g => { g with stage := 1 })
  match e.pllFault, e.railFault with
  | some n, _ => recordFault { source := 0x0808, unit := 0x2F06, cls := 3, access := 0x0B, addr := n } s
  | none, some (r, mv) => railOut r mv s
  | none, none =>
    if !e.fusesVote then
      recordFault { source := 0x0809, unit := 0x2F04, cls := 3, access := 1 }
        (s.modGlb (fun g => { g with grade := 0, fuseOk := false }))
    else
      let s := s.modGlb (fun g => { g with grade := s.fuses.grade, fuseOk := true })
      let (u, first) := seedFuses (slice e.newSeed 0 32) e.badSeeds s.fuses
      if first && !e.entropyOk then recordFault { source := 0x0809, unit := 0x2F04, cls := 3, access := 1 } s
      else
        let s := (s.modFuses (fun _ => u.revokePartial)).modGlb
          (fun g => { g with firstBoot := first, seedBad := e.badSeeds, keyBad := e.badKeys })
        let s := s.modSec (fun x => { x with pubkey := mldsaPublic s.seed })
        let s := toStage 2 (bootAttic e s)
        match e.sramFault with
        | some n => recordFault { source := 0x0809, unit := n, cls := 3, access := 4 } s
        | none => toStage 5 (bootLinks e (bootCrofts e s))

/-- POWER_UP: the first release of PERST_N after PWR_GOOD samples the straps and starts the sequence (R36, R379). GLB_ID
shows the grade that the fuses hold also where a failure stops the sequence before it is latched. -/
def powerUp (e : PowerEnv) (s : State) : State :=
  if s.glb.stage ≠ 0 || s.isFatal then s
  else
    let t : State := { s.stripped with
      glb := { straps := e.straps, sampled := true, grade := s.fuses.grade }, bel := { role := strapRole e.straps }
      flt := { perstGt := some 0, inLevel := s.flt.inLevel }
      pins := { s.pins with pwrGood := true, released := true, vid := e.vid, vidGt := some 0 } }
    bootSteps e t

/-- POWER_LOSS: PWR_GOOD falls (R374): the Attic finishes and writes a record of KIND 5; all else is lost. Marks (DEDUCED 70). -/
def powerLoss (s : State) : State :=
  if !s.pins.pwrGood then s
  else
    let s := settleAttic s
    let (_, s) := openReset 5 0xFF s
    let s := s.emit .dark
    { s.stripped with host := { l0 := false }, pins := { pwrGood := false, rails := s.pins.rails } }

/-- COLD_RESET (R362, R366, R384, R385): recorded, then transmission stops and power-up runs from step 2 with the straps
as sampled and the host link as it is. Marks (DEDUCED 69). -/
def coldReset (e : PowerEnv) (s : State) : State :=
  if s.glb.stage < 2 then s
  else
    let s := s.modFlt (fun x => { x with rstTier := 3 })
    match s.resetRefusal 3 0 with
    | some code => showReset 6 code s
    | none =>
      let (_, s) := openReset 3 0xFF s
      let s := (settleAttic s).emit .dark
      let lost := (List.range 16).filter (fun n => (s.engine n).lostA || (s.engine n).lostB)
      let keep := lost.map (fun n =>
        let g := s.engine n
        (n, ({ lostA := g.lostA, lostB := g.lostB, singleFeed := true } : OptEngine)))
      bootSteps e { s.stripped with
        glb := { straps := s.glb.straps, sampled := true, grade := s.glb.grade }, bel := { role := strapRole s.glb.straps }
        flt := { perstGt := s.flt.perstGt, hostSeq := s.flt.hostSeq, inLevel := s.flt.inLevel }
        thm := { trip := s.thm.trip }, lnk := { engines := keep }, host := s.host, pins := s.pins }

/-! ## Straps and the host link (R36, R341, R357) -/

/-- STRAP_CHANGE: ignored, shown and logged with the straps that changed. Marks (DEDUCED 72). -/
def strapChange (bitmap : BitVec 16) (s : State) : State :=
  if !s.glb.sampled || bitmap == 0 then s
  else recordFault { source := 0x0801, unit := 0x2F13, cls := 1, access := 0x0A, addr := bitmap.toNat }
    (s.modGlb (fun g => { g with strapChg := true }))

/-- 10 ms in GT. Marks (DEDUCED 78). -/
def gt10ms : Nat := 3125000

/-- A host-link reset reaches the host bridge alone, and is logged. A Function Level Reset keeps the link. Marks (DEDUCED 71, 73). -/
def hostBridgeReset (keepsLink : Bool) (s : State) : State :=
  let (q, s) := openReset 6 0xFF s
  let l0 := s.host.l0 && keepsLink
  let s := s.modHost (fun _ => { l0 := l0 })
  let gt := s.bel.gt
  let s := if l0 then s.modAttic (fun a => a.finishReset q gt 0 none) else s.modFlt (fun x => { x with hostSeq := some q })
  recordFault { source := 0x0305, unit := 120, cls := 1, access := 0x0A } s

/-- HOST_LINK_RESET. An assertion of PERST_N within 10 ms of its release is ignored and counted (Table 14-7). Marks (DEDUCED 79). -/
def hostLinkReset (kind : HostResetKind) (s : State) : State :=
  if s.glb.stage = 0 then s
  else match kind with
  | .perst =>
    match s.flt.perstGt with
    | none => s
    | some g =>
      if s.bel.gt < g + gt10ms then s.modFlt (fun x => { x with inExcess := sat32 x.inExcess })
      else hostBridgeReset false (s.modFlt (fun x => { x with perstGt := none }))
  | .flr => if s.host.l0 then hostBridgeReset true s else s
  | _ => if s.host.l0 then hostBridgeReset false s else s

/-- HOST_LINK_L0: the record of the reset is written again (R373). PERST_N has been released by then. -/
def hostLinkL0 (s : State) : State :=
  if s.glb.stage = 0 || s.host.l0 then s
  else
    let s := s.modHost (fun h => { h with l0 := true })
    let gt := s.bel.gt
    let s := match s.flt.hostSeq with
      | some q => s.modAttic (fun a => a.finishReset q gt 0 none)
      | none => s
    s.modFlt (fun x => { x with hostSeq := none, perstGt := x.perstGt.or (some gt) })

/-! ## Recording (R348, R349, R351) -/

/-- FAULT_RECORD_CLOSE: 1 s after it opened. -/
def recordClose (source unit : Nat) (s : State) : State :=
  match s.attic.openRecs.find? (·.is source unit) with
  | none => s
  | some r =>
    (advanceTo (r.gtFirst + gtPerSecond) s).modAttic (fun a =>
      { a.closeRecord r with openRecs := a.openRecs.filter (fun x => !x.is source unit) })

/-- FAULT_PULSE_END: WIDTH units of 100 ns, each of 31.25 GT, after the pulse began (R351). -/
def pulseEnd (s : State) : State :=
  if !s.flt.pulse then s
  else (advanceTo (s.flt.pulseGt + (s.flt.width * 125 + 3) / 4) s).modFlt (fun x => { x with pulse := false })

/-- CAPTURE_CLEAR: the capture is cleared and rearmed. -/
def captureClear (s : State) : State := if s.glb.stage < 2 then s else s.modFlt (fun x => { x with cap := {} })

/-! ## Fences by command (R353, R354) -/

/-- A fence set by command is logged under the SOURCE of its kind of unit (Table 14-5a). -/
def logFence (source unit : Nat) (s : State) : State :=
  recordFault { source := source, unit := unit, cls := 2, fenced := true } s

/-- FENCE: units that FLT_FENCE cannot fence, or that are fenced already, are ignored. Marks (DEDUCED 75). -/
def fence (u : Nat) (s : State) : State :=
  if s.glb.stage < 2 || s.isFatal then s
  else settleCore (
    if u < 64 then (if (s.slotReg u).fenced then s else logFence 0x0302 u (fencePort u s))
    else if 0x1000 ≤ u && u < 0x2100 then
      let c := s.croft (u - 0x1000)
      if c.fenced || c.fused then s else logFence 0x0702 u (fenceCroft (u - 0x1000) s)
    else if 0x2200 ≤ u && u < 0x2220 then
      if (s.tract (u - 0x2200)).fenced then s else logFence 0x0505 u (fenceTract (u - 0x2200) s)
    else if 0x2400 ≤ u && u < 0x2C00 then
      let t := (u - 0x2400) / 64
      if (s.tract t).fenced then s else logFence 0x0505 u (fenceTract t s)
    else if 0x2C00 ≤ u && u < 0x2E00 && (u - 0x2C00) % 16 < 10 then
      let sl := (u - 0x2C00) / 16
      let l := (u - 0x2C00) % 16
      if (Tab.look 0 s.fld.lanes sl).getLsbD l then s else logFence 0x0403 u (fenceLane sl l s)
    else if 0x2E00 ≤ u && u < 0x2E10 then
      if (s.engine (u - 0x2E00)).fenced then s else logFence 0x0106 u (fenceEngine (u - 0x2E00) s)
    else s)

/-- A port whose fence ends retrains, and discovery runs; not while its engine is fenced (Table 14-5). -/
def retrainPort (n : Nat) (s : State) : State :=
  if s.fencedSlot n || (s.optPort n).tstate = .off then s else goDown n (s.optPort n).light s

/-- UNFENCE: of ports, trunks and engines alone. -/
def unfence (u : Nat) (s : State) : State :=
  if s.glb.stage < 2 || s.isFatal then s
  else settleCore (updateLost (
    if u < 64 then
      (if (s.slotReg u).fenced then retrainPort u (s.modSlot u (fun r => { r with fenced := false })) else s)
    else if 0x2E00 ≤ u && u < 0x2E10 then
      let n := u - 0x2E00
      if (s.engine n).fenced then
        [0, 1, 2, 3].foldl (fun s q => retrainPort (4 * n + q) s) (s.modEngine n (fun e => { e with fenced := false }))
      else s
    else s))

/-- A write of FLT_INJ: GO arms one injection; GO clear disarms it. After the lock a write that would change a field is
ignored and counted (R356, R403). -/
def writeInject (go : Bool) (check width unit : Nat) (s : State) : State :=
  let i : Injection := { check := check, width := width, unit := unit }
  if s.img.lock then
    if s.flt.injReg = i && s.flt.armed.isSome = go then s else s.modGlb (fun g => { g with lockRej := sat32 g.lockRej })
  else s.modFlt (fun x => { x with injReg := i, armed := if go then some i else none })

/-- FAULT_INJECT: FLT_INJ with GO. -/
def faultInject (check width unit : Nat) (s : State) : State :=
  if s.glb.stage < 2 then s else writeInject true check width unit s

/-! ## FAULT_IN_N (R357, R358) -/

/-- Tokens of the input's bucket now, and the GT from which the next one is counted. -/
def Flt.tokens (x : Flt) (gt : Nat) : Nat × Nat :=
  let n := (gt - x.inRefill) / 312500
  (min 16 (x.inBucket + n), x.inRefill + n * 312500)

/-- FAULT_IN: an assertion that has passed the filter. Marks (DEDUCED 74). -/
def faultIn (s : State) : State :=
  if s.glb.stage = 0 then s
  else
    let gt := s.bel.gt
    let s := s.modFlt (fun x => { x with inLevel := true, inSince := gt })
    if s.flt.inStuck then s
    else
      let (n, since) := s.flt.tokens gt
      let s := s.modFlt (fun x => { x with inBucket := n - 1, inRefill := since })
      if 0 < n then
        let s := s.modFlt (fun x => { x with inCnt := sat32 x.inCnt })
        if s.flt.inAction = 0 then s
        else recordFault { source := 0x0802, unit := 0x2F10, cls := s.flt.inAction, access := 0x0A } s
      else
        let s := s.modFlt (fun x => { x with inExcess := sat32 x.inExcess })
        let first : Bool := match s.flt.inExcessGt with | some g => decide (g + gtPerSecond ≤ gt) | none => true
        if first then
          recordFault { source := 0x0804, unit := 0x2F10, cls := 1, access := 0x0A, addr := s.flt.inExcess }
            (s.modFlt (fun x => { x with inExcessGt := some gt }))
        else s

/-- FAULT_IN_STUCK: active for more than 10 ms. -/
def faultInStuck (s : State) : State :=
  if s.glb.stage = 0 || !s.flt.inLevel || s.flt.inStuck then s
  else recordFault { source := 0x0803, unit := 0x2F10, cls := 1, access := 0x0A }
    ((advanceTo (s.flt.inSince + gt10ms + 1) s).modFlt (fun x => { x with inStuck := true }))

/-- FAULT_IN_RELEASE: writing 1 to STUCK; the stuck timer of an input that is still active starts again. -/
def faultInRelease (active : Bool) (s : State) : State :=
  if s.glb.stage < 2 || !s.flt.inStuck then s
  else
    let gt := s.bel.gt
    s.modFlt (fun x => { x with inStuck := false, inLevel := active, inSince := gt })

/-! ## Faults found at run time (Table 14-4) -/

/-- SWITCHING_CORE_CONTROL_FAULT: 0x0306, fatal. Marks (DEDUCED 76). -/
def coreFault (s : State) : State :=
  if s.glb.stage = 0 then s else recordFault { source := 0x0306, unit := 0x2F00, cls := 3, access := 4 } s

/-- CROSSING_DIE_CONTROL_STATE_UE: 0x0809, fatal; ADDR is the unit offset. -/
def controlUe (unit off : Nat) (s : State) : State :=
  if s.glb.stage = 0 then s else recordFault { source := 0x0809, unit := unit, cls := 3, access := 1, addr := off } s

/-- TABLE_ENTRY_REFRESH: the entry is written again from the applied image. -/
def tableRefresh (table index : Nat) (s : State) : State :=
  if s.isFatal then s
  else settleCore (s.modRte (fun r => { r with bad := r.bad.filter (· != (table, index)) }))

/-! ## Meanings -/

def execPowerUp (env : PowerEnv) (s : State) : Answer := need (Wf.power env) (powerUp env s)
def execPowerLoss (s : State) : Answer := .next (powerLoss s)
def execStrapChange (bitmap : BitVec 16) (s : State) : Answer := .next (strapChange bitmap s)
def execHostLinkReset (kind : HostResetKind) (s : State) : Answer := .next (hostLinkReset kind s)
def execFieldReset (field : Nat) (capsule : Bool) (s : State) : Answer :=
  need (Wf.field field) (requestReset 1 field capsule s)
/-- Marks (DESIGN CHOICE 5). -/
def execWarmReset (capsule : Bool) (s : State) : Answer := .next (requestReset 2 s.flt.rstField capsule s)
def execColdReset (env : PowerEnv) (s : State) : Answer := need (Wf.power env) (coldReset env s)
def execFaultRecordClose (source unit : Nat) (s : State) : Answer :=
  need (source < 0x10000 && unit < 0x10000) (recordClose source unit s)
def execFaultPulseEnd (s : State) : Answer := .next (pulseEnd s)
def execCaptureClear (s : State) : Answer := .next (captureClear s)
def execFence (unit : Nat) (s : State) : Answer := need (unit < 0x10000) (fence unit s)
def execUnfence (unit : Nat) (s : State) : Answer := need (unit < 0x10000) (unfence unit s)
def execFaultInject (check width unit : Nat) (s : State) : Answer :=
  need (check < 4 && width < 16 && unit < 0x10000) (faultInject check width unit s)
def execFaultIn (s : State) : Answer := .next (faultIn s)
def execFaultInStuck (s : State) : Answer := .next (faultInStuck s)
def execFaultInRelease (active : Bool) (s : State) : Answer := .next (faultInRelease active s)
def execCapsuleDone (s : State) : Answer := .next (capsuleDone s)
def execHostLinkL0 (s : State) : Answer := .next (hostLinkL0 s)
def execSwitchingCoreControlFault (s : State) : Answer := .next (coreFault s)
def execCrossingDieControlStateUe (unit off : Nat) (s : State) : Answer :=
  need (Wf.controlUnit unit && off < 2 ^ 64) (controlUe unit off s)
def execTableEntryRefresh (table index : Nat) (s : State) : Answer :=
  need (table < 4 && index < 0x10000) (tableRefresh table index s)

end Sys2Proof.Machine
end

