-- ==== Sys2Proof/Machine/Images.lean ====
section
/-! DEFINITION. Machine/Images.lean: the image loader: verification, staging, discarding and the taking effect of base
images (11_control_words_images_verifier.md R294-R299, R434; 15_power_up_identity_grades.md R379-R382). -/

namespace Sys2Proof.Machine

/-! ## Verification (R297, R299) -/

/-- IMG_E_POSITION (R39). -/
def positionOk (s : State) (h : ImgHeader) (body : ImageBody) : Bool :=
  let p := s.glb.straps
  let inside := fun (t : Topology) => decide (p.padX < t.extentW) && decide (p.padY < t.extentH)
  h.devIndex == s.devIndex &&
  (match body with
   | .base b => b.topology.devIndex == s.devIndex && inside b.topology
   | .field _ => match s.baseBody with | some b => inside b.topology | none => false)

/-- IMG_E_ROLE (R39). -/
def roleOk (s : State) (body : ImageBody) : Bool :=
  match body with | .base b => b.topology.role == strapRole s.glb.straps | .field _ => true

/-- IMG_E_TICK at verification: of a Field image alone (R298). -/
def tickOk (s : State) (h : ImgHeader) (body : ImageBody) : Bool :=
  match body with | .base _ => true | .field _ => h.kexp == s.bel.k

/-- IMG_E_VERSION (R296); with a bad Attic header IMG_EPOCH reads 0xFFFF_FFFF and every image fails (Table 15-2). -/
def epochOk (s : State) (h : ImgHeader) : Bool := !s.attic.headerBad && s.attic.epoch ≤ h.epoch

/-- The checks that only images of one kind have. Contents of the other kind stand for sections of the other kind. -/
def kindFail (s : State) (kind : Nat) (h : ImgHeader) (ss : List Section) (body : ImageBody) : Option Reject :=
  match kind, body with
  | 1, .base b => baseFail s ss b
  | 2, .field f =>
    match s.baseBody with
    | some b => firstFail [fieldFail s h ss b f, wordFail s h ss f]
    | none => none
  | _, _ => some { code := 8, sect := none, a := none }

/-- The verifier: the first check of Table 11-11 that fails. Marks (DEDUCED 238). -/
def verifyFail (s : State) (kind : Nat) (body : ImageBody) : Option Reject :=
  let h := parseImage s.img.buf
  let ss := readSections s.img.buf h
  firstFail [
    passIf (s.img.checkLen != 0 && headerOk s kind h) { code := 1 },
    passIf (signatureOk s h) { code := 2 },
    passIf (epochOk s h) { code := 3 },
    passIf (h.grade == s.glb.grade) { code := 4 },
    passIf (positionOk s h body) { code := 5 },
    passIf (roleOk s body) { code := 6 },
    passIf (tickOk s h body) { code := 7 },
    sectionSet kind ss,
    sectionRanges body ss,
    kindFail s kind h ss body ]

/-- The bytes of the sections of some types, in TYPE order. -/
def sectionBytes (m : Memory) (ss : List Section) (types : List Nat) : Bytes :=
  types.flatMap (fun t => match ss.find? (·.type == t) with | some e => Memory.readN m e.offset e.length | none => [])

/-- The image in the buffer as it is staged. -/
def stagedImage (s : State) (body : ImageBody) : Image :=
  let h := parseImage s.img.buf
  { hdr := h, digest := imageDigest s h, body := body
    pdigest := digest (sectionBytes s.img.buf (readSections s.img.buf h) [0x13, 0x14, 0x16, 0x17]) }

/-- A command that the loader ignores (R297, R380). -/
def loseCommand (s : State) : State := s.modImg (fun i => { i with cmdLost := true })

/-- The loader accepts commands from the end of step 5; none acts in the fatal state. -/
def onLoader (f : State → State) (s : State) : State :=
  if s.isFatal || s.glb.stage = 0 then s else if s.glb.stage < 3 then loseCommand s else f s

/-- VERIFY_BASE and VERIFY_FIELD. Marks (DEDUCED 27). -/
def startVerify (kind : Nat) (body : ImageBody) (s : State) : State :=
  if s.img.state = .idle || s.img.state = .fail
  then s.modImg (fun i => { i with state := .busy, checking := some (kind, body), checkLen := i.len.toNat })
  else loseCommand s

/-- The Field of a staged Field image. -/
def State.stagedField (s : State) : Option Nat :=
  match s.img.staged with
  | some i => match i.body with | .field _ => some i.hdr.field | .base _ => none
  | none => none

/-- DISCARD. Marks (DEDUCED 242). -/
def discard (s : State) : State :=
  match s.img.state with
  | .busy => s.modImg (fun i => { i with state := .idle, checking := none })
  | .staged =>
    let f := s.stagedField
    let s := if s.img.applyState = 1 then s.modImg (fun i => { i with applyState := 0, applyCode := 5 }) else s
    endLaunch (fun g => f == some g) (s.modImg (fun i => { i with state := .idle, staged := none }))
  | _ => s

/-! ## Taking effect (R298, R373) -/

/-- An image that takes effect: the highest EPOCH and the image log (R296, R373). -/
def logImage (i : Image) (s : State) : State :=
  let kind := match i.body with | .base _ => 1 | .field _ => 2
  let r : ImageRec := {
    seq := s.attic.imageSeq, kind := kind, field := i.hdr.field, keySlot := i.hdr.keySlot, grade := i.hdr.grade
    epoch := i.hdr.epoch, boot := s.attic.boots, gt := s.bel.gt, build := i.hdr.build, dev := s.devIndex, digest := i.digest }
  s.modAttic (fun a => if a.failed then a else { a with
    images := Tab.put none a.images (r.seq % 1024) (some r), imageSeq := (r.seq + 1) % 2 ^ 32
    epoch := max a.epoch i.hdr.epoch })

/-- A table from a list of entries. -/
def tabOf {α : Type} [DecidableEq α] (d : α) (l : List (Nat × α)) : Tab α := l.foldl (fun t e => Tab.put d t e.1 e.2) []

/-- What a topology plans for a port. -/
def planOf (t : Topology) (n : Nat) : Option TrunkPlan × Option Nat :=
  ((t.trunks.find? (·.1 == n)).map (·.2), (t.endpoints.find? (·.1 == n)).map (·.2))

/-- A new plan at a port: a port that is up keeps its state where its plan is the same, and else trains and is discovered
anew (R44, R46); one that is not up takes the state of its new plan. Marks (DEDUCED 241). -/
def replanPort (old : Topology) (n : Nat) (s : State) : State :=
  if !s.isUp n then setDisc n (s.restDisc n) s
  else if planOf old n = planOf s.topology n then s
  else goDown n (s.optPort n).light s

/-- The tables of the base image are in force, its k and its role; ports release RX_OK and the Bell may start (Table
15-1). A device that has taken the Bellwether role over keeps it. -/
def loadBase (i : Image) (s : State) : State :=
  let old := s.topology
  let s := s.modImg (fun x => { x with base := some i, staged := none, state := .idle, guestKeys := [] })
  let s := logImage i s
  match i.body with
  | .field _ => s
  | .base b =>
    let s := s.modBel (fun x => { x with k := i.hdr.kexp, role := if x.acting then x.role else b.topology.role })
    let s := s.modRte (fun r => { r with route := tabOf 0 b.route, detour := tabOf 0 b.detour, bad := [] })
    let s := if s.glb.stage = 5 then s.modGlb (fun g => { g with stage := 6 }) else s
    let s := (List.range 64).foldl (fun s n => replanPort old n s) s
    let s := updateLost s
    (List.range 64).foldl (fun s n => if (s.optPort n).rxOk && !s.isUp n then sendLink n 0 0 s else s) s

/-- IMG_APPLY_STATUS takes a value; APPLIED and REFUSED signal vector 3 (R434). -/
def setApply (st code : Nat) (s : State) : State :=
  let s := s.modImg (fun i => { i with applyState := st, applyCode := code })
  if 2 ≤ st then signal 3 s else s

/-- The value that a failed check names, or a free one where no rule states it. -/
def named (o : Option Nat) (s : State) : Nat × State :=
  match o with
  | some v => (v, s)
  | none => let (v, s) := s.draw; (v.toNat % 2 ^ 32, s)

/-- Verification ends in FAIL. -/
def verifyRejects (r : Reject) (s : State) : State :=
  let (sect, s) := named r.sect s
  let (a, s) := named r.a s
  let (b, s) := named r.b s
  signal 3 (s.modImg (fun i => { i with
    state := .fail, checking := none, kind := (parseImage i.buf).kind % 16, code := r.code, sect := sect % 65536
    errA := BitVec.ofNat 32 a, errB := BitVec.ofNat 32 b }))

/-- Verification ends in STAGED. A base image before any Field has launched takes effect at once (R298). -/
def verifyPasses (body : ImageBody) (s : State) : State :=
  let i := stagedImage s body
  let s := s.modImg (fun x => { x with
    state := .staged, checking := none, staged := some i, kind := i.hdr.kind % 16, code := 0, sect := 0, errA := 0, errB := 0
    applyState := 0, applyCode := 0 })
  let s := signal 3 s
  match body with
  | .field _ => endLaunch (· == i.hdr.field) s
  | .base _ => if s.img.fieldImg.isNone then signal 3 (loadBase i s) else s

/-- VERIFY_DONE. -/
def verifyDone (s : State) : State :=
  if s.isFatal then s
  else match s.img.checking with
  | none => s
  | some (kind, body) =>
    match verifyFail s kind body with
    | some r => verifyRejects r s
    | none => verifyPasses body s

/-! ## APPLY_BASE (R434) -/

/-- A base image is staged. -/
def State.stagedBase (s : State) : Option Image :=
  match s.img.staged with
  | some i => match i.body with | .base _ => some i | .field _ => none
  | none => none

/-- The count rules of R72: COUNT, LATE, NO_BELL, as 1, 2 and 3. -/
def countFail (s : State) (tick count : Nat) : Option Nat :=
  if count % tick ≠ 0 then some 1
  else if count < s.bel.gt + 2 * tick then some 2
  else if s.bel.state = .unsync || s.bel.state = .acquire then some 3
  else none

/-- A 64-bit count in an _LO/_HI pair. -/
def pairCount (lo hi : Word) : Nat := hi.toNat * 2 ^ 32 + lo.toNat

/-- APPLY_BASE. Marks (DEDUCED 239). -/
def applyBase (s : State) : State :=
  match s.img.state, s.stagedBase with
  | .staged, some i =>
    if s.img.applyState = 1 then loseCommand s
    else
      let count := pairCount s.img.applyLo s.img.applyHi
      match countFail s (2 ^ max s.bel.k i.hdr.kexp) count with
      | some c => setApply 3 c s
      | none => setApply 1 0 (s.modImg (fun x => { x with applyAt := count }))
  | _, _ => loseCommand s

/-- KEXP at the count: not checked at the Bellwether; else against the valid MARK for the count, or BEL_TICK.K. Marks (DEDUCED 240). -/
def kexpAt (s : State) (count : Nat) (kexp : Nat) : Bool :=
  let marks := if s.bel.upstream < 4 then (s.bellPort s.bel.upstream).recent else []
  s.bel.acting || kexp == (match marks.find? (fun e => e.1.m == count) with | some e => e.1.kexp | none => s.bel.k)

/-- BASE_IMAGE_TAKE_EFFECT: at the count in IMG_APPLY (R298, R434). -/
def baseTakesEffect (s : State) : State :=
  if s.isFatal || s.img.applyState ≠ 1 then s
  else match s.stagedBase with
  | none => s
  | some i =>
    let s := advanceTo s.img.applyAt s
    if !kexpAt s s.img.applyAt i.hdr.kexp then
      setApply 3 4 (s.modImg (fun x => { x with staged := none, state := .fail, code := 7, sect := 0xFFFF, errA := 0, errB := 0 }))
    else
      let s := match s.home with | some e => fieldResetSteps e.id s | none => s
      settleCore (setApply 2 0 (loadBase i s))

/-! ## Meanings -/

def execVerifyBase (body : ImageBody) (s : State) : Answer := .next (onLoader (startVerify 1 body) s)
def execVerifyField (body : ImageBody) (s : State) : Answer := .next (onLoader (startVerify 2 body) s)
def execDiscard (s : State) : Answer := .next (onLoader discard s)
def execApplyBase (s : State) : Answer := .next (onLoader applyBase s)
def execVerifyDone (s : State) : Answer := .next (verifyDone s)
def execBaseImageTakeEffect (s : State) : Answer := .next (baseTakesEffect s)
def execImgLock (s : State) : Answer :=
  .next (if s.isFatal || s.glb.stage < 3 then s else s.modImg (fun i => { i with lock := true }))

end Sys2Proof.Machine
end

