-- ==== Sys2Proof/Machine/Checkpoint.lean ====
section
/-! DEFINITION. Machine/Checkpoint.lean: Field checkpoints: SAVE, the slots, RESUME, CANCEL
(12_determinism_and_replay.md R311-R316). -/

namespace Sys2Proof.Machine

/-! ## Slots (R312, Table 12-5) -/

/-- Cellar offset of a checkpoint slot in its stack: page 0x0_7000. -/
def slotOff : Nat := 0x7000 * 65536
/-- Bytes of a slot: 4,096 pages. -/
def slotBytes : Nat := 0x1000 * 65536
/-- Bytes of a Croft record: 7 pages. -/
def croftRecBytes : Nat := 7 * 65536

/-- Zero bytes up to a length. -/
def padTo (n : Nat) (bs : Bytes) : Bytes := bs.take n ++ List.replicate (n - bs.length) 0

/-- The Croft record of a logical Croft. -/
def croftRecord (l : Nat) (c : Croft) : Bytes :=
  padTo croftRecBytes (Memory.readN c.pantry 0 pantrySize ++ beBytes 2 l ++ [0, 0] ++ beBytes 4 c.step.toNat ++
    (List.range 16).flatMap (fun i => beBytes 2 (Tab.look 0 c.flags (48 + i))))

/-- The scale entry of a table: the chunks that this device holds, in rising order (R311, R312). -/
def scaleEntry (e : ScaleTab) : Bytes :=
  beBytes 2 e.tag ++ beBytes 2 e.node ++ beBytes 2 e.own.length ++ [0, 0] ++
  e.own.flatMap (fun c => (List.range 1024).map (fun b => BitVec.ofNat 8 (Tab.look 0 e.bias (1024 * c + b))))

/-- Logical and physical Crofts of a Tract outside the attention set (R311). -/
def State.savedCrofts (s : State) (t : Nat) : List (Nat × Nat) :=
  s.crf.lmap.filterMap (fun e => match e.2 with
    | some k => if k / 136 = t && !(s.croft k).attn then some (e.1, k) else none
    | none => none)

/-- Scale tables of a Field held in a Tract. -/
def State.savedScales (s : State) (f t : Nat) : List ScaleTab :=
  s.fld.scales.filter (fun e => e.tract == t && e.tag / 1024 == f)

/-- Schedule entries that the Crofts of a Tract are behind their Field's run, for the quiesces of its Tract (R220). -/
def State.tractShift (s : State) (t : Nat) : Nat :=
  ((s.savedCrofts t).map (fun e => (s.croft e.2).shift)).foldl max 0

/-- What a slot holds: its first 128 header bytes, its records and its scale entries. -/
structure SlotData where
  header  : Bytes
  records : Bytes
  scales  : Bytes

/-- The contents of the slot of a Tract at mark `m`, after `runs` marks of the run: RUNS leaves out the entries that the
Tract's Crofts have not started. -/
def State.slotData (s : State) (f t m runs : Nat) (pdigest : Bytes) : SlotData :=
  let cs := s.savedCrofts t
  let scales := (s.savedScales f t).flatMap scaleEntry
  { header := beBytes 4 0x43504B31 ++ beBytes 2 1 ++ beBytes 1 f ++ beBytes 1 t ++ beBytes 2 s.devIndex ++
      beBytes 2 cs.length ++ beBytes 2 ((s.barrier f).seq % 1024) ++ [0, 0] ++ beBytes 8 m ++ beBytes 4 (runs - s.tractShift t) ++
      beBytes 4 scales.length ++ (List.range 16).flatMap (fun i => beBytes 2 (s.tflag t i)) ++ slice pdigest 0 64
    records := cs.flatMap (fun e => croftRecord e.1 (s.croft e.2))
    scales := scales }

/-- Header page, records and scale entries fit the slot. -/
def SlotData.fits (d : SlotData) : Bool := 65536 + d.records.length + d.scales.length ≤ slotBytes

/-- The bytes of a slot up to its last scale entry. -/
def SlotData.bytes (d : SlotData) : Bytes :=
  padTo 65536 (d.header ++ beBytes 4 (crc32c (d.header ++ d.records ++ d.scales))) ++ d.records ++ d.scales

/-! ## SAVE (R313) -/

/-- STATE shows a SAVE or RESUME that has not ended. -/
def State.ckptPending (s : State) : Bool := s.img.ckptState == 1 || s.img.ckptState == 2 || s.img.ckptState == 5

/-- A SAVE or RESUME: its count rules, then STATE. -/
def armCkpt (st : Nat) (s : State) : State :=
  let count := pairCount s.img.ckptLo s.img.ckptHi
  match countFail s s.tickLen count with
  | some c => setCkpt 4 c s
  | none => setCkpt st 0 (s.modImg (fun i => { i with ckptAt := count }))

/-- CKPT_SAVE. -/
def ckptSave (s : State) : State := if s.ckptPending then loseCommand s else armCkpt 1 s

/-- The condition that a SAVE breaks at its mark, as a code of Table 12-8. Marks (DEDUCED 244). -/
def State.saveFail (s : State) (f : Nat) (d : Nat → SlotData) : Option Nat :=
  let mine := (List.range 32).flatMap (fun t => (s.savedCrofts t).map (fun e => s.croft e.2))
  let r := s.barrier f
  if mine.any (·.prog.isSome) then some 4
  else if mine.any (fun c => !c.posts.isEmpty || !c.requests.isEmpty || !c.pens.isEmpty) then some 5
  else if s.fld.insts.any (fun i => i.tag / 1024 == f && decide (0 < i.bytes s.devIndex)) then some 6
  else if !r.waiters.isEmpty || r.release.isSome || r.firstGt.isSome ||
      r.children.any (fun e => e.2.seq == s.barrierSeq f) then some 7
  else if !(List.range 32).all (fun t => (d t).fits) then some 8
  else none

/-- CKPT_CAPTURE: at M the Field pauses and the slots are written, or the SAVE fails and the Field runs on. Marks (DEDUCED 243, 245). -/
def ckptCapture (s : State) : State :=
  if s.isFatal || s.img.ckptState ≠ 1 then s
  else
    let m := s.img.ckptAt
    let s := advanceTo m s
    match s.fieldBody with
    | none => let (v, s) := s.draw; setCkpt 4 (v.toNat % 256) s
    | some (f, _) =>
      let runs := if s.crf.paused then s.crf.runs else s.crf.runsBase + (m - s.crf.launchGt) / s.tickLen
      let quiet := (List.range 32).filter (fun t => (s.tract t).quiesce)
      let s₁ := quiet.foldl (fun x t => fallBehind t (s.keptMarks t) x) s
      let pd := match s.img.fieldImg with | some i => i.pdigest | none => []
      let d := fun t => s₁.slotData f t m runs pd
      match s.saveFail f d with
      | some c => setCkpt 4 c s
      | none =>
        let s' := (List.range 32).foldl (fun x t => cellWrite t slotOff (d t).bytes x) s₁
        setCkpt 2 0 (s'.modCrf (fun c => { c with paused := true, runs := runs }))

/-- CKPT_SLOTS_WRITTEN: PAUSED, with the time from M in µs. -/
def slotsWritten (s : State) : State :=
  if s.isFatal || s.img.ckptState ≠ 2 then s
  else
    let us := min 0xFFFF ((s.bel.gt - s.img.ckptAt) * 2 / 625)
    setCkpt 3 0 (s.modImg (fun i => { i with ckptDone := true, captureUs := us }))

/-! ## RESUME and CANCEL (R314) -/

/-- CKPT_RESUME. -/
def ckptResume (s : State) : State :=
  if s.ckptPending then loseCommand s
  else if !s.crf.paused then setCkpt 4 0x0B s
  else armCkpt 5 s

/-- Schedule entries start from `runs` at mark `m` (R314, R315). -/
def startRun (m runs : Nat) (s : State) : State :=
  let fresh := fun (e : Nat × Croft) => (e.1, { e.2 with entries := 0 })
  s.modCrf (fun c => { c with
    running := true, paused := false, launchGt := m, runsBase := runs
    crofts := (c.crofts.map fresh).filter (fun e => decide (e.2 ≠ {})) })

/-- CKPT_RESUME_AT_COUNT. -/
def resumeAtCount (s : State) : State :=
  if s.isFatal || s.img.ckptState ≠ 5 then s
  else
    let s := advanceTo s.img.ckptAt s
    setCkpt 0 0 (startRun s.img.ckptAt s.crf.runs s)

/-- CKPT_CANCEL: of a pending SAVE before M. -/
def ckptCancel (s : State) : State := if s.img.ckptState = 1 then setCkpt 0 0 s else s

/-! ## Restoring (R315) -/

/-- A slot as it is read back. -/
structure SlotRead where
  header  : Bytes
  crc     : Nat
  records : Bytes
  scales  : Bytes

def SlotRead.runs (d : SlotRead) : Nat := beAt d.header 24 4
def SlotRead.seq (d : SlotRead) : Nat := beAt d.header 12 2 % 1024

/-- Read the slot of a Tract; none where it cannot be read. -/
def readCkptSlot (t : Nat) (s : State) : Option SlotRead × State :=
  if (s.tract t).fenced then (none, s)
  else match readStack t slotOff 132 s with
  | (none, s) => (none, s)
  | (some h, s) =>
    let n := min (beAt h 10 2 * croftRecBytes) slotBytes
    let m := min (beAt h 28 4) slotBytes
    match readStack t (slotOff + 65536) n s with
    | (none, s) => (none, s)
    | (some r, s) => match readStack t (slotOff + 65536 + n) m s with
      | (none, s) => (none, s)
      | (some x, s) => (some { header := h.take 128, crc := beAt h 128 4, records := r, scales := x }, s)

/-- The check of one slot: RESTORE_MISMATCH 0x09, or RESTORE_CRC 0x0A, also where it cannot be read. -/
def State.slotFail (s : State) (f : Nat) (pdigest : Bytes) (d : Option SlotRead) : Option Nat :=
  match d with
  | none => some 0x0A
  | some d =>
    let h := d.header
    if !(beAt h 0 4 == 0x43504B31 && beAt h 4 2 == 1 && beAt h 6 1 == f && beAt h 8 2 == s.devIndex &&
         slice h 64 64 == slice pdigest 0 64) then some 0x09
    else if crc32c (h ++ d.records ++ d.scales) ≠ d.crc then some 0x0A
    else none

/-- Read every slot, Tract 0 first. Marks (DEDUCED 246). -/
def readCkptSlots (s : State) : List (Option SlotRead) × State :=
  (List.range 32).foldl (fun a t => let (d, s) := readCkptSlot t a.2; (a.1 ++ [d], s)) ([], s)

/-- One Croft record replaces what the image loaded. -/
def restoreCroft (r : Bytes) (s : State) : State :=
  match s.physOf (beAt r pantrySize 2) with
  | none => s
  | some k =>
    let flags := tabOf 0 ((List.range 16).map (fun i => (48 + i, beAt r (pantrySize + 8 + 2 * i) 2)))
    s.modCroft k (fun c => { c with
      pantry := tabOf Memory.blank ((r.take pantrySize).zipIdx.map (fun e => (e.2, e.1)))
      step := BitVec.ofNat 32 (beAt r (pantrySize + 4) 4), flags := flags })

/-- The first `n` chunks of a node that this device holds by the policy of the tag (R146), in the Canonical tree where that
is allowed; every chunk in turn where no node says otherwise. Marks (DEDUCED 270). -/
def State.heldChunks (s : State) (tag node n : Nat) : List Nat :=
  match s.penPolicy tag with
  | none => List.range n
  | some q =>
    match (treeOf q (!q.canonical)).find? (fun x => x.node == node && x.devices.contains s.devIndex) with
    | none => List.range n
    | some x => ((List.range 1024).filter (nodeOwns x s.devIndex)).take n

/-- The scale entries of a slot. -/
def State.parseScales (s : State) (t : Nat) : Nat → Bytes → List ScaleTab
  | 0, _ => []
  | n + 1, bs =>
    if bs.length < 8 then []
    else
      let own := s.heldChunks (beAt bs 0 2) (beAt bs 2 2) (beAt bs 4 2)
      let c := own.length
      let body := (bs.drop 8).take (1024 * c)
      { tag := beAt bs 0 2, node := beAt bs 2 2, tract := t, own := own
        bias := tabOf 0 (body.zipIdx.map (fun e => (1024 * own.getD (e.2 / 1024) 0 + e.2 % 1024, e.1.toNat))) } ::
      s.parseScales t n (bs.drop (8 + 1024 * beAt bs 4 2))

/-- The most schedule entries that a slot names; Tracts that were behind stay behind (R220, R314). -/
def maxRuns (ds : List (Option SlotRead)) : Nat :=
  (ds.map (fun d => match d with | some x => x.runs | none => 0)).foldl max 0

/-- One slot replaces the Pantries, flags, CRF_STEP and scale tables of its Tract. -/
def restoreSlot (top t : Nat) (d : SlotRead) (s : State) : State :=
  let recs := (List.range (d.records.length / croftRecBytes)).map (fun i => slice d.records (i * croftRecBytes) croftRecBytes)
  let s := recs.foldl (fun s r => restoreCroft r s) s
  let s := (List.range 16).foldl (fun s i => s.modCrf (fun c =>
    { c with tflags := Tab.put 0 c.tflags (16 * t + i) (beAt d.header (32 + 2 * i) 2) })) s
  let s := fallBehind t (top - d.runs) s
  let more := s.parseScales t d.scales.length d.scales
  s.modFld (fun l => { l with scales := l.scales ++ more })

/-! ## Meanings -/

def execCkptSave (s : State) : Answer := .next (onLoader ckptSave s)
def execCkptCapture (s : State) : Answer := .next (ckptCapture s)
def execCkptSlotsWritten (s : State) : Answer := .next (slotsWritten s)
def execCkptResume (s : State) : Answer := .next (onLoader ckptResume s)
def execCkptResumeAtCount (s : State) : Answer := .next (resumeAtCount s)
def execCkptCancel (s : State) : Answer := .next (onLoader ckptCancel s)

end Sys2Proof.Machine
end

