-- ==== Sys2Proof/Machine/Launch.lean ====
section
/-! DEFINITION. Machine/Launch.lean: Field launches: the request, its checks, and the launch at GT L
(16_register_map.md R409, 03_bell_gates_shaping.md R72, R81, R87, 08_cellar_and_storekeeper.md R200, R218,
11_control_words_images_verifier.md R298). -/

namespace Sys2Proof.Machine

/-! ## The request (R409, Table 16-8) -/

/-- The image that a launch of a Field binds to: the staged one, else the applied one; whether it is the staged one. -/
def State.launchImage (s : State) (f : Nat) : Option (Bool × Image) :=
  if s.stagedField = some f then s.img.staged.map (fun i => (true, i))
  else match s.img.fieldImg with
    | some i => if i.hdr.field = f then some (false, i) else none
    | none => none

/-- A device of a Field, or of a rectangle lent to it. -/
def State.serves (s : State) (f dev : Nat) : Bool :=
  (match s.owner dev with | some e => e.id == f | none => false) || s.lentTo f dev

/-- The ports that a Field needs here, in rising order (R47): planned endpoint ports of its own devices, trunks between
two devices of the Field or of the rectangles lent to it. -/
def State.neededPorts (s : State) (f : Nat) : List Nat :=
  let t := s.topology
  (List.range 64).filter (fun n =>
    if n < 32 then s.inField f && t.endpoints.any (·.1 == n)
    else t.trunks.any (fun e => e.1 == n && s.serves f s.devIndex && s.serves f e.2.peer))

/-- The body of a Field image. -/
def Image.field? (i : Image) : Option FieldBody := match i.body with | .field b => some b | .base _ => none

/-- The image uses a Croft that is absent (R274). -/
def State.usesAbsent (s : State) (b : FieldBody) : Bool := b.crofts.any (fun c => (s.physOf c.logical).isNone)

/-- A launch ends in REFUSED, which signals vector 6 (R340). -/
def refuseLaunch (code : Nat) (s : State) : State :=
  signal 6 (s.modBel (fun b => { b with launchState := 3, launchCode := code, launchHold := false }))

/-- The Table 16-8 code of the first check at GO that fails. Marks (DEDUCED 247). -/
def State.launchRefusal (s : State) (f l : Nat) : Option Nat :=
  match s.launchImage f with
  | none => some 7
  | some (_, i) =>
    if s.bel.k = 0 then some 7
    else match countFail s s.tickLen l with
      | some c => some c
      | none =>
        if (match i.field? with | some b => s.usesAbsent b | none => false) then some 5
        else if (s.neededPorts f).any (fun n => (s.slotReg n).disc != .active) then some 4
        else none

/-- FIELD_LAUNCH_REQUEST: a write of BEL_LAUNCH_CTL with GO. -/
def launchRequest (f : Nat) (s : State) : State :=
  if s.isFatal || s.glb.stage < 5 then s
  else if s.bel.launchState = 1 then s.modBel (fun b => { b with launchReg := BitVec.ofNat 6 f, launchLost := true })
  else
    let s := s.modBel (fun b => { b with launchReg := BitVec.ofNat 6 f })
    let l := pairCount s.bel.launchLo s.bel.launchHi
    let s := s.modBel (fun b => { b with launchField := f, launchAt := l, launchHold := false })
    match s.launchRefusal f l with
    | some c =>
      let bad := (s.neededPorts f).find? (fun n => (s.slotReg n).disc != .active)
      let s := match c, bad with
        | 4, some n => s.modBel (fun b => { b with portValid := true, portSlot := n })
        | _, _ => s
      refuseLaunch c s
    | none =>
      s.modBel (fun b => { b with launchState := 1, launchCode := 0 })

/-! ## Cellar partition change (R200, R218) -/

/-- A page of a Tract that is freed by a partition change. -/
def freedPage (retired : List Nat) (g : Nat) (d : Desc) : Desc :=
  if d.state = .retired then d
  else if d.retirePend || retired.contains g then { state := .retired, ce := d.ce, lastPc := d.lastPc } else {}

/-- Every page of a Tract is FREE or RETIRED, and no session or run is left. -/
def wipeTract (retired : List Nat) (r : Tract) : Tract :=
  let pages := r.pages.map (fun e => (e.1, freedPage retired e.1 e.2))
  let pages := (pages.filter (fun e => decide (e.2 ≠ {})))
  let pages := retired.foldl (fun t g => Tab.edit {} t g (fun d => { d with state := .retired })) pages
  { r with
    pages := pages, sessions := [], runs := [], reclaimQ := [], mirOut := [], mirHeld := [], mirIn := [], early := [] }

/-- A partition change frees a Tract that is not fenced; each page that it retires is recorded (R200, R218). At the first
launch after a cold reset (`cold`) the pages of RETIRED_LIST start RETIRED, which is no retirement. Marks (DEDUCED 191). -/
def repartition (cold : Bool) (retired : List Nat) (t : Nat) (s : State) : State :=
  if (s.tract t).fenced then s
  else
    let before := (s.tract t).pages
    let s := s.modTract t (wipeTract retired)
    let fresh := ((s.tract t).pages.filter (fun e =>
      e.2.state == .retired && (Tab.look {} before e.1).state != .retired)).map (·.1)
    if cold then s else fresh.foldl (fun s g => logRetired t g 0 s) s

/-- The Cellar at a launch: kept where the partitioning section is that of the running image, else freed; the count of
closed sessions is logged. -/
def partition (old : Option FieldBody) (new : FieldBody) (s : State) : State :=
  if (match old with | some o => o.cellar == new.cellar | none => false) then s
  else
    let n := s.sessTotal
    let lists := fun t => (new.cellar.getD t {}).retired.getD []
    let s := (List.range 32).foldl (fun s t => repartition old.isNone (lists t) t s) s
    if n = 0 then s else recordFault { source := 0x0508, unit := 0xFFFF, cls := 1, addr := n } s

/-! ## The launch (R298, R409) -/

/-- Gate lists and overheads of the image; a port without a list has every VC open (R81, R82). -/
def loadGates (b : FieldBody) (s : State) : State :=
  (List.range 64).foldl (fun s n => s.modGate n (fun g =>
    match b.gates.find? (·.1 == n) with
    | some (_, l) => { g with valid := true, ovh := l.overhead, windows := l.windows }
    | none => { g with valid := false, ovh := 0, windows := [] })) s

/-- Shaper settings of the image; every staged setting takes effect (R87). -/
def loadShapers (b : FieldBody) (s : State) : State :=
  let s := b.shapers.foldl (fun s x => s.modShaper x.port x.vc (fun h => { h with
    sRate := BitVec.ofNat 24 x.rate, sBucket := BitVec.ofNat 24 x.bucket, sEnable := x.enable
    resetMode := x.resetMode })) s
  s.modShapers (fun l => (l.map (fun e => (e.1, e.2.apply))).filter (fun e => decide (e.2 ≠ {})))

/-- A Field image takes the place of the applied one: tables, partition, gates, shapers and key (R50, R298). Marks (DEDUCED 248). -/
def loadField (i : Image) (b : FieldBody) (s : State) : State :=
  let old := s.fieldBody.map (·.2)
  let s := s.modImg (fun x => { x with fieldImg := some i, staged := none, state := .idle })
  loadShapers b (loadGates b (partition old b (logImage i s)))

/-- The attention set of the image is marked, and CRF_STEP loaded (R194, R245). -/
def loadSteps (b : FieldBody) (s : State) : State :=
  s.crf.lmap.foldl (fun s e => match e.2 with
    | none => s
    | some k =>
      let step := match b.crofts.find? (·.logical == e.1) with | some p => p.step | none => 0
      s.modCroft k (fun c => { c with attn := b.attnCrofts.contains e.1, step := step })) s

/-- The Field's barriers start again from SEQ 0; a device that names no participant has arrived (R73). -/
def freshBarrier (f seq : Nat) (s : State) : State :=
  let arrived := if (s.participants f).isEmpty then some s.bel.gt else none
  tryArrive f (s.modBarrier f (fun _ => { seq := seq, localGt := arrived }))

/-- The restored state of every slot (R315). -/
def restoreSlots (ds : List (Option SlotRead)) (s : State) : State :=
  ds.zipIdx.foldl (fun s e => match e.1 with | some d => restoreSlot (maxRuns ds) e.2 d s | none => s) s

/-- The image's overlay segments stand in the work areas of their Tracts (R293). -/
def loadOverlays (b : FieldBody) (s : State) : State :=
  b.overlays.foldl (fun s o => cellWrite o.tract o.addr o.data s) s

/-- The launch of a Field on a device of another Field that is lent to it: the new partition key takes effect, and nothing else
(R50). Marks (DESIGN CHOICE 269). -/
def guestLaunch (f : Nat) (staged : Bool) (i : Image) (b : FieldBody) (s : State) : State :=
  let s := if staged then logImage i (s.modImg (fun x => { x with staged := none, state := .idle })) else s
  let s := s.modImg (fun x => { x with guestKeys := Tab.put 0 x.guestKeys f b.key })
  let hold := s.bel.state == .holdover
  signal 6 (s.modBel (fun x => { x with launchState := 2, launchCode := 0, launchHold := hold }))

/-- The launch of a Field at GT `l` with its image; `ds` are the slots to restore, if any. -/
def launch (f l : Nat) (staged : Bool) (i : Image) (b : FieldBody) (ds : Option (List (Option SlotRead))) (s : State) :
    State :=
  let s := if s.crf.running then
      match s.fieldBody with | some (g, _) => abortBarrier g (fieldSteps g s) | none => s
    else s
  let s := if staged then loadField i b s else s
  let s := s.modFld (fun x => { x with scales := x.scales.filter (fun e => e.tag / 1024 != f) })
  let s := loadSteps b (reloadCrofts (loadOverlays b s))
  let first := (ds.bind (fun x => x.head?)).bind id
  let s := match ds with | some x => restoreSlots x s | none => s
  let s := startRun l (match ds with | some x => maxRuns x | none => 0) s
  let s := freshBarrier f (match first with | some d => d.seq | none => 0) s
  let s := if ds.isSome then s.modImg (fun x => { x with restore := false, ckptDone := true }) else s
  let hold := s.bel.state == .holdover
  signal 6 (s.modBel (fun x => { x with launchState := 2, launchCode := 0, launchHold := hold }))

/-- FIELD_LAUNCH: at GT L a pending launch checks the slots to restore, then launches (R409). -/
def fieldLaunch (s : State) : State :=
  if s.isFatal || s.bel.launchState ≠ 1 then s
  else
    let f := s.bel.launchField
    let l := s.bel.launchAt
    match s.launchImage f with
    | none => s
    | some (staged, i) => match i.field? with
      | none => s
      | some b =>
        let s := advanceTo l s
        if !s.inField f && s.lentTo f s.devIndex then settleCore (guestLaunch f staged i b s)
        else if s.img.restore then
          let (ds, s) := readCkptSlots s
          match ds.findSome? (s.slotFail f i.pdigest) with
          | some c => refuseLaunch 6 (setCkpt 4 c s)
          | none => settleCore (launch f l staged i b (some ds) s)
        else settleCore (launch f l staged i b none s)

/-! ## Meanings -/

def execFieldLaunchRequest (field : Nat) (s : State) : Answer := need (Wf.field field) (launchRequest field s)
def execFieldLaunch (s : State) : Answer := .next (fieldLaunch s)

end Sys2Proof.Machine
end

