-- ==== Sys2Proof/Machine/RegGlobal.lean ====
section
/-! DEFINITION. Machine/RegGlobal.lean: the registers of the GLB, FLT, BEL and GAT blocks (Tables 2-3, 3-5 to 3-7, 13-7,
14-15 to 14-18, 15-5, 16-3 to 16-9). A read gives a value and what it changes; offsets are those within the block. -/

namespace Sys2Proof.Machine

/-! ## Reading and writing -/

/-- A register without side effect. -/
def ro (v : Nat) (s : State) : Nat × State := (v, s)

/-- A register that reading clears. -/
def rc (v : Nat) (clear : State → State) (s : State) : Nat × State := (v, clear s)

/-- Low and high half of a 64-bit quantity. -/
def lowHalf (v : Nat) : Nat := v % 2 ^ 32
def highHalf (v : Nat) : Nat := v / 2 ^ 32

/-- A value clamped to a range. -/
def clampTo (lo hi v : Nat) : Nat := max lo (min hi v)

/-- A write that would change an RWL field: after the lock it is ignored and counted in GLB_LOCKREJ (R403). Marks (DEDUCED 30). -/
def writeLocked (same : Bool) (f : State → State) (s : State) : State :=
  if !s.img.lock then f s
  else if same then s
  else s.modGlb (fun g => { g with lockRej := sat32 g.lockRej })

/-! ## The mailbox (R405, R406) -/

/-- The EID of a device's register interface. -/
def mgmtEid (dev : Nat) : Nat := 0xF0000 + dev

/-- A management packet (R405). -/
def State.mgmtPacket (s : State) (dev ptype tag : Nat) (payload : Bytes) : Packet :=
  { dst := BitVec.ofNat 20 (mgmtEid dev), cls := 0, src := BitVec.ofNat 20 (mgmtEid s.devIndex)
    pkey := s.topology.mgmtKey, ptype := BitVec.ofNat 8 ptype, tsw0 := BitVec.ofNat 32 tag, payload := payload }

/-- A target on another Range or another plane (R406). -/
def State.noRoute (s : State) (dev : Nat) : Bool :=
  rangeOf dev != rangeOf s.devIndex || planeOf dev != planeOf s.devIndex

/-- GO: refused at once with NO_ROUTE, or sent under the next TAG. A device in the fatal state sends nothing. Marks (DEDUCED 57). -/
def mailboxGo (s : State) : State :=
  let g := s.glb
  if g.mgmtState = 1 then s
  else if s.noRoute g.mgmtTarget.toNat then s.modGlb (fun g => { g with mgmtState := 3, mgmtResult := 3 })
  else
    let tag := g.mgmtTag + 1
    let n := g.mgmtCount.toNat + 1
    let words := (List.range n).flatMap (fun i => beBytes 4 (Tab.look 0 g.mgmtData i).toNat)
    let body := beBytes 4 g.mgmtOff.toNat ++ beBytes 2 n ++ [0, 0] ++ (if g.mgmtWrite then words else [])
    let p := s.mgmtPacket g.mgmtTarget.toNat (if g.mgmtWrite then 4 else 3) tag.toNat body
    let gt := s.bel.gt
    let s := s.modGlb (fun g => { g with mgmtTag := tag, mgmtState := 1, mgmtResult := 0, mgmtGt := gt })
    if s.isFatal then s else settleCore (inject 120 p s)

/-! ## GLB -/

/-- GLB_POS (Table 2-3). -/
def State.posWord (s : State) : Nat :=
  let p := s.glb.straps
  ofBool s.glb.strapChg * 2 ^ 31 + ofBool (p.bellwether && p.standby) * 2 ^ 30 + ofBool p.standby * 2 ^ 29 +
  ofBool p.bellwether * 2 ^ 28 + p.slot * 2 ^ 24 + p.padY * 2 ^ 20 + p.padX * 2 ^ 16 + s.devIndex

/-- GLB_FUSE (Table 15-5b). -/
def State.fuseWord (s : State) : Nat :=
  let u := s.fuses
  ofBool s.glb.fuseOk * 2 ^ 31 + ofBool s.glb.firstBoot * 2 ^ 30 + ofBool u.fp64 * 2 ^ 29 +
  ofBool u.threePass * 2 ^ 28 + u.revoked.toNat * 2 ^ 20 + u.enrolled.toNat * 2 ^ 16 + s.activeCrofts * 2 ^ 8 +
  ofBool s.seedInB

/-- GLB_BOOT (Table 15-5c): 2 ms are 625,000 GT. Marks (DEDUCED 64). -/
def State.bootWord (s : State) : Nat :=
  s.glb.stage * 2 ^ 28 + min 0xFFF (s.glb.elapsedStop.getD s.glb.sinceT0 / 625000) * 2 ^ 16 + s.glb.croftsFailed

/-- What configuration space shows of the device: Vendor ID, Device ID, Subsystem ID, class code and Revision ID (Tables
13-6, 15-4). No command of the table reads it. -/
def State.configIdentity (s : State) : List Nat :=
  let sub := if s.glb.grade = 0x41 then 0x00A0 else if s.glb.grade = 0x43 then 0x00C0 else if s.glb.grade = 0x46 then 0x00F0 else 0
  [0x1DB5, 0x0960, sub, 0x120000, s.fuses.dieRev % 256]

def readGlb (o : Nat) (s : State) : Nat × State :=
  let g := s.glb
  if o = 0x000 then ro (g.grade * 2 ^ 24 + s.fuses.dieRev % 256 * 2 ^ 16 + 0x0960) s
  else if o = 0x004 then ro s.fuseWord s
  else if o = 0x008 then ro s.posWord s
  else if o = 0x010 then ro s.bootWord s
  else if o = 0x020 then ro g.scratch.toNat s
  else if o = 0x024 then rc g.lockRej (State.modGlb (fun g => { g with lockRej := 0 })) s
  else if o = 0x040 then rc (g.wrRej * 2 ^ 16 + g.winTract) (State.modGlb (fun g => { g with wrRej := 0 })) s
  else if o = 0x100 then ro g.mgmtCtl.toNat s
  else if o = 0x104 then ro (ofBool g.mgmtWrite * 2 ^ 30 + g.mgmtCount.toNat * 2 ^ 16 + g.mgmtTarget.toNat) s
  else if o = 0x108 then ro g.mgmtOff.toNat s
  else if o = 0x10C then ro (g.mgmtState * 2 ^ 30 + g.mgmtTag.toNat * 2 ^ 8 + g.mgmtResult) s
  else if 0x400 ≤ o && o < 0x800 then ro (Tab.look 0 g.mgmtData ((o - 0x400) / 4)).toNat s
  else ro 0 s

def writeGlb (o v : Nat) (s : State) : State :=
  if o = 0x008 then onlyIf (bit v 31) (State.modGlb (fun g => { g with strapChg := false })) s
  else if o = 0x020 then s.modGlb (fun g => { g with scratch := BitVec.ofNat 32 v })
  else if o = 0x040 then s.modGlb (fun g => { g with winTract := bits v 4 0 })
  else if o = 0x100 then
    let c := BitVec.ofNat 2 v
    writeLocked (s.glb.mgmtCtl == c) (State.modGlb (fun g => { g with mgmtCtl := c })) s
  else if o = 0x104 then
    onlyIf (bit v 31) mailboxGo (s.modGlb (fun g => { g with
      mgmtWrite := bit v 30, mgmtCount := BitVec.ofNat 8 (bits v 23 16), mgmtTarget := BitVec.ofNat 14 v }))
  else if o = 0x108 then s.modGlb (fun g => { g with mgmtOff := BitVec.ofNat 26 (bits v 25 2 * 4) })
  else if 0x400 ≤ o && o < 0x800 then
    s.modGlb (fun g => { g with mgmtData := Tab.put 0 g.mgmtData ((o - 0x400) / 4) (BitVec.ofNat 32 v) })
  else s

/-! ## FLT -/

/-- FLT_CAP_INFO (Table 14-16): SEEN is CE, UC, FT from bit 27 up. -/
def Capture.word (c : Capture) : Nat :=
  ofBool c.valid * 2 ^ 31 + ofBool c.inj * 2 ^ 30 + c.seen.toNat * 2 ^ 27 + c.cls % 4 * 2 ^ 25 +
  c.access % 256 * 2 ^ 16 + c.unit % 65536

/-- FLT_IN: the level of an input once seen asserted is what the board makes it. -/
def readIn (s : State) : Nat × State :=
  let (lv, s) := if s.flt.inLevel then (let (v, s) := s.draw; (v.getLsbD 0, s)) else (false, s)
  (ofBool s.flt.inStuck * 2 ^ 31 + ofBool lv * 2 ^ 30 + s.flt.inAction * 2 ^ 16, s)

def readFlt (o : Nat) (s : State) : Nat × State :=
  let x := s.flt
  if o = 0x00 then ro (match x.fatal with | some n => 2 ^ 31 + n | none => 0) s
  else if o = 0x10 then ro x.cap.word s
  else if o = 0x14 then ro (lowHalf x.cap.addr) s
  else if o = 0x18 then ro (highHalf x.cap.addr) s
  else if o = 0x1C then ro (lowHalf x.cap.gt) s
  else if o = 0x20 then ro (highHalf x.cap.gt) s
  else if o = 0x24 then ro x.cap.count s
  else if o = 0x28 then ro x.cap.source s
  else if o = 0x30 then rc x.cntCe (State.modFlt (fun x => { x with cntCe := 0 })) s
  else if o = 0x34 then rc x.cntUc (State.modFlt (fun x => { x with cntUc := 0 })) s
  else if o = 0x38 then rc x.cntFt (State.modFlt (fun x => { x with cntFt := 0 })) s
  else if o = 0x40 then
    ro (ofBool x.hold * 2 ^ 31 + ofBool (x.hold || x.pulse) * 2 ^ 30 + ofBool x.injMute * 2 ^ 29 +
        x.classEn.toNat * 2 ^ 24 + x.width) s
  else if o = 0x50 then readIn s
  else if o = 0x54 then rc x.inCnt (State.modFlt (fun x => { x with inCnt := 0 })) s
  else if o = 0x58 then rc x.inExcess (State.modFlt (fun x => { x with inExcess := 0 })) s
  else if o = 0x70 then
    ro (ofBool x.armed.isSome * 2 ^ 31 + x.injReg.check * 2 ^ 28 + x.injReg.width * 2 ^ 24 + x.injReg.unit) s
  else if o = 0x80 then
    ro (ofBool x.rstCapsule * 2 ^ 30 + x.rstTier * 2 ^ 28 + x.rstField * 2 ^ 16 + x.rstState * 2 ^ 13 + x.rstCode) s
  else if o = 0x90 then ro (ofBool x.reportCe) s
  else if o = 0x94 then rc x.bellDrop (State.modFlt (fun x => { x with bellDrop := 0 })) s
  else ro 0 s

/-- What a cold reset by register finds is open; it is a power-up that names units that exist. Marks (DESIGN CHOICE 25). -/
def drawEnv (s : State) : PowerEnv × State :=
  let e := Config.powerEnv s.draws
  (if Wf.power e then e else {}, s.skip 1)

/-- A write of FLT_RESET (Table 14-18): TIER 0 is ignored. -/
def writeReset (v : Nat) (s : State) : State :=
  let tier := bits v 29 28
  let f := bits v 21 16
  let s := s.modFlt (fun x => { x with rstCapsule := bit v 30, rstTier := tier, rstField := f })
  if !bit v 31 || tier = 0 then s
  else if tier = 3 then (let (e, s) := drawEnv s; coldReset e s)
  else requestReset tier f (bit v 30) s

/-- Marks (DEDUCED 29, 31). -/
def writeFlt (o v : Nat) (s : State) : State :=
  if o = 0x10 then onlyIf (bit v 31) captureClear s
  else if o = 0x40 then
    s.modFlt (fun x => { x with
      hold := bit v 31, injMute := bit v 29, classEn := BitVec.ofNat 3 (bits v 26 24)
      width := clampTo 1 10000 (bits v 13 0) })
  else if o = 0x50 then
    let s := s.modFlt (fun x => { x with inAction := bits v 17 16 })
    if bit v 31 && s.flt.inStuck then (let (b, s) := s.draw; faultInRelease (b.getLsbD 0) s) else s
  else if o = 0x60 then
    if !bit v 31 then s else if bit v 30 then unfence (bits v 15 0) s else fence (bits v 15 0) s
  else if o = 0x70 then writeInject (bit v 31) (bits v 29 28) (bits v 27 24) (bits v 15 0) s
  else if o = 0x80 then writeReset v s
  else if o = 0x90 then
    writeLocked (s.flt.reportCe == bit v 0) (State.modFlt (fun x => { x with reportCe := bit v 0 })) s
  else s

/-! ## BEL -/

/-- Codes of Table 3-6. -/
def BellState.code : BellState → Nat
  | .unsync => 0
  | .acquire => 1
  | .locked => 2
  | .holdover => 3

def roleCode : Role → Nat
  | .worker => 0
  | .bellwether => 1
  | .standby => 2

/-- BEL_STATUS (Table 3-6). -/
def Bel.word (b : Bel) : Nat :=
  b.stuck.toNat * 2 ^ 28 + ofBool b.takeover * 2 ^ 27 + b.hop % 512 * 2 ^ 16 + b.epoch.toNat * 2 ^ 8 +
  ofBool b.barLate * 2 ^ 7 + b.upstream * 2 ^ 4 + roleCode b.role * 4 + b.state.code

/-- BEL_PORTn_ERR (R410): a read clears all three counts. -/
def readPortErr (b : Nat) (s : State) : Nat × State :=
  let p := s.bellPort b
  rc (p.stale * 2 ^ 24 + p.marks * 2 ^ 16 + p.frames)
    (State.modBellPort b (fun p => { p with stale := 0, marks := 0, frames := 0 })) s

def readBel (o : Nat) (s : State) : Nat × State :=
  let b := s.bel
  if o = 0x00 then ro (lowHalf b.gt) s
  else if o = 0x04 then ro (highHalf b.gt) s
  else if o = 0x08 then ro b.word s
  else if o = 0x0C then ro (b.late * 2 ^ 16 + b.k) s
  else if o = 0x10 then ro b.launchLo.toNat s
  else if o = 0x14 then ro b.launchHi.toNat s
  else if o = 0x18 then
    ro (b.launchState * 2 ^ 29 + ofBool b.launchHold * 2 ^ 28 + ofBool b.launchLost * 2 ^ 27 + b.launchCode * 2 ^ 16 +
        b.launchReg.toNat) s
  else if o = 0x1C then ro (ofBool b.portValid * 2 ^ 31 + b.portSlot) s
  else if 0x20 ≤ o && o < 0x30 then readPortErr ((o - 0x20) / 4) s
  else ro 0 s

/-- A write of BEL_STATUS: STUCK unfences ports (R79), TAKEOVER and BAR_LATE clear. Marks (DEDUCED 41). -/
def writeBelStatus (v : Nat) (s : State) : State :=
  let s := [0, 1, 2, 3].foldl (fun s b => if bit v (28 + b) then bellPortUnfence b s else s) s
  let s := if bit v 27 && s.bel.takeover then signal 4 (s.modBel (fun b => { b with takeover := false })) else s
  if bit v 7 then s.modBel (fun b => { b with barLate := false }) else s

/-- Marks (DEDUCED 51). -/
def writeBel (o v : Nat) (s : State) : State :=
  if o = 0x08 then writeBelStatus v s
  else if o = 0x10 then s.modBel (fun b => { b with launchLo := BitVec.ofNat 32 v })
  else if o = 0x14 then s.modBel (fun b => { b with launchHi := BitVec.ofNat 32 v })
  else if o = 0x18 then
    let s := if bit v 27 then s.modBel (fun b => { b with launchLost := false }) else s
    let s := s.modBel (fun b => { b with launchReg := BitVec.ofNat 6 v })
    if bit v 31 then launchRequest (bits v 5 0) s else s
  else s

/-! ## GAT -/

/-- Shaper registers of a port slot and VC (R88). -/
def readShaper (p v r : Nat) (s : State) : Nat × State :=
  let h := s.shaper p v
  if r = 0 then ro (ofBool h.resetMode * 2 + ofBool h.sEnable) s
  else if r = 4 then ro h.sRate.toNat s
  else if r = 8 then ro h.sBucket.toNat s
  else ro (h.tokens / 256) s

def writeShaper (p v r w : Nat) (s : State) : State :=
  if r = 0 then
    let s := s.modShaper p v (fun h => { h with resetMode := bit w 1, sEnable := bit w 0 })
    if bit w 2 then shaperApply p v s else s
  else if r = 4 then s.modShaper p v (fun h => { h with sRate := BitVec.ofNat 24 w })
  else if r = 8 then s.modShaper p v (fun h => { h with sBucket := BitVec.ofNat 24 w })
  else s

/-- Gate registers of a port (Table 16-9). -/
def readGate (n r : Nat) (s : State) : Nat × State :=
  let g := s.gatePort n
  if r = 0 then ro g.ovh s
  else if r = 4 then rc g.ovr (State.modGate n (fun g => { g with ovr := 0 })) s
  else if r = 8 then ro (ofBool g.valid * 2 ^ 31 + g.windows.length % 32) s
  else if 0x40 ≤ r && r < 0x80 then
    ro (match g.windows[(r - 0x40) / 4]? with | some w => w.2.toNat * 2 ^ 16 + w.1 % 2 ^ 14 | none => 0) s
  else ro 0 s

def readGat (o : Nat) (s : State) : Nat × State :=
  if 0x1000 ≤ o && o < 0x3000 then readShaper ((o - 0x1000) / 0x80) (o % 0x80 / 0x10) (o % 0x10) s
  else if 0x4000 ≤ o && o < 0x8000 then readGate ((o - 0x4000) / 0x100) (o % 0x100) s
  else ro 0 s

def writeGat (o v : Nat) (s : State) : State :=
  if 0x1000 ≤ o && o < 0x3000 then writeShaper ((o - 0x1000) / 0x80) (o % 0x80 / 0x10) (o % 0x10) v s else s

end Sys2Proof.Machine
end

