-- ==== Sys2Proof/Machine/RegFabric.lean ====
section
/-! DEFINITION. Machine/RegFabric.lean: the registers of the SWC, RTE, LNK and BLN blocks (Tables 4-10, 4-11, 5-7, 13-9 to
13-14). Offsets are those within the block. -/

namespace Sys2Proof.Machine

/-! ## SWC -/

/-- Codes of SWC_SLOTn_STATE.DISC (Table 4-11). -/
def Disc.code : Disc → Nat
  | .unused => 0
  | .discovering => 1
  | .active => 2
  | .absent => 3
  | .quarantined => 4

/-- SWC_SLOTn_STATE (Table 4-11): an internal slot reads LINK_UP where its unit is present (Table 1-4). Marks (DEDUCED 35). -/
def State.slotWord (s : State) (n : Nat) : Nat :=
  let r := s.slotReg n
  let up := if n < 64 then r.linkUp else decide (n < 122)
  ofBool (s.fencedSlot n) * 2 ^ 31 + ofBool up * 2 ^ 30 + (if n < 64 then r.disc.code else 0) * 2 ^ 27 +
  ofBool r.replayFail * 2 ^ 26 + r.peerPort.toNat * 2 ^ 20 + r.peerIdent.toNat

def readSlotReg (n r : Nat) (s : State) : Nat × State :=
  let x := s.slotReg n
  if r = 0x00 then ro (s.slotWord n) s
  else if r = 0x04 then ro x.stall s
  else if r = 0x08 then rc x.aged (State.modSlot n (fun x => { x with aged := 0 })) s
  else if r = 0x0C then rc x.trunc (State.modSlot n (fun x => { x with trunc := 0 })) s
  else if r = 0x10 then rc x.orphan (State.modSlot n (fun x => { x with orphan := 0 })) s
  else if r = 0x14 then rc x.stranger (State.modSlot n (fun x => { x with stranger := 0 })) s
  else if r = 0x18 then rc x.fencedCnt (State.modSlot n (fun x => { x with fencedCnt := 0 })) s
  else if r = 0x1C then rc x.e2e (State.modSlot n (fun x => { x with e2e := 0 })) s
  else if r = 0x20 then rc x.lcrc (State.modSlot n (fun x => { x with lcrc := 0 })) s
  else if r = 0x24 then rc x.replay (State.modSlot n (fun x => { x with replay := 0 })) s
  else ro 0 s

def readSwc (o : Nat) (s : State) : Nat × State :=
  if 0x100 ≤ o && o < 0x120 then ro (s.ageLimit ((o - 0x100) / 4)) s
  else if o = 0x200 then ro (ofBool s.swc.loopOn * 2 ^ 31 + s.swc.loopPort) s
  else if 0x1000 ≤ o && o < 0x3000 then readSlotReg ((o - 0x1000) / 0x40) (o % 0x40) s
  else ro 0 s

/-- A write of SWC_SLOTn_STALL: what a limit outside 313–312,500 makes of the field is not stated. Marks (DEDUCED 32). -/
def writeStall (n v : Nat) (s : State) : State :=
  let lim := bits v 18 0
  writeLocked ((s.slotReg n).stall == lim) (fun s =>
    if 313 ≤ lim && lim ≤ 312500 then s.modSlot n (fun x => { x with stall := lim })
    else (let (d, s) := s.draw; s.modSlot n (fun x => { x with stall := d.toNat % 2 ^ 19 }))) s

def writeSwc (o v : Nat) (s : State) : State :=
  if 0x100 ≤ o && o < 0x120 then
    let c := (o - 0x100) / 4
    let lim := clampTo 313 5000000 (bits v 22 0)
    writeLocked (s.ageLimit c == lim) (State.modSwc (fun w => { w with age := Tab.put 312500 w.age c lim })) s
  else if o = 0x200 then s.modSwc (fun w => { w with loopOn := bit v 31, loopPort := bits v 4 0 })
  else if 0x1000 ≤ o && o < 0x3000 then
    let n := (o - 0x1000) / 0x40
    if o % 0x40 = 0 then onlyIf (bit v 26) (State.modSlot n (fun x => { x with replayFail := false })) s
    else if o % 0x40 = 4 then writeStall n v s
    else s
  else s

/-! ## RTE -/

/-- RTE_DETOUR_STATE: MN in bit 0 up to MW in bit 3 (R136). Marks (DEDUCED 34). -/
def State.detourWord (s : State) : Nat := s.rte.lost.foldl (fun n d => n ||| 2 ^ d) 0

/-- A word of four Detour entries, the lowest index in the low byte. -/
def State.detourEntries (s : State) (i : Nat) : Nat := leNat ((List.range 4).map (fun j => Tab.look 0 s.rte.detour (i + j)))

def readRte (o : Nat) (s : State) : Nat × State :=
  let r := s.rte
  if o < 0x40000 then ro (Tab.look 0 r.route (o / 4)).toNat s
  else if o < 0x42000 then ro (s.detourEntries (o - 0x40000)) s
  else if o = 0x80000 then ro r.escWait.toNat s
  else if o = 0x80004 then ro r.fenceCls.toNat s
  else if o = 0x80008 then rc r.escCnt (State.modRte (fun r => { r with escCnt := 0 })) s
  else if o = 0x8000C then rc r.detourCnt (State.modRte (fun r => { r with detourCnt := 0 })) s
  else if o = 0x80010 then rc r.fenceTo (State.modRte (fun r => { r with fenceTo := 0 })) s
  else if o = 0x80014 then ro s.detourWord s
  else if 0x90000 ≤ o && o < 0x90800 then
    let l := s.link ((o - 0x90000) / 0x20)
    let vc := o % 0x20 / 4
    ro ((match l.grants with | some g => g.getD vc 0 | none => 0) % 65536 * 65536 + l.credit vc % 65536) s
  else ro 0 s

/-- Marks (DESIGN CHOICE 33). -/
def writeRte (o v : Nat) (s : State) : State :=
  if o = 0x80000 then
    let w := BitVec.ofNat 10 (max 1 (bits v 9 0))
    writeLocked (s.rte.escWait == w) (State.modRte (fun r => { r with escWait := w })) s
  else if o = 0x80004 then
    let w := BitVec.ofNat 8 v
    writeLocked (s.rte.fenceCls == w) (State.modRte (fun r => { r with fenceCls := w })) s
  else s

/-! ## LNK -/

/-- Spare lanes of an engine that are not in use, by direction. -/
def State.sparesFree (s : State) (oe : Nat) (free : Lane → Bool) : Nat := ([32, 33].filter (fun l => free (s.lane oe l))).length

/-- LNK_OEn_STATUS (Table 13-10). -/
def State.engineWord (s : State) (oe : Nat) : Nat :=
  let e := s.engine oe
  ofBool e.fenced * 2 ^ 31 + ofBool e.dark * 2 ^ 30 + ofBool e.lostA * 2 ^ 29 + ofBool e.lostB * 2 ^ 28 +
  ofBool e.singleFeed * 2 ^ 27 + ofBool e.broadFault * 2 ^ 26 +
  s.sparesFree oe (fun l => l.tx.isNone && !l.txFailed) * 2 ^ 18 +
  s.sparesFree oe (fun l => l.rx.isNone && !l.rxFailed) * 2 ^ 16

/-- Codes of LNK_OEn_Pq_STATE.TSTATE (Table 13-11). -/
def TState.code : TState → Nat
  | .off => 0
  | .dark => 1
  | .adapt => 2
  | .align => 3
  | .fec => 4
  | .up => 5
  | .test => 6

def OptPort.word (o : OptPort) : Nat :=
  o.tstate.code * 2 ^ 29 + ofBool o.rxOk * 2 ^ 28 + ofBool o.peerRxOk * 2 ^ 27 +
  ofBool (o.sparing.isSome || o.peerSparing) * 2 ^ 26 + ofBool o.noSpare * 2 ^ 25 + min 255 o.exchanges

def readOptPort (n r : Nat) (s : State) : Nat × State :=
  let p := s.optPort n
  if r = 0x00 then ro p.word s
  else if r = 0x04 then rc p.cwc (State.modOptPort n (fun p => { p with cwc := 0 })) s
  else if r = 0x08 then rc p.cwu (State.modOptPort n (fun p => { p with cwu := 0 })) s
  else if r = 0x0C then rc p.fecMax (State.modOptPort n (fun p => { p with fecMax := 0 })) s
  else if r = 0x10 then ro p.symRate.toNat s
  else if r = 0x14 then ro p.mode s
  else if r = 0x18 then rc p.testErr (State.modOptPort n (fun p => { p with testErr := 0 })) s
  else ro 0 s

/-- LNK_OEn_Ll_MAP (Table 13-12). -/
def Lane.word (l : Lane) : Nat :=
  (match l.tx with | some i => 2 ^ 31 + i % 32 * 2 ^ 24 | none => 0) + ofBool l.txFailed * 2 ^ 30 +
  (match l.rx with | some i => 2 ^ 15 + i % 32 * 2 ^ 8 | none => 0) + ofBool l.rxFailed * 2 ^ 14

/-- A pattern setting that is on: 5–7 act as 0 (Table 13-9). -/
def patternOn (v : BitVec 3) : Bool := 1 ≤ v.toNat && v.toNat ≤ 4

/-- LNK_OEn_Ll_PATERR: what a running checker has counted is open. Marks (DESIGN CHOICE 37). -/
def readPatErr (oe l : Nat) (s : State) : Nat × State :=
  if patternOn (s.lane oe l).chk then (let (v, s) := s.draw; (v.toNat % 2 ^ 32, s))
  else rc (s.lane oe l).patErr (State.modLane oe l (fun x => { x with patErr := 0 })) s

def readLane (oe l r : Nat) (s : State) : Nat × State :=
  let x := s.lane oe l
  if r = 0 then ro x.word s
  else if r = 4 then rc x.sym (State.modLane oe l (fun x => { x with sym := 0 })) s
  else if r = 8 then ro (x.gen.toNat + x.chk.toNat * 16) s
  else readPatErr oe l s

/-- LNK_OEn_FEEDPWR: the powers that the monitors measure are open. Marks (DESIGN CHOICE 38). -/
def readFeedPower (oe : Nat) (s : State) : Nat × State :=
  let (v, s) := s.draw
  let s := s.modEngine oe (fun e => { e with powerA := v.setWidth 16, powerB := (v >>> 16).setWidth 16 })
  ((s.engine oe).powerA.toNat + (s.engine oe).powerB.toNat * 2 ^ 16, s)

def readLnk (o : Nat) (s : State) : Nat × State :=
  if !(0x1000 ≤ o && o < 0x9000) then ro 0 s
  else
    let oe := (o - 0x1000) / 0x800
    let r := o % 0x800
    if r = 0 then ro (s.engineWord oe) s
    else if r = 4 then ro ((s.engine oe).thr + ofBool (s.engine oe).autoSpare * 256) s
    else if r = 8 then readFeedPower oe s
    else if 0x40 ≤ r && r < 0x140 then readOptPort (4 * oe + (r - 0x40) / 0x40) (r % 0x40) s
    else if 0x200 ≤ r && r < 0x420 then readLane oe ((r - 0x200) / 0x10) (r % 0x10) s
    else ro 0 s

/-- A write of LNK_OEn_Pq_INJ (R334). Marks (DEDUCED 39). -/
def writePortInject (n v : Nat) (s : State) : State :=
  let s := s.modOptPort n (fun p => { p with symRate := BitVec.ofNat 5 v })
  let s := injectBurst n (bits v 12 8) s
  if bit v 16 then injectLcrc n s else s

/-- A physical lane carries a logical lane of a port that is UP. -/
def State.laneInService (s : State) (oe l : Nat) : Bool :=
  let x := s.lane oe l
  [x.tx, x.rx].any (fun i => match i with | some i => s.isUp (4 * oe + i / 8) | none => false)

/-- A write of LNK_OEn_Ll_PAT (R333). A checker that stops has counted an open number of errors. Marks (DEDUCED 36). -/
def writePattern (oe l v : Nat) (s : State) : State :=
  if s.laneInService oe l then s
  else
    let gen := BitVec.ofNat 3 v
    let chk := BitVec.ofNat 3 (v / 16)
    let s := if patternOn (s.lane oe l).chk && !patternOn chk
      then (let (d, s) := s.draw; s.modLane oe l (fun x => { x with patErr := d.toNat % 2 ^ 32 })) else s
    s.modLane oe l (fun x => { x with gen := gen, chk := chk })

def writeLnk (o v : Nat) (s : State) : State :=
  if !(0x1000 ≤ o && o < 0x9000) then s
  else
    let oe := (o - 0x1000) / 0x800
    let r := o % 0x800
    if r = 0 then
      s.modEngine oe (fun e => { e with
        singleFeed := e.singleFeed && !bit v 27, broadFault := e.broadFault && !bit v 26 })
    else if r = 4 then
      let thr := clampTo 8 23 (bits v 4 0)
      writeLocked ((s.engine oe).thr == thr && (s.engine oe).autoSpare == bit v 8)
        (State.modEngine oe (fun e => { e with thr := thr, autoSpare := bit v 8 })) s
    else if 0x40 ≤ r && r < 0x140 then
      let n := 4 * oe + (r - 0x40) / 0x40
      if r % 0x40 = 0x10 then writePortInject n v s
      else if r % 0x40 = 0x14 then portTestMode n (bits v 1 0) s
      else s
    else if 0x200 ≤ r && r < 0x420 && r % 0x10 = 8 then writePattern oe ((r - 0x200) / 0x10) v s
    else s

/-! ## BLN -/

/-- TEST selects a pattern; 3 acts as 0 (Table 13-14). -/
def BlnPort.testing (p : BlnPort) : Bool := p.test == 1 || p.test == 2

/-- BLN_PORTb_PRBSERR: what a running checker has counted is open. -/
def readPrbsErr (b : Nat) (s : State) : Nat × State :=
  if (s.blnPort b).testing then (let (v, s) := s.draw; (v.toNat % 2 ^ 32, s))
  else rc (s.blnPort b).prbsErr (State.modBln b (fun p => { p with prbsErr := 0 })) s

def readBln (o : Nat) (s : State) : Nat × State :=
  let b := o / 0x100
  let r := o % 0x100
  let p := s.blnPort b
  if 4 ≤ b then ro 0 s
  else if r = 0x00 then ro (p.test * 256 + ofBool p.auto * 16 + p.peak.toNat) s
  else if r = 0x04 then
    ro (ofBool p.signal * 2 ^ 31 + ofBool p.aligned * 2 ^ 30 + ofBool p.testing * 2 ^ 29 + p.peakUsed) s
  else if r = 0x08 then rc p.cv (State.modBln b (fun p => { p with cv := 0 })) s
  else if r = 0x0C then rc p.disp (State.modBln b (fun p => { p with disp := 0 })) s
  else if r = 0x10 then readPrbsErr b s
  else ro 0 s

/-- A write of BLN_PORTb_CTL (Table 13-14). -/
def writeBln (o v : Nat) (s : State) : State :=
  let b := o / 0x100
  if 4 ≤ b || o % 0x100 ≠ 0 then s
  else
    let s := s.modBln b (fun p => { p with auto := bit v 4, peak := BitVec.ofNat 4 v })
    let s := bellPortTest b (bits v 9 8) s
    let s := if bit v 30 then bellInjCv b s else s
    let s := if bit v 29 then bellInjDisp b s else s
    let s := if bit v 28 then bellInjCrc b s else s
    if bit v 31 then bellPortRetrain b s else s

end Sys2Proof.Machine
end

