-- ==== Sys2Proof/Machine/RegCompute.lean ====
section
/-! DEFINITION. Machine/RegCompute.lean: the registers of the FLD, CEL, STK, ATS, CRF, IMG, ATC and THM blocks (Tables
6-11, 6-12, 7-12, 7-13, 8-11 to 8-13, 9-14, 9-15, 10-6, 10-7, 11-12 to 11-15, 12-6 to 12-8, 16-10, 16-11; R376). Offsets
are those within the block. -/

namespace Sys2Proof.Machine

/-! ## FLD -/

/-- The Tally of the Field in FLD_TALLY_SEL. -/
def State.tally (s : State) : Tally := Tab.look {} s.fld.tallies s.fld.tallySel.toNat

/-- FLD_STATUS (Table 6-12). Marks (DEDUCED 43). -/
def State.fldWord (s : State) : Nat :=
  let n := s.fld.insts.length
  ofBool (1024 ≤ n) * 2 ^ 31 + ofBool s.fuses.fp64 * 2 ^ 30 + min 1024 n

/-- FLD_TALLY_EIDi and FLD_TALLY_LAGi. -/
def State.tallyWord (s : State) (i : Nat) (lag : Bool) : Nat :=
  match s.tally.slow[i]? with
  | some (e, l) => if lag then min 0xFFFFFFFF l else 2 ^ 31 + e % 2 ^ 20
  | none => 0

def readFld (o : Nat) (s : State) : Nat × State :=
  let f := s.fld
  if o = 0x00 then ro s.fldWord s
  else if o = 0x04 then ro (s.foldFree / 2 ^ 20) s
  else if 0x44 ≤ o && o ≤ 0x68 then
    let i := (o - 0x40) / 4
    rc (Tab.look 0 f.abortSt i) (State.modFld (fun f => { f with abortSt := Tab.drop i f.abortSt })) s
  else if o = 0x80 then rc f.stale (State.modFld (fun f => { f with stale := 0 })) s
  else if o = 0x84 then rc f.lateDisc (State.modFld (fun f => { f with lateDisc := 0 })) s
  else if o = 0x88 then rc f.retry (State.modFld (fun f => { f with retry := 0 })) s
  else if o = 0x8C then rc f.resend (State.modFld (fun f => { f with resend := 0 })) s
  else if o = 0x90 then rc f.crc (State.modFld (fun f => { f with crc := 0 })) s
  else if o = 0x94 then rc f.ackTo (State.modFld (fun f => { f with ackTo := 0 })) s
  else if o = 0x100 then ro f.tallySel.toNat s
  else if o = 0x104 then
    rc s.tally.pens (State.modFld (fun f =>
      { f with tallies := Tab.edit {} f.tallies f.tallySel.toNat (fun t => { t with pens := 0 }) })) s
  else if 0x110 ≤ o && o < 0x150 then ro (s.tallyWord ((o - 0x110) / 8) (o % 8 == 4)) s
  else if 0x180 ≤ o && o < 0x1C0 then ro (Tab.look 0 s.tally.hist ((o - 0x180) / 4)) s
  else ro 0 s

def writeFld (o v : Nat) (s : State) : State :=
  if o = 0x100 then s.modFld (fun f => { f with tallySel := BitVec.ofNat 6 v })
  else if o = 0x1C0 then onlyIf (bit v 0) tallyClear s
  else s

/-! ## CEL and STK -/

/-- CEL_TRACTn_STATUS (Table 8-12). -/
def Tract.word (r : Tract) : Nat :=
  ofBool r.fenced * 2 ^ 31 + ofBool r.quiesce * 2 ^ 30 + ofBool (!r.repairQ.isEmpty) * 2 ^ 29 +
  ofBool r.tableUe * 2 ^ 28 + min 0xFFFF r.quietTicks

/-- The most rows queued in one Tract (Table 8-11). -/
def State.rowsQueued (s : State) : Nat := (List.range 32).foldl (fun n t => max n (s.tract t).repairQ.length) 0

/-- RETIRED pages of a Tract. -/
def Tract.retiredPages (r : Tract) : Nat := (r.pages.filter (fun e => e.2.state == .retired)).length

def readCelTract (t r : Nat) (s : State) : Nat × State :=
  let x := s.tract t
  if r = 0x00 then ro x.word s
  else if r = 0x04 then rc x.ce (State.modTract t (fun x => { x with ce := 0 })) s
  else if r = 0x08 then rc x.ue (State.modTract t (fun x => { x with ue := 0 })) s
  else if r = 0x0C then ro (x.retiredPages % 2 ^ 20) s
  else if r = 0x10 then ro (x.repairs % 2 ^ 16) s
  else ro 0 s

def readCel (o : Nat) (s : State) : Nat × State :=
  let c := s.cel
  if o = 0x00 then ro (c.thresh.toNat + ofBool c.autoRepair * 256 + c.mirrorWait.toNat * 2 ^ 16) s
  else if o = 0x08 then ro (s.rowsQueued * 2 ^ 16 + c.lastRepair) s
  else if o = 0x14 then rc c.mirBroken (State.modCel (fun c => { c with mirBroken := 0 })) s
  else if o = 0x18 then rc c.mirRej (State.modCel (fun c => { c with mirRej := 0 })) s
  else if 0x1000 ≤ o && o < 0x1800 then readCelTract ((o - 0x1000) / 0x40) (o % 0x40) s
  else ro 0 s

def writeCel (o v : Nat) (s : State) : State :=
  if o = 0x00 then
    let th := BitVec.ofNat 8 v
    let mw := BitVec.ofNat 8 (bits v 23 16)
    writeLocked (s.cel.thresh == th && s.cel.autoRepair == bit v 8 && s.cel.mirrorWait == mw)
      (State.modCel (fun c => { c with thresh := th, autoRepair := bit v 8, mirrorWait := mw })) s
  else if o = 0x04 then onlyIf (bit v 31) (repairQueue (bits v 30 26) (bits v 25 20) (bits v 19 0)) s
  else if o = 0x10 then onlyIf (bit v 31) (promoteRequest (bits v 13 0)) s
  else if 0x1000 ≤ o && o < 0x1800 && o % 0x40 = 0 && bit v 28 then
    s.modTract ((o - 0x1000) / 0x40) (fun x => { x with tableUe := false })
  else s

/-- Open sessions of a Tract, copies among them. -/
def Tract.openSessions (r : Tract) : Nat := r.sessions.length

/-- Marks (DEDUCED 42). -/
def readStkTract (t r : Nat) (s : State) : Nat × State :=
  let x := s.tract t
  if r = 0x00 then ro (s.freePages t) s
  else if r = 0x04 then ro (s.heldPages t false) s
  else if r = 0x08 then ro (s.heldPages t true) s
  else if r = 0x0C then ro x.openSessions s
  else if r = 0x10 then rc x.empties (State.modTract t (fun x => { x with empties := 0 })) s
  else if r = 0x14 then rc x.nlo (State.modTract t (fun x => { x with nlo := 0 })) s
  else if r = 0x18 then rc x.dfree (State.modTract t (fun x => { x with dfree := 0 })) s
  else if r = 0x1C then ro x.runs.length s
  else ro 0 s

def readStk (o : Nat) (s : State) : Nat × State :=
  if o = 0 then ro s.sessTotal s
  else if 0x1000 ≤ o && o < 0x1800 then readStkTract ((o - 0x1000) / 0x40) (o % 0x40) s
  else ro 0 s

/-! ## ATS -/

/-- Own pages of the sessions of a Tract that wait for reclaim. -/
def Tract.reclaimPages (r : Tract) : Nat :=
  r.reclaimQ.foldl (fun n sid => n + (match Tab.look none r.sessions sid with | some e => e.ownPages.length | none => 0)) 0

def readAtsTract (t r : Nat) (s : State) : Nat × State :=
  let a := s.attn t
  if r = 0x00 then ro (s.attnCount t * 2 ^ 16 + a.lastDetail % 256 * 256 + a.lastStatus % 256) s
  else if r = 0x04 then rc a.admitCnt (State.modAtsTract t (fun a => { a with admitCnt := 0 })) s
  else if r = 0x08 then rc a.busy (State.modAtsTract t (fun a => { a with busy := 0 })) s
  else if r = 0x0C then rc a.large (State.modAtsTract t (fun a => { a with large := 0 })) s
  else if r = 0x10 then ro (s.closedPages t) s
  else if r = 0x14 then ro ((s.tract t).reclaimPages % 2 ^ 24) s
  else if r = 0x18 then ro (min 0xFFFF a.held.length) s
  else ro 0 s

def readAts (o : Nat) (s : State) : Nat × State :=
  let a := s.ats
  if o = 0x00 then ro a.reclaimMin s
  else if o = 0x04 then rc a.drop (State.modAts (fun a => { a with drop := 0 })) s
  else if o = 0x08 then rc a.incomplete (State.modAts (fun a => { a with incomplete := 0 })) s
  else if o = 0x0C then rc a.disc (State.modAts (fun a => { a with disc := 0 })) s
  else if o = 0x10 then rc a.badReq (State.modAts (fun a => { a with badReq := 0 })) s
  else if 0x1000 ≤ o && o < 0x1800 then readAtsTract ((o - 0x1000) / 0x40) (o % 0x40) s
  else ro 0 s

def writeAts (o v : Nat) (s : State) : State :=
  if o = 0 then
    let m := clampTo 256 8192 (bits v 15 0)
    writeLocked (s.ats.reclaimMin == m) (State.modAts (fun a => { a with reclaimMin := m })) s
  else s

/-! ## CRF: the window of physical Croft k at 0x1000 k -/

/-- CRF_NUMST (Table 7-12). -/
def Croft.numst (c : Croft) : Nat :=
  min 0xFFFF c.ovfBlocks * 2 ^ 16 + ofBool c.nonfinite * 8 + ofBool c.invalid * 4 + ofBool c.overflow * 2 + ofBool c.histSat

def readCroft (k r : Nat) (s : State) : Nat × State :=
  let c := s.croft k
  if r = 0x000 then ro c.stateWord s
  else if r = 0x004 then rc c.conflict (State.modCroft k (fun c => { c with conflict := 0 })) s
  else if r = 0x008 then rc c.rxDrop (State.modCroft k (fun c => { c with rxDrop := 0 })) s
  else if r = 0x00C then rc c.ramp (State.modCroft k (fun c => { c with ramp := 0 })) s
  else if r = 0x010 then rc c.overrun (State.modCroft k (fun c => { c with overrun := 0 })) s
  else if r = 0x014 then ro c.lastProg s
  else if r = 0x100 then rc c.numst (State.modCroft k (fun c => { c with ovfBlocks := 0 })) s
  else if r = 0x104 then ro c.step.toNat s
  else if 0x200 ≤ r && r < 0x300 then ro (Tab.look 0 c.flags ((r - 0x200) / 4)) s
  else if 0x300 ≤ r && r < 0x340 then ro (s.tflag (k / 136) ((r - 0x300) / 4)) s
  else ro 0 s

/-- Writes of CRF_NUMST and CRF_STEP; CRF_STEP not while the Croft's Field runs (Table 7-13). -/
def writeCroft (k r v : Nat) (s : State) : State :=
  if r = 0x100 then
    s.modCroft k (fun c => { c with
      nonfinite := c.nonfinite && !bit v 3, invalid := c.invalid && !bit v 2
      overflow := c.overflow && !bit v 1, histSat := c.histSat && !bit v 0 })
  else if r = 0x104 && !s.crf.running then s.modCroft k (fun c => { c with step := BitVec.ofNat 32 v })
  else s

/-! ## IMG -/

/-- Codes of IMG_STATUS.STATE (Table 11-14). -/
def ImgState.code : ImgState → Nat
  | .idle => 0
  | .busy => 1
  | .staged => 2
  | .fail => 3

/-- Word i of a byte window: byte 4i in bits [31:24] (R397). Marks (DEDUCED 40). -/
def windowWord (bs : Bytes) (i : Nat) : Nat := beAt bs (4 * i) 4

/-- The digest of an image, empty if there is none. -/
def digestOf (o : Option Image) : Bytes := match o with | some i => i.digest | none => []

/-- IMG_EPOCH; with a bad Attic header it reads all ones (Table 15-2). -/
def State.imgEpoch (s : State) : Nat := if s.attic.headerBad then 0xFFFFFFFF else s.attic.epoch

def readImg (o : Nat) (s : State) : Nat × State :=
  let i := s.img
  if o = 0x00 then ro (ofBool i.lock * 2 ^ 31 + ofBool i.atticWin * 2 ^ 30) s
  else if o = 0x04 then ro i.len.toNat s
  else if o = 0x08 then
    ro (i.state.code * 2 ^ 29 + ofBool i.cmdLost * 2 ^ 28 + i.kind % 16 * 2 ^ 24 + i.code % 256 * 2 ^ 16 + i.sect % 65536) s
  else if o = 0x0C then ro i.errA.toNat s
  else if o = 0x10 then ro i.errB.toNat s
  else if o = 0x14 then ro s.imgEpoch s
  else if o = 0x18 then ro i.applyLo.toNat s
  else if o = 0x1C then ro i.applyHi.toNat s
  else if o = 0x20 then ro (i.applyState * 2 ^ 30 + i.applyCode) s
  else if o = 0x30 then ro (ofBool i.restore * 2 ^ 31) s
  else if o = 0x34 then ro i.ckptLo.toNat s
  else if o = 0x38 then ro i.ckptHi.toNat s
  else if o = 0x3C then
    ro (i.ckptState * 2 ^ 29 + ofBool i.ckptDone * 2 ^ 28 + i.ckptCode % 256 * 2 ^ 16 + i.captureUs % 65536) s
  else if 0x100 ≤ o && o < 0x140 then ro (windowWord (digestOf i.base) ((o - 0x100) / 4)) s
  else if 0x140 ≤ o && o < 0x180 then ro (windowWord (digestOf i.fieldImg) ((o - 0x140) / 4)) s
  else ro 0 s

/-- IMG_CTL.CMD (Table 11-13); others than 1 to 4 are ignored. Marks (DESIGN CHOICE 26). -/
def imgCommand (cmd : Nat) (s : State) : State :=
  if cmd = 1 then onLoader (startVerify 1 (Config.imageBody s.img.buf)) s
  else if cmd = 2 then onLoader (startVerify 2 (Config.imageBody s.img.buf)) s
  else if cmd = 3 then onLoader discard s
  else if cmd = 4 then onLoader applyBase s
  else s

/-- IMG_CKPT_CTL.CMD (Table 12-7). -/
def ckptCommand (cmd : Nat) (s : State) : State :=
  if cmd = 1 then onLoader ckptSave s
  else if cmd = 2 then onLoader ckptResume s
  else if cmd = 3 then onLoader ckptCancel s
  else s

def writeImg (o v : Nat) (s : State) : State :=
  if o = 0x00 then
    imgCommand (bits v 2 0) (s.modImg (fun i => { i with lock := i.lock || bit v 31, atticWin := bit v 30 }))
  else if o = 0x04 then s.modImg (fun i => { i with len := BitVec.ofNat 29 v })
  else if o = 0x08 then s.modImg (fun i => { i with cmdLost := i.cmdLost && !bit v 28 })
  else if o = 0x18 then s.modImg (fun i => { i with applyLo := BitVec.ofNat 32 v })
  else if o = 0x1C then s.modImg (fun i => { i with applyHi := BitVec.ofNat 32 v })
  else if o = 0x30 then ckptCommand (bits v 1 0) (s.modImg (fun i => { i with restore := bit v 31 }))
  else if o = 0x34 then s.modImg (fun i => { i with ckptLo := BitVec.ofNat 32 v })
  else if o = 0x38 then s.modImg (fun i => { i with ckptHi := BitVec.ofNat 32 v })
  else if o = 0x3C then s.modImg (fun i => { i with ckptDone := i.ckptDone && !bit v 28 })
  else s

/-! ## ATC (R376) -/

/-- Marks (DEDUCED 45). -/
def readAtc (o : Nat) (s : State) : Nat × State :=
  let a := s.attic
  if o = 0x00 then
    ro (ofBool a.writing.isSome * 2 ^ 31 + ofBool a.failed * 2 ^ 30 + a.nextCap % 8 * 2 ^ 24 + min 255 a.capSkip * 2 ^ 16 +
        a.faultSeq % 4096) s
  else if o = 0x04 then ro a.boots s
  else if o = 0x08 then ro a.faultSeq s
  else ro 0 s

/-! ## THM -/

def readThm (o : Nat) (s : State) : Nat × State :=
  let t := s.thm
  if o = 0x00 then ro (ofBool t.trip * 2 ^ 31 + t.sensor % 64 * 2 ^ 8 + t.level % 8) s
  else if o = 0x04 then ro (t.hbmThr * 256 + t.juncThr) s
  else if o = 0x08 then rc t.throttled (State.modThm (fun t => { t with throttled := 0 })) s
  else if o = 0x0C then (let s := samplePower s; ro s.thm.power.toNat s)
  else if 0x100 ≤ o && o < 0x1E4 then
    let e := s.temp ((o - 0x100) / 4)
    ro (e.cur.toNat + e.peak.toNat * 2 ^ 16) s
  else ro 0 s

def writeThm (o v : Nat) (s : State) : State :=
  if o = 0x04 then
    let h := clampTo 75 93 (bits v 15 8)
    let j := clampTo 85 103 (bits v 7 0)
    writeLocked (s.thm.hbmThr == h && s.thm.juncThr == j) (State.modThm (fun t => { t with hbmThr := h, juncThr := j })) s
  else if o = 0x200 then onlyIf (bit v 0) peakClear s
  else s

end Sys2Proof.Machine
end

