-- ==== Sys2Proof/Machine/Security.lean ====
section
/-! DEFINITION. Machine/Security.lean: the SEC block, attestation and image keys (15_power_up_identity_grades.md
R392-R397), with the bytes of the Attic's fault ring that a report covers (14_faults_hangs_recovery.md Table 14-14). -/

namespace Sys2Proof.Machine

/-! ## The fault ring (Tables 14-13, 14-14) -/

/-- The 64 bytes of a fault record. -/
def FaultRec.bytes (r : FaultRec) : Bytes :=
  let body := beBytes 4 r.seq ++ beBytes 1 r.cls ++ beBytes 1 r.access ++ beBytes 2 r.source ++ beBytes 2 r.unit ++
    beBytes 1 r.seen.toNat ++ beBytes 1 (ofBool r.inj + ofBool r.closed * 2 + ofBool r.fenced * 4) ++ beBytes 4 r.count ++
    beBytes 8 r.addr ++ beBytes 8 r.gtFirst ++ beBytes 8 r.gtLast ++ beBytes 4 r.info ++ beBytes 4 r.boot ++
    beBytes 2 r.dev ++ List.replicate 10 0
  body ++ beBytes 4 (crc32c body)

/-- The 256 KiB fault ring: 4,096 places, zero where no record has been written. -/
def Attic.ringBytes (a : Attic) : Bytes :=
  (List.range 4096).flatMap (fun i => match Tab.look none a.ring i with | some r => r.bytes | none => List.replicate 64 0)

/-- The newest FT record's SOURCE, and how many FT records the ring holds. -/
def Attic.ftRecords (a : Attic) : List FaultRec := a.ring.filterMap (fun e => e.2.filter (·.cls == 3))
def Attic.lastFt (a : Attic) : Nat :=
  (a.ftRecords.foldl (fun (b : Option FaultRec) r => match b with
    | some x => if x.seq < r.seq then some r else b
    | none => some r) none).elim 0 (·.source)

/-! ## The SEC block (Table 15-9) -/

/-- A byte string as a window's content; bytes beyond it read 0. -/
def readSec (o : Nat) (s : State) : Nat × State :=
  let x := s.sec
  if o = 0x00 then ro x.cmd.toNat s
  else if o = 0x04 then ro (x.state * 2 ^ 30 + x.code) s
  else if 0x10 ≤ o && o < 0x30 then ro (Tab.look 0 x.nonce ((o - 0x10) / 4)).toNat s
  else if 0x1000 ≤ o && o < 0x2000 then ro (windowWord x.report ((o - 0x1000) / 4)) s
  else if 0x2000 ≤ o && o < 0x3000 then ro (windowWord x.pubkey ((o - 0x2000) / 4)) s
  else if 0x3000 ≤ o && o < 0x4000 then ro (windowWord s.fuses.endorsement ((o - 0x3000) / 4)) s
  else if 0x4000 ≤ o && o < 0x6000 then
    ro (windowWord (s.fuses.keys.getD ((o - 0x4000) / 0x800) []) (o % 0x800 / 4)) s
  else ro 0 s

/-- SEC_STATUS ends a command: DONE, or FAIL with a code. -/
def endSec (code : Nat) (s : State) : State := s.modSec (fun x => { x with state := if code = 0 then 2 else 3, code := code })

/-! ## Attestation (R396, Table 15-8) -/

/-- SEC_NONCE as 32 bytes. -/
def Sec.nonceBytes (x : Sec) : Bytes := (List.range 8).flatMap (fun i => beBytes 4 (Tab.look 0 x.nonce i).toNat)

/-- A digest field of the report: 64 bytes, zero where there is none. -/
def digestField (o : Option Image) : Bytes := slice (digestOf o) 0 64

/-- Bytes 0-367 of a report captured now. Marks (DEDUCED 61). -/
def State.reportBody (s : State) : Bytes :=
  let u := s.fuses
  let a := s.attic
  let flags := ofBool u.fp64 + ofBool u.threePass * 2 + ofBool s.img.lock * 4 + ofBool s.isFatal * 8 +
    ofBool (s.bel.state == .locked) * 16
  let slotOf := fun (o : Option Image) => match o with | some i => i.hdr.keySlot | none => 0
  let mapped := (s.crf.lmap.filter (·.2.isSome)).length
  let spares := (s.crf.crofts.filter (·.2.spare)).length
  beBytes 4 0x41545354 ++ beBytes 2 1 ++ beBytes 2 3680 ++ s.sec.nonceBytes ++ beBytes 8 s.bel.gt ++ beBytes 4 a.boots ++
  beBytes 2 s.devIndex ++ beBytes 1 s.glb.grade ++ beBytes 1 flags ++ beBytes 1 (u.enrolled.toNat + u.revoked.toNat * 16) ++
  beBytes 1 s.glb.stage ++ beBytes 2 0 ++ beBytes 2 mapped ++ beBytes 2 spares ++ beBytes 4 s.imgEpoch ++
  beBytes 1 (ofBool s.img.base.isSome + ofBool s.img.fieldImg.isSome * 2) ++ beBytes 1 (slotOf s.img.base) ++
  beBytes 1 (slotOf s.img.fieldImg) ++ beBytes 1 (match s.img.fieldImg with | some i => i.hdr.field | none => 0xFF) ++
  digestField s.img.base ++ digestField s.img.fieldImg ++ beBytes 4 a.faultSeq ++ beBytes 4 a.faultSeq ++
  beBytes 4 a.resetSeq ++ beBytes 4 a.imageSeq ++ beBytes 4 a.ftRecords.length ++ beBytes 4 s.flt.ucEvents ++
  beBytes 4 s.flt.ceEvents ++ beBytes 2 a.lastFt ++ beBytes 2 0 ++ slice (digest a.ringBytes) 0 64 ++
  slice (digest s.sec.pubkey) 0 64 ++ beBytes 8 u.serial.toNat

/-- ATTEST: accepted from STAGE 4 on and in the fatal state; refused with NOT_ALLOWED before. Marks (DESIGN CHOICE 58). -/
def attest (s : State) : State :=
  if s.glb.stage < 2 then s
  else
    let s := s.modSec (fun x => { x with cmd := 1 })
    if s.glb.stage < 4 then endSec 8 s
    else
      let body := s.reportBody
      let (random, s) := s.drawBytes 32
      let sig := slice (mldsaSign s.seed (digest body) random) 0 3309
      endSec 0 (s.modSec (fun x => { x with report := body ++ sig ++ [0, 0, 0] }))

/-! ## Image keys (R394, R395, Table 15-7) -/

/-- The key-operation record in the image buffer. -/
structure KeyRecord where
  bytes  : Bytes
  op     : Nat
  target : Nat
  auth   : Nat
  device : Bytes
  key    : Bytes

def State.keyRecord (s : State) : KeyRecord :=
  let b := Memory.readN s.img.buf 0 5344
  { bytes := b, op := beAt b 6 1, target := beAt b 7 1, auth := beAt b 8 1, device := slice b 12 64, key := slice b 80 1952 }

/-- MAGIC, FORMAT, OP, the length and every reserved byte; slots within their ranges; a REVOKE's KEY is zero. -/
def KeyRecord.formed (r : KeyRecord) (len : Nat) : Bool :=
  len == 5344 && beAt r.bytes 0 4 == 0x454E524C && beAt r.bytes 4 2 == 1 && (r.op == 1 || r.op == 2) && r.target < 4 &&
  r.auth < 4 && slice r.bytes 9 3 == [0, 0, 0] && slice r.bytes 76 4 == [0, 0, 0, 0] &&
  slice r.bytes 5341 3 == [0, 0, 0] && (r.op == 1 || r.key.all (· == 0))

/-- The first check that a record fails, in the order of R395, with its code; the code of a REVOKE whose TARGET_SLOT is
not in use is not stated. -/
def State.keyFail (s : State) (r : KeyRecord) : Option (Option Nat) :=
  let u := s.fuses
  if !r.formed s.img.len.toNat then some (some 2)
  else if !s.keyUsable r.auth then some (some 5)
  else if !(r.device.all (· == 0) || r.device == slice (digest s.sec.pubkey) 0 64) then some (some 7)
  else if !mldsaVerify (u.keys.getD r.auth []) (digest (slice r.bytes 0 2032)) (slice r.bytes 2032 3309)
    then some (some 3)
  else if r.op = 1 then
    (if r.target = 0 || u.enrolled.getLsbD r.target || u.revoked.getLsbD r.target then some (some 4) else none)
  else if !(u.enrolled.getLsbD r.target && !u.revoked.getLsbD r.target) then some none
  else if (List.range 4).any (fun i => i != r.target && s.keyUsable i) then none else some (some 6)

/-- The key bits of a slot are blown, then checked: whether they pass is the fuses' own matter. Marks (DESIGN CHOICE 60). -/
def enrollSlot (r : KeyRecord) (s : State) : State :=
  let (v, s) := s.draw
  if v.getLsbD 0 then
    let (k, s) := s.drawBytes 1952
    endSec 9 (s.modFuses (fun u => { u with keys := u.keys.set r.target k, revoked := u.revoked ||| (1#4 <<< r.target) }))
  else
    endSec 0 (s.modFuses (fun u => { u with
      keys := u.keys.set r.target r.key, enrolled := u.enrolled ||| (1#4 <<< r.target) }))

/-- The revoked marker of a slot is blown. -/
def revokeSlot (r : KeyRecord) (s : State) : State :=
  endSec 0 (s.modFuses (fun u => { u with revoked := u.revoked ||| (1#4 <<< r.target) }))

/-- KEY_OP: refused while the image buffer is in use, before STAGE 3 and in the fatal state; the record in the buffer
says what is done. -/
def keyOp (s : State) : State :=
  if s.glb.stage < 2 then s
  else
    let s := s.modSec (fun x => { x with cmd := 2 })
    if s.glb.stage < 3 || s.isFatal then endSec 8 s
    else if s.img.state = .busy || s.img.state = .staged then endSec 1 s
    else
      let r := s.keyRecord
      match s.keyFail r with
      | some (some c) => endSec c s
      | some none => (let (v, s) := s.draw; endSec (1 + v.toNat % 255) s)
      | none => if r.op = 1 then enrollSlot r s else revokeSlot r s

/-- A write of the SEC block. A GO with another CMD names no command. -/
def writeSec (o v : Nat) (s : State) : State :=
  if o = 0x00 then
    let cmd := bits v 1 0
    let s := s.modSec (fun x => { x with cmd := BitVec.ofNat 2 cmd })
    if bit v 31 && cmd = 1 then attest s else if bit v 31 && cmd = 2 then keyOp s else s
  else if 0x10 ≤ o && o < 0x30 then
    s.modSec (fun x => { x with nonce := Tab.put 0 x.nonce ((o - 0x10) / 4) (BitVec.ofNat 32 v) })
  else s

def execAttest (s : State) : Answer := .next (attest s)
/-- Marks (DEDUCED 59). -/
def execEnroll (s : State) : Answer := .next (keyOp s)
def execRevoke (s : State) : Answer := .next (keyOp s)

end Sys2Proof.Machine
end

