-- ==== Sys2Proof/Machine/Attic.lean ====
section
/-! DEFINITION. Machine/Attic.lean: the bytes of the Attic (14_faults_hangs_recovery.md R361, R371-R373, Tables 14-8, 14-13)
as BAR2 shows them while IMG_CTL.ATTIC_WIN is set. No command of the table reads BAR2. -/

namespace Sys2Proof.Machine

/-- The 64 bytes of a reset record (R373). -/
def ResetRec.bytes (r : ResetRec) : Bytes :=
  let body := beBytes 4 r.seq ++ beBytes 1 r.kind ++ beBytes 1 r.field ++ beBytes 2 r.cause ++ beBytes 4 r.boot ++
    beBytes 8 r.gtReq ++ beBytes 8 r.gtDone ++ beBytes 1 r.capsule ++ beBytes 1 r.code ++ List.replicate 30 0
  body ++ beBytes 4 (crc32c body)

/-- The 128 bytes of an image record: the CRC lies before the digest and covers it (R373). -/
def ImageRec.bytes (r : ImageRec) : Bytes :=
  let body := beBytes 4 r.seq ++ beBytes 1 r.kind ++ beBytes 1 r.field ++ beBytes 1 r.keySlot ++ beBytes 1 r.grade ++
    beBytes 4 r.epoch ++ beBytes 4 r.boot ++ beBytes 8 r.gt ++ beBytes 8 r.build ++ beBytes 2 r.dev ++ List.replicate 26 0
  let tail := slice r.digest 0 64
  body ++ beBytes 4 (crc32c (body ++ tail)) ++ tail

/-- One Croft's 4,608 bytes of a capsule (Table 14-8). -/
def CapsuleRec.bytes (r : CapsuleRec) : Bytes :=
  beBytes 2 r.logical ++ beBytes 2 r.physical ++ beBytes 4 r.state.toNat ++ beBytes 4 r.step.toNat ++ beBytes 4 r.prog.toNat ++
  slice (r.heads.flatMap (fun w => beBytes 32 w.toNat)) 0 160 ++ slice (r.flags.flatMap (beBytes 2)) 0 128 ++
  List.replicate 208 0 ++ slice r.pantry 0 4096

/-- A capsule: a header of 4 KiB and the records (Table 14-8). -/
def Capsule.bytes (c : Capsule) : Bytes :=
  slice (beBytes 4 0x43415053 ++ beBytes 1 c.cause ++ beBytes 1 c.field ++ beBytes 2 c.records.length ++ beBytes 4 c.boot ++
    beBytes 4 c.faultSeq ++ beBytes 8 c.gt ++ beBytes 2 c.dev ++ beBytes 1 (ofBool c.complete) ++ List.replicate 5 0 ++
    slice (c.tflags.flatMap (beBytes 2)) 0 1024) 0 4096 ++ c.records.flatMap CapsuleRec.bytes

/-- The 32 bytes of the Attic's header that are not zero (Table 14-13). -/
def Attic.header (a : Attic) : Bytes :=
  let body := beBytes 4 0x41545443 ++ beBytes 4 a.boots ++ beBytes 4 a.epoch ++ beBytes 4 a.faultSeq ++ beBytes 4 a.resetSeq ++
    beBytes 4 a.imageSeq ++ beBytes 1 a.nextCap ++ [0, 0, 0]
  body ++ beBytes 4 (crc32c body)

/-- The bytes of a record that may not have been written: zero then. -/
def recordByte {α : Type} (bytes : α → Bytes) (r : Option α) (o : Nat) : Byte :=
  match r with | some x => (bytes x).getD o 0 | none => 0

/-- One byte of the Attic window (Table 14-13). -/
def Attic.byteAt (a : Attic) (o : Nat) : Byte :=
  if o < 0x1000 then a.header.getD o 0
  else if o < 0x41000 then recordByte FaultRec.bytes (Tab.look none a.ring ((o - 0x1000) / 64)) ((o - 0x1000) % 64)
  else if o < 0x51000 then recordByte ResetRec.bytes (Tab.look none a.resets ((o - 0x41000) / 64)) ((o - 0x41000) % 64)
  else if o < 0x71000 then recordByte ImageRec.bytes (Tab.look none a.images ((o - 0x51000) / 128)) ((o - 0x51000) % 128)
  else if 0x400000 ≤ o && o < 0x800000 then
    recordByte Capsule.bytes (Tab.look none a.capsules ((o - 0x400000) / 0x80000)) ((o - 0x400000) % 0x80000)
  else 0

/-- One byte of the BAR2 window: the Attic, else the image buffer (R297, R371). Marks (DESIGN CHOICE 48). -/
def State.bar2Byte (s : State) (o : Nat) : Byte :=
  if s.img.atticWin then s.attic.byteAt o else Memory.read s.img.buf o

end Sys2Proof.Machine
end

