-- ==== Sys2Proof/Machine/Registers.lean ====
section
/-! DEFINITION. Machine/Registers.lean: the BAR0 map and the rules of access (16_register_map.md R398-R403), and the BAR2
and BAR4 windows (13_optical_bell_and_host_links.md R339, 11_control_words_images_verifier.md R297). -/

namespace Sys2Proof.Machine

/-! ## Blocks (Table 16-2) -/

/-- The blocks of BAR0. -/
inductive Block where
  | glb | flt | bel | gat | swc | rte | fld | cel | stk | ats | crf | img | lnk | bln | atc | sec | thm | msix | pba
  deriving DecidableEq, Repr

/-- Base, end, and the STAGE from which a block reads. -/
def blockMap : List (Block × Nat × Nat × Nat) :=
  [(.glb, 0x0000000, 0x00FFFFF, 2), (.flt, 0x0100000, 0x01FFFFF, 2), (.bel, 0x0200000, 0x02FFFFF, 5),
   (.gat, 0x0300000, 0x03FFFFF, 5), (.swc, 0x0400000, 0x04FFFFF, 5), (.rte, 0x0500000, 0x05FFFFF, 5),
   (.fld, 0x0600000, 0x06FFFFF, 4), (.cel, 0x0700000, 0x07FFFFF, 4), (.stk, 0x0800000, 0x08FFFFF, 4),
   (.ats, 0x0900000, 0x09FFFFF, 4), (.crf, 0x0A00000, 0x1AFFFFF, 3), (.img, 0x2000000, 0x20FFFFF, 3),
   (.lnk, 0x2100000, 0x21FFFFF, 5), (.bln, 0x2200000, 0x22FFFFF, 5), (.atc, 0x2300000, 0x23FFFFF, 2),
   (.sec, 0x2400000, 0x24FFFFF, 2), (.thm, 0x2500000, 0x25FFFFF, 2), (.msix, 0x3F00000, 0x3F003FF, 2),
   (.pba, 0x3F01000, 0x3F01007, 2)]

/-- Size of BAR0. -/
def bar0Size : Nat := 0x4000000

/-- Blocks that read normally in the fatal state. -/
def Block.normal : Block → Bool
  | .glb | .flt | .atc | .sec | .thm | .msix | .pba => true
  | _ => false

/-- Blocks that a warm reset holds (R365). -/
def Block.compute : Block → Bool
  | .fld | .cel | .stk | .ats | .crf => true
  | _ => false

/-- A warm reset is under way. -/
def State.warmHeld (s : State) : Bool := match s.flt.rstWaiting with | some (2, _) => true | _ => false

/-- The block, the STAGE it reads from and the offset in it of a BAR0 offset; none in a reserved range. -/
def blockAt (off : Nat) : Option (Block × Nat × Nat) :=
  (blockMap.find? (fun e => e.2.1 ≤ off && off ≤ e.2.2.1)).map (fun e => (e.1, e.2.2.2, off - e.2.1))

/-- A block answers accesses (R352, R365, R380, R399). Marks (DEDUCED 22). -/
def State.blockOpen (s : State) (b : Block) (stage : Nat) : Bool :=
  if s.isFatal then b.normal else stage ≤ s.glb.stage && !(b.compute && s.warmHeld)

/-! ## MSI-X (R340) -/

/-- A write of one word of the MSI-X table: the vector control keeps its mask bit; a vector unmasked while it is pended
is sent. -/
def writeMsix (i v : Nat) (s : State) : State :=
  let vec := i / 4
  if i % 4 ≠ 3 then s.modHost (fun h => { h with table := Tab.put 0 h.table i (BitVec.ofNat 32 v) })
  else
    let s := s.modHost (fun h => { h with table := Tab.put 1 h.table i (BitVec.ofNat 32 (v % 2)) })
    if !bit v 0 && s.host.pend.getLsbD vec
    then signal vec (s.modHost (fun h => { h with pend := h.pend &&& ~~~(1#64 <<< vec) })) else s

/-! ## Access by block -/

def readBlock (b : Block) (o : Nat) (s : State) : Nat × State :=
  match b with
  | .glb => readGlb o s
  | .flt => readFlt o s
  | .bel => readBel o s
  | .gat => readGat o s
  | .swc => readSwc o s
  | .rte => readRte o s
  | .fld => readFld o s
  | .cel => readCel o s
  | .stk => readStk o s
  | .ats => readAts o s
  | .crf => readCroft (o / 0x1000) (o % 0x1000) s
  | .img => readImg o s
  | .lnk => readLnk o s
  | .bln => readBln o s
  | .atc => readAtc o s
  | .sec => readSec o s
  | .thm => readThm o s
  | .msix => ro (s.host.word (o / 4)).toNat s
  | .pba => ro (if o = 0 then lowHalf s.host.pend.toNat else highHalf s.host.pend.toNat) s

/-- Marks (DEDUCED 53). -/
def writeBlock (b : Block) (o v : Nat) (s : State) : State :=
  match b with
  | .glb => writeGlb o v s
  | .flt => writeFlt o v s
  | .bel => writeBel o v s
  | .gat => writeGat o v s
  | .swc => writeSwc o v s
  | .rte => writeRte o v s
  | .fld => writeFld o v s
  | .cel => writeCel o v s
  | .stk => s
  | .ats => writeAts o v s
  | .crf => writeCroft (o / 0x1000) (o % 0x1000) v s
  | .img => writeImg o v s
  | .lnk => writeLnk o v s
  | .bln => writeBln o v s
  | .atc => s
  | .sec => writeSec o v s
  | .thm => writeThm o v s
  | .msix => writeMsix (o / 4) v s
  | .pba => s

/-- An access to the window of a fused-off Croft, outside CRF_STATE (R389, R400). -/
def State.fusedAccess (s : State) (b : Block) (o : Nat) : Bool :=
  b == .crf && (s.croft (o / 0x1000)).fused && o % 0x1000 != 0

/-- 0x080B: UC, with its BAR0 offset. Marks (DEDUCED 50). -/
def logFused (off access : Nat) (s : State) : State :=
  recordFault { source := 0x080B, unit := unitCroft ((off - 0xA00000) / 0x1000), cls := 2, access := access, addr := off } s

/-- The _LO registers of the pairs whose _HI is latched (R7, R402): FLT_CAP_ADDR, FLT_CAP_GT, BEL_GT, BEL_LAUNCH,
IMG_APPLY, IMG_CKPT. Marks (DEDUCED 24). -/
def loRegisters : List Nat := [0x100014, 0x10001C, 0x200000, 0x200010, 0x2000018, 0x2000034]

/-- Read a register without the latch rule. -/
def readPlain (off : Nat) (s : State) : Nat × State :=
  match blockAt off with
  | none => (0, s)
  | some (b, stage, o) =>
    if !s.blockOpen b stage then (0, s)
    else if s.fusedAccess b o then (0, logFused off 1 s)
    else readBlock b o s

/-- Whether a BAR0 offset lies in a block that answers. -/
def State.answers (s : State) (off : Nat) : Bool :=
  match blockAt off with | some (b, stage, _) => s.blockOpen b stage | none => false

/-- Read a register (R400, R402). -/
def readReg (off : Nat) (s : State) : Nat × State :=
  if !s.answers off then (0, s)
  else if loRegisters.contains off then
    let hi := (readPlain (off + 4) s).1
    readPlain off (s.modGlb (fun g => { g with hiLatch := Tab.put none g.hiLatch off (some (BitVec.ofNat 32 hi)) }))
  else if loRegisters.contains (off - 4) && 4 ≤ off then
    match Tab.look none s.glb.hiLatch (off - 4) with
    | some h => (h.toNat, s)
    | none => readPlain off s
  else readPlain off s

/-- A command to the image loader written before the end of step 5 sets CMD_LOST (R380). Marks (DEDUCED 23). -/
def earlyCommand (o v : Nat) (s : State) : State :=
  if s.glb.stage < 3 && !s.isFatal && ((o = 0x00 && 1 ≤ bits v 2 0 && bits v 2 0 ≤ 4) || (o = 0x30 && bits v 1 0 ≠ 0)) then loseCommand s
  else s

/-- Write a register (R400, R403). -/
def writeReg (off v : Nat) (s : State) : State :=
  match blockAt off with
  | none => s
  | some (b, stage, o) =>
    if !s.blockOpen b stage then (if b = .img then earlyCommand o v s else s)
    else if s.fusedAccess b o then logFused off 2 s
    else writeBlock b o v s

/-! ## Host accesses (R339) -/

/-- The host reaches the device: the link is up and the device is out of reset. Marks (DESIGN CHOICE 21). -/
def State.hostUp (s : State) : Bool := s.host.l0 && s.glb.stage != 0

/-- REGISTER_READ: 4 bytes, naturally aligned; anything else is an unsupported request. Marks (PRESUMED 20). -/
def hostRead (off : Nat) (s : State) : State :=
  if !s.hostUp then s
  else if off % 4 ≠ 0 then s.emit .unsupportedRequest
  else
    let (v, s) := readReg off s
    s.emit (.readDone off (BitVec.ofNat 32 v))

/-- REGISTER_WRITE. -/
def hostWrite (off : Nat) (v : Word) (s : State) : State :=
  if !s.hostUp then s
  else if off % 4 ≠ 0 then s.emit .unsupportedRequest
  else writeReg off v.toNat s

/-- BAR2_WRITE: to the image buffer, but not while it shows the Attic, nor while it is in use, nor before the end of step
5 (R297, R380). Marks (DEDUCED 47; PRESUMED 28). -/
def bar2Write (off : Nat) (data : Bytes) (s : State) : State :=
  if !s.hostUp || s.isFatal || s.glb.stage < 3 || s.img.atticWin || s.img.state = .busy || s.img.state = .staged then s
  else s.modImg (fun i => { i with buf := Memory.writeN i.buf off data })

/-- BAR4_READ: bytes of the stack of the Tract in GLB_WIN; a fenced Tract and a Cellar that does not answer read 0; an
uncorrectable word is a Completer Abort (R339). Marks (DEDUCED 49). -/
def bar4Read (off len : Nat) (s : State) : State :=
  if !s.hostUp then s
  else
    let t := s.glb.winTract
    if s.isFatal || s.glb.stage < 4 || s.warmHeld || (s.tract t).fenced then s.emit (.readBytes (List.replicate len 0))
    else match readStack t off len s with
    | (some b, s) => s.emit (.readBytes b)
    | (none, s) => settleCore (s.emit .completerAbort)

/-- A write of BAR4 is accepted: every byte in the checkpoint slot, the work area or CROFT_EXTRA, and no Field runs. -/
def State.bar4Takes (s : State) (off len : Nat) : Bool :=
  let t := s.glb.winTract
  let pages := (List.range ((off + len - 1) / 65536 - off / 65536 + 1)).map (off / 65536 + ·)
  !s.isFatal && !s.warmHeld && !(s.tract t).fenced && !s.crf.running && pages.all (fun g => s.regionOf t g == .work)

/-- BAR4_WRITE: other writes are discarded and counted in WR_REJ. -/
def bar4Write (off : Nat) (data : Bytes) (s : State) : State :=
  if !s.hostUp || s.glb.stage < 4 then s
  else if s.bar4Takes off data.length then cellWrite s.glb.winTract off data s
  else s.modGlb (fun g => { g with wrRej := satAdd 0xFFFF g.wrRej 1 })

def execRegisterRead (off : Nat) (s : State) : Answer := need (off < bar0Size) (hostRead off s)
def execRegisterWrite (off : Nat) (v : Word) (s : State) : Answer := need (off < bar0Size) (hostWrite off v s)
def execBar2Write (off : Nat) (data : Bytes) (s : State) : Answer :=
  need (off + data.length ≤ 0x10000000) (bar2Write off data s)
def execBar4Read (off len : Nat) (s : State) : Answer := need (off + len ≤ 2 ^ 36) (bar4Read off len s)
def execBar4Write (off : Nat) (data : Bytes) (s : State) : Answer := need (off + data.length ≤ 2 ^ 36) (bar4Write off data s)

end Sys2Proof.Machine
end

