-- ==== Sys2Proof/Machine/Mailbox.lean ====
section
/-! DEFINITION. Machine/Mailbox.lean: the management mailbox and the packets through which one device reads and writes the
registers of another (16_register_map.md R404-R407). -/

namespace Sys2Proof.Machine

/-! ## The requester (R406) -/

/-- A write of GLB_MGMT_REQ with GO, with the TARGET and COUNT that stand. -/
def mailboxRequest (write : Bool) (s : State) : State :=
  if !s.hostUp || s.glb.stage < 2 then s
  else mailboxGo (s.modGlb (fun g => { g with mgmtWrite := write }))

/-- MGMT_RSP: of the request that is outstanding; any other is discarded. Marks (DEDUCED 56). -/
def mgmtRsp (p : Packet) (s : State) : State :=
  let s := takeInbox p s
  if s.glb.mgmtState ≠ 1 || p.tsw0.toNat % 65536 ≠ s.glb.mgmtTag.toNat then s
  else
    let r := beAt p.payload 0 1
    if r = 0 then
      let words := (List.range ((p.payload.length - 8) / 4)).map (fun i => beAt p.payload (8 + 4 * i) 4)
      s.modGlb (fun g => { g with
        mgmtState := 2, mgmtResult := 0
        mgmtData := (words.take 256).zipIdx.foldl (fun m e => Tab.put 0 m e.2 (BitVec.ofNat 32 e.1)) g.mgmtData })
    else s.modGlb (fun g => { g with mgmtState := 3, mgmtResult := r })

/-- MAILBOX_TIMEOUT: 1 ms, 312,500 GT, after GO without an answer. -/
def mailboxTimeout (s : State) : State :=
  if s.glb.mgmtState = 1
  then (advanceTo (s.glb.mgmtGt + 312500) s).modGlb (fun g => { g with mgmtState := 3, mgmtResult := 4 }) else s

/-! ## The target (R407) -/

/-- A request: TAG, requester, OFFSET, COUNT and the words of a write. -/
structure MgmtRequest where
  tag    : Nat
  dev    : Nat
  offset : Nat
  count  : Nat
  words  : List Nat

def parseMgmt (p : Packet) : MgmtRequest :=
  { tag := p.tsw0.toNat % 65536, dev := p.src.toNat % 16384, offset := beAt p.payload 0 4, count := beAt p.payload 4 2
    words := (List.range ((p.payload.length - 8) / 4)).map (fun i => beAt p.payload (8 + 4 * i) 4) }

/-- The form of Table 16-5: a multiple of 4, 1 to 256 words, LENGTH to match. -/
def MgmtRequest.formed (r : MgmtRequest) (write : Bool) (p : Packet) : Bool :=
  r.offset % 4 == 0 && 1 ≤ r.count && r.count ≤ 256 && beAt p.payload 6 2 == 0 &&
  p.payload.length == (if write then 8 + 4 * r.count else 8)

/-- Registers that no other device may write: GLB_MGMT, IMG, SEC and MSI-X. -/
def mgmtGuarded (off : Nat) : Bool :=
  (0x100 ≤ off && off < 0x110) || (0x400 ≤ off && off < 0x800) || (0x2000000 ≤ off && off < 0x2100000) ||
  (0x2400000 ≤ off && off < 0x2500000) || (0x3F00000 ≤ off && off < 0x3F01008)

/-- The result of a request: OK 0, DENIED 1, BAD_OFFSET 2. -/
def State.mgmtResult (s : State) (write : Bool) (r : MgmtRequest) : Nat :=
  if bar0Size < r.offset + 4 * r.count then 2
  else if !write && !s.glb.mgmtCtl.getLsbD 1 then 1
  else if write && (!s.glb.mgmtCtl.getLsbD 0 || (List.range r.count).any (fun i => mgmtGuarded (r.offset + 4 * i))) then 1
  else 0

/-- The words of a read, in ascending offset. -/
def mgmtReads (off : Nat) : Nat → State → List Nat × State
  | 0, s => ([], s)
  | n + 1, s =>
    let (v, s) := readReg off s
    let (vs, s) := mgmtReads (off + 4) n s
    (v :: vs, s)

/-- The words of a write, in ascending offset. -/
def mgmtWrites (off : Nat) : List Nat → State → State
  | [], s => s
  | v :: vs, s => mgmtWrites (off + 4) vs (writeReg off v s)

/-- A request is executed and answered at the management slot 120 (Tables 1-4, 1-5); a malformed one is dropped. Marks (DEDUCED 54, 55). -/
def mgmtServe (write : Bool) (p : Packet) (s : State) : State :=
  let s := takeInbox p s
  let r := parseMgmt p
  if s.isFatal || !r.formed write p then s
  else
    let res := s.mgmtResult write r
    let (data, s) := if res ≠ 0 then ([], s)
      else if write then ([], mgmtWrites r.offset r.words s)
      else mgmtReads r.offset r.count s
    if s.isFatal then s
    else
      let body := beBytes 1 res ++ [0, 0, 0] ++ beBytes 4 r.offset ++ data.flatMap (beBytes 4)
      settleCore (inject 120 (s.mgmtPacket r.dev 5 r.tag body) s)

/-- A management packet of its type; nothing arrives in the fatal state. -/
def mgmtTakes (ptype : Nat) (f : Packet → State → State) (p : Packet) (s : State) : State :=
  if p.ptype.toNat != ptype || p.cls != 0 || s.isFatal then s else f p s

def execMailboxRead (s : State) : Answer := .next (mailboxRequest false s)
def execMailboxWrite (s : State) : Answer := .next (mailboxRequest true s)
def execMailboxTimeout (s : State) : Answer := .next (mailboxTimeout s)
def execMgmtRd (p : Packet) (s : State) : Answer := need (Wf.packet p) (mgmtTakes 3 (mgmtServe false) p s)
def execMgmtWr (p : Packet) (s : State) : Answer := need (Wf.packet p) (mgmtTakes 4 (mgmtServe true) p s)
def execMgmtRsp (p : Packet) (s : State) : Answer := need (Wf.packet p) (mgmtTakes 5 mgmtRsp p s)

end Sys2Proof.Machine
end

