-- ==== Sys2Proof/Machine/Dispatch.lean ====
section
/-! DEFINITION. Machine/Dispatch.lean: one arm per command. -/

namespace Sys2Proof.Machine

def exec (i : Instr) (s : State) : Host.Outcome State Fault Refusal :=
  match i with
  | .powerUp env => Sys2Proof.Machine.execPowerUp env s
  | .powerLoss => Sys2Proof.Machine.execPowerLoss s
  | .strapChange bitmap => Sys2Proof.Machine.execStrapChange bitmap s
  | .hostLinkReset kind => Sys2Proof.Machine.execHostLinkReset kind s
  | .fieldReset field capsule => Sys2Proof.Machine.execFieldReset field capsule s
  | .warmReset capsule => Sys2Proof.Machine.execWarmReset capsule s
  | .coldReset env => Sys2Proof.Machine.execColdReset env s
  | .railOutOfRange rail mv => Sys2Proof.Machine.execRailOutOfRange rail mv s
  | .pllLockLost pll => Sys2Proof.Machine.execPllLockLost pll s
  | .thermalTrip sensor reading => Sys2Proof.Machine.execThermalTrip sensor reading s
  | .throttleEval readings => Sys2Proof.Machine.execThrottleEval readings s
  | .vidStep code => Sys2Proof.Machine.execVidStep code s
  | .engineModulatorsLocked oe => Sys2Proof.Machine.execEngineModulatorsLocked oe s
  | .portLightDetected port => Sys2Proof.Machine.execPortLightDetected port s
  | .portAdapted port => Sys2Proof.Machine.execPortAdapted port s
  | .portAligned port failed => Sys2Proof.Machine.execPortAligned port failed s
  | .portFecLocked port => Sys2Proof.Machine.execPortFecLocked port s
  | .portUp port => Sys2Proof.Machine.execPortUp port s
  | .portDown port cause light => Sys2Proof.Machine.execPortDown port cause light s
  | .slotReceive port slot => Sys2Proof.Machine.execSlotReceive port slot s
  | .laneMoveToSpare port => Sys2Proof.Machine.execLaneMoveToSpare port s
  | .laneUnusable oe lane dark => Sys2Proof.Machine.execLaneUnusable oe lane dark s
  | .sparingTimeout port => Sys2Proof.Machine.execSparingTimeout port s
  | .feedLost oe feedB => Sys2Proof.Machine.execFeedLost oe feedB s
  | .feedRestored oe feedB => Sys2Proof.Machine.execFeedRestored oe feedB s
  | .opticalEngineFault oe => Sys2Proof.Machine.execOpticalEngineFault oe s
  | .portTestMode port mode => Sys2Proof.Machine.execPortTestMode port mode s
  | .injectBurst port b => Sys2Proof.Machine.execInjectBurst port b s
  | .injectLcrc port => Sys2Proof.Machine.execInjectLcrc port s
  | .bellPortRetrain b => Sys2Proof.Machine.execBellPortRetrain b s
  | .bellPortAligned b peak => Sys2Proof.Machine.execBellPortAligned b peak s
  | .bellInjCv b => Sys2Proof.Machine.execBellInjCv b s
  | .bellInjDisp b => Sys2Proof.Machine.execBellInjDisp b s
  | .bellInjCrc b => Sys2Proof.Machine.execBellInjCrc b s
  | .bellPortTest b test => Sys2Proof.Machine.execBellPortTest b test s
  | .bar2Write off data => Sys2Proof.Machine.execBar2Write off data s
  | .bar4Read off len => Sys2Proof.Machine.execBar4Read off len s
  | .bar4Write off data => Sys2Proof.Machine.execBar4Write off data s
  | .ackTimer port => Sys2Proof.Machine.execAckTimer port s
  | .replayTimeout port => Sys2Proof.Machine.execReplayTimeout port s
  | .nakRepeat port => Sys2Proof.Machine.execNakRepeat port s
  | .linkReplayFail port => Sys2Proof.Machine.execLinkReplayFail port s
  | .creditInitSend port => Sys2Proof.Machine.execCreditInitSend port s
  | .packetStall port vc => Sys2Proof.Machine.execPacketStall port vc s
  | .egressPacketStart egress vc ingress => Sys2Proof.Machine.execEgressPacketStart egress vc ingress s
  | .packetEscape ingress egress vc => Sys2Proof.Machine.execPacketEscape ingress egress vc s
  | .orderFenceLimit ingress cls => Sys2Proof.Machine.execOrderFenceLimit ingress cls s
  | .dlvAck p => Sys2Proof.Machine.execDlvAck p s
  | .dlvAckFlush device => Sys2Proof.Machine.execDlvAckFlush device s
  | .discover port p => Sys2Proof.Machine.execDiscover port p s
  | .proof port p => Sys2Proof.Machine.execProof port p s
  | .discoveryTimeout port => Sys2Proof.Machine.execDiscoveryTimeout port s
  | .absentTimeout port => Sys2Proof.Machine.execAbsentTimeout port s
  | .bellMarkSend => Sys2Proof.Machine.execBellMarkSend s
  | .mark b frame check stamp => Sys2Proof.Machine.execMark b frame check stamp s
  | .upstreamChoice => Sys2Proof.Machine.execUpstreamChoice s
  | .markMissed => Sys2Proof.Machine.execMarkMissed s
  | .standbyTakeover => Sys2Proof.Machine.execStandbyTakeover s
  | .probeSend b => Sys2Proof.Machine.execProbeSend b s
  | .probe b seq check residence => Sys2Proof.Machine.execProbe b seq check residence s
  | .echo b seq residence check stamp => Sys2Proof.Machine.execEcho b seq residence check stamp s
  | .arrive b frame check => Sys2Proof.Machine.execArrive b frame check s
  | .releaseFrame b frame check => Sys2Proof.Machine.execReleaseFrame b frame check s
  | .barrierRelease field => Sys2Proof.Machine.execBarrierRelease field s
  | .barrierTimeout field => Sys2Proof.Machine.execBarrierTimeout field s
  | .faultFrame b frame check => Sys2Proof.Machine.execFaultFrame b frame check s
  | .bellPortStuck b => Sys2Proof.Machine.execBellPortStuck b s
  | .bellPortUnfence b => Sys2Proof.Machine.execBellPortUnfence b s
  | .shaperApply port vc => Sys2Proof.Machine.execShaperApply port vc s
  | .fieldLaunchRequest field => Sys2Proof.Machine.execFieldLaunchRequest field s
  | .fieldLaunch => Sys2Proof.Machine.execFieldLaunch s
  | .penOpen p => Sys2Proof.Machine.execPenOpen p s
  | .contrib p => Sys2Proof.Machine.execContrib p s
  | .closingPacket p => Sys2Proof.Machine.execClosingPacket p s
  | .foldChunkDone tag step node chunk residueOk => Sys2Proof.Machine.execFoldChunkDone tag step node chunk residueOk s
  | .foldAck p => Sys2Proof.Machine.execFoldAck p s
  | .foldResend p => Sys2Proof.Machine.execFoldResend p s
  | .lateRecord p => Sys2Proof.Machine.execLateRecord p s
  | .abortRecord p => Sys2Proof.Machine.execAbortRecord p s
  | .foldAbort p => Sys2Proof.Machine.execFoldAbort p s
  | .arrivalWindow tag step node chunk => Sys2Proof.Machine.execArrivalWindow tag step node chunk s
  | .penDeadline tag step node => Sys2Proof.Machine.execPenDeadline tag step node s
  | .penLateAbort tag step => Sys2Proof.Machine.execPenLateAbort tag step s
  | .chunkIncomplete tag step node chunk input => Sys2Proof.Machine.execChunkIncomplete tag step node chunk input s
  | .penAckDeadline tag step => Sys2Proof.Machine.execPenAckDeadline tag step s
  | .penAbortedExpire tag step node => Sys2Proof.Machine.execPenAbortedExpire tag step node s
  | .tallyClear => Sys2Proof.Machine.execTallyClear s
  | .alloc tract sid mirrorPool layers => Sys2Proof.Machine.execAlloc tract sid mirrorPool layers s
  | .free tract page requester => Sys2Proof.Machine.execFree tract page requester s
  | .share tract pfx grafter => Sys2Proof.Machine.execShare tract pfx grafter s
  | .addOwner tract run grafter => Sys2Proof.Machine.execAddOwner tract run grafter s
  | .stkRelease tract run requester => Sys2Proof.Machine.execStkRelease tract run requester s
  | .ceLimit tract page => Sys2Proof.Machine.execCeLimit tract page s
  | .ue tract addr => Sys2Proof.Machine.execUe tract addr s
  | .cellarScrub tract addr found => Sys2Proof.Machine.execCellarScrub tract addr found s
  | .hbmChannelLost tract pc => Sys2Proof.Machine.execHbmChannelLost tract pc s
  | .repairQueue tract pc page => Sys2Proof.Machine.execRepairQueue tract pc page s
  | .repairQuiesceStart tract => Sys2Proof.Machine.execRepairQuiesceStart tract s
  | .repairDone tract failedRows => Sys2Proof.Machine.execRepairDone tract failedRows s
  | .quiesceEnd tract => Sys2Proof.Machine.execQuiesceEnd tract s
  | .mirrorOpen p => Sys2Proof.Machine.execMirrorOpen p s
  | .mirrorData p => Sys2Proof.Machine.execMirrorData p s
  | .mirrorGraft p => Sys2Proof.Machine.execMirrorGraft p s
  | .mirrorRelease p => Sys2Proof.Machine.execMirrorRelease p s
  | .mirrorClose p => Sys2Proof.Machine.execMirrorClose p s
  | .mirrorFetch p => Sys2Proof.Machine.execMirrorFetch p s
  | .mirrorAck p => Sys2Proof.Machine.execMirrorAck p s
  | .mirrorFetchData p => Sys2Proof.Machine.execMirrorFetchData p s
  | .mirrorBreak p => Sys2Proof.Machine.execMirrorBreak p s
  | .mirrorWaitExpire tract sid => Sys2Proof.Machine.execMirrorWaitExpire tract sid s
  | .mirrorGapTimeout tract sid => Sys2Proof.Machine.execMirrorGapTimeout tract sid s
  | .mirrorPromoteRequest index => Sys2Proof.Machine.execMirrorPromoteRequest index s
  | .mirrorPromote => Sys2Proof.Machine.execMirrorPromote s
  | .assemblyPacket slot p => Sys2Proof.Machine.execAssemblyPacket slot p s
  | .assemblyTimeout tract key => Sys2Proof.Machine.execAssemblyTimeout tract key s
  | .sessionOpen tract key => Sys2Proof.Machine.execSessionOpen tract key s
  | .sessionClose tract key => Sys2Proof.Machine.execSessionClose tract key s
  | .append tract key => Sys2Proof.Machine.execAppend tract key s
  | .attend tract key => Sys2Proof.Machine.execAttend tract key s
  | .graft tract key => Sys2Proof.Machine.execGraft tract key s
  | .release tract key => Sys2Proof.Machine.execRelease tract key s
  | .attentionBatch tract => Sys2Proof.Machine.execAttentionBatch tract s
  | .reclaim tract => Sys2Proof.Machine.execReclaim tract s
  | .batchLate tract => Sys2Proof.Machine.execBatchLate tract s
  | .batchHung tract crofts => Sys2Proof.Machine.execBatchHung tract crofts s
  | .tickProgramStart c => Sys2Proof.Machine.execTickProgramStart c s
  | .wordIssue c => Sys2Proof.Machine.execWordIssue c s
  | .wordRetire c e => Sys2Proof.Machine.execWordRetire c e s
  | .mxLoad c => Sys2Proof.Machine.execMxLoad c s
  | .mxReuse c => Sys2Proof.Machine.execMxReuse c s
  | .vxAdd c => Sys2Proof.Machine.execVxAdd c s
  | .vxSub c => Sys2Proof.Machine.execVxSub c s
  | .vxMul c => Sys2Proof.Machine.execVxMul c s
  | .vxFma c => Sys2Proof.Machine.execVxFma c s
  | .vxMax c => Sys2Proof.Machine.execVxMax c s
  | .vxMin c => Sys2Proof.Machine.execVxMin c s
  | .vxExp c => Sys2Proof.Machine.execVxExp c s
  | .vxRecip c => Sys2Proof.Machine.execVxRecip c s
  | .vxLsum c => Sys2Proof.Machine.execVxLsum c s
  | .vxLmax c => Sys2Proof.Machine.execVxLmax c s
  | .vxConvert c => Sys2Proof.Machine.execVxConvert c s
  | .vxSplit c => Sys2Proof.Machine.execVxSplit c s
  | .mvCopy c => Sys2Proof.Machine.execMvCopy c s
  | .mvTranspose c => Sys2Proof.Machine.execMvTranspose c s
  | .mvGather c => Sys2Proof.Machine.execMvGather c s
  | .mvScatter c => Sys2Proof.Machine.execMvScatter c s
  | .mvFill c => Sys2Proof.Machine.execMvFill c s
  | .mvOverlay c => Sys2Proof.Machine.execMvOverlay c s
  | .fpSend c => Sys2Proof.Machine.execFpSend c s
  | .fpPost c => Sys2Proof.Machine.execFpPost c s
  | .fpPenOpen c => Sys2Proof.Machine.execFpPenOpen c s
  | .fpPenSend c => Sys2Proof.Machine.execFpPenSend c s
  | .flNop c => Sys2Proof.Machine.execFlNop c s
  | .flSet c => Sys2Proof.Machine.execFlSet c s
  | .flAdd c => Sys2Proof.Machine.execFlAdd c s
  | .flTadd c => Sys2Proof.Machine.execFlTadd c s
  | .flBarrier c => Sys2Proof.Machine.execFlBarrier c s
  | .croftRxPacket c p => Sys2Proof.Machine.execCroftRxPacket c p s
  | .croftHung c => Sys2Proof.Machine.execCroftHung c s
  | .verifyBase body => Sys2Proof.Machine.execVerifyBase body s
  | .verifyField body => Sys2Proof.Machine.execVerifyField body s
  | .discard => Sys2Proof.Machine.execDiscard s
  | .applyBase => Sys2Proof.Machine.execApplyBase s
  | .verifyDone => Sys2Proof.Machine.execVerifyDone s
  | .baseImageTakeEffect => Sys2Proof.Machine.execBaseImageTakeEffect s
  | .imgLock => Sys2Proof.Machine.execImgLock s
  | .ckptSave => Sys2Proof.Machine.execCkptSave s
  | .ckptCapture => Sys2Proof.Machine.execCkptCapture s
  | .ckptSlotsWritten => Sys2Proof.Machine.execCkptSlotsWritten s
  | .ckptResume => Sys2Proof.Machine.execCkptResume s
  | .ckptResumeAtCount => Sys2Proof.Machine.execCkptResumeAtCount s
  | .ckptCancel => Sys2Proof.Machine.execCkptCancel s
  | .faultRecordClose source unit => Sys2Proof.Machine.execFaultRecordClose source unit s
  | .faultPulseEnd => Sys2Proof.Machine.execFaultPulseEnd s
  | .captureClear => Sys2Proof.Machine.execCaptureClear s
  | .fence unit => Sys2Proof.Machine.execFence unit s
  | .unfence unit => Sys2Proof.Machine.execUnfence unit s
  | .faultInject check width unit => Sys2Proof.Machine.execFaultInject check width unit s
  | .faultIn => Sys2Proof.Machine.execFaultIn s
  | .faultInStuck => Sys2Proof.Machine.execFaultInStuck s
  | .faultInRelease active => Sys2Proof.Machine.execFaultInRelease active s
  | .capsuleDone => Sys2Proof.Machine.execCapsuleDone s
  | .attest => Sys2Proof.Machine.execAttest s
  | .enroll => Sys2Proof.Machine.execEnroll s
  | .revoke => Sys2Proof.Machine.execRevoke s
  | .mailboxRead => Sys2Proof.Machine.execMailboxRead s
  | .mailboxWrite => Sys2Proof.Machine.execMailboxWrite s
  | .mgmtRd p => Sys2Proof.Machine.execMgmtRd p s
  | .mgmtWr p => Sys2Proof.Machine.execMgmtWr p s
  | .mgmtRsp p => Sys2Proof.Machine.execMgmtRsp p s
  | .mailboxTimeout => Sys2Proof.Machine.execMailboxTimeout s
  | .thmPeakClear => Sys2Proof.Machine.execThmPeakClear s
  | .smbStatus => Sys2Proof.Machine.execSmbStatus s
  | .smbJuncTemp => Sys2Proof.Machine.execSmbJuncTemp s
  | .smbHbmTemp => Sys2Proof.Machine.execSmbHbmTemp s
  | .smbPower => Sys2Proof.Machine.execSmbPower s
  | .smbDevIndex => Sys2Proof.Machine.execSmbDevIndex s
  | .smbVid => Sys2Proof.Machine.execSmbVid s
  | .smbRailMv rail => Sys2Proof.Machine.execSmbRailMv rail s
  | .jtagBypass => Sys2Proof.Machine.execJtagBypass s
  | .jtagIdcode => Sys2Proof.Machine.execJtagIdcode s
  | .jtagSamplePreload => Sys2Proof.Machine.execJtagSamplePreload s
  | .jtagExtest => Sys2Proof.Machine.execJtagExtest s
  | .jtagHighz => Sys2Proof.Machine.execJtagHighz s
  | .jtagClamp => Sys2Proof.Machine.execJtagClamp s
  | .registerWrite off v => Sys2Proof.Machine.execRegisterWrite off v s
  | .registerRead off => Sys2Proof.Machine.execRegisterRead off s
  | .hostLinkL0 => Sys2Proof.Machine.execHostLinkL0 s
  | .switchingCoreControlFault => Sys2Proof.Machine.execSwitchingCoreControlFault s
  | .crossingDieControlStateUe unit off => Sys2Proof.Machine.execCrossingDieControlStateUe unit off s
  | .tableEntryRefresh table index => Sys2Proof.Machine.execTableEntryRefresh table index s

end Sys2Proof.Machine
end

