-- ==== Sys2Proof/Safety.lean ====
section
/-! DEFINITION. Safety.lean: what counts as a safe run of the block, and what a command leaves as it was. -/

namespace Sys2Proof.Machine

/-- The canonical form of everything that holds bytes: the stacks, the image buffer and every Pantry that is listed. -/
def State.memWf (s : State) : Bool :=
  Memory.wf s.cel.mem && Memory.wf s.img.buf && s.crf.crofts.all (fun e => Memory.wf e.2.pantry)

/-- A command is safe in a state if the block takes it and goes on. -/
def Safe (c : Instr) (s : State) : Prop := ∃ t, exec c s = .next t

/-- The parts of the state that a frame names one by one. FLT_STATE.FATAL, GT, the stacks' bytes and the image buffer
are parts of their own beside the rest of their blocks; the clock is GT's fraction and slew. -/
inductive Part where
  | pending | fuses | glb | flt | fatal | attic | bel | gt | clock | shapers | gates | swc | rte | fld | cel | mem | ats | crf
  | img | buf | lnk | bln | sec | thm | host | pins | inbox | out | draws
  deriving DecidableEq, Repr

/-- Two states agree on a part. -/
@[reducible] def Agree : Part → State → State → Prop
  | .pending, s, t => t.pending = s.pending
  | .fuses, s, t => t.fuses = s.fuses
  | .glb, s, t => t.glb = s.glb
  | .flt, s, t => { t.flt with fatal := none } = { s.flt with fatal := none }
  | .fatal, s, t => t.flt.fatal = s.flt.fatal
  | .attic, s, t => t.attic = s.attic
  | .bel, s, t => { t.bel with gt := 0 } = { s.bel with gt := 0 }
  | .gt, s, t => t.bel.gt = s.bel.gt
  | .clock, s, t => t.clock = s.clock
  | .shapers, s, t => t.shapers = s.shapers
  | .gates, s, t => t.gates = s.gates
  | .swc, s, t => t.swc = s.swc
  | .rte, s, t => t.rte = s.rte
  | .fld, s, t => t.fld = s.fld
  | .cel, s, t => { t.cel with mem := [] } = { s.cel with mem := [] }
  | .mem, s, t => t.cel.mem = s.cel.mem
  | .ats, s, t => t.ats = s.ats
  | .crf, s, t => t.crf = s.crf
  | .img, s, t => { t.img with buf := [] } = { s.img with buf := [] }
  | .buf, s, t => t.img.buf = s.img.buf
  | .lnk, s, t => t.lnk = s.lnk
  | .bln, s, t => t.bln = s.bln
  | .sec, s, t => t.sec = s.sec
  | .thm, s, t => t.thm = s.thm
  | .host, s, t => t.host = s.host
  | .pins, s, t => t.pins = s.pins
  | .inbox, s, t => t.inbox = s.inbox
  | .out, s, t => t.out = s.out
  | .draws, s, t => t.draws = s.draws

/-- From `s` to `t` nothing changes but these parts. -/
def ChangesOnly (ps : List Part) (s t : State) : Prop := ∀ p, p ∉ ps → Agree p s t

/-- What recording and reporting a fault event writes (R348-R352): the FLT block, the Attic, the Bell's fault queue and
the Bell ports' injections, pending MSI-X bits and what leaves the package; an FT event also the fatal state. -/
def faultParts : List Part := [.flt, .fatal, .glb, .attic, .bel, .bln, .host, .out]

/-- What the switching core writes while packets move: its own block and routing counters, gate counters, shaper
tokens that pay for discovery, packets for the services inside, and what reporting its faults writes. -/
def coreParts : List Part := [.swc, .rte, .gates, .inbox, .shapers] ++ faultParts

/-- What the passing of GT changes (R61, R67, R86, R412): GT and its slew, time since t0, shaper tokens, the
throttled-mark counter. -/
def timeParts : List Part := [.gt, .clock, .glb, .shapers, .thm]

end Sys2Proof.Machine
end

