-- ==== Sys2Proof/Certificates/Slice0/Obligations.lean ====
section
/-! DEFINITION. Certificates/Slice0/Obligations.lean: the statements for the provers. -/

section
open Sys2Proof Sys2Proof.Machine

/-- R65 and R77. Choices of the model: log 3, 129, 259, 273. -/
def Obligations.BellwetherSendsMarks : Prop :=
  ∀ s : State, s.bellOn = true →
    let marked (t : State) (e : BitVec 8) : Prop :=
      t.bel.gt = (advanceTo s.nextMark s).bel.gt ∧ t.bel.sentM = some s.nextMark ∧ t.bel.state = .locked ∧
      t.bel.hop = 0 ∧ t.bel.upstream = 4 ∧ t.bel.root = s.devIndex ∧ t.bel.acting = true ∧ t.bel.epoch = e ∧
      (∀ b < 4, s.bellServes b = true → ∃ good f, Output.bell b (.mark f) good ∈ t.out ∧ f.epoch = e ∧ f.locked = true ∧
        f.child = false ∧ f.hop = 0 ∧ f.kexp = s.bel.k ∧ f.root = s.devIndex ∧ f.m = s.nextMark ∧ f.corr = 0) ∧
      ChangesOnly (timeParts ++ faultParts) s t
    (s.bel.role = .bellwether → ∃ t, exec .bellMarkSend s = .next t ∧ marked t s.bel.epoch) ∧
    (s.bel.role = .standby → 3 ≤ s.bel.missed →
      ∃ t, exec .standbyTakeover s = .next t ∧ marked t (s.bel.epoch + 1) ∧ t.bel.role = .bellwether ∧
        t.bel.takeover = true ∧ Output.takeover (s.bel.epoch + 1).toNat ∈ t.out ∧
        ∃ r ∈ t.attic.openRecs, r.source = 0x0204)

/-- R63, R65, R67, R77. `u` is the device at the arrival instant. Choices of the model: log 3, 126, 127, 128, 129, 130, 131, 132, 139. -/
def Obligations.MarksDriveTheServo : Prop :=
  ∀ (b : Nat) (f : MarkFrame) (stamp : Nat) (s : State), Wf.bell b = true → Wf.mark f = true → stamp < 2 ^ 70 →
    s.bellOn = true → s.bellServes b = true →
    let u := advanceTo (stamp / 64) s
    (s.bel.acting = false → s.bel.role ≠ .bellwether → s.bel.upstream = b → f.epoch = s.bel.epoch →
      s.delayValid b = true →
      let expected : Int := (f.m : Int) * 64 + f.corr + s.joinDelay b
      let off : Int := stamp - expected
      (s.bel.state = .locked → off.natAbs ≤ 512) →
      ∃ t, exec (.mark b f .good stamp) s = .next t ∧ t.bel.hop = f.hop + 1 ∧ t.bel.root = f.root ∧
        t.bel.upstream = b ∧ t.bel.lastM = some f.m ∧ t.bel.missed = 0 ∧
        ChangesOnly (timeParts ++ faultParts) s t ∧
        (s.bel.state = .unsync →
          let e := expected.toNat + (u.bel.gt * 64 - stamp)
          t.bel.gt = e / 64 % 2 ^ 64 ∧ t.clock = { frac := BitVec.ofNat 16 (e % 64 * 1024), slew := 0 } ∧
          t.bel.state = .acquire ∧ t.bel.inTol = 0) ∧
        (s.bel.state ≠ .unsync → t.bel.gt = u.bel.gt ∧ t.clock = { u.clock with slew := off * 1024 } ∧
          t.bel.inTol = if off.natAbs ≤ 16 then s.bel.inTol + 1 else 0) ∧
        (s.bel.state = .acquire → t.bel.state =
          if off.natAbs ≤ 16 ∧ 16 ≤ s.bel.inTol + 1 ∧ f.locked = true then .locked else .acquire) ∧
        (s.bel.state = .locked → off.natAbs ≤ 64 → t.bel.state = .locked) ∧
        (s.bel.state = .locked → 64 < off.natAbs → t.bel.state = .acquire ∧ ∃ r ∈ t.attic.openRecs, r.source = 0x0202) ∧
        (s.bel.state = .holdover → t.bel.state ≠ .holdover)) ∧
    (∀ c, c ≠ FrameCheck.good → ∃ t, exec (.mark b f c stamp) s = .next t ∧
      (t.bellPort b).frames = min 0xFFFF ((s.bellPort b).frames + 1) ∧
      ChangesOnly (timeParts ++ [.bel, .bln, .out]) s t ∧
      (t.bel.state, t.bel.hop, t.bel.upstream, t.bel.missed) = (s.bel.state, s.bel.hop, s.bel.upstream, s.bel.missed)) ∧
    (f.epoch ≠ s.bel.epoch → newerEpoch f.epoch s.bel.epoch = false → exec (.mark b f .good stamp) s =
      .next (tryBarriers ((noteFrame b u).modBellPort b (fun p => { p with stale := min 255 (p.stale + 1) }))))

/-- R65 and R76. Choices of the model: log 3, 128, 134, 142. -/
def Obligations.UpstreamChoiceAndHoldover : Prop :=
  (∀ (m g : Nat) (l : List (Nat × MarkFrame × Nat)) (s : State), s.bellOn = true → s.bel.acting = false →
    s.bel.upstream = 4 → s.bel.collect = some (m, g, l) → (∃ x ∈ l, s.candidate x.1 x.2.1 = true) →
    ∃ t, exec .upstreamChoice s = .next t ∧ ∃ x ∈ l, s.candidate x.1 x.2.1 = true ∧
      (∀ y ∈ l, s.candidate y.1 y.2.1 = true → better y x = false) ∧ t.bel.upstream = x.1 ∧
      t.bel.hop = x.2.1.hop + 1 ∧ t.bel.collect = none ∧ t.bel.lastM = some x.2.1.m ∧
      (s.bel.state = .unsync → t.bel.state = .acquire) ∧ ChangesOnly (timeParts ++ faultParts) s t) ∧
  (∀ (m0 : Nat) (s : State), s.bellOn = true → s.bel.acting = false → s.bel.state ≠ .unsync → s.bel.lastM = some m0 →
    let m := m0 + s.tickLen
    (∀ b < 4, ∀ e ∈ (s.bellPort b).recent, ¬(e.1.m = m ∧ e.1.epoch = s.bel.epoch)) →
    ∃ t, exec .markMissed s = .next t ∧ t.bel.state = .holdover ∧ t.bel.missed = s.bel.missed + 1 ∧
      t.bel.lastM = some m ∧ t.bel.gt = (advanceTo (m + (s.bel.latency + 63) / 64 + 8) s).bel.gt ∧
      t.bel.hop = s.bel.hop ∧ (s.bel.state ≠ .holdover → ∃ r ∈ t.attic.openRecs, r.source = 0x0203) ∧
      ChangesOnly (timeParts ++ faultParts) s t)

/-- R64, R66. Choices of the model: log 136. -/
def Obligations.JoinDelaysAreMeasured : Prop :=
  ∀ (b : Nat) (s : State), b < 4 → s.bellOn = true → s.bellServes b = true →
    (let u := match (s.bellPort b).probeAt with | some g => advanceTo g s | none => s
     let q := (s.bellPort b).probeSeq
     ∃ t, exec (.probeSend b) s = .next t ∧ ChangesOnly (timeParts ++ [.bel, .bln, .out]) s t ∧ t.bel.gt = u.bel.gt ∧
      (u.heldBack (.probe q) = false → (∃ good, t.out = .bell b (.probe q) good :: s.out) ∧
        t.bellPort b = { s.bellPort b with
          probeOut := some (q, u.bel.gt * 64), probeAt := some (u.bel.gt + 64), probeSeq := (q + 1) % 256 }) ∧
      (u.heldBack (.probe q) = true → t.out = s.out ∧ t.bellPort b = { s.bellPort b with
        waitQ := (s.bellPort b).waitQ ++ [(.probe q, true, u.bel.gt)], probeAt := some (u.bel.gt + 64)
        probeSeq := (q + 1) % 256 })) ∧
    (∀ q r, q < 256 → r < 2 ^ 32 → ∃ t, exec (.probe b q .good r) s = .next t ∧ ChangesOnly [.bel, .bln, .out] s t ∧
      (s.heldBack (.echo q r) = false → ∃ good, t.out = .bell b (.echo q r) good :: s.out) ∧
      (s.heldBack (.echo q r) = true → t.out = s.out ∧
        (t.bellPort b).waitQ = (s.bellPort b).waitQ ++ [(.echo q r, true, s.bel.gt)])) ∧
    (∀ q r stamp q0 t1, q < 256 → r < 2 ^ 32 → stamp < 2 ^ 70 → (s.bellPort b).probeOut = some (q0, t1) →
      let u := noteFrame b (advanceTo (stamp / 64) s)
      exec (.echo b q r .good stamp) s = .next (if q0 = q then u.modBellPort b (fun p =>
        { p with probeOut := none, rounds := ((stamp : Int) - t1 - r) :: p.rounds.take 63 }) else u))

/-- R73, R74, R75, R290. Choices of the model: log 3, 137, 138, 139, 224. -/
def Obligations.BarriersArriveAndRelease : Prop :=
  (∀ (b : Nat) (f : ArriveFrame) (s : State), Wf.bell b = true → Wf.arrive f = true → s.bellOn = true →
    s.bellServes b = true →
    ∃ u, exec (.arrive b f .good) s = .next (tryArrive f.field u) ∧ (u.barrier f.field).opened = true ∧
      (u.barrier f.field).children = (s.barrier f.field).children.filter (fun e => e.1 != b) ++ [(b, f)] ∧
      (u.barrier f.field).firstGt = (if f.seq ≠ u.barrierSeq f.field then (s.barrier f.field).firstGt
        else if u.barrierSeq f.field = s.barrierSeq f.field then (s.barrier f.field).firstGt.or (some s.bel.gt)
        else some s.bel.gt) ∧ ChangesOnly [.bel] s u ∧
      (∀ g, g ≠ f.field → u.barrier g = s.barrier g) ∧
      (s.bel.acting = true → s.inField f.field = true → (s.barrier f.field).release = none →
        (u.subtreeCount f.field).1 = s.fieldDevices f.field → 0 < s.fieldDevices f.field →
        let g := (u.subtreeCount f.field).2 + s.barOffset f.field
        (if s.bel.gt ≤ g then ((tryArrive f.field u).barrier f.field).release = some (0, g)
         else (tryArrive f.field u).bel.barLate = true))) ∧
  (∀ (b : Nat) (f : ReleaseFrame) (s : State), Wf.bell b = true → Wf.release f = true → s.bellOn = true →
    s.bellServes b = true → s.inField f.field = true → (s.barrier f.field).seq = f.seq →
    (s.bel.gt ≤ f.gt → exec (.releaseFrame b f .good) s =
      .next ((relayRelease f (noteFrame b s)).modBarrier f.field (fun r => { r with release := some (f.status, f.gt) }))) ∧
    (f.gt < s.bel.gt → ∃ t, exec (.releaseFrame b f .good) s = .next t ∧ t.bel.barLate = true)) ∧
  (∀ (f st g : Nat) (s : State), f < 64 → s.flt.fatal = none → (s.barrier f).release = some (st, g) →
    ∃ u, exec (.barrierRelease f) s = .next (tryArrive f u) ∧ u.bel.gt = (advanceTo g s).bel.gt ∧
      (u.barrier f).seq = ((s.barrier f).seq + 1) % 1024 ∧ (u.barrier f).waiters = [] ∧ (u.barrier f).release = none ∧
      (st = 0 → u.crf = ((s.barrier f).waiters.foldl (fun x w => raiseFlag w.1 w.2 1 x) (advanceTo g s)).crf) ∧
      (st ≠ 0 → ∀ k ∈ s.participants f, (u.croft k).prog = none) ∧ ChangesOnly (timeParts ++ [.bel, .crf]) s u) ∧
  (∀ (f g : Nat) (s : State), f < 64 → s.bellOn = true → s.bel.acting = true → (s.barrier f).release = none →
    (s.barrier f).firstGt = some g → s.inField f = true →
    let now := (advanceTo (g + s.barDeadline f * s.tickLen) s).bel.gt
    ∃ t, exec (.barrierTimeout f) s = .next t ∧ t.bel.gt = now ∧
      (t.barrier f).release = some (1, now + s.barOffset f) ∧ (∃ r ∈ t.attic.openRecs, r.source = 0x0206))

/-- R78, R79. The depth of the queue is Config.faultQueueDepth. Choices of the model: log 134, 141. -/
def Obligations.FaultFramesAndStuckPorts : Prop :=
  (∀ (b : Nat) (f : FaultFrame) (s : State), Wf.bell b = true → Wf.fault f = true → s.bellOn = true →
    s.bellServes b = true →
    (s.bel.faultQ = [] → s.bel.dropped = 0 → s.bel.acting = true →
      ∃ t, exec (.faultFrame b f .good) s = .next t ∧ t.out = .manager f :: s.out ∧ ChangesOnly [.bel, .out] s t ∧
        t.bel = (noteFrame b s).bel) ∧
    (s.bel.faultQ = [] → s.bel.dropped = 0 → s.bel.acting = false → s.bel.upstream < 4 →
      s.bellServes s.bel.upstream = true →
      ∃ t, exec (.faultFrame b f .good) s = .next t ∧ ChangesOnly [.bel, .bln, .out] s t ∧
        (s.heldBack (.fault f) = false → ∃ good, t.out = .bell s.bel.upstream (.fault f) good :: s.out) ∧
        (s.heldBack (.fault f) = true → t.out = s.out ∧ (t.bellPort s.bel.upstream).waitQ =
          (s.bellPort s.bel.upstream).waitQ ++ [(.fault f, true, s.bel.gt)])) ∧
    (s.faultPath = false →
      let v := noteFrame b s
      exec (.faultFrame b f .good) s = .next (
        if s.bel.faultQ.length < Config.faultQueueDepth then v.modBel (fun x => { x with faultQ := x.faultQ ++ [f] })
        else { v with bel := { v.bel with dropped := s.bel.dropped + 1 },
                      flt := { s.flt with bellDrop := min 0xFFFFFFFF (s.flt.bellDrop + 1) } }))) ∧
  (∀ (b : Nat) (s : State), b < 4 →
    (s.bellOn = true → s.bellServes b = true →
      ∃ t, exec (.bellPortStuck b) s = .next t ∧ t.bel.stuck = s.bel.stuck ||| (1#4 <<< b) ∧
        t.bel.upstream = (if s.bel.upstream = b then 4 else s.bel.upstream) ∧
        (s.attic.openRecs.length < 63 → ∃ r ∈ t.attic.openRecs, r.source = 0x0201 ∧ r.unit = 0x2E10 + b) ∧
        (s.bel.acting = false → s.bel.state ≠ .unsync → t.bel.state = .holdover) ∧
        t.bel.gt = (if 64 < (s.bellPort b).multi then s.bel.gt
          else (advanceTo ((s.bellPort b).lastGt + 64 * s.tickLen + 1) s).bel.gt) ∧
        ChangesOnly (timeParts ++ faultParts) s t) ∧
    (5 ≤ s.glb.stage → s.flt.fatal = none → s.bel.stuck.getLsbD b = true →
      ∃ t, exec (.bellPortUnfence b) s = .next t ∧ t.bel.stuck = s.bel.stuck &&& ~~~(1#4 <<< b) ∧
        (t.blnPort b).aligned = false ∧ (t.bellPort b).rounds = [] ∧ ChangesOnly [.bel, .bln, .host, .out] s t))

/-- R336, R337. The count of a checker that stops is a free value (log 140). Choices of the model: log 133, 135, 140. -/
def Obligations.BellPortMaintenance : Prop :=
  ∀ (b : Nat) (s : State), b < 4 → 5 ≤ s.glb.stage → s.flt.fatal = none →
    exec (.bellPortRetrain b) s = .next ((s.modBln b (fun l => { l with aligned := false })).modBellPort b (fun p =>
      { p with probeOut := none, probeAt := none, rounds := [], recent := [], waitQ := [], multi := 0, markCount := 0 })) ∧
    (∀ k, k < 16 → exec (.bellPortAligned b k) s = .next (noteFrame b (s.modBln b (fun l =>
      { l with signal := true, aligned := true, peakUsed := if l.auto then k else l.peak.toNat })))) ∧
    exec (.bellInjCv b) s = .next (s.modBln b (fun l => { l with injCv := true })) ∧
    exec (.bellInjDisp b) s = .next (s.modBln b (fun l => { l with injDisp := true })) ∧
    exec (.bellInjCrc b) s = .next (s.modBln b (fun l => { l with injCrc := true })) ∧
    (∀ m, m < 4 → ∃ t v, exec (.bellPortTest b m) s = .next t ∧ ChangesOnly [.bln, .draws] s t ∧
      t.blnPort b = { s.blnPort b with test := m, prbsErr := v } ∧ (∀ c, c ≠ b → t.blnPort c = s.blnPort c) ∧
      ((m = 1 ∨ m = 2 ∨ ((s.blnPort b).test ≠ 1 ∧ (s.blnPort b).test ≠ 2)) → v = (s.blnPort b).prbsErr ∧ t.draws = s.draws))

/-- R86, R87. -/
def Obligations.ShaperTakesStagedSettings : Prop :=
  ∀ (p v : Nat) (s : State), p < 64 → v < 8 → 5 ≤ s.glb.stage → s.flt.fatal = none →
    ∃ t, exec (.shaperApply p v) s = .next t ∧ ChangesOnly [.shapers] s t ∧
      t.shaper p v = { s.shaper p v with
        rate := (s.shaper p v).sRate.toNat, bucket := (s.shaper p v).sBucket.toNat, enable := (s.shaper p v).sEnable
        tokens := if (s.shaper p v).resetMode then 0 else (s.shaper p v).sBucket.toNat * 256 } ∧
      ∀ q w, w < 8 → (q ≠ p ∨ w ≠ v) → t.shaper q w = s.shaper q w

/-- R89, R93, R97, R98; Tables 4-1, 4-4, 4-5. -/
def Obligations.FlitsRoundTrip : Prop :=
  (∀ (p : Packet) (rest : Bytes), parseHeader (headerBytes p ++ rest) = { p with payload := [], crc := 0 }) ∧
  (∀ p : Packet, p.payload.length = p.len.toNat →
    (packetFlits p).length = flitCount p.len.toNat ∧ (∀ f ∈ packetFlits p, f.2.length = 120) ∧
    (∃ f r, packetFlits p = f :: r ∧ parseHeader f.2 = { p with payload := [], crc := 0 } ∧
      joinFlits (parseHeader f.2) (packetFlits p) = p)) ∧
  (∀ (t : LinkTag) (body : Bytes), parseTag (tagBytes t ++ body) = t ∧
    (t.type.toNat ≤ 6 → t.rsv = 0 → body.length = 120 →
      (flitBytes t body 0).length = 128 ∧ flitOk (flitBytes t body 0) = true ∧ flitOk (flitBytes t body 0xFFFFFFFF) = false))

/-- R95, R96, R118. Choices of the model: log 4, 91. -/
def Obligations.LinkControlIsSent : Prop :=
  ∀ (n : Nat) (s : State), n < 64 → (s.optPort n).tstate = .up → s.flt.fatal = none →
    let sends (t : State) (body : Bytes) : Prop := ∃ tag, Output.flit n (flitBytes tag body 0) ∈ t.out ∧ tag.type = 5
    (0 < (s.link n).toAck → ∃ t, exec (.ackTimer n) s = .next t ∧
      sends t (lctlBody 1 ((s.link n).rxSeq - 1).toNat []) ∧ (t.link n).toAck = 0 ∧
      (t.link n).unacked = (s.link n).unacked ∧ ChangesOnly [.swc, .out] s t) ∧
    ((s.link n).nakOut = true → (s.optPort n).sparing = none → (s.optPort n).peerSparing = false →
      ∃ t, exec (.nakRepeat n) s = .next t ∧ sends t (lctlBody 2 (s.link n).rxSeq.toNat []) ∧
      (t.link n).nakOut = true ∧ (t.link n).unacked = (s.link n).unacked ∧ ChangesOnly [.swc, .out] s t) ∧
    ((s.link n).accepted = false → ∃ t, exec (.creditInitSend n) s = .next t ∧
      sends t (lctlBody 3 0 (s.myGrants n)) ∧ (t.link n).unacked = (s.link n).unacked ∧ ChangesOnly [.swc, .out] s t) ∧
    ((s.link n).unacked ≠ [] → (s.optPort n).sparing = none → (s.optPort n).peerSparing = false →
      ∃ t, exec (.replayTimeout n) s = .next t ∧ (t.link n).unacked = (s.link n).unacked ∧
      (t.link n).txSeq = (s.link n).txSeq ∧ (t.link n).replays = (s.link n).replays + 1 ∧
      t.slotReg n = { s.slotReg n with replay := min 0xFFFFFFFF ((s.slotReg n).replay + 1) } ∧
      (t.link n).cvc = (s.link n).cvc ∧
      (∀ e ∈ (s.link n).unacked, ∃ mask, (mask = 0 ∨ mask = 0xFFFFFFFF) ∧
        Output.flit n (flitBytes (e.2.tag e.1) e.2.body mask) ∈ t.out) ∧ ChangesOnly [.swc, .out] s t) ∧
    (16 ≤ (s.link n).replays → ∃ u, exec (.linkReplayFail n) s = .next (linkLost n 2 u) ∧
      (u.slotReg n).replayFail = true ∧ (u.slotReg n).linkUp = false ∧
      (∃ r ∈ u.attic.openRecs, r.source = 0x0107 ∧ r.unit = n) ∧
      (u.optPort n).tstate = (if (s.optPort n).mode ≠ 0 then .test else if (s.optPort n).light then .adapt else .dark) ∧
      ChangesOnly (.swc :: .lnk :: faultParts) s u)

/-- R95: the receiver of one optical link. Choices of the model: log 92, 251, 276. -/
def Obligations.GoBackNReception : Prop :=
  ∀ (n : Nat) (f : Bytes) (s : State), (s.optPort n).tstate = .up →
    let kept (t : State) : Prop := (t.link n).rxSeq = (s.link n).rxSeq ∧ t.swc.voq = s.swc.voq ∧ t.swc.bufs = s.swc.bufs ∧
      t.swc.opens = s.swc.opens ∧ (t.link n).unacked = (s.link n).unacked ∧ (t.link n).rxHeld = (s.link n).rxHeld ∧
      (t.link n).peerFreed = (s.link n).peerFreed ∧ (t.link n).lastCc = (s.link n).lastCc ∧ (t.link n).nakOut = true ∧
      (∀ m, m ≠ n → t.link m = s.link m ∧ t.slotReg m = s.slotReg m) ∧ ChangesOnly [.swc, .out] s t
    (flitOk f = false → kept (receiveFlit replayDown n f s) ∧
      ((receiveFlit replayDown n f s).slotReg n).lcrc = min 0xFFFFFFFF ((s.slotReg n).lcrc + 1)) ∧
    (flitOk f = true → (parseTag f).type ≠ 0 → (parseTag f).type ≠ 5 → (parseTag f).seq ≠ (s.link n).rxSeq →
      kept (receiveFlit replayDown n f s)) ∧
    (flitOk f = true → (parseTag f).type ≠ 0 → (parseTag f).type ≠ 5 →
      (s.myGrants n).getD (parseTag f).vc.toNat 0 ≤ Tab.look 0 (s.link n).rxHeld (parseTag f).vc.toNat →
      kept (receiveFlit replayDown n f s)) ∧
    (flitOk f = true → (parseTag f).type = 5 → beAt (f.drop 4) 0 1 = 1 → ∀ i,
      (s.link n).unackedAt (BitVec.ofNat 11 (beAt (f.drop 4) 2 2)) = some i →
      ((receiveFlit replayDown n f s).link n).unacked = (s.link n).unacked.drop (i + 1) ∧
      ((receiveFlit replayDown n f s).link n).replays = 0)

/-- R83, R85, R86, R108, R114, R129, Table 4-9. Choices of the model: log 97, 121, 144, 255, 256. -/
def Obligations.PacketsStartAtTheirEgress : Prop :=
  ∀ (eg vc ing : Nat) (w : Waiting) (s : State), eg < 128 → vc < 8 → ing < 130 → s.flt.fatal = none →
    s.front eg vc ing = some w →
    let c : Instr := .egressPacketStart eg vc ing
    let gone (u : State) : Prop := ∀ e ∈ u.swc.voq, ¬(e.id = w.id ∧ e.eg = w.eg)
    let old : Prop := ing ≠ 129 ∧ s.ageLimit vc < s.age w.p
    (s.egressShut w = true → ∃ u, exec c s = .next (settleCore u) ∧ gone u ∧
      (u.slotReg eg).fencedCnt = min 0xFFFFFFFF ((s.slotReg eg).fencedCnt + 1) ∧ ChangesOnly [.swc] s u) ∧
    (s.egressShut w = false → s.meets w = true → s.inTurn eg vc ing = true → old →
      ∃ u, exec c s = .next (settleCore (agedFold w.p u)) ∧ gone u ∧
      (u.slotReg eg).aged = min 0xFFFFFFFF ((s.slotReg eg).aged + 1) ∧ ChangesOnly [.swc] s u) ∧
    (s.egressShut w = false → s.meets w = true → s.inTurn eg vc ing = true → ¬old →
      ∃ u close, exec c s = .next (settleCore u) ∧
        u.swc = { s.swc with
          voq := s.swc.voq.map (fun e => if e.is w.id w.eg then { e with started := true, close := close } else e)
          turnIn := u.swc.turnIn, turnVc := u.swc.turnVc } ∧
        Tab.look 0 u.swc.turnIn (8 * eg + vc) = (ing + 1) % 130 ∧
        Tab.look 0 u.swc.turnVc eg = (if vc = 0 ∨ vc = 7 then Tab.look 0 s.swc.turnVc eg else (vc + 1) % 8) ∧
        (u.shaper eg vc).tokens = (if eg < 64 ∧ (s.shaper eg vc).enable = true
          then (s.shaper eg vc).tokens - s.frameLen eg w.p * 256 else (s.shaper eg vc).tokens) ∧
        ChangesOnly [.swc, .shapers] s u) ∧
    (s.egressShut w = false → s.meets w = false ∨ s.inTurn eg vc ing = false → exec c s = .next s) ∧
    (eg < 64 → s.inTurn eg vc ing = true →
      (s.ready eg 0 ≠ [] → vc = 0) ∧ (s.ready eg 7 ≠ [] → vc = 0 ∨ vc = 7))

/-- R115, R127, R133. Choices of the model: log 4, 103, 104, 123, 255. -/
def Obligations.HoldsEscapesAndStalls : Prop :=
  (∀ (ing cls : Nat) (w : Waiting) (s : State), ing < 128 → cls < 8 → s.flt.fatal = none →
    s.swc.voq.find? (fun w => w.held && w.ing == ing && w.p.cls.toNat == cls) = some w → w.p.order = true →
    s.outbound w.p = false →
    ∃ u, exec (.orderFenceLimit ing cls) s = .next (settleCore (releaseCopy w u)) ∧
      u.bel.gt = (advanceTo (w.admGt + s.fenceLimit cls) s).bel.gt ∧
      u.rte = { s.rte with fenceTo := min 0xFFFFFFFF (s.rte.fenceTo + 1) } ∧
      (∃ r ∈ u.attic.openRecs, r.source = 0x0307 ∧ r.unit = ing) ∧ u.swc = s.swc ∧
      ChangesOnly (.rte :: timeParts ++ faultParts) s u) ∧
  (∀ (ing eg vc : Nat) (w : Waiting) (s : State), ing < 130 → 32 ≤ eg → eg < 64 → vc < 8 → s.flt.fatal = none →
    s.front eg vc ing = some w → w.p.cls.toNat = vc → vc ≠ 2 → s.orderedClass vc = false → (s.link eg).credit vc = 0 →
    ∃ u, exec (.packetEscape ing eg vc) s = .next (settleCore (routeCopy { w with inVc := 7 } u)) ∧
      u.rte = { s.rte with escCnt := min 0xFFFFFFFF (s.rte.escCnt + 1) } ∧
      u.bel.gt = (advanceTo (w.dryFrom.getD s.bel.gt + (s.escWait - w.waited)) s).bel.gt ∧
      u.swc.voq = s.swc.voq.map (fun e => if e.is w.id w.eg then { w with inVc := 7 } else e) ∧
      ChangesOnly (.swc :: .rte :: timeParts) s u) ∧
  (∀ (n vc id : Nat) (s : State), n < 64 → vc < 8 → s.flt.fatal = none →
    Tab.look none s.swc.opens (8 * n + vc) = some id → (s.buf id).ing = n → (s.buf id).vc = vc →
    Tab.look 0 (s.link n).rxHeld vc < (s.myGrants n).getD vc 0 →
    ∃ u, exec (.packetStall n vc) s = .next (settleCore u) ∧ Tab.look none u.swc.opens (8 * n + vc) = none ∧
      u.bel.gt = (advanceTo (max (s.buf id).lastGt (Tab.look 0 (s.link n).spaceGt vc) + (s.slotReg n).stall) s).bel.gt ∧
      (∀ w ∈ u.swc.voq, w.id = id → w.started = true) ∧
      (u.slotReg n).trunc = (if s.swc.voq.any (fun w => w.id == id && w.short.isNone) then min 0xFFFFFFFF ((s.slotReg n).trunc + 1)
        else (s.slotReg n).trunc) ∧ ChangesOnly (.swc :: timeParts) s u)

/-- R134, Table 5-3. Choices of the model: log 4, 101, 102. -/
def Obligations.DeliveriesAreAcknowledged : Prop :=
  (∀ (p : Packet) (s : State), Wf.packet p = true → s.flt.fatal = none → p.ptype = 6 → p.cls = 0 →
    ∃ u, exec (.dlvAck p) s = .next (settleCore u) ∧
      (∀ k, Tab.look 0 u.swc.outstand k = Tab.look 0 s.swc.outstand k -
        (((List.range (p.payload.length / 4)).map (fun i => beAt p.payload (4 * i) 4)).filter
          (fun e => 8 * bits e 31 24 + bits e 23 21 == k)).foldl (fun n e => n + e % 65536) 0) ∧
      u.swc = { s.swc with outstand := u.swc.outstand } ∧ ChangesOnly [.swc, .inbox] s u) ∧
  (∀ (d : Nat) (s : State), d < 16384 → s.flt.fatal = none →
    let es := s.swc.pendDlv.filter (·.device == d)
    (es = [] → exec (.dlvAckFlush d) s = .next (settleCore s)) ∧
    (es ≠ [] → es.length ≤ 16 → s.swc.waitIn.any (·.1 == 128) = false → ∃ u, exec (.dlvAckFlush d) s = .next (settleCore u) ∧
      u.swc.pendDlv = s.swc.pendDlv.filter (fun e => e.device != d) ∧
      (∃ w ∈ u.swc.voq, w.ing = 128 ∧ w.p.ptype = 6 ∧ w.p.cls = 0 ∧ w.p.dst = BitVec.ofNat 20 (0xF0000 + d) ∧
        w.p.len = BitVec.ofNat 13 (4 * es.length) ∧ w.p.pkey = s.topology.mgmtKey) ∧ ChangesOnly [.swc] s u))

/-- The frame of settleCore and linkLost, which every command of the core ends in. Choices of the model: log 94, 101. -/
def Obligations.CoreSettlesWithinItsParts : Prop :=
  (∀ s, ChangesOnly coreParts s (settleCore s)) ∧ (∀ n r s, ChangesOnly coreParts s (linkLost n r s)) ∧
  (∀ p s, ChangesOnly coreParts s (agedFold p s)) ∧ (∀ w s, ChangesOnly coreParts s (releaseCopy w s))

/-- R148, R158, R163, Table 6-10. Choices of the model: log 147, 149. -/
def Obligations.PensOpenAtTheirNodes : Prop :=
  ∀ (p : Packet) (s : State), Wf.packet p = true → s.flt.fatal = none → p.ptype = 0x10 → packetCrc p p.payload = p.crc →
    let m := parsePenOpen p.payload
    let s1 := takeInbox p s
    (s.penPolicy (penTag p) = none → ∃ u, exec (.penOpen p) s = .next (settleCore u) ∧
      u.fld = { s.fld with stale := min 0xFFFFFFFF (s.fld.stale + 1) } ∧ ChangesOnly [.fld, .inbox] s u) ∧
    (∀ q n, s.penPolicy (penTag p) = some q → s.nodeFor (treeOf q m.isArrival) (penSender p) = some n →
      s.pen (penTag p, penStepLo p, n.node) = none →
      let top := rootLevel (treeOf q m.isArrival)
      (m.valid q top = false → exec (.penOpen p) s =
        .next (settleCore (reportAbort (penTag p) (penStepLo p) n m.isArrival 7 [] s1))) ∧
      (m.valid q top = true → (m.isFp64 top = true → s.fuses.fp64 = true) → s.fld.insts.length < 1024 →
        (s.fld.insts.filter (fun i => i.tag == penTag p && i.node.node == n.node)).length < 2 →
        let i : PenInst := { tag := penTag p, stepLo := penStepLo p, node := n, arrival := m.isArrival, policy := q
                             msg := m, raw := p.payload, tick := s.tickNow, opens := [n.inputs.idxOf (penSender p)] }
        let own := i.own s.devIndex
        let grow := if m.isFp64 top then 0 else match s.scaleTab (penTag p) n.node with
          | some e => (own.filter (fun c => !e.own.contains c)).length
          | none => own.length
        ∀ t, s.holdingTract (penTag p) n.node (i.bytes s.devIndex + 1024 * grow) = some t →
        ∃ u j, exec (.penOpen p) s = .next (settleCore u) ∧ u.fld.insts = s.fld.insts ++ [j] ∧ j.state = .opened ∧
          { j with sinceAck := [], base := 0 } = { i with tract := t, size := i.bytes s.devIndex, base := 0 } ∧
          j.base ≤ s.foldRoom t - i.bytes s.devIndex ∧ ChangesOnly [.fld, .swc, .inbox, .draws] s u))

/-- R143, R149, R161, R162. Choices of the model: log 155, 161, 166, 266, 268. -/
def Obligations.ContributionsAreKept : Prop :=
  (∀ (p : Packet) (s : State), Wf.packet p = true → s.flt.fatal = none → p.ptype = 0x11 → packetCrc p p.payload = p.crc →
    s.flt.armed = none →
    (s.penOfSender p = none → penPkt p < 64 → ∃ u, exec (.contrib p) s = .next (settleCore u) ∧
      u.fld = { s.fld with stale := min 0xFFFFFFFF (s.fld.stale + 1) } ∧ ChangesOnly [.fld, .inbox] s u) ∧
    (∀ i n, s.penOfSender p = some (i, n) → s.pen i.key = some i → i.state ≠ .aborted →
      i.tooLate s.devIndex n = false → penChunk p < i.msg.chunks → nodeOwns i.node s.devIndex (penChunk p) = true →
      i.formed (penChunk p) = false → (i.copy (inKey (penChunk p) n (penPart p))).good = false →
      let k := inKey (penChunk p) n (penPart p)
      let fmt := i.fmtIn
      (penPkt p < dataPackets fmt → p.payload.length = dataLen fmt →
        ∃ u j, exec (.contrib p) s = .next (settleCore u) ∧ u.pen i.key = some j ∧
          Tab.look none (j.copy k).pkts (penPkt p) = some p.payload ∧ (j.copy k).good = false ∧
          (∀ x, x ≠ penPkt p → Tab.look none (j.copy k).pkts x = Tab.look none (i.copy k).pkts x) ∧
          (∀ x, x ≠ k → j.copy x = i.copy x) ∧ j.outs = i.outs ∧ ChangesOnly [.fld, .inbox] s u) ∧
      (penPkt p = dataPackets fmt → penPkt p < 0x7E → p.payload.length = scaleLen fmt + 16 →
        let t := parseTrailer (p.payload.drop (scaleLen fmt))
        let whole := (List.range (dataPackets fmt)).all (fun j => (Tab.look none (i.copy k).pkts j).isSome) = true ∧
          crc32c ((i.copy k).data fmt ++ p.payload.take (scaleLen fmt)) = t.crc.toNat
        (t.verdict = 0xA5 → ∃ u j, exec (.closingPacket p) s = .next (settleCore u) ∧ u.pen i.key = some j ∧
          j.copy k = {} ∧ u.fld.crc = s.fld.crc ∧ ChangesOnly [.fld, .inbox] s u) ∧
        (t.verdict ≠ 0xA5 → ¬whole → ∃ u j, exec (.closingPacket p) s = .next (settleCore u) ∧ u.pen i.key = some j ∧
          j.copy k = {} ∧ u.fld.crc = min 0xFFFFFFFF (s.fld.crc + 1) ∧ ChangesOnly [.fld, .swc, .inbox] s u) ∧
        (t.verdict ≠ 0xA5 → whole → ∃ u j, exec (.closingPacket p) s = .next (settleCore u) ∧ u.pen i.key = some j ∧
          (j.copy k).good = true ∧ (j.copy k).trailer = t ∧ (j.copy k).scales = p.payload.take (scaleLen fmt) ∧
          (j.copy k).pkts = (i.copy k).pkts ∧ ChangesOnly [.fld, .swc, .inbox] s u)))) ∧
  (∀ (p : Packet) (i : PenInst) (n r : Nat) (s : State), Wf.packet p = true → s.flt.fatal = none → p.ptype = 0x11 →
    s.penOfSender p = some (i, n) → s.pen i.key = some i → i.state ≠ .aborted → i.tooLate s.devIndex n = false →
    penChunk p < i.msg.chunks → nodeOwns i.node s.devIndex (penChunk p) = true → i.formed (penChunk p) = false →
    (i.copy (inKey (penChunk p) n (penPart p))).good = false → penPkt p = dataPackets i.fmtIn → penPkt p < 0x7E →
    i.node.inputs[n]? = some (.member r) →
    packetCrc p p.payload ≠ p.crc ∨ p.payload.length ≠ scaleLen i.fmtIn + 16 →
    ∃ u j, exec (.closingPacket p) s = .next (settleCore u) ∧ u.pen i.key = some j ∧
      j.copy (inKey (penChunk p) n (penPart p)) = {} ∧ u.fld.crc = min 0xFFFFFFFF (s.fld.crc + 1) ∧
      ChangesOnly [.fld, .inbox] s u) ∧
  (∀ (p : Packet) (i : PenInst) (s : State), Wf.packet p = true → s.flt.fatal = none → p.ptype = 0x12 →
    packetCrc p p.payload = p.crc →
    s.penAtRoot p = some i → s.pen i.key = some i → i.state = .opened →
    nodeOwns i.node s.devIndex (penChunk p) = false → penChunk p < i.msg.chunks →
    (Tab.look {} i.results (penChunk p)).good = false → penPkt p < dataPackets i.fmtOut → penPkt p < 64 →
    p.payload.length = dataLen i.fmtOut →
    ∃ u j, exec (.contrib p) s = .next (settleCore u) ∧ u.pen i.key = some j ∧
      Tab.look none (Tab.look {} j.results (penChunk p)).pkts (penPkt p) = some p.payload ∧
      j.ins = i.ins ∧ j.outs = i.outs ∧ ChangesOnly [.fld, .inbox] s u)

/-- R19, R154, R161, R192. Whether a lane errs, that is, whether the check passes of itself is the command's operand. Choices of the model: log 151, 266. -/
def Obligations.ChunksAreComputedAndSent : Prop :=
  ∀ (tag step node c part : Nat) (i : PenInst) (s : State), s.flt.fatal = none → s.flt.armed = none →
    s.pen (tag, step, node) = some i → i.state = .opened →
    (List.range 4).find? (fun p => i.hasOut c p && !(i.outp c p).good) = some part →
    let o := if (i.outp c part).computed then i.outp c part else computeOut i c (s.biasOf i c) (i.outp c part)
    (s.sliceBusy i c (i.outp c part) = true → ∀ ok, exec (.foldChunkDone tag step node c ok) s = .next (settleCore s)) ∧
    (s.sliceBusy i c (i.outp c part) = false → o.checked = true →
      ∃ u j, exec (.foldChunkDone tag step node c true) s = .next (settleCore (settlePen (tag, step, node) u)) ∧
      u.pen (tag, step, node) = some j ∧ j.outp c part = { o with good := true, sent := i.mayReport c } ∧
      (∀ x, x ≠ outKey c part → Tab.look {} j.outs x = Tab.look {} i.outs x) ∧ j.ins = i.ins ∧
      ChangesOnly [.fld, .swc] s u) ∧
    (∀ ok, s.sliceBusy i c (i.outp c part) = false → (ok && o.checked) = false → o.attempt < 2 →
      ∃ u, exec (.foldChunkDone tag step node c ok) s = .next (settleCore u) ∧
      u.fld.retry = min 0xFFFFFFFF (s.fld.retry + 1) ∧ ChangesOnly (.fld :: .swc :: .draws :: faultParts) s u)

/-- R150, R160, R162, R163. Choices of the model: log 155, 165. -/
def Obligations.AcksAndResends : Prop :=
  ∀ (p : Packet) (i : PenInst) (s : State), Wf.packet p = true → s.flt.fatal = none →
    packetCrc p p.payload = p.crc → p.payload.length = 12 → s.penAddressed p = some i → s.pen i.key = some i →
    i.state ≠ .aborted →
    let bits := coverBits i.msg.chunks (beAt p.payload 0 2) (beAt p.payload 4 8)
    (p.ptype = 0x13 → i.isRoot = true → penPos p < i.policy.members.length →
      ∃ u j, exec (.foldAck p) s = .next (settleCore (settlePen i.key u)) ∧ u.pen i.key = some j ∧
        (∀ r, Tab.look 0 j.acks r = if r = penPos p then Tab.look 0 i.acks r ||| bits else Tab.look 0 i.acks r) ∧
        ChangesOnly [.fld, .inbox] s u) ∧
    (∀ q, p.ptype = 0x13 → i.isRoot = false → i.parentNode = some q → q.devices.contains (p.src.toNat % 16384) = true →
      let d := q.devices.idxOf (p.src.toNat % 16384)
      ∃ u j, exec (.foldAck p) s = .next (settleCore (settlePen i.key (sendWaiting i.key u))) ∧ u.pen i.key = some j ∧
        (∀ x, Tab.look 0 j.covered x = if x = d then Tab.look 0 i.covered x ||| bits else Tab.look 0 i.covered x) ∧
        j.parentOk.contains d = true ∧ ChangesOnly [.fld, .inbox] s u) ∧
    (p.ptype = 0x14 → i.isRoot = true → (i.outp (penChunk p) (penPart p)).good = true →
      (i.outp (penChunk p) (penPart p)).resendTick ≠ some s.tickNow → nodeOwns i.node s.devIndex (penChunk p) = true →
      ∃ u, exec (.foldResend p) s = .next (settleCore u) ∧ u.fld.resend = min 0xFFFFFFFF (s.fld.resend + 1) ∧
        ChangesOnly [.fld, .swc, .inbox] s u) ∧
    (p.ptype = 0x14 → i.isRoot = false → Tab.look 0 i.resent (penChunk p) < 2 →
      (i.outp (penChunk p) (penPart p)).good = true → (i.outp (penChunk p) (penPart p)).sent = true →
      ∃ u j, exec (.foldResend p) s = .next (settleCore u) ∧ u.fld.resend = min 0xFFFFFFFF (s.fld.resend + 1) ∧
        u.pen i.key = some j ∧ Tab.look 0 j.resent (penChunk p) = Tab.look 0 i.resent (penChunk p) + 1 ∧
        ChangesOnly [.fld, .swc, .inbox] s u) ∧
    (p.ptype = 0x14 → i.isRoot = false → 2 ≤ Tab.look 0 i.resent (penChunk p) →
      exec (.foldResend p) s = .next (settleCore (openAbort i 2 [] (takeInbox p s))))

/-- R151, R152, R165, Table 6-10. Choices of the model: log 3, 153, 160. -/
def Obligations.RecordsAndAborts : Prop :=
  (∀ (p : Packet) (i : PenInst) (s : State), Wf.packet p = true → s.flt.fatal = none → p.ptype = 0x11 →
    packetCrc p p.payload = p.crc → s.penAtRoot p = some i → s.pen i.key = some i →
    (penPkt p = 0x7E → ∃ u j, exec (.lateRecord p) s = .next (settleCore u) ∧ u.pen i.key = some j ∧
      j = { i with late := i.late ++ parseRanges (p.payload.drop 4) (min 16 (beAt p.payload 0 2)) } ∧
      ChangesOnly [.fld, .inbox] s u) ∧
    (penPkt p = 0x7F → beAt p.payload 0 1 = 1 → ∃ u j, exec (.abortRecord p) s = .next (settleCore u) ∧
      u.pen i.key = some j ∧ j.lateGt = i.lateGt.or (some s.bel.gt) ∧ j.state = i.state ∧
      j.late = i.late ++ parseRanges (p.payload.drop 16) (min 16 ((p.payload.length - 16) / 4)) ∧
      ChangesOnly [.fld, .inbox] s u) ∧
    (penPkt p = 0x7F → beAt p.payload 0 1 ≠ 1 → ∃ u, exec (.abortRecord p) s = .next (settleCore u) ∧
      (∀ j ∈ u.fld.insts, j.key ≠ i.key) ∧ (∀ j ∈ s.fld.insts, j.key ≠ i.key → j ∈ u.fld.insts) ∧
      Tab.look 0 u.fld.abortSt (beAt p.payload 0 1) = min 0xFFFFFFFF (Tab.look 0 s.fld.abortSt (beAt p.payload 0 1) + 1) ∧
      ChangesOnly [.fld, .swc, .inbox] s u)) ∧
  (∀ (tag step g : Nat) (i : PenInst) (s : State), s.flt.fatal = none →
    s.fld.insts.find? (fun i => i.tag == tag && i.stepLo == step && i.isRoot && i.lateGt.isSome) = some i →
    i.lateGt = some g → ∃ u, exec (.penLateAbort tag step) s = .next (settleCore u) ∧
      (∀ j ∈ u.fld.insts, j.key ≠ i.key) ∧ u.bel.gt = (advanceTo (g + s.tickLen) s).bel.gt ∧
      Tab.look 0 u.fld.abortSt 1 = min 0xFFFFFFFF (Tab.look 0 s.fld.abortSt 1 + 1) ∧
      ChangesOnly (.fld :: .swc :: timeParts) s u) ∧
  (∀ (p : Packet) (s : State), Wf.packet p = true → s.flt.fatal = none → p.ptype = 0x15 →
    packetCrc p p.payload = p.crc →
    let mine (i : PenInst) : Bool := i.tag == penTag p && i.stepLo == penStepLo p
    ∃ u, exec (.foldAbort p) s = .next (settleCore u) ∧ u.fld.insts = s.fld.insts.filter (fun i => !mine i) ∧
      u.fld.stale = (if s.fld.insts.any mine then s.fld.stale else min 0xFFFFFFFF (s.fld.stale + 1)) ∧
      (s.fld.insts.any mine = true → penPkt p = 0 → Tab.look 0 u.fld.abortSt (beAt p.payload 0 1) =
        min 0xFFFFFFFF (Tab.look 0 s.fld.abortSt (beAt p.payload 0 1) + 1)) ∧ ChangesOnly [.fld, .inbox] s u)

/-- R145, R160, R162, R164-R166, R170, Table 6-10. Choices of the model: log 3, 155, 156, 158, 162. -/
def Obligations.PenDeadlinesJudge : Prop :=
  (∀ (tag step node : Nat) (i : PenInst) (s : State), s.flt.fatal = none → s.pen (tag, step, node) = some i →
    let k := (tag, step, node)
    (∀ c g, i.state = .opened → Tab.look none i.windows c = some g → i.formed c = false →
      let u := advanceTo (g + i.policy.arrivalWindow) s
      exec (.arrivalWindow tag step node c) s = .next (settleCore (formOut k c true
        (u.modPen k (fun x => { x with windows := Tab.put none x.windows c (some u.bel.gt) }))))) ∧
    (∀ c n id part, step < 256 → i.state = .opened → i.formed c = false → i.node.inputs[n]? = some (.child id) →
      (List.range 4).find? (fun p => (i.copy (inKey c n p)).firstGt.isSome) = some part →
      ∃ u j, exec (.chunkIncomplete tag step node c n) s = .next (settleCore u) ∧ u.pen k = some j ∧
        (j.copy (inKey c n part)).firstGt = none ∧
        u.bel.gt = (advanceTo ((i.copy (inKey c n part)).firstGt.getD 0 + s.tickLen) s).bel.gt ∧
        (∃ w ∈ u.swc.voq, w.p.ptype = 0x14 ∧ penChunk w.p = c % 1024 ∧ penNode w.p = true) ∧
        ChangesOnly (.fld :: .swc :: timeParts) s u) ∧
    (i.state = .opened → i.judged = false →
      let now := (advanceTo ((i.tick + i.deadline) * s.tickLen) s).bel.gt
      let bad := (List.range i.node.inputs.length).filter (fun n =>
        !(i.own s.devIndex).all (fun c => i.delivered c n))
      (bad = [] → ∃ u j, exec (.penDeadline tag step node) s = .next (settleCore u) ∧ u.bel.gt = now ∧
        u.pen k = some j ∧ j.judged = true ∧ j.state = .opened ∧ j.excl = i.excl ∧
        ChangesOnly (.fld :: timeParts) s u) ∧
      (bad ≠ [] → (∀ n ∈ bad, i.opens.contains n = true → ∃ r, i.node.inputs[n]? = some (.member r)) →
        i.msg.isExclude = false → ∃ u, exec (.penDeadline tag step node) s = .next (settleCore u) ∧ u.bel.gt = now ∧
        (if i.isRoot = true ∧ i.node.devices.head? = some s.devIndex then ∀ j ∈ u.fld.insts, j.key ≠ k
         else ∃ j, u.pen k = some j ∧ j.state = .aborted) ∧
        ChangesOnly (.fld :: .swc :: timeParts ++ faultParts) s u) ∧
      (bad ≠ [] → (∀ n ∈ bad, i.opens.contains n = true → ∃ r, i.node.inputs[n]? = some (.member r)) →
        i.msg.isExclude = true → ∃ u j, exec (.penDeadline tag step node) s = .next (settleCore u) ∧ u.bel.gt = now ∧
        u.pen k = some j ∧ j.excl = bad ∧ j.judged = true ∧ ChangesOnly (.fld :: .swc :: timeParts) s u)) ∧
    (i.state = .aborted → ∃ t, exec (.penAbortedExpire tag step node) s = .next t ∧
      t.bel.gt = (advanceTo ((i.abortTick + 64) * s.tickLen) s).bel.gt ∧
      t.fld = { s.fld with insts := s.fld.insts.filter (fun i => i.key != k) } ∧ ChangesOnly (.fld :: timeParts) s t)) ∧
  (∀ (tag step : Nat) (i : PenInst) (s : State), s.flt.fatal = none →
    s.fld.insts.find? (fun i => i.tag == tag && i.stepLo == step && i.isRoot && i.state == .final) = some i →
    let all (r : Nat) : Bool := (i.own s.devIndex).all (fun c => (Tab.look 0 i.acks r).testBit c)
    ∃ t, exec (.penAckDeadline tag step) s = .next t ∧ (∀ j ∈ t.fld.insts, j.key ≠ i.key) ∧
      t.fld.ackTo = min 0xFFFFFFFF (s.fld.ackTo + ((List.range i.policy.members.length).filter (fun r => !all r)).length) ∧
      (∃ r ∈ t.attic.openRecs, r.source = 0x0406) ∧ t.flt.fatal = none ∧
      ChangesOnly (.fld :: timeParts ++ faultParts) s t) ∧
  (∀ s : State, 4 ≤ s.glb.stage → s.flt.fatal = none → s.flt.rstWaiting = none →
    exec .tallyClear s = .next (s.modFld (fun l => { l with tallies := Tab.put {} l.tallies l.tallySel.toNat {} })))

/-- R205, R206, R213, Table 8-5. Choices of the model: log 178. -/
def Obligations.StorekeeperGrantsAndFrees : Prop :=
  ∀ (t sid : Nat) (s : State), t < 32 → sid < 0xFFFFFFFF → s.flt.fatal = none → s.flt.armed = none →
    (s.tract t).fenced = false →
    (∀ (m : Bool) (ls : List Nat), Wf.layers ls = true →
      let got := s.lowestFree t ls.length
      (∀ g ∈ got, (s.page t g).state = .free ∧ s.inPool t g = true) ∧
      (got.length = ls.length → s.heldPages t m + ls.length ≤ s.ceiling t m →
        ∃ u, exec (.alloc t sid m ls) s = .next u ∧
          (∀ g ∈ got, (u.page t g).state = .held ∧ (u.page t g).owner = sid ∧ (u.page t g).mirrorPool = m ∧
            (u.page t g).fill = 0) ∧
          (∀ i g, got[i]? = some g → (u.page t g).layer = (sortUp ls).getD i 0) ∧
          (∀ g, g ∉ got → ∃ x, u.page t g = { s.page t g with next := x }) ∧
          (∀ v, v ≠ t → u.tract v = s.tract v) ∧ ChangesOnly [.cel] s u) ∧
      ((got.length < ls.length ∨ s.ceiling t m < s.heldPages t m + ls.length) → exec (.alloc t sid m ls) s =
        .next (s.modTract t (fun r => { r with empties := min 0xFFFFFFFF (r.empties + 1) })))) ∧
    (∀ g, g < 0x100000 →
      ((s.page t g).state = .held → (s.page t g).owner = sid → (s.page t g).retirePend = false →
        let chain := Tab.look [] ((s.sess t sid).getD {}).chains (s.page t g).layer
        ∃ u, exec (.free t g sid) s = .next u ∧ (u.page t g).state = .free ∧
          (∀ h, h ≠ g → u.page t h = { s.page t h with
            next := if (chain.takeWhile (· != g)).getLast? = some h then (s.page t g).next else (s.page t h).next }) ∧ (∀ v, v ≠ t → u.tract v = s.tract v) ∧ ChangesOnly [.cel] s u) ∧
      ((s.page t g).state = .held → (s.page t g).owner ≠ sid → exec (.free t g sid) s =
        .next (s.modTract t (fun r => { r with nlo := min 0xFFFFFFFF (r.nlo + 1) }))) ∧
      (((s.page t g).state = .free ∨ (s.page t g).state = .retired) → ∃ u, exec (.free t g sid) s = .next u ∧
        u.tract t = { s.tract t with dfree := min 0xFFFFFFFF ((s.tract t).dfree + 1) } ∧
        (∃ r ∈ u.attic.openRecs, r.source = 0x0601 ∧ r.unit = 0x2200 + t) ∧ u.flt.fatal = none ∧
        ChangesOnly (.cel :: faultParts) s u))

/-- R207, R208, R210, Table 8-5. Choices of the model: log 173. -/
def Obligations.RunsAreSharedAndReleased : Prop :=
  ∀ (t sid : Nat) (s : State), t < 32 → sid < 0xFFFFFFFF → s.flt.fatal = none → (s.tract t).fenced = false →
    (∀ pfx x, pfx < 0xFFFFFFFF → s.sess t pfx = some x → x.ownPages ≠ [] →
      (∀ g ∈ x.ownPages, (s.page t g).state = .held ∧ (s.page t g).owner = pfx) →
      (s.tract t).runs.length < 65536 → (s.tract t).roll + 2 ≤ 1048576 →
      ∃ u n r, exec (.share t pfx sid) s = .next u ∧ s.run t n = none ∧ u.run t n = some r ∧ r.owners = [pfx, sid] ∧
        r.pfx = pfx ∧ r.pages = x.chains ∧
        (∀ g ∈ x.ownPages, (u.page t g).state = .shared ∧ (u.page t g).run = n) ∧
        (∀ g, g ∉ x.ownPages → u.page t g = s.page t g) ∧
        (∀ v, v ≠ t → u.tract v = s.tract v) ∧ ChangesOnly [.cel] s u) ∧
    (∀ n r, n < 0x10000 → s.run t n = some r →
      ((∀ g ∈ r.all, (s.page t g).state = .shared ∧ (s.page t g).run = n) → r.owners.length < 65535 →
        (s.tract t).roll + 1 ≤ 1048576 → ∃ u, exec (.addOwner t n sid) s = .next u ∧
          u.run t n = some { r with owners := r.owners ++ [sid], lastOwner := 0xFFFFFFFF } ∧
          (∀ m, m ≠ n → u.run t m = s.run t m) ∧ (∀ g, u.page t g = s.page t g) ∧
          (∀ v, v ≠ t → u.tract v = s.tract v) ∧ ChangesOnly [.cel] s u) ∧
      (sid ∈ r.owners → 1 < r.owners.length → ∃ u, exec (.stkRelease t n sid) s = .next u ∧
        u.run t n = some { r with owners := r.owners.erase sid,
                                  lastOwner := match r.owners.erase sid with | [o] => o | _ => 0xFFFFFFFF } ∧
        (∀ m, m ≠ n → u.run t m = s.run t m) ∧ (∀ g, u.page t g = s.page t g) ∧ ChangesOnly [.cel] s u) ∧
      (sid ∉ r.owners → exec (.stkRelease t n sid) s =
        .next (s.modTract t (fun r => { r with nlo := min 0xFFFFFFFF (r.nlo + 1) }))) ∧
      (r.owners = [sid] → ∃ u, exec (.stkRelease t n sid) s = .next u ∧ u.run t n = none ∧
        (∀ g ∈ r.all, (s.page t g).retirePend = false → (u.page t g).state = .free) ∧
        (∀ g, g ∉ r.all → u.page t g = s.page t g) ∧ ChangesOnly (.cel :: faultParts) s u))

/-- R214, R215, R217, R219, R222, Table 8-7. Choices of the model: log 168, 179, 181. -/
def Obligations.WordsAreCorrectedOrLost : Prop :=
  ∀ (t a : Nat) (s : State), t < 32 → a < 0x1000000000 → s.flt.fatal = none → (s.tract t).fenced = false →
    let w := cellarAddr t a / 32
    (w ∉ s.cel.bad → w ∉ s.cel.soft → exec (.cellarScrub t a .clean) s = .next s) ∧
    (w ∉ s.cel.bad → ∃ u, exec (.cellarScrub t a .corrected) s = .next u ∧ w ∉ u.cel.soft ∧ w ∉ u.cel.bad ∧
      (u.tract t).ce = min 0xFFFFFFFF ((s.tract t).ce + 1) ∧
      (∃ r ∈ u.attic.openRecs, r.source = 0x0501 ∧ r.unit = 0x2400 + 64 * t + channelOf (a / 32 * 32)) ∧
      u.flt.fatal = none ∧ ChangesOnly (.cel :: faultParts) s u) ∧
    (∃ u, exec (.cellarScrub t a .uncorrectable) s = .next (settleCore u) ∧ w ∈ u.cel.bad ∧
      ChangesOnly ([.cel, .crf, .fld, .swc, .draws] ++ faultParts) s u) ∧
    (∃ u, exec (.ue t a) s = .next (settleCore u) ∧ w ∈ u.cel.bad ∧ (u.tract t).ue = min 0xFFFFFFFF ((s.tract t).ue + 1) ∧
      (s.regionOf t (a / 65536) = .pool → (s.page t (a / 65536)).state = .held →
        (s.page t (a / 65536)).mirrorPool = false → (u.page t (a / 65536)).damaged = true) ∧
      (s.regionOf t (a / 65536) = .tables → (u.tract t).fenced = true ∧ (u.tract t).tableUe = true) ∧
      ChangesOnly ([.cel, .crf, .fld, .swc, .draws] ++ faultParts) s u) ∧
    (∀ pc, (match pc with | none => true | some c => decide (c < 64)) = true →
      ∃ u, exec (.hbmChannelLost t pc) s = .next (settleCore u) ∧ (u.tract t).fenced = true ∧
        (u.tract t).sessions = [] ∧ (u.tract t).runs = [] ∧ (∀ q < 136, (u.croft (136 * t + q)).fenced = true) ∧
        (∀ v, v ≠ t → (u.tract v).fenced = (s.tract v).fenced) ∧
        ChangesOnly ([.cel, .crf, .fld, .swc] ++ faultParts) s u)

/-- R211, R216, R220, R228, Tables 8-5 and 8-8. Choices of the model: log 3, 169, 170, 172, 261, 264. -/
def Obligations.PagesRetireAndRowsRepair : Prop :=
  ∀ (t : Nat) (s : State), t < 32 → s.flt.fatal = none → (s.tract t).fenced = false →
    (∀ g, g < 0x100000 →
      (s.cel.autoRepair = true → s.spareLeft t (s.page t g).lastPc g = true →
        (s.rowFits t (s.page t g).lastPc g = true →
          ∃ u, exec (.ceLimit t g) s = .next u ∧ u.page t g = { s.page t g with ce := 0 } ∧
            ((s.page t g).lastPc, g) ∈ (u.tract t).repairQ ∧ ChangesOnly [.cel] s u) ∧
        (s.rowFits t (s.page t g).lastPc g = false → exec (.ceLimit t g) s = .next s)) ∧
      ((s.cel.autoRepair = false ∨ s.spareLeft t (s.page t g).lastPc g = false) →
        ((s.page t g).state = .free → s.inPool t g = true →
          ∃ u, exec (.ceLimit t g) s = .next u ∧ (u.page t g).state = .retired ∧
            (∃ r ∈ u.attic.openRecs, r.source = 0x0502) ∧ ChangesOnly (.cel :: faultParts) s u) ∧
        ((s.page t g).state = .retired → exec (.ceLimit t g) s = .next s) ∧
        ((s.page t g).state ≠ .retired → (s.page t g).state ≠ .free ∨ s.inPool t g = false → exec (.ceLimit t g) s =
          .next (s.modPage t g (fun d => { d with retirePend := true }))))) ∧
    (∀ pc g, pc < 64 → g < 0x100000 → 4 ≤ s.glb.stage → s.flt.rstWaiting = none →
      exec (.repairQueue t pc g) s = .next (if s.spareLeft t pc g = true then queueRow t pc g s
        else s.modCel (fun c => { c with lastRepair := 3 }))) ∧
    ((s.tract t).quiesce = false → (s.tract t).repairQ ≠ [] → (∀ i ∈ s.fld.insts, i.tract ≠ t) →
      let u := advanceTo (s.markAt s.bel.gt) s
      exec (.repairQuiesceStart t) s = .next (u.modTract t (fun r =>
        { r with quiesce := true, repairing := true, quietFrom := u.tickNow }))) ∧
    ((s.tract t).quiesce = true → (s.tract t).repairing = true → (s.tract t).repairs ≤ 0xFFFF →
      let rows := (s.tract t).repairQ.take 16
      let saved := cellarAddr t saveArea
      ∃ u, exec (.repairDone t []) s = .next u ∧ (u.tract t).repairing = false ∧ (u.tract t).quiesce = true ∧
        (u.tract t).repairQ = (s.tract t).repairQ.drop 16 ∧
        (u.tract t).repairs = min 0xFFFF ((s.tract t).repairs + min 16 (s.tract t).repairQ.length) ∧
        ((s.tract t).repairQ ≠ [] → u.cel.lastRepair = 1 ∧ ∃ r ∈ u.attic.openRecs, r.source = 0x0503) ∧
        (∀ a, a < saved ∨ saved + 1024 * rows.length ≤ a → Memory.read u.cel.mem a = Memory.read s.cel.mem a) ∧
        ((∀ e ∈ rows, e.1 < 64 ∧ (e.2 < 0x4490 ∨ 0x44A0 ≤ e.2)) → ∀ i e, rows[i]? = some e →
          Memory.readN u.cel.mem (saved + 1024 * i) 1024 =
            Memory.readN s.cel.mem (cellarAddr t (e.2 * 65536 + e.1 * 1024)) 1024) ∧
        ((∀ e ∈ rows, ∀ w ∈ wordsOf t (e.2 * 65536 + e.1 * 1024) 1024, w ∉ s.cel.soft) →
          ∀ g, u.page t g = s.page t g) ∧ u.flt.fatal = none ∧ ChangesOnly (.cel :: .mem :: faultParts) s u) ∧
    ((s.tract t).quiesce = true → (s.tract t).repairing = false →
      let v := advanceTo (s.markAt s.bel.gt) s
      ∃ u, exec (.quiesceEnd t) s = .next (settleCore ((s.tract t).mirIn.foldl (fun x p => fromPrimary p x) u)) ∧
        (u.tract t).quiesce = false ∧ (u.tract t).mirIn = [] ∧
        (u.tract t).quietTicks = min 0xFFFF (v.tickNow - (s.tract t).quietFrom) ∧ u.bel.gt = v.bel.gt ∧
        (∀ e ∈ s.crf.crofts, (e.1, if e.1 / 136 = t then
          { e.2 with shift := e.2.shift + v.keptMarks t } else e.2) ∈ u.crf.crofts) ∧
        ((s.crf.running = false ∨ s.crf.paused = true) → v.keptMarks t = 0) ∧
        ChangesOnly ([.cel, .crf] ++ timeParts) s u)

/-- R224-R226, Table 8-9. Choices of the model: log 182, 183, 184, 188. -/
def Obligations.MirrorPartnerTakesCopies : Prop :=
  ∀ (c : Instr) (op : Nat) (p : Packet) (s : State), Wf.packet p = true → s.flt.fatal = none →
    (c, op) ∈ [(Instr.mirrorOpen p, 1), (.mirrorData p, 2), (.mirrorGraft p, 3), (.mirrorRelease p, 4),
      (.mirrorClose p, 5), (.mirrorFetch p, 7)] →
    p.cls = 5 → p.ptype = 0x40 → mirOp p = op → packetCrc p p.payload = p.crc → 16 ≤ p.payload.length →
    p.tsw0.toNat ≠ 0xFFFFFFFF →
    let sid := p.tsw0.toNat
    let t := homeTract sid
    let dev := p.src.toNat % 16384
    let known := ((s.part t).partnersIn.getD []).contains dev
    let rejected (u : State) : Prop := u.cel = { s.cel with mirRej := min 0xFFFFFFFF (s.cel.mirRej + 1) } ∧
      ChangesOnly [.cel, .inbox] s u
    (known = false → ∃ u, exec c s = .next u ∧ rejected u) ∧
    (known = true → (s.tract t).fenced = true → exec c s = .next (takeInbox p s)) ∧
    (known = true → (s.tract t).fenced = false → (s.tract t).quiesce = true → exec c s =
      .next ((takeInbox p s).modTract t (fun r => { r with mirIn := r.mirIn ++ [p] }))) ∧
    (known = true → (s.tract t).fenced = false → (s.tract t).quiesce = false →
      (op = 1 → s.sess t sid = none → (s.tract t).sessions.length < 262144 → s.sessTotal < 4194304 →
        (∀ x ∈ (s.tract t).early, x.2.tsw0.toNat ≠ sid) →
        ∃ u e, exec c s = .next (settleCore u) ∧ u.sess t sid = some e ∧ e.copyOf = some dev ∧ e.applied = some 0 ∧
          e.state = .empty ∧ (∀ v, v ≠ t → u.tract v = s.tract v) ∧
          ChangesOnly [.cel, .swc, .inbox, .draws] s u) ∧
      (op = 7 → exec c s = .next (settleCore (answerFetch p (takeInbox p s)))) ∧
      (op ≠ 1 → op ≠ 7 → exec c s = .next (settleCore (takeCopy p (takeInbox p s))) ∧
        (s.sess t sid = none → takeCopy p (takeInbox p s) = (takeInbox p s).modTract t (fun r =>
          { r with early := r.early ++ [(s.tickNow, p)] })) ∧
        (∀ e, s.sess t sid = some e → e.copyOf ≠ some dev → rejected (takeCopy p (takeInbox p s))) ∧
        (∀ e, s.sess t sid = some e → e.copyOf = some dev → e.ahead = [] → p.tsw1.toNat = (e.applied.getD 0 + 1) % 2 ^ 32 →
          let u := takeCopy p (takeInbox p s)
          u.sess t sid = none ∨ ∃ f, u.sess t sid = some f ∧ f.applied = some p.tsw1.toNat)))

/-- R225-R227, R251, Table 8-9. Choices of the model: log 185, 186, 189. -/
def Obligations.MirrorPrimaryHearsItsPartner : Prop :=
  (∀ (p : Packet) (e : Sess) (s : State), Wf.packet p = true → s.flt.fatal = none → p.cls = 5 → p.ptype = 0x40 →
    packetCrc p p.payload = p.crc → 16 ≤ p.payload.length → p.tsw0.toNat ≠ 0xFFFFFFFF →
    let sid := p.tsw0.toNat
    let t := homeTract sid
    (s.tract t).fenced = false → s.sess t sid = some e → e.mirror = some (p.src.toNat % 16384) → e.broken = false →
    (mirOp p = 6 → ∃ u f, exec (.mirrorAck p) s = .next (settleCore u) ∧ u.sess t sid = some f ∧
      f = { e with acked := some (mirAux p) } ∧
      ((s.tract t).mirHeld = [] → (u.tract t).mirOut = (s.tract t).mirOut.filter (fun c =>
        !(c.sid == sid && seqLe c.mseq (mirAux p)))) ∧
      ChangesOnly [.cel, .ats, .swc, .inbox] s u) ∧
    (mirOp p = 9 → ∃ u f, exec (.mirrorBreak p) s = .next (settleCore u) ∧ u.sess t sid = some f ∧
      f = { e with broken := true } ∧ u.cel.mirBroken = min 0xFFFFFFFF (s.cel.mirBroken + 1) ∧
      (∀ h ∈ (u.attn t).held, h.sid ≠ sid) ∧ (∃ r ∈ u.attic.openRecs, r.source = 0x0507) ∧
      ChangesOnly ([.cel, .ats, .swc, .inbox] ++ faultParts) s u) ∧
    (mirOp p = 8 → ((s.chainOf t sid (mirLayer p))[mirOff p / (tokensPerPage e.geo * recordBytes e.geo)]?).all
        (fun g => !(s.page t g).damaged) = true →
      ∃ u, exec (.mirrorFetchData p) s = .next (settleCore u) ∧ ChangesOnly [.inbox] s u) ∧
    (∀ g, mirOp p = 8 →
      let span := tokensPerPage e.geo * recordBytes e.geo
      let chain := s.chainOf t sid (mirLayer p)
      chain[mirOff p / span]? = some g → (s.page t g).damaged = true →
      ∃ u, exec (.mirrorFetchData p) s = .next (settleCore u) ∧
        (u.page t g).damaged = !decide (mirOff p / span * span + (s.page t g).fill * 64 ≤ mirOff p + (mirBody p).length) ∧
        u.cel.mem = (writeStream t chain e.geo (mirOff p) (mirBody p) s).cel.mem ∧
        (∀ a, (∀ q ∈ streamRange chain e.geo (mirOff p) (mirBody p).length,
            a < cellarAddr t q.1 ∨ cellarAddr t q.1 + q.2 ≤ a) → Memory.read u.cel.mem a = Memory.read s.cel.mem a) ∧
        ChangesOnly (.cel :: .mem :: .inbox :: faultParts) s u)) ∧
  (∀ (t sid : Nat) (s : State), t < 32 → s.flt.fatal = none →
    (∀ h e, (s.attn t).held.find? (·.sid == sid) = some h → s.sess t sid = some e → e.mirror.isSome → e.broken = false →
      ∃ u f, exec (.mirrorWaitExpire t sid) s = .next (settleCore u) ∧ u.sess t sid = some f ∧ f.broken = true ∧
        u.bel.gt = (advanceTo ((h.tick + s.cel.wait) * s.tickLen) s).bel.gt ∧ (∀ x ∈ (u.attn t).held, x.sid ≠ sid) ∧
        ChangesOnly ([.cel, .ats, .swc] ++ timeParts ++ faultParts) s u) ∧
    (∀ h, (s.attn t).held.find? (·.sid == sid) = some h → s.sess t sid = none →
      ∃ u, exec (.mirrorWaitExpire t sid) s = .next (settleCore u) ∧
        u.bel.gt = (advanceTo ((h.tick + s.cel.wait) * s.tickLen) s).bel.gt ∧ (∀ x ∈ (u.attn t).held, x.sid ≠ sid) ∧
        ChangesOnly ([.ats, .swc] ++ timeParts) s u) ∧
    (∀ x, s.sess t sid = none → (s.tract t).early.find? (fun e => e.2.tsw0.toNat == sid) = some x →
      ∃ u, exec (.mirrorGapTimeout t sid) s = .next (settleCore u) ∧
        (u.tract t).early = (s.tract t).early.filter (fun e => e.2.tsw0.toNat != sid) ∧
        u.bel.gt = (advanceTo ((x.1 + s.cel.wait) * s.tickLen) s).bel.gt ∧
        ChangesOnly ([.cel, .swc] ++ timeParts) s u) ∧
    (∀ e g d, s.sess t sid = some e → e.gapTick = some g → e.copyOf = some d → e.ahead ≠ [] →
      ∃ u, exec (.mirrorGapTimeout t sid) s = .next (settleCore u) ∧ u.sess t sid = none ∧
        u.bel.gt = (advanceTo ((g + s.cel.wait) * s.tickLen) s).bel.gt ∧
        ChangesOnly ([.cel, .swc] ++ timeParts ++ faultParts) s u)) ∧
  (∀ (d : Nat) (s : State), d < 16384 → s.flt.fatal = none →
    (4 ≤ s.glb.stage → s.flt.rstWaiting = none →
      exec (.mirrorPromoteRequest d) s = .next (s.modCel (fun c => { c with promote := insertUp d c.promote }))) ∧
    (d ∈ s.cel.promote → ∃ u, exec .mirrorPromote s = .next u ∧ u.cel.promote = [] ∧
      u.bel.gt = (advanceTo (s.markAt s.bel.gt) s).bel.gt ∧
      (∀ t sid e, t < 32 → s.sess t sid = some e → e.copyOf = some d →
        ∃ f, u.sess t sid = some f ∧ f.copyOf = none ∧ f.counts = e.counts ∧ f.chains = e.chains ∧ f.grafts = e.grafts) ∧
      (∀ t sid e, t < 32 → Tab.wf none (s.tract t).sessions = true → s.sess t sid = some e →
        (∀ x ∈ s.cel.promote, e.copyOf ≠ some x) → u.sess t sid = some e) ∧
      ChangesOnly (.cel :: timeParts) s u))

/-- R18, R231-R233, R243, R244, R247, R432, Tables 9-2, 9-9, 9-9a, 9-10. Choices of the model: log 4, 192, 193, 196, 260. -/
def Obligations.AttentionMessagesAreAdmitted : Prop :=
  ∀ s : State, s.flt.fatal = none →
    let answered (c : Instr) (t : Nat) (key : MsgKey) (st d : Nat) : Prop := ∃ v, exec c s = .next (settleCore v) ∧
      (∀ a ∈ (v.attn t).asm, a.key ≠ key) ∧ (v.attn t).batch = (s.attn t).batch ∧
      ((s.shortWaiting t).length < 16384 → (v.attn t).lastStatus = st ∧ v.ats.drop = s.ats.drop ∧
        ((st = 1 ∨ st = 0x11) → (v.attn t).lastDetail = d) ∧ (v.attn t).short = s.shortWaiting t ++ [s.swc.nextId]) ∧
      (16384 ≤ (s.shortWaiting t).length → v.ats.drop = min 0xFFFFFFFF (s.ats.drop + 1) ∧ v.swc = s.swc) ∧
      ChangesOnly ([.ats, .swc] ++ timeParts ++ faultParts) s v
    (∀ (slot : Nat) (p : Packet), 96 ≤ slot → slot < 120 → Wf.packet p = true → slot ≠ cellarSlotOfSid p.tsw0.toNat →
      exec (.assemblyPacket slot p) s = .next s) ∧
    (∀ (slot : Nat) (p : Packet), slot = cellarSlotOfSid p.tsw0.toNat → Wf.packet p = true → p.cls = 3 →
      p.ptype.toNat ∈ [0x20, 0x21, 0x22, 0x23, 0x24, 0x25] →
      let t := homeTract p.tsw0.toNat
      let key := msgKey p
      let pkt := (p.tsw1.toNat / 256) % 256
      let last := p.tsw1.toNat % 256
      let c := Instr.assemblyPacket slot p
      let fits : Prop := pkt ≤ last ∧ (pkt < last → p.payload.length = 4096)
      (packetCrc p p.payload ≠ p.crc → exec c s = .next (takeInbox p s)) ∧
      (packetCrc p p.payload = p.crc → (∀ e ∈ (s.attn t).refused, e.1 ≠ key) →
        ((∀ a ∈ (s.attn t).asm, a.key ≠ key) → fits → s.asmUsed t + 4096 * (last + 1) ≤ 32 * 1024 * 1024 →
          ∃ u, exec c s = .next (settleCore u) ∧ (u.attn t).asm = (s.attn t).asm ++ [{
            key := key, slot := slot, type := p.ptype.toNat, last := last, first := s.bel.gt
            done := s.bel.gt, pkts := [(pkt, some p.payload)], hdr := { p with payload := [] } }] ∧ ChangesOnly [.ats, .inbox] s u) ∧
        (∀ m, (s.attn t).asm.find? (·.key = key) = some m → m.whole = false →
          (fits → last = m.last → Tab.look none m.pkts pkt = none → (m.marked = false ∨ m.pkts.length + 1 < m.last + 1) →
            ∃ u n, exec c s = .next (settleCore u) ∧ (u.attn t).asm.find? (·.key = key) = some n ∧
              n = { m with pkts := n.pkts, done := s.bel.gt } ∧ Tab.look none n.pkts pkt = some p.payload ∧
              (∀ j, j ≠ pkt → Tab.look none n.pkts j = Tab.look none m.pkts j) ∧ ChangesOnly [.ats, .inbox] s u) ∧
          ((last ≠ m.last ∨ Tab.look none m.pkts pkt ≠ none) → ∃ u n, exec c s = .next (settleCore u) ∧
            (u.attn t).asm.find? (·.key = key) = some n ∧ n = { m with marked := true } ∧
            u.ats.disc = min 0xFFFFFFFF (s.ats.disc + 1) ∧ ChangesOnly [.ats, .inbox] s u)))) ∧
    (∀ t key, t < 32 →
      ((s.attn t).asm.find? (·.key = key) = none → exec (.assemblyTimeout t key) s = .next (settleCore s)) ∧
      (∀ m, (s.attn t).asm.find? (·.key = key) = some m → m.whole = false →
        if m.marked then answered (.assemblyTimeout t key) t key 4 3 else answered (.assemblyTimeout t key) t key 0x10 0)) ∧
    (∀ (c : Instr) (type t : Nat) (key : MsgKey), t < 32 →
      (c, type) ∈ [(Instr.sessionOpen t key, 0x20), (.sessionClose t key, 0x21), (.append t key, 0x22), (.attend t key, 0x23),
        (.graft t key, 0x24), (.release t key, 0x25)] →
      let v := rollMeters t (s.dropAsm t key)
      let closing : Prop := ∃ e, s.sess t key.session = some e ∧ e.state = .closing ∧ e.copyOf = none
      ((∀ m, (s.attn t).nextWhole = some m → m.key ≠ key ∨ m.type ≠ type) → exec c s = .next (settleCore s)) ∧
      (∀ m, (s.attn t).nextWhole = some m → m ∈ (s.attn t).asm ∧ m.whole = true ∧ ∀ b ∈ (s.attn t).asm, b.whole = true →
        m.done < b.done ∨ (m.done = b.done ∧ m.slot ≤ b.slot)) ∧
      (∀ m, (s.attn t).nextWhole = some m → m.key = key → m.type = type →
        if (s.tract t).fenced then answered c t key 7 7
        else if (s.tract t).quiesce then answered c t key 1 7
        else if s.flt.rstWaiting.isSome then answered c t key 1 9
        else match badDetail type m.bytes (s.geoOf t key.session) with
          | some d => answered c t key 4 d
          | none =>
            (key.session = 0xFFFFFFFF → if type = 0x20 then answered c t key 4 8 else answered c t key 2 0) ∧
            (key.session ≠ 0xFFFFFFFF → closing → type ≠ 0x20 → type ≠ 0x21 → answered c t key 4 7) ∧
            (key.session ≠ 0xFFFFFFFF → (¬ closing ∨ type = 0x20 ∨ type = 0x21) →
              let cost := v.cost t key type m.bytes
              let full := v.budgets t
              (∀ d, cost.exceeds full = some d → answered c t key 0x11 d) ∧
              (cost.exceeds full = none → ∀ d, (cost.add (v.attn t).used).exceeds (throttle s.thm.level full) = some d →
                answered c t key 1 d) ∧
              (cost.exceeds full = none → (cost.add (v.attn t).used).exceeds (throttle s.thm.level full) = none →
                ∃ u, exec c s = .next (settleCore u) ∧ (∀ a ∈ (u.attn t).asm, a.key ≠ key) ∧
                  (u.attn t).used = cost.add (v.attn t).used ∧ (u.attn t).batch = (s.attn t).batch ++ [{
                    key := key, slot := m.slot, type := type, hdr := m.hdr, body := m.bytes, tick := s.tickNow }] ∧
                  (∀ w, w ≠ t → u.attn w = s.attn w) ∧ ChangesOnly [.ats] s u))))

/-- R234-R236, R238, R241-R243, R248, R251, R359, Tables 9-8 and 9-9. Choices of the model: log 198, 199, 204, 265. -/
def Obligations.BatchesTakeEffectInOrder : Prop :=
  (∀ (t : Nat) (s : State), t < 32 → s.flt.fatal = none →
    ((s.attn t).batch = [] → exec (.attentionBatch t) s = .next (settleCore (rollMeters t s)) ∧
      exec (.batchLate t) s = .next s ∧ ∀ cs, cs.all Wf.physCroft = true → exec (.batchHung t cs) s = .next (settleCore s)) ∧
    (∀ r rest, (s.attn t).batch = r :: rest →
      let old := (s.attn t).batch.filter (·.tick == r.tick)
      let left := (s.attn t).batch.filter (·.tick != r.tick)
      (∃ w, w = rollMeters t (advanceTo ((r.tick + 1) * s.tickLen) s) ∧ exec (.attentionBatch t) s = .next (settleCore
        (old.foldl (fun x q => computeRequest t q x) (w.modAtsTract t (fun a => { a with batch := left }))))) ∧
      (∀ q x, q.type ≠ 0x23 ∨ x.attnLost t = false → computeRequest t q x = answerRequest t false q x) ∧
      (∃ u, exec (.batchLate t) s = .next u ∧ (∃ f ∈ u.attic.openRecs, f.source = 0x0603 ∧ f.unit = 0x2200 + t) ∧
        u.ats = s.ats ∧ u.bel.gt = (advanceTo ((r.tick + 2) * s.tickLen) s).bel.gt ∧ u.flt.fatal = none ∧
        ChangesOnly (timeParts ++ faultParts) s u) ∧
      (∀ cs, cs.all Wf.physCroft = true → ∃ u, exec (.batchHung t cs) s = .next (settleCore u) ∧ (u.attn t).batch = left ∧
        u.bel.gt = (advanceTo ((r.tick + 6) * s.tickLen) s).bel.gt ∧
        (∀ k ∈ cs, k / 136 = t → (s.croft k).attn = true → (u.croft k).fenced = true ∧ (u.croft k).hung = true) ∧
        (∃ f ∈ u.attic.openRecs, f.source = 0x0604 ∧ f.unit = 0x2200 + t))) ∧
    ((s.tract t).reclaimQ = [] → exec (.reclaim t) s = .next s) ∧
    (∀ sid rest e, (s.tract t).reclaimQ = sid :: rest → (s.tract t).fenced = false → s.sess t sid = some e →
      ∃ u, exec (.reclaim t) s = .next u ∧ (u.tract t).reclaimQ = rest ∧ u.sess t sid = none ∧
        (∀ j, j ≠ sid → u.sess t j = s.sess t j) ∧ (∀ v, v ≠ t → u.tract v = s.tract v) ∧
        ((∀ g ∈ e.ownPages, (s.page t g).state = .held ∧ (s.page t g).owner = sid ∧ (s.page t g).retirePend = false) →
          e.ownPages.Nodup → e.grafts = [] → e.ownRun = none → (∀ g ∈ e.ownPages, (u.page t g).state = .free) ∧
          ∀ g, g ∉ e.ownPages → u.page t g = s.page t g) ∧ ChangesOnly (.cel :: faultParts) s u)) ∧
  (∀ (t : Nat) (r : Admitted) (s : State), (s.tract t).fenced = false →
    let sid := r.key.session
    let does (st d : Nat) (val : Nat) : Prop := doRequest t r false s = ({ status := st, detail := d, value := val }, s)
    (r.type = 0x20 → s.sess t sid = none → (s.tract t).sessions.length < 262144 → s.sessTotal < 4194304 →
      beAt r.body 15 1 % 2 = 0 → ∃ x, doRequest t r false s = ({}, x) ∧ x.sess t sid = some { geo := parseGeometry r.body } ∧
        (∀ j, j ≠ sid → x.sess t j = s.sess t j) ∧ (∀ v, v ≠ t → x.tract v = s.tract v) ∧ ChangesOnly [.cel] s x) ∧
    (s.sess t sid = none → r.type ≠ 0x20 → does 2 0 0) ∧
    (∀ e, s.sess t sid = some e →
      (e.copyOf ≠ none → does 2 0 0) ∧
      (e.copyOf = none →
        (r.type = 0x20 → does 3 (if e.state = .closing then 1 else 0) 0) ∧
        (r.type = 0x21 → e.state = .closing → does 3 1 0) ∧
        (r.type = 0x21 → e.state ≠ .closing → ∃ x f, doRequest t r false s = ({ value := e.ownPages.length }, x) ∧
          x.sess t sid = some f ∧ f.state = .closing ∧ f.chains = e.chains ∧
          (x.tract t).reclaimQ = (s.tract t).reclaimQ ++ [sid] ∧ (∀ j, j ≠ sid → x.sess t j = s.sess t j)) ∧
        (r.type ≠ 0x20 → r.type ≠ 0x21 → e.state = .closing → does 4 7 0) ∧
        (e.state ≠ .closing → badDetail r.type r.body (some e.geo) = none →
          let q := parsePart 0x22 r.body
          (r.type = 0x22 → e.state = .frozen → does 5 1 0) ∧
          (r.type = 0x22 → e.state ≠ .frozen →
            (q.start ≠ Tab.look 0 e.counts q.layer → does 6 0 (Tab.look 0 e.counts q.layer)) ∧
            (q.start = Tab.look 0 e.counts q.layer → 0 < recordBytes e.geo → ∃ a x, doRequest t r false s = (a, x) ∧
              (a.status = 7 ∨ (a.status = 0 ∧ a.value = q.start + q.napp ∧ ∃ f, x.sess t sid = some f ∧ f.state = .active ∧
                Tab.look 0 f.counts q.layer = q.start + q.napp ∧
                ∀ l, l ≠ q.layer → Tab.look 0 f.counts l = Tab.look 0 e.counts l)))) ∧
          (r.type = 0x25 → (∀ g ∈ e.grafts, g.pfx ≠ beAt r.body 8 4) → does 0x12 0 0)))))

/-- R180, R256, R271, R282, R284, R286-R288, R291, R292, Tables 11-2 and 11-8. Choices of the model: log 206, 207, 209, 218. -/
def Obligations.WordsIssueComputeAndRetire : Prop :=
  ∀ (c k : Nat) (s : State), c < 4096 → s.physOf c = some k → s.works k = true →
    let x := s.croft k
    let others (u : State) : Prop := ∀ j, j ≠ k → u.croft j = s.croft j
    let marked (e : Engine) (u : State) : Prop := (u.croft k).queue e = markDone (x.queue e) ∧
      ∀ f, f ≠ e → (u.croft k).queue f = x.queue f
    let clean : Prop := s.flt.armed = none ∧ x.badWords = [] ∧ x.softWords = []
    (∀ pl, s.plan c = some pl → s.crf.running = true → s.crf.paused = false → x.attn = false → pl.schedule ≠ [] →
      let t := max x.entries ((s.bel.gt - s.crf.launchGt + s.tickLen - 1) / s.tickLen)
      let i := (s.crf.runsBase + t - x.shift) % pl.schedule.length
      let v := advanceTo (s.crf.launchGt + t * s.tickLen) s
      ∃ u, exec (.tickProgramStart c) s = .next u ∧ (u.croft k).entries = t + 1 ∧ u.bel.gt = v.bel.gt ∧ others u ∧
        (x.prog = none → (∀ j, j < 48 → Tab.look 0 (u.croft k).flags j = 0) ∧
          (∀ j, 48 ≤ j → Tab.look 0 (u.croft k).flags j = Tab.look 0 x.flags j) ∧
          (u.croft k).prog = (match (pl.schedule.getD i none).bind (fun n => (pl.programs[n]?).map (fun p => (n, p))) with
            | none => none
            | some (n, p) => some { index := n, next := p.entry, len := p.len }) ∧ ChangesOnly (.crf :: timeParts) s u) ∧
        (x.prog ≠ none → (u.croft k).prog = x.prog ∧ (u.croft k).overrun = min 0xFFFFFFFF (x.overrun + 1) ∧
          (u.croft k).flags = x.flags ∧ (x.overran = false → ∃ r ∈ u.attic.openRecs, r.source = 0x0704 ∧ r.unit = 0x1000 + k) ∧
          ChangesOnly (.crf :: timeParts ++ faultParts) s u)) ∧
    (∀ g, x.prog = some g → g.issued < g.len → clean →
      let i := g.next % 2048
      let w := Tab.look 0 x.store i
      ∀ e, engineNamed w = some e → (x.queue e).length < 128 → x.unretired.length < 512 →
        i ∉ x.unretired.flatMap overlaid → ∃ u, exec (.wordIssue c) s = .next u ∧
          (u.croft k).queue e = x.queue e ++ [{ word := w, pos := g.issued, step := x.step }] ∧
          (∀ f, f ≠ e → (u.croft k).queue f = x.queue f) ∧
          (u.croft k).prog = some { g with next := g.next + 1, issued := g.issued + 1 } ∧
          (u.croft k).step = (if isStep w then x.step + BitVec.ofNat 32 (flDelta w) else x.step) ∧
          (u.croft k).pantry = x.pantry ∧ (u.croft k).flags = x.flags ∧ others u ∧ ChangesOnly [.crf] s u) ∧
    (∀ e q rest, x.queue e = q :: rest →
      (q.done = true → ∃ u, exec (.wordRetire c e) s = .next u ∧ (u.croft k).queue e = rest ∧
        (∀ f, f ≠ e → (u.croft k).queue f = x.queue f) ∧
        (∀ j, Tab.look 0 (u.croft k).flags j = if wSigEn q.word ∧ ¬ wSigTract q.word ∧ j = wSigFlag q.word
          then min 0xFFFF (Tab.look 0 x.flags j + 1) else Tab.look 0 x.flags j) ∧
        (∀ j, Tab.look 0 u.crf.tflags j = if wSigEn q.word ∧ wSigTract q.word ∧ j = 16 * (k / 136) + wSigFlag q.word
          then min 0xFFFF (Tab.look 0 s.crf.tflags j + 1) else Tab.look 0 s.crf.tflags j) ∧
        (u.croft k).pantry = x.pantry ∧ others u ∧ ChangesOnly [.crf] s u) ∧
      (q.done = false → isStep q.word = false → exec (.wordRetire c e) s = .next s)) ∧
    (∀ e, x.queue e = [] → exec (.wordRetire c e) s = .next s) ∧
    (∀ (e : Engine) (op : Nat) (cmd : Instr),
      (cmd, e, op) ∈ [(Instr.mxLoad c, Engine.mx, 0), (.mxReuse c, .mx, 1), (.vxAdd c, .vx, 0), (.vxSub c, .vx, 1),
        (.vxMul c, .vx, 2), (.vxFma c, .vx, 3), (.vxMax c, .vx, 4), (.vxMin c, .vx, 5), (.vxExp c, .vx, 6),
        (.vxRecip c, .vx, 7), (.vxLsum c, .vx, 8), (.vxLmax c, .vx, 9), (.vxConvert c, .vx, 10), (.vxSplit c, .vx, 11),
        (.flNop c, .fl, 0), (.flSet c, .fl, 1), (.flAdd c, .fl, 2), (.flTadd c, .fl, 3), (.flBarrier c, .fl, 5)] →
      (x.next e = none → exec cmd s = .next s) ∧
      (∀ q, x.next e = some q →
        let w := q.word
        let p := compute w
        ((isOp e op w = false ∨ s.waitMet k w = false) → exec cmd s = .next s) ∧
        (isOp e op w = true → s.waitMet k w = true →
          let tile := if op = 0 then some (loadTile p w x.pantry) else x.active
          (e = .mx → tile = none → s.armedFor 2 (0x1000 + k) = false → exec cmd s = .next s) ∧
          (clean → ∀ eff : Effect,
            ((e = .mx ∧ ∃ t, tile = some t ∧ eff = mxEffect (s.rounder c q p) p (wRepeat w) t x.pantry) ∨
              (e = .vx ∧ op ≠ 11 ∧ eff = vxEffect op (s.rounder c q p) p (wRepeat w) x.pantry) ∨
              (e = .vx ∧ op = 11 ∧ eff = splitEffect (s.rounder c q p) p (wRepeat w) x.pantry)) →
            ∃ u, exec cmd s = .next u ∧ marked e u ∧
              (u.croft k).pantry = eff.writes.foldl (fun m b => Memory.writeN m b.1 (b.2.take (0x60000 - b.1))) x.pantry ∧
              (u.croft k).nonfinite = (x.nonfinite || eff.nonfinite) ∧ (u.croft k).invalid = (x.invalid || eff.invalid) ∧
              (u.croft k).overflow = (x.overflow || eff.overflow) ∧ (u.croft k).histSat = (x.histSat || eff.histSat) ∧
              (u.croft k).ovfBlocks = min 0xFFFF (x.ovfBlocks + eff.ovf) ∧
              (e = .mx → (u.croft k).active = tile ∧ (u.croft k).lambda = 8) ∧
              (e = .vx → (u.croft k).active = x.active ∧ (u.croft k).shadow = x.shadow) ∧
              (u.croft k).flags = x.flags ∧ (u.croft k).store = x.store ∧ (u.croft k).prog = x.prog ∧
              (u.croft k).posts = x.posts ∧ (u.croft k).step = x.step ∧ others u ∧ ChangesOnly [.crf, .draws] s u) ∧
          (e = .fl → op ≠ 5 → ∃ u, exec cmd s = .next u ∧ marked e u ∧ (u.croft k).pantry = x.pantry ∧
            (∀ j, Tab.look 0 (u.croft k).flags j = if j = flFlag w ∧ op = 1 then flValue w
              else if j = flFlag w ∧ op = 2 then min 0xFFFF (((Tab.look 0 x.flags j : Nat) : Int) + toInt 16 (flValue w)).toNat
              else Tab.look 0 x.flags j) ∧
            (∀ j, Tab.look 0 u.crf.tflags j = if j = 16 * (k / 136) + flFlag w ∧ op = 3
              then min 0xFFFF (((Tab.look 0 s.crf.tflags j : Nat) : Int) + toInt 16 (flValue w)).toNat
              else Tab.look 0 s.crf.tflags j) ∧ others u ∧ ChangesOnly [.crf] s u) ∧
          (e = .fl → op = 5 → ∀ f b, s.fieldBody = some (f, b) →
            let v := if k ∈ s.participants f then barrierArrive f k (flFlag w) s else s
            exec cmd s = .next (v.modCroft k (fun y => { y with fl := markDone y.fl, busyGt := v.bel.gt }))))))

/-- R264, R265, R268-R270, R280, R281, R285, R290, R303, Tables 11-4 and 11-5. Choices of the model: log 206, 215, 218, 220, 222,
225. Choices of the model: log 206, 215, 218, 225. -/
def Obligations.MoversPortsAndReceives : Prop :=
  ∀ (c k : Nat) (s : State), c < 4096 → s.physOf c = some k → s.works k = true →
    let x := s.croft k
    let t := k / 136
    let others (u : State) : Prop := ∀ j, j ≠ k → u.croft j = s.croft j
    let marked (e : Engine) (u : State) : Prop := (u.croft k).queue e = markDone (x.queue e) ∧
      ∀ f, f ≠ e → (u.croft k).queue f = x.queue f
    let clean : Prop := s.flt.armed = none ∧ x.badWords = [] ∧ x.softWords = [] ∧ s.cel.bad = [] ∧ s.cel.soft = []
    (∀ (op : Nat) (cmd : Instr) (q : QWord),
      (cmd, op) ∈ [(Instr.mvCopy c, 0), (.mvTranspose c, 1), (.mvGather c, 2), (.mvScatter c, 3), (.mvFill c, 4), (.mvOverlay c, 5)] →
      (x.next .mv = none → exec cmd s = .next s) ∧
      (x.next .mv = some q → (isOp .mv op q.word = false ∨ s.waitMet k q.word = false) → exec cmd s = .next s) ∧
      (x.next .mv = some q → isOp .mv op q.word = true → s.waitMet k q.word = true → clean →
        let m := mover q.word
        let rep := wRepeat q.word
        let index (a i : Nat) : Int := (beNat (Memory.readN x.pantry (a + 4 * i) 4) : Int)
        let runs : List (Int × Int) :=
          if op = 2 then (List.range rep).map (fun i =>
            ((m.src : Int) + index (gatherIdx q.word) i * (m.s1 * m.srcUnit), (m.dst : Int) + (i * m.run : Nat)))
          else if op = 3 then (List.range rep).map (fun i =>
            ((m.src : Int) + (i * m.run : Nat), (m.dst : Int) + index (scatterIdx q.word) i * (m.d1 * m.dstUnit)))
          else moverRuns m rep
        let lies (space : Nat) (a : Int) : Prop := 0 ≤ a ∧ (if space = 0 then a + m.run ≤ 0x60000
          else s.granted t (a.toNat / 65536) = true ∧ s.granted t ((a.toNat + m.run - 1) / 65536) = true)
        let move (z : Memory × Memory × Tab (BitVec 256)) (r : Int × Int) : Memory × Memory × Tab (BitVec 256) :=
          let b : Bytes := if op = 4 then (List.range m.run).map (fun i => (Memory.readN x.pantry m.src 8).getD (i % 8) 0)
            else if m.srcSpace = 0 then Memory.readN z.1 r.1.toNat m.run
            else Memory.readN z.2.1 (cellarAddr t r.1.toNat) m.run
          if m.dstSpace = 0 then (Memory.writeN z.1 r.2.toNat b, z.2)
          else if m.dstSpace = 1 then (z.1, Memory.writeN z.2.1 (cellarAddr t r.2.toNat) b, z.2.2)
          else (z.1, z.2.1, (words32 (b.length / 32) b).zipIdx.foldl
            (fun f w => Tab.put 0 f ((r.2.toNat / 32 + w.2) % 2048) w.1) z.2.2)
        ∃ u, exec cmd s = .next u ∧ marked .mv u ∧ (u.croft k).flags = x.flags ∧ (u.croft k).posts = x.posts ∧ others u ∧
          ChangesOnly [.crf, .cel, .mem, .draws] s u ∧
          ((∀ r ∈ runs, op = 4 ∨ lies m.srcSpace r.1) → (∀ r ∈ runs, if m.dstSpace ≤ 1 then lies m.dstSpace r.2 else 0 ≤ r.2) →
            (m.dstSpace = 1 → (s.tract t).fenced = false) →
            let z := runs.foldl move (x.pantry, s.cel.mem, x.store)
            (u.croft k).pantry = z.1 ∧ (∀ a, Memory.read u.cel.mem a = Memory.read z.2.1 a) ∧ (u.croft k).store = z.2.2))) ∧
    (∀ q, x.next .fp = some q → s.waitMet k q.word = true → s.flt.armed = none → x.badWords = [] → x.softWords = [] →
      let p := portWord q.word
      let kept (u : State) : Prop := marked .fp u ∧ (u.croft k).pantry = x.pantry ∧ (u.croft k).flags = x.flags ∧
        (u.croft k).posts = x.posts ∧ others u ∧ ChangesOnly [.crf, .swc, .draws] s u
      let body := Memory.readN x.pantry p.buf p.len
      let tag := p.tsw1 / 65536 % 16
      (isOp .fp 0 q.word = true → ∃ u, exec (.fpSend c) s = .next (settleCore u) ∧ kept u ∧ (u.croft k).pens = x.pens ∧
        (u.croft k).requests = (if p.ptype = 0x40 then x.requests else insertUp tag x.requests) ∧
        u.swc = ((pieces body).zipIdx.foldl (fun z e => croftSend c (s.croftPacket p (if p.ptype = 0x40 then 5 else 3)
          (p.order && e.2 == 0) (if p.ptype = 0x40 then p.tsw1 else
            c * 2 ^ 20 + tag * 2 ^ 16 + e.2 * 2 ^ 8 + ((pieces body).length - 1)) e.1) z) s).swc) ∧
      (isOp .fp 2 q.word = true → ∃ u r, exec (.fpPenOpen c) s = .next (settleCore u) ∧ kept u ∧
        (u.croft k).pens = x.pens ++ [r] ∧ r.tag = p.tsw0 / 65536 ∧ r.rank = p.tsw0 % 65536 ∧ r.buf = p.aux ∧
        r.flag = p.rxFlag ∧ r.committed = 0 ∧
        u.swc = ((pieces body).zipIdx.foldl (fun z e =>
          croftSend c (s.croftPacket p 1 (p.order && e.2 == 0) p.tsw1 e.1) z) s).swc) ∧
      (isOp .fp 3 q.word = true → ∃ u, exec (.fpPenSend c) s = .next (settleCore u) ∧ kept u ∧ (u.croft k).pens = x.pens ∧
        (u.croft k).requests = x.requests ∧
        (let per := p.len / max 1 (wRepeat q.word)
         let shape := chunkShape per
         u.swc = ((List.range (wRepeat q.word)).foldl (fun z i =>
          let data := Memory.readN x.pantry (p.buf + i * per) per
          let scales := Memory.readN x.pantry (p.aux + i * shape.2.2) shape.2.2
          let closer : Trailer := { crc := BitVec.ofNat 32 (crc32c (data ++ scales)), count := 1 }
          (groupsOf shape.2.1 shape.1 data ++ [scales ++ trailerBytes closer]).zipIdx.foldl (fun z e =>
            croftSend c (s.croftPacket p 1 (p.order && i == 0 && e.2 == 0)
              ((p.tsw1 / 2 ^ 22 + i) % 1024 * 2 ^ 22 + e.2 * 2 ^ 15 + p.tsw1 % 2 ^ 15) e.1) z) z) s).swc)) ∧
      (isOp .fp 1 q.word = true →
        let resp := p.ptype == 0x30
        let room : Prop := (x.posts.filter (·.response == resp)).length < (if resp then 16 else 32)
        (room → ∃ u, exec (.fpPost c) s = .next u ∧ marked .fp u ∧ (u.croft k).pantry = x.pantry ∧
          (u.croft k).posts = x.posts ++ [{ response := resp, tag := if resp then tag else p.tsw0 / 65536
                                            buf := p.buf, len := p.len, flag := p.rxFlag }] ∧ others u ∧ ChangesOnly [.crf] s u) ∧
        (¬ room → exec (.fpPost c) s = .next s))) ∧
    (∀ p : Packet, Wf.packet p = true →
      let data : Prop := p.cls = 5 ∧ p.ptype = 0x40 ∧ p.src.toNat < 0xF0000 ∧ p.tsw0.toNat % 4096 = c
      let answer : Prop := p.cls = 4 ∧ p.ptype = 0x30 ∧ p.tsw1.toNat / 2 ^ 20 = c
      let n := p.payload.length
      let drops : Prop := ∃ u, exec (.croftRxPacket c p) s = .next (settleCore u) ∧
        u.croft k = { x with rxDrop := min 0xFFFFFFFF (x.rxDrop + 1) } ∧ others u ∧ ChangesOnly [.crf, .inbox] s u
      let mine (r : Post) : Bool := !r.response && r.tag == p.tsw0.toNat / 65536
      let asked (r : Post) : Bool := r.response && r.tag == p.tsw1.toNat / 65536 % 16
      (data ∨ answer ∨ p.cls = 2 → packetCrc p p.payload ≠ p.crc →
        exec (.croftRxPacket c p) s = .next (settleCore (takeInbox p s))) ∧
      (data → packetCrc p p.payload = p.crc →
        let off := p.tsw1.toNat
        (x.posts.find? mine = none → drops) ∧
        (∀ r, x.posts.find? mine = some r → r.len < off + n → drops) ∧
        (∀ r, x.posts.find? mine = some r → off + n ≤ r.len → (p.tsw0.toNat / 4096) % 16 = 0 →
          r.buf + r.len ≤ 0x60000 → s.flt.armed = none → ∃ u, exec (.croftRxPacket c p) s = .next (settleCore u) ∧
          (u.croft k).pantry = Memory.writeN x.pantry (r.buf + off) p.payload ∧
          (covers (r.got ++ [(off, n)]) r.len = true → (u.croft k).posts = x.posts.erase r ∧
            Tab.look 0 (u.croft k).flags r.flag = min 0xFFFF (Tab.look 0 x.flags r.flag + 1)) ∧
          (covers (r.got ++ [(off, n)]) r.len = false → (u.croft k).flags = x.flags ∧
            { r with got := r.got ++ [(off, n)] } ∈ (u.croft k).posts) ∧
          (u.croft k).rxDrop = x.rxDrop ∧ others u ∧ ChangesOnly [.crf, .inbox, .draws] s u)) ∧
      (answer → packetCrc p p.payload = p.crc →
        let pkt := p.tsw1.toNat / 256 % 256
        (∀ r, x.posts.find? asked = some r → r.len < 4096 * pkt + n → drops) ∧
        (∀ r, x.posts.find? asked = some r → 4096 * pkt + n ≤ r.len → r.buf + r.len ≤ 0x60000 → s.flt.armed = none →
          let got := if r.got.contains (pkt, 1) then r.got else r.got ++ [(pkt, 1)]
          ∃ u, exec (.croftRxPacket c p) s = .next (settleCore u) ∧
          (u.croft k).pantry = Memory.writeN x.pantry (r.buf + 4096 * pkt) p.payload ∧
          (covers got (p.tsw1.toNat % 256 + 1) = true → (u.croft k).posts = x.posts.erase r ∧
            (u.croft k).requests = x.requests.filter (· != p.tsw1.toNat / 65536 % 16) ∧
            Tab.look 0 (u.croft k).flags r.flag = min 0xFFFF (Tab.look 0 x.flags r.flag + 1)) ∧
          (covers got (p.tsw1.toNat % 256 + 1) = false → (u.croft k).flags = x.flags ∧ (u.croft k).requests = x.requests) ∧
          (u.croft k).rxDrop = x.rxDrop ∧ others u ∧ ChangesOnly [.crf, .inbox, .draws] s u)) ∧
      (p.cls = 2 → packetCrc p p.payload = p.crc →
        let of := x.pens.find? (fun r => r.tag == penTag p && r.stepLo == penStepLo p)
        (of = none → drops) ∧
        (∀ r, of = some r → p.ptype = 0x12 → penChunk p < r.chunks → penPkt p < dataPackets r.fmt → n = dataLen r.fmt →
          r.committed.testBit (penChunk p) = false → s.flt.armed = none →
          let dest := r.buf + penChunk p * (dataPackets r.fmt * dataLen r.fmt) + penPkt p * dataLen r.fmt
          dest + n ≤ 0x60000 → ∃ u, exec (.croftRxPacket c p) s = .next (settleCore u) ∧
          (u.croft k).pantry = Memory.writeN x.pantry dest p.payload ∧ (u.croft k).flags = x.flags ∧
          (u.croft k).posts = x.posts ∧ others u ∧ ChangesOnly [.crf, .inbox, .draws] s u))) ∧
    ((∀ w, s.waitedOn k = some w → s.stalled k = true →
        let ticks := match s.fieldBody with | some (_, b) => b.sentinel | none => 4
        let due := ((s.quietSince k + s.tickLen - 1) / s.tickLen + ticks) * s.tickLen
        ∃ u, exec (.croftHung c) s = .next u ∧
        (u.croft k).fenced = true ∧ (u.croft k).hung = true ∧ (u.croft k).mx = x.mx ∧ (u.croft k).pantry = x.pantry ∧
        others u ∧ (∃ r ∈ u.attic.openRecs, r.source = 0x0705 ∧ r.unit = 0x1000 + k) ∧
        u.bel.gt = (advanceTo (max due (s.markAt s.bel.gt)) s).bel.gt ∧ (s.attic.failed = false → s.attic.writing = none →
          ∃ r, u.attic.writing = some r ∧ r.cause = 1 ∧ r.crofts.head? = some c) ∧
        ChangesOnly (.crf :: timeParts ++ faultParts) s u) ∧
      ((s.waitedOn k = none ∨ s.stalled k = false) → exec (.croftHung c) s = .next s))

/-- R294, R296-R298, R394, R403, R434, Tables 11-11 and 11-14. Choices of the model: log 11, 26, 27, 239, 240. -/
def Obligations.ImagesAreVerifiedAndApplied : Prop :=
  ∀ s : State, s.flt.fatal = none → 3 ≤ s.glb.stage →
    let lost : State := { s with img := { s.img with cmdLost := true } }
    ((s.img.state = .busy ∨ s.img.state = .staged) → ∀ body, exec (.verifyBase body) s = .next lost ∧
      exec (.verifyField body) s = .next lost) ∧
    (s.img.checking = none → exec .verifyDone s = .next s) ∧
    (∀ kind body, s.img.checking = some (kind, body) →
      let h := parseImage s.img.buf
      let keyed : Prop := s.keyUsable h.keySlot = true ∧
        mldsaVerify (s.fuses.keys.getD h.keySlot [])
          (digest (Memory.readN s.img.buf 0 (h.length - 3312))) (Memory.readN s.img.buf (h.length - 3312) 3309) = true
      let rejected (codes : List Nat) : Prop := ∃ u, exec .verifyDone s = .next u ∧ u.img.state = .fail ∧
        u.img.code ∈ codes ∧ u.img.checking = none ∧ u.img.staged = s.img.staged ∧ u.img.base = s.img.base ∧
        u.img.fieldImg = s.img.fieldImg ∧ ChangesOnly [.img, .host, .out, .draws] s u
      (¬ keyed → rejected [1, 2]) ∧
      (∀ r, verifyFail s kind body = some r → rejected [r.code]) ∧
      (verifyFail s kind body = none →
        (∀ f, body = .field f → ∃ u i, exec .verifyDone s = .next u ∧ u.img.state = .staged ∧ u.img.staged = some i ∧
          i.body = body ∧ i.hdr = h ∧ u.img.base = s.img.base ∧ u.img.fieldImg = s.img.fieldImg ∧
          ChangesOnly [.img, .bel, .host, .out] s u) ∧
        (∀ b, body = .base b → s.img.fieldImg ≠ none → ∃ u i, exec .verifyDone s = .next u ∧ u.img.state = .staged ∧
          u.img.staged = some i ∧ i.body = body ∧ i.hdr = h ∧ u.img.base = s.img.base ∧
          ChangesOnly [.img, .host, .out] s u) ∧
        (∀ b, body = .base b → s.img.fieldImg = none → ∃ u i, exec .verifyDone s = .next u ∧ u.img.state = .idle ∧
          u.img.staged = none ∧ u.img.base = some i ∧ i.body = body ∧ i.hdr = h ∧ u.bel.k = h.kexp ∧
          u.rte.route = tabOf 0 b.route ∧ (s.attic.failed = false → u.attic.epoch = max s.attic.epoch h.epoch) ∧
          u.crf = s.crf ∧ u.cel = s.cel))) ∧
    (s.img.state = .busy → exec .discard s = .next { s with img := { s.img with state := .idle, checking := none } }) ∧
    (s.img.state = .staged → ∃ u, exec .discard s = .next u ∧ u.img.state = .idle ∧ u.img.staged = none ∧
      (s.img.applyState = 1 → u.img.applyState = 0 ∧ u.img.applyCode = 5) ∧ ChangesOnly [.img, .bel] s u) ∧
    ((s.img.state = .idle ∨ s.img.state = .fail) → exec .discard s = .next s) ∧
    ((s.img.state ≠ .staged ∨ s.stagedBase = none ∨ s.img.applyState = 1) → exec .applyBase s = .next lost) ∧
    (∀ i, s.stagedBase = some i → s.img.state = .staged → s.img.applyState ≠ 1 →
      let count := s.img.applyHi.toNat * 2 ^ 32 + s.img.applyLo.toNat
      let tick := 2 ^ max s.bel.k i.hdr.kexp
      let locked : Prop := s.bel.state = .locked ∨ s.bel.state = .holdover
      let refused (c : Nat) : Prop := ∃ u, exec .applyBase s = .next u ∧ u.img = { s.img with applyState := 3, applyCode := c } ∧
        ChangesOnly [.img, .host, .out] s u
      (count % tick ≠ 0 → refused 1) ∧
      (count % tick = 0 → count < s.bel.gt + 2 * tick → refused 2) ∧
      (count % tick = 0 → s.bel.gt + 2 * tick ≤ count → ¬ locked → refused 3) ∧
      (count % tick = 0 → s.bel.gt + 2 * tick ≤ count → locked → exec .applyBase s =
        .next { s with img := { s.img with applyAt := count, applyState := 1, applyCode := 0 } })) ∧
    (s.img.applyState ≠ 1 → exec .baseImageTakeEffect s = .next s) ∧
    (∀ i, s.stagedBase = some i → s.img.applyState = 1 →
      let v := advanceTo s.img.applyAt s
      (kexpAt v s.img.applyAt i.hdr.kexp = true → ∃ u, exec .baseImageTakeEffect s = .next (settleCore u) ∧
        u.img.base = some i ∧ u.img.staged = none ∧ u.img.state = .idle ∧ u.img.applyState = 2 ∧ u.img.applyCode = 0 ∧
        u.bel.k = i.hdr.kexp ∧ u.bel.gt = v.bel.gt ∧ u.img.fieldImg = s.img.fieldImg) ∧
      (kexpAt v s.img.applyAt i.hdr.kexp = false → ∃ u, exec .baseImageTakeEffect s = .next u ∧ u.img.base = s.img.base ∧
        u.img.staged = none ∧ u.img.state = .fail ∧ u.img.code = 7 ∧ u.img.applyState = 3 ∧ u.img.applyCode = 4 ∧
        ChangesOnly ([.img, .host, .out] ++ timeParts) s u)) ∧
    exec .imgLock s = .next { s with img := { s.img with lock := true } }

/-- R72, R291, R311-R315, R409, Tables 12-8 and 16-8. Choices of the model: log 3, 243, 244, 246, 247, 269, 270. -/
def Obligations.FieldsPauseResumeAndLaunch : Prop :=
  ∀ s : State, s.flt.fatal = none → 3 ≤ s.glb.stage →
    let lost : State := { s with img := { s.img with cmdLost := true } }
    let pend : Prop := s.img.ckptState = 1 ∨ s.img.ckptState = 2 ∨ s.img.ckptState = 5
    let fails (tick count : Nat) : Option Nat := if count % tick ≠ 0 then some 1 else if count < s.bel.gt + 2 * tick then some 2
      else if s.bel.state = .locked ∨ s.bel.state = .holdover then none else some 3
    let count := s.img.ckptHi.toNat * 2 ^ 32 + s.img.ckptLo.toNat
    let shows (c : Instr) (st code : Nat) : Prop := ∃ u, exec c s = .next u ∧
      u.img = { s.img with ckptState := st, ckptCode := code, ckptAt := u.img.ckptAt } ∧
      u.img.ckptAt = (if code = 0 ∧ st ≠ 0 then count else s.img.ckptAt) ∧ ChangesOnly [.img, .host, .out] s u
    (pend → exec .ckptSave s = .next lost ∧ exec .ckptResume s = .next lost) ∧
    (¬ pend →
      (match fails s.tickLen count with | some c => shows .ckptSave 4 c | none => shows .ckptSave 1 0) ∧
      (s.crf.paused = false → shows .ckptResume 4 0x0B) ∧
      (s.crf.paused = true → match fails s.tickLen count with | some c => shows .ckptResume 4 c | none => shows .ckptResume 5 0)) ∧
    (s.img.ckptState = 1 → shows .ckptCancel 0 0) ∧ (s.img.ckptState ≠ 1 → exec .ckptCancel s = .next s) ∧
    (∀ f b i, s.img.ckptState = 1 → s.fieldBody = some (f, b) → s.img.fieldImg = some i →
      let m := s.img.ckptAt
      let v := advanceTo m s
      let runs := if v.crf.paused then v.crf.runs else v.crf.runsBase + (m - v.crf.launchGt) / v.tickLen
      let w := ((List.range 32).filter (fun t => (v.tract t).quiesce)).foldl (fun x t => fallBehind t (v.keptMarks t) x) v
      let d := fun t => w.slotData f t m runs i.pdigest
      (∀ c, v.saveFail f d = some c → ∃ u, exec .ckptCapture s = .next u ∧ u.img.ckptState = 4 ∧ u.img.ckptCode = c ∧
        ChangesOnly ([.img, .host, .out] ++ timeParts) s u) ∧
      (v.saveFail f d = none → s.flt.armed = none → s.cel.bad = [] → s.cel.soft = [] →
        ∃ u, exec .ckptCapture s = .next u ∧ u.img.ckptState = 2 ∧ u.crf = { w.crf with paused := true, runs := runs } ∧
        ((∀ t, t < 32 → (s.tract t).quiesce = false) → w.crf = s.crf) ∧
        (∀ t, t < 32 → (s.tract t).fenced = false → ∀ j x, (d t).bytes[j]? = some x →
          Memory.read u.cel.mem (cellarAddr t (0x7000 * 65536) + j) = x) ∧
        ChangesOnly ([.img, .mem, .cel, .crf, .host, .out] ++ timeParts) s u)) ∧
    (s.img.ckptState = 2 → ∃ u, exec .ckptSlotsWritten s = .next u ∧ u.img.ckptState = 3 ∧ u.img.ckptDone = true ∧
      u.img.captureUs ≤ 0xFFFF ∧ ChangesOnly [.img, .host, .out] s u) ∧
    (s.img.ckptState = 5 → ∃ u, exec .ckptResumeAtCount s = .next u ∧ u.img.ckptState = 0 ∧ u.crf.running = true ∧
      u.crf.paused = false ∧ u.crf.launchGt = s.img.ckptAt ∧ u.crf.runsBase = s.crf.runs ∧ (∀ k, (u.croft k).entries = 0) ∧
      u.bel.gt = (advanceTo s.img.ckptAt s).bel.gt ∧ ChangesOnly ([.img, .crf, .host, .out] ++ timeParts) s u) ∧
    (∀ f, f < 64 → 5 ≤ s.glb.stage →
      let l := s.bel.launchHi.toNat * 2 ^ 32 + s.bel.launchLo.toNat
      let bad := (s.neededPorts f).find? (fun n => (s.slotReg n).disc != .active)
      let refused (c : Nat) : Prop := ∃ u, exec (.fieldLaunchRequest f) s = .next u ∧ u.bel.launchState = 3 ∧
        u.bel.launchCode = c ∧ ChangesOnly [.bel, .host, .out] s u ∧
        (c = 4 → u.bel.portValid = true ∧ bad = some u.bel.portSlot)
      (s.bel.launchState = 1 → exec (.fieldLaunchRequest f) s =
        .next { s with bel := { s.bel with launchReg := BitVec.ofNat 6 f, launchLost := true } }) ∧
      (s.bel.launchState ≠ 1 →
        ((s.launchImage f = none ∨ s.bel.k = 0) → refused 7) ∧
        (∀ st i b, s.launchImage f = some (st, i) → i.body = .field b → s.bel.k ≠ 0 →
          match fails s.tickLen l with
          | some c => refused c
          | none => ((∃ x ∈ b.crofts, s.physOf x.logical = none) → refused 5) ∧
            ((∀ x ∈ b.crofts, s.physOf x.logical ≠ none) → (bad ≠ none → refused 4) ∧
              (bad = none → exec (.fieldLaunchRequest f) s = .next { s with bel := { s.bel with
                launchReg := BitVec.ofNat 6 f, launchField := f, launchAt := l, launchHold := false, launchState := 1
                launchCode := 0 } }))))) ∧
    (∀ st i b, s.bel.launchState = 1 → s.launchImage s.bel.launchField = some (st, i) → i.body = .field b →
      let v := advanceTo s.bel.launchAt s
      let guest : Prop := s.inField s.bel.launchField = false ∧ s.lentTo s.bel.launchField s.devIndex = true
      (guest → ∃ u, exec .fieldLaunch s = .next (settleCore u) ∧ u.bel.launchState = 2 ∧ u.bel.launchCode = 0 ∧
        Tab.look 0 u.img.guestKeys s.bel.launchField = b.key ∧ u.img.fieldImg = s.img.fieldImg ∧ u.crf = s.crf ∧
        u.bel.gt = v.bel.gt ∧ (st = true → u.img.staged = none ∧ u.img.state = .idle) ∧
        ChangesOnly ([.img, .bel, .attic, .host, .out] ++ timeParts) s u) ∧
      (¬guest → s.img.restore = false → ∃ u, exec .fieldLaunch s = .next (settleCore u) ∧ u.bel.launchState = 2 ∧
        u.bel.launchCode = 0 ∧ u.bel.launchHold = (v.bel.state == .holdover) ∧ u.bel.gt = v.bel.gt ∧ u.crf.running = true ∧
        u.crf.paused = false ∧ u.crf.launchGt = s.bel.launchAt ∧ u.crf.runsBase = 0 ∧ u.crf.tflags = [] ∧
        (st = true → u.img.fieldImg = some i ∧ u.img.staged = none ∧ u.img.state = .idle) ∧
        (s.crf.running = false → Tab.wf none s.crf.lmap = true →
          (∀ a c k, s.physOf a = some k → s.physOf c = some k → a = c) → ∀ a k, s.physOf a = some k →
          let x := u.croft k
          x.prog = none ∧ x.mx = [] ∧ x.vx = [] ∧ x.mv = [] ∧ x.fp = [] ∧ x.fl = [] ∧ x.flags = [] ∧ x.entries = 0 ∧
          x.attn = b.attnCrofts.contains a ∧
          ∀ p, b.crofts.find? (·.logical == a) = some p → x.step = p.step ∧ x.pantry = pantryOf p)) ∧
      (¬guest → s.img.restore = true →
        let rd := readCkptSlots v
        (∀ c, rd.1.findSome? (rd.2.slotFail s.bel.launchField i.pdigest) = some c → ∃ u, exec .fieldLaunch s = .next u ∧
          u.bel.launchState = 3 ∧ u.bel.launchCode = 6 ∧ u.img.ckptState = 4 ∧ u.img.ckptCode = c ∧ u.crf.running = rd.2.crf.running) ∧
        (rd.1.findSome? (rd.2.slotFail s.bel.launchField i.pdigest) = none → ∃ u, exec .fieldLaunch s = .next (settleCore u) ∧
          u.bel.launchState = 2 ∧ u.crf.running = true ∧ u.crf.launchGt = s.bel.launchAt ∧ u.crf.runsBase = maxRuns rd.1 ∧
          u.img.restore = false ∧
          u.img.ckptDone = true)))

/-- R323, Table 13-4; R329 for lanes that fail to align. Choices of the model: log 89. -/
def Obligations.PortTrainsThroughItsStates : Prop :=
  (∀ (oe : Nat) (s : State), oe < 16 → 4 ≤ s.glb.stage → s.flt.fatal = none → (s.engine oe).fenced = false →
    ¬((s.engine oe).lostA = true ∧ (s.engine oe).lostB = true) → (s.engine oe).dark = true →
    ∃ t, exec (.engineModulatorsLocked oe) s = .next t ∧ t.engine oe = { s.engine oe with dark := false } ∧
      (∀ e, e ≠ oe → t.engine e = s.engine e) ∧
      (∀ n, t.optPort n = if n / 4 = oe ∧ (s.optPort n).tstate = .off then { s.optPort n with tstate := .dark }
        else s.optPort n) ∧ t.lnk.lanes = s.lnk.lanes ∧ ChangesOnly [.lnk] s t) ∧
  (∀ (n : Nat) (s : State), n < 64 → s.lit n = true →
    ((s.optPort n).tstate = .dark → exec (.portLightDetected n) s =
      .next (s.modOptPort n (fun o => { o with tstate := .adapt, light := true }))) ∧
    ((s.optPort n).tstate = .adapt → exec (.portAdapted n) s =
      .next (s.modOptPort n (fun o => { o with tstate := .align }))) ∧
    ((s.optPort n).tstate = .align → ∀ ls : List Nat, ls.all (· < 8) →
      let q := (s.optPort n).spareQ ++ ls.map (fun l => { lane := l, dark := false })
      ∃ t, exec (.portAligned n ls) s = .next t ∧ (t.optPort n).tstate = .fec ∧ ChangesOnly [.lnk, .out] s t ∧
        (((s.optPort n).sparing ≠ none ∨ q = []) →
          (t.optPort n).spareQ = q ∧ (t.optPort n).sparing = (s.optPort n).sparing ∧ t.out = s.out) ∧
        (∀ x r, (s.optPort n).sparing = none → q = x :: r →
          (t.optPort n).spareQ = r ∧ (t.optPort n).sparing = some x ∧
          t.out = .linkWord n ((s.optPort n).rxOk && s.hasBase) 1 x.lane :: s.out)) ∧
    ((s.optPort n).tstate = .fec → exec (.portFecLocked n) s =
      .next ((s.modOptPort n (fun o => { o with rxOk := true })).emit (.linkWord n s.hasBase 0 0))))

/-- R323 step 6, R44, R118; R324 and R46 for link-down. Choices of the model: log 89. -/
def Obligations.LinkUpAndLinkDown : Prop :=
  ∀ (n : Nat) (s : State), n < 64 →
    let rest : Disc := if (plannedIdent s.topology n).isSome then .discovering
      else if (s.slotReg n).disc = .quarantined then .quarantined else .unused
    (s.lit n = true → (s.optPort n).tstate = .fec → (s.optPort n).rxOk = true → (s.optPort n).peerRxOk = true →
      s.hasBase = true → (s.optPort n).sparing = none → (s.optPort n).mode = 0 →
      ∃ u, exec (.portUp n) s = .next (settleCore u) ∧ u.optPort n = { s.optPort n with tstate := .up } ∧
        (u.slotReg n).linkUp = true ∧ (u.slotReg n).disc = rest ∧
        (u.link n).discSent = true ∧ (u.link n).nonce = (List.range 32).map (Config.nonceByte s.draws) ∧
        (u.link n).txSeq = 0 ∧ (u.link n).unacked = [] ∧ (u.link n).grants = none ∧ (u.link n).accepted = false ∧
        (∃ w ∈ u.swc.voq, w.eg = n ∧ w.p.ptype = 1 ∧ w.p.len = 40) ∧
        (∃ t, Output.flit n (flitBytes t (lctlBody 3 0 (s.myGrants n)) 0) ∈ u.out) ∧
        ChangesOnly [.lnk, .swc, .host, .out, .draws] s u) ∧
    (∀ (cause : DownCause) (light : Bool), (s.optPort n).tstate = .up → s.flt.fatal = none →
      (match cause with
        | .fecLost | .signalLost => (s.optPort n).sparing = none ∧ (s.optPort n).peerSparing = false
        | .engineDark => (s.engine (n / 4)).dark = true
        | .testMode => (s.optPort n).mode ≠ 0) →
      ∃ u, exec (.portDown n cause light) s = .next (linkLost n 2 u) ∧
        (u.optPort n).tstate = (if (s.optPort n).mode ≠ 0 then .test else if light then .adapt else .dark) ∧
        (u.optPort n).rxOk = false ∧ (u.optPort n).peerRxOk = false ∧ (u.optPort n).sparing = none ∧
        (u.slotReg n).linkUp = false ∧ (u.slotReg n).disc = rest ∧
        (∀ m, m ≠ n → u.optPort m = s.optPort m ∧ u.slotReg m = s.slotReg m) ∧
        u.swc.links = s.swc.links ∧ u.swc.voq = s.swc.voq ∧ ChangesOnly [.lnk, .swc, .host, .out] s u)

/-- R325, Tables 13-2 and 13-3. Choices of the model: log 115. -/
def Obligations.ReceivedSlotsAreCounted : Prop :=
  ∀ (n : Nat) (s : State), n < 64 → s.lit n = true →
   (∀ (c m : List Nat) (found : Option Nat), Wf.rxSlot (.symbols c m found) = true →
      ∃ t, exec (.slotReceive n (.symbols c m found)) s = .next t ∧ exec (.slotReceive n (readSlot c m found)) s = .next t) ∧
   ((s.optPort n).tstate = .fec → (s.optPort n).rxOk = false → ∀ r, Wf.rxSlot r = true →
      (match r with
        | .symbols _ _ _ => True
        | .am _ ok op _ found => op = 0 → found = none → exec (.slotReceive n r) s =
            .next (s.modOptPort n (fun o => { o with peerRxOk := ok, peerSparing := false }))
        | _ => exec (.slotReceive n r) s = .next s)) ∧
   ((s.optPort n).tstate = .up →
    (∀ r, (r = .uncorrectable ∨ r = .reservedType) → ∃ u, exec (.slotReceive n r) s =
        .next (settleCore ((List.range 5).foldl (fun x _ => failFlit n x) u)) ∧
      u = s.modOptPort n (fun o => { o with cwu := min 0xFFFFFFFF (o.cwu + 1) })) ∧
    (∀ cs : List Nat, cs.length ≤ 15 → cs.all (· < 8) →
      (∃ u, exec (.slotReceive n (.rm cs)) s = .next u ∧ ChangesOnly [.lnk] s u ∧ u.lnk.engines = s.lnk.engines ∧
        u.optPort n = (if cs = [] then s.optPort n else
          { s.optPort n with cwc := min 0xFFFFFFFF ((s.optPort n).cwc + 1), fecMax := max (s.optPort n).fecMax cs.length }) ∧
        (∀ m, m ≠ n → u.optPort m = s.optPort m) ∧
        (∀ fs : List Bytes, fs.length = 5 → fs.all (fun f => f.length == 128) →
          exec (.slotReceive n (.data cs fs)) s = .next (settleCore (fs.foldl (fun x f => receiveFlit replayDown n f x) u))) ∧
        (∀ (ok : Bool) (l : Nat), l < 8 → ∃ t, exec (.slotReceive n (.am cs ok 0 l none)) s = .next t ∧
          t = u.modOptPort n (fun o => { o with peerRxOk := ok, peerSparing := false })))))

/-- R326, R327. The window in GT is the model's conversion (log 114). Choices of the model: log 4, 113, 114. -/
def Obligations.LanesMoveToSpares : Prop :=
  (∀ (oe l : Nat) (dark : Bool) (s : State), oe < 16 → l < 34 → (s.engine oe).fenced = false →
    (s.engine oe).dark = false → s.flt.fatal = none →
    (dark = false → s.noisy oe l = false → exec (.laneUnusable oe l dark) s = .next s) ∧
    (dark = true ∨ 2 ^ (s.engine oe).thr ≤
      ((s.lane oe l).recent.filter (fun g => s.bel.gt < g + 234057)).length →
    let others := (s.engine oe).badLanes.filter (fun b => s.bel.gt < b.2 + 234057 && b.1 ≠ l)
    (2 ≤ others.length → ∃ t, exec (.laneUnusable oe l dark) s = .next t ∧ (t.engine oe).broadFault = true ∧
      (t.lane oe l).rxFailed = true ∧ t.lnk.ports = s.lnk.ports ∧
      (∃ r ∈ t.attic.openRecs, r.source = 0x0103 ∧ r.unit = 0x2E00 + oe) ∧
      ChangesOnly (.lnk :: faultParts) s t ∧ t.flt.fatal = none) ∧
    (others.length < 2 → ∀ g, (s.lane oe l).rx = some g → g < 32 → (s.engine oe).autoSpare = true →
      (dark = true ∨ ((s.engine oe).lostA = false ∧ (s.engine oe).lostB = false)) →
      let n := 4 * oe + g / 8
      ((s.optPort n).tstate = .up ∨ (s.optPort n).tstate = .fec) → (s.optPort n).sparing = none →
      (s.optPort n).spareQ = [] →
      ∃ t, exec (.laneUnusable oe l dark) s = .next t ∧ (t.lane oe l).rxFailed = true ∧
        t.optPort n = { s.optPort n with sparing := some { lane := g % 8, dark := dark }, noSpare := false } ∧
        t.out = .linkWord n ((s.optPort n).rxOk && s.hasBase) 1 (g % 8) :: s.out ∧ ChangesOnly [.lnk, .out] s t))) ∧
  (∀ (n lane : Nat) (s : State), n < 64 → lane < 8 → s.lit n = true → (s.optPort n).request = some lane →
    (∀ q < n % 4, (s.optPort (n / 4 * 4 + q)).request = none) →
    let oe := n / 4
    let g := 8 * (n % 4) + lane
    (∀ l, s.freeTxSpare n = some l →
      ∃ t, exec (.laneMoveToSpare n) s = .next t ∧ (l = 32 ∨ l = 33) ∧
        (t.lane oe l).tx = some g ∧ (t.lane oe (s.txLaneOf oe g)).tx = none ∧
        (t.lane oe (s.txLaneOf oe g)).txFailed = true ∧ (t.optPort n).request = none ∧
        t.out = .linkWord n ((s.optPort n).rxOk && s.hasBase) 0 0 :: s.out ∧ ChangesOnly [.lnk, .out] s t) ∧
    (s.freeTxSpare n = none →
      ∃ t, exec (.laneMoveToSpare n) s = .next t ∧ t.lnk.lanes = s.lnk.lanes ∧ (t.optPort n).request = none ∧
        t.out = .linkWord n ((s.optPort n).rxOk && s.hasBase) 2 lane :: s.out ∧ ChangesOnly [.lnk, .out] s t)) ∧
  (∀ (n : Nat) (x : Sparing) (s : State), n < 64 → s.lit n = true → (s.optPort n).sparing = some x → x.dark = false →
    (s.optPort n).spareQ = [] →
    ∃ t, exec (.sparingTimeout n) s = .next t ∧ t.optPort n = { s.optPort n with sparing := none, noSpare := true } ∧
      t.lnk.lanes = s.lnk.lanes ∧ (∃ r ∈ t.attic.openRecs, r.source = 0x0102 ∧ r.unit = 0x2E00 + n / 4) ∧
      .linkWord n ((s.optPort n).rxOk && s.hasBase) 0 0 ∈ t.out ∧
      ((s.optPort n).tstate = .up → ∃ v, Output.flit n (flitBytes v (lctlBody 2 (s.link n).rxSeq.toNat []) 0) ∈ t.out) ∧
      ((s.optPort n).tstate ≠ .up → t.swc = s.swc) ∧ ChangesOnly (.lnk :: .swc :: faultParts) s t)

/-- R330, R331; R353 and Table 14-5 for 0x0106. Choices of the model: log 63, 113, 274, 275. -/
def Obligations.LaserFeedsAndEngines : Prop :=
  ∀ (oe : Nat) (s : State), oe < 16 → s.flt.fatal = none →
    let downOf (o : OptPort) : TState := if o.tstate = .off then .off else if o.mode ≠ 0 then .test else .dark
    (∀ b : Bool, (if b then (s.engine oe).lostB else (s.engine oe).lostA) = false →
      ((if b then (s.engine oe).lostA else (s.engine oe).lostB) = false →
        ∃ t, exec (.feedLost oe b) s = .next t ∧
          t.engine oe = { s.engine oe with lostA := !b, lostB := b, singleFeed := true } ∧
          t.lnk.ports = s.lnk.ports ∧ t.lnk.lanes = s.lnk.lanes ∧
          (∃ r ∈ t.attic.openRecs, r.source = 0x0104 ∧ r.unit = 0x2E00 + oe) ∧
          t.flt.fatal = none ∧ ChangesOnly (.lnk :: faultParts) s t) ∧
      ((if b then (s.engine oe).lostA else (s.engine oe).lostB) = true →
        ∃ t, exec (.feedLost oe b) s = .next t ∧
          t.engine oe = { s.engine oe with lostA := true, lostB := true, singleFeed := true, dark := true } ∧
          (∀ q < 4, (t.optPort (4 * oe + q)).tstate = downOf (s.optPort (4 * oe + q))) ∧
          (∀ n, n / 4 ≠ oe → t.optPort n = s.optPort n) ∧ ChangesOnly (.lnk :: coreParts) s t)) ∧
    (∀ b : Bool, (if b then (s.engine oe).lostB else (s.engine oe).lostA) = true →
      exec (.feedRestored oe b) s = .next (signal 5 (s.modEngine oe (fun e =>
        if b then { e with lostB := false } else { e with lostA := false })))) ∧
    (∃ t, exec (.opticalEngineFault oe) s = .next t ∧ t.engine oe = { s.engine oe with fenced := true } ∧
      (∀ q < 4, (t.optPort (4 * oe + q)).tstate = downOf (s.optPort (4 * oe + q))) ∧
      (∀ n, n / 4 ≠ oe → t.optPort n = s.optPort n) ∧ ChangesOnly (.lnk :: coreParts) s t)

/-- R333, R334; R399 for the stage. Choices of the model: log 116. -/
def Obligations.PortTestsAndInjections : Prop :=
  ∀ (n : Nat) (s : State), n < 64 → 5 ≤ s.glb.stage → s.flt.fatal = none →
    (∀ m, (m = 1 ∨ m = 2) → (s.optPort n).mode = 0 →
      ∃ t, exec (.portTestMode n m) s = .next t ∧ (t.optPort n).tstate = .test ∧ (t.optPort n).mode = m ∧
        (t.optPort n).rxOk = false ∧ (∀ k, k ≠ n → t.optPort k = s.optPort k) ∧
        ((s.optPort n).tstate ≠ .up → ChangesOnly [.lnk] s t) ∧ ChangesOnly (.lnk :: coreParts) s t) ∧
    ((s.optPort n).mode ≠ 0 → ∃ t, exec (.portTestMode n 0) s = .next t ∧ ChangesOnly [.lnk] s t ∧
      t.optPort n = { s.optPort n with
        mode := 0, testNext := none, tstate := if (s.optPort n).light then .adapt else .dark } ∧
      (∀ k, k ≠ n → t.optPort k = s.optPort k)) ∧
    (∀ b, 1 ≤ b → b < 32 → exec (.injectBurst n b) s = .next (s.modLink n (fun l => { l with burstOnce := b }))) ∧
    exec (.injectLcrc n) s = .next (s.modLink n (fun l => { l with lcrcOnce := true }))

/-- R44, R45, Table 2-6. Choices of the model: log 4, 10, 117, 119, 272. -/
def Obligations.DiscoveryDecidesThePort : Prop :=
  ∀ (n : Nat) (s : State), n < 64 → s.flt.fatal = none →
    let ends (c : Instr) (d : Disc) : Prop := ∃ u, exec c s = .next (settleCore (updateLost u)) ∧
      (u.slotReg n).disc = d ∧ (u.link n).proofOk = (d == .active) ∧ (u.link n).discBad = (d != .active) ∧
      (d = .quarantined → ∃ r ∈ u.attic.openRecs, r.source = 0x0108 ∧ r.unit = n) ∧
      (∀ m, m ≠ n → u.slotReg m = s.slotReg m ∧ u.link m = s.link m) ∧ u.lnk = s.lnk ∧ u.rte = s.rte
    (s.discovering n = true →
      (∀ p, Wf.packet p = true →
        (¬(p.len = 40 ∧ beAt p.payload 0 1 = (if n < 32 then 2 else 1)) → ends (.discover n p) .quarantined) ∧
        (p.len = 40 → n < 32 → beAt p.payload 0 1 = 2 →
          ends (.discover n p) (if plannedIdent s.topology n = some (beAt p.payload 4 4) then .active else .quarantined)) ∧
        (p.len = 40 → 32 ≤ n → beAt p.payload 0 1 = 1 → (plannedIdent s.topology n).isSome →
          ∃ u, exec (.discover n p) s = .next (settleCore u) ∧
            u.slotReg n = { s.slotReg n with
              peerPort := BitVec.ofNat 6 (beAt p.payload 1 1), peerIdent := BitVec.ofNat 20 (beAt p.payload 4 4) } ∧
            (u.link n).gotDisc = some (beAt p.payload 1 1, beAt p.payload 4 4, p.payload) ∧
            (∃ w ∈ u.swc.voq, w.eg = n ∧ w.p.ptype = 2 ∧ w.p.len = 3309) ∧ ChangesOnly [.swc, .inbox, .draws] s u) ∧
        (p.len = 40 → 32 ≤ n → beAt p.payload 0 1 = 1 → plannedIdent s.topology n = none →
          ∃ u, exec (.discover n p) s = .next (endDiscovery n false (settleCore u)) ∧
            (∃ w ∈ u.swc.voq, w.eg = n ∧ w.p.ptype = 2 ∧ w.p.len = 3309) ∧ ChangesOnly [.swc, .inbox, .draws] s u)) ∧
      ends (.discoveryTimeout n) .quarantined ∧
      (∀ p port ident raw tp, 32 ≤ n → Wf.packet p = true → (s.link n).gotDisc = some (port, ident, raw) →
        s.trunkPlan n = some tp →
        ends (.proof n p) (if p.len = 3309 ∧ mldsaVerify tp.key ((s.link n).nonce ++ raw.take 8) p.payload = true ∧
          ident = tp.peer ∧ port = tp.port then .active else .quarantined))) ∧
    ((s.optPort n).tstate ≠ .up → (plannedIdent s.topology n).isSome → (s.slotReg n).disc = .discovering →
      ∃ t, exec (.absentTimeout n) s = .next t ∧ t.slotReg n = { s.slotReg n with disc := .absent } ∧
        (∀ m, m ≠ n → t.slotReg m = s.slotReg m) ∧ (∃ r ∈ t.attic.openRecs, r.source = 0x0108 ∧ r.unit = n) ∧
        t.flt.fatal = none ∧ ChangesOnly (.swc :: faultParts) s t)

/-- R348. FLT_CAP_INFO stands at BAR0 offset 0x0010_0010; VALID is its bit 31. -/
def Obligations.FirstErrorCaptureHoldsOneFault : Prop :=
  (∀ (e : FaultEvent) (s : State), 1 ≤ e.cls → e.cls ≤ 3 →
    let bit : BitVec 3 := if e.cls = 1 then 1 else if e.cls = 2 then 2 else 4
    let c := (recordFault e s).flt.cap
    (s.flt.cap.valid = false → c = {
      valid := true, inj := e.inj, seen := bit, cls := e.cls, access := e.access
      unit := e.unit, addr := e.addr, info := e.info, gt := s.bel.gt, count := 1, source := e.source }) ∧
    (s.flt.cap.valid = true →
      c = { s.flt.cap with count := min 0xFFFFFFFF (s.flt.cap.count + 1), seen := s.flt.cap.seen ||| bit })) ∧
  (∀ s : State, 2 ≤ s.glb.stage →
    exec .captureClear s = .next { s with flt := { s.flt with cap := {} } } ∧
    ∀ v : Word, v.getLsbD 31 = true → s.host.l0 = true →
      exec (.registerWrite 0x100010 v) s = .next { s with flt := { s.flt with cap := {} } })

/-- R345, R347, R349, R352. Choices of the model: log 82. -/
def Obligations.FatalFaultsStopTheDevice : Prop :=
  ∀ (c : Instr) (source unit addr : Nat) (s : State),
    ((c = .switchingCoreControlFault ∧ source = 0x0306 ∧ unit = 0x2F00 ∧ addr = 0) ∨
      (c = .crossingDieControlStateUe unit addr ∧ source = 0x0809 ∧ Wf.controlUnit unit = true ∧ addr < 2 ^ 64)) →
    (s.glb.stage = 0 → exec c s = .next s) ∧
    (s.glb.stage ≠ 0 → ∃ u, exec c s = .next u ∧
      (∃ r ∈ u.attic.openRecs, r.source = source ∧ r.unit = unit) ∧
      u.flt.cntFt = min 0xFFFFFFFF (s.flt.cntFt + 1) ∧
      (s.flt.fatal = none → u.flt.fatal = some source ∧ u.glb.stage = 8 ∧ u.out.head? = some .dark ∧
        (s.attic.openRecs = [] → s.host.l0 = true → .msix 0 ∈ u.out ∨ u.host.pend.getLsbD 0 = true)) ∧
      (s.flt.fatal ≠ none → u.flt.fatal = s.flt.fatal ∧ u.glb = s.glb) ∧ ChangesOnly faultParts s u)

/-- R349, R351, R356, R360, R361, Table 14-13. One second is 312,500,000 GT. Choices of the model: log 3, 29, 78, 80. -/
def Obligations.RecordsCloseAfterASecond : Prop :=
  ∀ s : State,
    (∀ source unit, source < 0x10000 → unit < 0x10000 →
      let here (r : FaultRec) : Bool := r.source == source && r.unit == unit
      (∀ r, s.attic.openRecs.find? here = some r → ∃ u, exec (.faultRecordClose source unit) s = .next u ∧
        u.attic.openRecs = s.attic.openRecs.filter (fun x => !here x) ∧
        (s.attic.failed = false → Tab.look none u.attic.ring (r.seq % 4096) = some { r with closed := true } ∧
          ∀ i, i ≠ r.seq % 4096 → Tab.look none u.attic.ring i = Tab.look none s.attic.ring i) ∧
        (s.attic.failed = true → u.attic.ring = s.attic.ring) ∧
        u.bel.gt = (advanceTo (r.gtFirst + 312500000) s).bel.gt ∧ ChangesOnly (.attic :: timeParts) s u) ∧
      (s.attic.openRecs.find? here = none → exec (.faultRecordClose source unit) s = .next s)) ∧
    (s.flt.pulse = false → exec .faultPulseEnd s = .next s) ∧
    (s.flt.pulse = true → ∃ u, exec .faultPulseEnd s = .next u ∧ u.flt = { s.flt with pulse := false } ∧
      u.bel.gt = (advanceTo (s.flt.pulseGt + (s.flt.width * 125 + 3) / 4) s).bel.gt ∧ ChangesOnly (.flt :: timeParts) s u) ∧
    (2 ≤ s.glb.stage → ∀ check width unit, check < 4 → width < 16 → unit < 0x10000 →
      let i : Injection := { check := check, width := width, unit := unit }
      (s.img.lock = false → exec (.faultInject check width unit) s =
        .next { s with flt := { s.flt with injReg := i, armed := some i } }) ∧
      (s.img.lock = true → (s.flt.armed = none ∨ s.flt.injReg ≠ i) → exec (.faultInject check width unit) s =
        .next { s with glb := { s.glb with lockRej := min 0xFFFFFFFF (s.glb.lockRej + 1) } })) ∧
    (s.attic.writing = none → exec .capsuleDone s = .next s) ∧
    (∀ r, s.attic.writing = some r → s.flt.rstWaiting = none → ∃ u, exec .capsuleDone s = .next u ∧
      u.attic.writing = s.attic.waiting ∧ u.attic.waiting = none ∧
      (s.attic.failed = false → u.attic.nextCap = (s.attic.nextCap + 1) % 8 ∧
        (∃ c, Tab.look none u.attic.capsules s.attic.nextCap = some c ∧ c.complete = true ∧ c.cause = r.cause ∧
          c.field = r.field ∧ c.faultSeq = r.faultSeq ∧ c.tflags.length = 512 ∧
          c.records.map (·.logical) = r.crofts.filter (fun l => (s.physOf l).isSome)) ∧
        ∀ i, i ≠ s.attic.nextCap → Tab.look none u.attic.capsules i = Tab.look none s.attic.capsules i) ∧
      (s.attic.failed = true → u.attic.capsules = s.attic.capsules) ∧ ChangesOnly [.attic] s u)

/-- R353, R354, Tables 14-5 and 14-5a. Choices of the model: log 75, 180. -/
def Obligations.FencesAreSetAndLifted : Prop :=
  (∀ (u : Nat) (s : State), u < 0x10000 → (s.glb.stage < 2 ∨ s.flt.fatal ≠ none) →
    exec (.fence u) s = .next s ∧ exec (.unfence u) s = .next s) ∧
  (∀ s : State, 2 ≤ s.glb.stage → s.flt.fatal = none →
    let fences (u source : Nat) (ps : List Part) (done : State → Prop) : Prop :=
      ∃ w, exec (.fence u) s = .next (settleCore w) ∧ done w ∧
        (∃ r ∈ w.attic.openRecs, r.source = source ∧ r.unit = u) ∧ ChangesOnly (ps ++ faultParts) s w
    let tractGone (t : Nat) (w : State) : Prop :=
      (w.tract t).fenced = true ∧ (w.tract t).sessions = [] ∧ (w.tract t).runs = [] ∧
      (∀ q < 136, (w.croft (136 * t + q)).fenced = true) ∧ ∀ v, v ≠ t → (w.tract v).fenced = (s.tract v).fenced
    (∀ u, u < 64 → (s.slotReg u).fenced = false → fences u 0x0302 [.swc, .rte] (fun w =>
      (w.slotReg u).fenced = true ∧ ∀ n, n ≠ u → (w.slotReg n).fenced = (s.slotReg n).fenced)) ∧
    (∀ k, k < 4352 → (s.croft k).fenced = false → (s.croft k).fused = false → fences (0x1000 + k) 0x0702 [.crf] (fun w =>
      w.croft k = { s.croft k with
        fenced := true, fencedTick := some s.tickNow, mx := [], vx := [], mv := [], fp := [], fl := [], prog := none } ∧
      ∀ j, j ≠ k → w.croft j = s.croft j)) ∧
    (∀ t, t < 32 → (s.tract t).fenced = false →
      fences (0x2200 + t) 0x0505 [.cel, .crf, .fld, .swc] (tractGone t) ∧
      ∀ pc, pc < 64 → fences (0x2400 + 64 * t + pc) 0x0505 [.cel, .crf, .fld, .swc] (tractGone t)) ∧
    (∀ sl l, sl < 32 → l < 10 → (Tab.look 0 s.fld.lanes sl).getLsbD l = false →
      fences (0x2C00 + 16 * sl + l) 0x0403 [.fld, .swc] (fun w =>
        Tab.look 0 w.fld.lanes sl = Tab.look 0 s.fld.lanes sl ||| (1#10 <<< l) ∧
        ∀ j, j ≠ sl → Tab.look 0 w.fld.lanes j = Tab.look 0 s.fld.lanes j)) ∧
    (∀ n, n < 16 → (s.engine n).fenced = false → fences (0x2E00 + n) 0x0106 [.lnk, .swc, .rte, .gates, .inbox, .shapers]
      (fun w => (w.engine n).fenced = true ∧ ∀ m, m ≠ n → (w.engine m).fenced = (s.engine m).fenced)) ∧
    (∀ u, u < 0x10000 → ¬(u < 64 ∨ (0x1000 ≤ u ∧ u < 0x2100) ∨ (0x2200 ≤ u ∧ u < 0x2220) ∨
        (0x2400 ≤ u ∧ u < 0x2C00) ∨ (0x2C00 ≤ u ∧ u < 0x2E00 ∧ u % 16 < 10) ∨ (0x2E00 ≤ u ∧ u < 0x2E10)) →
      exec (.fence u) s = .next (settleCore s)) ∧
    (∀ u, u < 64 → (s.slotReg u).fenced = true → exec (.fence u) s = .next (settleCore s) ∧
      ∃ w, exec (.unfence u) s = .next (settleCore w) ∧ (w.slotReg u).fenced = false ∧
        ∀ n, n ≠ u → (w.slotReg n).fenced = (s.slotReg n).fenced) ∧
    (∀ n, n < 16 → (s.engine n).fenced = true → ∃ w, exec (.unfence (0x2E00 + n)) s = .next (settleCore w) ∧
      (w.engine n).fenced = false ∧ ∀ m, m ≠ n → (w.engine m).fenced = (s.engine m).fenced) ∧
    (∀ u, u < 0x10000 → 64 ≤ u → ¬(0x2E00 ≤ u ∧ u < 0x2E10) →
      ∃ w, exec (.unfence u) s = .next (settleCore w) ∧ ChangesOnly [.rte] s w))

/-- R357, R358, Table 14-17. The bucket at a GT is what it held plus one per 312,500 GT since its last refill. Choices of the model: log 74, 78. -/
def Obligations.FaultInputIsAdmittedByABucket : Prop :=
  ∀ s : State, s.glb.stage ≠ 0 →
    let gt := s.bel.gt
    let tokens := min 16 (s.flt.inBucket + (gt - s.flt.inRefill) / 312500)
    let recorded (source : Nat) (u : State) : Prop := ∃ r ∈ u.attic.openRecs, r.source = source ∧ r.unit = 0x2F10
    (s.flt.inStuck = false →
      (0 < tokens → ∃ u, exec .faultIn s = .next u ∧ u.flt.inBucket = tokens - 1 ∧
        u.flt.inCnt = min 0xFFFFFFFF (s.flt.inCnt + 1) ∧ u.flt.inExcess = s.flt.inExcess ∧ u.flt.inLevel = true ∧
        (s.flt.inAction = 0 → ChangesOnly [.flt] s u) ∧
        (s.flt.inAction ≠ 0 → recorded 0x0802 u ∧ ChangesOnly faultParts s u) ∧
        (s.flt.inAction = 3 → u.flt.fatal ≠ none)) ∧
      (tokens = 0 → ∃ u, exec .faultIn s = .next u ∧ u.flt.inCnt = s.flt.inCnt ∧
        u.flt.inExcess = min 0xFFFFFFFF (s.flt.inExcess + 1) ∧ u.flt.fatal = s.flt.fatal ∧
        (s.flt.inExcessGt = none → recorded 0x0804 u ∧ u.flt.inExcessGt = some gt) ∧
        (∀ g, s.flt.inExcessGt = some g → (g + 312500000 ≤ gt → recorded 0x0804 u ∧ u.flt.inExcessGt = some gt) ∧
          (gt < g + 312500000 → ChangesOnly [.flt] s u)) ∧ ChangesOnly faultParts s u)) ∧
    (s.flt.inStuck = true → exec .faultIn s = .next { s with flt := { s.flt with inLevel := true, inSince := gt } } ∧
      exec .faultInStuck s = .next s ∧ (2 ≤ s.glb.stage → ∀ active,
        exec (.faultInRelease active) s = .next { s with flt := { s.flt with inStuck := false, inLevel := active, inSince := gt } })) ∧
    (s.flt.inStuck = false → (s.flt.inLevel = false → exec .faultInStuck s = .next s) ∧
      (s.flt.inLevel = true → ∃ u, exec .faultInStuck s = .next u ∧ u.flt.inStuck = true ∧ recorded 0x0803 u ∧
        u.flt.fatal = s.flt.fatal ∧
        u.bel.gt = (advanceTo (s.flt.inSince + 3125001) s).bel.gt ∧ ChangesOnly (faultParts ++ timeParts) s u) ∧
      ∀ active, exec (.faultInRelease active) s = .next s)

/-- R362, R364, R365, R367, R373, Table 14-10. Codes: 1 BUSY, 2 NO_FIELD, 3 FATAL. Choices of the model: log 65, 66, 68. -/
def Obligations.ResetsAreRefusedOrRun : Prop :=
  ∀ (c : Instr) (tier f : Nat) (capsule : Bool) (s : State), 2 ≤ s.glb.stage →
    ((c = .fieldReset f capsule ∧ tier = 1 ∧ f < 64) ∨ (c = .warmReset capsule ∧ tier = 2 ∧ f = s.flt.rstField)) →
    let shown : Flt := { s.flt with rstTier := tier, rstField := f, rstCapsule := capsule }
    let refused (code : Nat) : Prop := exec c s = .next { s with flt := { shown with rstState := 6, rstCode := code } }
    let waiting (t : Nat) : Prop := ∃ w g, s.flt.rstWaiting = some (w, g) ∧ t ≤ w
    let here : Prop := tier = 2 ∨ s.inField f = true
    let done (u : State) (cap : Nat) : Prop :=
      u.flt.rstState = 5 ∧ u.flt.rstCode = 0 ∧ u.flt.rstWaiting = none ∧
      (s.attic.failed = false → ∃ r, Tab.look none u.attic.resets (s.attic.resetSeq % 1024) = some r ∧ r.kind = tier ∧
        r.field = (if tier = 1 then f else 0xFF) ∧ r.cause = s.flt.lastSource ∧ r.gtReq = s.bel.gt ∧ r.gtDone = u.bel.gt ∧
        r.capsule = cap) ∧
      (here → u.crf.running = false ∧ u.crf.paused = false ∧ u.crf.halted = false ∧
        ∀ l k, u.physOf l = some k → let x := u.croft k
          x.prog = none ∧ x.mx = [] ∧ x.vx = [] ∧ x.mv = [] ∧ x.fp = [] ∧ x.fl = []) ∧
      (tier = 2 → u.fld = {} ∧ u.ats = { reclaimMin := s.ats.reclaimMin }) ∧
      u.cel.threshold = s.cel.threshold ∧ u.fuses = s.fuses ∧ u.pending = s.pending
    (s.flt.fatal ≠ none → refused 3) ∧
    (s.flt.fatal = none →
      ((s.glb.stage < 7 ∨ waiting tier) → refused 1) ∧
      (7 ≤ s.glb.stage → ¬ waiting tier →
        (tier = 1 → s.inField f = false → s.bel.acting = false → refused 2) ∧
        ((here ∨ s.bel.acting = true) →
          ((capsule = false ∨ s.resetCrofts tier f = []) → ∃ u, exec c s = .next u ∧ done u 0xFF) ∧
          (capsule = true → s.resetCrofts tier f ≠ [] → s.attic.failed = false → s.attic.writing = none →
            s.attic.waiting = none → ∃ u r, exec c s = .next u ∧ u.flt.rstState = 1 ∧ u.flt.rstWaiting = some (tier, f) ∧
            u.crf.halted = true ∧ u.attic.writing = some r ∧ r.cause = tier + 2 ∧ r.crofts = s.resetCrofts tier f ∧
            ∃ v, exec .capsuleDone u = .next v ∧ done v s.attic.nextCap))))

/-- R2, R362, R366, R373, R374, R379, R383, R385, R391, Tables 15-1 and 15-2. Choices of the model: log 62, 63, 69, 70, 271. -/
def Obligations.PowerUpRunsToStageFive : Prop :=
  ∀ (e : PowerEnv) (s : State), Wf.power e = true →
    let good : Prop := e.pllFault = none ∧ e.railFault = none ∧ e.fusesVote = true ∧ e.sramFault = none ∧ e.entropyOk = true
    let up (p : Straps) (boots : Nat) (u : State) : Prop :=
      u.glb.stage = 5 ∧ u.flt.fatal = none ∧ u.glb.straps = p ∧ u.glb.sampled = true ∧ u.bel.role = strapRole p ∧
      u.glb.grade = s.fuses.grade ∧ u.fuses.enrolled = s.fuses.enrolled ∧ u.fuses.keys = s.fuses.keys ∧
      u.cel.mem = [] ∧ u.img = {} ∧ u.fld = {} ∧ u.ats = {} ∧ u.rte.route = [] ∧ u.crf.running = false ∧
      (∀ t ∈ e.failedStacks, (u.tract t).fenced = true) ∧ (∀ n ∈ e.unlockedEngines, (u.engine n).fenced = true) ∧
      (∀ n ∈ e.darkEngines, (u.engine n).lostA = true ∧ (u.engine n).lostB = true) ∧
      (e.atticHeaderOk = false → u.attic.failed = true ∧ u.attic.boots = boots) ∧
      (e.atticHeaderOk = true → u.attic.failed = false ∧ u.attic.boots = (boots + 1) % 2 ^ 32 ∧
        ∃ r i, Tab.look none u.attic.resets i = some r ∧ r.kind = 4 ∧ r.boot = u.attic.boots ∧ u.flt.bootSeq = some r.seq)
    (s.glb.stage = 0 → s.flt.fatal = none →
      (good → ∃ u, exec (.powerUp e) s = .next u ∧ up e.straps s.attic.boots u ∧ u.pins.released = true) ∧
      (∀ n, e.pllFault = some n → ∃ u, exec (.powerUp e) s = .next u ∧ u.flt.fatal = some 0x0808) ∧
      (e.pllFault = none → e.railFault = none → e.fusesVote = false → ∃ u, exec (.powerUp e) s = .next u ∧
        u.flt.fatal = some 0x0809 ∧ u.glb.grade = 0) ∧
      (e.pllFault = none → e.railFault = none → e.fusesVote = true → e.entropyOk = true → e.sramFault ≠ none →
        ∃ u, exec (.powerUp e) s = .next u ∧ u.flt.fatal = some 0x0809)) ∧
    (s.glb.stage ≠ 0 → exec (.powerUp e) s = .next s) ∧
    (s.pins.pwrGood = false → exec .powerLoss s = .next s) ∧
    (s.pins.pwrGood = true → ∃ u, exec .powerLoss s = .next u ∧
      u = { State.reset with
              pending := s.pending, fuses := s.fuses, attic := u.attic, out := .dark :: s.out, draws := s.draws
              host := { l0 := false }, pins := { pwrGood := false, rails := s.pins.rails } } ∧
      u.attic.openRecs = [] ∧ u.attic.writing = none ∧ u.attic.waiting = none ∧ u.attic.boots = s.attic.boots ∧
      (s.attic.failed = false → ∃ r, Tab.look none u.attic.resets (s.attic.resetSeq % 1024) = some r ∧ r.kind = 5 ∧
        r.cause = 0 ∧ r.gtReq = s.bel.gt ∧ r.gtDone = 0)) ∧
    (2 ≤ s.glb.stage →
      (s.flt.fatal = none → s.glb.stage < 7 → exec (.coldReset e) s =
        .next { s with flt := { s.flt with rstTier := 3, rstState := 6, rstCode := 1 } }) ∧
      ((s.flt.fatal ≠ none ∨ (7 ≤ s.glb.stage ∧ s.flt.rstWaiting = none)) → good →
        ∃ u, exec (.coldReset e) s = .next u ∧ up s.glb.straps s.attic.boots u ∧ u.pins = s.pins ∧
          u.host.l0 = s.host.l0 ∧ .dark ∈ u.out ∧ u.flt.rstState = 0 ∧ u.attic.writing = none ∧
          (s.attic.failed = false → ∃ r, Tab.look none u.attic.resets (s.attic.resetSeq % 1024) = some r ∧ r.kind = 3 ∧
            r.cause = s.flt.lastSource ∧ r.gtReq = s.bel.gt ∧ r.gtDone = 0)))

/-- R36, R341, R357, R373 and chapter 4's table refresh. 10 ms is 3,125,000 GT. Choices of the model: log 71, 72, 79. -/
def Obligations.HostLinkResetsAlone : Prop :=
  (∀ (kind : HostResetKind) (s : State), s.glb.stage ≠ 0 →
    let perst : Prop := kind = .perst ∧ ∃ g, s.flt.perstGt = some g ∧ g + 3125000 ≤ s.bel.gt
    (((kind ≠ .perst ∧ s.host.l0 = true) ∨ perst) → ∃ u, exec (.hostLinkReset kind) s = .next u ∧
      u.host.l0 = (kind == .flr) ∧ u.host.table = [] ∧
      (∃ r ∈ u.attic.openRecs, r.source = 0x0305 ∧ r.unit = 120) ∧ u.flt.fatal = s.flt.fatal ∧ u.glb = s.glb ∧
      (s.attic.failed = false → ∃ r, Tab.look none u.attic.resets (s.attic.resetSeq % 1024) = some r ∧ r.kind = 6 ∧
        r.gtReq = s.bel.gt ∧ r.gtDone = (if kind = .flr then s.bel.gt else 0)) ∧
      (kind ≠ .flr → u.flt.hostSeq = some s.attic.resetSeq) ∧ ChangesOnly faultParts s u) ∧
    (kind = .perst → ∀ g, s.flt.perstGt = some g → s.bel.gt < g + 3125000 → exec (.hostLinkReset kind) s =
      .next { s with flt := { s.flt with inExcess := min 0xFFFFFFFF (s.flt.inExcess + 1) } }) ∧
    (kind ≠ .perst → s.host.l0 = false → exec (.hostLinkReset kind) s = .next s)) ∧
  (∀ s : State, s.glb.stage ≠ 0 → s.host.l0 = false → ∃ u, exec .hostLinkL0 s = .next u ∧ u.host.l0 = true ∧
    u.host.table = s.host.table ∧ u.flt.hostSeq = none ∧
    (∀ q r, s.flt.hostSeq = some q → s.attic.failed = false → Tab.look none s.attic.resets (q % 1024) = some r → r.seq = q →
      Tab.look none u.attic.resets (q % 1024) = some { r with gtDone := s.bel.gt, code := 0 }) ∧
    ChangesOnly [.host, .attic, .flt] s u) ∧
  (∀ (b : BitVec 16) (s : State),
    (s.glb.sampled = true → b ≠ 0 → ∃ u, exec (.strapChange b) s = .next u ∧
      u.glb = { s.glb with strapChg := true } ∧ (∃ r ∈ u.attic.openRecs, r.source = 0x0801 ∧ r.unit = 0x2F13) ∧
      (s.flt.cap.valid = false → u.flt.cap.addr = b.toNat) ∧ u.flt.fatal = s.flt.fatal ∧ ChangesOnly faultParts s u) ∧
    ((s.glb.sampled = false ∨ b = 0) → exec (.strapChange b) s = .next s)) ∧
  (∀ (table i : Nat) (s : State), table < 4 → i < 0x10000 →
    (s.flt.fatal = none → ∃ u, exec (.tableEntryRefresh table i) s = .next (settleCore u) ∧ (table, i) ∉ u.rte.bad ∧
      (∀ x ∈ s.rte.bad, x ≠ (table, i) → x ∈ u.rte.bad) ∧ ChangesOnly [.rte] s u) ∧
    (s.flt.fatal ≠ none → exec (.tableEntryRefresh table i) s = .next s))

/-- R380. The blocks, with their bases, ends and STAGE, are those of Table 16-2; the end of step 5 is STAGE 3. -/
def Obligations.UnreadyBlocksReadZero : Prop :=
  ∀ s : State, s.glb.stage ≠ 0 → s.flt.fatal = none →
    (s.host.l0 = true → ∀ b ∈ [(0x0000000, 0x00FFFFF, 2), (0x0100000, 0x01FFFFF, 2), (0x0200000, 0x02FFFFF, 5),
        (0x0300000, 0x03FFFFF, 5), (0x0400000, 0x04FFFFF, 5), (0x0500000, 0x05FFFFF, 5), (0x0600000, 0x06FFFFF, 4),
        (0x0700000, 0x07FFFFF, 4), (0x0800000, 0x08FFFFF, 4), (0x0900000, 0x09FFFFF, 4), (0x0A00000, 0x1AFFFFF, 3),
        (0x2000000, 0x20FFFFF, 3), (0x2100000, 0x21FFFFF, 5), (0x2200000, 0x22FFFFF, 5), (0x2300000, 0x23FFFFF, 2),
        (0x2400000, 0x24FFFFF, 2), (0x2500000, 0x25FFFFF, 2), (0x3F00000, 0x3F003FF, 2), (0x3F01000, 0x3F01007, 2)],
      s.glb.stage < b.2.2 → ∀ off : Nat, b.1 ≤ off → off ≤ b.2.1 → off % 4 = 0 →
        exec (.registerRead off) s = .next { s with out := .readDone off 0 :: s.out } ∧
        ∀ v : Word, exec (.registerWrite off v) s = .next
          (if (off = 0x2000000 ∧ 1 ≤ v.toNat % 8 ∧ v.toNat % 8 ≤ 4) ∨ (off = 0x2000030 ∧ 1 ≤ v.toNat % 4)
           then { s with img := { s.img with cmdLost := true } } else s)) ∧
    (s.glb.stage < 3 → ∀ body, ∀ c ∈ [Instr.verifyBase body, .verifyField body, .discard, .applyBase, .ckptSave, .ckptResume,
      .ckptCancel], exec c s = .next { s with img := { s.img with cmdLost := true } }) ∧
    (3 ≤ s.glb.stage → s.img.state = .idle → ∀ body,
      exec (.verifyBase body) s = .next { s with img := { s.img with
        state := .busy, checking := some (1, body), checkLen := s.img.len.toNat } } ∧
      exec (.verifyField body) s = .next { s with img := { s.img with
        state := .busy, checking := some (2, body), checkLen := s.img.len.toNat } })

/-- R339, R389, R400, R402, R403, R410, Table 16-3. Choices of the model: log 20, 21, 24, 30, 50. -/
def Obligations.RegistersKeepTheirRules : Prop :=
  ∀ s : State,
    let up : Prop := s.host.l0 = true ∧ s.glb.stage ≠ 0
    let readOnly (off v : Nat) : Prop := exec (.registerRead off) s = .next { s with out := .readDone off (BitVec.ofNat 32 v) :: s.out }
    (∀ off, off < 0x4000000 →
      ((s.host.l0 = false ∨ s.glb.stage = 0) → exec (.registerRead off) s = .next s ∧
        ∀ v, exec (.registerWrite off v) s = .next s) ∧
      (up → off % 4 ≠ 0 → exec (.registerRead off) s = .next { s with out := .unsupportedRequest :: s.out } ∧
        ∀ v, exec (.registerWrite off v) s = .next { s with out := .unsupportedRequest :: s.out }) ∧
      (up → off % 4 = 0 → ((0x1B00000 ≤ off ∧ off < 0x2000000) ∨ (0x2600000 ≤ off ∧ off < 0x3F00000) ∨
          (0x3F00400 ≤ off ∧ off < 0x3F01000) ∨ 0x3F01008 ≤ off) →
        readOnly off 0 ∧ ∀ v, exec (.registerWrite off v) s = .next s)) ∧
    (up → 2 ≤ s.glb.stage → ∀ v : Word,
      exec (.registerWrite 0x20 v) s = .next { s with glb := { s.glb with scratch := v } } ∧
      exec (.registerRead 0x20) { s with glb := { s.glb with scratch := v } } =
        .next { s with glb := { s.glb with scratch := v }, out := .readDone 0x20 v :: s.out } ∧
      (s.img.lock = true → s.glb.mgmtCtl ≠ v.setWidth 2 → exec (.registerWrite 0x100 v) s =
        .next { s with glb := { s.glb with lockRej := min 0xFFFFFFFF (s.glb.lockRej + 1) } }) ∧
      (s.img.lock = true → s.flt.reportCe ≠ v.getLsbD 0 → exec (.registerWrite 0x100090 v) s =
        .next { s with glb := { s.glb with lockRej := min 0xFFFFFFFF (s.glb.lockRej + 1) } }) ∧
      ((s.img.lock = false ∨ s.glb.mgmtCtl = v.setWidth 2) → exec (.registerWrite 0x100 v) s =
        .next { s with glb := { s.glb with mgmtCtl := v.setWidth 2 } }) ∧
      ((s.img.lock = false ∨ s.flt.reportCe = v.getLsbD 0) → exec (.registerWrite 0x100090 v) s =
        .next { s with flt := { s.flt with reportCe := v.getLsbD 0 } })) ∧
    (up → 5 ≤ s.glb.stage → s.flt.fatal = none → s.bel.gt < 2 ^ 64 →
      (∃ u, exec (.registerRead 0x200000) s = .next u ∧
        u.out = .readDone 0x200000 (BitVec.ofNat 32 (s.bel.gt % 2 ^ 32)) :: s.out ∧
        Tab.look none u.glb.hiLatch 0x200000 = some (BitVec.ofNat 32 (s.bel.gt / 2 ^ 32)) ∧
        (∀ r, r ≠ 0x200000 → Tab.look none u.glb.hiLatch r = Tab.look none s.glb.hiLatch r) ∧ ChangesOnly [.glb, .out] s u) ∧
      (∀ h, Tab.look none s.glb.hiLatch 0x200000 = some h → readOnly 0x200004 h.toNat) ∧
      (Tab.look none s.glb.hiLatch 0x200000 = none → readOnly 0x200004 (s.bel.gt / 2 ^ 32)) ∧
      ∀ b, b < 4 → let q := s.bellPort b
        q.stale < 2 ^ 8 → q.marks < 2 ^ 8 → q.frames < 2 ^ 16 →
        ∃ u, exec (.registerRead (0x200020 + 4 * b)) s = .next u ∧
          u.out = .readDone (0x200020 + 4 * b) (BitVec.ofNat 32 (q.stale * 2 ^ 24 + q.marks * 2 ^ 16 + q.frames)) :: s.out ∧
          u.bellPort b = { q with stale := 0, marks := 0, frames := 0 } ∧
          (∀ c, c ≠ b → u.bellPort c = s.bellPort c) ∧ ChangesOnly [.bel, .out] s u) ∧
    (up → 3 ≤ s.glb.stage → s.flt.fatal = none → s.flt.rstWaiting = none → ∀ k o, k < 4352 → o < 0x1000 → o % 4 = 0 → o ≠ 0 →
      (s.croft k).fused = true →
      let off := 0xA00000 + 0x1000 * k + o
      let logged (u : State) : Prop := (∃ r ∈ u.attic.openRecs, r.source = 0x080B ∧ r.unit = 0x1000 + k) ∧
        u.flt.fatal = none ∧ ChangesOnly faultParts s u
      (∃ u, exec (.registerRead off) s = .next u ∧ logged u ∧ u.out.head? = some (.readDone off 0)) ∧
      ∀ v, ∃ u, exec (.registerWrite off v) s = .next u ∧ logged u)

/-- R200, R217, R297, R339, R380, Table 13-7. Choices of the model: log 21, 47, 48, 49, 262. -/
def Obligations.WindowsOnBufferAndStacks : Prop :=
  ∀ (off : Nat) (s : State),
    let up : Prop := s.host.l0 = true ∧ s.glb.stage ≠ 0
    let t := s.glb.winTract
    let clean (n : Nat) : Prop := ∀ w ∈ wordsOf t off n, w ∉ s.cel.bad ∧ w ∉ s.cel.soft
    (∀ data : Bytes, off + data.length ≤ 0x10000000 →
      let takes : Prop := up ∧ s.flt.fatal = none ∧ 3 ≤ s.glb.stage ∧ s.img.atticWin = false ∧
        (s.img.state = .idle ∨ s.img.state = .fail)
      (takes → ∃ u, exec (.bar2Write off data) s = .next u ∧
        (∀ i b, data[i]? = some b → Memory.read u.img.buf (off + i) = b) ∧
        (∀ a, a < off ∨ off + data.length ≤ a → Memory.read u.img.buf a = Memory.read s.img.buf a) ∧
        ChangesOnly [.buf] s u) ∧
      (¬ takes → exec (.bar2Write off data) s = .next s)) ∧
    (∀ n, off + n ≤ 2 ^ 36 → up →
      let zeros : Prop := exec (.bar4Read off n) s = .next { s with out := .readBytes (List.replicate n 0) :: s.out }
      ((s.flt.fatal ≠ none ∨ s.glb.stage < 4 ∨ (s.tract t).fenced = true) → zeros) ∧
      (s.flt.fatal = none → 4 ≤ s.glb.stage → s.flt.rstWaiting = none → (s.tract t).fenced = false →
        let damaged : Prop := ∃ g, off / 65536 ≤ g ∧ g ≤ (off + n - 1) / 65536 ∧ s.inPool t g = true ∧ (s.page t g).damaged = true
        (clean n → ¬ damaged → ∃ b, exec (.bar4Read off n) s = .next { s with out := .readBytes b :: s.out } ∧ b.length = n ∧
          ∀ i, i < n → off + i < 0x40000000 ∨ 0x41000000 ≤ off + i →
            b.getD i 0 = Memory.read s.cel.mem (cellarAddr t off + i)) ∧
        ((damaged ∨ ∃ w ∈ wordsOf t off n, w ∈ s.cel.bad) → 0 < n → ∃ u, exec (.bar4Read off n) s = .next (settleCore u) ∧
          u.out.head? = some .completerAbort ∧ ChangesOnly ([.cel, .crf, .fld, .swc] ++ faultParts) s u))) ∧
    (∀ data : Bytes, off + data.length ≤ 2 ^ 36 → up → 4 ≤ s.glb.stage →
      (s.flt.fatal = none → s.flt.rstWaiting = none → (s.tract t).fenced = false → s.crf.running = false →
        0x44A0 * 65536 ≤ off → off + data.length ≤ firstUsable * 65536 → data ≠ [] → s.flt.armed = none → clean data.length →
        ∃ u, exec (.bar4Write off data) s = .next u ∧
          (∀ i b, data[i]? = some b → Memory.read u.cel.mem (cellarAddr t off + i) = b) ∧
          (∀ a, a < cellarAddr t off ∨ cellarAddr t off + data.length ≤ a →
            Memory.read u.cel.mem a = Memory.read s.cel.mem a) ∧
          (∀ v, u.tract v = s.tract v) ∧ ChangesOnly [.mem, .cel] s u) ∧
      (s.bar4Takes off data.length = false → exec (.bar4Write off data) s =
        .next { s with glb := { s.glb with wrRej := min 0xFFFF (s.glb.wrRej + 1) } }))

/-- R404-R407, Tables 16-4 and 16-5. Results: 0 OK, 1 DENIED, 2 BAD_OFFSET, 3 NO_ROUTE, 4 TIMEOUT. Choices of the model: log 4, 54, 55, 56, 57. -/
def Obligations.MailboxAsksAndAnswers : Prop :=
  (∀ (c : Instr) (wr : Bool) (s : State), (c = .mailboxRead ∧ wr = false) ∨ (c = .mailboxWrite ∧ wr = true) →
    s.host.l0 = true → 2 ≤ s.glb.stage →
    let t := s.glb.mgmtTarget.toNat
    let near : Prop := t / 4096 = s.devIndex / 4096 ∧ (t / 512) % 8 = (s.devIndex / 512) % 8
    (s.glb.mgmtState = 1 → exec c s = .next { s with glb := { s.glb with mgmtWrite := wr } }) ∧
    (s.glb.mgmtState ≠ 1 → s.devIndex < 16384 →
      (¬ near → exec c s = .next { s with glb := { s.glb with mgmtWrite := wr, mgmtState := 3, mgmtResult := 3 } }) ∧
      (near → s.flt.fatal = none → ∃ u p, exec c s = .next (settleCore (inject 120 p u)) ∧
        u = { s with glb := { s.glb with
          mgmtWrite := wr, mgmtTag := s.glb.mgmtTag + 1, mgmtState := 1, mgmtResult := 0, mgmtGt := s.bel.gt } } ∧
        p.cls = 0 ∧ p.ptype = (if wr then 4 else 3) ∧ p.tsw0.toNat = (s.glb.mgmtTag + 1).toNat ∧
        p.dst.toNat = 0xF0000 + t ∧ slice p.payload 0 4 = beBytes 4 s.glb.mgmtOff.toNat ∧
        p.payload.length = (if wr then 8 + 4 * (s.glb.mgmtCount.toNat + 1) else 8)))) ∧
  (∀ s : State, (s.glb.mgmtState = 1 → ∃ u, exec .mailboxTimeout s = .next u ∧
      u.glb.mgmtState = 3 ∧ u.glb.mgmtResult = 4 ∧ u.glb.mgmtTag = s.glb.mgmtTag ∧ u.glb.mgmtData = s.glb.mgmtData ∧
      u.bel.gt = (advanceTo (s.glb.mgmtGt + 312500) s).bel.gt ∧ ChangesOnly timeParts s u) ∧
    (s.glb.mgmtState ≠ 1 → exec .mailboxTimeout s = .next s)) ∧
  (∀ (p : Packet) (s : State), Wf.packet p = true → s.flt.fatal = none → p.cls = 0 →
    (p.ptype = 5 →
      let mine : Prop := s.glb.mgmtState = 1 ∧ p.tsw0.toNat % 65536 = s.glb.mgmtTag.toNat
      (¬ mine → exec (.mgmtRsp p) s = .next (takeInbox p s)) ∧
      (mine → beAt p.payload 0 1 ≠ 0 → exec (.mgmtRsp p) s = .next ((takeInbox p s).modGlb (fun g =>
        { g with mgmtState := 3, mgmtResult := beAt p.payload 0 1 }))) ∧
      (mine → beAt p.payload 0 1 = 0 → ∃ u, exec (.mgmtRsp p) s = .next u ∧ u.glb.mgmtState = 2 ∧ u.glb.mgmtResult = 0 ∧
        (∀ i, i < 256 → 12 + 4 * i ≤ p.payload.length →
          Tab.look 0 u.glb.mgmtData i = BitVec.ofNat 32 (beAt p.payload (8 + 4 * i) 4)) ∧ ChangesOnly [.glb, .inbox] s u)) ∧
    (∀ (wr : Bool) (c : Instr), ((c = .mgmtRd p ∧ wr = false) ∨ (c = .mgmtWr p ∧ wr = true)) → p.ptype = (if wr then 4 else 3) →
      let r := parseMgmt p
      let s₁ := takeInbox p s
      let answer (res : Nat) (data : Bytes) (u : State) : State := settleCore (inject 120
        (u.mgmtPacket (p.src.toNat % 16384) 5 (p.tsw0.toNat % 65536) (beBytes 1 res ++ [0, 0, 0] ++ beBytes 4 r.offset ++ data)) u)
      let guarded (o : Nat) : Prop := (0x100 ≤ o ∧ o < 0x110) ∨ (0x400 ≤ o ∧ o < 0x800) ∨ (0x2000000 ≤ o ∧ o < 0x2100000) ∨
        (0x2400000 ≤ o ∧ o < 0x2500000) ∨ (0x3F00000 ≤ o ∧ o < 0x3F01008)
      (r.formed wr p = false → exec c s = .next s₁) ∧
      (r.formed wr p = true →
        (0x4000000 < r.offset + 4 * r.count → exec c s = .next (answer 2 [] s₁)) ∧
        (r.offset + 4 * r.count ≤ 0x4000000 →
          (wr = false → (s.glb.mgmtCtl.getLsbD 1 = false → exec c s = .next (answer 1 [] s₁)) ∧
            (s.glb.mgmtCtl.getLsbD 1 = true → (mgmtReads r.offset r.count s₁).1.length = r.count ∧
              ((mgmtReads r.offset r.count s₁).2.flt.fatal = none → exec c s = .next (answer 0
                ((mgmtReads r.offset r.count s₁).1.flatMap (beBytes 4)) (mgmtReads r.offset r.count s₁).2)))) ∧
          (wr = true →
            ((s.glb.mgmtCtl.getLsbD 0 = false ∨ ∃ i, i < r.count ∧ guarded (r.offset + 4 * i)) →
              exec c s = .next (answer 1 [] s₁)) ∧
            (s.glb.mgmtCtl.getLsbD 0 = true → (∀ i, i < r.count → ¬ guarded (r.offset + 4 * i)) →
              let u := mgmtWrites r.offset r.words s₁
              (u.flt.fatal = none → exec c s = .next (answer 0 [] u)) ∧ (u.flt.fatal ≠ none → exec c s = .next u)))))))

/-- R386, R394-R396, Tables 15-7 to 15-9. Codes: 1 BUFFER_BUSY, 2 FORMAT, 3 SIGNATURE, 4 and 5 slots, 6 LAST_SLOT, 7 DEVICE,
8 NOT_ALLOWED, 9 PROGRAM_FAIL. Whether a slot passes its check after programming is free. Choices of the model: log 11, 58, 59, 60. -/
def Obligations.ReportsAndKeyOperations : Prop :=
  ∀ s : State, 2 ≤ s.glb.stage →
    (s.glb.stage < 4 → exec .attest s = .next { s with sec := { s.sec with cmd := 1, state := 3, code := 8 } }) ∧
    (4 ≤ s.glb.stage → ∃ r : Bytes, exec .attest s =
        .next { (s.drawBytes 32).2 with sec := { s.sec with cmd := 1, state := 2, code := 0, report := r } } ∧ r.length = 3680 ∧
      slice r 0 8 = beBytes 4 0x41545354 ++ beBytes 2 1 ++ beBytes 2 3680 ∧ slice r 8 32 = s.sec.nonceBytes ∧
      slice r 40 8 = beBytes 8 s.bel.gt ∧ slice r 52 2 = beBytes 2 s.devIndex ∧ slice r 54 1 = beBytes 1 s.glb.grade ∧
      slice r 368 3309 = slice (mldsaSign s.seed (digest (slice r 0 368)) (s.drawBytes 32).1) 0 3309) ∧
    (∀ c ∈ [Instr.enroll, .revoke],
      let ends (code : Nat) : Prop := exec c s = .next { s with sec := { s.sec with cmd := 2, state := 3, code := code } }
      let r := s.keyRecord
      let slotUsed (i : Nat) : Bool := s.fuses.enrolled.getLsbD i && !s.fuses.revoked.getLsbD i
      let device : Prop := (∀ x ∈ r.device, x = 0) ∨ r.device = slice (digest s.sec.pubkey) 0 64
      let signed : Prop := mldsaVerify (s.fuses.keys.getD r.auth []) (digest (slice r.bytes 0 2032))
        (slice r.bytes 2032 3309) = true
      ((s.glb.stage < 3 ∨ s.flt.fatal ≠ none) → ends 8) ∧
      (3 ≤ s.glb.stage → s.flt.fatal = none →
        ((s.img.state = .busy ∨ s.img.state = .staged) → ends 1) ∧
        ((s.img.state = .idle ∨ s.img.state = .fail) →
          (r.formed s.img.len.toNat = false → ends 2) ∧
          (r.formed s.img.len.toNat = true →
            (s.keyUsable r.auth = false → ends 5) ∧
            (s.keyUsable r.auth = true → (¬ device → ends 7) ∧ (device → ¬ signed → ends 3) ∧
              (device → signed →
                (r.op = 1 → (r.target = 0 ∨ s.fuses.enrolled.getLsbD r.target = true ∨ s.fuses.revoked.getLsbD r.target = true) →
                  ends 4) ∧
                (r.op = 1 → r.target ≠ 0 → s.fuses.enrolled.getLsbD r.target = false →
                  s.fuses.revoked.getLsbD r.target = false → s.fuses.keys.length = 4 → ∃ u, exec c s = .next u ∧
                  ((u.sec.state = 2 ∧ u.fuses.keys.getD r.target [] = r.key ∧ u.fuses.enrolled.getLsbD r.target = true ∧
                      u.fuses.revoked = s.fuses.revoked) ∨
                    (u.sec.state = 3 ∧ u.sec.code = 9 ∧ u.fuses.revoked.getLsbD r.target = true ∧
                      u.fuses.enrolled = s.fuses.enrolled)) ∧
                  (∀ i, i ≠ r.target → u.fuses.keys.getD i [] = s.fuses.keys.getD i []) ∧
                  ChangesOnly [.sec, .fuses, .draws] s u) ∧
                (r.op = 2 → slotUsed r.target = false → ∃ u, exec c s = .next u ∧ u.sec.state = 3 ∧ 1 ≤ u.sec.code ∧
                  ChangesOnly [.sec, .draws] s u) ∧
                (r.op = 2 → slotUsed r.target = true → (∀ i, i < 4 → i ≠ r.target → s.keyUsable i = false) → ends 6) ∧
                (r.op = 2 → slotUsed r.target = true → (∃ i, i < 4 ∧ i ≠ r.target ∧ s.keyUsable i = true) →
                  exec c s = .next { s with
                    sec := { s.sec with cmd := 2, state := 2, code := 0 }
                    fuses := { s.fuses with revoked := s.fuses.revoked ||| (1#4 <<< r.target) } })))))))

/-- R423, Table 17-7, R424. The words for the power and the rails are free values (log 52); what a scan instruction shifts out is
free, and that HIGHZ and CLAMP select the bypass register is the model's choice (log 87). -/
def Obligations.ManagementPinsAnswer : Prop :=
  ((∀ s : State, s.glb.stage ≠ 0 →
      exec .smbStatus s = .next { s with out := .smbWord (BitVec.ofNat 16 (s.glb.stage * 4096 +
        (if s.flt.fatal.isSome then 2048 else 0) + (if s.thm.trip then 1024 else 0) + s.thm.level)) :: s.out } ∧
      (∃ w : BitVec 16, exec .smbJuncTemp s = .next { s with out := .smbWord w :: s.out } ∧
        (∃ i : Nat, (i ≤ 8 ∨ (41 ≤ i ∧ i ≤ 56)) ∧ w = (s.temp i).cur) ∧
        (∀ i : Nat, (i ≤ 8 ∨ (41 ≤ i ∧ i ≤ 56)) → (s.temp i).cur.toInt ≤ w.toInt)) ∧
      (∃ w : BitVec 16, exec .smbHbmTemp s = .next { s with out := .smbWord w :: s.out } ∧
        (∃ i : Nat, 9 ≤ i ∧ i ≤ 40 ∧ w = (s.temp i).cur) ∧
        (∀ i : Nat, 9 ≤ i → i ≤ 40 → (s.temp i).cur.toInt ≤ w.toInt)) ∧
      (∃ v : BitVec 12, exec .smbPower s =
        .next { s with thm := { s.thm with power := v }, draws := s.draws + 1, out := .smbWord (v.setWidth 16) :: s.out }) ∧
      exec .smbDevIndex s = .next { s with out := .smbWord (BitVec.ofNat 16 s.devIndex) :: s.out } ∧
      exec .smbVid s = .next { s with out := .smbWord (BitVec.ofNat 16 s.pins.vid) :: s.out } ∧
      ∀ r : Nat, r < 7 → ∃ v : BitVec 16, exec (.smbRailMv r) s = .next { s with
        pins := { s.pins with rails := Tab.put 0 s.pins.rails r v }, draws := s.draws + 1, out := .smbWord v :: s.out }) ∧
    (∀ (s : State) (c : Instr), s.glb.stage = 0 →
      (c ∈ [.smbStatus, .smbJuncTemp, .smbHbmTemp, .smbPower, .smbDevIndex, .smbVid] ∨ ∃ r, r < 7 ∧ c = .smbRailMv r) →
      exec c s = .next { s with out := .smbNack :: s.out })) ∧
  (∀ s : State,
      exec .jtagBypass s = .next { s with pins := { s.pins with jtagIr := 0 }, out := .jtag 0 0 :: s.out } ∧
      (∃ w : Word, exec .jtagIdcode s = .next { s with pins := { s.pins with jtagIr := 1 }, out := .jtag 1 w :: s.out } ∧
        w.toNat % 2 ^ 28 = 0x096056B ∧ w.toNat / 2 ^ 28 = s.fuses.dieRev % 16) ∧
      (s.glb.stage = 0 →
        (∃ w : Word, exec .jtagSamplePreload s =
          .next { s with pins := { s.pins with jtagIr := 2 }, out := .jtag 2 w :: s.out, draws := s.draws + 1 }) ∧
        (∃ w : Word, exec .jtagExtest s =
          .next { s with pins := { s.pins with jtagIr := 3 }, out := .jtag 3 w :: s.out, draws := s.draws + 1 }) ∧
        exec .jtagHighz s = .next { s with pins := { s.pins with jtagIr := 4 }, out := .jtag 4 0 :: s.out } ∧
        exec .jtagClamp s = .next { s with pins := { s.pins with jtagIr := 5 }, out := .jtag 5 0 :: s.out }) ∧
      (s.glb.stage ≠ 0 → ∀ c ∈ [Instr.jtagSamplePreload, .jtagExtest, .jtagHighz, .jtagClamp],
        exec c s = exec .jtagBypass s))

/-- R431 and Table 16-10. `u` is the state at the mark with the sensors read. Choices of the model: log 3, 85. -/
def Obligations.ThrottleLevelFollowsSensors : Prop :=
  (∀ (rs : List (Nat × BitVec 16)) (s : State), rs.all (fun r => Wf.sensor r.1) → s.glb.stage ≠ 0 →
    let u := rs.foldl (fun s r => sense r.1 r.2 s) (advanceTo (s.markAt s.bel.gt) s)
    ∃ t, exec (.throttleEval rs) s = .next t ∧
      (∃ w : Nat, (∀ i < 57, u.wants i ≤ w) ∧ (w = 0 ∨ ∃ i < 57, u.wants i = w) ∧
        (t.thm.level, t.thm.quiet) =
          if u.thm.level < w then (w, 0)
          else if 0 < u.thm.level ∧ u.quietNow u.thm.level then
            (if u.thm.quiet + 1 = 16 then (u.thm.level - 1, 0) else (u.thm.level, u.thm.quiet + 1))
          else (u.thm.level, 0)) ∧
      t.thm.temps = u.thm.temps ∧ t.thm.throttled = u.thm.throttled ∧
      t = { u with thm := t.thm, flt := t.flt, attic := t.attic, bel := t.bel, bln := t.bln, host := t.host, out := t.out } ∧
      t.bel.gt = u.bel.gt ∧ t.flt.fatal = s.flt.fatal) ∧
  (∀ s : State, 2 ≤ s.glb.stage → ∃ t, exec .thmPeakClear s = .next t ∧
    (∀ i < 57, (t.temp i).peak = (s.temp i).cur) ∧ (∀ i : Nat, (t.temp i).cur = (s.temp i).cur) ∧
    (∀ i : Nat, 57 ≤ i → t.temp i = s.temp i) ∧ t = { s with thm := { s.thm with temps := t.thm.temps } })

/-- R352, R418, R421, R433. Choices of the model: log 83, 86. -/
def Obligations.PowerFaultsAreFatal : Prop :=
  ∀ (c : Instr) (src : Nat) (s : State),
    ((∃ i v, c = .thermalTrip i v ∧ i < 57 ∧ (if 9 ≤ i ∧ i ≤ 40 then 98 else 108) * 8 ≤ v.toInt ∧ src = 0x0806) ∨
     (∃ r mv, c = .railOutOfRange r mv ∧ r < 7 ∧ mv < 0x10000 ∧ s.pins.pwrGood = true ∧ src = 0x0807) ∨
     (∃ p, c = .pllLockLost p ∧ s.glb.stage ≠ 0 ∧ src = 0x0808)) →
    ∃ t, exec c s = .next t ∧ t.flt.fatal = some (s.flt.fatal.getD src) ∧
      (s.flt.fatal = none → t.glb.stage = 8 ∧ t.glb.elapsedStop.isSome) ∧
      t.flt.cntFt = min 0xFFFFFFFF (s.flt.cntFt + 1) ∧ t.flt.cntUc = s.flt.cntUc ∧ t.flt.cntCe = s.flt.cntCe ∧
      (∃ r ∈ t.attic.openRecs, r.source = src) ∧
      (∀ i v, c = .thermalTrip i v → (t.temp i).cur = v) ∧
      (∀ r mv, c = .railOutOfRange r mv → Tab.look 0 t.pins.rails r = BitVec.ofNat 16 mv) ∧
      (t.thm = s.thm ∨ ∃ i v, c = .thermalTrip i v ∧
        t.thm = { s.thm with trip := true, temps := Tab.put {} s.thm.temps i (t.temp i) }) ∧
      (t.pins = s.pins ∨ ∃ r mv, c = .railOutOfRange r mv ∧
        t.pins = { s.pins with rails := Tab.put 0 s.pins.rails r (BitVec.ofNat 16 mv) }) ∧
      (t.pending, t.fuses, t.shapers, t.gates, t.swc, t.rte) = (s.pending, s.fuses, s.shapers, s.gates, s.swc, s.rte) ∧
      (t.fld, t.cel, t.ats, t.crf, t.img, t.lnk, t.sec, t.draws) =
        (s.fld, s.cel, s.ats, s.crf, s.img, s.lnk, s.sec, s.draws)

/-- R417: 10 ms are 3,125,000 GT. Choices of the model: log 3, 84. -/
def Obligations.VidMovesOneStepAtATime : Prop :=
  (∀ (n : Nat) (s : State), n ≤ 28 → s.glb.stage ≠ 0 → s.flt.fatal = none → s.pins.vid ≠ 31 →
    (n + 1 = s.pins.vid ∨ n = s.pins.vid + 1) →
    let l := match s.pins.vidGt with | some g => g + 3125000 | none => 0
    exec (.vidStep n) s = .next ((advanceTo l s).modPins (fun p => { p with vid := n, vidGt := some (advanceTo l s).bel.gt }))) ∧
  (∀ (n : Nat) (s : State), n ≤ 28 → (s.flt.fatal ≠ none ∨ (n + 1 ≠ s.pins.vid ∧ n ≠ s.pins.vid + 1)) →
    exec (.vidStep n) s = .next s)

/-- R37. Service EIDs are those of R41. -/
def Obligations.PositionComesFromTheStraps : Prop :=
  (∀ (e : PowerEnv) (s : State), Wf.power e = true → s.glb.stage = 0 → s.flt.fatal = none →
    ∃ (t : State) (x y plane : Nat), exec (.powerUp e) s = .next t ∧ t.glb.straps = e.straps ∧
      x = e.straps.padX ∧ y = 2 * e.straps.padY + e.straps.slot % 2 ∧ plane = e.straps.slot / 2 ∧
      t.devIndex = e.straps.range * 4096 + plane * 512 + y * 16 + x ∧ t.devIndex < 2 ^ 14 ∧
      meshX t.devIndex = x ∧ meshY t.devIndex = y ∧ rangeOf t.devIndex = e.straps.range ∧
      (∀ (dst ptype cls tag pos chunk pkt part stepLo : Nat) (node : Bool),
        (t.foldHeader dst ptype cls tag pos chunk pkt part node stepLo).src = BitVec.ofNat 20 (0xF0000 + t.devIndex)) ∧
      (∀ (key : MsgKey) (hdr : Packet) (r : Reply) (tick : Nat), ∀ p ∈ t.replyPackets key hdr r tick,
        p.src = BitVec.ofNat 20 (0xF4000 + t.devIndex))) ∧
  (∀ p q : Straps, Wf.straps p = true → Wf.straps q = true → strapIndex p = strapIndex q →
    p.range = q.range ∧ p.padX = q.padX ∧ p.padY = q.padY ∧ p.slot = q.slot)

/-- The block's step, and State.reset. That an empty queue lets one GT pass and fills a slot, that an ill-formed command stops, and the
reset state itself (before power-up) are the model's choices: log 1, 2, 6, 15 to 19, 257. -/
def Obligations.StepsTakeTheFrontCommand : Prop :=
  (∀ (c : Instr) (rest : List Instr) (s : State), step { s with pending := c :: rest } = exec c { s with pending := rest }) ∧
  (∀ s : State, s.pending = [] → ∃ t, step s = .next t ∧ t = slotTime (advance 1 s) ∧ ChangesOnly [.swc, .out] (advance 1 s) t ∧
    ∀ n, n < 64 → s.lit n = true → (s.optPort n).tstate ≠ .off → (s.optPort n).tstate ≠ .test →
      (s.link n).slotFlits.length < 5 → (t.link n).slotFlits = [] ∧ (t.link n).unacked = (s.link n).unacked) ∧
  (∀ (n : Nat) (s : State), (s.glb.stage = 0 → advance n s = s) ∧
    (s.glb.stage ≠ 0 → (advance n s).bel.gt = (s.bel.gt + n) % 2 ^ 64)) ∧
  (State.reset.pending = [] ∧ State.reset.glb.stage = 0 ∧ State.reset.flt.fatal = none ∧ State.reset.attic.openRecs = [] ∧
    State.reset.cel.mem = [] ∧ State.reset.img.buf = [] ∧ State.reset.memWf = true ∧
    (∀ n, (State.reset.optPort n).tstate = .off) ∧ ∀ b, (State.reset.bellPort b).recent = []) ∧
  (∀ (c : Instr) (s : State), (c.wf = false → exec c s = .fault .noSuchUnit) ∧ (c.wf = true → ∃ t, exec c s = .next t))

/-- R352, R363, R386. Fuses are never reprogrammed; the fatal state ends by cold reset or loss of power. Choices of the model: log 60, 62. -/
def Obligations.EveryCommandKeepsTheInvariants : Prop :=
  (∀ (c : Instr) (s t : State), exec c s = .next t →
    t.pending = s.pending ∧ (s.memWf = true → t.memWf = true) ∧
    (∀ i, (s.fuses.enrolled.getLsbD i = true → t.fuses.enrolled.getLsbD i = true) ∧
      (s.fuses.revoked.getLsbD i = true → t.fuses.revoked.getLsbD i = true)) ∧
    (s.fuses.markA = true → t.fuses.markA = true ∧ t.fuses.seedA = s.fuses.seedA) ∧
    (s.fuses.markB = true → t.fuses.markB = true ∧ t.fuses.seedB = s.fuses.seedB) ∧
    t.fuses.grade = s.fuses.grade ∧ t.fuses.serial = s.fuses.serial ∧ t.fuses.fp64 = s.fuses.fp64 ∧
    t.fuses.threePass = s.fuses.threePass ∧ t.fuses.fusedOff = s.fuses.fusedOff ∧
    (s.flt.fatal ≠ none → c ≠ .powerLoss → (∀ e, c ≠ .coldReset e) → (∀ v, c ≠ .registerWrite 0x100080 v) →
      t.flt.fatal = s.flt.fatal)) ∧
  (∀ s t : State, step s = .next t → s.memWf = true → t.memWf = true)

end
end

