-- ==== Sys2Proof/Laws/Bytes.lean ====
section
/-! SUPPORT. Laws/Bytes.lean: byte strings: lengths, what a number's bytes spell, slices; CRCs stay within their
width; a sealed packet passes its end-to-end check. -/

namespace Sys2Proof.Machine

@[simp] theorem length_beBytes (n v : Nat) : (beBytes n v).length = n := by simp [beBytes]
@[simp] theorem length_leBytes (n v : Nat) : (leBytes n v).length = n := by simp [leBytes]

@[simp] theorem length_slice (bs : Bytes) (off n : Nat) : (slice bs off n).length = n := by
  simp [slice]

/-- A slice inside a string is a run of it. -/
theorem slice_of_le (bs : Bytes) (off n : Nat) (h : off + n ≤ bs.length) : slice bs off n = (bs.drop off).take n := by
  simp [slice]; omega

/-- A slice of the first of two strings. -/
theorem slice_append_left (a b : Bytes) (off n : Nat) (h : off + n ≤ a.length) : slice (a ++ b) off n = slice a off n := by
  rw [slice_of_le _ _ _ (by simp; omega), slice_of_le _ _ _ h, List.drop_append_of_le_length (by omega),
    List.take_append_of_le_length (by simp; omega)]

/-- A slice beyond the first of two strings. -/
theorem slice_append_right (a b : Bytes) (off n : Nat) (h : a.length ≤ off) : slice (a ++ b) off n = slice b (off - a.length) n := by
  have e : (a ++ b).drop off = b.drop (off - a.length) := by
    rw [List.drop_append, List.drop_eq_nil_of_le h, List.nil_append]
  simp [slice, e]

@[simp] theorem slice_beBytes (n v : Nat) : slice (beBytes n v) 0 n = beBytes n v := by
  rw [slice_of_le _ _ _ (by simp)]; simp [List.take_of_length_le]

theorem beNat_append (a b : Bytes) : beNat (a ++ b) = beNat a * 256 ^ b.length + beNat b := by
  have h : ∀ (b : Bytes) (n : Nat), b.foldl (fun n x => n * 256 + x.toNat) n = n * 256 ^ b.length + b.foldl (fun n x => n * 256 + x.toNat) 0 := by
    intro b
    induction b with
    | nil => simp
    | cons x r ih =>
      intro n
      simp only [List.foldl_cons, List.length_cons]
      rw [ih, ih (0 * 256 + x.toNat)]
      ring
  simp only [beNat, List.foldl_append]
  exact h b _

theorem beNat_lt (bs : Bytes) : beNat bs < 256 ^ bs.length := by
  induction bs using List.reverseRecOn with
  | nil => simp [beNat]
  | append_singleton r x ih =>
    rw [beNat_append]
    have hx : beNat [x] = x.toNat := by simp [beNat]
    have := x.isLt
    simp only [hx, List.length_append, List.length_singleton, pow_succ]
    omega

/-- The bytes of a number spell it, up to their width. -/
@[simp] theorem beNat_beBytes (n v : Nat) : beNat (beBytes n v) = v % 256 ^ n := by
  induction n generalizing v with
  | zero => simp [beBytes, beNat, Nat.mod_one]
  | succ n ih =>
    have e : beBytes (n + 1) v = beBytes n (v >>> 8) ++ [BitVec.ofNat 8 v] := by
      simp only [beBytes, List.range_succ, List.map_append, List.map_cons, List.map_nil]
      congr 1
      · refine List.map_congr_left fun i hi => ?_
        have := List.mem_range.1 hi
        rw [← Nat.shiftRight_add]
        congr 2
        omega
      · simp
    rw [e, beNat_append, ih]
    have h8 : v >>> 8 = v / 256 := by simp [Nat.shiftRight_eq_div_pow]
    have hx : beNat [BitVec.ofNat 8 v] = v % 256 := by simp [beNat]
    rw [hx, h8]
    simp only [List.length_singleton, pow_succ]
    rw [Nat.mul_comm (256 ^ n) 256, Nat.mod_mul]
    ring

/-- A number written at the front of a string is read back. -/
theorem beAt_append_beBytes (n v : Nat) (r : Bytes) : beAt (beBytes n v ++ r) 0 n = v % 256 ^ n := by
  rw [beAt, slice_append_left _ _ _ _ (by simp), slice_beBytes, beNat_beBytes]

/-! ## CRCs -/

theorem crcBit_lt {w poly c : Nat} (b : Bool) (hp : poly < 2 ^ w) : crcBit w poly c b < 2 ^ w := by
  unfold crcBit
  have h := Nat.mod_lt (c * 2) (Nat.two_pow_pos w)
  dsimp only
  split
  · exact Nat.xor_lt_two_pow h hp
  · exact h

theorem crcByte_lt {w poly c : Nat} (b : Byte) (hp : poly < 2 ^ w) : crcByte w poly c b < 2 ^ w := by
  simp only [crcByte, List.foldl_cons, List.foldl_nil]
  exact crcBit_lt _ hp

theorem crc_lt {w poly init fin : Nat} (bs : Bytes) (hp : poly < 2 ^ w) (hi : init < 2 ^ w) (hf : fin < 2 ^ w) :
    crc w poly init fin bs < 2 ^ w := by
  refine Nat.xor_lt_two_pow ?_ hf
  induction bs using List.reverseRecOn with
  | nil => exact hi
  | append_singleton r x ih => simpa using crcByte_lt x hp

theorem crc32c_lt (bs : Bytes) : crc32c bs < 2 ^ 32 := crc_lt bs (by decide) (by decide) (by decide)
theorem linkCrc_lt (bs : Bytes) : linkCrc bs < 2 ^ 32 := crc_lt bs (by decide) (by decide) (by decide)

/-- A sealed packet passes its end-to-end check. -/
theorem packetCrc_sealPacket (p : Packet) (payload : Bytes) :
    packetCrc (sealPacket p payload) (sealPacket p payload).payload = (sealPacket p payload).crc := rfl

theorem sealPacket_payload (p : Packet) (payload : Bytes) : (sealPacket p payload).payload = payload := rfl

/-- A sealed packet of less than 8,192 bytes has its LENGTH. -/
theorem wf_sealPacket (p : Packet) (payload : Bytes) (h : payload.length < 8192) : Wf.packet (sealPacket p payload) = true := by
  simp [Wf.packet, sealPacket]
  omega

end Sys2Proof.Machine
end

