-- ==== Sys2Proof/Laws/Tab.lean ====
section
/-! SUPPORT. Laws/Tab.lean: tables read back what was put, keep every other entry, and keep their canonical form. -/

namespace Sys2Proof.Machine

variable {α : Type}

@[simp] theorem Tab.look_nil (d : α) (k : Nat) : Tab.look d ([] : Tab α) k = d := rfl

theorem Tab.look_drop (d : α) (k : Nat) (t : Tab α) (j : Nat) :
    Tab.look d (Tab.drop k t) j = if j = k then d else Tab.look d t j := by
  induction t with
  | nil => simp [Tab.drop, Tab.look]
  | cons e r ih => grind [Tab.drop, Tab.look]

theorem Tab.look_add (d : α) (k : Nat) (v : α) (t : Tab α) (j : Nat) :
    Tab.look d (Tab.add k v t) j = if j = k then v else Tab.look d t j := by
  induction t with
  | nil => simp [Tab.add, Tab.look, eq_comm]
  | cons e r ih => grind [Tab.add, Tab.look]

theorem Tab.look_put [DecidableEq α] (d : α) (t : Tab α) (k : Nat) (v : α) (j : Nat) :
    Tab.look d (Tab.put d t k v) j = if j = k then v else Tab.look d t j := by
  unfold Tab.put
  split
  · rw [Tab.look_drop]; simp_all
  · rw [Tab.look_add]

@[simp] theorem Tab.look_put_self [DecidableEq α] (d : α) (t : Tab α) (k : Nat) (v : α) :
    Tab.look d (Tab.put d t k v) k = v := by simp [Tab.look_put]

theorem Tab.look_edit [DecidableEq α] (d : α) (t : Tab α) (k : Nat) (f : α → α) (j : Nat) :
    Tab.look d (Tab.edit d t k f) j = if j = k then f (Tab.look d t k) else Tab.look d t j := by
  simp [Tab.edit, Tab.look_put]

@[simp] theorem Tab.look_edit_self [DecidableEq α] (d : α) (t : Tab α) (k : Nat) (f : α → α) :
    Tab.look d (Tab.edit d t k f) k = f (Tab.look d t k) := by simp [Tab.look_edit]

theorem Tab.look_edit_of_ne [DecidableEq α] (d : α) (t : Tab α) (k : Nat) (f : α → α) (j : Nat) (h : j ≠ k) :
    Tab.look d (Tab.edit d t k f) j = Tab.look d t j := by simp [Tab.look_edit, h]

/-! ## The canonical form -/

/-- Every number that is listed after a drop or an addition was listed, or is the one added. -/
theorem Tab.mem_drop {k : Nat} {t : Tab α} {e : Nat × α} (h : e ∈ Tab.drop k t) : e ∈ t := by
  induction t with
  | nil => simp [Tab.drop] at h
  | cons x r ih =>
    obtain ⟨i, v⟩ := x
    simp only [Tab.drop] at h
    split at h
    · exact List.mem_cons_of_mem _ (ih h)
    · rcases List.mem_cons.1 h with h | h
      · simp [h]
      · exact List.mem_cons_of_mem _ (ih h)

theorem Tab.mem_add {k : Nat} {v : α} {t : Tab α} {e : Nat × α} (h : e ∈ Tab.add k v t) : e = (k, v) ∨ e ∈ t := by
  induction t with
  | nil => simpa [Tab.add] using h
  | cons x r ih =>
    obtain ⟨i, w⟩ := x
    simp only [Tab.add] at h
    split at h
    · simpa using h
    · split at h
      · rcases List.mem_cons.1 h with h | h
        · exact .inl h
        · exact .inr (List.mem_cons_of_mem _ h)
      · rcases List.mem_cons.1 h with h | h
        · exact .inr (by simp [h])
        · exact (ih h).imp id (List.mem_cons_of_mem _)

/-- A number below every listed one reads as the default. -/
theorem Tab.look_of_lt {d : α} {t : Tab α} {j : Nat} (h : ∀ e ∈ t, j < e.1) : Tab.look d t j = d := by
  induction t with
  | nil => rfl
  | cons x r ih =>
    obtain ⟨i, v⟩ := x
    have := h (i, v) (by simp)
    simp only at this
    rw [Tab.look, if_neg (by omega)]
    exact ih fun e he => h e (List.mem_cons_of_mem _ he)

variable [DecidableEq α]

theorem Tab.wf_cons {d : α} {k : Nat} {v : α} {r : Tab α} :
    Tab.wf d ((k, v) :: r) = true ↔ v ≠ d ∧ (∀ e ∈ r, k < e.1) ∧ Tab.wf d r = true := by
  simp [Tab.wf, and_assoc]

theorem Tab.wf_drop {d : α} {t : Tab α} (k : Nat) (h : Tab.wf d t = true) : Tab.wf d (Tab.drop k t) = true := by
  induction t with
  | nil => rfl
  | cons x r ih =>
    obtain ⟨i, v⟩ := x
    obtain ⟨hv, hr, hw⟩ := Tab.wf_cons.1 h
    simp only [Tab.drop]
    split
    · exact ih hw
    · exact Tab.wf_cons.2 ⟨hv, fun e he => hr e (Tab.mem_drop he), ih hw⟩

theorem Tab.wf_add {d : α} {t : Tab α} (k : Nat) {v : α} (hv : v ≠ d) (h : Tab.wf d t = true) :
    Tab.wf d (Tab.add k v t) = true := by
  induction t with
  | nil => simp [Tab.add, Tab.wf, hv]
  | cons x r ih =>
    obtain ⟨i, w⟩ := x
    obtain ⟨hw, hr, hrest⟩ := Tab.wf_cons.1 h
    simp only [Tab.add]
    split
    · refine Tab.wf_cons.2 ⟨hv, fun e he => ?_, h⟩
      rcases List.mem_cons.1 he with rfl | he
      · assumption
      · have := hr e he; omega
    · split
      · subst_vars; exact Tab.wf_cons.2 ⟨hv, hr, hrest⟩
      · refine Tab.wf_cons.2 ⟨hw, fun e he => ?_, ih hrest⟩
        rcases Tab.mem_add he with rfl | he
        · simp; omega
        · exact hr e he

/-- Putting an entry keeps the canonical form. -/
theorem Tab.wf_put {d : α} {t : Tab α} (k : Nat) (v : α) (h : Tab.wf d t = true) : Tab.wf d (Tab.put d t k v) = true := by
  unfold Tab.put
  split
  · exact Tab.wf_drop k h
  · exact Tab.wf_add k (by assumption) h

theorem Tab.wf_edit {d : α} {t : Tab α} (k : Nat) (f : α → α) (h : Tab.wf d t = true) :
    Tab.wf d (Tab.edit d t k f) = true := Tab.wf_put k _ h

/-- Leaving entries out keeps the canonical form. -/
theorem Tab.wf_filter {d : α} {t : Tab α} (p : Nat × α → Bool) (h : Tab.wf d t = true) :
    Tab.wf d (t.filter p : Tab α) = true := by
  induction t with
  | nil => rfl
  | cons x r ih =>
    obtain ⟨i, v⟩ := x
    obtain ⟨hv, hr, hw⟩ := Tab.wf_cons.1 h
    simp only [List.filter_cons]
    split
    · exact Tab.wf_cons.2 ⟨hv, fun e he => hr e (List.mem_of_mem_filter he), ih hw⟩
    · exact ih hw

end Sys2Proof.Machine
end

