-- ==== Sys2Proof/Laws/Cellar.lean ====
section
/-! SUPPORT. Laws/Cellar.lean: reads of a stack whose words are all good answer its bytes and change nothing. -/

namespace Sys2Proof.Machine

theorem Tab.look_append {α : Type} (d : α) (a b : Tab α) (k : Nat) (h : ∀ e ∈ a, e.1 ≠ k) :
    Tab.look d (a ++ b) k = Tab.look d b k := by
  induction a with
  | nil => rfl
  | cons e r ih => grind [Tab.look]

theorem Tab.look_append_left {α : Type} (d : α) (a b : Tab α) (k : Nat) (h : ∀ e ∈ b, e.1 ≠ k) :
    Tab.look d (a ++ b) k = Tab.look d a k := by
  induction a with
  | nil =>
    induction b with
    | nil => rfl
    | cons e r ih => grind [Tab.look]
  | cons e r ih => grind [Tab.look]

/-- Moving every key by `n` moves what is read. -/
theorem Tab.look_shift {α : Type} (d : α) (a : Tab α) (n k : Nat) :
    Tab.look d (a.map (fun e => (n + e.1, e.2))) (n + k) = Tab.look d a k := by
  induction a with
  | nil => rfl
  | cons e r ih => simp only [List.map, Tab.look, ih]; simp

/-- Where no check bytes are stored and no word is known to fail, every word is good. -/
theorem Cel.soft_clean (c : Cel) (h : c.check = []) : c.soft = [] := by simp [Cel.soft, h]
theorem Cel.bad_clean (c : Cel) (h : c.check = []) (hu : c.ue = []) : c.bad = [] := by simp [Cel.bad, h, hu]

theorem cellRead_clean (t off n : Nat) (s : State) (hs : s.cel.soft = []) (hb : s.cel.bad = []) :
    cellRead t off n s = (.data (s.stackBytes t off n), s) := by
  have h : (wordsOf t off n).filter s.cel.soft.contains = [] := by rw [hs]; simp
  have h' : (wordsOf t off n).find? s.cel.bad.contains = none := by rw [hb]; simp
  simp only [cellRead, h, List.foldl_nil, h']

theorem readStack_clean (t off n : Nat) (s : State) (hd : s.damagedIn t off n = false) (hs : s.cel.soft = [])
    (hb : s.cel.bad = []) : readStack t off n s = (some (s.stackBytes t off n), s) := by
  simp [readStack, hd, cellRead_clean t off n s hs hb]

/-- Above the device tables a stack's bytes are memory. -/
theorem stackBytes_memory (s : State) (t off n : Nat) (h : 0x41000000 ≤ off) :
    s.stackBytes t off n = Memory.readN s.cel.mem (cellarAddr t off) n := by
  simp [State.stackBytes, h]

/-- The pages below the pool are never damaged pages of it. -/
theorem damagedIn_low (s : State) (t off n : Nat) (h : off + n ≤ firstUsable * 65536) : s.damagedIn t off n = false := by
  simp only [State.damagedIn, Bool.and_eq_false_iff, decide_eq_false_iff_not, List.any_eq_false, List.mem_map,
    List.mem_range, Bool.not_eq_true]
  by_cases hn : 0 < n
  · right
    rintro g ⟨i, hi, rfl⟩
    have hlow : off / 65536 + i < firstUsable := by unfold firstUsable at *; omega
    exact Or.inl (by simp [State.inPool, Nat.not_le.mpr hlow])
  · exact Or.inl hn

/-- A slot of which the header names no Croft and no scale table is its header alone. -/
theorem readCkptSlot_clean (t : Nat) (s : State) (hf : (s.tract t).fenced = false) (hs : s.cel.soft = [])
    (hb : s.cel.bad = [])
    (hc : beAt (Memory.readN s.cel.mem (cellarAddr t slotOff) 132) 10 2 = 0)
    (hn : beAt (Memory.readN s.cel.mem (cellarAddr t slotOff) 132) 28 4 = 0) :
    readCkptSlot t s =
      (some { header := (Memory.readN s.cel.mem (cellarAddr t slotOff) 132).take 128
              crc := beAt (Memory.readN s.cel.mem (cellarAddr t slotOff) 132) 128 4, records := [], scales := [] }, s) := by
  have h0 : ∀ a, Memory.readN s.cel.mem a 0 = [] := fun _ => rfl
  have hd : ∀ a, s.damagedIn t a 0 = false := fun _ => rfl
  have h1 := readStack_clean t slotOff 132 s (damagedIn_low s t slotOff 132 (by decide)) hs hb
  rw [stackBytes_memory s t slotOff 132 (by decide)] at h1
  have h2 : ∀ a, 0x41000000 ≤ a → readStack t a 0 s = (some [], s) := fun a ha => by
    rw [readStack_clean t a 0 s (hd a) hs hb, stackBytes_memory s t a 0 ha, h0]
  have hx : 0x41000000 ≤ slotOff + 65536 := by decide
  simp only [readCkptSlot, hf, h1, hc, hn, Nat.zero_mul, Nat.zero_min, h2 _ hx, Nat.add_zero]
  rfl

/-- Slots that all read alike. -/
theorem readCkptSlots_same (d : SlotRead) (s : State) (h : ∀ t, t < 32 → readCkptSlot t s = (some d, s)) :
    readCkptSlots s = (List.replicate 32 (some d), s) := by
  have key : ∀ n, n ≤ 32 → (List.range n).foldl (fun (a : List (Option SlotRead) × State) t =>
      ((a.1 ++ [(readCkptSlot t a.2).1]), (readCkptSlot t a.2).2)) ([], s) = (List.replicate n (some d), s) := by
    intro n
    induction n with
    | zero => intro _; rfl
    | succ n ih =>
      intro hn
      rw [List.range_succ, List.foldl_append, ih (by omega)]
      simp [h n (by omega), List.replicate_succ']
  exact key 32 (Nat.le_refl _)

end Sys2Proof.Machine
end

