-- ==== Sys2Proof/Laws/State.lean ====
section
/-! SUPPORT. Laws/State.lean: what each update of the state leaves in each field, one lemma a field; what the updates
of numbered units leave in each unit. -/

namespace Sys2Proof.Machine

section
variable (f : Glb → Glb) (s : State)
@[simp] theorem State.modGlb_pending : (s.modGlb f).pending = s.pending := rfl
@[simp] theorem State.modGlb_fuses : (s.modGlb f).fuses = s.fuses := rfl
@[simp] theorem State.modGlb_glb : (s.modGlb f).glb = f s.glb := rfl
@[simp] theorem State.modGlb_flt : (s.modGlb f).flt = s.flt := rfl
@[simp] theorem State.modGlb_attic : (s.modGlb f).attic = s.attic := rfl
@[simp] theorem State.modGlb_bel : (s.modGlb f).bel = s.bel := rfl
@[simp] theorem State.modGlb_clock : (s.modGlb f).clock = s.clock := rfl
@[simp] theorem State.modGlb_shapers : (s.modGlb f).shapers = s.shapers := rfl
@[simp] theorem State.modGlb_gates : (s.modGlb f).gates = s.gates := rfl
@[simp] theorem State.modGlb_swc : (s.modGlb f).swc = s.swc := rfl
@[simp] theorem State.modGlb_rte : (s.modGlb f).rte = s.rte := rfl
@[simp] theorem State.modGlb_fld : (s.modGlb f).fld = s.fld := rfl
@[simp] theorem State.modGlb_cel : (s.modGlb f).cel = s.cel := rfl
@[simp] theorem State.modGlb_ats : (s.modGlb f).ats = s.ats := rfl
@[simp] theorem State.modGlb_crf : (s.modGlb f).crf = s.crf := rfl
@[simp] theorem State.modGlb_img : (s.modGlb f).img = s.img := rfl
@[simp] theorem State.modGlb_lnk : (s.modGlb f).lnk = s.lnk := rfl
@[simp] theorem State.modGlb_bln : (s.modGlb f).bln = s.bln := rfl
@[simp] theorem State.modGlb_sec : (s.modGlb f).sec = s.sec := rfl
@[simp] theorem State.modGlb_thm : (s.modGlb f).thm = s.thm := rfl
@[simp] theorem State.modGlb_host : (s.modGlb f).host = s.host := rfl
@[simp] theorem State.modGlb_pins : (s.modGlb f).pins = s.pins := rfl
@[simp] theorem State.modGlb_inbox : (s.modGlb f).inbox = s.inbox := rfl
@[simp] theorem State.modGlb_out : (s.modGlb f).out = s.out := rfl
@[simp] theorem State.modGlb_draws : (s.modGlb f).draws = s.draws := rfl
end

section
variable (f : Flt → Flt) (s : State)
@[simp] theorem State.modFlt_pending : (s.modFlt f).pending = s.pending := rfl
@[simp] theorem State.modFlt_fuses : (s.modFlt f).fuses = s.fuses := rfl
@[simp] theorem State.modFlt_glb : (s.modFlt f).glb = s.glb := rfl
@[simp] theorem State.modFlt_flt : (s.modFlt f).flt = f s.flt := rfl
@[simp] theorem State.modFlt_attic : (s.modFlt f).attic = s.attic := rfl
@[simp] theorem State.modFlt_bel : (s.modFlt f).bel = s.bel := rfl
@[simp] theorem State.modFlt_clock : (s.modFlt f).clock = s.clock := rfl
@[simp] theorem State.modFlt_shapers : (s.modFlt f).shapers = s.shapers := rfl
@[simp] theorem State.modFlt_gates : (s.modFlt f).gates = s.gates := rfl
@[simp] theorem State.modFlt_swc : (s.modFlt f).swc = s.swc := rfl
@[simp] theorem State.modFlt_rte : (s.modFlt f).rte = s.rte := rfl
@[simp] theorem State.modFlt_fld : (s.modFlt f).fld = s.fld := rfl
@[simp] theorem State.modFlt_cel : (s.modFlt f).cel = s.cel := rfl
@[simp] theorem State.modFlt_ats : (s.modFlt f).ats = s.ats := rfl
@[simp] theorem State.modFlt_crf : (s.modFlt f).crf = s.crf := rfl
@[simp] theorem State.modFlt_img : (s.modFlt f).img = s.img := rfl
@[simp] theorem State.modFlt_lnk : (s.modFlt f).lnk = s.lnk := rfl
@[simp] theorem State.modFlt_bln : (s.modFlt f).bln = s.bln := rfl
@[simp] theorem State.modFlt_sec : (s.modFlt f).sec = s.sec := rfl
@[simp] theorem State.modFlt_thm : (s.modFlt f).thm = s.thm := rfl
@[simp] theorem State.modFlt_host : (s.modFlt f).host = s.host := rfl
@[simp] theorem State.modFlt_pins : (s.modFlt f).pins = s.pins := rfl
@[simp] theorem State.modFlt_inbox : (s.modFlt f).inbox = s.inbox := rfl
@[simp] theorem State.modFlt_out : (s.modFlt f).out = s.out := rfl
@[simp] theorem State.modFlt_draws : (s.modFlt f).draws = s.draws := rfl
end

section
variable (f : Attic → Attic) (s : State)
@[simp] theorem State.modAttic_pending : (s.modAttic f).pending = s.pending := rfl
@[simp] theorem State.modAttic_fuses : (s.modAttic f).fuses = s.fuses := rfl
@[simp] theorem State.modAttic_glb : (s.modAttic f).glb = s.glb := rfl
@[simp] theorem State.modAttic_flt : (s.modAttic f).flt = s.flt := rfl
@[simp] theorem State.modAttic_attic : (s.modAttic f).attic = f s.attic := rfl
@[simp] theorem State.modAttic_bel : (s.modAttic f).bel = s.bel := rfl
@[simp] theorem State.modAttic_clock : (s.modAttic f).clock = s.clock := rfl
@[simp] theorem State.modAttic_shapers : (s.modAttic f).shapers = s.shapers := rfl
@[simp] theorem State.modAttic_gates : (s.modAttic f).gates = s.gates := rfl
@[simp] theorem State.modAttic_swc : (s.modAttic f).swc = s.swc := rfl
@[simp] theorem State.modAttic_rte : (s.modAttic f).rte = s.rte := rfl
@[simp] theorem State.modAttic_fld : (s.modAttic f).fld = s.fld := rfl
@[simp] theorem State.modAttic_cel : (s.modAttic f).cel = s.cel := rfl
@[simp] theorem State.modAttic_ats : (s.modAttic f).ats = s.ats := rfl
@[simp] theorem State.modAttic_crf : (s.modAttic f).crf = s.crf := rfl
@[simp] theorem State.modAttic_img : (s.modAttic f).img = s.img := rfl
@[simp] theorem State.modAttic_lnk : (s.modAttic f).lnk = s.lnk := rfl
@[simp] theorem State.modAttic_bln : (s.modAttic f).bln = s.bln := rfl
@[simp] theorem State.modAttic_sec : (s.modAttic f).sec = s.sec := rfl
@[simp] theorem State.modAttic_thm : (s.modAttic f).thm = s.thm := rfl
@[simp] theorem State.modAttic_host : (s.modAttic f).host = s.host := rfl
@[simp] theorem State.modAttic_pins : (s.modAttic f).pins = s.pins := rfl
@[simp] theorem State.modAttic_inbox : (s.modAttic f).inbox = s.inbox := rfl
@[simp] theorem State.modAttic_out : (s.modAttic f).out = s.out := rfl
@[simp] theorem State.modAttic_draws : (s.modAttic f).draws = s.draws := rfl
end

section
variable (f : Bel → Bel) (s : State)
@[simp] theorem State.modBel_pending : (s.modBel f).pending = s.pending := rfl
@[simp] theorem State.modBel_fuses : (s.modBel f).fuses = s.fuses := rfl
@[simp] theorem State.modBel_glb : (s.modBel f).glb = s.glb := rfl
@[simp] theorem State.modBel_flt : (s.modBel f).flt = s.flt := rfl
@[simp] theorem State.modBel_attic : (s.modBel f).attic = s.attic := rfl
@[simp] theorem State.modBel_bel : (s.modBel f).bel = f s.bel := rfl
@[simp] theorem State.modBel_clock : (s.modBel f).clock = s.clock := rfl
@[simp] theorem State.modBel_shapers : (s.modBel f).shapers = s.shapers := rfl
@[simp] theorem State.modBel_gates : (s.modBel f).gates = s.gates := rfl
@[simp] theorem State.modBel_swc : (s.modBel f).swc = s.swc := rfl
@[simp] theorem State.modBel_rte : (s.modBel f).rte = s.rte := rfl
@[simp] theorem State.modBel_fld : (s.modBel f).fld = s.fld := rfl
@[simp] theorem State.modBel_cel : (s.modBel f).cel = s.cel := rfl
@[simp] theorem State.modBel_ats : (s.modBel f).ats = s.ats := rfl
@[simp] theorem State.modBel_crf : (s.modBel f).crf = s.crf := rfl
@[simp] theorem State.modBel_img : (s.modBel f).img = s.img := rfl
@[simp] theorem State.modBel_lnk : (s.modBel f).lnk = s.lnk := rfl
@[simp] theorem State.modBel_bln : (s.modBel f).bln = s.bln := rfl
@[simp] theorem State.modBel_sec : (s.modBel f).sec = s.sec := rfl
@[simp] theorem State.modBel_thm : (s.modBel f).thm = s.thm := rfl
@[simp] theorem State.modBel_host : (s.modBel f).host = s.host := rfl
@[simp] theorem State.modBel_pins : (s.modBel f).pins = s.pins := rfl
@[simp] theorem State.modBel_inbox : (s.modBel f).inbox = s.inbox := rfl
@[simp] theorem State.modBel_out : (s.modBel f).out = s.out := rfl
@[simp] theorem State.modBel_draws : (s.modBel f).draws = s.draws := rfl
end

section
variable (f : Swc → Swc) (s : State)
@[simp] theorem State.modSwc_pending : (s.modSwc f).pending = s.pending := rfl
@[simp] theorem State.modSwc_fuses : (s.modSwc f).fuses = s.fuses := rfl
@[simp] theorem State.modSwc_glb : (s.modSwc f).glb = s.glb := rfl
@[simp] theorem State.modSwc_flt : (s.modSwc f).flt = s.flt := rfl
@[simp] theorem State.modSwc_attic : (s.modSwc f).attic = s.attic := rfl
@[simp] theorem State.modSwc_bel : (s.modSwc f).bel = s.bel := rfl
@[simp] theorem State.modSwc_clock : (s.modSwc f).clock = s.clock := rfl
@[simp] theorem State.modSwc_shapers : (s.modSwc f).shapers = s.shapers := rfl
@[simp] theorem State.modSwc_gates : (s.modSwc f).gates = s.gates := rfl
@[simp] theorem State.modSwc_swc : (s.modSwc f).swc = f s.swc := rfl
@[simp] theorem State.modSwc_rte : (s.modSwc f).rte = s.rte := rfl
@[simp] theorem State.modSwc_fld : (s.modSwc f).fld = s.fld := rfl
@[simp] theorem State.modSwc_cel : (s.modSwc f).cel = s.cel := rfl
@[simp] theorem State.modSwc_ats : (s.modSwc f).ats = s.ats := rfl
@[simp] theorem State.modSwc_crf : (s.modSwc f).crf = s.crf := rfl
@[simp] theorem State.modSwc_img : (s.modSwc f).img = s.img := rfl
@[simp] theorem State.modSwc_lnk : (s.modSwc f).lnk = s.lnk := rfl
@[simp] theorem State.modSwc_bln : (s.modSwc f).bln = s.bln := rfl
@[simp] theorem State.modSwc_sec : (s.modSwc f).sec = s.sec := rfl
@[simp] theorem State.modSwc_thm : (s.modSwc f).thm = s.thm := rfl
@[simp] theorem State.modSwc_host : (s.modSwc f).host = s.host := rfl
@[simp] theorem State.modSwc_pins : (s.modSwc f).pins = s.pins := rfl
@[simp] theorem State.modSwc_inbox : (s.modSwc f).inbox = s.inbox := rfl
@[simp] theorem State.modSwc_out : (s.modSwc f).out = s.out := rfl
@[simp] theorem State.modSwc_draws : (s.modSwc f).draws = s.draws := rfl
end

section
variable (f : Rte → Rte) (s : State)
@[simp] theorem State.modRte_pending : (s.modRte f).pending = s.pending := rfl
@[simp] theorem State.modRte_fuses : (s.modRte f).fuses = s.fuses := rfl
@[simp] theorem State.modRte_glb : (s.modRte f).glb = s.glb := rfl
@[simp] theorem State.modRte_flt : (s.modRte f).flt = s.flt := rfl
@[simp] theorem State.modRte_attic : (s.modRte f).attic = s.attic := rfl
@[simp] theorem State.modRte_bel : (s.modRte f).bel = s.bel := rfl
@[simp] theorem State.modRte_clock : (s.modRte f).clock = s.clock := rfl
@[simp] theorem State.modRte_shapers : (s.modRte f).shapers = s.shapers := rfl
@[simp] theorem State.modRte_gates : (s.modRte f).gates = s.gates := rfl
@[simp] theorem State.modRte_swc : (s.modRte f).swc = s.swc := rfl
@[simp] theorem State.modRte_rte : (s.modRte f).rte = f s.rte := rfl
@[simp] theorem State.modRte_fld : (s.modRte f).fld = s.fld := rfl
@[simp] theorem State.modRte_cel : (s.modRte f).cel = s.cel := rfl
@[simp] theorem State.modRte_ats : (s.modRte f).ats = s.ats := rfl
@[simp] theorem State.modRte_crf : (s.modRte f).crf = s.crf := rfl
@[simp] theorem State.modRte_img : (s.modRte f).img = s.img := rfl
@[simp] theorem State.modRte_lnk : (s.modRte f).lnk = s.lnk := rfl
@[simp] theorem State.modRte_bln : (s.modRte f).bln = s.bln := rfl
@[simp] theorem State.modRte_sec : (s.modRte f).sec = s.sec := rfl
@[simp] theorem State.modRte_thm : (s.modRte f).thm = s.thm := rfl
@[simp] theorem State.modRte_host : (s.modRte f).host = s.host := rfl
@[simp] theorem State.modRte_pins : (s.modRte f).pins = s.pins := rfl
@[simp] theorem State.modRte_inbox : (s.modRte f).inbox = s.inbox := rfl
@[simp] theorem State.modRte_out : (s.modRte f).out = s.out := rfl
@[simp] theorem State.modRte_draws : (s.modRte f).draws = s.draws := rfl
end

section
variable (f : Fld → Fld) (s : State)
@[simp] theorem State.modFld_pending : (s.modFld f).pending = s.pending := rfl
@[simp] theorem State.modFld_fuses : (s.modFld f).fuses = s.fuses := rfl
@[simp] theorem State.modFld_glb : (s.modFld f).glb = s.glb := rfl
@[simp] theorem State.modFld_flt : (s.modFld f).flt = s.flt := rfl
@[simp] theorem State.modFld_attic : (s.modFld f).attic = s.attic := rfl
@[simp] theorem State.modFld_bel : (s.modFld f).bel = s.bel := rfl
@[simp] theorem State.modFld_clock : (s.modFld f).clock = s.clock := rfl
@[simp] theorem State.modFld_shapers : (s.modFld f).shapers = s.shapers := rfl
@[simp] theorem State.modFld_gates : (s.modFld f).gates = s.gates := rfl
@[simp] theorem State.modFld_swc : (s.modFld f).swc = s.swc := rfl
@[simp] theorem State.modFld_rte : (s.modFld f).rte = s.rte := rfl
@[simp] theorem State.modFld_fld : (s.modFld f).fld = f s.fld := rfl
@[simp] theorem State.modFld_cel : (s.modFld f).cel = s.cel := rfl
@[simp] theorem State.modFld_ats : (s.modFld f).ats = s.ats := rfl
@[simp] theorem State.modFld_crf : (s.modFld f).crf = s.crf := rfl
@[simp] theorem State.modFld_img : (s.modFld f).img = s.img := rfl
@[simp] theorem State.modFld_lnk : (s.modFld f).lnk = s.lnk := rfl
@[simp] theorem State.modFld_bln : (s.modFld f).bln = s.bln := rfl
@[simp] theorem State.modFld_sec : (s.modFld f).sec = s.sec := rfl
@[simp] theorem State.modFld_thm : (s.modFld f).thm = s.thm := rfl
@[simp] theorem State.modFld_host : (s.modFld f).host = s.host := rfl
@[simp] theorem State.modFld_pins : (s.modFld f).pins = s.pins := rfl
@[simp] theorem State.modFld_inbox : (s.modFld f).inbox = s.inbox := rfl
@[simp] theorem State.modFld_out : (s.modFld f).out = s.out := rfl
@[simp] theorem State.modFld_draws : (s.modFld f).draws = s.draws := rfl
end

section
variable (f : Cel → Cel) (s : State)
@[simp] theorem State.modCel_pending : (s.modCel f).pending = s.pending := rfl
@[simp] theorem State.modCel_fuses : (s.modCel f).fuses = s.fuses := rfl
@[simp] theorem State.modCel_glb : (s.modCel f).glb = s.glb := rfl
@[simp] theorem State.modCel_flt : (s.modCel f).flt = s.flt := rfl
@[simp] theorem State.modCel_attic : (s.modCel f).attic = s.attic := rfl
@[simp] theorem State.modCel_bel : (s.modCel f).bel = s.bel := rfl
@[simp] theorem State.modCel_clock : (s.modCel f).clock = s.clock := rfl
@[simp] theorem State.modCel_shapers : (s.modCel f).shapers = s.shapers := rfl
@[simp] theorem State.modCel_gates : (s.modCel f).gates = s.gates := rfl
@[simp] theorem State.modCel_swc : (s.modCel f).swc = s.swc := rfl
@[simp] theorem State.modCel_rte : (s.modCel f).rte = s.rte := rfl
@[simp] theorem State.modCel_fld : (s.modCel f).fld = s.fld := rfl
@[simp] theorem State.modCel_cel : (s.modCel f).cel = f s.cel := rfl
@[simp] theorem State.modCel_ats : (s.modCel f).ats = s.ats := rfl
@[simp] theorem State.modCel_crf : (s.modCel f).crf = s.crf := rfl
@[simp] theorem State.modCel_img : (s.modCel f).img = s.img := rfl
@[simp] theorem State.modCel_lnk : (s.modCel f).lnk = s.lnk := rfl
@[simp] theorem State.modCel_bln : (s.modCel f).bln = s.bln := rfl
@[simp] theorem State.modCel_sec : (s.modCel f).sec = s.sec := rfl
@[simp] theorem State.modCel_thm : (s.modCel f).thm = s.thm := rfl
@[simp] theorem State.modCel_host : (s.modCel f).host = s.host := rfl
@[simp] theorem State.modCel_pins : (s.modCel f).pins = s.pins := rfl
@[simp] theorem State.modCel_inbox : (s.modCel f).inbox = s.inbox := rfl
@[simp] theorem State.modCel_out : (s.modCel f).out = s.out := rfl
@[simp] theorem State.modCel_draws : (s.modCel f).draws = s.draws := rfl
end

section
variable (f : Ats → Ats) (s : State)
@[simp] theorem State.modAts_pending : (s.modAts f).pending = s.pending := rfl
@[simp] theorem State.modAts_fuses : (s.modAts f).fuses = s.fuses := rfl
@[simp] theorem State.modAts_glb : (s.modAts f).glb = s.glb := rfl
@[simp] theorem State.modAts_flt : (s.modAts f).flt = s.flt := rfl
@[simp] theorem State.modAts_attic : (s.modAts f).attic = s.attic := rfl
@[simp] theorem State.modAts_bel : (s.modAts f).bel = s.bel := rfl
@[simp] theorem State.modAts_clock : (s.modAts f).clock = s.clock := rfl
@[simp] theorem State.modAts_shapers : (s.modAts f).shapers = s.shapers := rfl
@[simp] theorem State.modAts_gates : (s.modAts f).gates = s.gates := rfl
@[simp] theorem State.modAts_swc : (s.modAts f).swc = s.swc := rfl
@[simp] theorem State.modAts_rte : (s.modAts f).rte = s.rte := rfl
@[simp] theorem State.modAts_fld : (s.modAts f).fld = s.fld := rfl
@[simp] theorem State.modAts_cel : (s.modAts f).cel = s.cel := rfl
@[simp] theorem State.modAts_ats : (s.modAts f).ats = f s.ats := rfl
@[simp] theorem State.modAts_crf : (s.modAts f).crf = s.crf := rfl
@[simp] theorem State.modAts_img : (s.modAts f).img = s.img := rfl
@[simp] theorem State.modAts_lnk : (s.modAts f).lnk = s.lnk := rfl
@[simp] theorem State.modAts_bln : (s.modAts f).bln = s.bln := rfl
@[simp] theorem State.modAts_sec : (s.modAts f).sec = s.sec := rfl
@[simp] theorem State.modAts_thm : (s.modAts f).thm = s.thm := rfl
@[simp] theorem State.modAts_host : (s.modAts f).host = s.host := rfl
@[simp] theorem State.modAts_pins : (s.modAts f).pins = s.pins := rfl
@[simp] theorem State.modAts_inbox : (s.modAts f).inbox = s.inbox := rfl
@[simp] theorem State.modAts_out : (s.modAts f).out = s.out := rfl
@[simp] theorem State.modAts_draws : (s.modAts f).draws = s.draws := rfl
end

section
variable (f : Crf → Crf) (s : State)
@[simp] theorem State.modCrf_pending : (s.modCrf f).pending = s.pending := rfl
@[simp] theorem State.modCrf_fuses : (s.modCrf f).fuses = s.fuses := rfl
@[simp] theorem State.modCrf_glb : (s.modCrf f).glb = s.glb := rfl
@[simp] theorem State.modCrf_flt : (s.modCrf f).flt = s.flt := rfl
@[simp] theorem State.modCrf_attic : (s.modCrf f).attic = s.attic := rfl
@[simp] theorem State.modCrf_bel : (s.modCrf f).bel = s.bel := rfl
@[simp] theorem State.modCrf_clock : (s.modCrf f).clock = s.clock := rfl
@[simp] theorem State.modCrf_shapers : (s.modCrf f).shapers = s.shapers := rfl
@[simp] theorem State.modCrf_gates : (s.modCrf f).gates = s.gates := rfl
@[simp] theorem State.modCrf_swc : (s.modCrf f).swc = s.swc := rfl
@[simp] theorem State.modCrf_rte : (s.modCrf f).rte = s.rte := rfl
@[simp] theorem State.modCrf_fld : (s.modCrf f).fld = s.fld := rfl
@[simp] theorem State.modCrf_cel : (s.modCrf f).cel = s.cel := rfl
@[simp] theorem State.modCrf_ats : (s.modCrf f).ats = s.ats := rfl
@[simp] theorem State.modCrf_crf : (s.modCrf f).crf = f s.crf := rfl
@[simp] theorem State.modCrf_img : (s.modCrf f).img = s.img := rfl
@[simp] theorem State.modCrf_lnk : (s.modCrf f).lnk = s.lnk := rfl
@[simp] theorem State.modCrf_bln : (s.modCrf f).bln = s.bln := rfl
@[simp] theorem State.modCrf_sec : (s.modCrf f).sec = s.sec := rfl
@[simp] theorem State.modCrf_thm : (s.modCrf f).thm = s.thm := rfl
@[simp] theorem State.modCrf_host : (s.modCrf f).host = s.host := rfl
@[simp] theorem State.modCrf_pins : (s.modCrf f).pins = s.pins := rfl
@[simp] theorem State.modCrf_inbox : (s.modCrf f).inbox = s.inbox := rfl
@[simp] theorem State.modCrf_out : (s.modCrf f).out = s.out := rfl
@[simp] theorem State.modCrf_draws : (s.modCrf f).draws = s.draws := rfl
end

section
variable (f : Img → Img) (s : State)
@[simp] theorem State.modImg_pending : (s.modImg f).pending = s.pending := rfl
@[simp] theorem State.modImg_fuses : (s.modImg f).fuses = s.fuses := rfl
@[simp] theorem State.modImg_glb : (s.modImg f).glb = s.glb := rfl
@[simp] theorem State.modImg_flt : (s.modImg f).flt = s.flt := rfl
@[simp] theorem State.modImg_attic : (s.modImg f).attic = s.attic := rfl
@[simp] theorem State.modImg_bel : (s.modImg f).bel = s.bel := rfl
@[simp] theorem State.modImg_clock : (s.modImg f).clock = s.clock := rfl
@[simp] theorem State.modImg_shapers : (s.modImg f).shapers = s.shapers := rfl
@[simp] theorem State.modImg_gates : (s.modImg f).gates = s.gates := rfl
@[simp] theorem State.modImg_swc : (s.modImg f).swc = s.swc := rfl
@[simp] theorem State.modImg_rte : (s.modImg f).rte = s.rte := rfl
@[simp] theorem State.modImg_fld : (s.modImg f).fld = s.fld := rfl
@[simp] theorem State.modImg_cel : (s.modImg f).cel = s.cel := rfl
@[simp] theorem State.modImg_ats : (s.modImg f).ats = s.ats := rfl
@[simp] theorem State.modImg_crf : (s.modImg f).crf = s.crf := rfl
@[simp] theorem State.modImg_img : (s.modImg f).img = f s.img := rfl
@[simp] theorem State.modImg_lnk : (s.modImg f).lnk = s.lnk := rfl
@[simp] theorem State.modImg_bln : (s.modImg f).bln = s.bln := rfl
@[simp] theorem State.modImg_sec : (s.modImg f).sec = s.sec := rfl
@[simp] theorem State.modImg_thm : (s.modImg f).thm = s.thm := rfl
@[simp] theorem State.modImg_host : (s.modImg f).host = s.host := rfl
@[simp] theorem State.modImg_pins : (s.modImg f).pins = s.pins := rfl
@[simp] theorem State.modImg_inbox : (s.modImg f).inbox = s.inbox := rfl
@[simp] theorem State.modImg_out : (s.modImg f).out = s.out := rfl
@[simp] theorem State.modImg_draws : (s.modImg f).draws = s.draws := rfl
end

section
variable (f : Lnk → Lnk) (s : State)
@[simp] theorem State.modLnk_pending : (s.modLnk f).pending = s.pending := rfl
@[simp] theorem State.modLnk_fuses : (s.modLnk f).fuses = s.fuses := rfl
@[simp] theorem State.modLnk_glb : (s.modLnk f).glb = s.glb := rfl
@[simp] theorem State.modLnk_flt : (s.modLnk f).flt = s.flt := rfl
@[simp] theorem State.modLnk_attic : (s.modLnk f).attic = s.attic := rfl
@[simp] theorem State.modLnk_bel : (s.modLnk f).bel = s.bel := rfl
@[simp] theorem State.modLnk_clock : (s.modLnk f).clock = s.clock := rfl
@[simp] theorem State.modLnk_shapers : (s.modLnk f).shapers = s.shapers := rfl
@[simp] theorem State.modLnk_gates : (s.modLnk f).gates = s.gates := rfl
@[simp] theorem State.modLnk_swc : (s.modLnk f).swc = s.swc := rfl
@[simp] theorem State.modLnk_rte : (s.modLnk f).rte = s.rte := rfl
@[simp] theorem State.modLnk_fld : (s.modLnk f).fld = s.fld := rfl
@[simp] theorem State.modLnk_cel : (s.modLnk f).cel = s.cel := rfl
@[simp] theorem State.modLnk_ats : (s.modLnk f).ats = s.ats := rfl
@[simp] theorem State.modLnk_crf : (s.modLnk f).crf = s.crf := rfl
@[simp] theorem State.modLnk_img : (s.modLnk f).img = s.img := rfl
@[simp] theorem State.modLnk_lnk : (s.modLnk f).lnk = f s.lnk := rfl
@[simp] theorem State.modLnk_bln : (s.modLnk f).bln = s.bln := rfl
@[simp] theorem State.modLnk_sec : (s.modLnk f).sec = s.sec := rfl
@[simp] theorem State.modLnk_thm : (s.modLnk f).thm = s.thm := rfl
@[simp] theorem State.modLnk_host : (s.modLnk f).host = s.host := rfl
@[simp] theorem State.modLnk_pins : (s.modLnk f).pins = s.pins := rfl
@[simp] theorem State.modLnk_inbox : (s.modLnk f).inbox = s.inbox := rfl
@[simp] theorem State.modLnk_out : (s.modLnk f).out = s.out := rfl
@[simp] theorem State.modLnk_draws : (s.modLnk f).draws = s.draws := rfl
end

section
variable (f : Sec → Sec) (s : State)
@[simp] theorem State.modSec_pending : (s.modSec f).pending = s.pending := rfl
@[simp] theorem State.modSec_fuses : (s.modSec f).fuses = s.fuses := rfl
@[simp] theorem State.modSec_glb : (s.modSec f).glb = s.glb := rfl
@[simp] theorem State.modSec_flt : (s.modSec f).flt = s.flt := rfl
@[simp] theorem State.modSec_attic : (s.modSec f).attic = s.attic := rfl
@[simp] theorem State.modSec_bel : (s.modSec f).bel = s.bel := rfl
@[simp] theorem State.modSec_clock : (s.modSec f).clock = s.clock := rfl
@[simp] theorem State.modSec_shapers : (s.modSec f).shapers = s.shapers := rfl
@[simp] theorem State.modSec_gates : (s.modSec f).gates = s.gates := rfl
@[simp] theorem State.modSec_swc : (s.modSec f).swc = s.swc := rfl
@[simp] theorem State.modSec_rte : (s.modSec f).rte = s.rte := rfl
@[simp] theorem State.modSec_fld : (s.modSec f).fld = s.fld := rfl
@[simp] theorem State.modSec_cel : (s.modSec f).cel = s.cel := rfl
@[simp] theorem State.modSec_ats : (s.modSec f).ats = s.ats := rfl
@[simp] theorem State.modSec_crf : (s.modSec f).crf = s.crf := rfl
@[simp] theorem State.modSec_img : (s.modSec f).img = s.img := rfl
@[simp] theorem State.modSec_lnk : (s.modSec f).lnk = s.lnk := rfl
@[simp] theorem State.modSec_bln : (s.modSec f).bln = s.bln := rfl
@[simp] theorem State.modSec_sec : (s.modSec f).sec = f s.sec := rfl
@[simp] theorem State.modSec_thm : (s.modSec f).thm = s.thm := rfl
@[simp] theorem State.modSec_host : (s.modSec f).host = s.host := rfl
@[simp] theorem State.modSec_pins : (s.modSec f).pins = s.pins := rfl
@[simp] theorem State.modSec_inbox : (s.modSec f).inbox = s.inbox := rfl
@[simp] theorem State.modSec_out : (s.modSec f).out = s.out := rfl
@[simp] theorem State.modSec_draws : (s.modSec f).draws = s.draws := rfl
end

section
variable (f : Thm → Thm) (s : State)
@[simp] theorem State.modThm_pending : (s.modThm f).pending = s.pending := rfl
@[simp] theorem State.modThm_fuses : (s.modThm f).fuses = s.fuses := rfl
@[simp] theorem State.modThm_glb : (s.modThm f).glb = s.glb := rfl
@[simp] theorem State.modThm_flt : (s.modThm f).flt = s.flt := rfl
@[simp] theorem State.modThm_attic : (s.modThm f).attic = s.attic := rfl
@[simp] theorem State.modThm_bel : (s.modThm f).bel = s.bel := rfl
@[simp] theorem State.modThm_clock : (s.modThm f).clock = s.clock := rfl
@[simp] theorem State.modThm_shapers : (s.modThm f).shapers = s.shapers := rfl
@[simp] theorem State.modThm_gates : (s.modThm f).gates = s.gates := rfl
@[simp] theorem State.modThm_swc : (s.modThm f).swc = s.swc := rfl
@[simp] theorem State.modThm_rte : (s.modThm f).rte = s.rte := rfl
@[simp] theorem State.modThm_fld : (s.modThm f).fld = s.fld := rfl
@[simp] theorem State.modThm_cel : (s.modThm f).cel = s.cel := rfl
@[simp] theorem State.modThm_ats : (s.modThm f).ats = s.ats := rfl
@[simp] theorem State.modThm_crf : (s.modThm f).crf = s.crf := rfl
@[simp] theorem State.modThm_img : (s.modThm f).img = s.img := rfl
@[simp] theorem State.modThm_lnk : (s.modThm f).lnk = s.lnk := rfl
@[simp] theorem State.modThm_bln : (s.modThm f).bln = s.bln := rfl
@[simp] theorem State.modThm_sec : (s.modThm f).sec = s.sec := rfl
@[simp] theorem State.modThm_thm : (s.modThm f).thm = f s.thm := rfl
@[simp] theorem State.modThm_host : (s.modThm f).host = s.host := rfl
@[simp] theorem State.modThm_pins : (s.modThm f).pins = s.pins := rfl
@[simp] theorem State.modThm_inbox : (s.modThm f).inbox = s.inbox := rfl
@[simp] theorem State.modThm_out : (s.modThm f).out = s.out := rfl
@[simp] theorem State.modThm_draws : (s.modThm f).draws = s.draws := rfl
end

section
variable (f : HostLink → HostLink) (s : State)
@[simp] theorem State.modHost_pending : (s.modHost f).pending = s.pending := rfl
@[simp] theorem State.modHost_fuses : (s.modHost f).fuses = s.fuses := rfl
@[simp] theorem State.modHost_glb : (s.modHost f).glb = s.glb := rfl
@[simp] theorem State.modHost_flt : (s.modHost f).flt = s.flt := rfl
@[simp] theorem State.modHost_attic : (s.modHost f).attic = s.attic := rfl
@[simp] theorem State.modHost_bel : (s.modHost f).bel = s.bel := rfl
@[simp] theorem State.modHost_clock : (s.modHost f).clock = s.clock := rfl
@[simp] theorem State.modHost_shapers : (s.modHost f).shapers = s.shapers := rfl
@[simp] theorem State.modHost_gates : (s.modHost f).gates = s.gates := rfl
@[simp] theorem State.modHost_swc : (s.modHost f).swc = s.swc := rfl
@[simp] theorem State.modHost_rte : (s.modHost f).rte = s.rte := rfl
@[simp] theorem State.modHost_fld : (s.modHost f).fld = s.fld := rfl
@[simp] theorem State.modHost_cel : (s.modHost f).cel = s.cel := rfl
@[simp] theorem State.modHost_ats : (s.modHost f).ats = s.ats := rfl
@[simp] theorem State.modHost_crf : (s.modHost f).crf = s.crf := rfl
@[simp] theorem State.modHost_img : (s.modHost f).img = s.img := rfl
@[simp] theorem State.modHost_lnk : (s.modHost f).lnk = s.lnk := rfl
@[simp] theorem State.modHost_bln : (s.modHost f).bln = s.bln := rfl
@[simp] theorem State.modHost_sec : (s.modHost f).sec = s.sec := rfl
@[simp] theorem State.modHost_thm : (s.modHost f).thm = s.thm := rfl
@[simp] theorem State.modHost_host : (s.modHost f).host = f s.host := rfl
@[simp] theorem State.modHost_pins : (s.modHost f).pins = s.pins := rfl
@[simp] theorem State.modHost_inbox : (s.modHost f).inbox = s.inbox := rfl
@[simp] theorem State.modHost_out : (s.modHost f).out = s.out := rfl
@[simp] theorem State.modHost_draws : (s.modHost f).draws = s.draws := rfl
end

section
variable (f : Pins → Pins) (s : State)
@[simp] theorem State.modPins_pending : (s.modPins f).pending = s.pending := rfl
@[simp] theorem State.modPins_fuses : (s.modPins f).fuses = s.fuses := rfl
@[simp] theorem State.modPins_glb : (s.modPins f).glb = s.glb := rfl
@[simp] theorem State.modPins_flt : (s.modPins f).flt = s.flt := rfl
@[simp] theorem State.modPins_attic : (s.modPins f).attic = s.attic := rfl
@[simp] theorem State.modPins_bel : (s.modPins f).bel = s.bel := rfl
@[simp] theorem State.modPins_clock : (s.modPins f).clock = s.clock := rfl
@[simp] theorem State.modPins_shapers : (s.modPins f).shapers = s.shapers := rfl
@[simp] theorem State.modPins_gates : (s.modPins f).gates = s.gates := rfl
@[simp] theorem State.modPins_swc : (s.modPins f).swc = s.swc := rfl
@[simp] theorem State.modPins_rte : (s.modPins f).rte = s.rte := rfl
@[simp] theorem State.modPins_fld : (s.modPins f).fld = s.fld := rfl
@[simp] theorem State.modPins_cel : (s.modPins f).cel = s.cel := rfl
@[simp] theorem State.modPins_ats : (s.modPins f).ats = s.ats := rfl
@[simp] theorem State.modPins_crf : (s.modPins f).crf = s.crf := rfl
@[simp] theorem State.modPins_img : (s.modPins f).img = s.img := rfl
@[simp] theorem State.modPins_lnk : (s.modPins f).lnk = s.lnk := rfl
@[simp] theorem State.modPins_bln : (s.modPins f).bln = s.bln := rfl
@[simp] theorem State.modPins_sec : (s.modPins f).sec = s.sec := rfl
@[simp] theorem State.modPins_thm : (s.modPins f).thm = s.thm := rfl
@[simp] theorem State.modPins_host : (s.modPins f).host = s.host := rfl
@[simp] theorem State.modPins_pins : (s.modPins f).pins = f s.pins := rfl
@[simp] theorem State.modPins_inbox : (s.modPins f).inbox = s.inbox := rfl
@[simp] theorem State.modPins_out : (s.modPins f).out = s.out := rfl
@[simp] theorem State.modPins_draws : (s.modPins f).draws = s.draws := rfl
end

section
variable (f : Fuses → Fuses) (s : State)
@[simp] theorem State.modFuses_pending : (s.modFuses f).pending = s.pending := rfl
@[simp] theorem State.modFuses_fuses : (s.modFuses f).fuses = f s.fuses := rfl
@[simp] theorem State.modFuses_glb : (s.modFuses f).glb = s.glb := rfl
@[simp] theorem State.modFuses_flt : (s.modFuses f).flt = s.flt := rfl
@[simp] theorem State.modFuses_attic : (s.modFuses f).attic = s.attic := rfl
@[simp] theorem State.modFuses_bel : (s.modFuses f).bel = s.bel := rfl
@[simp] theorem State.modFuses_clock : (s.modFuses f).clock = s.clock := rfl
@[simp] theorem State.modFuses_shapers : (s.modFuses f).shapers = s.shapers := rfl
@[simp] theorem State.modFuses_gates : (s.modFuses f).gates = s.gates := rfl
@[simp] theorem State.modFuses_swc : (s.modFuses f).swc = s.swc := rfl
@[simp] theorem State.modFuses_rte : (s.modFuses f).rte = s.rte := rfl
@[simp] theorem State.modFuses_fld : (s.modFuses f).fld = s.fld := rfl
@[simp] theorem State.modFuses_cel : (s.modFuses f).cel = s.cel := rfl
@[simp] theorem State.modFuses_ats : (s.modFuses f).ats = s.ats := rfl
@[simp] theorem State.modFuses_crf : (s.modFuses f).crf = s.crf := rfl
@[simp] theorem State.modFuses_img : (s.modFuses f).img = s.img := rfl
@[simp] theorem State.modFuses_lnk : (s.modFuses f).lnk = s.lnk := rfl
@[simp] theorem State.modFuses_bln : (s.modFuses f).bln = s.bln := rfl
@[simp] theorem State.modFuses_sec : (s.modFuses f).sec = s.sec := rfl
@[simp] theorem State.modFuses_thm : (s.modFuses f).thm = s.thm := rfl
@[simp] theorem State.modFuses_host : (s.modFuses f).host = s.host := rfl
@[simp] theorem State.modFuses_pins : (s.modFuses f).pins = s.pins := rfl
@[simp] theorem State.modFuses_inbox : (s.modFuses f).inbox = s.inbox := rfl
@[simp] theorem State.modFuses_out : (s.modFuses f).out = s.out := rfl
@[simp] theorem State.modFuses_draws : (s.modFuses f).draws = s.draws := rfl
end

section
variable (f : (List (Nat × Packet)) → List (Nat × Packet)) (s : State)
@[simp] theorem State.modInbox_pending : (s.modInbox f).pending = s.pending := rfl
@[simp] theorem State.modInbox_fuses : (s.modInbox f).fuses = s.fuses := rfl
@[simp] theorem State.modInbox_glb : (s.modInbox f).glb = s.glb := rfl
@[simp] theorem State.modInbox_flt : (s.modInbox f).flt = s.flt := rfl
@[simp] theorem State.modInbox_attic : (s.modInbox f).attic = s.attic := rfl
@[simp] theorem State.modInbox_bel : (s.modInbox f).bel = s.bel := rfl
@[simp] theorem State.modInbox_clock : (s.modInbox f).clock = s.clock := rfl
@[simp] theorem State.modInbox_shapers : (s.modInbox f).shapers = s.shapers := rfl
@[simp] theorem State.modInbox_gates : (s.modInbox f).gates = s.gates := rfl
@[simp] theorem State.modInbox_swc : (s.modInbox f).swc = s.swc := rfl
@[simp] theorem State.modInbox_rte : (s.modInbox f).rte = s.rte := rfl
@[simp] theorem State.modInbox_fld : (s.modInbox f).fld = s.fld := rfl
@[simp] theorem State.modInbox_cel : (s.modInbox f).cel = s.cel := rfl
@[simp] theorem State.modInbox_ats : (s.modInbox f).ats = s.ats := rfl
@[simp] theorem State.modInbox_crf : (s.modInbox f).crf = s.crf := rfl
@[simp] theorem State.modInbox_img : (s.modInbox f).img = s.img := rfl
@[simp] theorem State.modInbox_lnk : (s.modInbox f).lnk = s.lnk := rfl
@[simp] theorem State.modInbox_bln : (s.modInbox f).bln = s.bln := rfl
@[simp] theorem State.modInbox_sec : (s.modInbox f).sec = s.sec := rfl
@[simp] theorem State.modInbox_thm : (s.modInbox f).thm = s.thm := rfl
@[simp] theorem State.modInbox_host : (s.modInbox f).host = s.host := rfl
@[simp] theorem State.modInbox_pins : (s.modInbox f).pins = s.pins := rfl
@[simp] theorem State.modInbox_inbox : (s.modInbox f).inbox = f s.inbox := rfl
@[simp] theorem State.modInbox_out : (s.modInbox f).out = s.out := rfl
@[simp] theorem State.modInbox_draws : (s.modInbox f).draws = s.draws := rfl
end

section
variable (f : (Tab Shaper) → Tab Shaper) (s : State)
@[simp] theorem State.modShapers_pending : (s.modShapers f).pending = s.pending := rfl
@[simp] theorem State.modShapers_fuses : (s.modShapers f).fuses = s.fuses := rfl
@[simp] theorem State.modShapers_glb : (s.modShapers f).glb = s.glb := rfl
@[simp] theorem State.modShapers_flt : (s.modShapers f).flt = s.flt := rfl
@[simp] theorem State.modShapers_attic : (s.modShapers f).attic = s.attic := rfl
@[simp] theorem State.modShapers_bel : (s.modShapers f).bel = s.bel := rfl
@[simp] theorem State.modShapers_clock : (s.modShapers f).clock = s.clock := rfl
@[simp] theorem State.modShapers_shapers : (s.modShapers f).shapers = f s.shapers := rfl
@[simp] theorem State.modShapers_gates : (s.modShapers f).gates = s.gates := rfl
@[simp] theorem State.modShapers_swc : (s.modShapers f).swc = s.swc := rfl
@[simp] theorem State.modShapers_rte : (s.modShapers f).rte = s.rte := rfl
@[simp] theorem State.modShapers_fld : (s.modShapers f).fld = s.fld := rfl
@[simp] theorem State.modShapers_cel : (s.modShapers f).cel = s.cel := rfl
@[simp] theorem State.modShapers_ats : (s.modShapers f).ats = s.ats := rfl
@[simp] theorem State.modShapers_crf : (s.modShapers f).crf = s.crf := rfl
@[simp] theorem State.modShapers_img : (s.modShapers f).img = s.img := rfl
@[simp] theorem State.modShapers_lnk : (s.modShapers f).lnk = s.lnk := rfl
@[simp] theorem State.modShapers_bln : (s.modShapers f).bln = s.bln := rfl
@[simp] theorem State.modShapers_sec : (s.modShapers f).sec = s.sec := rfl
@[simp] theorem State.modShapers_thm : (s.modShapers f).thm = s.thm := rfl
@[simp] theorem State.modShapers_host : (s.modShapers f).host = s.host := rfl
@[simp] theorem State.modShapers_pins : (s.modShapers f).pins = s.pins := rfl
@[simp] theorem State.modShapers_inbox : (s.modShapers f).inbox = s.inbox := rfl
@[simp] theorem State.modShapers_out : (s.modShapers f).out = s.out := rfl
@[simp] theorem State.modShapers_draws : (s.modShapers f).draws = s.draws := rfl
end

section
variable (o : Output) (s : State)
@[simp] theorem State.emit_pending : (s.emit o).pending = s.pending := rfl
@[simp] theorem State.emit_fuses : (s.emit o).fuses = s.fuses := rfl
@[simp] theorem State.emit_glb : (s.emit o).glb = s.glb := rfl
@[simp] theorem State.emit_flt : (s.emit o).flt = s.flt := rfl
@[simp] theorem State.emit_attic : (s.emit o).attic = s.attic := rfl
@[simp] theorem State.emit_bel : (s.emit o).bel = s.bel := rfl
@[simp] theorem State.emit_clock : (s.emit o).clock = s.clock := rfl
@[simp] theorem State.emit_shapers : (s.emit o).shapers = s.shapers := rfl
@[simp] theorem State.emit_gates : (s.emit o).gates = s.gates := rfl
@[simp] theorem State.emit_swc : (s.emit o).swc = s.swc := rfl
@[simp] theorem State.emit_rte : (s.emit o).rte = s.rte := rfl
@[simp] theorem State.emit_fld : (s.emit o).fld = s.fld := rfl
@[simp] theorem State.emit_cel : (s.emit o).cel = s.cel := rfl
@[simp] theorem State.emit_ats : (s.emit o).ats = s.ats := rfl
@[simp] theorem State.emit_crf : (s.emit o).crf = s.crf := rfl
@[simp] theorem State.emit_img : (s.emit o).img = s.img := rfl
@[simp] theorem State.emit_lnk : (s.emit o).lnk = s.lnk := rfl
@[simp] theorem State.emit_bln : (s.emit o).bln = s.bln := rfl
@[simp] theorem State.emit_sec : (s.emit o).sec = s.sec := rfl
@[simp] theorem State.emit_thm : (s.emit o).thm = s.thm := rfl
@[simp] theorem State.emit_host : (s.emit o).host = s.host := rfl
@[simp] theorem State.emit_pins : (s.emit o).pins = s.pins := rfl
@[simp] theorem State.emit_inbox : (s.emit o).inbox = s.inbox := rfl
@[simp] theorem State.emit_out : (s.emit o).out = o :: s.out := rfl
@[simp] theorem State.emit_draws : (s.emit o).draws = s.draws := rfl
end

section
variable (n : Nat) (s : State)
variable (f : SlotReg → SlotReg)
@[simp] theorem State.modSlot_pending : (s.modSlot n f).pending = s.pending := rfl
@[simp] theorem State.modSlot_fuses : (s.modSlot n f).fuses = s.fuses := rfl
@[simp] theorem State.modSlot_glb : (s.modSlot n f).glb = s.glb := rfl
@[simp] theorem State.modSlot_flt : (s.modSlot n f).flt = s.flt := rfl
@[simp] theorem State.modSlot_attic : (s.modSlot n f).attic = s.attic := rfl
@[simp] theorem State.modSlot_bel : (s.modSlot n f).bel = s.bel := rfl
@[simp] theorem State.modSlot_clock : (s.modSlot n f).clock = s.clock := rfl
@[simp] theorem State.modSlot_shapers : (s.modSlot n f).shapers = s.shapers := rfl
@[simp] theorem State.modSlot_gates : (s.modSlot n f).gates = s.gates := rfl
@[simp] theorem State.modSlot_rte : (s.modSlot n f).rte = s.rte := rfl
@[simp] theorem State.modSlot_fld : (s.modSlot n f).fld = s.fld := rfl
@[simp] theorem State.modSlot_cel : (s.modSlot n f).cel = s.cel := rfl
@[simp] theorem State.modSlot_ats : (s.modSlot n f).ats = s.ats := rfl
@[simp] theorem State.modSlot_crf : (s.modSlot n f).crf = s.crf := rfl
@[simp] theorem State.modSlot_img : (s.modSlot n f).img = s.img := rfl
@[simp] theorem State.modSlot_lnk : (s.modSlot n f).lnk = s.lnk := rfl
@[simp] theorem State.modSlot_bln : (s.modSlot n f).bln = s.bln := rfl
@[simp] theorem State.modSlot_sec : (s.modSlot n f).sec = s.sec := rfl
@[simp] theorem State.modSlot_thm : (s.modSlot n f).thm = s.thm := rfl
@[simp] theorem State.modSlot_host : (s.modSlot n f).host = s.host := rfl
@[simp] theorem State.modSlot_pins : (s.modSlot n f).pins = s.pins := rfl
@[simp] theorem State.modSlot_inbox : (s.modSlot n f).inbox = s.inbox := rfl
@[simp] theorem State.modSlot_out : (s.modSlot n f).out = s.out := rfl
@[simp] theorem State.modSlot_draws : (s.modSlot n f).draws = s.draws := rfl
theorem State.modSlot_slotReg (m : Nat) : (s.modSlot n f).slotReg m = if m = n then f (s.slotReg n) else s.slotReg m := by
  simp only [State.modSlot, State.slotReg, State.modSwc, Tab.look_edit]
@[simp] theorem State.modSlot_slotReg_self : (s.modSlot n f).slotReg n = f (s.slotReg n) := by simp [State.modSlot_slotReg]
end

section
variable (n : Nat) (s : State)
variable (f : Link → Link)
@[simp] theorem State.modLink_pending : (s.modLink n f).pending = s.pending := rfl
@[simp] theorem State.modLink_fuses : (s.modLink n f).fuses = s.fuses := rfl
@[simp] theorem State.modLink_glb : (s.modLink n f).glb = s.glb := rfl
@[simp] theorem State.modLink_flt : (s.modLink n f).flt = s.flt := rfl
@[simp] theorem State.modLink_attic : (s.modLink n f).attic = s.attic := rfl
@[simp] theorem State.modLink_bel : (s.modLink n f).bel = s.bel := rfl
@[simp] theorem State.modLink_clock : (s.modLink n f).clock = s.clock := rfl
@[simp] theorem State.modLink_shapers : (s.modLink n f).shapers = s.shapers := rfl
@[simp] theorem State.modLink_gates : (s.modLink n f).gates = s.gates := rfl
@[simp] theorem State.modLink_rte : (s.modLink n f).rte = s.rte := rfl
@[simp] theorem State.modLink_fld : (s.modLink n f).fld = s.fld := rfl
@[simp] theorem State.modLink_cel : (s.modLink n f).cel = s.cel := rfl
@[simp] theorem State.modLink_ats : (s.modLink n f).ats = s.ats := rfl
@[simp] theorem State.modLink_crf : (s.modLink n f).crf = s.crf := rfl
@[simp] theorem State.modLink_img : (s.modLink n f).img = s.img := rfl
@[simp] theorem State.modLink_lnk : (s.modLink n f).lnk = s.lnk := rfl
@[simp] theorem State.modLink_bln : (s.modLink n f).bln = s.bln := rfl
@[simp] theorem State.modLink_sec : (s.modLink n f).sec = s.sec := rfl
@[simp] theorem State.modLink_thm : (s.modLink n f).thm = s.thm := rfl
@[simp] theorem State.modLink_host : (s.modLink n f).host = s.host := rfl
@[simp] theorem State.modLink_pins : (s.modLink n f).pins = s.pins := rfl
@[simp] theorem State.modLink_inbox : (s.modLink n f).inbox = s.inbox := rfl
@[simp] theorem State.modLink_out : (s.modLink n f).out = s.out := rfl
@[simp] theorem State.modLink_draws : (s.modLink n f).draws = s.draws := rfl
theorem State.modLink_link (m : Nat) : (s.modLink n f).link m = if m = n then f (s.link n) else s.link m := by
  simp only [State.modLink, State.link, State.modSwc, Tab.look_edit]
@[simp] theorem State.modLink_link_self : (s.modLink n f).link n = f (s.link n) := by simp [State.modLink_link]
end

section
variable (n : Nat) (s : State)
variable (f : OptPort → OptPort)
@[simp] theorem State.modOptPort_pending : (s.modOptPort n f).pending = s.pending := rfl
@[simp] theorem State.modOptPort_fuses : (s.modOptPort n f).fuses = s.fuses := rfl
@[simp] theorem State.modOptPort_glb : (s.modOptPort n f).glb = s.glb := rfl
@[simp] theorem State.modOptPort_flt : (s.modOptPort n f).flt = s.flt := rfl
@[simp] theorem State.modOptPort_attic : (s.modOptPort n f).attic = s.attic := rfl
@[simp] theorem State.modOptPort_bel : (s.modOptPort n f).bel = s.bel := rfl
@[simp] theorem State.modOptPort_clock : (s.modOptPort n f).clock = s.clock := rfl
@[simp] theorem State.modOptPort_shapers : (s.modOptPort n f).shapers = s.shapers := rfl
@[simp] theorem State.modOptPort_gates : (s.modOptPort n f).gates = s.gates := rfl
@[simp] theorem State.modOptPort_swc : (s.modOptPort n f).swc = s.swc := rfl
@[simp] theorem State.modOptPort_rte : (s.modOptPort n f).rte = s.rte := rfl
@[simp] theorem State.modOptPort_fld : (s.modOptPort n f).fld = s.fld := rfl
@[simp] theorem State.modOptPort_cel : (s.modOptPort n f).cel = s.cel := rfl
@[simp] theorem State.modOptPort_ats : (s.modOptPort n f).ats = s.ats := rfl
@[simp] theorem State.modOptPort_crf : (s.modOptPort n f).crf = s.crf := rfl
@[simp] theorem State.modOptPort_img : (s.modOptPort n f).img = s.img := rfl
@[simp] theorem State.modOptPort_bln : (s.modOptPort n f).bln = s.bln := rfl
@[simp] theorem State.modOptPort_sec : (s.modOptPort n f).sec = s.sec := rfl
@[simp] theorem State.modOptPort_thm : (s.modOptPort n f).thm = s.thm := rfl
@[simp] theorem State.modOptPort_host : (s.modOptPort n f).host = s.host := rfl
@[simp] theorem State.modOptPort_pins : (s.modOptPort n f).pins = s.pins := rfl
@[simp] theorem State.modOptPort_inbox : (s.modOptPort n f).inbox = s.inbox := rfl
@[simp] theorem State.modOptPort_out : (s.modOptPort n f).out = s.out := rfl
@[simp] theorem State.modOptPort_draws : (s.modOptPort n f).draws = s.draws := rfl
theorem State.modOptPort_optPort (m : Nat) : (s.modOptPort n f).optPort m = if m = n then f (s.optPort n) else s.optPort m := by
  simp only [State.modOptPort, State.optPort, State.modLnk, Tab.look_edit]
@[simp] theorem State.modOptPort_optPort_self : (s.modOptPort n f).optPort n = f (s.optPort n) := by simp [State.modOptPort_optPort]
end

section
variable (n : Nat) (s : State)
variable (f : OptEngine → OptEngine)
@[simp] theorem State.modEngine_pending : (s.modEngine n f).pending = s.pending := rfl
@[simp] theorem State.modEngine_fuses : (s.modEngine n f).fuses = s.fuses := rfl
@[simp] theorem State.modEngine_glb : (s.modEngine n f).glb = s.glb := rfl
@[simp] theorem State.modEngine_flt : (s.modEngine n f).flt = s.flt := rfl
@[simp] theorem State.modEngine_attic : (s.modEngine n f).attic = s.attic := rfl
@[simp] theorem State.modEngine_bel : (s.modEngine n f).bel = s.bel := rfl
@[simp] theorem State.modEngine_clock : (s.modEngine n f).clock = s.clock := rfl
@[simp] theorem State.modEngine_shapers : (s.modEngine n f).shapers = s.shapers := rfl
@[simp] theorem State.modEngine_gates : (s.modEngine n f).gates = s.gates := rfl
@[simp] theorem State.modEngine_swc : (s.modEngine n f).swc = s.swc := rfl
@[simp] theorem State.modEngine_rte : (s.modEngine n f).rte = s.rte := rfl
@[simp] theorem State.modEngine_fld : (s.modEngine n f).fld = s.fld := rfl
@[simp] theorem State.modEngine_cel : (s.modEngine n f).cel = s.cel := rfl
@[simp] theorem State.modEngine_ats : (s.modEngine n f).ats = s.ats := rfl
@[simp] theorem State.modEngine_crf : (s.modEngine n f).crf = s.crf := rfl
@[simp] theorem State.modEngine_img : (s.modEngine n f).img = s.img := rfl
@[simp] theorem State.modEngine_bln : (s.modEngine n f).bln = s.bln := rfl
@[simp] theorem State.modEngine_sec : (s.modEngine n f).sec = s.sec := rfl
@[simp] theorem State.modEngine_thm : (s.modEngine n f).thm = s.thm := rfl
@[simp] theorem State.modEngine_host : (s.modEngine n f).host = s.host := rfl
@[simp] theorem State.modEngine_pins : (s.modEngine n f).pins = s.pins := rfl
@[simp] theorem State.modEngine_inbox : (s.modEngine n f).inbox = s.inbox := rfl
@[simp] theorem State.modEngine_out : (s.modEngine n f).out = s.out := rfl
@[simp] theorem State.modEngine_draws : (s.modEngine n f).draws = s.draws := rfl
theorem State.modEngine_engine (m : Nat) : (s.modEngine n f).engine m = if m = n then f (s.engine n) else s.engine m := by
  simp only [State.modEngine, State.engine, State.modLnk, Tab.look_edit]
@[simp] theorem State.modEngine_engine_self : (s.modEngine n f).engine n = f (s.engine n) := by simp [State.modEngine_engine]
end

section
variable (n : Nat) (s : State)
variable (f : BellPort → BellPort)
@[simp] theorem State.modBellPort_pending : (s.modBellPort n f).pending = s.pending := rfl
@[simp] theorem State.modBellPort_fuses : (s.modBellPort n f).fuses = s.fuses := rfl
@[simp] theorem State.modBellPort_glb : (s.modBellPort n f).glb = s.glb := rfl
@[simp] theorem State.modBellPort_flt : (s.modBellPort n f).flt = s.flt := rfl
@[simp] theorem State.modBellPort_attic : (s.modBellPort n f).attic = s.attic := rfl
@[simp] theorem State.modBellPort_clock : (s.modBellPort n f).clock = s.clock := rfl
@[simp] theorem State.modBellPort_shapers : (s.modBellPort n f).shapers = s.shapers := rfl
@[simp] theorem State.modBellPort_gates : (s.modBellPort n f).gates = s.gates := rfl
@[simp] theorem State.modBellPort_swc : (s.modBellPort n f).swc = s.swc := rfl
@[simp] theorem State.modBellPort_rte : (s.modBellPort n f).rte = s.rte := rfl
@[simp] theorem State.modBellPort_fld : (s.modBellPort n f).fld = s.fld := rfl
@[simp] theorem State.modBellPort_cel : (s.modBellPort n f).cel = s.cel := rfl
@[simp] theorem State.modBellPort_ats : (s.modBellPort n f).ats = s.ats := rfl
@[simp] theorem State.modBellPort_crf : (s.modBellPort n f).crf = s.crf := rfl
@[simp] theorem State.modBellPort_img : (s.modBellPort n f).img = s.img := rfl
@[simp] theorem State.modBellPort_lnk : (s.modBellPort n f).lnk = s.lnk := rfl
@[simp] theorem State.modBellPort_bln : (s.modBellPort n f).bln = s.bln := rfl
@[simp] theorem State.modBellPort_sec : (s.modBellPort n f).sec = s.sec := rfl
@[simp] theorem State.modBellPort_thm : (s.modBellPort n f).thm = s.thm := rfl
@[simp] theorem State.modBellPort_host : (s.modBellPort n f).host = s.host := rfl
@[simp] theorem State.modBellPort_pins : (s.modBellPort n f).pins = s.pins := rfl
@[simp] theorem State.modBellPort_inbox : (s.modBellPort n f).inbox = s.inbox := rfl
@[simp] theorem State.modBellPort_out : (s.modBellPort n f).out = s.out := rfl
@[simp] theorem State.modBellPort_draws : (s.modBellPort n f).draws = s.draws := rfl
theorem State.modBellPort_bellPort (m : Nat) : (s.modBellPort n f).bellPort m = if m = n then f (s.bellPort n) else s.bellPort m := by
  simp only [State.modBellPort, State.bellPort, State.modBel, Tab.look_edit]
@[simp] theorem State.modBellPort_bellPort_self : (s.modBellPort n f).bellPort n = f (s.bellPort n) := by simp [State.modBellPort_bellPort]
end

section
variable (n : Nat) (s : State)
variable (f : Barrier → Barrier)
@[simp] theorem State.modBarrier_pending : (s.modBarrier n f).pending = s.pending := rfl
@[simp] theorem State.modBarrier_fuses : (s.modBarrier n f).fuses = s.fuses := rfl
@[simp] theorem State.modBarrier_glb : (s.modBarrier n f).glb = s.glb := rfl
@[simp] theorem State.modBarrier_flt : (s.modBarrier n f).flt = s.flt := rfl
@[simp] theorem State.modBarrier_attic : (s.modBarrier n f).attic = s.attic := rfl
@[simp] theorem State.modBarrier_clock : (s.modBarrier n f).clock = s.clock := rfl
@[simp] theorem State.modBarrier_shapers : (s.modBarrier n f).shapers = s.shapers := rfl
@[simp] theorem State.modBarrier_gates : (s.modBarrier n f).gates = s.gates := rfl
@[simp] theorem State.modBarrier_swc : (s.modBarrier n f).swc = s.swc := rfl
@[simp] theorem State.modBarrier_rte : (s.modBarrier n f).rte = s.rte := rfl
@[simp] theorem State.modBarrier_fld : (s.modBarrier n f).fld = s.fld := rfl
@[simp] theorem State.modBarrier_cel : (s.modBarrier n f).cel = s.cel := rfl
@[simp] theorem State.modBarrier_ats : (s.modBarrier n f).ats = s.ats := rfl
@[simp] theorem State.modBarrier_crf : (s.modBarrier n f).crf = s.crf := rfl
@[simp] theorem State.modBarrier_img : (s.modBarrier n f).img = s.img := rfl
@[simp] theorem State.modBarrier_lnk : (s.modBarrier n f).lnk = s.lnk := rfl
@[simp] theorem State.modBarrier_bln : (s.modBarrier n f).bln = s.bln := rfl
@[simp] theorem State.modBarrier_sec : (s.modBarrier n f).sec = s.sec := rfl
@[simp] theorem State.modBarrier_thm : (s.modBarrier n f).thm = s.thm := rfl
@[simp] theorem State.modBarrier_host : (s.modBarrier n f).host = s.host := rfl
@[simp] theorem State.modBarrier_pins : (s.modBarrier n f).pins = s.pins := rfl
@[simp] theorem State.modBarrier_inbox : (s.modBarrier n f).inbox = s.inbox := rfl
@[simp] theorem State.modBarrier_out : (s.modBarrier n f).out = s.out := rfl
@[simp] theorem State.modBarrier_draws : (s.modBarrier n f).draws = s.draws := rfl
theorem State.modBarrier_barrier (m : Nat) : (s.modBarrier n f).barrier m = if m = n then f (s.barrier n) else s.barrier m := by
  simp only [State.modBarrier, State.barrier, State.modBel, Tab.look_edit]
@[simp] theorem State.modBarrier_barrier_self : (s.modBarrier n f).barrier n = f (s.barrier n) := by simp [State.modBarrier_barrier]
end

section
variable (n : Nat) (s : State)
variable (f : BlnPort → BlnPort)
@[simp] theorem State.modBln_pending : (s.modBln n f).pending = s.pending := rfl
@[simp] theorem State.modBln_fuses : (s.modBln n f).fuses = s.fuses := rfl
@[simp] theorem State.modBln_glb : (s.modBln n f).glb = s.glb := rfl
@[simp] theorem State.modBln_flt : (s.modBln n f).flt = s.flt := rfl
@[simp] theorem State.modBln_attic : (s.modBln n f).attic = s.attic := rfl
@[simp] theorem State.modBln_bel : (s.modBln n f).bel = s.bel := rfl
@[simp] theorem State.modBln_clock : (s.modBln n f).clock = s.clock := rfl
@[simp] theorem State.modBln_shapers : (s.modBln n f).shapers = s.shapers := rfl
@[simp] theorem State.modBln_gates : (s.modBln n f).gates = s.gates := rfl
@[simp] theorem State.modBln_swc : (s.modBln n f).swc = s.swc := rfl
@[simp] theorem State.modBln_rte : (s.modBln n f).rte = s.rte := rfl
@[simp] theorem State.modBln_fld : (s.modBln n f).fld = s.fld := rfl
@[simp] theorem State.modBln_cel : (s.modBln n f).cel = s.cel := rfl
@[simp] theorem State.modBln_ats : (s.modBln n f).ats = s.ats := rfl
@[simp] theorem State.modBln_crf : (s.modBln n f).crf = s.crf := rfl
@[simp] theorem State.modBln_img : (s.modBln n f).img = s.img := rfl
@[simp] theorem State.modBln_lnk : (s.modBln n f).lnk = s.lnk := rfl
@[simp] theorem State.modBln_sec : (s.modBln n f).sec = s.sec := rfl
@[simp] theorem State.modBln_thm : (s.modBln n f).thm = s.thm := rfl
@[simp] theorem State.modBln_host : (s.modBln n f).host = s.host := rfl
@[simp] theorem State.modBln_pins : (s.modBln n f).pins = s.pins := rfl
@[simp] theorem State.modBln_inbox : (s.modBln n f).inbox = s.inbox := rfl
@[simp] theorem State.modBln_out : (s.modBln n f).out = s.out := rfl
@[simp] theorem State.modBln_draws : (s.modBln n f).draws = s.draws := rfl
theorem State.modBln_blnPort (m : Nat) : (s.modBln n f).blnPort m = if m = n then f (s.blnPort n) else s.blnPort m := by
  simp only [State.modBln, State.blnPort, Tab.look_edit]
@[simp] theorem State.modBln_blnPort_self : (s.modBln n f).blnPort n = f (s.blnPort n) := by simp [State.modBln_blnPort]
end

section
variable (n : Nat) (s : State)
variable (f : GatePort → GatePort)
@[simp] theorem State.modGate_pending : (s.modGate n f).pending = s.pending := rfl
@[simp] theorem State.modGate_fuses : (s.modGate n f).fuses = s.fuses := rfl
@[simp] theorem State.modGate_glb : (s.modGate n f).glb = s.glb := rfl
@[simp] theorem State.modGate_flt : (s.modGate n f).flt = s.flt := rfl
@[simp] theorem State.modGate_attic : (s.modGate n f).attic = s.attic := rfl
@[simp] theorem State.modGate_bel : (s.modGate n f).bel = s.bel := rfl
@[simp] theorem State.modGate_clock : (s.modGate n f).clock = s.clock := rfl
@[simp] theorem State.modGate_shapers : (s.modGate n f).shapers = s.shapers := rfl
@[simp] theorem State.modGate_swc : (s.modGate n f).swc = s.swc := rfl
@[simp] theorem State.modGate_rte : (s.modGate n f).rte = s.rte := rfl
@[simp] theorem State.modGate_fld : (s.modGate n f).fld = s.fld := rfl
@[simp] theorem State.modGate_cel : (s.modGate n f).cel = s.cel := rfl
@[simp] theorem State.modGate_ats : (s.modGate n f).ats = s.ats := rfl
@[simp] theorem State.modGate_crf : (s.modGate n f).crf = s.crf := rfl
@[simp] theorem State.modGate_img : (s.modGate n f).img = s.img := rfl
@[simp] theorem State.modGate_lnk : (s.modGate n f).lnk = s.lnk := rfl
@[simp] theorem State.modGate_bln : (s.modGate n f).bln = s.bln := rfl
@[simp] theorem State.modGate_sec : (s.modGate n f).sec = s.sec := rfl
@[simp] theorem State.modGate_thm : (s.modGate n f).thm = s.thm := rfl
@[simp] theorem State.modGate_host : (s.modGate n f).host = s.host := rfl
@[simp] theorem State.modGate_pins : (s.modGate n f).pins = s.pins := rfl
@[simp] theorem State.modGate_inbox : (s.modGate n f).inbox = s.inbox := rfl
@[simp] theorem State.modGate_out : (s.modGate n f).out = s.out := rfl
@[simp] theorem State.modGate_draws : (s.modGate n f).draws = s.draws := rfl
theorem State.modGate_gatePort (m : Nat) : (s.modGate n f).gatePort m = if m = n then f (s.gatePort n) else s.gatePort m := by
  simp only [State.modGate, State.gatePort, Tab.look_edit]
@[simp] theorem State.modGate_gatePort_self : (s.modGate n f).gatePort n = f (s.gatePort n) := by simp [State.modGate_gatePort]
end

section
variable (n : Nat) (s : State)
variable (f : Tract → Tract)
@[simp] theorem State.modTract_pending : (s.modTract n f).pending = s.pending := rfl
@[simp] theorem State.modTract_fuses : (s.modTract n f).fuses = s.fuses := rfl
@[simp] theorem State.modTract_glb : (s.modTract n f).glb = s.glb := rfl
@[simp] theorem State.modTract_flt : (s.modTract n f).flt = s.flt := rfl
@[simp] theorem State.modTract_attic : (s.modTract n f).attic = s.attic := rfl
@[simp] theorem State.modTract_bel : (s.modTract n f).bel = s.bel := rfl
@[simp] theorem State.modTract_clock : (s.modTract n f).clock = s.clock := rfl
@[simp] theorem State.modTract_shapers : (s.modTract n f).shapers = s.shapers := rfl
@[simp] theorem State.modTract_gates : (s.modTract n f).gates = s.gates := rfl
@[simp] theorem State.modTract_swc : (s.modTract n f).swc = s.swc := rfl
@[simp] theorem State.modTract_rte : (s.modTract n f).rte = s.rte := rfl
@[simp] theorem State.modTract_fld : (s.modTract n f).fld = s.fld := rfl
@[simp] theorem State.modTract_ats : (s.modTract n f).ats = s.ats := rfl
@[simp] theorem State.modTract_crf : (s.modTract n f).crf = s.crf := rfl
@[simp] theorem State.modTract_img : (s.modTract n f).img = s.img := rfl
@[simp] theorem State.modTract_lnk : (s.modTract n f).lnk = s.lnk := rfl
@[simp] theorem State.modTract_bln : (s.modTract n f).bln = s.bln := rfl
@[simp] theorem State.modTract_sec : (s.modTract n f).sec = s.sec := rfl
@[simp] theorem State.modTract_thm : (s.modTract n f).thm = s.thm := rfl
@[simp] theorem State.modTract_host : (s.modTract n f).host = s.host := rfl
@[simp] theorem State.modTract_pins : (s.modTract n f).pins = s.pins := rfl
@[simp] theorem State.modTract_inbox : (s.modTract n f).inbox = s.inbox := rfl
@[simp] theorem State.modTract_out : (s.modTract n f).out = s.out := rfl
@[simp] theorem State.modTract_draws : (s.modTract n f).draws = s.draws := rfl
theorem State.modTract_tract (m : Nat) : (s.modTract n f).tract m = if m = n then f (s.tract n) else s.tract m := by
  simp only [State.modTract, State.tract, State.modCel, Tab.look_edit]
@[simp] theorem State.modTract_tract_self : (s.modTract n f).tract n = f (s.tract n) := by simp [State.modTract_tract]
end

section
variable (n : Nat) (s : State)
variable (f : AtsTract → AtsTract)
@[simp] theorem State.modAtsTract_pending : (s.modAtsTract n f).pending = s.pending := rfl
@[simp] theorem State.modAtsTract_fuses : (s.modAtsTract n f).fuses = s.fuses := rfl
@[simp] theorem State.modAtsTract_glb : (s.modAtsTract n f).glb = s.glb := rfl
@[simp] theorem State.modAtsTract_flt : (s.modAtsTract n f).flt = s.flt := rfl
@[simp] theorem State.modAtsTract_attic : (s.modAtsTract n f).attic = s.attic := rfl
@[simp] theorem State.modAtsTract_bel : (s.modAtsTract n f).bel = s.bel := rfl
@[simp] theorem State.modAtsTract_clock : (s.modAtsTract n f).clock = s.clock := rfl
@[simp] theorem State.modAtsTract_shapers : (s.modAtsTract n f).shapers = s.shapers := rfl
@[simp] theorem State.modAtsTract_gates : (s.modAtsTract n f).gates = s.gates := rfl
@[simp] theorem State.modAtsTract_swc : (s.modAtsTract n f).swc = s.swc := rfl
@[simp] theorem State.modAtsTract_rte : (s.modAtsTract n f).rte = s.rte := rfl
@[simp] theorem State.modAtsTract_fld : (s.modAtsTract n f).fld = s.fld := rfl
@[simp] theorem State.modAtsTract_cel : (s.modAtsTract n f).cel = s.cel := rfl
@[simp] theorem State.modAtsTract_crf : (s.modAtsTract n f).crf = s.crf := rfl
@[simp] theorem State.modAtsTract_img : (s.modAtsTract n f).img = s.img := rfl
@[simp] theorem State.modAtsTract_lnk : (s.modAtsTract n f).lnk = s.lnk := rfl
@[simp] theorem State.modAtsTract_bln : (s.modAtsTract n f).bln = s.bln := rfl
@[simp] theorem State.modAtsTract_sec : (s.modAtsTract n f).sec = s.sec := rfl
@[simp] theorem State.modAtsTract_thm : (s.modAtsTract n f).thm = s.thm := rfl
@[simp] theorem State.modAtsTract_host : (s.modAtsTract n f).host = s.host := rfl
@[simp] theorem State.modAtsTract_pins : (s.modAtsTract n f).pins = s.pins := rfl
@[simp] theorem State.modAtsTract_inbox : (s.modAtsTract n f).inbox = s.inbox := rfl
@[simp] theorem State.modAtsTract_out : (s.modAtsTract n f).out = s.out := rfl
@[simp] theorem State.modAtsTract_draws : (s.modAtsTract n f).draws = s.draws := rfl
theorem State.modAtsTract_attn (m : Nat) : (s.modAtsTract n f).attn m = if m = n then f (s.attn n) else s.attn m := by
  simp only [State.modAtsTract, State.attn, State.modAts, Tab.look_edit]
@[simp] theorem State.modAtsTract_attn_self : (s.modAtsTract n f).attn n = f (s.attn n) := by simp [State.modAtsTract_attn]
end

section
variable (n : Nat) (s : State)
variable (f : Croft → Croft)
@[simp] theorem State.modCroft_pending : (s.modCroft n f).pending = s.pending := rfl
@[simp] theorem State.modCroft_fuses : (s.modCroft n f).fuses = s.fuses := rfl
@[simp] theorem State.modCroft_glb : (s.modCroft n f).glb = s.glb := rfl
@[simp] theorem State.modCroft_flt : (s.modCroft n f).flt = s.flt := rfl
@[simp] theorem State.modCroft_attic : (s.modCroft n f).attic = s.attic := rfl
@[simp] theorem State.modCroft_bel : (s.modCroft n f).bel = s.bel := rfl
@[simp] theorem State.modCroft_clock : (s.modCroft n f).clock = s.clock := rfl
@[simp] theorem State.modCroft_shapers : (s.modCroft n f).shapers = s.shapers := rfl
@[simp] theorem State.modCroft_gates : (s.modCroft n f).gates = s.gates := rfl
@[simp] theorem State.modCroft_swc : (s.modCroft n f).swc = s.swc := rfl
@[simp] theorem State.modCroft_rte : (s.modCroft n f).rte = s.rte := rfl
@[simp] theorem State.modCroft_fld : (s.modCroft n f).fld = s.fld := rfl
@[simp] theorem State.modCroft_cel : (s.modCroft n f).cel = s.cel := rfl
@[simp] theorem State.modCroft_ats : (s.modCroft n f).ats = s.ats := rfl
@[simp] theorem State.modCroft_img : (s.modCroft n f).img = s.img := rfl
@[simp] theorem State.modCroft_lnk : (s.modCroft n f).lnk = s.lnk := rfl
@[simp] theorem State.modCroft_bln : (s.modCroft n f).bln = s.bln := rfl
@[simp] theorem State.modCroft_sec : (s.modCroft n f).sec = s.sec := rfl
@[simp] theorem State.modCroft_thm : (s.modCroft n f).thm = s.thm := rfl
@[simp] theorem State.modCroft_host : (s.modCroft n f).host = s.host := rfl
@[simp] theorem State.modCroft_pins : (s.modCroft n f).pins = s.pins := rfl
@[simp] theorem State.modCroft_inbox : (s.modCroft n f).inbox = s.inbox := rfl
@[simp] theorem State.modCroft_out : (s.modCroft n f).out = s.out := rfl
@[simp] theorem State.modCroft_draws : (s.modCroft n f).draws = s.draws := rfl
theorem State.modCroft_croft (m : Nat) : (s.modCroft n f).croft m = if m = n then f (s.croft n) else s.croft m := by
  simp only [State.modCroft, State.croft, State.modCrf, Tab.look_edit]
@[simp] theorem State.modCroft_croft_self : (s.modCroft n f).croft n = f (s.croft n) := by simp [State.modCroft_croft]
end

end Sys2Proof.Machine
end

