-- ==== Sys2Proof/Laws/Frame.lean ====
section
/-! SUPPORT. Laws/Frame.lean: how frames compose: what a chain of operations changes is what its operations change. -/

namespace Sys2Proof.Machine

variable {ps qs : List Part} {a s t u : State}

theorem Agree.refl (p : Part) (s : State) : Agree p s s := by cases p <;> rfl

theorem Agree.trans {p : Part} (h : Agree p s t) (g : Agree p t u) : Agree p s u := by
  cases p <;> exact Eq.trans g h

theorem ChangesOnly.refl (ps : List Part) (s : State) : ChangesOnly ps s s := fun p _ => Agree.refl p s

theorem ChangesOnly.trans (h : ChangesOnly ps s t) (g : ChangesOnly ps t u) : ChangesOnly ps s u :=
  fun p hp => (h p hp).trans (g p hp)

theorem ChangesOnly.mono (h : ChangesOnly qs s t) (sub : qs ⊆ ps) : ChangesOnly ps s t :=
  fun p hp => h p (fun x => hp (sub x))

/-- One more operation at the end of a chain. -/
theorem ChangesOnly.step (h : ChangesOnly ps a s) (g : ChangesOnly qs s t) (sub : qs ⊆ ps) : ChangesOnly ps a t :=
  h.trans (g.mono sub)

theorem ChangesOnly.ite_any {c : Prop} [Decidable c] (h : ChangesOnly ps a s) (g : ChangesOnly ps a t) :
    ChangesOnly ps a (if c then s else t) := by
  split <;> assumption

theorem ChangesOnly.ite_snd {α : Type} {c : Prop} [Decidable c] {x y : α × State} (h : ChangesOnly ps a x.2)
    (g : ChangesOnly ps a y.2) : ChangesOnly ps a (if c then x else y).2 := by
  split <;> assumption

theorem ChangesOnly.foldl {α : Type} {f : State → α → State} (l : List α) (h : ChangesOnly ps a s)
    (g : ∀ x t, ChangesOnly ps a t → ChangesOnly ps a (f t x)) : ChangesOnly ps a (l.foldl f s) := by
  induction l generalizing s with
  | nil => exact h
  | cons x r ih => exact ih (g x s h)

theorem ChangesOnly.foldl_snd {α β : Type} {f : β × State → α → β × State} {e : β × State} (l : List α)
    (h : ChangesOnly ps a e.2) (g : ∀ x t, ChangesOnly ps a t.2 → ChangesOnly ps a (f t x).2) :
    ChangesOnly ps a (l.foldl f e).2 := by
  induction l generalizing e with
  | nil => exact h
  | cons x r ih => exact ih (g x e h)

/-! ## One field -/

theorem ChangesOnly.set_pending (x : List Instr) (h : ChangesOnly ps a s) (m : Part.pending ∈ ps) : ChangesOnly ps a { s with pending := x } :=
  h.trans (fun p hp => by cases p <;> first | exact absurd m hp | rfl)
theorem ChangesOnly.set_fuses (x : Fuses) (h : ChangesOnly ps a s) (m : Part.fuses ∈ ps) : ChangesOnly ps a { s with fuses := x } :=
  h.trans (fun p hp => by cases p <;> first | exact absurd m hp | rfl)
theorem ChangesOnly.set_glb (x : Glb) (h : ChangesOnly ps a s) (m : Part.glb ∈ ps) : ChangesOnly ps a { s with glb := x } :=
  h.trans (fun p hp => by cases p <;> first | exact absurd m hp | rfl)
theorem ChangesOnly.set_attic (x : Attic) (h : ChangesOnly ps a s) (m : Part.attic ∈ ps) : ChangesOnly ps a { s with attic := x } :=
  h.trans (fun p hp => by cases p <;> first | exact absurd m hp | rfl)
theorem ChangesOnly.set_clock (x : Clock) (h : ChangesOnly ps a s) (m : Part.clock ∈ ps) : ChangesOnly ps a { s with clock := x } :=
  h.trans (fun p hp => by cases p <;> first | exact absurd m hp | rfl)
theorem ChangesOnly.set_shapers (x : Tab Shaper) (h : ChangesOnly ps a s) (m : Part.shapers ∈ ps) : ChangesOnly ps a { s with shapers := x } :=
  h.trans (fun p hp => by cases p <;> first | exact absurd m hp | rfl)
theorem ChangesOnly.set_gates (x : Tab GatePort) (h : ChangesOnly ps a s) (m : Part.gates ∈ ps) : ChangesOnly ps a { s with gates := x } :=
  h.trans (fun p hp => by cases p <;> first | exact absurd m hp | rfl)
theorem ChangesOnly.set_swc (x : Swc) (h : ChangesOnly ps a s) (m : Part.swc ∈ ps) : ChangesOnly ps a { s with swc := x } :=
  h.trans (fun p hp => by cases p <;> first | exact absurd m hp | rfl)
theorem ChangesOnly.set_rte (x : Rte) (h : ChangesOnly ps a s) (m : Part.rte ∈ ps) : ChangesOnly ps a { s with rte := x } :=
  h.trans (fun p hp => by cases p <;> first | exact absurd m hp | rfl)
theorem ChangesOnly.set_fld (x : Fld) (h : ChangesOnly ps a s) (m : Part.fld ∈ ps) : ChangesOnly ps a { s with fld := x } :=
  h.trans (fun p hp => by cases p <;> first | exact absurd m hp | rfl)
theorem ChangesOnly.set_ats (x : Ats) (h : ChangesOnly ps a s) (m : Part.ats ∈ ps) : ChangesOnly ps a { s with ats := x } :=
  h.trans (fun p hp => by cases p <;> first | exact absurd m hp | rfl)
theorem ChangesOnly.set_crf (x : Crf) (h : ChangesOnly ps a s) (m : Part.crf ∈ ps) : ChangesOnly ps a { s with crf := x } :=
  h.trans (fun p hp => by cases p <;> first | exact absurd m hp | rfl)
theorem ChangesOnly.set_lnk (x : Lnk) (h : ChangesOnly ps a s) (m : Part.lnk ∈ ps) : ChangesOnly ps a { s with lnk := x } :=
  h.trans (fun p hp => by cases p <;> first | exact absurd m hp | rfl)
theorem ChangesOnly.set_bln (x : Tab BlnPort) (h : ChangesOnly ps a s) (m : Part.bln ∈ ps) : ChangesOnly ps a { s with bln := x } :=
  h.trans (fun p hp => by cases p <;> first | exact absurd m hp | rfl)
theorem ChangesOnly.set_sec (x : Sec) (h : ChangesOnly ps a s) (m : Part.sec ∈ ps) : ChangesOnly ps a { s with sec := x } :=
  h.trans (fun p hp => by cases p <;> first | exact absurd m hp | rfl)
theorem ChangesOnly.set_thm (x : Thm) (h : ChangesOnly ps a s) (m : Part.thm ∈ ps) : ChangesOnly ps a { s with thm := x } :=
  h.trans (fun p hp => by cases p <;> first | exact absurd m hp | rfl)
theorem ChangesOnly.set_host (x : HostLink) (h : ChangesOnly ps a s) (m : Part.host ∈ ps) : ChangesOnly ps a { s with host := x } :=
  h.trans (fun p hp => by cases p <;> first | exact absurd m hp | rfl)
theorem ChangesOnly.set_pins (x : Pins) (h : ChangesOnly ps a s) (m : Part.pins ∈ ps) : ChangesOnly ps a { s with pins := x } :=
  h.trans (fun p hp => by cases p <;> first | exact absurd m hp | rfl)
theorem ChangesOnly.set_inbox (x : List (Nat × Packet)) (h : ChangesOnly ps a s) (m : Part.inbox ∈ ps) : ChangesOnly ps a { s with inbox := x } :=
  h.trans (fun p hp => by cases p <;> first | exact absurd m hp | rfl)
theorem ChangesOnly.set_out (x : List Output) (h : ChangesOnly ps a s) (m : Part.out ∈ ps) : ChangesOnly ps a { s with out := x } :=
  h.trans (fun p hp => by cases p <;> first | exact absurd m hp | rfl)
theorem ChangesOnly.set_draws (x : Nat) (h : ChangesOnly ps a s) (m : Part.draws ∈ ps) : ChangesOnly ps a { s with draws := x } :=
  h.trans (fun p hp => by cases p <;> first | exact absurd m hp | rfl)
theorem ChangesOnly.set_flt (x : Flt) (h : ChangesOnly ps a s) (m : Part.flt ∈ ps) (e : x.fatal = s.flt.fatal ∨ Part.fatal ∈ ps) :
    ChangesOnly ps a { s with flt := x } :=
  h.trans (fun p hp => by
    cases p <;> first | exact absurd m hp | rfl | exact e.elim id (fun e => absurd e hp))
theorem ChangesOnly.set_bel (x : Bel) (h : ChangesOnly ps a s) (m : Part.bel ∈ ps) (e : x.gt = s.bel.gt ∨ Part.gt ∈ ps) :
    ChangesOnly ps a { s with bel := x } :=
  h.trans (fun p hp => by
    cases p <;> first | exact absurd m hp | rfl | exact e.elim id (fun e => absurd e hp))
theorem ChangesOnly.set_cel (x : Cel) (h : ChangesOnly ps a s) (m : Part.cel ∈ ps) (e : x.mem = s.cel.mem ∨ Part.mem ∈ ps) :
    ChangesOnly ps a { s with cel := x } :=
  h.trans (fun p hp => by
    cases p <;> first | exact absurd m hp | rfl | exact e.elim id (fun e => absurd e hp))
theorem ChangesOnly.set_img (x : Img) (h : ChangesOnly ps a s) (m : Part.img ∈ ps) (e : x.buf = s.img.buf ∨ Part.buf ∈ ps) :
    ChangesOnly ps a { s with img := x } :=
  h.trans (fun p hp => by
    cases p <;> first | exact absurd m hp | rfl | exact e.elim id (fun e => absurd e hp))

/-! ## Updates -/

theorem ChangesOnly.modGlb (f : Glb → Glb) (h : ChangesOnly ps a s) (m : Part.glb ∈ ps) : ChangesOnly ps a (s.modGlb f) := h.set_glb _ m
theorem ChangesOnly.modAttic (f : Attic → Attic) (h : ChangesOnly ps a s) (m : Part.attic ∈ ps) : ChangesOnly ps a (s.modAttic f) := h.set_attic _ m
theorem ChangesOnly.modSwc (f : Swc → Swc) (h : ChangesOnly ps a s) (m : Part.swc ∈ ps) : ChangesOnly ps a (s.modSwc f) := h.set_swc _ m
theorem ChangesOnly.modRte (f : Rte → Rte) (h : ChangesOnly ps a s) (m : Part.rte ∈ ps) : ChangesOnly ps a (s.modRte f) := h.set_rte _ m
theorem ChangesOnly.modFld (f : Fld → Fld) (h : ChangesOnly ps a s) (m : Part.fld ∈ ps) : ChangesOnly ps a (s.modFld f) := h.set_fld _ m
theorem ChangesOnly.modAts (f : Ats → Ats) (h : ChangesOnly ps a s) (m : Part.ats ∈ ps) : ChangesOnly ps a (s.modAts f) := h.set_ats _ m
theorem ChangesOnly.modCrf (f : Crf → Crf) (h : ChangesOnly ps a s) (m : Part.crf ∈ ps) : ChangesOnly ps a (s.modCrf f) := h.set_crf _ m
theorem ChangesOnly.modLnk (f : Lnk → Lnk) (h : ChangesOnly ps a s) (m : Part.lnk ∈ ps) : ChangesOnly ps a (s.modLnk f) := h.set_lnk _ m
theorem ChangesOnly.modSec (f : Sec → Sec) (h : ChangesOnly ps a s) (m : Part.sec ∈ ps) : ChangesOnly ps a (s.modSec f) := h.set_sec _ m
theorem ChangesOnly.modThm (f : Thm → Thm) (h : ChangesOnly ps a s) (m : Part.thm ∈ ps) : ChangesOnly ps a (s.modThm f) := h.set_thm _ m
theorem ChangesOnly.modHost (f : HostLink → HostLink) (h : ChangesOnly ps a s) (m : Part.host ∈ ps) : ChangesOnly ps a (s.modHost f) := h.set_host _ m
theorem ChangesOnly.modPins (f : Pins → Pins) (h : ChangesOnly ps a s) (m : Part.pins ∈ ps) : ChangesOnly ps a (s.modPins f) := h.set_pins _ m
theorem ChangesOnly.modFlt (f : Flt → Flt) (h : ChangesOnly ps a s) (m : Part.flt ∈ ps)
    (e : (f s.flt).fatal = s.flt.fatal ∨ Part.fatal ∈ ps) : ChangesOnly ps a (s.modFlt f) := h.set_flt _ m e
theorem ChangesOnly.modBel (f : Bel → Bel) (h : ChangesOnly ps a s) (m : Part.bel ∈ ps)
    (e : (f s.bel).gt = s.bel.gt ∨ Part.gt ∈ ps) : ChangesOnly ps a (s.modBel f) := h.set_bel _ m e
theorem ChangesOnly.modCel (f : Cel → Cel) (h : ChangesOnly ps a s) (m : Part.cel ∈ ps)
    (e : (f s.cel).mem = s.cel.mem ∨ Part.mem ∈ ps) : ChangesOnly ps a (s.modCel f) := h.set_cel _ m e
theorem ChangesOnly.modImg (f : Img → Img) (h : ChangesOnly ps a s) (m : Part.img ∈ ps)
    (e : (f s.img).buf = s.img.buf ∨ Part.buf ∈ ps) : ChangesOnly ps a (s.modImg f) := h.set_img _ m e
theorem ChangesOnly.modSlot (n : Nat) (f : SlotReg → SlotReg) (h : ChangesOnly ps a s) (m : Part.swc ∈ ps) :
    ChangesOnly ps a (s.modSlot n f) := h.modSwc _ m
theorem ChangesOnly.modLink (n : Nat) (f : Link → Link) (h : ChangesOnly ps a s) (m : Part.swc ∈ ps) :
    ChangesOnly ps a (s.modLink n f) := h.modSwc _ m
theorem ChangesOnly.modOptPort (n : Nat) (f : OptPort → OptPort) (h : ChangesOnly ps a s) (m : Part.lnk ∈ ps) :
    ChangesOnly ps a (s.modOptPort n f) := h.modLnk _ m
theorem ChangesOnly.modEngine (n : Nat) (f : OptEngine → OptEngine) (h : ChangesOnly ps a s) (m : Part.lnk ∈ ps) :
    ChangesOnly ps a (s.modEngine n f) := h.modLnk _ m
theorem ChangesOnly.modAtsTract (n : Nat) (f : AtsTract → AtsTract) (h : ChangesOnly ps a s) (m : Part.ats ∈ ps) :
    ChangesOnly ps a (s.modAtsTract n f) := h.modAts _ m
theorem ChangesOnly.modCroft (n : Nat) (f : Croft → Croft) (h : ChangesOnly ps a s) (m : Part.crf ∈ ps) :
    ChangesOnly ps a (s.modCroft n f) := h.modCrf _ m
theorem ChangesOnly.modBellPort (n : Nat) (f : BellPort → BellPort) (h : ChangesOnly ps a s) (m : Part.bel ∈ ps) :
    ChangesOnly ps a (s.modBellPort n f) := h.modBel _ m (.inl rfl)
theorem ChangesOnly.modBarrier (n : Nat) (f : Barrier → Barrier) (h : ChangesOnly ps a s) (m : Part.bel ∈ ps) :
    ChangesOnly ps a (s.modBarrier n f) := h.modBel _ m (.inl rfl)
theorem ChangesOnly.modTract (n : Nat) (f : Tract → Tract) (h : ChangesOnly ps a s) (m : Part.cel ∈ ps) :
    ChangesOnly ps a (s.modTract n f) := h.modCel _ m (.inl rfl)
theorem ChangesOnly.modPage (t g : Nat) (f : Desc → Desc) (h : ChangesOnly ps a s) (m : Part.cel ∈ ps) :
    ChangesOnly ps a (s.modPage t g f) := h.modTract _ _ m
theorem ChangesOnly.modBln (n : Nat) (f : BlnPort → BlnPort) (h : ChangesOnly ps a s) (m : Part.bln ∈ ps) :
    ChangesOnly ps a (s.modBln n f) := h.set_bln _ m
theorem ChangesOnly.modShaper (p v : Nat) (f : Shaper → Shaper) (h : ChangesOnly ps a s) (m : Part.shapers ∈ ps) :
    ChangesOnly ps a (s.modShaper p v f) := h.set_shapers _ m
theorem ChangesOnly.modGate (n : Nat) (f : GatePort → GatePort) (h : ChangesOnly ps a s) (m : Part.gates ∈ ps) :
    ChangesOnly ps a (s.modGate n f) := h.set_gates _ m
theorem ChangesOnly.emit (x : Output) (h : ChangesOnly ps a s) (m : Part.out ∈ ps) : ChangesOnly ps a (s.emit x) := h.set_out _ m
theorem ChangesOnly.drawn (h : ChangesOnly ps a s) (m : Part.draws ∈ ps) : ChangesOnly ps a s.draw.2 := h.set_draws _ m
theorem ChangesOnly.drawnBytes (n : Nat) (h : ChangesOnly ps a s) (m : Part.draws ∈ ps) : ChangesOnly ps a (s.drawBytes n).2 :=
  h.set_draws _ m
theorem ChangesOnly.modFuses (f : Fuses → Fuses) (h : ChangesOnly ps a s) (m : Part.fuses ∈ ps) : ChangesOnly ps a (s.modFuses f) := h.set_fuses _ m
theorem ChangesOnly.modInbox (f : List (Nat × Packet) → List (Nat × Packet)) (h : ChangesOnly ps a s) (m : Part.inbox ∈ ps) :
    ChangesOnly ps a (s.modInbox f) := h.set_inbox _ m
theorem ChangesOnly.modShapers (f : Tab Shaper → Tab Shaper) (h : ChangesOnly ps a s) (m : Part.shapers ∈ ps) :
    ChangesOnly ps a (s.modShapers f) := h.set_shapers _ m
theorem ChangesOnly.skip (n : Nat) (h : ChangesOnly ps a s) (m : Part.draws ∈ ps) : ChangesOnly ps a (s.skip n) := h.set_draws _ m

end Sys2Proof.Machine
end

