-- ==== Sys2Proof/Laws/FrameOps.lean ====
section
/-! SUPPORT. Laws/FrameOps.lean: what the operations of time, MSI-X, faults and Bell output change: each adds its own parts, named in its second
hypothesis, to what a chain has changed so far. -/

set_option linter.all false
set_option maxRecDepth 8000

namespace Sys2Proof.Machine

variable {parts : List Part} {start : State}

theorem onlyIf_changes {c : Bool} {f : State → State} {s : State} (h₀ : ChangesOnly parts start s)
    (h₁ : ([] : List Part) ⊆ parts)
    (hf : ∀  t, ChangesOnly parts start t → ChangesOnly parts start (f  t)) : ChangesOnly parts start (onlyIf c f s) := by
  unfold onlyIf
  try dsimp only
  repeat' first
    | with_reducible assumption
    | with_reducible exact h₀
    | with_reducible refine hf _ ?_
    | exact List.Subset.trans (by decide) h₁
    | exact h₁ (by decide)
    | with_reducible refine ChangesOnly.ite_any ?_ ?_
    | split

theorem onBlock_changes {stage : Nat} {compute : Bool} {f : State → State} {s : State} (h₀ : ChangesOnly parts start s)
    (h₁ : ([] : List Part) ⊆ parts)
    (hf : ∀  t, ChangesOnly parts start t → ChangesOnly parts start (f  t)) : ChangesOnly parts start (onBlock stage compute f s) := by
  unfold onBlock
  try dsimp only
  repeat' first
    | with_reducible assumption
    | with_reducible exact h₀
    | with_reducible refine hf _ ?_
    | exact List.Subset.trans (by decide) h₁
    | exact h₁ (by decide)
    | with_reducible refine ChangesOnly.ite_any ?_ ?_
    | split

theorem advance_changes {n : Nat} {s : State} (h₀ : ChangesOnly parts start s)
    (h₁ : [.glb, .gt, .clock, .shapers, .thm] ⊆ parts) : ChangesOnly parts start (advance n s) := by
  refine h₀.step ?_ h₁
  unfold advance
  try dsimp only
  repeat' first
    | with_reducible exact ChangesOnly.refl _ _
    | with_reducible assumption
    | decide
    | with_reducible refine ChangesOnly.ite_any ?_ ?_
    | (intro p hp; cases p <;> first | with_reducible rfl | exact absurd (by decide) hp)
    | split

theorem advanceTo_changes {l : Nat} {s : State} (h₀ : ChangesOnly parts start s)
    (h₁ : [.glb, .gt, .clock, .shapers, .thm] ⊆ parts) : ChangesOnly parts start (advanceTo l s) := by
  refine h₀.step ?_ h₁
  unfold advanceTo
  try dsimp only
  repeat' first
    | with_reducible exact ChangesOnly.refl _ _
    | with_reducible assumption
    | decide
    | with_reducible refine advance_changes ?_ ?_
    | with_reducible refine ChangesOnly.ite_any ?_ ?_
    | split

theorem signal_changes {v : Nat} {s : State} (h₀ : ChangesOnly parts start s)
    (h₁ : [.host, .out] ⊆ parts) : ChangesOnly parts start (signal v s) := by
  refine h₀.step ?_ h₁
  unfold signal
  try dsimp only
  repeat' first
    | with_reducible exact ChangesOnly.refl _ _
    | with_reducible assumption
    | decide
    | with_reducible refine ChangesOnly.modHost _ ?_ ?_
    | with_reducible refine ChangesOnly.emit _ ?_ ?_
    | with_reducible refine ChangesOnly.ite_any ?_ ?_
    | split

theorem putFrame_changes {b : Nat} {f : BellFrame} {good : Bool} {s : State} (h₀ : ChangesOnly parts start s)
    (h₁ : [.bel, .bln, .out] ⊆ parts) : ChangesOnly parts start (putFrame b f good s) := by
  refine h₀.step ?_ h₁
  unfold putFrame
  try dsimp only
  repeat' first
    | with_reducible exact ChangesOnly.refl _ _
    | with_reducible assumption
    | decide
    | exact .inr (by decide)
    | exact .inl rfl
    | with_reducible refine ChangesOnly.modBel _ ?_ ?_ ?_
    | with_reducible refine ChangesOnly.modBellPort _ _ ?_ ?_
    | with_reducible refine ChangesOnly.modBln _ _ ?_ ?_
    | with_reducible refine ChangesOnly.emit _ ?_ ?_
    | split
    | (left; (try dsimp only); (repeat' split) <;> rfl)

theorem flushLane_changes {b : Nat} {s : State} (h₀ : ChangesOnly parts start s)
    (h₁ : [.bel, .bln, .out] ⊆ parts) : ChangesOnly parts start (flushLane b s) := by
  refine h₀.step ?_ h₁
  unfold flushLane
  try dsimp only
  repeat' first
    | with_reducible exact ChangesOnly.refl _ _
    | with_reducible assumption
    | decide
    | exact .inr (by decide)
    | exact .inl rfl
    | with_reducible refine ChangesOnly.modBel _ ?_ ?_ ?_
    | with_reducible refine ChangesOnly.modBellPort _ _ ?_ ?_
    | with_reducible refine putFrame_changes ?_ ?_
    | with_reducible refine ChangesOnly.foldl _ ?_ (fun _ _ _ => ?_)

theorem bellSend_changes {b : Nat} {f : BellFrame} {good : Bool} {s : State} (h₀ : ChangesOnly parts start s)
    (h₁ : [.bel, .bln, .out] ⊆ parts) : ChangesOnly parts start (bellSend b f good s) := by
  refine h₀.step ?_ h₁
  unfold bellSend
  try dsimp only
  repeat' first
    | with_reducible exact ChangesOnly.refl _ _
    | with_reducible assumption
    | decide
    | exact .inr (by decide)
    | exact .inl rfl
    | with_reducible refine ChangesOnly.modBel _ ?_ ?_ ?_
    | with_reducible refine ChangesOnly.modBellPort _ _ ?_ ?_
    | with_reducible refine putFrame_changes ?_ ?_
    | with_reducible refine flushLane_changes ?_ ?_
    | with_reducible refine ChangesOnly.ite_any ?_ ?_
    | split
    | (left; (try dsimp only); (repeat' split) <;> rfl)

theorem bellSendFault_changes {f : FaultFrame} {s : State} (h₀ : ChangesOnly parts start s)
    (h₁ : [.bel, .bln, .out] ⊆ parts) : ChangesOnly parts start (bellSendFault f s) := by
  refine h₀.step ?_ h₁
  unfold bellSendFault
  try dsimp only
  repeat' first
    | with_reducible exact ChangesOnly.refl _ _
    | with_reducible assumption
    | decide
    | with_reducible refine ChangesOnly.emit _ ?_ ?_
    | with_reducible refine bellSend_changes ?_ ?_
    | with_reducible refine ChangesOnly.ite_any ?_ ?_
    | split

theorem flushFaults_changes {s : State} (h₀ : ChangesOnly parts start s)
    (h₁ : [.bel, .bln, .out] ⊆ parts) : ChangesOnly parts start (flushFaults s) := by
  refine h₀.step ?_ h₁
  unfold flushFaults
  try dsimp only
  repeat' first
    | with_reducible exact ChangesOnly.refl _ _
    | with_reducible assumption
    | decide
    | exact .inr (by decide)
    | exact .inl rfl
    | with_reducible refine ChangesOnly.modBel _ ?_ ?_ ?_
    | with_reducible refine bellSendFault_changes ?_ ?_
    | with_reducible refine ChangesOnly.foldl _ ?_ (fun _ _ _ => ?_)
    | with_reducible refine ChangesOnly.ite_any ?_ ?_
    | split
    | (left; (try dsimp only); (repeat' split) <;> rfl)

theorem queueFault_changes {f : FaultFrame} {s : State} (h₀ : ChangesOnly parts start s)
    (h₁ : [.flt, .bel, .bln, .out] ⊆ parts) : ChangesOnly parts start (queueFault f s) := by
  refine h₀.step ?_ h₁
  unfold queueFault
  try dsimp only
  repeat' first
    | with_reducible exact ChangesOnly.refl _ _
    | with_reducible assumption
    | decide
    | exact .inr (by decide)
    | exact .inl rfl
    | with_reducible refine ChangesOnly.modFlt _ ?_ ?_ ?_
    | with_reducible refine ChangesOnly.modBel _ ?_ ?_ ?_
    | with_reducible refine flushFaults_changes ?_ ?_
    | with_reducible refine ChangesOnly.ite_any ?_ ?_
    | split
    | (left; (try dsimp only); (repeat' split) <;> rfl)

theorem startPulse_changes {cls : Nat} {inj : Bool} {s : State} (h₀ : ChangesOnly parts start s)
    (h₁ : [.flt] ⊆ parts) : ChangesOnly parts start (startPulse cls inj s) := by
  refine h₀.step ?_ h₁
  unfold startPulse
  try dsimp only
  repeat' first
    | with_reducible exact ChangesOnly.refl _ _
    | with_reducible assumption
    | decide
    | exact .inr (by decide)
    | exact .inl rfl
    | with_reducible refine ChangesOnly.modFlt _ ?_ ?_ ?_
    | with_reducible refine ChangesOnly.ite_any ?_ ?_
    | split
    | (left; (try dsimp only); (repeat' split) <;> rfl)

theorem report_changes {e : FaultEvent} {s : State} (h₀ : ChangesOnly parts start s)
    (h₁ : [.flt, .bel, .bln, .host, .out] ⊆ parts) : ChangesOnly parts start (report e s) := by
  refine h₀.step ?_ h₁
  unfold report
  try dsimp only
  repeat' first
    | with_reducible exact ChangesOnly.refl _ _
    | with_reducible assumption
    | decide
    | exact .inr (by decide)
    | exact .inl rfl
    | with_reducible refine ChangesOnly.modFlt _ ?_ ?_ ?_
    | with_reducible refine signal_changes ?_ ?_
    | with_reducible refine queueFault_changes ?_ ?_
    | with_reducible refine startPulse_changes ?_ ?_
    | with_reducible refine ChangesOnly.ite_any ?_ ?_
    | split
    | (left; (try dsimp only); (repeat' split) <;> rfl)

theorem enterFatal_changes {source : Nat} {s : State} (h₀ : ChangesOnly parts start s)
    (h₁ : [.glb, .flt, .fatal, .out] ⊆ parts) : ChangesOnly parts start (enterFatal source s) := by
  refine h₀.step ?_ h₁
  unfold enterFatal
  try dsimp only
  repeat' first
    | with_reducible exact ChangesOnly.refl _ _
    | with_reducible assumption
    | decide
    | exact .inr (by decide)
    | exact .inl rfl
    | with_reducible refine ChangesOnly.modGlb _ ?_ ?_
    | with_reducible refine ChangesOnly.modFlt _ ?_ ?_ ?_
    | with_reducible refine ChangesOnly.emit _ ?_ ?_
    | with_reducible refine ChangesOnly.ite_any ?_ ?_
    | split
    | (left; (try dsimp only); (repeat' split) <;> rfl)

theorem recordFault_changes {e : FaultEvent} {s : State} (h₀ : ChangesOnly parts start s)
    (h₁ : [.glb, .flt, .fatal, .attic, .bel, .bln, .host, .out] ⊆ parts) : ChangesOnly parts start (recordFault e s) := by
  refine h₀.step ?_ h₁
  unfold recordFault
  try dsimp only
  repeat' first
    | with_reducible exact ChangesOnly.refl _ _
    | with_reducible assumption
    | decide
    | exact .inr (by decide)
    | exact .inl rfl
    | with_reducible refine ChangesOnly.modAttic _ ?_ ?_
    | with_reducible refine ChangesOnly.modFlt _ ?_ ?_ ?_
    | with_reducible refine report_changes ?_ ?_
    | with_reducible refine enterFatal_changes ?_ ?_
    | with_reducible refine ChangesOnly.ite_any ?_ ?_
    | split
    | (left; (try dsimp only); (repeat' split) <;> rfl)

theorem useInjection_changes {stay : Bool} {s : State} (h₀ : ChangesOnly parts start s)
    (h₁ : [.flt] ⊆ parts) : ChangesOnly parts start (useInjection stay s) := by
  refine h₀.step ?_ h₁
  unfold useInjection
  try dsimp only
  repeat' first
    | with_reducible exact ChangesOnly.refl _ _
    | with_reducible assumption
    | decide
    | exact .inr (by decide)
    | exact .inl rfl
    | with_reducible refine ChangesOnly.modFlt _ ?_ ?_ ?_
    | with_reducible refine ChangesOnly.ite_any ?_ ?_
    | split
    | (left; (try dsimp only); (repeat' split) <;> rfl)

end Sys2Proof.Machine
end

