-- ==== Sys2Proof/Laws/FramePins.lean ====
section
/-! SUPPORT. Laws/FramePins.lean: what the operations of pins and sensors change: each adds its own parts, named in its second
hypothesis, to what a chain has changed so far. -/

set_option linter.all false
set_option maxRecDepth 8000

namespace Sys2Proof.Machine

variable {parts : List Part} {start : State}

theorem sense_changes {i : Nat} {v : BitVec 16} {s : State} (h₀ : ChangesOnly parts start s)
    (h₁ : [.thm] ⊆ parts) : ChangesOnly parts start (sense i v s) := by
  refine h₀.step ?_ h₁
  unfold sense
  try dsimp only
  repeat' first
    | with_reducible exact ChangesOnly.refl _ _
    | with_reducible assumption
    | decide
    | with_reducible refine ChangesOnly.modThm _ ?_ ?_
    | with_reducible refine ChangesOnly.ite_any ?_ ?_
    | split

theorem evalLevel_changes {s : State} (h₀ : ChangesOnly parts start s)
    (h₁ : [.glb, .flt, .fatal, .attic, .bel, .bln, .thm, .host, .out] ⊆ parts) : ChangesOnly parts start (evalLevel s) := by
  refine h₀.step ?_ h₁
  unfold evalLevel
  try dsimp only
  repeat' first
    | with_reducible exact ChangesOnly.refl _ _
    | with_reducible assumption
    | decide
    | with_reducible refine ChangesOnly.modThm _ ?_ ?_
    | with_reducible refine signal_changes ?_ ?_
    | with_reducible refine recordFault_changes ?_ ?_
    | with_reducible refine ChangesOnly.ite_any ?_ ?_
    | split

theorem throttleEval_changes {rs : List (Nat × BitVec 16)} {s : State} (h₀ : ChangesOnly parts start s)
    (h₁ : [.glb, .flt, .fatal, .attic, .bel, .gt, .clock, .shapers, .bln, .thm, .host, .out] ⊆ parts) : ChangesOnly parts start (throttleEval rs s) := by
  refine h₀.step ?_ h₁
  unfold throttleEval
  try dsimp only
  repeat' first
    | with_reducible exact ChangesOnly.refl _ _
    | with_reducible assumption
    | decide
    | with_reducible refine advanceTo_changes ?_ ?_
    | with_reducible refine sense_changes ?_ ?_
    | with_reducible refine evalLevel_changes ?_ ?_
    | with_reducible refine ChangesOnly.foldl _ ?_ (fun _ _ _ => ?_)
    | with_reducible refine ChangesOnly.ite_any ?_ ?_
    | split

theorem thermalTrip_changes {i : Nat} {v : BitVec 16} {s : State} (h₀ : ChangesOnly parts start s)
    (h₁ : [.glb, .flt, .fatal, .attic, .bel, .bln, .thm, .host, .out] ⊆ parts) : ChangesOnly parts start (thermalTrip i v s) := by
  refine h₀.step ?_ h₁
  unfold thermalTrip
  try dsimp only
  repeat' first
    | with_reducible exact ChangesOnly.refl _ _
    | with_reducible assumption
    | decide
    | with_reducible refine ChangesOnly.modThm _ ?_ ?_
    | with_reducible refine recordFault_changes ?_ ?_
    | with_reducible refine sense_changes ?_ ?_
    | with_reducible refine ChangesOnly.ite_any ?_ ?_
    | split

theorem peakClear_changes {s : State} (h₀ : ChangesOnly parts start s)
    (h₁ : [.thm] ⊆ parts) : ChangesOnly parts start (peakClear s) := by
  refine h₀.step ?_ h₁
  unfold peakClear
  try dsimp only
  repeat' first
    | with_reducible exact ChangesOnly.refl _ _
    | with_reducible assumption
    | decide
    | with_reducible refine ChangesOnly.modThm _ ?_ ?_
    | with_reducible refine ChangesOnly.foldl _ ?_ (fun _ _ _ => ?_)

theorem railOut_changes {rail mv : Nat} {s : State} (h₀ : ChangesOnly parts start s)
    (h₁ : [.glb, .flt, .fatal, .attic, .bel, .bln, .host, .pins, .out] ⊆ parts) : ChangesOnly parts start (railOut rail mv s) := by
  refine h₀.step ?_ h₁
  unfold railOut
  try dsimp only
  repeat' first
    | with_reducible exact ChangesOnly.refl _ _
    | with_reducible assumption
    | decide
    | with_reducible refine ChangesOnly.modPins _ ?_ ?_
    | with_reducible refine recordFault_changes ?_ ?_
    | with_reducible refine ChangesOnly.ite_any ?_ ?_
    | split

theorem pllLost_changes {pll : Nat} {s : State} (h₀ : ChangesOnly parts start s)
    (h₁ : [.glb, .flt, .fatal, .attic, .bel, .bln, .host, .out] ⊆ parts) : ChangesOnly parts start (pllLost pll s) := by
  refine h₀.step ?_ h₁
  unfold pllLost
  try dsimp only
  repeat' first
    | with_reducible exact ChangesOnly.refl _ _
    | with_reducible assumption
    | decide
    | with_reducible refine recordFault_changes ?_ ?_
    | with_reducible refine ChangesOnly.ite_any ?_ ?_
    | split

theorem vidStep_changes {code : Nat} {s : State} (h₀ : ChangesOnly parts start s)
    (h₁ : [.glb, .gt, .clock, .shapers, .thm, .pins] ⊆ parts) : ChangesOnly parts start (vidStep code s) := by
  refine h₀.step ?_ h₁
  unfold vidStep
  try dsimp only
  repeat' first
    | with_reducible exact ChangesOnly.refl _ _
    | with_reducible assumption
    | decide
    | with_reducible refine ChangesOnly.modPins _ ?_ ?_
    | with_reducible refine advanceTo_changes ?_ ?_
    | with_reducible refine ChangesOnly.ite_any ?_ ?_
    | split

theorem samplePower_changes {s : State} (h₀ : ChangesOnly parts start s)
    (h₁ : [.thm, .draws] ⊆ parts) : ChangesOnly parts start (samplePower s) := by
  refine h₀.step ?_ h₁
  unfold samplePower
  try dsimp only
  repeat' first
    | with_reducible exact ChangesOnly.refl _ _
    | with_reducible assumption
    | decide
    | dsimp only
    | with_reducible refine ChangesOnly.modThm _ ?_ ?_
    | with_reducible refine ChangesOnly.drawn ?_ ?_
    | with_reducible refine ChangesOnly.drawnBytes _ ?_ ?_
    | with_reducible refine ChangesOnly.ite_any ?_ ?_
    | with_reducible refine ChangesOnly.ite_snd ?_ ?_
    | split
    | (rename _ = (_, _) => hq; have e := congrArg Prod.snd hq; dsimp only at e; subst e; clear hq)

theorem sampleRail_changes {rail : Nat} {s : State} (h₀ : ChangesOnly parts start s)
    (h₁ : [.pins, .draws] ⊆ parts) : ChangesOnly parts start (sampleRail rail s) := by
  refine h₀.step ?_ h₁
  unfold sampleRail
  try dsimp only
  repeat' first
    | with_reducible exact ChangesOnly.refl _ _
    | with_reducible assumption
    | decide
    | dsimp only
    | with_reducible refine ChangesOnly.modPins _ ?_ ?_
    | with_reducible refine ChangesOnly.drawn ?_ ?_
    | with_reducible refine ChangesOnly.drawnBytes _ ?_ ?_
    | with_reducible refine ChangesOnly.ite_any ?_ ?_
    | with_reducible refine ChangesOnly.ite_snd ?_ ?_
    | split
    | (rename _ = (_, _) => hq; have e := congrArg Prod.snd hq; dsimp only at e; subst e; clear hq)

theorem smbAnswer_changes {w : State → BitVec 16} {s : State} (h₀ : ChangesOnly parts start s)
    (h₁ : [.out] ⊆ parts) : ChangesOnly parts start (smbAnswer w s) := by
  refine h₀.step ?_ h₁
  unfold smbAnswer
  try dsimp only
  repeat' first
    | with_reducible exact ChangesOnly.refl _ _
    | with_reducible assumption
    | decide
    | with_reducible refine ChangesOnly.emit _ ?_ ?_
    | with_reducible refine ChangesOnly.ite_any ?_ ?_
    | split

theorem jtagSelect_changes {ir : Nat} {value : Word} {s : State} (h₀ : ChangesOnly parts start s)
    (h₁ : [.pins, .out] ⊆ parts) : ChangesOnly parts start (jtagSelect ir value s) := by
  refine h₀.step ?_ h₁
  unfold jtagSelect
  try dsimp only
  repeat' first
    | with_reducible exact ChangesOnly.refl _ _
    | with_reducible assumption
    | decide
    | with_reducible refine ChangesOnly.modPins _ ?_ ?_
    | with_reducible refine ChangesOnly.emit _ ?_ ?_

theorem jtagScan_changes {ir : Nat} {s : State} (h₀ : ChangesOnly parts start s)
    (h₁ : [.pins, .out, .draws] ⊆ parts) : ChangesOnly parts start (jtagScan ir s) := by
  refine h₀.step ?_ h₁
  unfold jtagScan
  try dsimp only
  repeat' first
    | with_reducible exact ChangesOnly.refl _ _
    | with_reducible assumption
    | decide
    | with_reducible refine ChangesOnly.drawn ?_ ?_
    | with_reducible refine ChangesOnly.drawnBytes _ ?_ ?_
    | with_reducible refine jtagSelect_changes ?_ ?_
    | with_reducible refine ChangesOnly.ite_any ?_ ?_
    | split

theorem jtagHold_changes {ir : Nat} {s : State} (h₀ : ChangesOnly parts start s)
    (h₁ : [.pins, .out] ⊆ parts) : ChangesOnly parts start (jtagHold ir s) := by
  refine h₀.step ?_ h₁
  unfold jtagHold
  try dsimp only
  repeat' first
    | with_reducible exact ChangesOnly.refl _ _
    | with_reducible assumption
    | decide
    | with_reducible refine jtagSelect_changes ?_ ?_
    | with_reducible refine ChangesOnly.ite_any ?_ ?_
    | split

end Sys2Proof.Machine
end

