-- ==== Sys2Proof/Laws/FrameSlots.lean ====
section
/-! SUPPORT. Laws/FrameSlots.lean: what the operations of slots on the lanes change: each adds its own parts, named in its second
hypothesis, to what a chain has changed so far. -/

set_option linter.all false
set_option maxRecDepth 8000

namespace Sys2Proof.Machine

variable {parts : List Part} {start : State}

theorem State.modLane_changes {oe l : Nat} {f : Lane → Lane} {s : State} (h₀ : ChangesOnly parts start s)
    (h₁ : [.lnk] ⊆ parts) : ChangesOnly parts start (State.modLane oe l f s) := by
  refine h₀.step ?_ h₁
  unfold State.modLane
  try dsimp only
  repeat' first
    | with_reducible exact ChangesOnly.refl _ _
    | with_reducible assumption
    | decide
    | with_reducible refine ChangesOnly.modLnk _ ?_ ?_
    | with_reducible refine ChangesOnly.ite_any ?_ ?_
    | split

theorem sendAm_changes {n : Nat} {s : State} (h₀ : ChangesOnly parts start s)
    (h₁ : [.swc, .out] ⊆ parts) : ChangesOnly parts start (sendAm n s) := by
  refine h₀.step ?_ h₁
  unfold sendAm
  try dsimp only
  repeat' first
    | with_reducible exact ChangesOnly.refl _ _
    | with_reducible assumption
    | decide
    | with_reducible refine ChangesOnly.modLink _ _ ?_ ?_
    | with_reducible refine ChangesOnly.emit _ ?_ ?_

theorem sendSlot_changes {n : Nat} {m : List Nat} {s : State} (h₀ : ChangesOnly parts start s)
    (h₁ : [.swc, .out] ⊆ parts) : ChangesOnly parts start (sendSlot n m s) := by
  refine h₀.step ?_ h₁
  unfold sendSlot
  try dsimp only
  repeat' first
    | with_reducible exact ChangesOnly.refl _ _
    | with_reducible assumption
    | decide
    | with_reducible refine sendAm_changes ?_ ?_
    | with_reducible refine ChangesOnly.modLink _ _ ?_ ?_
    | with_reducible refine ChangesOnly.emit _ ?_ ?_
    | with_reducible refine ChangesOnly.ite_any ?_ ?_
    | split

theorem fillSlot_changes {n : Nat} {f : Bytes} {s : State} (h₀ : ChangesOnly parts start s)
    (h₁ : [.swc, .out] ⊆ parts) : ChangesOnly parts start (fillSlot n f s) := by
  refine h₀.step ?_ h₁
  unfold fillSlot
  try dsimp only
  repeat' first
    | with_reducible exact ChangesOnly.refl _ _
    | with_reducible assumption
    | decide
    | with_reducible refine sendSlot_changes ?_ ?_
    | with_reducible refine ChangesOnly.modLink _ _ ?_ ?_
    | with_reducible refine ChangesOnly.ite_any ?_ ?_
    | split

end Sys2Proof.Machine
end

