-- ==== Sys2Proof/Laws/FrameLinks.lean ====
section
/-! SUPPORT. Laws/FrameLinks.lean: what the operations of the link layer change: each adds its own parts, named in its second
hypothesis, to what a chain has changed so far. -/

set_option linter.all false
set_option maxRecDepth 8000

namespace Sys2Proof.Machine

variable {parts : List Part} {start : State}

theorem putTagged_changes {n : Nat} {t : LinkTag} {body : Bytes} {s : State} (h₀ : ChangesOnly parts start s)
    (h₁ : [.swc, .out] ⊆ parts) : ChangesOnly parts start (putTagged n t body s) := by
  refine h₀.step ?_ h₁
  unfold putTagged
  try dsimp only
  repeat' first
    | with_reducible exact ChangesOnly.refl _ _
    | with_reducible assumption
    | decide
    | with_reducible refine ChangesOnly.modLink _ _ ?_ ?_
    | with_reducible refine ChangesOnly.emit _ ?_ ?_
    | with_reducible refine fillSlot_changes ?_ ?_
    | with_reducible refine ChangesOnly.ite_any ?_ ?_
    | split

theorem putFlit_changes {n : Nat} {type : BitVec 4} {vc : Nat} {seq : BitVec 11} {body : Bytes} {s : State} (h₀ : ChangesOnly parts start s)
    (h₁ : [.swc, .out] ⊆ parts) : ChangesOnly parts start (putFlit n type vc seq body s) := by
  refine h₀.step ?_ h₁
  unfold putFlit
  try dsimp only
  repeat' first
    | with_reducible exact ChangesOnly.refl _ _
    | with_reducible assumption
    | decide
    | with_reducible refine ChangesOnly.modLink _ _ ?_ ?_
    | with_reducible refine putTagged_changes ?_ ?_

theorem sendFlit_changes {n : Nat} {f : TxFlit} {s : State} (h₀ : ChangesOnly parts start s)
    (h₁ : [.swc, .out] ⊆ parts) : ChangesOnly parts start (sendFlit n f s) := by
  refine h₀.step ?_ h₁
  unfold sendFlit
  try dsimp only
  repeat' first
    | with_reducible exact ChangesOnly.refl _ _
    | with_reducible assumption
    | decide
    | with_reducible refine ChangesOnly.modLink _ _ ?_ ?_
    | with_reducible refine putFlit_changes ?_ ?_

theorem sendIdle_changes {n : Nat} {s : State} (h₀ : ChangesOnly parts start s)
    (h₁ : [.swc, .out] ⊆ parts) : ChangesOnly parts start (sendIdle n s) := by
  refine h₀.step ?_ h₁
  unfold sendIdle
  try dsimp only
  repeat' first
    | with_reducible exact ChangesOnly.refl _ _
    | with_reducible assumption
    | decide
    | with_reducible refine putFlit_changes ?_ ?_

theorem sendLctl_changes {n lcode aseq : Nat} {credits : List Nat} {s : State} (h₀ : ChangesOnly parts start s)
    (h₁ : [.swc, .out] ⊆ parts) : ChangesOnly parts start (sendLctl n lcode aseq credits s) := by
  refine h₀.step ?_ h₁
  unfold sendLctl
  try dsimp only
  repeat' first
    | with_reducible exact ChangesOnly.refl _ _
    | with_reducible assumption
    | decide
    | with_reducible refine putFlit_changes ?_ ?_

theorem sendAck_changes {n : Nat} {s : State} (h₀ : ChangesOnly parts start s)
    (h₁ : [.swc, .out] ⊆ parts) : ChangesOnly parts start (sendAck n s) := by
  refine h₀.step ?_ h₁
  unfold sendAck
  try dsimp only
  repeat' first
    | with_reducible exact ChangesOnly.refl _ _
    | with_reducible assumption
    | decide
    | with_reducible refine ChangesOnly.modLink _ _ ?_ ?_
    | with_reducible refine sendLctl_changes ?_ ?_

theorem sendNak_changes {n : Nat} {s : State} (h₀ : ChangesOnly parts start s)
    (h₁ : [.swc, .out] ⊆ parts) : ChangesOnly parts start (sendNak n s) := by
  refine h₀.step ?_ h₁
  unfold sendNak
  try dsimp only
  repeat' first
    | with_reducible exact ChangesOnly.refl _ _
    | with_reducible assumption
    | decide
    | with_reducible refine ChangesOnly.modLink _ _ ?_ ?_
    | with_reducible refine sendLctl_changes ?_ ?_

theorem sendCreditInit_changes {n : Nat} {s : State} (h₀ : ChangesOnly parts start s)
    (h₁ : [.swc, .out] ⊆ parts) : ChangesOnly parts start (sendCreditInit n s) := by
  refine h₀.step ?_ h₁
  unfold sendCreditInit
  try dsimp only
  repeat' first
    | with_reducible exact ChangesOnly.refl _ _
    | with_reducible assumption
    | decide
    | with_reducible refine sendLctl_changes ?_ ?_

theorem failFlit_changes {n : Nat} {s : State} (h₀ : ChangesOnly parts start s)
    (h₁ : [.swc, .out] ⊆ parts) : ChangesOnly parts start (failFlit n s) := by
  refine h₀.step ?_ h₁
  unfold failFlit
  try dsimp only
  repeat' first
    | with_reducible exact ChangesOnly.refl _ _
    | with_reducible assumption
    | decide
    | with_reducible refine ChangesOnly.modSlot _ _ ?_ ?_
    | with_reducible refine sendNak_changes ?_ ?_
    | with_reducible refine ChangesOnly.ite_any ?_ ?_
    | split

theorem resendFrom_changes {n : Nat} {fs : List (BitVec 11 × TxFlit)} {s : State} (h₀ : ChangesOnly parts start s)
    (h₁ : [.swc, .out] ⊆ parts) : ChangesOnly parts start (resendFrom n fs s) := by
  refine h₀.step ?_ h₁
  unfold resendFrom
  try dsimp only
  repeat' first
    | with_reducible exact ChangesOnly.refl _ _
    | with_reducible assumption
    | decide
    | with_reducible refine ChangesOnly.modSlot _ _ ?_ ?_
    | with_reducible refine putTagged_changes ?_ ?_
    | with_reducible refine ChangesOnly.foldl _ ?_ (fun _ _ _ => ?_)

theorem onAck_changes {n : Nat} {seq : BitVec 11} {s : State} (h₀ : ChangesOnly parts start s)
    (h₁ : [.swc] ⊆ parts) : ChangesOnly parts start (onAck n seq s) := by
  refine h₀.step ?_ h₁
  unfold onAck
  try dsimp only
  repeat' first
    | with_reducible exact ChangesOnly.refl _ _
    | with_reducible assumption
    | decide
    | with_reducible refine ChangesOnly.modLink _ _ ?_ ?_
    | split

theorem countReplay_changes {n : Nat} {s : State} (h₀ : ChangesOnly parts start s)
    (h₁ : [.swc] ⊆ parts) : ChangesOnly parts start (countReplay n s) := by
  refine h₀.step ?_ h₁
  unfold countReplay
  try dsimp only
  repeat' first
    | with_reducible exact ChangesOnly.refl _ _
    | with_reducible assumption
    | decide
    | with_reducible refine ChangesOnly.modLink _ _ ?_ ?_
    | with_reducible refine ChangesOnly.ite_any ?_ ?_
    | split

theorem onNak_changes {n : Nat} {seq : BitVec 11} {s : State} (h₀ : ChangesOnly parts start s)
    (h₁ : [.swc, .out] ⊆ parts) : ChangesOnly parts start (onNak n seq s) := by
  refine h₀.step ?_ h₁
  unfold onNak
  try dsimp only
  repeat' first
    | with_reducible exact ChangesOnly.refl _ _
    | with_reducible assumption
    | decide
    | with_reducible refine ChangesOnly.modLink _ _ ?_ ?_
    | with_reducible refine resendFrom_changes ?_ ?_
    | with_reducible refine countReplay_changes ?_ ?_
    | with_reducible refine ChangesOnly.ite_any ?_ ?_
    | split

theorem takeReport_changes {n : Nat} {t : LinkTag} {s : State} (h₀ : ChangesOnly parts start s)
    (h₁ : [.swc] ⊆ parts) : ChangesOnly parts start (takeReport n t s) := by
  refine h₀.step ?_ h₁
  unfold takeReport
  try dsimp only
  repeat' first
    | with_reducible exact ChangesOnly.refl _ _
    | with_reducible assumption
    | decide
    | with_reducible refine ChangesOnly.modLink _ _ ?_ ?_

theorem freeFlits_changes {n vc k : Nat} {s : State} (h₀ : ChangesOnly parts start s)
    (h₁ : [.swc] ⊆ parts) : ChangesOnly parts start (freeFlits n vc k s) := by
  refine h₀.step ?_ h₁
  unfold freeFlits
  try dsimp only
  repeat' first
    | with_reducible exact ChangesOnly.refl _ _
    | with_reducible assumption
    | decide
    | with_reducible refine ChangesOnly.modLink _ _ ?_ ?_
    | with_reducible refine ChangesOnly.ite_any ?_ ?_
    | split

theorem ackTimer_changes {n : Nat} {s : State} (h₀ : ChangesOnly parts start s)
    (h₁ : [.swc, .out] ⊆ parts) : ChangesOnly parts start (ackTimer n s) := by
  refine h₀.step ?_ h₁
  unfold ackTimer
  try dsimp only
  repeat' first
    | with_reducible exact ChangesOnly.refl _ _
    | with_reducible assumption
    | decide
    | with_reducible refine sendAck_changes ?_ ?_
    | with_reducible refine ChangesOnly.ite_any ?_ ?_
    | split

theorem replayTimeout_changes {n : Nat} {s : State} (h₀ : ChangesOnly parts start s)
    (h₁ : [.swc, .out] ⊆ parts) : ChangesOnly parts start (replayTimeout n s) := by
  refine h₀.step ?_ h₁
  unfold replayTimeout
  try dsimp only
  repeat' first
    | with_reducible exact ChangesOnly.refl _ _
    | with_reducible assumption
    | decide
    | with_reducible refine resendFrom_changes ?_ ?_
    | with_reducible refine countReplay_changes ?_ ?_
    | with_reducible refine ChangesOnly.ite_any ?_ ?_
    | split

theorem nakRepeat_changes {n : Nat} {s : State} (h₀ : ChangesOnly parts start s)
    (h₁ : [.swc, .out] ⊆ parts) : ChangesOnly parts start (nakRepeat n s) := by
  refine h₀.step ?_ h₁
  unfold nakRepeat
  try dsimp only
  repeat' first
    | with_reducible exact ChangesOnly.refl _ _
    | with_reducible assumption
    | decide
    | with_reducible refine sendNak_changes ?_ ?_
    | with_reducible refine ChangesOnly.ite_any ?_ ?_
    | split

theorem creditInitSend_changes {n : Nat} {s : State} (h₀ : ChangesOnly parts start s)
    (h₁ : [.swc, .out] ⊆ parts) : ChangesOnly parts start (creditInitSend n s) := by
  refine h₀.step ?_ h₁
  unfold creditInitSend
  try dsimp only
  repeat' first
    | with_reducible exact ChangesOnly.refl _ _
    | with_reducible assumption
    | decide
    | with_reducible refine sendCreditInit_changes ?_ ?_
    | with_reducible refine ChangesOnly.ite_any ?_ ?_
    | split

end Sys2Proof.Machine
end

