-- ==== Sys2Proof/Laws/FrameSwitch.lean ====
section
/-! SUPPORT. Laws/FrameSwitch.lean: what the operations of the switching core change: each adds its own parts, named in its second
hypothesis, to what a chain has changed so far. -/

set_option linter.all false
set_option maxRecDepth 8000

namespace Sys2Proof.Machine

variable {parts : List Part} {start : State}

theorem countAged_changes {n : Nat} {s : State} (h₀ : ChangesOnly parts start s)
    (h₁ : [.swc] ⊆ parts) : ChangesOnly parts start (countAged n s) := by
  refine h₀.step ?_ h₁
  unfold countAged
  try dsimp only
  repeat' first
    | with_reducible exact ChangesOnly.refl _ _
    | with_reducible assumption
    | decide
    | with_reducible refine ChangesOnly.modSlot _ _ ?_ ?_

theorem countTrunc_changes {n : Nat} {s : State} (h₀ : ChangesOnly parts start s)
    (h₁ : [.swc] ⊆ parts) : ChangesOnly parts start (countTrunc n s) := by
  refine h₀.step ?_ h₁
  unfold countTrunc
  try dsimp only
  repeat' first
    | with_reducible exact ChangesOnly.refl _ _
    | with_reducible assumption
    | decide
    | with_reducible refine ChangesOnly.modSlot _ _ ?_ ?_

theorem countOrphan_changes {n : Nat} {s : State} (h₀ : ChangesOnly parts start s)
    (h₁ : [.swc] ⊆ parts) : ChangesOnly parts start (countOrphan n s) := by
  refine h₀.step ?_ h₁
  unfold countOrphan
  try dsimp only
  repeat' first
    | with_reducible exact ChangesOnly.refl _ _
    | with_reducible assumption
    | decide
    | with_reducible refine ChangesOnly.modSlot _ _ ?_ ?_

theorem countStranger_changes {n : Nat} {s : State} (h₀ : ChangesOnly parts start s)
    (h₁ : [.swc] ⊆ parts) : ChangesOnly parts start (countStranger n s) := by
  refine h₀.step ?_ h₁
  unfold countStranger
  try dsimp only
  repeat' first
    | with_reducible exact ChangesOnly.refl _ _
    | with_reducible assumption
    | decide
    | with_reducible refine ChangesOnly.modSlot _ _ ?_ ?_

theorem countFenced_changes {n : Nat} {s : State} (h₀ : ChangesOnly parts start s)
    (h₁ : [.swc] ⊆ parts) : ChangesOnly parts start (countFenced n s) := by
  refine h₀.step ?_ h₁
  unfold countFenced
  try dsimp only
  repeat' first
    | with_reducible exact ChangesOnly.refl _ _
    | with_reducible assumption
    | decide
    | with_reducible refine ChangesOnly.modSlot _ _ ?_ ?_

theorem State.modBuf_changes {id : Nat} {f : Buf → Buf} {s : State} (h₀ : ChangesOnly parts start s)
    (h₁ : [.swc] ⊆ parts) : ChangesOnly parts start (State.modBuf id f s) := by
  refine h₀.step ?_ h₁
  unfold State.modBuf
  try dsimp only
  repeat' first
    | with_reducible exact ChangesOnly.refl _ _
    | with_reducible assumption
    | decide
    | with_reducible refine ChangesOnly.modSwc _ ?_ ?_

theorem State.modCopies_changes {c : Waiting → Bool} {f : Waiting → Waiting} {s : State} (h₀ : ChangesOnly parts start s)
    (h₁ : [.swc] ⊆ parts) : ChangesOnly parts start (State.modCopies c f s) := by
  refine h₀.step ?_ h₁
  unfold State.modCopies
  try dsimp only
  repeat' first
    | with_reducible exact ChangesOnly.refl _ _
    | with_reducible assumption
    | decide
    | with_reducible refine ChangesOnly.modSwc _ ?_ ?_
    | with_reducible refine ChangesOnly.ite_any ?_ ?_
    | split

theorem State.dropCopies_changes {c : Waiting → Bool} {s : State} (h₀ : ChangesOnly parts start s)
    (h₁ : [.swc] ⊆ parts) : ChangesOnly parts start (State.dropCopies c s) := by
  refine h₀.step ?_ h₁
  unfold State.dropCopies
  try dsimp only
  repeat' first
    | with_reducible exact ChangesOnly.refl _ _
    | with_reducible assumption
    | decide
    | with_reducible refine ChangesOnly.modSwc _ ?_ ?_

theorem settleBuf_changes {id : Nat} {s : State} (h₀ : ChangesOnly parts start s)
    (h₁ : [.swc] ⊆ parts) : ChangesOnly parts start (settleBuf id s) := by
  refine h₀.step ?_ h₁
  unfold settleBuf
  try dsimp only
  repeat' first
    | with_reducible exact ChangesOnly.refl _ _
    | with_reducible assumption
    | decide
    | with_reducible refine ChangesOnly.modSwc _ ?_ ?_
    | with_reducible refine freeFlits_changes ?_ ?_
    | with_reducible refine State.modBuf_changes ?_ ?_
    | with_reducible refine ChangesOnly.foldl _ ?_ (fun _ _ _ => ?_)
    | with_reducible refine ChangesOnly.ite_any ?_ ?_
    | split

theorem resolveTrack_changes {p : Packet} {s : State} (h₀ : ChangesOnly parts start s)
    (h₁ : [.swc] ⊆ parts) : ChangesOnly parts start (resolveTrack p s) := by
  refine h₀.step ?_ h₁
  unfold resolveTrack
  try dsimp only
  repeat' first
    | with_reducible exact ChangesOnly.refl _ _
    | with_reducible assumption
    | decide
    | with_reducible refine ChangesOnly.modSwc _ ?_ ?_
    | with_reducible refine ChangesOnly.ite_any ?_ ?_
    | split

theorem resolveCopy_changes {w : Waiting} {s : State} (h₀ : ChangesOnly parts start s)
    (h₁ : [.swc] ⊆ parts) : ChangesOnly parts start (resolveCopy w s) := by
  refine h₀.step ?_ h₁
  unfold resolveCopy
  try dsimp only
  repeat' first
    | with_reducible exact ChangesOnly.refl _ _
    | with_reducible assumption
    | decide
    | with_reducible refine resolveTrack_changes ?_ ?_
    | with_reducible refine ChangesOnly.ite_any ?_ ?_
    | split

theorem discardCopy_changes {w : Waiting} {s : State} (h₀ : ChangesOnly parts start s)
    (h₁ : [.swc] ⊆ parts) : ChangesOnly parts start (discardCopy w s) := by
  refine h₀.step ?_ h₁
  unfold discardCopy
  try dsimp only
  repeat' first
    | with_reducible exact ChangesOnly.refl _ _
    | with_reducible assumption
    | decide
    | with_reducible refine State.dropCopies_changes ?_ ?_
    | with_reducible refine settleBuf_changes ?_ ?_
    | with_reducible refine resolveCopy_changes ?_ ?_

theorem placeCopy_changes {w : Waiting} {eg vc : Nat} {s : State} (h₀ : ChangesOnly parts start s)
    (h₁ : [.swc] ⊆ parts) : ChangesOnly parts start (placeCopy w eg vc s) := by
  refine h₀.step ?_ h₁
  unfold placeCopy
  try dsimp only
  repeat' first
    | with_reducible exact ChangesOnly.refl _ _
    | with_reducible assumption
    | decide
    | with_reducible refine State.modCopies_changes ?_ ?_
    | with_reducible refine ChangesOnly.ite_any ?_ ?_
    | split

theorem lookupInjection_changes {p : Packet} {s : State} (h₀ : ChangesOnly parts start s)
    (h₁ : [.glb, .flt, .fatal, .attic, .bel, .rte, .bln, .host, .out] ⊆ parts) : ChangesOnly parts start (lookupInjection p s) := by
  refine h₀.step ?_ h₁
  unfold lookupInjection
  try dsimp only
  repeat' first
    | with_reducible exact ChangesOnly.refl _ _
    | with_reducible assumption
    | decide
    | with_reducible refine ChangesOnly.modRte _ ?_ ?_
    | with_reducible refine recordFault_changes ?_ ?_
    | with_reducible refine useInjection_changes ?_ ?_
    | with_reducible refine ChangesOnly.ite_any ?_ ?_
    | split

theorem routeCopy_changes {w : Waiting} {s : State} (h₀ : ChangesOnly parts start s)
    (h₁ : [.glb, .flt, .fatal, .attic, .bel, .swc, .rte, .bln, .host, .out] ⊆ parts) : ChangesOnly parts start (routeCopy w s) := by
  refine h₀.step ?_ h₁
  unfold routeCopy
  try dsimp only
  repeat' first
    | with_reducible exact ChangesOnly.refl _ _
    | with_reducible assumption
    | decide
    | with_reducible refine ChangesOnly.modSwc _ ?_ ?_
    | with_reducible refine ChangesOnly.modRte _ ?_ ?_
    | with_reducible refine countStranger_changes ?_ ?_
    | with_reducible refine countFenced_changes ?_ ?_
    | with_reducible refine discardCopy_changes ?_ ?_
    | with_reducible refine placeCopy_changes ?_ ?_
    | with_reducible refine lookupInjection_changes ?_ ?_
    | with_reducible refine ChangesOnly.ite_any ?_ ?_
    | split

theorem releaseCopy_changes {w : Waiting} {s : State} (h₀ : ChangesOnly parts start s)
    (h₁ : [.glb, .flt, .fatal, .attic, .bel, .swc, .rte, .bln, .host, .out] ⊆ parts) : ChangesOnly parts start (releaseCopy w s) := by
  refine h₀.step ?_ h₁
  unfold releaseCopy
  try dsimp only
  repeat' first
    | with_reducible exact ChangesOnly.refl _ _
    | with_reducible assumption
    | decide
    | with_reducible refine ChangesOnly.modSwc _ ?_ ?_
    | with_reducible refine State.modCopies_changes ?_ ?_
    | with_reducible refine routeCopy_changes ?_ ?_
    | with_reducible refine ChangesOnly.ite_any ?_ ?_
    | split

theorem releaseHeld_changes {k : Nat} {s : State} (h₀ : ChangesOnly parts start s)
    (h₁ : [.glb, .flt, .fatal, .attic, .bel, .swc, .rte, .bln, .host, .out] ⊆ parts) : ChangesOnly parts start (releaseHeld k s) := by
  refine h₀.step ?_ h₁
  clear h₀ h₁
  revert s
  induction k with
  | zero => intro s; exact ChangesOnly.refl _ _
  | succ k ih =>
    intro s
    unfold releaseHeld
    try dsimp only
    repeat' first
      | with_reducible exact ChangesOnly.refl _ _
      | with_reducible assumption
      | with_reducible refine ChangesOnly.trans ?_ ih
      | decide
      | with_reducible refine releaseCopy_changes ?_ ?_
      | split

theorem enqueue_changes {w : Waiting} {s : State} (h₀ : ChangesOnly parts start s)
    (h₁ : [.swc] ⊆ parts) : ChangesOnly parts start (enqueue w s) := by
  refine h₀.step ?_ h₁
  unfold enqueue
  try dsimp only
  repeat' first
    | with_reducible exact ChangesOnly.refl _ _
    | with_reducible assumption
    | decide
    | with_reducible refine ChangesOnly.modSwc _ ?_ ?_

theorem replicate_changes {w : Waiting} {s : State} (h₀ : ChangesOnly parts start s)
    (h₁ : [.swc] ⊆ parts) : ChangesOnly parts start (replicate w s) := by
  refine h₀.step ?_ h₁
  unfold replicate
  try dsimp only
  repeat' first
    | with_reducible exact ChangesOnly.refl _ _
    | with_reducible assumption
    | decide
    | with_reducible refine countStranger_changes ?_ ?_
    | with_reducible refine countFenced_changes ?_ ?_
    | with_reducible refine settleBuf_changes ?_ ?_
    | with_reducible refine enqueue_changes ?_ ?_
    | with_reducible refine ChangesOnly.foldl _ ?_ (fun _ _ _ => ?_)
    | with_reducible refine ChangesOnly.ite_any ?_ ?_
    | split

theorem enterInside_changes {slot : Nat} {p : Packet} {s : State} (h₀ : ChangesOnly parts start s)
    (h₁ : [.swc] ⊆ parts) : ChangesOnly parts start (enterInside slot p s) := by
  refine h₀.step ?_ h₁
  unfold enterInside
  try dsimp only
  repeat' first
    | with_reducible exact ChangesOnly.refl _ _
    | with_reducible assumption
    | decide
    | with_reducible refine ChangesOnly.modSwc _ ?_ ?_
    | with_reducible refine enqueue_changes ?_ ?_
    | with_reducible refine replicate_changes ?_ ?_
    | with_reducible refine ChangesOnly.ite_any ?_ ?_
    | split

theorem inject_changes {slot : Nat} {p : Packet} {s : State} (h₀ : ChangesOnly parts start s)
    (h₁ : [.swc] ⊆ parts) : ChangesOnly parts start (inject slot p s) := by
  refine h₀.step ?_ h₁
  unfold inject
  try dsimp only
  repeat' first
    | with_reducible exact ChangesOnly.refl _ _
    | with_reducible assumption
    | decide
    | with_reducible refine ChangesOnly.modSwc _ ?_ ?_
    | with_reducible refine enterInside_changes ?_ ?_
    | with_reducible refine ChangesOnly.ite_any ?_ ?_
    | split

theorem enterWaiting_changes {k : Nat} {s : State} (h₀ : ChangesOnly parts start s)
    (h₁ : [.swc] ⊆ parts) : ChangesOnly parts start (enterWaiting k s) := by
  refine h₀.step ?_ h₁
  clear h₀ h₁
  revert s
  induction k with
  | zero => intro s; exact ChangesOnly.refl _ _
  | succ k ih =>
    intro s
    unfold enterWaiting
    try dsimp only
    repeat' first
      | with_reducible exact ChangesOnly.refl _ _
      | with_reducible assumption
      | with_reducible refine ChangesOnly.trans ?_ ih
      | decide
      | with_reducible refine ChangesOnly.modSwc _ ?_ ?_
      | with_reducible refine enterInside_changes ?_ ?_
      | split

theorem sendDlvAck_changes {dev : Nat} {s : State} (h₀ : ChangesOnly parts start s)
    (h₁ : [.swc] ⊆ parts) : ChangesOnly parts start (sendDlvAck dev s) := by
  refine h₀.step ?_ h₁
  unfold sendDlvAck
  try dsimp only
  repeat' first
    | with_reducible exact ChangesOnly.refl _ _
    | with_reducible assumption
    | decide
    | with_reducible refine ChangesOnly.modSwc _ ?_ ?_
    | with_reducible refine inject_changes ?_ ?_
    | with_reducible refine ChangesOnly.ite_any ?_ ?_
    | split

theorem sendFullAcks_changes {s : State} (h₀ : ChangesOnly parts start s)
    (h₁ : [.swc] ⊆ parts) : ChangesOnly parts start (sendFullAcks s) := by
  refine h₀.step ?_ h₁
  unfold sendFullAcks
  try dsimp only
  repeat' first
    | with_reducible exact ChangesOnly.refl _ _
    | with_reducible assumption
    | decide
    | with_reducible refine sendDlvAck_changes ?_ ?_
    | with_reducible refine ChangesOnly.foldl _ ?_ (fun _ _ _ => ?_)
    | with_reducible refine ChangesOnly.ite_any ?_ ?_
    | split

theorem logPenAbort_changes {tag status : Nat} {s : State} (h₀ : ChangesOnly parts start s)
    (h₁ : [.glb, .flt, .fatal, .attic, .bel, .bln, .host, .out] ⊆ parts) : ChangesOnly parts start (logPenAbort tag status s) := by
  refine h₀.step ?_ h₁
  unfold logPenAbort
  try dsimp only
  repeat' first
    | with_reducible exact ChangesOnly.refl _ _
    | with_reducible assumption
    | decide
    | with_reducible refine recordFault_changes ?_ ?_
    | with_reducible refine ChangesOnly.ite_any ?_ ?_
    | split

theorem sendAbortRecord_changes {tag stepLo node status : Nat} {arrival : Option Bool} {tail : Bytes} {s : State} (h₀ : ChangesOnly parts start s)
    (h₁ : [.swc] ⊆ parts) : ChangesOnly parts start (sendAbortRecord tag stepLo node status arrival tail s) := by
  refine h₀.step ?_ h₁
  unfold sendAbortRecord
  try dsimp only
  repeat' first
    | with_reducible exact ChangesOnly.refl _ _
    | with_reducible assumption
    | decide
    | with_reducible refine inject_changes ?_ ?_
    | split

theorem agedFold_changes {p : Packet} {s : State} (h₀ : ChangesOnly parts start s)
    (h₁ : [.glb, .flt, .fatal, .attic, .bel, .swc, .bln, .host, .out] ⊆ parts) : ChangesOnly parts start (agedFold p s) := by
  refine h₀.step ?_ h₁
  unfold agedFold
  try dsimp only
  repeat' first
    | with_reducible exact ChangesOnly.refl _ _
    | with_reducible assumption
    | decide
    | with_reducible refine logPenAbort_changes ?_ ?_
    | with_reducible refine sendAbortRecord_changes ?_ ?_
    | with_reducible refine ChangesOnly.ite_any ?_ ?_
    | split

theorem truncate_changes {id reason : Nat} {s : State} (h₀ : ChangesOnly parts start s)
    (h₁ : [.swc] ⊆ parts) : ChangesOnly parts start (truncate id reason s) := by
  refine h₀.step ?_ h₁
  unfold truncate
  try dsimp only
  repeat' first
    | with_reducible exact ChangesOnly.refl _ _
    | with_reducible assumption
    | decide
    | with_reducible refine ChangesOnly.modSwc _ ?_ ?_
    | with_reducible refine countTrunc_changes ?_ ?_
    | with_reducible refine State.modBuf_changes ?_ ?_
    | with_reducible refine State.dropCopies_changes ?_ ?_
    | with_reducible refine settleBuf_changes ?_ ?_
    | with_reducible refine resolveCopy_changes ?_ ?_
    | with_reducible refine ChangesOnly.foldl _ ?_ (fun _ _ _ => ?_)
    | with_reducible refine ChangesOnly.ite_any ?_ ?_
    | split

theorem updateLost_changes {s : State} (h₀ : ChangesOnly parts start s)
    (h₁ : [.rte] ⊆ parts) : ChangesOnly parts start (updateLost s) := by
  refine h₀.step ?_ h₁
  unfold updateLost
  try dsimp only
  repeat' first
    | with_reducible exact ChangesOnly.refl _ _
    | with_reducible assumption
    | decide
    | with_reducible refine ChangesOnly.modRte _ ?_ ?_

theorem truncateAll_changes {n reason : Nat} {s : State} (h₀ : ChangesOnly parts start s)
    (h₁ : [.swc] ⊆ parts) : ChangesOnly parts start (truncateAll n reason s) := by
  refine h₀.step ?_ h₁
  unfold truncateAll
  try dsimp only
  repeat' first
    | with_reducible exact ChangesOnly.refl _ _
    | with_reducible assumption
    | decide
    | with_reducible refine truncate_changes ?_ ?_
    | with_reducible refine ChangesOnly.foldl _ ?_ (fun _ _ _ => ?_)
    | split

theorem cutCopy_changes {n : Nat} {w : Waiting} {s : State} (h₀ : ChangesOnly parts start s)
    (h₁ : [.swc] ⊆ parts) : ChangesOnly parts start (cutCopy n w s) := by
  refine h₀.step ?_ h₁
  unfold cutCopy
  try dsimp only
  repeat' first
    | with_reducible exact ChangesOnly.refl _ _
    | with_reducible assumption
    | decide
    | with_reducible refine countFenced_changes ?_ ?_
    | with_reducible refine State.modCopies_changes ?_ ?_
    | with_reducible refine resolveCopy_changes ?_ ?_
    | with_reducible refine discardCopy_changes ?_ ?_
    | with_reducible refine ChangesOnly.ite_any ?_ ?_
    | split

theorem requeue_changes {n : Nat} {s : State} (h₀ : ChangesOnly parts start s)
    (h₁ : [.glb, .flt, .fatal, .attic, .bel, .swc, .rte, .bln, .host, .out] ⊆ parts) : ChangesOnly parts start (requeue n s) := by
  refine h₀.step ?_ h₁
  unfold requeue
  try dsimp only
  repeat' first
    | with_reducible exact ChangesOnly.refl _ _
    | with_reducible assumption
    | decide
    | with_reducible refine discardCopy_changes ?_ ?_
    | with_reducible refine routeCopy_changes ?_ ?_
    | with_reducible refine cutCopy_changes ?_ ?_
    | with_reducible refine ChangesOnly.foldl _ ?_ (fun _ _ _ => ?_)
    | with_reducible refine ChangesOnly.ite_any ?_ ?_
    | split

theorem fencePort_changes {n : Nat} {s : State} (h₀ : ChangesOnly parts start s)
    (h₁ : [.glb, .flt, .fatal, .attic, .bel, .swc, .rte, .bln, .host, .out] ⊆ parts) : ChangesOnly parts start (fencePort n s) := by
  refine h₀.step ?_ h₁
  unfold fencePort
  try dsimp only
  repeat' first
    | with_reducible exact ChangesOnly.refl _ _
    | with_reducible assumption
    | decide
    | with_reducible refine ChangesOnly.modSlot _ _ ?_ ?_
    | with_reducible refine updateLost_changes ?_ ?_
    | with_reducible refine truncateAll_changes ?_ ?_
    | with_reducible refine requeue_changes ?_ ?_

theorem arriveInside_changes {w : Waiting} {s : State} (h₀ : ChangesOnly parts start s)
    (h₁ : [.swc, .inbox] ⊆ parts) : ChangesOnly parts start (arriveInside w s) := by
  refine h₀.step ?_ h₁
  unfold arriveInside
  try dsimp only
  repeat' first
    | with_reducible exact ChangesOnly.refl _ _
    | with_reducible assumption
    | decide
    | with_reducible refine ChangesOnly.modInbox _ ?_ ?_
    | with_reducible refine countFenced_changes ?_ ?_
    | with_reducible refine discardCopy_changes ?_ ?_
    | with_reducible refine ChangesOnly.ite_any ?_ ?_
    | split

theorem leaveEndpoint_changes {w : Waiting} {inj : Bool} {s : State} (h₀ : ChangesOnly parts start s)
    (h₁ : [.glb, .flt, .fatal, .attic, .bel, .swc, .bln, .host, .out] ⊆ parts) : ChangesOnly parts start (leaveEndpoint w inj s) := by
  refine h₀.step ?_ h₁
  unfold leaveEndpoint
  try dsimp only
  repeat' first
    | with_reducible exact ChangesOnly.refl _ _
    | with_reducible assumption
    | decide
    | with_reducible refine ChangesOnly.modSlot _ _ ?_ ?_
    | with_reducible refine recordFault_changes ?_ ?_
    | with_reducible refine resolveCopy_changes ?_ ?_
    | with_reducible refine ChangesOnly.ite_any ?_ ?_
    | split

theorem countOverrun_changes {w : Waiting} {s : State} (h₀ : ChangesOnly parts start s)
    (h₁ : [.gates] ⊆ parts) : ChangesOnly parts start (countOverrun w s) := by
  refine h₀.step ?_ h₁
  unfold countOverrun
  try dsimp only
  repeat' first
    | with_reducible exact ChangesOnly.refl _ _
    | with_reducible assumption
    | decide
    | with_reducible refine ChangesOnly.modGate _ _ ?_ ?_
    | with_reducible refine ChangesOnly.ite_any ?_ ?_
    | split

theorem moveFlit_changes {id eg : Nat} {s : State} (h₀ : ChangesOnly parts start s)
    (h₁ : [.glb, .flt, .fatal, .attic, .bel, .gates, .swc, .bln, .host, .out] ⊆ parts) : ChangesOnly parts start (moveFlit id eg s) := by
  refine h₀.step ?_ h₁
  unfold moveFlit
  try dsimp only
  repeat' first
    | with_reducible exact ChangesOnly.refl _ _
    | with_reducible assumption
    | decide
    | with_reducible refine useInjection_changes ?_ ?_
    | with_reducible refine sendFlit_changes ?_ ?_
    | with_reducible refine State.modCopies_changes ?_ ?_
    | with_reducible refine State.dropCopies_changes ?_ ?_
    | with_reducible refine settleBuf_changes ?_ ?_
    | with_reducible refine leaveEndpoint_changes ?_ ?_
    | with_reducible refine countOverrun_changes ?_ ?_
    | with_reducible refine ChangesOnly.ite_any ?_ ?_
    | split

theorem movePort_changes {eg : Nat} {k : Nat} {s : State} (h₀ : ChangesOnly parts start s)
    (h₁ : [.glb, .flt, .fatal, .attic, .bel, .gates, .swc, .bln, .host, .out] ⊆ parts) : ChangesOnly parts start (movePort eg k s) := by
  refine h₀.step ?_ h₁
  clear h₀ h₁
  revert s
  induction k with
  | zero => intro s; exact ChangesOnly.refl _ _
  | succ k ih =>
    intro s
    unfold movePort
    try dsimp only
    repeat' first
      | with_reducible exact ChangesOnly.refl _ _
      | with_reducible assumption
      | with_reducible refine ChangesOnly.trans ?_ ih
      | decide
      | with_reducible refine ChangesOnly.modLink _ _ ?_ ?_
      | with_reducible refine moveFlit_changes ?_ ?_
      | split

theorem loopIn_changes {w : Waiting} {s : State} (h₀ : ChangesOnly parts start s)
    (h₁ : [.swc] ⊆ parts) : ChangesOnly parts start (loopIn w s) := by
  refine h₀.step ?_ h₁
  unfold loopIn
  try dsimp only
  repeat' first
    | with_reducible exact ChangesOnly.refl _ _
    | with_reducible assumption
    | decide
    | with_reducible refine ChangesOnly.modSwc _ ?_ ?_
    | with_reducible refine countStranger_changes ?_ ?_
    | with_reducible refine discardCopy_changes ?_ ?_
    | with_reducible refine enqueue_changes ?_ ?_
    | with_reducible refine ChangesOnly.ite_any ?_ ?_
    | split

theorem pumpCopy_changes {w : Waiting} {s : State} (h₀ : ChangesOnly parts start s)
    (h₁ : [.glb, .flt, .fatal, .attic, .bel, .gates, .swc, .bln, .host, .inbox, .out] ⊆ parts) : ChangesOnly parts start (pumpCopy w s) := by
  refine h₀.step ?_ h₁
  unfold pumpCopy
  try dsimp only
  repeat' first
    | with_reducible exact ChangesOnly.refl _ _
    | with_reducible assumption
    | decide
    | with_reducible refine State.modCopies_changes ?_ ?_
    | with_reducible refine settleBuf_changes ?_ ?_
    | with_reducible refine arriveInside_changes ?_ ?_
    | with_reducible refine movePort_changes ?_ ?_
    | with_reducible refine loopIn_changes ?_ ?_
    | with_reducible refine ChangesOnly.ite_any ?_ ?_
    | split

theorem payShaper_changes {w : Waiting} {s : State} (h₀ : ChangesOnly parts start s)
    (h₁ : [.shapers] ⊆ parts) : ChangesOnly parts start (payShaper w s) := by
  refine h₀.step ?_ h₁
  unfold payShaper
  try dsimp only
  repeat' first
    | with_reducible exact ChangesOnly.refl _ _
    | with_reducible assumption
    | decide
    | with_reducible refine ChangesOnly.modShaper _ _ _ ?_ ?_
    | with_reducible refine ChangesOnly.ite_any ?_ ?_
    | split

theorem beginCopy_changes {w : Waiting} {s : State} (h₀ : ChangesOnly parts start s)
    (h₁ : [.shapers, .swc] ⊆ parts) : ChangesOnly parts start (beginCopy w s) := by
  refine h₀.step ?_ h₁
  unfold beginCopy
  try dsimp only
  repeat' first
    | with_reducible exact ChangesOnly.refl _ _
    | with_reducible assumption
    | decide
    | with_reducible refine State.modCopies_changes ?_ ?_
    | with_reducible refine payShaper_changes ?_ ?_
    | with_reducible refine ChangesOnly.ite_any ?_ ?_
    | split

theorem autoStart_changes {s : State} (h₀ : ChangesOnly parts start s)
    (h₁ : [.shapers, .swc] ⊆ parts) : ChangesOnly parts start (autoStart s) := by
  refine h₀.step ?_ h₁
  unfold autoStart
  try dsimp only
  repeat' first
    | with_reducible exact ChangesOnly.refl _ _
    | with_reducible assumption
    | decide
    | with_reducible refine beginCopy_changes ?_ ?_
    | with_reducible refine ChangesOnly.foldl _ ?_ (fun _ _ _ => ?_)
    | with_reducible refine ChangesOnly.ite_any ?_ ?_
    | split

theorem crossCopy_changes {w : Waiting} {s : State} (h₀ : ChangesOnly parts start s)
    (h₁ : [.swc] ⊆ parts) : ChangesOnly parts start (crossCopy w s) := by
  refine h₀.step ?_ h₁
  unfold crossCopy
  try dsimp only
  repeat' first
    | with_reducible exact ChangesOnly.refl _ _
    | with_reducible assumption
    | decide
    | with_reducible refine State.modCopies_changes ?_ ?_
    | with_reducible refine settleBuf_changes ?_ ?_
    | with_reducible refine ChangesOnly.ite_any ?_ ?_
    | split

theorem pump_changes {s : State} (h₀ : ChangesOnly parts start s)
    (h₁ : [.glb, .flt, .fatal, .attic, .bel, .shapers, .gates, .swc, .bln, .host, .inbox, .out] ⊆ parts) : ChangesOnly parts start (pump s) := by
  refine h₀.step ?_ h₁
  unfold pump
  try dsimp only
  repeat' first
    | with_reducible exact ChangesOnly.refl _ _
    | with_reducible assumption
    | decide
    | with_reducible refine pumpCopy_changes ?_ ?_
    | with_reducible refine autoStart_changes ?_ ?_
    | with_reducible refine crossCopy_changes ?_ ?_
    | with_reducible refine ChangesOnly.foldl _ ?_ (fun _ _ _ => ?_)
    | with_reducible refine ChangesOnly.ite_any ?_ ?_
    | split

theorem countWaits_changes {s : State} (h₀ : ChangesOnly parts start s)
    (h₁ : [.swc] ⊆ parts) : ChangesOnly parts start (countWaits s) := by
  refine h₀.step ?_ h₁
  unfold countWaits
  try dsimp only
  repeat' first
    | with_reducible exact ChangesOnly.refl _ _
    | with_reducible assumption
    | decide
    | with_reducible refine ChangesOnly.modSwc _ ?_ ?_
    | with_reducible refine ChangesOnly.ite_any ?_ ?_
    | split

theorem settleCore_changes {s : State} (h₀ : ChangesOnly parts start s)
    (h₁ : [.glb, .flt, .fatal, .attic, .bel, .shapers, .gates, .swc, .rte, .bln, .host, .inbox, .out] ⊆ parts) : ChangesOnly parts start (settleCore s) := by
  refine h₀.step ?_ h₁
  unfold settleCore
  try dsimp only
  repeat' first
    | with_reducible exact ChangesOnly.refl _ _
    | with_reducible assumption
    | decide
    | with_reducible refine releaseHeld_changes ?_ ?_
    | with_reducible refine enterWaiting_changes ?_ ?_
    | with_reducible refine sendFullAcks_changes ?_ ?_
    | with_reducible refine pump_changes ?_ ?_
    | with_reducible refine countWaits_changes ?_ ?_
    | with_reducible refine ChangesOnly.ite_any ?_ ?_
    | split

theorem dropHead_changes {n id : Nat} {p : Packet} {s : State} (h₀ : ChangesOnly parts start s)
    (h₁ : [.swc] ⊆ parts) : ChangesOnly parts start (dropHead n id p s) := by
  refine h₀.step ?_ h₁
  unfold dropHead
  try dsimp only
  repeat' first
    | with_reducible exact ChangesOnly.refl _ _
    | with_reducible assumption
    | decide
    | with_reducible refine settleBuf_changes ?_ ?_
    | with_reducible refine resolveTrack_changes ?_ ?_
    | with_reducible refine ChangesOnly.ite_any ?_ ?_
    | split

theorem admitHead_changes {n inVc : Nat} {type : BitVec 4} {body : Bytes} {s : State} (h₀ : ChangesOnly parts start s)
    (h₁ : [.glb, .flt, .fatal, .attic, .bel, .swc, .rte, .bln, .host, .out] ⊆ parts) : ChangesOnly parts start (admitHead n inVc type body s) := by
  refine h₀.step ?_ h₁
  unfold admitHead
  try dsimp only
  repeat' first
    | with_reducible exact ChangesOnly.refl _ _
    | with_reducible assumption
    | decide
    | with_reducible refine ChangesOnly.modSwc _ ?_ ?_
    | with_reducible refine countStranger_changes ?_ ?_
    | with_reducible refine countFenced_changes ?_ ?_
    | with_reducible refine routeCopy_changes ?_ ?_
    | with_reducible refine enqueue_changes ?_ ?_
    | with_reducible refine replicate_changes ?_ ?_
    | with_reducible refine truncate_changes ?_ ?_
    | with_reducible refine dropHead_changes ?_ ?_
    | with_reducible refine ChangesOnly.ite_any ?_ ?_
    | split

theorem failPacket_changes {id n : Nat} {s : State} (h₀ : ChangesOnly parts start s)
    (h₁ : [.glb, .flt, .fatal, .attic, .bel, .swc, .rte, .bln, .host, .out] ⊆ parts) : ChangesOnly parts start (failPacket id n s) := by
  refine h₀.step ?_ h₁
  unfold failPacket
  try dsimp only
  repeat' first
    | with_reducible exact ChangesOnly.refl _ _
    | with_reducible assumption
    | decide
    | with_reducible refine ChangesOnly.modSlot _ _ ?_ ?_
    | with_reducible refine fence_changes ?_ ?_
    | with_reducible refine recordFault_changes ?_ ?_
    | with_reducible refine countFenced_changes ?_ ?_
    | with_reducible refine State.modCopies_changes ?_ ?_
    | with_reducible refine State.dropCopies_changes ?_ ?_
    | with_reducible refine settleBuf_changes ?_ ?_
    | with_reducible refine resolveCopy_changes ?_ ?_
    | with_reducible refine fencePort_changes ?_ ?_
    | with_reducible refine ChangesOnly.foldl _ ?_ (fun _ _ _ => ?_)
    | with_reducible refine ChangesOnly.ite_any ?_ ?_
    | split

theorem bufferInjection_changes {n id : Nat} {s : State} (h₀ : ChangesOnly parts start s)
    (h₁ : [.glb, .flt, .fatal, .attic, .bel, .swc, .rte, .bln, .host, .out] ⊆ parts) : ChangesOnly parts start (bufferInjection n id s) := by
  refine h₀.step ?_ h₁
  unfold bufferInjection
  try dsimp only
  repeat' first
    | with_reducible exact ChangesOnly.refl _ _
    | with_reducible assumption
    | decide
    | with_reducible refine recordFault_changes ?_ ?_
    | with_reducible refine useInjection_changes ?_ ?_
    | with_reducible refine failPacket_changes ?_ ?_
    | with_reducible refine ChangesOnly.ite_any ?_ ?_
    | split

theorem takeBody_changes {n inVc id : Nat} {type : BitVec 4} {body : Bytes} {s : State} (h₀ : ChangesOnly parts start s)
    (h₁ : [.glb, .flt, .fatal, .attic, .bel, .swc, .rte, .bln, .host, .out] ⊆ parts) : ChangesOnly parts start (takeBody n inVc id type body s) := by
  refine h₀.step ?_ h₁
  unfold takeBody
  try dsimp only
  repeat' first
    | with_reducible exact ChangesOnly.refl _ _
    | with_reducible assumption
    | decide
    | with_reducible refine ChangesOnly.modSwc _ ?_ ?_
    | with_reducible refine freeFlits_changes ?_ ?_
    | with_reducible refine State.modBuf_changes ?_ ?_
    | with_reducible refine settleBuf_changes ?_ ?_
    | with_reducible refine truncate_changes ?_ ?_
    | with_reducible refine bufferInjection_changes ?_ ?_
    | with_reducible refine ChangesOnly.ite_any ?_ ?_
    | split

theorem enterFlit_changes {n : Nat} {vc : Nat} {type : BitVec 4} {body : Bytes} {s : State} (h₀ : ChangesOnly parts start s)
    (h₁ : [.glb, .flt, .fatal, .attic, .bel, .swc, .rte, .bln, .host, .out] ⊆ parts) : ChangesOnly parts start (enterFlit n vc type body s) := by
  refine h₀.step ?_ h₁
  unfold enterFlit
  try dsimp only
  repeat' first
    | with_reducible exact ChangesOnly.refl _ _
    | with_reducible assumption
    | decide
    | with_reducible refine ChangesOnly.modLink _ _ ?_ ?_
    | with_reducible refine freeFlits_changes ?_ ?_
    | with_reducible refine countOrphan_changes ?_ ?_
    | with_reducible refine truncate_changes ?_ ?_
    | with_reducible refine admitHead_changes ?_ ?_
    | with_reducible refine bufferInjection_changes ?_ ?_
    | with_reducible refine takeBody_changes ?_ ?_
    | with_reducible refine ChangesOnly.ite_any ?_ ?_
    | split

theorem receiveFlit_changes {linkDown : Nat → State → State} {n : Nat} {f : Bytes} {s : State} (h₀ : ChangesOnly parts start s)
    (h₁ : [.glb, .flt, .fatal, .attic, .bel, .swc, .rte, .bln, .host, .out] ⊆ parts)
    (hf : ∀ x0 t, ChangesOnly parts start t → ChangesOnly parts start (linkDown x0 t)) : ChangesOnly parts start (receiveFlit linkDown n f s) := by
  unfold receiveFlit
  try dsimp only
  repeat' first
    | with_reducible assumption
    | with_reducible exact h₀
    | with_reducible refine hf _ _ ?_
    | exact List.Subset.trans (by decide) h₁
    | exact h₁ (by decide)
    | with_reducible refine ChangesOnly.modLink _ _ ?_ ?_
    | with_reducible refine sendAck_changes ?_ ?_
    | with_reducible refine failFlit_changes ?_ ?_
    | with_reducible refine onAck_changes ?_ ?_
    | with_reducible refine onNak_changes ?_ ?_
    | with_reducible refine takeReport_changes ?_ ?_
    | with_reducible refine enterFlit_changes ?_ ?_
    | with_reducible refine ChangesOnly.ite_any ?_ ?_
    | split

theorem passTurn_changes {w : Waiting} {s : State} (h₀ : ChangesOnly parts start s)
    (h₁ : [.swc] ⊆ parts) : ChangesOnly parts start (passTurn w s) := by
  refine h₀.step ?_ h₁
  unfold passTurn
  try dsimp only
  repeat' first
    | with_reducible exact ChangesOnly.refl _ _
    | with_reducible assumption
    | decide
    | with_reducible refine ChangesOnly.modSwc _ ?_ ?_
    | with_reducible refine ChangesOnly.ite_any ?_ ?_
    | split

theorem startPacket_changes {eg vc ing : Nat} {s : State} (h₀ : ChangesOnly parts start s)
    (h₁ : [.glb, .flt, .fatal, .attic, .bel, .shapers, .gates, .swc, .rte, .bln, .host, .inbox, .out] ⊆ parts) : ChangesOnly parts start (startPacket eg vc ing s) := by
  refine h₀.step ?_ h₁
  unfold startPacket
  try dsimp only
  repeat' first
    | with_reducible exact ChangesOnly.refl _ _
    | with_reducible assumption
    | decide
    | with_reducible refine countAged_changes ?_ ?_
    | with_reducible refine countFenced_changes ?_ ?_
    | with_reducible refine discardCopy_changes ?_ ?_
    | with_reducible refine agedFold_changes ?_ ?_
    | with_reducible refine beginCopy_changes ?_ ?_
    | with_reducible refine settleCore_changes ?_ ?_
    | with_reducible refine passTurn_changes ?_ ?_
    | with_reducible refine ChangesOnly.ite_any ?_ ?_
    | split

theorem packetStall_changes {n vc : Nat} {s : State} (h₀ : ChangesOnly parts start s)
    (h₁ : [.glb, .flt, .fatal, .attic, .bel, .gt, .clock, .shapers, .gates, .swc, .rte, .bln, .thm, .host, .inbox, .out] ⊆ parts) : ChangesOnly parts start (packetStall n vc s) := by
  refine h₀.step ?_ h₁
  unfold packetStall
  try dsimp only
  repeat' first
    | with_reducible exact ChangesOnly.refl _ _
    | with_reducible assumption
    | decide
    | with_reducible refine advanceTo_changes ?_ ?_
    | with_reducible refine truncate_changes ?_ ?_
    | with_reducible refine settleCore_changes ?_ ?_
    | with_reducible refine ChangesOnly.ite_any ?_ ?_
    | split

theorem packetEscape_changes {ing eg vc : Nat} {s : State} (h₀ : ChangesOnly parts start s)
    (h₁ : [.glb, .flt, .fatal, .attic, .bel, .gt, .clock, .shapers, .gates, .swc, .rte, .bln, .thm, .host, .inbox, .out] ⊆ parts) : ChangesOnly parts start (packetEscape ing eg vc s) := by
  refine h₀.step ?_ h₁
  unfold packetEscape
  try dsimp only
  repeat' first
    | with_reducible exact ChangesOnly.refl _ _
    | with_reducible assumption
    | decide
    | with_reducible refine ChangesOnly.modRte _ ?_ ?_
    | with_reducible refine advanceTo_changes ?_ ?_
    | with_reducible refine State.modCopies_changes ?_ ?_
    | with_reducible refine routeCopy_changes ?_ ?_
    | with_reducible refine settleCore_changes ?_ ?_
    | with_reducible refine ChangesOnly.ite_any ?_ ?_
    | split

theorem orderFenceLimit_changes {ing cls : Nat} {s : State} (h₀ : ChangesOnly parts start s)
    (h₁ : [.glb, .flt, .fatal, .attic, .bel, .gt, .clock, .shapers, .gates, .swc, .rte, .bln, .thm, .host, .inbox, .out] ⊆ parts) : ChangesOnly parts start (orderFenceLimit ing cls s) := by
  refine h₀.step ?_ h₁
  unfold orderFenceLimit
  try dsimp only
  repeat' first
    | with_reducible exact ChangesOnly.refl _ _
    | with_reducible assumption
    | decide
    | with_reducible refine ChangesOnly.modRte _ ?_ ?_
    | with_reducible refine advanceTo_changes ?_ ?_
    | with_reducible refine recordFault_changes ?_ ?_
    | with_reducible refine releaseCopy_changes ?_ ?_
    | with_reducible refine settleCore_changes ?_ ?_
    | with_reducible refine ChangesOnly.ite_any ?_ ?_
    | split

theorem takeInbox_changes {p : Packet} {s : State} (h₀ : ChangesOnly parts start s)
    (h₁ : [.inbox] ⊆ parts) : ChangesOnly parts start (takeInbox p s) := by
  refine h₀.step ?_ h₁
  unfold takeInbox
  try dsimp only
  repeat' first
    | with_reducible exact ChangesOnly.refl _ _
    | with_reducible assumption
    | decide
    | with_reducible refine ChangesOnly.modInbox _ ?_ ?_

theorem dlvAck_changes {p : Packet} {s : State} (h₀ : ChangesOnly parts start s)
    (h₁ : [.glb, .flt, .fatal, .attic, .bel, .shapers, .gates, .swc, .rte, .bln, .host, .inbox, .out] ⊆ parts) : ChangesOnly parts start (dlvAck p s) := by
  refine h₀.step ?_ h₁
  unfold dlvAck
  try dsimp only
  repeat' first
    | with_reducible exact ChangesOnly.refl _ _
    | with_reducible assumption
    | decide
    | with_reducible refine ChangesOnly.modSwc _ ?_ ?_
    | with_reducible refine settleCore_changes ?_ ?_
    | with_reducible refine takeInbox_changes ?_ ?_
    | with_reducible refine ChangesOnly.foldl _ ?_ (fun _ _ _ => ?_)
    | with_reducible refine ChangesOnly.ite_any ?_ ?_
    | split

theorem dlvAckFlush_changes {dev : Nat} {s : State} (h₀ : ChangesOnly parts start s)
    (h₁ : [.glb, .flt, .fatal, .attic, .bel, .shapers, .gates, .swc, .rte, .bln, .host, .inbox, .out] ⊆ parts) : ChangesOnly parts start (dlvAckFlush dev s) := by
  refine h₀.step ?_ h₁
  unfold dlvAckFlush
  try dsimp only
  repeat' first
    | with_reducible exact ChangesOnly.refl _ _
    | with_reducible assumption
    | decide
    | with_reducible refine sendDlvAck_changes ?_ ?_
    | with_reducible refine settleCore_changes ?_ ?_
    | with_reducible refine ChangesOnly.ite_any ?_ ?_
    | split

end Sys2Proof.Machine
end

