-- ==== Sys2Proof/Laws/FrameOptics.lean ====
section
/-! SUPPORT. Laws/FrameOptics.lean: what the operations of optical ports and discovery change: each adds its own parts, named in its second
hypothesis, to what a chain has changed so far. -/

set_option linter.all false
set_option maxRecDepth 8000

namespace Sys2Proof.Machine

variable {parts : List Part} {start : State}

theorem setDisc_changes {n : Nat} {d : Disc} {s : State} (h₀ : ChangesOnly parts start s)
    (h₁ : [.swc, .host, .out] ⊆ parts) : ChangesOnly parts start (setDisc n d s) := by
  refine h₀.step ?_ h₁
  unfold setDisc
  try dsimp only
  repeat' first
    | with_reducible exact ChangesOnly.refl _ _
    | with_reducible assumption
    | decide
    | with_reducible refine ChangesOnly.modSlot _ _ ?_ ?_
    | with_reducible refine signal_changes ?_ ?_
    | with_reducible refine ChangesOnly.ite_any ?_ ?_
    | split

theorem setLinkUp_changes {n : Nat} {u : Bool} {s : State} (h₀ : ChangesOnly parts start s)
    (h₁ : [.swc, .host, .out] ⊆ parts) : ChangesOnly parts start (setLinkUp n u s) := by
  refine h₀.step ?_ h₁
  unfold setLinkUp
  try dsimp only
  repeat' first
    | with_reducible exact ChangesOnly.refl _ _
    | with_reducible assumption
    | decide
    | with_reducible refine ChangesOnly.modSlot _ _ ?_ ?_
    | with_reducible refine signal_changes ?_ ?_
    | with_reducible refine ChangesOnly.ite_any ?_ ?_
    | split

theorem linkLost_changes {n reason : Nat} {s : State} (h₀ : ChangesOnly parts start s)
    (h₁ : [.glb, .flt, .fatal, .attic, .bel, .shapers, .gates, .swc, .rte, .bln, .host, .inbox, .out] ⊆ parts) : ChangesOnly parts start (linkLost n reason s) := by
  refine h₀.step ?_ h₁
  unfold linkLost
  try dsimp only
  repeat' first
    | with_reducible exact ChangesOnly.refl _ _
    | with_reducible assumption
    | decide
    | with_reducible refine ChangesOnly.modSwc _ ?_ ?_
    | with_reducible refine updateLost_changes ?_ ?_
    | with_reducible refine truncateAll_changes ?_ ?_
    | with_reducible refine requeue_changes ?_ ?_
    | with_reducible refine settleCore_changes ?_ ?_
    | with_reducible refine ChangesOnly.ite_any ?_ ?_
    | split

theorem goDown_changes {n : Nat} {light : Bool} {s : State} (h₀ : ChangesOnly parts start s)
    (h₁ : [.glb, .flt, .fatal, .attic, .bel, .shapers, .gates, .swc, .rte, .lnk, .bln, .host, .inbox, .out] ⊆ parts) : ChangesOnly parts start (goDown n light s) := by
  refine h₀.step ?_ h₁
  unfold goDown
  try dsimp only
  repeat' first
    | with_reducible exact ChangesOnly.refl _ _
    | with_reducible assumption
    | decide
    | with_reducible refine ChangesOnly.modOptPort _ _ ?_ ?_
    | with_reducible refine request_changes ?_ ?_
    | with_reducible refine setDisc_changes ?_ ?_
    | with_reducible refine setLinkUp_changes ?_ ?_
    | with_reducible refine linkLost_changes ?_ ?_
    | with_reducible refine ChangesOnly.ite_any ?_ ?_
    | split

theorem replayDown_changes {n : Nat} {s : State} (h₀ : ChangesOnly parts start s)
    (h₁ : [.glb, .flt, .fatal, .attic, .bel, .shapers, .gates, .swc, .rte, .lnk, .bln, .host, .inbox, .out] ⊆ parts) : ChangesOnly parts start (replayDown n s) := by
  refine h₀.step ?_ h₁
  unfold replayDown
  try dsimp only
  repeat' first
    | with_reducible exact ChangesOnly.refl _ _
    | with_reducible assumption
    | decide
    | with_reducible refine ChangesOnly.modSlot _ _ ?_ ?_
    | with_reducible refine recordFault_changes ?_ ?_
    | with_reducible refine goDown_changes ?_ ?_

theorem linkReplayFail_changes {n : Nat} {s : State} (h₀ : ChangesOnly parts start s)
    (h₁ : [.glb, .flt, .fatal, .attic, .bel, .shapers, .gates, .swc, .rte, .lnk, .bln, .host, .inbox, .out] ⊆ parts) : ChangesOnly parts start (linkReplayFail n s) := by
  refine h₀.step ?_ h₁
  unfold linkReplayFail
  try dsimp only
  repeat' first
    | with_reducible exact ChangesOnly.refl _ _
    | with_reducible assumption
    | decide
    | with_reducible refine replayDown_changes ?_ ?_
    | with_reducible refine ChangesOnly.ite_any ?_ ?_
    | split

theorem sendDiscovery_changes {n ptype : Nat} {body : Bytes} {s : State} (h₀ : ChangesOnly parts start s)
    (h₁ : [.swc] ⊆ parts) : ChangesOnly parts start (sendDiscovery n ptype body s) := by
  refine h₀.step ?_ h₁
  unfold sendDiscovery
  try dsimp only
  repeat' first
    | with_reducible exact ChangesOnly.refl _ _
    | with_reducible assumption
    | decide
    | with_reducible refine ChangesOnly.modSwc _ ?_ ?_
    | with_reducible refine enqueue_changes ?_ ?_

theorem sendDiscover_changes {n : Nat} {s : State} (h₀ : ChangesOnly parts start s)
    (h₁ : [.swc, .draws] ⊆ parts) : ChangesOnly parts start (sendDiscover n s) := by
  refine h₀.step ?_ h₁
  unfold sendDiscover
  try dsimp only
  repeat' first
    | with_reducible exact ChangesOnly.refl _ _
    | with_reducible assumption
    | decide
    | with_reducible refine ChangesOnly.modLink _ _ ?_ ?_
    | with_reducible refine ChangesOnly.drawn ?_ ?_
    | with_reducible refine ChangesOnly.drawnBytes _ ?_ ?_
    | with_reducible refine sendDiscovery_changes ?_ ?_
    | with_reducible refine ChangesOnly.skip _ ?_ ?_

theorem logDiscovery_changes {n access planned presented : Nat} {s : State} (h₀ : ChangesOnly parts start s)
    (h₁ : [.glb, .flt, .fatal, .attic, .bel, .bln, .host, .out] ⊆ parts) : ChangesOnly parts start (logDiscovery n access planned presented s) := by
  refine h₀.step ?_ h₁
  unfold logDiscovery
  try dsimp only
  repeat' first
    | with_reducible exact ChangesOnly.refl _ _
    | with_reducible assumption
    | decide
    | with_reducible refine recordFault_changes ?_ ?_

theorem endDiscovery_changes {n : Nat} {good : Bool} {s : State} (h₀ : ChangesOnly parts start s)
    (h₁ : [.glb, .flt, .fatal, .attic, .bel, .shapers, .gates, .swc, .rte, .bln, .host, .inbox, .out] ⊆ parts) : ChangesOnly parts start (endDiscovery n good s) := by
  refine h₀.step ?_ h₁
  unfold endDiscovery
  try dsimp only
  repeat' first
    | with_reducible exact ChangesOnly.refl _ _
    | with_reducible assumption
    | decide
    | with_reducible refine ChangesOnly.modLink _ _ ?_ ?_
    | with_reducible refine updateLost_changes ?_ ?_
    | with_reducible refine settleCore_changes ?_ ?_
    | with_reducible refine setDisc_changes ?_ ?_
    | with_reducible refine logDiscovery_changes ?_ ?_
    | with_reducible refine ChangesOnly.ite_any ?_ ?_
    | split

theorem discover_changes {n : Nat} {p : Packet} {s : State} (h₀ : ChangesOnly parts start s)
    (h₁ : [.glb, .flt, .fatal, .attic, .bel, .shapers, .gates, .swc, .rte, .bln, .host, .inbox, .out, .draws] ⊆ parts) : ChangesOnly parts start (discover n p s) := by
  refine h₀.step ?_ h₁
  unfold discover
  try dsimp only
  repeat' first
    | with_reducible exact ChangesOnly.refl _ _
    | with_reducible assumption
    | decide
    | dsimp only
    | with_reducible refine ChangesOnly.modSlot _ _ ?_ ?_
    | with_reducible refine ChangesOnly.modLink _ _ ?_ ?_
    | with_reducible refine ChangesOnly.drawn ?_ ?_
    | with_reducible refine ChangesOnly.drawnBytes _ ?_ ?_
    | with_reducible refine settleCore_changes ?_ ?_
    | with_reducible refine takeInbox_changes ?_ ?_
    | with_reducible refine sendDiscovery_changes ?_ ?_
    | with_reducible refine endDiscovery_changes ?_ ?_
    | with_reducible refine ChangesOnly.ite_any ?_ ?_
    | with_reducible refine ChangesOnly.ite_snd ?_ ?_
    | split
    | (rename _ = (_, _) => hq; have e := congrArg Prod.snd hq; dsimp only at e; subst e; clear hq)

theorem proof_changes {n : Nat} {p : Packet} {s : State} (h₀ : ChangesOnly parts start s)
    (h₁ : [.glb, .flt, .fatal, .attic, .bel, .shapers, .gates, .swc, .rte, .bln, .host, .inbox, .out] ⊆ parts) : ChangesOnly parts start (proof n p s) := by
  refine h₀.step ?_ h₁
  unfold proof
  try dsimp only
  repeat' first
    | with_reducible exact ChangesOnly.refl _ _
    | with_reducible assumption
    | decide
    | with_reducible refine takeInbox_changes ?_ ?_
    | with_reducible refine endDiscovery_changes ?_ ?_
    | with_reducible refine ChangesOnly.ite_any ?_ ?_
    | split

theorem discoveryTimeout_changes {n : Nat} {s : State} (h₀ : ChangesOnly parts start s)
    (h₁ : [.glb, .flt, .fatal, .attic, .bel, .shapers, .gates, .swc, .rte, .bln, .host, .inbox, .out] ⊆ parts) : ChangesOnly parts start (discoveryTimeout n s) := by
  refine h₀.step ?_ h₁
  unfold discoveryTimeout
  try dsimp only
  repeat' first
    | with_reducible exact ChangesOnly.refl _ _
    | with_reducible assumption
    | decide
    | with_reducible refine endDiscovery_changes ?_ ?_
    | with_reducible refine ChangesOnly.ite_any ?_ ?_
    | split

theorem absentTimeout_changes {n : Nat} {s : State} (h₀ : ChangesOnly parts start s)
    (h₁ : [.glb, .flt, .fatal, .attic, .bel, .swc, .bln, .host, .out] ⊆ parts) : ChangesOnly parts start (absentTimeout n s) := by
  refine h₀.step ?_ h₁
  unfold absentTimeout
  try dsimp only
  repeat' first
    | with_reducible exact ChangesOnly.refl _ _
    | with_reducible assumption
    | decide
    | with_reducible refine setDisc_changes ?_ ?_
    | with_reducible refine logDiscovery_changes ?_ ?_
    | with_reducible refine ChangesOnly.ite_any ?_ ?_
    | split

theorem sendLink_changes {n op lane : Nat} {s : State} (h₀ : ChangesOnly parts start s)
    (h₁ : [.out] ⊆ parts) : ChangesOnly parts start (sendLink n op lane s) := by
  refine h₀.step ?_ h₁
  unfold sendLink
  try dsimp only
  repeat' first
    | with_reducible exact ChangesOnly.refl _ _
    | with_reducible assumption
    | decide
    | with_reducible refine ChangesOnly.emit _ ?_ ?_

theorem modulatorsLocked_changes {oe : Nat} {s : State} (h₀ : ChangesOnly parts start s)
    (h₁ : [.lnk] ⊆ parts) : ChangesOnly parts start (modulatorsLocked oe s) := by
  refine h₀.step ?_ h₁
  unfold modulatorsLocked
  try dsimp only
  repeat' first
    | with_reducible exact ChangesOnly.refl _ _
    | with_reducible assumption
    | decide
    | with_reducible refine ChangesOnly.modOptPort _ _ ?_ ?_
    | with_reducible refine ChangesOnly.modEngine _ _ ?_ ?_
    | with_reducible refine ChangesOnly.foldl _ ?_ (fun _ _ _ => ?_)
    | with_reducible refine ChangesOnly.ite_any ?_ ?_
    | split

theorem lightDetected_changes {n : Nat} {s : State} (h₀ : ChangesOnly parts start s)
    (h₁ : [.lnk] ⊆ parts) : ChangesOnly parts start (lightDetected n s) := by
  refine h₀.step ?_ h₁
  unfold lightDetected
  try dsimp only
  repeat' first
    | with_reducible exact ChangesOnly.refl _ _
    | with_reducible assumption
    | decide
    | with_reducible refine ChangesOnly.modOptPort _ _ ?_ ?_
    | with_reducible refine ChangesOnly.ite_any ?_ ?_
    | split

theorem portAdapted_changes {n : Nat} {s : State} (h₀ : ChangesOnly parts start s)
    (h₁ : [.lnk] ⊆ parts) : ChangesOnly parts start (portAdapted n s) := by
  refine h₀.step ?_ h₁
  unfold portAdapted
  try dsimp only
  repeat' first
    | with_reducible exact ChangesOnly.refl _ _
    | with_reducible assumption
    | decide
    | with_reducible refine ChangesOnly.modOptPort _ _ ?_ ?_
    | with_reducible refine ChangesOnly.ite_any ?_ ?_
    | split

theorem startSparing_changes {n : Nat} {s : State} (h₀ : ChangesOnly parts start s)
    (h₁ : [.lnk, .out] ⊆ parts) : ChangesOnly parts start (startSparing n s) := by
  refine h₀.step ?_ h₁
  unfold startSparing
  try dsimp only
  repeat' first
    | with_reducible exact ChangesOnly.refl _ _
    | with_reducible assumption
    | decide
    | with_reducible refine ChangesOnly.modOptPort _ _ ?_ ?_
    | with_reducible refine sendLink_changes ?_ ?_
    | split

theorem portAligned_changes {n : Nat} {failed : List Nat} {s : State} (h₀ : ChangesOnly parts start s)
    (h₁ : [.lnk, .out] ⊆ parts) : ChangesOnly parts start (portAligned n failed s) := by
  refine h₀.step ?_ h₁
  unfold portAligned
  try dsimp only
  repeat' first
    | with_reducible exact ChangesOnly.refl _ _
    | with_reducible assumption
    | decide
    | with_reducible refine ChangesOnly.modOptPort _ _ ?_ ?_
    | with_reducible refine startSparing_changes ?_ ?_
    | with_reducible refine ChangesOnly.ite_any ?_ ?_
    | split

theorem fecLocked_changes {n : Nat} {s : State} (h₀ : ChangesOnly parts start s)
    (h₁ : [.lnk, .out] ⊆ parts) : ChangesOnly parts start (fecLocked n s) := by
  refine h₀.step ?_ h₁
  unfold fecLocked
  try dsimp only
  repeat' first
    | with_reducible exact ChangesOnly.refl _ _
    | with_reducible assumption
    | decide
    | with_reducible refine ChangesOnly.modOptPort _ _ ?_ ?_
    | with_reducible refine sendLink_changes ?_ ?_
    | with_reducible refine ChangesOnly.ite_any ?_ ?_
    | split

theorem portUp_changes {n : Nat} {s : State} (h₀ : ChangesOnly parts start s)
    (h₁ : [.glb, .flt, .fatal, .attic, .bel, .shapers, .gates, .swc, .rte, .lnk, .bln, .host, .inbox, .out, .draws] ⊆ parts) : ChangesOnly parts start (portUp n s) := by
  refine h₀.step ?_ h₁
  unfold portUp
  try dsimp only
  repeat' first
    | with_reducible exact ChangesOnly.refl _ _
    | with_reducible assumption
    | decide
    | with_reducible refine ChangesOnly.modSwc _ ?_ ?_
    | with_reducible refine ChangesOnly.modOptPort _ _ ?_ ?_
    | with_reducible refine sendCreditInit_changes ?_ ?_
    | with_reducible refine settleCore_changes ?_ ?_
    | with_reducible refine setDisc_changes ?_ ?_
    | with_reducible refine setLinkUp_changes ?_ ?_
    | with_reducible refine sendDiscover_changes ?_ ?_
    | with_reducible refine ChangesOnly.ite_any ?_ ?_
    | split

theorem portDown_changes {n : Nat} {cause : DownCause} {light : Bool} {s : State} (h₀ : ChangesOnly parts start s)
    (h₁ : [.glb, .flt, .fatal, .attic, .bel, .shapers, .gates, .swc, .rte, .lnk, .bln, .host, .inbox, .out] ⊆ parts) : ChangesOnly parts start (portDown n cause light s) := by
  refine h₀.step ?_ h₁
  unfold portDown
  try dsimp only
  repeat' first
    | with_reducible exact ChangesOnly.refl _ _
    | with_reducible assumption
    | decide
    | with_reducible refine goDown_changes ?_ ?_
    | with_reducible refine ChangesOnly.ite_any ?_ ?_
    | split

theorem countSymbols_changes {n : Nat} {cs : List Nat} {s : State} (h₀ : ChangesOnly parts start s)
    (h₁ : [.lnk] ⊆ parts) : ChangesOnly parts start (countSymbols n cs s) := by
  refine h₀.step ?_ h₁
  unfold countSymbols
  try dsimp only
  repeat' first
    | with_reducible exact ChangesOnly.refl _ _
    | with_reducible assumption
    | decide
    | with_reducible refine State.modLane_changes ?_ ?_
    | with_reducible refine ChangesOnly.foldl _ ?_ (fun _ _ _ => ?_)

theorem countCorrected_changes {n : Nat} {cs : List Nat} {s : State} (h₀ : ChangesOnly parts start s)
    (h₁ : [.lnk] ⊆ parts) : ChangesOnly parts start (countCorrected n cs s) := by
  refine h₀.step ?_ h₁
  unfold countCorrected
  try dsimp only
  repeat' first
    | with_reducible exact ChangesOnly.refl _ _
    | with_reducible assumption
    | decide
    | with_reducible refine ChangesOnly.modOptPort _ _ ?_ ?_
    | with_reducible refine countSymbols_changes ?_ ?_
    | with_reducible refine ChangesOnly.ite_any ?_ ?_
    | split

theorem checkTestFlit_changes {n : Nat} {f : Bytes} {s : State} (h₀ : ChangesOnly parts start s)
    (h₁ : [.lnk] ⊆ parts) : ChangesOnly parts start (checkTestFlit n f s) := by
  refine h₀.step ?_ h₁
  unfold checkTestFlit
  try dsimp only
  repeat' first
    | with_reducible exact ChangesOnly.refl _ _
    | with_reducible assumption
    | decide
    | with_reducible refine ChangesOnly.modOptPort _ _ ?_ ?_
    | with_reducible refine ChangesOnly.ite_any ?_ ?_
    | split

theorem endNoSpare_changes {n : Nat} {s : State} (h₀ : ChangesOnly parts start s)
    (h₁ : [.glb, .flt, .fatal, .attic, .bel, .shapers, .gates, .swc, .rte, .lnk, .bln, .host, .inbox, .out] ⊆ parts) : ChangesOnly parts start (endNoSpare n s) := by
  refine h₀.step ?_ h₁
  unfold endNoSpare
  try dsimp only
  repeat' first
    | with_reducible exact ChangesOnly.refl _ _
    | with_reducible assumption
    | decide
    | with_reducible refine ChangesOnly.modOptPort _ _ ?_ ?_
    | with_reducible refine signal_changes ?_ ?_
    | with_reducible refine recordFault_changes ?_ ?_
    | with_reducible refine sendNak_changes ?_ ?_
    | with_reducible refine goDown_changes ?_ ?_
    | with_reducible refine sendLink_changes ?_ ?_
    | with_reducible refine startSparing_changes ?_ ?_
    | with_reducible refine ChangesOnly.ite_any ?_ ?_
    | split

theorem endSparing_changes {n ph : Nat} {s : State} (h₀ : ChangesOnly parts start s)
    (h₁ : [.glb, .flt, .fatal, .attic, .bel, .swc, .lnk, .bln, .host, .out] ⊆ parts) : ChangesOnly parts start (endSparing n ph s) := by
  refine h₀.step ?_ h₁
  unfold endSparing
  try dsimp only
  repeat' first
    | with_reducible exact ChangesOnly.refl _ _
    | with_reducible assumption
    | decide
    | with_reducible refine ChangesOnly.modOptPort _ _ ?_ ?_
    | with_reducible refine signal_changes ?_ ?_
    | with_reducible refine recordFault_changes ?_ ?_
    | with_reducible refine State.modLane_changes ?_ ?_
    | with_reducible refine sendNak_changes ?_ ?_
    | with_reducible refine sendLink_changes ?_ ?_
    | with_reducible refine startSparing_changes ?_ ?_
    | with_reducible refine ChangesOnly.ite_any ?_ ?_
    | split

theorem takeLink_changes {n : Nat} {rxOk : Bool} {op lane : Nat} {s : State} (h₀ : ChangesOnly parts start s)
    (h₁ : [.glb, .flt, .fatal, .attic, .bel, .shapers, .gates, .swc, .rte, .lnk, .bln, .host, .inbox, .out] ⊆ parts) : ChangesOnly parts start (takeLink n rxOk op lane s) := by
  refine h₀.step ?_ h₁
  unfold takeLink
  try dsimp only
  repeat' first
    | with_reducible exact ChangesOnly.refl _ _
    | with_reducible assumption
    | decide
    | with_reducible refine ChangesOnly.modOptPort _ _ ?_ ?_
    | with_reducible refine request_changes ?_ ?_
    | with_reducible refine endNoSpare_changes ?_ ?_
    | with_reducible refine ChangesOnly.ite_any ?_ ?_
    | split

theorem slotReceive_changes {n : Nat} {r : RxSlot} {s : State} (h₀ : ChangesOnly parts start s)
    (h₁ : [.glb, .flt, .fatal, .attic, .bel, .shapers, .gates, .swc, .rte, .lnk, .bln, .host, .inbox, .out] ⊆ parts) : ChangesOnly parts start (slotReceive n r s) := by
  refine h₀.step ?_ h₁
  unfold slotReceive
  try dsimp only
  repeat' first
    | with_reducible exact ChangesOnly.refl _ _
    | with_reducible assumption
    | decide
    | with_reducible refine ChangesOnly.modOptPort _ _ ?_ ?_
    | with_reducible refine failFlit_changes ?_ ?_
    | with_reducible refine settleCore_changes ?_ ?_
    | with_reducible refine receiveFlit_changes ?_ ?_ (fun _ _ _ => ?_)
    | with_reducible refine replayDown_changes ?_ ?_
    | with_reducible refine countCorrected_changes ?_ ?_
    | with_reducible refine checkTestFlit_changes ?_ ?_
    | with_reducible refine endSparing_changes ?_ ?_
    | with_reducible refine takeLink_changes ?_ ?_
    | with_reducible refine ChangesOnly.foldl _ ?_ (fun _ _ _ => ?_)
    | dsimp only
    | with_reducible refine ChangesOnly.ite_any ?_ ?_
    | split

theorem moveToSpare_changes {n : Nat} {s : State} (h₀ : ChangesOnly parts start s)
    (h₁ : [.lnk, .out] ⊆ parts) : ChangesOnly parts start (moveToSpare n s) := by
  refine h₀.step ?_ h₁
  unfold moveToSpare
  try dsimp only
  repeat' first
    | with_reducible exact ChangesOnly.refl _ _
    | with_reducible assumption
    | decide
    | with_reducible refine ChangesOnly.modOptPort _ _ ?_ ?_
    | with_reducible refine request_changes ?_ ?_
    | with_reducible refine State.modLane_changes ?_ ?_
    | with_reducible refine sendLink_changes ?_ ?_
    | with_reducible refine ChangesOnly.ite_any ?_ ?_
    | split

theorem laneUnusable_changes {oe l : Nat} {dark : Bool} {s : State} (h₀ : ChangesOnly parts start s)
    (h₁ : [.glb, .flt, .fatal, .attic, .bel, .shapers, .gates, .swc, .rte, .lnk, .bln, .host, .inbox, .out] ⊆ parts) : ChangesOnly parts start (laneUnusable oe l dark s) := by
  refine h₀.step ?_ h₁
  unfold laneUnusable
  try dsimp only
  repeat' first
    | with_reducible exact ChangesOnly.refl _ _
    | with_reducible assumption
    | decide
    | with_reducible refine ChangesOnly.modOptPort _ _ ?_ ?_
    | with_reducible refine ChangesOnly.modEngine _ _ ?_ ?_
    | with_reducible refine recordFault_changes ?_ ?_
    | with_reducible refine State.modLane_changes ?_ ?_
    | with_reducible refine goDown_changes ?_ ?_
    | with_reducible refine startSparing_changes ?_ ?_
    | with_reducible refine ChangesOnly.ite_any ?_ ?_
    | split

theorem sparingTimeout_changes {n : Nat} {s : State} (h₀ : ChangesOnly parts start s)
    (h₁ : [.glb, .flt, .fatal, .attic, .bel, .shapers, .gates, .swc, .rte, .lnk, .bln, .host, .inbox, .out] ⊆ parts) : ChangesOnly parts start (sparingTimeout n s) := by
  refine h₀.step ?_ h₁
  unfold sparingTimeout
  try dsimp only
  repeat' first
    | with_reducible exact ChangesOnly.refl _ _
    | with_reducible assumption
    | decide
    | with_reducible refine endNoSpare_changes ?_ ?_
    | with_reducible refine ChangesOnly.ite_any ?_ ?_
    | split

theorem portsDown_changes {oe : Nat} {s : State} (h₀ : ChangesOnly parts start s)
    (h₁ : [.glb, .flt, .fatal, .attic, .bel, .shapers, .gates, .swc, .rte, .lnk, .bln, .host, .inbox, .out] ⊆ parts) : ChangesOnly parts start (portsDown oe s) := by
  refine h₀.step ?_ h₁
  unfold portsDown
  try dsimp only
  repeat' first
    | with_reducible exact ChangesOnly.refl _ _
    | with_reducible assumption
    | decide
    | with_reducible refine goDown_changes ?_ ?_
    | with_reducible refine ChangesOnly.foldl _ ?_ (fun _ _ _ => ?_)
    | with_reducible refine ChangesOnly.ite_any ?_ ?_
    | split

theorem feedLost_changes {oe : Nat} {feedB : Bool} {s : State} (h₀ : ChangesOnly parts start s)
    (h₁ : [.glb, .flt, .fatal, .attic, .bel, .shapers, .gates, .swc, .rte, .lnk, .bln, .host, .inbox, .out] ⊆ parts) : ChangesOnly parts start (feedLost oe feedB s) := by
  refine h₀.step ?_ h₁
  unfold feedLost
  try dsimp only
  repeat' first
    | with_reducible exact ChangesOnly.refl _ _
    | with_reducible assumption
    | decide
    | with_reducible refine ChangesOnly.modEngine _ _ ?_ ?_
    | with_reducible refine signal_changes ?_ ?_
    | with_reducible refine recordFault_changes ?_ ?_
    | with_reducible refine portsDown_changes ?_ ?_
    | with_reducible refine ChangesOnly.ite_any ?_ ?_
    | split

theorem feedRestored_changes {oe : Nat} {feedB : Bool} {s : State} (h₀ : ChangesOnly parts start s)
    (h₁ : [.lnk, .host, .out] ⊆ parts) : ChangesOnly parts start (feedRestored oe feedB s) := by
  refine h₀.step ?_ h₁
  unfold feedRestored
  try dsimp only
  repeat' first
    | with_reducible exact ChangesOnly.refl _ _
    | with_reducible assumption
    | decide
    | with_reducible refine ChangesOnly.modEngine _ _ ?_ ?_
    | with_reducible refine signal_changes ?_ ?_
    | with_reducible refine ChangesOnly.ite_any ?_ ?_
    | split

theorem fenceEngine_changes {oe : Nat} {s : State} (h₀ : ChangesOnly parts start s)
    (h₁ : [.glb, .flt, .fatal, .attic, .bel, .shapers, .gates, .swc, .rte, .lnk, .bln, .host, .inbox, .out] ⊆ parts) : ChangesOnly parts start (fenceEngine oe s) := by
  refine h₀.step ?_ h₁
  unfold fenceEngine
  try dsimp only
  repeat' first
    | with_reducible exact ChangesOnly.refl _ _
    | with_reducible assumption
    | decide
    | with_reducible refine ChangesOnly.modEngine _ _ ?_ ?_
    | with_reducible refine updateLost_changes ?_ ?_
    | with_reducible refine portsDown_changes ?_ ?_

theorem engineFault_changes {oe : Nat} {s : State} (h₀ : ChangesOnly parts start s)
    (h₁ : [.glb, .flt, .fatal, .attic, .bel, .shapers, .gates, .swc, .rte, .lnk, .bln, .host, .inbox, .out] ⊆ parts) : ChangesOnly parts start (engineFault oe s) := by
  refine h₀.step ?_ h₁
  unfold engineFault
  try dsimp only
  repeat' first
    | with_reducible exact ChangesOnly.refl _ _
    | with_reducible assumption
    | decide
    | with_reducible refine recordFault_changes ?_ ?_
    | with_reducible refine fenceEngine_changes ?_ ?_
    | with_reducible refine ChangesOnly.ite_any ?_ ?_
    | split

theorem portTestMode_changes {n mode : Nat} {s : State} (h₀ : ChangesOnly parts start s)
    (h₁ : [.glb, .flt, .fatal, .attic, .bel, .shapers, .gates, .swc, .rte, .lnk, .bln, .host, .inbox, .out] ⊆ parts) : ChangesOnly parts start (portTestMode n mode s) := by
  refine h₀.step ?_ h₁
  unfold portTestMode
  try dsimp only
  repeat' first
    | with_reducible exact ChangesOnly.refl _ _
    | with_reducible assumption
    | decide
    | with_reducible refine ChangesOnly.modOptPort _ _ ?_ ?_
    | with_reducible refine goDown_changes ?_ ?_
    | with_reducible refine ChangesOnly.ite_any ?_ ?_
    | split

theorem injectBurst_changes {n b : Nat} {s : State} (h₀ : ChangesOnly parts start s)
    (h₁ : [.swc] ⊆ parts) : ChangesOnly parts start (injectBurst n b s) := by
  refine h₀.step ?_ h₁
  unfold injectBurst
  try dsimp only
  repeat' first
    | with_reducible exact ChangesOnly.refl _ _
    | with_reducible assumption
    | decide
    | with_reducible refine ChangesOnly.modLink _ _ ?_ ?_
    | with_reducible refine ChangesOnly.ite_any ?_ ?_
    | split

theorem injectLcrc_changes {n : Nat} {s : State} (h₀ : ChangesOnly parts start s)
    (h₁ : [.swc] ⊆ parts) : ChangesOnly parts start (injectLcrc n s) := by
  refine h₀.step ?_ h₁
  unfold injectLcrc
  try dsimp only
  repeat' first
    | with_reducible exact ChangesOnly.refl _ _
    | with_reducible assumption
    | decide
    | with_reducible refine ChangesOnly.modLink _ _ ?_ ?_
    | with_reducible refine ChangesOnly.ite_any ?_ ?_
    | split

theorem sendTestFlit_changes {n : Nat} {s : State} (h₀ : ChangesOnly parts start s)
    (h₁ : [.swc, .out] ⊆ parts) : ChangesOnly parts start (sendTestFlit n s) := by
  refine h₀.step ?_ h₁
  unfold sendTestFlit
  try dsimp only
  repeat' first
    | with_reducible exact ChangesOnly.refl _ _
    | with_reducible assumption
    | decide
    | with_reducible refine ChangesOnly.modLink _ _ ?_ ?_
    | with_reducible refine ChangesOnly.emit _ ?_ ?_
    | with_reducible refine fillSlot_changes ?_ ?_

theorem streamPort_changes {n : Nat} {s : State} (h₀ : ChangesOnly parts start s)
    (h₁ : [.swc, .out] ⊆ parts) : ChangesOnly parts start (streamPort n s) := by
  refine h₀.step ?_ h₁
  unfold streamPort
  try dsimp only
  repeat' first
    | with_reducible exact ChangesOnly.refl _ _
    | with_reducible assumption
    | decide
    | with_reducible refine sendIdle_changes ?_ ?_
    | with_reducible refine sendTestFlit_changes ?_ ?_
    | with_reducible refine ChangesOnly.foldl _ ?_ (fun _ _ _ => ?_)
    | with_reducible refine ChangesOnly.ite_any ?_ ?_
    | split

theorem streamSpare_changes {oe l : Nat} {s : State} (h₀ : ChangesOnly parts start s)
    (h₁ : [.out] ⊆ parts) : ChangesOnly parts start (streamSpare oe l s) := by
  refine h₀.step ?_ h₁
  unfold streamSpare
  try dsimp only
  repeat' first
    | with_reducible exact ChangesOnly.refl _ _
    | with_reducible assumption
    | decide
    | with_reducible refine ChangesOnly.emit _ ?_ ?_
    | with_reducible refine ChangesOnly.ite_any ?_ ?_
    | split

theorem slotTime_changes {s : State} (h₀ : ChangesOnly parts start s)
    (h₁ : [.swc, .out] ⊆ parts) : ChangesOnly parts start (slotTime s) := by
  refine h₀.step ?_ h₁
  unfold slotTime
  try dsimp only
  repeat' first
    | with_reducible exact ChangesOnly.refl _ _
    | with_reducible assumption
    | decide
    | with_reducible refine streamPort_changes ?_ ?_
    | with_reducible refine streamSpare_changes ?_ ?_
    | with_reducible refine ChangesOnly.foldl _ ?_ (fun _ _ _ => ?_)

end Sys2Proof.Machine
end

