-- ==== Sys2Proof/Laws/FrameBell.lean ====
section
/-! SUPPORT. Laws/FrameBell.lean: what the operations of the Bell and its barriers change: each adds its own parts, named in its second
hypothesis, to what a chain has changed so far. -/

set_option linter.all false
set_option maxRecDepth 8000

namespace Sys2Proof.Machine

variable {parts : List Part} {start : State}

theorem becomeReady_changes {s : State} (h₀ : ChangesOnly parts start s)
    (h₁ : [.glb, .flt, .attic] ⊆ parts) : ChangesOnly parts start (becomeReady s) := by
  refine h₀.step ?_ h₁
  unfold becomeReady
  try dsimp only
  repeat' first
    | with_reducible exact ChangesOnly.refl _ _
    | with_reducible assumption
    | decide
    | exact .inr (by decide)
    | exact .inl rfl
    | with_reducible refine ChangesOnly.modGlb _ ?_ ?_
    | with_reducible refine ChangesOnly.modAttic _ ?_ ?_
    | with_reducible refine ChangesOnly.modFlt _ ?_ ?_ ?_
    | with_reducible refine ChangesOnly.ite_any ?_ ?_
    | split
    | (left; (try dsimp only); (repeat' split) <;> rfl)

theorem setBellState_changes {st : BellState} {s : State} (h₀ : ChangesOnly parts start s)
    (h₁ : [.glb, .flt, .attic, .bel, .host, .out] ⊆ parts) : ChangesOnly parts start (setBellState st s) := by
  refine h₀.step ?_ h₁
  unfold setBellState
  try dsimp only
  repeat' first
    | with_reducible exact ChangesOnly.refl _ _
    | with_reducible assumption
    | decide
    | exact .inr (by decide)
    | exact .inl rfl
    | with_reducible refine ChangesOnly.modBel _ ?_ ?_ ?_
    | with_reducible refine signal_changes ?_ ?_
    | with_reducible refine becomeReady_changes ?_ ?_
    | with_reducible refine ChangesOnly.ite_any ?_ ?_
    | split
    | (left; (try dsimp only); (repeat' split) <;> rfl)

theorem noteFrame_changes {b : Nat} {s : State} (h₀ : ChangesOnly parts start s)
    (h₁ : [.bel] ⊆ parts) : ChangesOnly parts start (noteFrame b s) := by
  refine h₀.step ?_ h₁
  unfold noteFrame
  try dsimp only
  repeat' first
    | with_reducible exact ChangesOnly.refl _ _
    | with_reducible assumption
    | decide
    | exact .inr (by decide)
    | exact .inl rfl
    | with_reducible refine ChangesOnly.modBel _ ?_ ?_ ?_
    | with_reducible refine ChangesOnly.modBellPort _ _ ?_ ?_

theorem badFrame_changes {b : Nat} {c : FrameCheck} {s : State} (h₀ : ChangesOnly parts start s)
    (h₁ : [.bel, .bln] ⊆ parts) : ChangesOnly parts start (badFrame b c s) := by
  refine h₀.step ?_ h₁
  unfold badFrame
  try dsimp only
  repeat' first
    | with_reducible exact ChangesOnly.refl _ _
    | with_reducible assumption
    | decide
    | exact .inr (by decide)
    | exact .inl rfl
    | with_reducible refine ChangesOnly.modBel _ ?_ ?_ ?_
    | with_reducible refine ChangesOnly.modBellPort _ _ ?_ ?_
    | with_reducible refine ChangesOnly.modBln _ _ ?_ ?_
    | split
    | (left; (try dsimp only); (repeat' split) <;> rfl)

theorem sendMarks_changes {m : Nat} {corr : Int} {kexp : Nat} {good : Bool} {s : State} (h₀ : ChangesOnly parts start s)
    (h₁ : [.bel, .bln, .out] ⊆ parts) : ChangesOnly parts start (sendMarks m corr kexp good s) := by
  refine h₀.step ?_ h₁
  unfold sendMarks
  try dsimp only
  repeat' first
    | with_reducible exact ChangesOnly.refl _ _
    | with_reducible assumption
    | decide
    | with_reducible refine bellSend_changes ?_ ?_
    | with_reducible refine ChangesOnly.foldl _ ?_ (fun _ _ _ => ?_)

theorem adoptK_changes {k : Nat} {s : State} (h₀ : ChangesOnly parts start s)
    (h₁ : [.glb, .flt, .fatal, .attic, .bel, .bln, .host, .out] ⊆ parts) : ChangesOnly parts start (adoptK k s) := by
  refine h₀.step ?_ h₁
  unfold adoptK
  try dsimp only
  repeat' first
    | with_reducible exact ChangesOnly.refl _ _
    | with_reducible assumption
    | decide
    | exact .inr (by decide)
    | exact .inl rfl
    | with_reducible refine ChangesOnly.modBel _ ?_ ?_ ?_
    | with_reducible refine recordFault_changes ?_ ?_
    | with_reducible refine ChangesOnly.ite_any ?_ ?_
    | split
    | (left; (try dsimp only); (repeat' split) <;> rfl)

theorem enterHoldover_changes {s : State} (h₀ : ChangesOnly parts start s)
    (h₁ : [.glb, .flt, .fatal, .attic, .bel, .bln, .host, .out] ⊆ parts) : ChangesOnly parts start (enterHoldover s) := by
  refine h₀.step ?_ h₁
  unfold enterHoldover
  try dsimp only
  repeat' first
    | with_reducible exact ChangesOnly.refl _ _
    | with_reducible assumption
    | decide
    | exact .inr (by decide)
    | exact .inl rfl
    | with_reducible refine ChangesOnly.modBel _ ?_ ?_ ?_
    | with_reducible refine recordFault_changes ?_ ?_
    | with_reducible refine setBellState_changes ?_ ?_
    | with_reducible refine ChangesOnly.ite_any ?_ ?_
    | split
    | (left; (try dsimp only); (repeat' split) <;> rfl)

theorem loadGt_changes {expected : Int} {stamp : Nat} {s : State} (h₀ : ChangesOnly parts start s)
    (h₁ : [.bel, .gt, .clock] ⊆ parts) : ChangesOnly parts start (loadGt expected stamp s) := by
  refine h₀.step ?_ h₁
  unfold loadGt
  try dsimp only
  repeat' first
    | with_reducible exact ChangesOnly.refl _ _
    | with_reducible assumption
    | decide
    | with_reducible refine ChangesOnly.set_clock _ ?_ ?_
    | (intro p hp; cases p <;> first | with_reducible rfl | exact absurd (by decide) hp)

theorem servo_changes {off expected : Int} {stamp : Nat} {locked : Bool} {s : State} (h₀ : ChangesOnly parts start s)
    (h₁ : [.glb, .flt, .fatal, .attic, .bel, .gt, .clock, .bln, .host, .out] ⊆ parts) : ChangesOnly parts start (servo off expected stamp locked s) := by
  refine h₀.step ?_ h₁
  clear h₀ h₁
  let P : List Part := [.glb, .flt, .fatal, .attic, .bel, .gt, .clock, .bln, .host, .out]
  have hb : ∀ {x t}, ChangesOnly P s t → ChangesOnly P s (setBellState x t) := fun h => setBellState_changes h (by decide)
  have tail : ∀ {t}, ChangesOnly P s t →
      ChangesOnly P s (if t.bel.state = .acquire && 16 ≤ t.bel.inTol && locked then setBellState .locked t else t) :=
    fun h => ChangesOnly.ite_any (hb h) h
  unfold servo
  refine ChangesOnly.ite_any (hb ((loadGt_changes (ChangesOnly.refl _ _) (by decide)).modBel _ (by decide) (.inl rfl))) (tail ?_)
  refine ChangesOnly.modBel _ ?_ (by decide) (.inl rfl)
  have h1 : ChangesOnly P s { s with clock := { s.clock with slew := off * 1024 } } := (ChangesOnly.refl _ _).set_clock _ (by decide)
  refine ChangesOnly.ite_any (hb (recordFault_changes ?_ (by decide))) ?_ <;> exact ChangesOnly.ite_any (hb h1) h1

theorem followMark_changes {b : Nat} {f : MarkFrame} {stamp : Nat} {relay : Bool} {s : State} (h₀ : ChangesOnly parts start s)
    (h₁ : [.glb, .flt, .fatal, .attic, .bel, .gt, .clock, .bln, .host, .out] ⊆ parts) : ChangesOnly parts start (followMark b f stamp relay s) := by
  refine h₀.step ?_ h₁
  unfold followMark
  try dsimp only
  repeat' first
    | with_reducible exact ChangesOnly.refl _ _
    | with_reducible assumption
    | decide
    | exact .inr (by decide)
    | exact .inl rfl
    | with_reducible refine ChangesOnly.modBel _ ?_ ?_ ?_
    | with_reducible refine flushFaults_changes ?_ ?_
    | with_reducible refine sendMarks_changes ?_ ?_
    | with_reducible refine adoptK_changes ?_ ?_
    | with_reducible refine servo_changes ?_ ?_
    | with_reducible refine ChangesOnly.ite_any ?_ ?_
    | split
    | (left; (try dsimp only); (repeat' split) <;> rfl)

theorem flushLanes_changes {s : State} (h₀ : ChangesOnly parts start s)
    (h₁ : [.bel, .bln, .out] ⊆ parts) : ChangesOnly parts start (flushLanes s) := by
  refine h₀.step ?_ h₁
  unfold flushLanes
  try dsimp only
  repeat' first
    | with_reducible exact ChangesOnly.refl _ _
    | with_reducible assumption
    | decide
    | with_reducible refine flushLane_changes ?_ ?_
    | with_reducible refine ChangesOnly.foldl _ ?_ (fun _ _ _ => ?_)
    | with_reducible refine ChangesOnly.ite_any ?_ ?_
    | split

theorem missMark_changes {m : Nat} {s : State} (h₀ : ChangesOnly parts start s)
    (h₁ : [.glb, .flt, .fatal, .attic, .bel, .gt, .clock, .bln, .host, .out] ⊆ parts) : ChangesOnly parts start (missMark m s) := by
  refine h₀.step ?_ h₁
  unfold missMark
  try dsimp only
  repeat' first
    | with_reducible exact ChangesOnly.refl _ _
    | with_reducible assumption
    | decide
    | exact .inr (by decide)
    | exact .inl rfl
    | with_reducible refine ChangesOnly.modBel _ ?_ ?_ ?_
    | with_reducible refine enterHoldover_changes ?_ ?_
    | with_reducible refine followMark_changes ?_ ?_
    | with_reducible refine flushLanes_changes ?_ ?_
    | with_reducible refine ChangesOnly.ite_any ?_ ?_
    | split
    | (left; (try dsimp only); (repeat' split) <;> rfl)

theorem adoptEpoch_changes {e : BitVec 8} {s : State} (h₀ : ChangesOnly parts start s)
    (h₁ : [.glb, .flt, .attic, .bel, .host, .out] ⊆ parts) : ChangesOnly parts start (adoptEpoch e s) := by
  refine h₀.step ?_ h₁
  unfold adoptEpoch
  try dsimp only
  repeat' first
    | with_reducible exact ChangesOnly.refl _ _
    | with_reducible assumption
    | decide
    | exact .inr (by decide)
    | exact .inl rfl
    | with_reducible refine ChangesOnly.modBel _ ?_ ?_ ?_
    | with_reducible refine setBellState_changes ?_ ?_
    | with_reducible refine ChangesOnly.ite_any ?_ ?_
    | split
    | (left; (try dsimp only); (repeat' split) <;> rfl)

theorem tallyMark_changes {b : Nat} {s : State} (h₀ : ChangesOnly parts start s)
    (h₁ : [.bel] ⊆ parts) : ChangesOnly parts start (tallyMark b s) := by
  refine h₀.step ?_ h₁
  unfold tallyMark
  try dsimp only
  repeat' first
    | with_reducible exact ChangesOnly.refl _ _
    | with_reducible assumption
    | decide
    | exact .inr (by decide)
    | exact .inl rfl
    | with_reducible refine ChangesOnly.modBel _ ?_ ?_ ?_
    | with_reducible refine ChangesOnly.modBellPort _ _ ?_ ?_

theorem noteMark_changes {b : Nat} {f : MarkFrame} {stamp : Nat} {s : State} (h₀ : ChangesOnly parts start s)
    (h₁ : [.bel] ⊆ parts) : ChangesOnly parts start (noteMark b f stamp s) := by
  refine h₀.step ?_ h₁
  unfold noteMark
  try dsimp only
  repeat' first
    | with_reducible exact ChangesOnly.refl _ _
    | with_reducible assumption
    | decide
    | dsimp only
    | exact .inr (by decide)
    | exact .inl rfl
    | with_reducible refine ChangesOnly.modBel _ ?_ ?_ ?_
    | with_reducible refine ChangesOnly.modBellPort _ _ ?_ ?_
    | with_reducible refine ChangesOnly.ite_any ?_ ?_
    | with_reducible refine ChangesOnly.ite_snd ?_ ?_
    | split
    | (rename _ = (_, _) => hq; have e := congrArg Prod.snd hq; dsimp only at e; subst e; clear hq)
    | (left; (try dsimp only); (repeat' split) <;> rfl)

theorem collectMark_changes {b : Nat} {f : MarkFrame} {stamp : Nat} {s : State} (h₀ : ChangesOnly parts start s)
    (h₁ : [.bel] ⊆ parts) : ChangesOnly parts start (collectMark b f stamp s) := by
  refine h₀.step ?_ h₁
  unfold collectMark
  try dsimp only
  repeat' first
    | with_reducible exact ChangesOnly.refl _ _
    | with_reducible assumption
    | decide
    | dsimp only
    | exact .inr (by decide)
    | exact .inl rfl
    | with_reducible refine ChangesOnly.modBel _ ?_ ?_ ?_
    | with_reducible refine ChangesOnly.ite_any ?_ ?_
    | with_reducible refine ChangesOnly.ite_snd ?_ ?_
    | split
    | (rename _ = (_, _) => hq; have e := congrArg Prod.snd hq; dsimp only at e; subst e; clear hq)
    | (left; (try dsimp only); (repeat' split) <;> rfl)

theorem rootMark_changes {m : Nat} {s : State} (h₀ : ChangesOnly parts start s)
    (h₁ : [.glb, .flt, .attic, .bel, .bln, .host, .out] ⊆ parts) : ChangesOnly parts start (rootMark m s) := by
  refine h₀.step ?_ h₁
  unfold rootMark
  try dsimp only
  repeat' first
    | with_reducible exact ChangesOnly.refl _ _
    | with_reducible assumption
    | decide
    | exact .inr (by decide)
    | exact .inl rfl
    | with_reducible refine ChangesOnly.modBel _ ?_ ?_ ?_
    | with_reducible refine flushFaults_changes ?_ ?_
    | with_reducible refine setBellState_changes ?_ ?_
    | with_reducible refine sendMarks_changes ?_ ?_

theorem bellMarkSend_changes {s : State} (h₀ : ChangesOnly parts start s)
    (h₁ : [.glb, .flt, .attic, .bel, .gt, .clock, .shapers, .bln, .thm, .host, .out] ⊆ parts) : ChangesOnly parts start (bellMarkSend s) := by
  refine h₀.step ?_ h₁
  unfold bellMarkSend
  try dsimp only
  repeat' first
    | with_reducible exact ChangesOnly.refl _ _
    | with_reducible assumption
    | decide
    | with_reducible refine advanceTo_changes ?_ ?_
    | with_reducible refine rootMark_changes ?_ ?_
    | with_reducible refine ChangesOnly.ite_any ?_ ?_
    | split

theorem standbyTakeover_changes {s : State} (h₀ : ChangesOnly parts start s)
    (h₁ : [.glb, .flt, .fatal, .attic, .bel, .gt, .clock, .shapers, .bln, .thm, .host, .out] ⊆ parts) : ChangesOnly parts start (standbyTakeover s) := by
  refine h₀.step ?_ h₁
  unfold standbyTakeover
  try dsimp only
  repeat' first
    | with_reducible exact ChangesOnly.refl _ _
    | with_reducible assumption
    | decide
    | exact .inr (by decide)
    | exact .inl rfl
    | with_reducible refine ChangesOnly.modBel _ ?_ ?_ ?_
    | with_reducible refine ChangesOnly.emit _ ?_ ?_
    | with_reducible refine advanceTo_changes ?_ ?_
    | with_reducible refine signal_changes ?_ ?_
    | with_reducible refine recordFault_changes ?_ ?_
    | with_reducible refine rootMark_changes ?_ ?_
    | with_reducible refine ChangesOnly.ite_any ?_ ?_
    | split
    | (left; (try dsimp only); (repeat' split) <;> rfl)

theorem probeSend_changes {b : Nat} {s : State} (h₀ : ChangesOnly parts start s)
    (h₁ : [.glb, .bel, .gt, .clock, .shapers, .bln, .thm, .out] ⊆ parts) : ChangesOnly parts start (probeSend b s) := by
  refine h₀.step ?_ h₁
  unfold probeSend
  try dsimp only
  repeat' first
    | with_reducible exact ChangesOnly.refl _ _
    | with_reducible assumption
    | decide
    | exact .inr (by decide)
    | exact .inl rfl
    | with_reducible refine ChangesOnly.modBel _ ?_ ?_ ?_
    | with_reducible refine ChangesOnly.modBellPort _ _ ?_ ?_
    | with_reducible refine advanceTo_changes ?_ ?_
    | with_reducible refine bellSend_changes ?_ ?_
    | with_reducible refine ChangesOnly.ite_any ?_ ?_
    | split
    | (left; (try dsimp only); (repeat' split) <;> rfl)

theorem probe_changes {b seq : Nat} {chk : FrameCheck} {residence : Nat} {s : State} (h₀ : ChangesOnly parts start s)
    (h₁ : [.bel, .bln, .out] ⊆ parts) : ChangesOnly parts start (probe b seq chk residence s) := by
  refine h₀.step ?_ h₁
  unfold probe
  try dsimp only
  repeat' first
    | with_reducible exact ChangesOnly.refl _ _
    | with_reducible assumption
    | decide
    | with_reducible refine bellSend_changes ?_ ?_
    | with_reducible refine noteFrame_changes ?_ ?_
    | with_reducible refine badFrame_changes ?_ ?_
    | with_reducible refine ChangesOnly.ite_any ?_ ?_
    | split

theorem echo_changes {b seq residence : Nat} {chk : FrameCheck} {stamp : Nat} {s : State} (h₀ : ChangesOnly parts start s)
    (h₁ : [.glb, .bel, .gt, .clock, .shapers, .bln, .thm] ⊆ parts) : ChangesOnly parts start (echo b seq residence chk stamp s) := by
  refine h₀.step ?_ h₁
  unfold echo
  try dsimp only
  repeat' first
    | with_reducible exact ChangesOnly.refl _ _
    | with_reducible assumption
    | decide
    | exact .inr (by decide)
    | exact .inl rfl
    | with_reducible refine ChangesOnly.modBel _ ?_ ?_ ?_
    | with_reducible refine ChangesOnly.modBellPort _ _ ?_ ?_
    | with_reducible refine advanceTo_changes ?_ ?_
    | with_reducible refine noteFrame_changes ?_ ?_
    | with_reducible refine badFrame_changes ?_ ?_
    | with_reducible refine ChangesOnly.ite_any ?_ ?_
    | split
    | (left; (try dsimp only); (repeat' split) <;> rfl)

theorem relayRelease_changes {fr : ReleaseFrame} {s : State} (h₀ : ChangesOnly parts start s)
    (h₁ : [.bel, .bln, .out] ⊆ parts) : ChangesOnly parts start (relayRelease fr s) := by
  refine h₀.step ?_ h₁
  unfold relayRelease
  try dsimp only
  repeat' first
    | with_reducible exact ChangesOnly.refl _ _
    | with_reducible assumption
    | decide
    | with_reducible refine bellSend_changes ?_ ?_
    | with_reducible refine ChangesOnly.foldl _ ?_ (fun _ _ _ => ?_)

theorem endProgram_changes {k : Nat} {s : State} (h₀ : ChangesOnly parts start s)
    (h₁ : [.crf] ⊆ parts) : ChangesOnly parts start (endProgram k s) := by
  refine h₀.step ?_ h₁
  unfold endProgram
  try dsimp only
  repeat' first
    | with_reducible exact ChangesOnly.refl _ _
    | with_reducible assumption
    | decide
    | with_reducible refine ChangesOnly.modCroft _ _ ?_ ?_

theorem raiseFlag_changes {k i n : Nat} {s : State} (h₀ : ChangesOnly parts start s)
    (h₁ : [.crf] ⊆ parts) : ChangesOnly parts start (raiseFlag k i n s) := by
  refine h₀.step ?_ h₁
  unfold raiseFlag
  try dsimp only
  repeat' first
    | with_reducible exact ChangesOnly.refl _ _
    | with_reducible assumption
    | decide
    | with_reducible refine ChangesOnly.modCroft _ _ ?_ ?_

theorem releaseParticipants_changes {f status : Nat} {s : State} (h₀ : ChangesOnly parts start s)
    (h₁ : [.bel, .crf] ⊆ parts) : ChangesOnly parts start (releaseParticipants f status s) := by
  refine h₀.step ?_ h₁
  unfold releaseParticipants
  try dsimp only
  repeat' first
    | with_reducible exact ChangesOnly.refl _ _
    | with_reducible assumption
    | decide
    | with_reducible refine ChangesOnly.modBarrier _ _ ?_ ?_
    | with_reducible refine endProgram_changes ?_ ?_
    | with_reducible refine raiseFlag_changes ?_ ?_
    | with_reducible refine ChangesOnly.foldl _ ?_ (fun _ _ _ => ?_)
    | with_reducible refine ChangesOnly.ite_any ?_ ?_
    | split

theorem takeRelease_changes {fr : ReleaseFrame} {s : State} (h₀ : ChangesOnly parts start s)
    (h₁ : [.glb, .flt, .fatal, .attic, .bel, .crf, .bln, .host, .out] ⊆ parts) : ChangesOnly parts start (takeRelease fr s) := by
  refine h₀.step ?_ h₁
  unfold takeRelease
  try dsimp only
  repeat' first
    | with_reducible exact ChangesOnly.refl _ _
    | with_reducible assumption
    | decide
    | exact .inr (by decide)
    | exact .inl rfl
    | with_reducible refine ChangesOnly.modBel _ ?_ ?_ ?_
    | with_reducible refine ChangesOnly.modBarrier _ _ ?_ ?_
    | with_reducible refine recordFault_changes ?_ ?_
    | with_reducible refine releaseParticipants_changes ?_ ?_
    | with_reducible refine ChangesOnly.ite_any ?_ ?_
    | split
    | (left; (try dsimp only); (repeat' split) <;> rfl)

theorem sendRelease_changes {f status gt : Nat} {s : State} (h₀ : ChangesOnly parts start s)
    (h₁ : [.glb, .flt, .fatal, .attic, .bel, .crf, .bln, .host, .out] ⊆ parts) : ChangesOnly parts start (sendRelease f status gt s) := by
  refine h₀.step ?_ h₁
  unfold sendRelease
  try dsimp only
  repeat' first
    | with_reducible exact ChangesOnly.refl _ _
    | with_reducible assumption
    | decide
    | with_reducible refine relayRelease_changes ?_ ?_
    | with_reducible refine takeRelease_changes ?_ ?_

theorem sendArrive_changes {f : Nat} {s : State} (h₀ : ChangesOnly parts start s)
    (h₁ : [.bel, .bln, .out] ⊆ parts) : ChangesOnly parts start (sendArrive f s) := by
  refine h₀.step ?_ h₁
  unfold sendArrive
  try dsimp only
  repeat' first
    | with_reducible exact ChangesOnly.refl _ _
    | with_reducible assumption
    | decide
    | with_reducible refine ChangesOnly.modBarrier _ _ ?_ ?_
    | with_reducible refine bellSend_changes ?_ ?_
    | with_reducible refine ChangesOnly.ite_any ?_ ?_
    | split

theorem tryArrive_changes {f : Nat} {s : State} (h₀ : ChangesOnly parts start s)
    (h₁ : [.glb, .flt, .fatal, .attic, .bel, .crf, .bln, .host, .out] ⊆ parts) : ChangesOnly parts start (tryArrive f s) := by
  refine h₀.step ?_ h₁
  unfold tryArrive
  try dsimp only
  repeat' first
    | with_reducible exact ChangesOnly.refl _ _
    | with_reducible assumption
    | decide
    | with_reducible refine sendRelease_changes ?_ ?_
    | with_reducible refine sendArrive_changes ?_ ?_
    | with_reducible refine ChangesOnly.ite_any ?_ ?_
    | split

theorem barrierArrive_changes {f k flag : Nat} {s : State} (h₀ : ChangesOnly parts start s)
    (h₁ : [.glb, .flt, .fatal, .attic, .bel, .crf, .bln, .host, .out] ⊆ parts) : ChangesOnly parts start (barrierArrive f k flag s) := by
  refine h₀.step ?_ h₁
  unfold barrierArrive
  try dsimp only
  repeat' first
    | with_reducible exact ChangesOnly.refl _ _
    | with_reducible assumption
    | decide
    | with_reducible refine ChangesOnly.modBarrier _ _ ?_ ?_
    | with_reducible refine tryArrive_changes ?_ ?_
    | with_reducible refine ChangesOnly.ite_any ?_ ?_
    | split

theorem noteArrive_changes {b : Nat} {f : ArriveFrame} {s : State} (h₀ : ChangesOnly parts start s)
    (h₁ : [.bel] ⊆ parts) : ChangesOnly parts start (noteArrive b f s) := by
  refine h₀.step ?_ h₁
  unfold noteArrive
  try dsimp only
  repeat' first
    | with_reducible exact ChangesOnly.refl _ _
    | with_reducible assumption
    | decide
    | with_reducible refine ChangesOnly.modBarrier _ _ ?_ ?_
    | with_reducible refine ChangesOnly.ite_any ?_ ?_
    | split

theorem arrive_changes {b : Nat} {f : ArriveFrame} {chk : FrameCheck} {s : State} (h₀ : ChangesOnly parts start s)
    (h₁ : [.glb, .flt, .fatal, .attic, .bel, .crf, .bln, .host, .out] ⊆ parts) : ChangesOnly parts start (arrive b f chk s) := by
  refine h₀.step ?_ h₁
  unfold arrive
  try dsimp only
  repeat' first
    | with_reducible exact ChangesOnly.refl _ _
    | with_reducible assumption
    | decide
    | with_reducible refine noteFrame_changes ?_ ?_
    | with_reducible refine badFrame_changes ?_ ?_
    | with_reducible refine tryArrive_changes ?_ ?_
    | with_reducible refine noteArrive_changes ?_ ?_
    | with_reducible refine ChangesOnly.ite_any ?_ ?_
    | split

theorem tryBarriers_changes {s : State} (h₀ : ChangesOnly parts start s)
    (h₁ : [.bel, .bln, .out] ⊆ parts) : ChangesOnly parts start (tryBarriers s) := by
  refine h₀.step ?_ h₁
  unfold tryBarriers
  try dsimp only
  repeat' first
    | with_reducible exact ChangesOnly.refl _ _
    | with_reducible assumption
    | decide
    | with_reducible refine sendArrive_changes ?_ ?_
    | with_reducible refine ChangesOnly.foldl _ ?_ (fun _ _ _ => ?_)
    | with_reducible refine ChangesOnly.ite_any ?_ ?_
    | split

theorem releaseFrame_changes {b : Nat} {f : ReleaseFrame} {chk : FrameCheck} {s : State} (h₀ : ChangesOnly parts start s)
    (h₁ : [.glb, .flt, .fatal, .attic, .bel, .crf, .bln, .host, .out] ⊆ parts) : ChangesOnly parts start (releaseFrame b f chk s) := by
  refine h₀.step ?_ h₁
  unfold releaseFrame
  try dsimp only
  repeat' first
    | with_reducible exact ChangesOnly.refl _ _
    | with_reducible assumption
    | decide
    | with_reducible refine noteFrame_changes ?_ ?_
    | with_reducible refine badFrame_changes ?_ ?_
    | with_reducible refine relayRelease_changes ?_ ?_
    | with_reducible refine takeRelease_changes ?_ ?_
    | with_reducible refine tryArrive_changes ?_ ?_
    | with_reducible refine ChangesOnly.ite_any ?_ ?_
    | split

theorem barrierRelease_changes {f : Nat} {s : State} (h₀ : ChangesOnly parts start s)
    (h₁ : [.glb, .flt, .fatal, .attic, .bel, .gt, .clock, .shapers, .crf, .bln, .thm, .host, .out] ⊆ parts) : ChangesOnly parts start (barrierRelease f s) := by
  refine h₀.step ?_ h₁
  unfold barrierRelease
  try dsimp only
  repeat' first
    | with_reducible exact ChangesOnly.refl _ _
    | with_reducible assumption
    | decide
    | with_reducible refine advanceTo_changes ?_ ?_
    | with_reducible refine releaseParticipants_changes ?_ ?_
    | with_reducible refine tryArrive_changes ?_ ?_
    | with_reducible refine ChangesOnly.ite_any ?_ ?_
    | split

theorem barrierTimeout_changes {f : Nat} {s : State} (h₀ : ChangesOnly parts start s)
    (h₁ : [.glb, .flt, .fatal, .attic, .bel, .gt, .clock, .shapers, .crf, .bln, .thm, .host, .out] ⊆ parts) : ChangesOnly parts start (barrierTimeout f s) := by
  refine h₀.step ?_ h₁
  unfold barrierTimeout
  try dsimp only
  repeat' first
    | with_reducible exact ChangesOnly.refl _ _
    | with_reducible assumption
    | decide
    | with_reducible refine advanceTo_changes ?_ ?_
    | with_reducible refine recordFault_changes ?_ ?_
    | with_reducible refine sendRelease_changes ?_ ?_
    | with_reducible refine ChangesOnly.ite_any ?_ ?_
    | split

theorem takeMark_changes {b : Nat} {f : MarkFrame} {chk : FrameCheck} {stamp : Nat} {s : State} (h₀ : ChangesOnly parts start s)
    (h₁ : [.glb, .flt, .fatal, .attic, .bel, .gt, .clock, .shapers, .bln, .thm, .host, .out] ⊆ parts) : ChangesOnly parts start (takeMark b f chk stamp s) := by
  refine h₀.step ?_ h₁
  unfold takeMark
  try dsimp only
  repeat' first
    | with_reducible exact ChangesOnly.refl _ _
    | with_reducible assumption
    | decide
    | exact .inr (by decide)
    | exact .inl rfl
    | with_reducible refine ChangesOnly.modBel _ ?_ ?_ ?_
    | with_reducible refine ChangesOnly.modBellPort _ _ ?_ ?_
    | with_reducible refine advanceTo_changes ?_ ?_
    | with_reducible refine noteFrame_changes ?_ ?_
    | with_reducible refine badFrame_changes ?_ ?_
    | with_reducible refine sendMarks_changes ?_ ?_
    | with_reducible refine followMark_changes ?_ ?_
    | with_reducible refine adoptEpoch_changes ?_ ?_
    | with_reducible refine tallyMark_changes ?_ ?_
    | with_reducible refine noteMark_changes ?_ ?_
    | with_reducible refine collectMark_changes ?_ ?_
    | with_reducible refine ChangesOnly.ite_any ?_ ?_
    | split
    | (left; (try dsimp only); (repeat' split) <;> rfl)

theorem chooseUpstream_changes {s : State} (h₀ : ChangesOnly parts start s)
    (h₁ : [.glb, .flt, .fatal, .attic, .bel, .gt, .clock, .shapers, .bln, .thm, .host, .out] ⊆ parts) : ChangesOnly parts start (chooseUpstream s) := by
  refine h₀.step ?_ h₁
  unfold chooseUpstream
  try dsimp only
  repeat' first
    | with_reducible exact ChangesOnly.refl _ _
    | with_reducible assumption
    | decide
    | exact .inr (by decide)
    | exact .inl rfl
    | with_reducible refine ChangesOnly.modBel _ ?_ ?_ ?_
    | with_reducible refine advanceTo_changes ?_ ?_
    | with_reducible refine followMark_changes ?_ ?_
    | with_reducible refine ChangesOnly.ite_any ?_ ?_
    | split
    | (left; (try dsimp only); (repeat' split) <;> rfl)

theorem passMark_changes {s : State} (h₀ : ChangesOnly parts start s)
    (h₁ : [.glb, .flt, .fatal, .attic, .bel, .gt, .clock, .shapers, .bln, .thm, .host, .out] ⊆ parts) : ChangesOnly parts start (passMark s) := by
  refine h₀.step ?_ h₁
  unfold passMark
  try dsimp only
  repeat' first
    | with_reducible exact ChangesOnly.refl _ _
    | with_reducible assumption
    | decide
    | with_reducible refine advanceTo_changes ?_ ?_
    | with_reducible refine missMark_changes ?_ ?_
    | with_reducible refine ChangesOnly.ite_any ?_ ?_
    | split

theorem mark_changes {b : Nat} {f : MarkFrame} {chk : FrameCheck} {stamp : Nat} {s : State} (h₀ : ChangesOnly parts start s)
    (h₁ : [.glb, .flt, .fatal, .attic, .bel, .gt, .clock, .shapers, .bln, .thm, .host, .out] ⊆ parts) : ChangesOnly parts start (mark b f chk stamp s) := by
  refine h₀.step ?_ h₁
  unfold mark
  try dsimp only
  repeat' first
    | with_reducible exact ChangesOnly.refl _ _
    | with_reducible assumption
    | decide
    | with_reducible refine tryBarriers_changes ?_ ?_
    | with_reducible refine takeMark_changes ?_ ?_

theorem upstreamChoice_changes {s : State} (h₀ : ChangesOnly parts start s)
    (h₁ : [.glb, .flt, .fatal, .attic, .bel, .gt, .clock, .shapers, .bln, .thm, .host, .out] ⊆ parts) : ChangesOnly parts start (upstreamChoice s) := by
  refine h₀.step ?_ h₁
  unfold upstreamChoice
  try dsimp only
  repeat' first
    | with_reducible exact ChangesOnly.refl _ _
    | with_reducible assumption
    | decide
    | with_reducible refine tryBarriers_changes ?_ ?_
    | with_reducible refine chooseUpstream_changes ?_ ?_

theorem markMissed_changes {s : State} (h₀ : ChangesOnly parts start s)
    (h₁ : [.glb, .flt, .fatal, .attic, .bel, .gt, .clock, .shapers, .bln, .thm, .host, .out] ⊆ parts) : ChangesOnly parts start (markMissed s) := by
  refine h₀.step ?_ h₁
  unfold markMissed
  try dsimp only
  repeat' first
    | with_reducible exact ChangesOnly.refl _ _
    | with_reducible assumption
    | decide
    | with_reducible refine tryBarriers_changes ?_ ?_
    | with_reducible refine passMark_changes ?_ ?_

theorem abortBarrier_changes {f : Nat} {s : State} (h₀ : ChangesOnly parts start s)
    (h₁ : [.glb, .flt, .fatal, .attic, .bel, .crf, .bln, .host, .out, .draws] ⊆ parts) : ChangesOnly parts start (abortBarrier f s) := by
  refine h₀.step ?_ h₁
  unfold abortBarrier
  try dsimp only
  repeat' first
    | with_reducible exact ChangesOnly.refl _ _
    | with_reducible assumption
    | decide
    | dsimp only
    | with_reducible refine ChangesOnly.drawn ?_ ?_
    | with_reducible refine ChangesOnly.drawnBytes _ ?_ ?_
    | with_reducible refine sendRelease_changes ?_ ?_
    | with_reducible refine ChangesOnly.ite_any ?_ ?_
    | with_reducible refine ChangesOnly.ite_snd ?_ ?_
    | split
    | (rename _ = (_, _) => hq; have e := congrArg Prod.snd hq; dsimp only at e; subst e; clear hq)

theorem faultFrame_changes {b : Nat} {f : FaultFrame} {chk : FrameCheck} {s : State} (h₀ : ChangesOnly parts start s)
    (h₁ : [.flt, .bel, .bln, .out] ⊆ parts) : ChangesOnly parts start (faultFrame b f chk s) := by
  refine h₀.step ?_ h₁
  unfold faultFrame
  try dsimp only
  repeat' first
    | with_reducible exact ChangesOnly.refl _ _
    | with_reducible assumption
    | decide
    | with_reducible refine queueFault_changes ?_ ?_
    | with_reducible refine noteFrame_changes ?_ ?_
    | with_reducible refine badFrame_changes ?_ ?_
    | with_reducible refine ChangesOnly.ite_any ?_ ?_
    | split

theorem stuckAt_changes {b : Nat} {s : State} (h₀ : ChangesOnly parts start s)
    (h₁ : [.glb, .gt, .clock, .shapers, .thm] ⊆ parts) : ChangesOnly parts start (stuckAt b s) := by
  refine h₀.step ?_ h₁
  unfold stuckAt
  try dsimp only
  repeat' first
    | with_reducible exact ChangesOnly.refl _ _
    | with_reducible assumption
    | decide
    | with_reducible refine advanceTo_changes ?_ ?_
    | with_reducible refine ChangesOnly.ite_any ?_ ?_
    | split

theorem bellPortStuck_changes {b : Nat} {s : State} (h₀ : ChangesOnly parts start s)
    (h₁ : [.glb, .flt, .fatal, .attic, .bel, .gt, .clock, .shapers, .bln, .thm, .host, .out] ⊆ parts) : ChangesOnly parts start (bellPortStuck b s) := by
  refine h₀.step ?_ h₁
  unfold bellPortStuck
  try dsimp only
  repeat' first
    | with_reducible exact ChangesOnly.refl _ _
    | with_reducible assumption
    | decide
    | exact .inr (by decide)
    | exact .inl rfl
    | with_reducible refine ChangesOnly.modBel _ ?_ ?_ ?_
    | with_reducible refine signal_changes ?_ ?_
    | with_reducible refine recordFault_changes ?_ ?_
    | with_reducible refine enterHoldover_changes ?_ ?_
    | with_reducible refine stuckAt_changes ?_ ?_
    | with_reducible refine ChangesOnly.ite_any ?_ ?_
    | split
    | (left; (try dsimp only); (repeat' split) <;> rfl)

theorem retrainBell_changes {b : Nat} {s : State} (h₀ : ChangesOnly parts start s)
    (h₁ : [.bel, .bln] ⊆ parts) : ChangesOnly parts start (retrainBell b s) := by
  refine h₀.step ?_ h₁
  unfold retrainBell
  try dsimp only
  repeat' first
    | with_reducible exact ChangesOnly.refl _ _
    | with_reducible assumption
    | decide
    | exact .inr (by decide)
    | exact .inl rfl
    | with_reducible refine ChangesOnly.modBel _ ?_ ?_ ?_
    | with_reducible refine ChangesOnly.modBellPort _ _ ?_ ?_
    | with_reducible refine ChangesOnly.modBln _ _ ?_ ?_

theorem bellPortUnfence_changes {b : Nat} {s : State} (h₀ : ChangesOnly parts start s)
    (h₁ : [.bel, .bln, .host, .out] ⊆ parts) : ChangesOnly parts start (bellPortUnfence b s) := by
  refine h₀.step ?_ h₁
  unfold bellPortUnfence
  try dsimp only
  repeat' first
    | with_reducible exact ChangesOnly.refl _ _
    | with_reducible assumption
    | decide
    | exact .inr (by decide)
    | exact .inl rfl
    | with_reducible refine ChangesOnly.modBel _ ?_ ?_ ?_
    | with_reducible refine signal_changes ?_ ?_
    | with_reducible refine retrainBell_changes ?_ ?_
    | with_reducible refine ChangesOnly.ite_any ?_ ?_
    | split
    | (left; (try dsimp only); (repeat' split) <;> rfl)

theorem bellPortRetrain_changes {b : Nat} {s : State} (h₀ : ChangesOnly parts start s)
    (h₁ : [.bel, .bln] ⊆ parts) : ChangesOnly parts start (bellPortRetrain b s) := by
  refine h₀.step ?_ h₁
  unfold bellPortRetrain
  try dsimp only
  repeat' first
    | with_reducible exact ChangesOnly.refl _ _
    | with_reducible assumption
    | decide
    | with_reducible refine retrainBell_changes ?_ ?_
    | with_reducible refine ChangesOnly.ite_any ?_ ?_
    | split

theorem bellPortAligned_changes {b peak : Nat} {s : State} (h₀ : ChangesOnly parts start s)
    (h₁ : [.bel, .bln] ⊆ parts) : ChangesOnly parts start (bellPortAligned b peak s) := by
  refine h₀.step ?_ h₁
  unfold bellPortAligned
  try dsimp only
  repeat' first
    | with_reducible exact ChangesOnly.refl _ _
    | with_reducible assumption
    | decide
    | with_reducible refine ChangesOnly.modBln _ _ ?_ ?_
    | with_reducible refine signal_changes ?_ ?_
    | with_reducible refine noteFrame_changes ?_ ?_
    | with_reducible refine ChangesOnly.ite_any ?_ ?_
    | split

theorem bellPortTest_changes {b test : Nat} {s : State} (h₀ : ChangesOnly parts start s)
    (h₁ : [.bln, .draws] ⊆ parts) : ChangesOnly parts start (bellPortTest b test s) := by
  refine h₀.step ?_ h₁
  unfold bellPortTest
  try dsimp only
  repeat' first
    | with_reducible exact ChangesOnly.refl _ _
    | with_reducible assumption
    | decide
    | dsimp only
    | with_reducible refine ChangesOnly.modBln _ _ ?_ ?_
    | with_reducible refine ChangesOnly.drawn ?_ ?_
    | with_reducible refine ChangesOnly.drawnBytes _ ?_ ?_
    | with_reducible refine ChangesOnly.ite_any ?_ ?_
    | with_reducible refine ChangesOnly.ite_snd ?_ ?_
    | split
    | (rename _ = (_, _) => hq; have e := congrArg Prod.snd hq; dsimp only at e; subst e; clear hq)

theorem bellInjCv_changes {b : Nat} {s : State} (h₀ : ChangesOnly parts start s)
    (h₁ : [.bln] ⊆ parts) : ChangesOnly parts start (bellInjCv b s) := by
  refine h₀.step ?_ h₁
  unfold bellInjCv
  try dsimp only
  repeat' first
    | with_reducible exact ChangesOnly.refl _ _
    | with_reducible assumption
    | decide
    | with_reducible refine ChangesOnly.modBln _ _ ?_ ?_
    | with_reducible refine ChangesOnly.ite_any ?_ ?_
    | split

theorem bellInjDisp_changes {b : Nat} {s : State} (h₀ : ChangesOnly parts start s)
    (h₁ : [.bln] ⊆ parts) : ChangesOnly parts start (bellInjDisp b s) := by
  refine h₀.step ?_ h₁
  unfold bellInjDisp
  try dsimp only
  repeat' first
    | with_reducible exact ChangesOnly.refl _ _
    | with_reducible assumption
    | decide
    | with_reducible refine ChangesOnly.modBln _ _ ?_ ?_
    | with_reducible refine ChangesOnly.ite_any ?_ ?_
    | split

theorem bellInjCrc_changes {b : Nat} {s : State} (h₀ : ChangesOnly parts start s)
    (h₁ : [.bln] ⊆ parts) : ChangesOnly parts start (bellInjCrc b s) := by
  refine h₀.step ?_ h₁
  unfold bellInjCrc
  try dsimp only
  repeat' first
    | with_reducible exact ChangesOnly.refl _ _
    | with_reducible assumption
    | decide
    | with_reducible refine ChangesOnly.modBln _ _ ?_ ?_
    | with_reducible refine ChangesOnly.ite_any ?_ ?_
    | split

theorem shaperApply_changes {p v : Nat} {s : State} (h₀ : ChangesOnly parts start s)
    (h₁ : [.shapers] ⊆ parts) : ChangesOnly parts start (shaperApply p v s) := by
  refine h₀.step ?_ h₁
  unfold shaperApply
  try dsimp only
  repeat' first
    | with_reducible exact ChangesOnly.refl _ _
    | with_reducible assumption
    | decide
    | with_reducible refine ChangesOnly.modShaper _ _ _ ?_ ?_
    | with_reducible refine ChangesOnly.ite_any ?_ ?_
    | split

end Sys2Proof.Machine
end

