-- ==== Sys2Proof/Laws/FrameCellar.lean ====
section
/-! SUPPORT. Laws/FrameCellar.lean: what the operations of the stacks and the Storekeeper change: each adds its own parts, named in its second
hypothesis, to what a chain has changed so far. -/

set_option linter.all false
set_option maxRecDepth 8000

namespace Sys2Proof.Machine

variable {parts : List Part} {start : State}

theorem correctedError_changes {t off access : Nat} {inj : Bool} {s : State} (h₀ : ChangesOnly parts start s)
    (h₁ : [.glb, .flt, .fatal, .attic, .bel, .cel, .bln, .host, .out] ⊆ parts) : ChangesOnly parts start (correctedError t off access inj s) := by
  refine h₀.step ?_ h₁
  unfold correctedError
  try dsimp only
  repeat' first
    | with_reducible exact ChangesOnly.refl _ _
    | with_reducible assumption
    | decide
    | with_reducible refine ChangesOnly.modTract _ _ ?_ ?_
    | with_reducible refine ChangesOnly.modPage _ _ _ ?_ ?_
    | with_reducible refine recordFault_changes ?_ ?_

theorem cellRead_changes {t off n : Nat} {s : State} (h₀ : ChangesOnly parts start s)
    (h₁ : [.glb, .flt, .fatal, .attic, .bel, .cel, .bln, .host, .out] ⊆ parts) : ChangesOnly parts start ((cellRead t off n s)).2 := by
  refine h₀.step ?_ h₁
  unfold cellRead
  try dsimp only
  repeat' first
    | with_reducible exact ChangesOnly.refl _ _
    | with_reducible assumption
    | decide
    | dsimp only
    | with_reducible refine correctedError_changes ?_ ?_
    | with_reducible refine ChangesOnly.foldl _ ?_ (fun _ _ _ => ?_)
    | with_reducible refine ChangesOnly.foldl_snd _ ?_ (fun _ _ _ => ?_)
    | split
    | (rename _ = (_, _) => hq; have e := congrArg Prod.snd hq; dsimp only at e; subst e; clear hq)

theorem eccInjection_changes {t w : Nat} {s : State} (h₀ : ChangesOnly parts start s)
    (h₁ : [.flt, .cel] ⊆ parts) : ChangesOnly parts start (eccInjection t w s) := by
  refine h₀.step ?_ h₁
  unfold eccInjection
  try dsimp only
  repeat' first
    | with_reducible exact ChangesOnly.refl _ _
    | with_reducible assumption
    | decide
    | exact .inr (by decide)
    | exact .inl rfl
    | with_reducible refine ChangesOnly.modCel _ ?_ ?_ ?_
    | with_reducible refine useInjection_changes ?_ ?_
    | with_reducible refine ChangesOnly.ite_any ?_ ?_
    | split
    | (left; (try dsimp only); (repeat' split) <;> rfl)

theorem freshWord_changes {w : Nat} {s : State} (h₀ : ChangesOnly parts start s)
    (h₁ : [.cel] ⊆ parts) : ChangesOnly parts start (freshWord w s) := by
  refine h₀.step ?_ h₁
  unfold freshWord
  try dsimp only
  repeat' first
    | with_reducible exact ChangesOnly.refl _ _
    | with_reducible assumption
    | decide
    | exact .inr (by decide)
    | exact .inl rfl
    | with_reducible refine ChangesOnly.modCel _ ?_ ?_ ?_

theorem writeWord_changes {t off : Nat} {data : Bytes} {w : Nat} {s : State} (h₀ : ChangesOnly parts start s)
    (h₁ : [.glb, .flt, .fatal, .attic, .bel, .cel, .mem, .bln, .host, .out] ⊆ parts) : ChangesOnly parts start (writeWord t off data w s) := by
  refine h₀.step ?_ h₁
  unfold writeWord
  try dsimp only
  repeat' first
    | with_reducible exact ChangesOnly.refl _ _
    | with_reducible assumption
    | decide
    | exact .inr (by decide)
    | exact .inl rfl
    | with_reducible refine ChangesOnly.modCel _ ?_ ?_ ?_
    | with_reducible refine ChangesOnly.modTract _ _ ?_ ?_
    | with_reducible refine recordFault_changes ?_ ?_
    | with_reducible refine correctedError_changes ?_ ?_
    | with_reducible refine eccInjection_changes ?_ ?_
    | with_reducible refine freshWord_changes ?_ ?_
    | with_reducible refine ChangesOnly.ite_any ?_ ?_
    | split
    | (left; (try dsimp only); (repeat' split) <;> rfl)

theorem cellWrite_changes {t off : Nat} {data : Bytes} {s : State} (h₀ : ChangesOnly parts start s)
    (h₁ : [.glb, .flt, .fatal, .attic, .bel, .cel, .mem, .bln, .host, .out] ⊆ parts) : ChangesOnly parts start (cellWrite t off data s) := by
  refine h₀.step ?_ h₁
  unfold cellWrite
  try dsimp only
  repeat' first
    | with_reducible exact ChangesOnly.refl _ _
    | with_reducible assumption
    | decide
    | with_reducible refine writeWord_changes ?_ ?_
    | with_reducible refine ChangesOnly.foldl _ ?_ (fun _ _ _ => ?_)
    | with_reducible refine ChangesOnly.ite_any ?_ ?_
    | split

theorem State.modSess_changes {t sid : Nat} {f : Sess → Sess} {s : State} (h₀ : ChangesOnly parts start s)
    (h₁ : [.cel] ⊆ parts) : ChangesOnly parts start (State.modSess t sid f s) := by
  refine h₀.step ?_ h₁
  unfold State.modSess
  try dsimp only
  repeat' first
    | with_reducible exact ChangesOnly.refl _ _
    | with_reducible assumption
    | decide
    | with_reducible refine ChangesOnly.modTract _ _ ?_ ?_

theorem State.modRun_changes {t n : Nat} {f : Run → Run} {s : State} (h₀ : ChangesOnly parts start s)
    (h₁ : [.cel] ⊆ parts) : ChangesOnly parts start (State.modRun t n f s) := by
  refine h₀.step ?_ h₁
  unfold State.modRun
  try dsimp only
  repeat' first
    | with_reducible exact ChangesOnly.refl _ _
    | with_reducible assumption
    | decide
    | with_reducible refine ChangesOnly.modTract _ _ ?_ ?_

theorem grantPage_changes {t sid : Nat} {mirror : Bool} {e : Nat × Nat} {s : State} (h₀ : ChangesOnly parts start s)
    (h₁ : [.cel] ⊆ parts) : ChangesOnly parts start (grantPage t sid mirror e s) := by
  refine h₀.step ?_ h₁
  unfold grantPage
  try dsimp only
  repeat' first
    | with_reducible exact ChangesOnly.refl _ _
    | with_reducible assumption
    | decide
    | with_reducible refine ChangesOnly.modPage _ _ _ ?_ ?_
    | with_reducible refine State.modSess_changes ?_ ?_
    | split

theorem bitmapInjection_changes {t : Nat} {s : State} (h₀ : ChangesOnly parts start s)
    (h₁ : [.glb, .flt, .fatal, .attic, .bel, .bln, .host, .out] ⊆ parts) : ChangesOnly parts start (bitmapInjection t s) := by
  refine h₀.step ?_ h₁
  unfold bitmapInjection
  try dsimp only
  repeat' first
    | with_reducible exact ChangesOnly.refl _ _
    | with_reducible assumption
    | decide
    | with_reducible refine recordFault_changes ?_ ?_
    | with_reducible refine useInjection_changes ?_ ?_
    | with_reducible refine ChangesOnly.ite_any ?_ ?_
    | split

theorem stkAlloc_changes {t sid : Nat} {mirror : Bool} {layers : List Nat} {s : State} (h₀ : ChangesOnly parts start s)
    (h₁ : [.glb, .flt, .fatal, .attic, .bel, .cel, .bln, .host, .out] ⊆ parts) : ChangesOnly parts start ((stkAlloc t sid mirror layers s)).2 := by
  refine h₀.step ?_ h₁
  unfold stkAlloc
  try dsimp only
  repeat' first
    | with_reducible exact ChangesOnly.refl _ _
    | with_reducible assumption
    | decide
    | dsimp only
    | with_reducible refine ChangesOnly.modTract _ _ ?_ ?_
    | with_reducible refine grantPage_changes ?_ ?_
    | with_reducible refine bitmapInjection_changes ?_ ?_
    | with_reducible refine ChangesOnly.foldl _ ?_ (fun _ _ _ => ?_)
    | with_reducible refine ChangesOnly.foldl_snd _ ?_ (fun _ _ _ => ?_)
    | with_reducible refine ChangesOnly.ite_any ?_ ?_
    | with_reducible refine ChangesOnly.ite_snd ?_ ?_
    | split
    | (rename _ = (_, _) => hq; have e := congrArg Prod.snd hq; dsimp only at e; subst e; clear hq)

theorem logRetired_changes {t g access : Nat} {s : State} (h₀ : ChangesOnly parts start s)
    (h₁ : [.glb, .flt, .fatal, .attic, .bel, .bln, .host, .out] ⊆ parts) : ChangesOnly parts start (logRetired t g access s) := by
  refine h₀.step ?_ h₁
  unfold logRetired
  try dsimp only
  repeat' first
    | with_reducible exact ChangesOnly.refl _ _
    | with_reducible assumption
    | decide
    | with_reducible refine recordFault_changes ?_ ?_

theorem leavePage_changes {t g access : Nat} {s : State} (h₀ : ChangesOnly parts start s)
    (h₁ : [.glb, .flt, .fatal, .attic, .bel, .cel, .bln, .host, .out] ⊆ parts) : ChangesOnly parts start (leavePage t g access s) := by
  refine h₀.step ?_ h₁
  unfold leavePage
  try dsimp only
  repeat' first
    | with_reducible exact ChangesOnly.refl _ _
    | with_reducible assumption
    | decide
    | with_reducible refine ChangesOnly.modPage _ _ _ ?_ ?_
    | with_reducible refine logRetired_changes ?_ ?_
    | with_reducible refine ChangesOnly.ite_any ?_ ?_
    | split

theorem countNlo_changes {t : Nat} {s : State} (h₀ : ChangesOnly parts start s)
    (h₁ : [.cel] ⊆ parts) : ChangesOnly parts start (countNlo t s) := by
  refine h₀.step ?_ h₁
  unfold countNlo
  try dsimp only
  repeat' first
    | with_reducible exact ChangesOnly.refl _ _
    | with_reducible assumption
    | decide
    | with_reducible refine ChangesOnly.modTract _ _ ?_ ?_

theorem unlink_changes {t g : Nat} {chain : List Nat} {s : State} (h₀ : ChangesOnly parts start s)
    (h₁ : [.cel] ⊆ parts) : ChangesOnly parts start (unlink t g chain s) := by
  refine h₀.step ?_ h₁
  unfold unlink
  try dsimp only
  repeat' first
    | with_reducible exact ChangesOnly.refl _ _
    | with_reducible assumption
    | decide
    | with_reducible refine ChangesOnly.modPage _ _ _ ?_ ?_
    | split

theorem stkFree_changes {t g requester : Nat} {s : State} (h₀ : ChangesOnly parts start s)
    (h₁ : [.glb, .flt, .fatal, .attic, .bel, .cel, .bln, .host, .out] ⊆ parts) : ChangesOnly parts start ((stkFree t g requester s)).2 := by
  refine h₀.step ?_ h₁
  unfold stkFree
  try dsimp only
  repeat' first
    | with_reducible exact ChangesOnly.refl _ _
    | with_reducible assumption
    | decide
    | dsimp only
    | with_reducible refine ChangesOnly.modTract _ _ ?_ ?_
    | with_reducible refine recordFault_changes ?_ ?_
    | with_reducible refine State.modSess_changes ?_ ?_
    | with_reducible refine State.modRun_changes ?_ ?_
    | with_reducible refine leavePage_changes ?_ ?_
    | with_reducible refine countNlo_changes ?_ ?_
    | with_reducible refine unlink_changes ?_ ?_
    | with_reducible refine ChangesOnly.ite_any ?_ ?_
    | with_reducible refine ChangesOnly.ite_snd ?_ ?_
    | split
    | (rename _ = (_, _) => hq; have e := congrArg Prod.snd hq; dsimp only at e; subst e; clear hq)

theorem stkShare_changes {t pfx grafter : Nat} {s : State} (h₀ : ChangesOnly parts start s)
    (h₁ : [.cel] ⊆ parts) : ChangesOnly parts start ((stkShare t pfx grafter s)).2 := by
  refine h₀.step ?_ h₁
  unfold stkShare
  try dsimp only
  repeat' first
    | with_reducible exact ChangesOnly.refl _ _
    | with_reducible assumption
    | decide
    | dsimp only
    | with_reducible refine ChangesOnly.modTract _ _ ?_ ?_
    | with_reducible refine ChangesOnly.modPage _ _ _ ?_ ?_
    | with_reducible refine State.modSess_changes ?_ ?_
    | with_reducible refine ChangesOnly.foldl _ ?_ (fun _ _ _ => ?_)
    | with_reducible refine ChangesOnly.foldl_snd _ ?_ (fun _ _ _ => ?_)
    | with_reducible refine ChangesOnly.ite_any ?_ ?_
    | with_reducible refine ChangesOnly.ite_snd ?_ ?_
    | split
    | (rename _ = (_, _) => hq; have e := congrArg Prod.snd hq; dsimp only at e; subst e; clear hq)

theorem stkAddOwner_changes {t n grafter : Nat} {s : State} (h₀ : ChangesOnly parts start s)
    (h₁ : [.cel] ⊆ parts) : ChangesOnly parts start ((stkAddOwner t n grafter s)).2 := by
  refine h₀.step ?_ h₁
  unfold stkAddOwner
  try dsimp only
  repeat' first
    | with_reducible exact ChangesOnly.refl _ _
    | with_reducible assumption
    | decide
    | dsimp only
    | with_reducible refine State.modRun_changes ?_ ?_
    | with_reducible refine ChangesOnly.ite_any ?_ ?_
    | with_reducible refine ChangesOnly.ite_snd ?_ ?_
    | split
    | (rename _ = (_, _) => hq; have e := congrArg Prod.snd hq; dsimp only at e; subst e; clear hq)

theorem stkRelease_changes {t n requester : Nat} {s : State} (h₀ : ChangesOnly parts start s)
    (h₁ : [.glb, .flt, .fatal, .attic, .bel, .cel, .bln, .host, .out] ⊆ parts) : ChangesOnly parts start ((stkRelease t n requester s)).2 := by
  refine h₀.step ?_ h₁
  unfold stkRelease
  try dsimp only
  repeat' first
    | with_reducible exact ChangesOnly.refl _ _
    | with_reducible assumption
    | decide
    | dsimp only
    | with_reducible refine ChangesOnly.modTract _ _ ?_ ?_
    | with_reducible refine State.modRun_changes ?_ ?_
    | with_reducible refine leavePage_changes ?_ ?_
    | with_reducible refine countNlo_changes ?_ ?_
    | with_reducible refine ChangesOnly.foldl _ ?_ (fun _ _ _ => ?_)
    | with_reducible refine ChangesOnly.foldl_snd _ ?_ (fun _ _ _ => ?_)
    | with_reducible refine ChangesOnly.ite_any ?_ ?_
    | with_reducible refine ChangesOnly.ite_snd ?_ ?_
    | split
    | (rename _ = (_, _) => hq; have e := congrArg Prod.snd hq; dsimp only at e; subst e; clear hq)

theorem queueRow_changes {t pc g : Nat} {s : State} (h₀ : ChangesOnly parts start s)
    (h₁ : [.cel] ⊆ parts) : ChangesOnly parts start (queueRow t pc g s) := by
  refine h₀.step ?_ h₁
  unfold queueRow
  try dsimp only
  repeat' first
    | with_reducible exact ChangesOnly.refl _ _
    | with_reducible assumption
    | decide
    | with_reducible refine ChangesOnly.modTract _ _ ?_ ?_
    | with_reducible refine ChangesOnly.ite_any ?_ ?_
    | split

theorem retirePage_changes {t g access : Nat} {s : State} (h₀ : ChangesOnly parts start s)
    (h₁ : [.glb, .flt, .fatal, .attic, .bel, .cel, .bln, .host, .out] ⊆ parts) : ChangesOnly parts start (retirePage t g access s) := by
  refine h₀.step ?_ h₁
  unfold retirePage
  try dsimp only
  repeat' first
    | with_reducible exact ChangesOnly.refl _ _
    | with_reducible assumption
    | decide
    | with_reducible refine ChangesOnly.modPage _ _ _ ?_ ?_
    | with_reducible refine logRetired_changes ?_ ?_
    | with_reducible refine ChangesOnly.ite_any ?_ ?_
    | split

theorem repairFor_changes {t pc g access : Nat} {s : State} (h₀ : ChangesOnly parts start s)
    (h₁ : [.glb, .flt, .fatal, .attic, .bel, .cel, .bln, .host, .out] ⊆ parts) : ChangesOnly parts start (repairFor t pc g access s) := by
  refine h₀.step ?_ h₁
  unfold repairFor
  try dsimp only
  repeat' first
    | with_reducible exact ChangesOnly.refl _ _
    | with_reducible assumption
    | decide
    | exact .inr (by decide)
    | exact .inl rfl
    | with_reducible refine ChangesOnly.modCel _ ?_ ?_ ?_
    | with_reducible refine queueRow_changes ?_ ?_
    | with_reducible refine retirePage_changes ?_ ?_
    | with_reducible refine ChangesOnly.ite_any ?_ ?_
    | split
    | (left; (try dsimp only); (repeat' split) <;> rfl)

theorem ceLimit_changes {t g : Nat} {s : State} (h₀ : ChangesOnly parts start s)
    (h₁ : [.glb, .flt, .fatal, .attic, .bel, .cel, .bln, .host, .out] ⊆ parts) : ChangesOnly parts start (ceLimit t g s) := by
  refine h₀.step ?_ h₁
  unfold ceLimit
  try dsimp only
  repeat' first
    | with_reducible exact ChangesOnly.refl _ _
    | with_reducible assumption
    | decide
    | with_reducible refine ChangesOnly.modPage _ _ _ ?_ ?_
    | with_reducible refine queueRow_changes ?_ ?_
    | with_reducible refine retirePage_changes ?_ ?_
    | with_reducible refine ChangesOnly.ite_any ?_ ?_
    | split

theorem repairQueue_changes {t pc g : Nat} {s : State} (h₀ : ChangesOnly parts start s)
    (h₁ : [.cel] ⊆ parts) : ChangesOnly parts start (repairQueue t pc g s) := by
  refine h₀.step ?_ h₁
  unfold repairQueue
  try dsimp only
  repeat' first
    | with_reducible exact ChangesOnly.refl _ _
    | with_reducible assumption
    | decide
    | exact .inr (by decide)
    | exact .inl rfl
    | with_reducible refine ChangesOnly.modCel _ ?_ ?_ ?_
    | with_reducible refine queueRow_changes ?_ ?_
    | with_reducible refine ChangesOnly.ite_any ?_ ?_
    | split
    | (left; (try dsimp only); (repeat' split) <;> rfl)

theorem correctWords_changes {t : Nat} {ws : List Nat} {s : State} (h₀ : ChangesOnly parts start s)
    (h₁ : [.glb, .flt, .fatal, .attic, .bel, .cel, .bln, .host, .out] ⊆ parts) : ChangesOnly parts start (correctWords t ws s) := by
  refine h₀.step ?_ h₁
  unfold correctWords
  try dsimp only
  repeat' first
    | with_reducible exact ChangesOnly.refl _ _
    | with_reducible assumption
    | decide
    | with_reducible refine correctedError_changes ?_ ?_
    | with_reducible refine freshWord_changes ?_ ?_
    | with_reducible refine ChangesOnly.foldl _ ?_ (fun _ _ _ => ?_)

theorem copyRow_changes {t off i : Nat} {s : State} (h₀ : ChangesOnly parts start s)
    (h₁ : [.glb, .flt, .fatal, .attic, .bel, .cel, .mem, .bln, .host, .out] ⊆ parts) : ChangesOnly parts start (copyRow t off i s) := by
  refine h₀.step ?_ h₁
  unfold copyRow
  try dsimp only
  repeat' first
    | with_reducible exact ChangesOnly.refl _ _
    | with_reducible assumption
    | decide
    | exact .inr (by decide)
    | exact .inl rfl
    | with_reducible refine ChangesOnly.modCel _ ?_ ?_ ?_
    | with_reducible refine correctWords_changes ?_ ?_

theorem rowRepaired_changes {t : Nat} {e : Nat × Nat} {failed : Bool} {s : State} (h₀ : ChangesOnly parts start s)
    (h₁ : [.glb, .flt, .fatal, .attic, .bel, .cel, .bln, .host, .out] ⊆ parts) : ChangesOnly parts start (rowRepaired t e failed s) := by
  refine h₀.step ?_ h₁
  unfold rowRepaired
  try dsimp only
  repeat' first
    | with_reducible exact ChangesOnly.refl _ _
    | with_reducible assumption
    | decide
    | exact .inr (by decide)
    | exact .inl rfl
    | with_reducible refine ChangesOnly.modCel _ ?_ ?_ ?_
    | with_reducible refine ChangesOnly.modTract _ _ ?_ ?_
    | with_reducible refine recordFault_changes ?_ ?_
    | with_reducible refine retirePage_changes ?_ ?_
    | with_reducible refine ChangesOnly.ite_any ?_ ?_
    | split
    | (left; (try dsimp only); (repeat' split) <;> rfl)

theorem repairRow_changes {t i : Nat} {e : Nat × Nat} {failed : Bool} {s : State} (h₀ : ChangesOnly parts start s)
    (h₁ : [.glb, .flt, .fatal, .attic, .bel, .cel, .mem, .bln, .host, .out] ⊆ parts) : ChangesOnly parts start (repairRow t i e failed s) := by
  refine h₀.step ?_ h₁
  unfold repairRow
  try dsimp only
  repeat' first
    | with_reducible exact ChangesOnly.refl _ _
    | with_reducible assumption
    | decide
    | with_reducible refine copyRow_changes ?_ ?_
    | with_reducible refine rowRepaired_changes ?_ ?_

theorem repairDone_changes {t : Nat} {failedRows : List Nat} {s : State} (h₀ : ChangesOnly parts start s)
    (h₁ : [.glb, .flt, .fatal, .attic, .bel, .cel, .mem, .bln, .host, .out] ⊆ parts) : ChangesOnly parts start (repairDone t failedRows s) := by
  refine h₀.step ?_ h₁
  unfold repairDone
  try dsimp only
  repeat' first
    | with_reducible exact ChangesOnly.refl _ _
    | with_reducible assumption
    | decide
    | with_reducible refine ChangesOnly.modTract _ _ ?_ ?_
    | with_reducible refine repairRow_changes ?_ ?_
    | with_reducible refine ChangesOnly.foldl _ ?_ (fun _ _ _ => ?_)
    | with_reducible refine ChangesOnly.ite_any ?_ ?_
    | split

end Sys2Proof.Machine
end

