-- ==== Sys2Proof/Laws/FrameFold.lean ====
section
/-! SUPPORT. Laws/FrameFold.lean: what the operations of Fold engines change: each adds its own parts, named in its second
hypothesis, to what a chain has changed so far. -/

set_option linter.all false
set_option maxRecDepth 8000

namespace Sys2Proof.Machine

variable {parts : List Part} {start : State}

theorem State.modPen_changes {k : Nat × Nat × Nat} {f : PenInst → PenInst} {s : State} (h₀ : ChangesOnly parts start s)
    (h₁ : [.fld] ⊆ parts) : ChangesOnly parts start (State.modPen k f s) := by
  refine h₀.step ?_ h₁
  unfold State.modPen
  try dsimp only
  repeat' first
    | with_reducible exact ChangesOnly.refl _ _
    | with_reducible assumption
    | decide
    | with_reducible refine ChangesOnly.modFld _ ?_ ?_
    | with_reducible refine ChangesOnly.ite_any ?_ ?_
    | split

theorem State.dropPen_changes {k : Nat × Nat × Nat} {s : State} (h₀ : ChangesOnly parts start s)
    (h₁ : [.fld] ⊆ parts) : ChangesOnly parts start (State.dropPen k s) := by
  refine h₀.step ?_ h₁
  unfold State.dropPen
  try dsimp only
  repeat' first
    | with_reducible exact ChangesOnly.refl _ _
    | with_reducible assumption
    | decide
    | with_reducible refine ChangesOnly.modFld _ ?_ ?_

theorem countStale_changes {s : State} (h₀ : ChangesOnly parts start s)
    (h₁ : [.fld] ⊆ parts) : ChangesOnly parts start (countStale s) := by
  refine h₀.step ?_ h₁
  unfold countStale
  try dsimp only
  repeat' first
    | with_reducible exact ChangesOnly.refl _ _
    | with_reducible assumption
    | decide
    | with_reducible refine ChangesOnly.modFld _ ?_ ?_

theorem sendMcast_changes {ptype tag stepLo node chunk pkt part slot : Nat} {body : Bytes} {s : State} (h₀ : ChangesOnly parts start s)
    (h₁ : [.swc] ⊆ parts) : ChangesOnly parts start (sendMcast ptype tag stepLo node chunk pkt part slot body s) := by
  refine h₀.step ?_ h₁
  unfold sendMcast
  try dsimp only
  repeat' first
    | with_reducible exact ChangesOnly.refl _ _
    | with_reducible assumption
    | decide
    | with_reducible refine inject_changes ?_ ?_

theorem issueAbort_changes {tag stepLo node status dev origin : Nat} {ranks : List Nat} {s : State} (h₀ : ChangesOnly parts start s)
    (h₁ : [.swc, .fld] ⊆ parts) : ChangesOnly parts start (issueAbort tag stepLo node status dev origin ranks s) := by
  refine h₀.step ?_ h₁
  unfold issueAbort
  try dsimp only
  repeat' first
    | with_reducible exact ChangesOnly.refl _ _
    | with_reducible assumption
    | decide
    | with_reducible refine ChangesOnly.modFld _ ?_ ?_
    | with_reducible refine State.dropPen_changes ?_ ?_
    | with_reducible refine sendMcast_changes ?_ ?_
    | with_reducible refine ChangesOnly.foldl _ ?_ (fun _ _ _ => ?_)
    | with_reducible refine ChangesOnly.ite_any ?_ ?_
    | split

theorem reportAbort_changes {tag stepLo : Nat} {n : PenNode} {arrival : Bool} {status : Nat} {ranks : List Nat} {s : State} (h₀ : ChangesOnly parts start s)
    (h₁ : [.glb, .flt, .fatal, .attic, .bel, .swc, .fld, .bln, .host, .out] ⊆ parts) : ChangesOnly parts start (reportAbort tag stepLo n arrival status ranks s) := by
  refine h₀.step ?_ h₁
  unfold reportAbort
  try dsimp only
  repeat' first
    | with_reducible exact ChangesOnly.refl _ _
    | with_reducible assumption
    | decide
    | with_reducible refine logPenAbort_changes ?_ ?_
    | with_reducible refine sendAbortRecord_changes ?_ ?_
    | with_reducible refine issueAbort_changes ?_ ?_
    | with_reducible refine ChangesOnly.foldl _ ?_ (fun _ _ _ => ?_)
    | with_reducible refine ChangesOnly.ite_any ?_ ?_
    | split

theorem openAbort_changes {i : PenInst} {status : Nat} {ranks : List Nat} {s : State} (h₀ : ChangesOnly parts start s)
    (h₁ : [.glb, .flt, .fatal, .attic, .bel, .swc, .fld, .bln, .host, .out] ⊆ parts) : ChangesOnly parts start (openAbort i status ranks s) := by
  refine h₀.step ?_ h₁
  unfold openAbort
  try dsimp only
  repeat' first
    | with_reducible exact ChangesOnly.refl _ _
    | with_reducible assumption
    | decide
    | with_reducible refine State.modPen_changes ?_ ?_
    | with_reducible refine reportAbort_changes ?_ ?_
    | with_reducible refine ChangesOnly.ite_any ?_ ?_
    | split

theorem abortWhere_changes {c : PenInst → Bool} {status : Nat} {s : State} (h₀ : ChangesOnly parts start s)
    (h₁ : [.glb, .flt, .fatal, .attic, .bel, .swc, .fld, .bln, .host, .out] ⊆ parts) : ChangesOnly parts start (abortWhere c status s) := by
  refine h₀.step ?_ h₁
  unfold abortWhere
  try dsimp only
  repeat' first
    | with_reducible exact ChangesOnly.refl _ _
    | with_reducible assumption
    | decide
    | with_reducible refine openAbort_changes ?_ ?_
    | with_reducible refine ChangesOnly.foldl _ ?_ (fun _ _ _ => ?_)

theorem foldTractLost_changes {t : Nat} {s : State} (h₀ : ChangesOnly parts start s)
    (h₁ : [.glb, .flt, .fatal, .attic, .bel, .swc, .fld, .bln, .host, .out] ⊆ parts) : ChangesOnly parts start (foldTractLost t s) := by
  refine h₀.step ?_ h₁
  unfold foldTractLost
  try dsimp only
  repeat' first
    | with_reducible exact ChangesOnly.refl _ _
    | with_reducible assumption
    | decide
    | with_reducible refine ChangesOnly.modFld _ ?_ ?_
    | with_reducible refine abortWhere_changes ?_ ?_

theorem ackChild_changes {first : Bool} {k : Nat × Nat × Nat} {n : Nat} {s : State} (h₀ : ChangesOnly parts start s)
    (h₁ : [.swc, .fld] ⊆ parts) : ChangesOnly parts start (ackChild first k n s) := by
  refine h₀.step ?_ h₁
  unfold ackChild
  try dsimp only
  repeat' first
    | with_reducible exact ChangesOnly.refl _ _
    | with_reducible assumption
    | decide
    | with_reducible refine inject_changes ?_ ?_
    | with_reducible refine State.modPen_changes ?_ ?_
    | with_reducible refine ChangesOnly.foldl _ ?_ (fun _ _ _ => ?_)
    | with_reducible refine ChangesOnly.ite_any ?_ ?_
    | split

theorem sendResend_changes {i : PenInst} {id c part : Nat} {s : State} (h₀ : ChangesOnly parts start s)
    (h₁ : [.swc] ⊆ parts) : ChangesOnly parts start (sendResend i id c part s) := by
  refine h₀.step ?_ h₁
  unfold sendResend
  try dsimp only
  repeat' first
    | with_reducible exact ChangesOnly.refl _ _
    | with_reducible assumption
    | decide
    | with_reducible refine inject_changes ?_ ?_
    | split

theorem keepBias_changes {i : PenInst} {c : Nat} {s : State} (h₀ : ChangesOnly parts start s)
    (h₁ : [.fld] ⊆ parts) : ChangesOnly parts start (keepBias i c s) := by
  refine h₀.step ?_ h₁
  unfold keepBias
  try dsimp only
  repeat' first
    | with_reducible exact ChangesOnly.refl _ _
    | with_reducible assumption
    | decide
    | with_reducible refine ChangesOnly.modFld _ ?_ ?_
    | with_reducible refine ChangesOnly.foldl _ ?_ (fun _ _ _ => ?_)
    | with_reducible refine ChangesOnly.ite_any ?_ ?_
    | split

theorem fenceLane_changes {sl l : Nat} {s : State} (h₀ : ChangesOnly parts start s)
    (h₁ : [.glb, .flt, .fatal, .attic, .bel, .swc, .fld, .bln, .host, .out] ⊆ parts) : ChangesOnly parts start (fenceLane sl l s) := by
  refine h₀.step ?_ h₁
  unfold fenceLane
  try dsimp only
  repeat' first
    | with_reducible exact ChangesOnly.refl _ _
    | with_reducible assumption
    | decide
    | with_reducible refine ChangesOnly.modFld _ ?_ ?_
    | with_reducible refine openAbort_changes ?_ ?_
    | with_reducible refine ChangesOnly.foldl _ ?_ (fun _ _ _ => ?_)
    | with_reducible refine ChangesOnly.ite_any ?_ ?_
    | split

theorem laneFailed_changes {sl l : Nat} {inj : Bool} {s : State} (h₀ : ChangesOnly parts start s)
    (h₁ : [.glb, .flt, .fatal, .attic, .bel, .swc, .fld, .bln, .host, .out] ⊆ parts) : ChangesOnly parts start (laneFailed sl l inj s) := by
  refine h₀.step ?_ h₁
  unfold laneFailed
  try dsimp only
  repeat' first
    | with_reducible exact ChangesOnly.refl _ _
    | with_reducible assumption
    | decide
    | with_reducible refine ChangesOnly.modFld _ ?_ ?_
    | with_reducible refine recordFault_changes ?_ ?_
    | with_reducible refine fenceLane_changes ?_ ?_
    | with_reducible refine ChangesOnly.ite_any ?_ ?_
    | split

theorem checkResidue_changes {sl : Nat} {fp64 ok : Bool} {s : State} (h₀ : ChangesOnly parts start s)
    (h₁ : [.flt, .draws] ⊆ parts) : ChangesOnly parts start ((checkResidue sl fp64 ok s)).2 := by
  refine h₀.step ?_ h₁
  unfold checkResidue
  try dsimp only
  repeat' first
    | with_reducible exact ChangesOnly.refl _ _
    | with_reducible assumption
    | decide
    | dsimp only
    | with_reducible refine ChangesOnly.drawn ?_ ?_
    | with_reducible refine ChangesOnly.drawnBytes _ ?_ ?_
    | with_reducible refine useInjection_changes ?_ ?_
    | with_reducible refine ChangesOnly.ite_any ?_ ?_
    | with_reducible refine ChangesOnly.ite_snd ?_ ?_
    | split
    | (rename _ = (_, _) => hq; have e := congrArg Prod.snd hq; dsimp only at e; subst e; clear hq)

theorem sendOut_changes {i : PenInst} {c part : Nat} {o : ChunkOut} {good : Bool} {data : Bytes} {s : State} (h₀ : ChangesOnly parts start s)
    (h₁ : [.swc] ⊆ parts) : ChangesOnly parts start (sendOut i c part o good data s) := by
  refine h₀.step ?_ h₁
  unfold sendOut
  try dsimp only
  repeat' first
    | with_reducible exact ChangesOnly.refl _ _
    | with_reducible assumption
    | decide
    | with_reducible refine inject_changes ?_ ?_
    | with_reducible refine sendMcast_changes ?_ ?_
    | with_reducible refine ChangesOnly.foldl _ ?_ (fun _ _ _ => ?_)
    | with_reducible refine ChangesOnly.ite_any ?_ ?_
    | split

theorem sendStats_changes {i : PenInst} {s : State} (h₀ : ChangesOnly parts start s)
    (h₁ : [.swc, .fld] ⊆ parts) : ChangesOnly parts start (sendStats i s) := by
  refine h₀.step ?_ h₁
  unfold sendStats
  try dsimp only
  repeat' first
    | with_reducible exact ChangesOnly.refl _ _
    | with_reducible assumption
    | decide
    | with_reducible refine State.modPen_changes ?_ ?_
    | with_reducible refine sendMcast_changes ?_ ?_
    | with_reducible refine ChangesOnly.foldl _ ?_ (fun _ _ _ => ?_)
    | with_reducible refine ChangesOnly.ite_any ?_ ?_
    | split

theorem settlePen_changes {k : Nat × Nat × Nat} {s : State} (h₀ : ChangesOnly parts start s)
    (h₁ : [.swc, .fld] ⊆ parts) : ChangesOnly parts start (settlePen k s) := by
  refine h₀.step ?_ h₁
  unfold settlePen
  try dsimp only
  repeat' first
    | with_reducible exact ChangesOnly.refl _ _
    | with_reducible assumption
    | decide
    | with_reducible refine State.modPen_changes ?_ ?_
    | with_reducible refine State.dropPen_changes ?_ ?_
    | with_reducible refine sendStats_changes ?_ ?_
    | with_reducible refine ChangesOnly.ite_any ?_ ?_
    | split

theorem sendWaiting_changes {k : Nat × Nat × Nat} {s : State} (h₀ : ChangesOnly parts start s)
    (h₁ : [.swc, .fld] ⊆ parts) : ChangesOnly parts start (sendWaiting k s) := by
  refine h₀.step ?_ h₁
  unfold sendWaiting
  try dsimp only
  repeat' first
    | with_reducible exact ChangesOnly.refl _ _
    | with_reducible assumption
    | decide
    | with_reducible refine State.modPen_changes ?_ ?_
    | with_reducible refine sendOut_changes ?_ ?_
    | with_reducible refine ChangesOnly.foldl _ ?_ (fun _ _ _ => ?_)
    | with_reducible refine ChangesOnly.ite_any ?_ ?_
    | split

theorem foldChunkDone_changes {tag step node c : Nat} {ok : Bool} {s : State} (h₀ : ChangesOnly parts start s)
    (h₁ : [.glb, .flt, .fatal, .attic, .bel, .swc, .fld, .bln, .host, .out, .draws] ⊆ parts) : ChangesOnly parts start (foldChunkDone tag step node c ok s) := by
  refine h₀.step ?_ h₁
  unfold foldChunkDone
  try dsimp only
  repeat' first
    | with_reducible exact ChangesOnly.refl _ _
    | with_reducible assumption
    | decide
    | dsimp only
    | with_reducible refine ChangesOnly.modFld _ ?_ ?_
    | with_reducible refine ChangesOnly.drawn ?_ ?_
    | with_reducible refine ChangesOnly.drawnBytes _ ?_ ?_
    | with_reducible refine recordFault_changes ?_ ?_
    | with_reducible refine State.modPen_changes ?_ ?_
    | with_reducible refine openAbort_changes ?_ ?_
    | with_reducible refine keepBias_changes ?_ ?_
    | with_reducible refine laneFailed_changes ?_ ?_
    | with_reducible refine checkResidue_changes ?_ ?_
    | with_reducible refine sendOut_changes ?_ ?_
    | with_reducible refine settlePen_changes ?_ ?_
    | with_reducible refine ChangesOnly.ite_any ?_ ?_
    | with_reducible refine ChangesOnly.ite_snd ?_ ?_
    | split
    | (rename _ = (_, _) => hq; have e := congrArg Prod.snd hq; dsimp only at e; subst e; clear hq)

theorem formOut_changes {k : Nat × Nat × Nat} {c : Nat} {window : Bool} {s : State} (h₀ : ChangesOnly parts start s)
    (h₁ : [.fld] ⊆ parts) : ChangesOnly parts start (formOut k c window s) := by
  refine h₀.step ?_ h₁
  unfold formOut
  try dsimp only
  repeat' first
    | with_reducible exact ChangesOnly.refl _ _
    | with_reducible assumption
    | decide
    | with_reducible refine ChangesOnly.modFld _ ?_ ?_
    | with_reducible refine State.modPen_changes ?_ ?_
    | with_reducible refine ChangesOnly.ite_any ?_ ?_
    | split

theorem openPen_changes {q : PenPolicy} {n : PenNode} {fits : Bool} {p : Packet} {s : State} (h₀ : ChangesOnly parts start s)
    (h₁ : [.glb, .flt, .fatal, .attic, .bel, .swc, .fld, .bln, .host, .out, .draws] ⊆ parts) : ChangesOnly parts start (openPen q n fits p s) := by
  refine h₀.step ?_ h₁
  unfold openPen
  try dsimp only
  repeat' first
    | with_reducible exact ChangesOnly.refl _ _
    | with_reducible assumption
    | decide
    | dsimp only
    | with_reducible refine ChangesOnly.modFld _ ?_ ?_
    | with_reducible refine ChangesOnly.drawn ?_ ?_
    | with_reducible refine ChangesOnly.drawnBytes _ ?_ ?_
    | with_reducible refine inject_changes ?_ ?_
    | with_reducible refine reportAbort_changes ?_ ?_
    | with_reducible refine ackChild_changes ?_ ?_
    | with_reducible refine ChangesOnly.ite_any ?_ ?_
    | with_reducible refine ChangesOnly.ite_snd ?_ ?_
    | split
    | (rename _ = (_, _) => hq; have e := congrArg Prod.snd hq; dsimp only at e; subst e; clear hq)

theorem passOpen_changes {n : PenNode} {p : Packet} {s : State} (h₀ : ChangesOnly parts start s)
    (h₁ : [.swc] ⊆ parts) : ChangesOnly parts start (passOpen n p s) := by
  refine h₀.step ?_ h₁
  unfold passOpen
  try dsimp only
  repeat' first
    | with_reducible exact ChangesOnly.refl _ _
    | with_reducible assumption
    | decide
    | with_reducible refine inject_changes ?_ ?_
    | with_reducible refine ChangesOnly.foldl _ ?_ (fun _ _ _ => ?_)
    | with_reducible refine ChangesOnly.ite_any ?_ ?_
    | split

theorem penOpen_changes {p : Packet} {s : State} (h₀ : ChangesOnly parts start s)
    (h₁ : [.glb, .flt, .fatal, .attic, .bel, .swc, .fld, .bln, .host, .out, .draws] ⊆ parts) : ChangesOnly parts start (penOpen p s) := by
  refine h₀.step ?_ h₁
  unfold penOpen
  try dsimp only
  repeat' first
    | with_reducible exact ChangesOnly.refl _ _
    | with_reducible assumption
    | decide
    | with_reducible refine State.modPen_changes ?_ ?_
    | with_reducible refine countStale_changes ?_ ?_
    | with_reducible refine openAbort_changes ?_ ?_
    | with_reducible refine ackChild_changes ?_ ?_
    | with_reducible refine openPen_changes ?_ ?_
    | with_reducible refine passOpen_changes ?_ ?_
    | with_reducible refine ChangesOnly.ite_any ?_ ?_
    | split

theorem countLate_changes {i : PenInst} {n : Nat} {s : State} (h₀ : ChangesOnly parts start s)
    (h₁ : [.fld] ⊆ parts) : ChangesOnly parts start (countLate i n s) := by
  refine h₀.step ?_ h₁
  unfold countLate
  try dsimp only
  repeat' first
    | with_reducible exact ChangesOnly.refl _ _
    | with_reducible assumption
    | decide
    | with_reducible refine ChangesOnly.modFld _ ?_ ?_
    | split

theorem foldSram_changes {i : PenInst} {c : Nat} {s : State} (h₀ : ChangesOnly parts start s)
    (h₁ : [.glb, .flt, .fatal, .attic, .bel, .swc, .fld, .bln, .host, .out] ⊆ parts) : ChangesOnly parts start (foldSram i c s) := by
  refine h₀.step ?_ h₁
  unfold foldSram
  try dsimp only
  repeat' first
    | with_reducible exact ChangesOnly.refl _ _
    | with_reducible assumption
    | decide
    | with_reducible refine recordFault_changes ?_ ?_
    | with_reducible refine useInjection_changes ?_ ?_
    | with_reducible refine openAbort_changes ?_ ?_
    | with_reducible refine ChangesOnly.ite_any ?_ ?_
    | split

theorem withCopy_changes {p : Packet} {f : PenInst → Nat → State → State} {s : State} (h₀ : ChangesOnly parts start s)
    (h₁ : [.fld] ⊆ parts)
    (hf : ∀ x0 x1 t, ChangesOnly parts start t → ChangesOnly parts start (f x0 x1 t)) : ChangesOnly parts start (withCopy p f s) := by
  unfold withCopy
  try dsimp only
  repeat' first
    | with_reducible assumption
    | with_reducible exact h₀
    | with_reducible refine hf _ _ _ ?_
    | exact List.Subset.trans (by decide) h₁
    | exact h₁ (by decide)
    | with_reducible refine countStale_changes ?_ ?_
    | with_reducible refine countLate_changes ?_ ?_
    | with_reducible refine ChangesOnly.ite_any ?_ ?_
    | split

theorem contrib_changes {p : Packet} {s : State} (h₀ : ChangesOnly parts start s)
    (h₁ : [.glb, .flt, .fatal, .attic, .bel, .swc, .fld, .bln, .host, .out] ⊆ parts) : ChangesOnly parts start (contrib p s) := by
  refine h₀.step ?_ h₁
  unfold contrib
  try dsimp only
  repeat' first
    | with_reducible exact ChangesOnly.refl _ _
    | with_reducible assumption
    | decide
    | with_reducible refine State.modPen_changes ?_ ?_
    | with_reducible refine foldSram_changes ?_ ?_
    | with_reducible refine withCopy_changes ?_ ?_ (fun _ _ _ _ => ?_)
    | dsimp only
    | with_reducible refine ChangesOnly.ite_any ?_ ?_
    | split

theorem tallyPen_changes {k : Nat × Nat × Nat} {s : State} (h₀ : ChangesOnly parts start s)
    (h₁ : [.fld] ⊆ parts) : ChangesOnly parts start (tallyPen k s) := by
  refine h₀.step ?_ h₁
  unfold tallyPen
  try dsimp only
  repeat' first
    | with_reducible exact ChangesOnly.refl _ _
    | with_reducible assumption
    | decide
    | with_reducible refine ChangesOnly.modFld _ ?_ ?_
    | with_reducible refine State.modPen_changes ?_ ?_
    | with_reducible refine ChangesOnly.foldl _ ?_ (fun _ _ _ => ?_)
    | with_reducible refine ChangesOnly.ite_any ?_ ?_
    | split

theorem closing_changes {p : Packet} {s : State} (h₀ : ChangesOnly parts start s)
    (h₁ : [.glb, .flt, .fatal, .attic, .bel, .swc, .fld, .bln, .host, .out] ⊆ parts) : ChangesOnly parts start (closing p s) := by
  refine h₀.step ?_ h₁
  unfold closing
  try dsimp only
  repeat' first
    | with_reducible exact ChangesOnly.refl _ _
    | with_reducible assumption
    | decide
    | with_reducible refine ChangesOnly.modFld _ ?_ ?_
    | with_reducible refine State.modPen_changes ?_ ?_
    | with_reducible refine ackChild_changes ?_ ?_
    | with_reducible refine sendResend_changes ?_ ?_
    | with_reducible refine formOut_changes ?_ ?_
    | with_reducible refine foldSram_changes ?_ ?_
    | with_reducible refine withCopy_changes ?_ ?_ (fun _ _ _ _ => ?_)
    | with_reducible refine tallyPen_changes ?_ ?_
    | dsimp only
    | with_reducible refine ChangesOnly.ite_any ?_ ?_
    | split

theorem gatherResult_changes {p : Packet} {s : State} (h₀ : ChangesOnly parts start s)
    (h₁ : [.swc, .fld] ⊆ parts) : ChangesOnly parts start (gatherResult p s) := by
  refine h₀.step ?_ h₁
  unfold gatherResult
  try dsimp only
  repeat' first
    | with_reducible exact ChangesOnly.refl _ _
    | with_reducible assumption
    | decide
    | with_reducible refine State.modPen_changes ?_ ?_
    | with_reducible refine settlePen_changes ?_ ?_
    | with_reducible refine ChangesOnly.ite_any ?_ ?_
    | split

theorem arrivalExpire_changes {tag step node c : Nat} {s : State} (h₀ : ChangesOnly parts start s)
    (h₁ : [.glb, .gt, .clock, .shapers, .fld, .thm] ⊆ parts) : ChangesOnly parts start (arrivalExpire tag step node c s) := by
  refine h₀.step ?_ h₁
  unfold arrivalExpire
  try dsimp only
  repeat' first
    | with_reducible exact ChangesOnly.refl _ _
    | with_reducible assumption
    | decide
    | with_reducible refine advanceTo_changes ?_ ?_
    | with_reducible refine State.modPen_changes ?_ ?_
    | with_reducible refine formOut_changes ?_ ?_
    | with_reducible refine ChangesOnly.ite_any ?_ ?_
    | split

theorem chunkIncomplete_changes {tag step node c n : Nat} {s : State} (h₀ : ChangesOnly parts start s)
    (h₁ : [.glb, .gt, .clock, .shapers, .swc, .fld, .thm] ⊆ parts) : ChangesOnly parts start (chunkIncomplete tag step node c n s) := by
  refine h₀.step ?_ h₁
  unfold chunkIncomplete
  try dsimp only
  repeat' first
    | with_reducible exact ChangesOnly.refl _ _
    | with_reducible assumption
    | decide
    | with_reducible refine advanceTo_changes ?_ ?_
    | with_reducible refine State.modPen_changes ?_ ?_
    | with_reducible refine sendResend_changes ?_ ?_
    | with_reducible refine ChangesOnly.ite_any ?_ ?_
    | split

theorem foldAck_changes {p : Packet} {s : State} (h₀ : ChangesOnly parts start s)
    (h₁ : [.swc, .fld] ⊆ parts) : ChangesOnly parts start (foldAck p s) := by
  refine h₀.step ?_ h₁
  unfold foldAck
  try dsimp only
  repeat' first
    | with_reducible exact ChangesOnly.refl _ _
    | with_reducible assumption
    | decide
    | with_reducible refine State.modPen_changes ?_ ?_
    | with_reducible refine countStale_changes ?_ ?_
    | with_reducible refine settlePen_changes ?_ ?_
    | with_reducible refine sendWaiting_changes ?_ ?_
    | with_reducible refine ChangesOnly.ite_any ?_ ?_
    | split

theorem foldResend_changes {p : Packet} {s : State} (h₀ : ChangesOnly parts start s)
    (h₁ : [.glb, .flt, .fatal, .attic, .bel, .swc, .fld, .bln, .host, .out] ⊆ parts) : ChangesOnly parts start (foldResend p s) := by
  refine h₀.step ?_ h₁
  unfold foldResend
  try dsimp only
  repeat' first
    | with_reducible exact ChangesOnly.refl _ _
    | with_reducible assumption
    | decide
    | with_reducible refine ChangesOnly.modFld _ ?_ ?_
    | with_reducible refine State.modPen_changes ?_ ?_
    | with_reducible refine countStale_changes ?_ ?_
    | with_reducible refine openAbort_changes ?_ ?_
    | with_reducible refine sendOut_changes ?_ ?_
    | with_reducible refine ChangesOnly.ite_any ?_ ?_
    | split

theorem lateRecord_changes {p : Packet} {s : State} (h₀ : ChangesOnly parts start s)
    (h₁ : [.fld] ⊆ parts) : ChangesOnly parts start (lateRecord p s) := by
  refine h₀.step ?_ h₁
  unfold lateRecord
  try dsimp only
  repeat' first
    | with_reducible exact ChangesOnly.refl _ _
    | with_reducible assumption
    | decide
    | with_reducible refine State.modPen_changes ?_ ?_
    | with_reducible refine countStale_changes ?_ ?_
    | with_reducible refine ChangesOnly.ite_any ?_ ?_
    | split

theorem abortRecord_changes {p : Packet} {s : State} (h₀ : ChangesOnly parts start s)
    (h₁ : [.swc, .fld] ⊆ parts) : ChangesOnly parts start (abortRecord p s) := by
  refine h₀.step ?_ h₁
  unfold abortRecord
  try dsimp only
  repeat' first
    | with_reducible exact ChangesOnly.refl _ _
    | with_reducible assumption
    | decide
    | with_reducible refine State.modPen_changes ?_ ?_
    | with_reducible refine countStale_changes ?_ ?_
    | with_reducible refine issueAbort_changes ?_ ?_
    | with_reducible refine ChangesOnly.ite_any ?_ ?_
    | split

theorem penLateAbort_changes {tag step : Nat} {s : State} (h₀ : ChangesOnly parts start s)
    (h₁ : [.glb, .gt, .clock, .shapers, .swc, .fld, .thm] ⊆ parts) : ChangesOnly parts start (penLateAbort tag step s) := by
  refine h₀.step ?_ h₁
  unfold penLateAbort
  try dsimp only
  repeat' first
    | with_reducible exact ChangesOnly.refl _ _
    | with_reducible assumption
    | decide
    | with_reducible refine advanceTo_changes ?_ ?_
    | with_reducible refine issueAbort_changes ?_ ?_
    | split

theorem foldAbort_changes {p : Packet} {s : State} (h₀ : ChangesOnly parts start s)
    (h₁ : [.fld] ⊆ parts) : ChangesOnly parts start (foldAbort p s) := by
  refine h₀.step ?_ h₁
  unfold foldAbort
  try dsimp only
  repeat' first
    | with_reducible exact ChangesOnly.refl _ _
    | with_reducible assumption
    | decide
    | with_reducible refine ChangesOnly.modFld _ ?_ ?_
    | with_reducible refine countStale_changes ?_ ?_
    | with_reducible refine ChangesOnly.ite_any ?_ ?_
    | split

theorem penDeadline_changes {tag step node : Nat} {s : State} (h₀ : ChangesOnly parts start s)
    (h₁ : [.glb, .flt, .fatal, .attic, .bel, .gt, .clock, .shapers, .swc, .fld, .bln, .thm, .host, .out] ⊆ parts) : ChangesOnly parts start (penDeadline tag step node s) := by
  refine h₀.step ?_ h₁
  unfold penDeadline
  try dsimp only
  repeat' first
    | with_reducible exact ChangesOnly.refl _ _
    | with_reducible assumption
    | decide
    | with_reducible refine advanceTo_changes ?_ ?_
    | with_reducible refine inject_changes ?_ ?_
    | with_reducible refine State.modPen_changes ?_ ?_
    | with_reducible refine openAbort_changes ?_ ?_
    | with_reducible refine formOut_changes ?_ ?_
    | with_reducible refine tallyPen_changes ?_ ?_
    | with_reducible refine ChangesOnly.foldl _ ?_ (fun _ _ _ => ?_)
    | with_reducible refine ChangesOnly.ite_any ?_ ?_
    | split

theorem penAckDeadline_changes {tag step : Nat} {s : State} (h₀ : ChangesOnly parts start s)
    (h₁ : [.glb, .flt, .fatal, .attic, .bel, .gt, .clock, .shapers, .fld, .bln, .thm, .host, .out] ⊆ parts) : ChangesOnly parts start (penAckDeadline tag step s) := by
  refine h₀.step ?_ h₁
  unfold penAckDeadline
  try dsimp only
  repeat' first
    | with_reducible exact ChangesOnly.refl _ _
    | with_reducible assumption
    | decide
    | with_reducible refine ChangesOnly.modFld _ ?_ ?_
    | with_reducible refine advanceTo_changes ?_ ?_
    | with_reducible refine recordFault_changes ?_ ?_
    | with_reducible refine State.dropPen_changes ?_ ?_
    | split

theorem penAbortedExpire_changes {tag step node : Nat} {s : State} (h₀ : ChangesOnly parts start s)
    (h₁ : [.glb, .gt, .clock, .shapers, .fld, .thm] ⊆ parts) : ChangesOnly parts start (penAbortedExpire tag step node s) := by
  refine h₀.step ?_ h₁
  unfold penAbortedExpire
  try dsimp only
  repeat' first
    | with_reducible exact ChangesOnly.refl _ _
    | with_reducible assumption
    | decide
    | with_reducible refine advanceTo_changes ?_ ?_
    | with_reducible refine State.dropPen_changes ?_ ?_
    | with_reducible refine ChangesOnly.ite_any ?_ ?_
    | split

theorem resetPens_changes {c : PenInst → Bool} {status : Nat} {s : State} (h₀ : ChangesOnly parts start s)
    (h₁ : [.glb, .flt, .fatal, .attic, .bel, .swc, .fld, .bln, .host, .out] ⊆ parts) : ChangesOnly parts start (resetPens c status s) := by
  refine h₀.step ?_ h₁
  unfold resetPens
  try dsimp only
  repeat' first
    | with_reducible exact ChangesOnly.refl _ _
    | with_reducible assumption
    | decide
    | with_reducible refine State.dropPen_changes ?_ ?_
    | with_reducible refine openAbort_changes ?_ ?_
    | with_reducible refine ChangesOnly.foldl _ ?_ (fun _ _ _ => ?_)

theorem tallyClear_changes {s : State} (h₀ : ChangesOnly parts start s)
    (h₁ : [.fld] ⊆ parts) : ChangesOnly parts start (tallyClear s) := by
  refine h₀.step ?_ h₁
  unfold tallyClear
  try dsimp only
  repeat' first
    | with_reducible exact ChangesOnly.refl _ _
    | with_reducible assumption
    | decide
    | with_reducible refine ChangesOnly.modFld _ ?_ ?_

theorem foldTakes_changes {ptype : Nat} {c : Packet → Bool} {f : Packet → State → State} {p : Packet} {s : State} (h₀ : ChangesOnly parts start s)
    (h₁ : [.glb, .flt, .fatal, .attic, .bel, .shapers, .gates, .swc, .rte, .bln, .host, .inbox, .out] ⊆ parts)
    (hf : ∀ x0 t, ChangesOnly parts start t → ChangesOnly parts start (f x0 t)) : ChangesOnly parts start (foldTakes ptype c f p s) := by
  unfold foldTakes
  try dsimp only
  repeat' first
    | with_reducible assumption
    | with_reducible exact h₀
    | with_reducible refine hf _ _ ?_
    | exact List.Subset.trans (by decide) h₁
    | exact h₁ (by decide)
    | with_reducible refine settleCore_changes ?_ ?_
    | with_reducible refine takeInbox_changes ?_ ?_
    | with_reducible refine ChangesOnly.ite_any ?_ ?_
    | split

end Sys2Proof.Machine
end

