-- ==== Sys2Proof/Laws/FrameFences.lean ====
section
/-! SUPPORT. Laws/FrameFences.lean: what the operations of fences change: each adds its own parts, named in its second
hypothesis, to what a chain has changed so far. -/

set_option linter.all false
set_option maxRecDepth 8000

namespace Sys2Proof.Machine

variable {parts : List Part} {start : State}

theorem fenceCroft_changes {k : Nat} {s : State} (h₀ : ChangesOnly parts start s)
    (h₁ : [.crf] ⊆ parts) : ChangesOnly parts start (fenceCroft k s) := by
  refine h₀.step ?_ h₁
  unfold fenceCroft
  try dsimp only
  repeat' first
    | with_reducible exact ChangesOnly.refl _ _
    | with_reducible assumption
    | decide
    | with_reducible refine ChangesOnly.modCroft _ _ ?_ ?_

theorem requestCapsule_changes {r : CapsuleReq} {s : State} (h₀ : ChangesOnly parts start s)
    (h₁ : [.attic] ⊆ parts) : ChangesOnly parts start (requestCapsule r s) := by
  refine h₀.step ?_ h₁
  unfold requestCapsule
  try dsimp only
  repeat' first
    | with_reducible exact ChangesOnly.refl _ _
    | with_reducible assumption
    | decide
    | with_reducible refine ChangesOnly.modAttic _ ?_ ?_
    | with_reducible refine ChangesOnly.ite_any ?_ ?_
    | split

theorem sendMirror_changes {dev sid mseq op layer off aux : Nat} {data : Bytes} {s : State} (h₀ : ChangesOnly parts start s)
    (h₁ : [.swc] ⊆ parts) : ChangesOnly parts start (sendMirror dev sid mseq op layer off aux data s) := by
  refine h₀.step ?_ h₁
  unfold sendMirror
  try dsimp only
  repeat' first
    | with_reducible exact ChangesOnly.refl _ _
    | with_reducible assumption
    | decide
    | with_reducible refine inject_changes ?_ ?_

theorem freeSession_changes {t sid : Nat} {s : State} (h₀ : ChangesOnly parts start s)
    (h₁ : [.glb, .flt, .fatal, .attic, .bel, .cel, .bln, .host, .out] ⊆ parts) : ChangesOnly parts start (freeSession t sid s) := by
  refine h₀.step ?_ h₁
  unfold freeSession
  try dsimp only
  repeat' first
    | with_reducible exact ChangesOnly.refl _ _
    | with_reducible assumption
    | decide
    | with_reducible refine ChangesOnly.modTract _ _ ?_ ?_
    | with_reducible refine stkFree_changes ?_ ?_
    | with_reducible refine stkRelease_changes ?_ ?_
    | with_reducible refine ChangesOnly.foldl _ ?_ (fun _ _ _ => ?_)
    | split

theorem partnerBreak_changes {t sid reason : Nat} {s : State} (h₀ : ChangesOnly parts start s)
    (h₁ : [.glb, .flt, .fatal, .attic, .bel, .swc, .cel, .bln, .host, .out] ⊆ parts) : ChangesOnly parts start (partnerBreak t sid reason s) := by
  refine h₀.step ?_ h₁
  unfold partnerBreak
  try dsimp only
  repeat' first
    | with_reducible exact ChangesOnly.refl _ _
    | with_reducible assumption
    | decide
    | with_reducible refine sendMirror_changes ?_ ?_
    | with_reducible refine freeSession_changes ?_ ?_
    | split

theorem fenceTract_changes {t : Nat} {s : State} (h₀ : ChangesOnly parts start s)
    (h₁ : [.glb, .flt, .fatal, .attic, .bel, .swc, .fld, .cel, .crf, .bln, .host, .out] ⊆ parts) : ChangesOnly parts start (fenceTract t s) := by
  refine h₀.step ?_ h₁
  unfold fenceTract
  try dsimp only
  repeat' first
    | with_reducible exact ChangesOnly.refl _ _
    | with_reducible assumption
    | decide
    | with_reducible refine ChangesOnly.modTract _ _ ?_ ?_
    | with_reducible refine foldTractLost_changes ?_ ?_
    | with_reducible refine fenceCroft_changes ?_ ?_
    | with_reducible refine sendMirror_changes ?_ ?_
    | with_reducible refine ChangesOnly.foldl _ ?_ (fun _ _ _ => ?_)
    | with_reducible refine ChangesOnly.ite_any ?_ ?_
    | split

theorem mirrorDamaged_changes {t g : Nat} {s : State} (h₀ : ChangesOnly parts start s)
    (h₁ : [.glb, .flt, .fatal, .attic, .bel, .swc, .cel, .bln, .host, .out] ⊆ parts) : ChangesOnly parts start (mirrorDamaged t g s) := by
  refine h₀.step ?_ h₁
  unfold mirrorDamaged
  try dsimp only
  repeat' first
    | with_reducible exact ChangesOnly.refl _ _
    | with_reducible assumption
    | decide
    | with_reducible refine sendMirror_changes ?_ ?_
    | with_reducible refine partnerBreak_changes ?_ ?_
    | with_reducible refine ChangesOnly.ite_any ?_ ?_
    | split

theorem retentionUe_changes {t off : Nat} {s : State} (h₀ : ChangesOnly parts start s)
    (h₁ : [.glb, .flt, .fatal, .attic, .bel, .swc, .fld, .bln, .host, .out] ⊆ parts) : ChangesOnly parts start (retentionUe t off s) := by
  refine h₀.step ?_ h₁
  unfold retentionUe
  try dsimp only
  repeat' first
    | with_reducible exact ChangesOnly.refl _ _
    | with_reducible assumption
    | decide
    | with_reducible refine ChangesOnly.modFld _ ?_ ?_
    | with_reducible refine openAbort_changes ?_ ?_
    | with_reducible refine abortWhere_changes ?_ ?_
    | with_reducible refine ChangesOnly.ite_any ?_ ?_
    | split

theorem ueAt_changes {t off : Nat} {scrub inj : Bool} {s : State} (h₀ : ChangesOnly parts start s)
    (h₁ : [.glb, .flt, .fatal, .attic, .bel, .swc, .fld, .cel, .crf, .bln, .host, .out] ⊆ parts) : ChangesOnly parts start (ueAt t off scrub inj s) := by
  refine h₀.step ?_ h₁
  unfold ueAt
  try dsimp only
  repeat' first
    | with_reducible exact ChangesOnly.refl _ _
    | with_reducible assumption
    | decide
    | exact .inr (by decide)
    | exact .inl rfl
    | with_reducible refine ChangesOnly.modCel _ ?_ ?_ ?_
    | with_reducible refine ChangesOnly.modTract _ _ ?_ ?_
    | with_reducible refine ChangesOnly.modPage _ _ _ ?_ ?_
    | with_reducible refine recordFault_changes ?_ ?_
    | with_reducible refine repairFor_changes ?_ ?_
    | with_reducible refine fenceTract_changes ?_ ?_
    | with_reducible refine mirrorDamaged_changes ?_ ?_
    | with_reducible refine retentionUe_changes ?_ ?_
    | with_reducible refine ChangesOnly.ite_any ?_ ?_
    | split
    | (left; (try dsimp only); (repeat' split) <;> rfl)

theorem readStack_changes {t off n : Nat} {s : State} (h₀ : ChangesOnly parts start s)
    (h₁ : [.glb, .flt, .fatal, .attic, .bel, .swc, .fld, .cel, .crf, .bln, .host, .out] ⊆ parts) : ChangesOnly parts start ((readStack t off n s)).2 := by
  refine h₀.step ?_ h₁
  unfold readStack
  try dsimp only
  repeat' first
    | with_reducible exact ChangesOnly.refl _ _
    | with_reducible assumption
    | decide
    | dsimp only
    | with_reducible refine cellRead_changes ?_ ?_
    | with_reducible refine ueAt_changes ?_ ?_
    | with_reducible refine ChangesOnly.ite_any ?_ ?_
    | with_reducible refine ChangesOnly.ite_snd ?_ ?_
    | split
    | (rename _ = (_, _) => hq; have e := congrArg Prod.snd hq; dsimp only at e; subst e; clear hq)

theorem ueCmd_changes {t a : Nat} {s : State} (h₀ : ChangesOnly parts start s)
    (h₁ : [.glb, .flt, .fatal, .attic, .bel, .shapers, .gates, .swc, .rte, .fld, .cel, .crf, .bln, .host, .inbox, .out] ⊆ parts) : ChangesOnly parts start (ueCmd t a s) := by
  refine h₀.step ?_ h₁
  unfold ueCmd
  try dsimp only
  repeat' first
    | with_reducible exact ChangesOnly.refl _ _
    | with_reducible assumption
    | decide
    | with_reducible refine settleCore_changes ?_ ?_
    | with_reducible refine ueAt_changes ?_ ?_
    | with_reducible refine ChangesOnly.ite_any ?_ ?_
    | split

theorem scrub_changes {t a : Nat} {found : WordCheck} {s : State} (h₀ : ChangesOnly parts start s)
    (h₁ : [.glb, .flt, .fatal, .attic, .bel, .shapers, .gates, .swc, .rte, .fld, .cel, .crf, .bln, .host, .inbox, .out] ⊆ parts) : ChangesOnly parts start (scrub t a found s) := by
  refine h₀.step ?_ h₁
  unfold scrub
  try dsimp only
  repeat' first
    | with_reducible exact ChangesOnly.refl _ _
    | with_reducible assumption
    | decide
    | with_reducible refine settleCore_changes ?_ ?_
    | with_reducible refine correctedError_changes ?_ ?_
    | with_reducible refine freshWord_changes ?_ ?_
    | with_reducible refine ueAt_changes ?_ ?_
    | with_reducible refine ChangesOnly.ite_any ?_ ?_
    | split

theorem channelLost_changes {t : Nat} {pc : Option Nat} {s : State} (h₀ : ChangesOnly parts start s)
    (h₁ : [.glb, .flt, .fatal, .attic, .bel, .shapers, .gates, .swc, .rte, .fld, .cel, .crf, .bln, .host, .inbox, .out] ⊆ parts) : ChangesOnly parts start (channelLost t pc s) := by
  refine h₀.step ?_ h₁
  unfold channelLost
  try dsimp only
  repeat' first
    | with_reducible exact ChangesOnly.refl _ _
    | with_reducible assumption
    | decide
    | with_reducible refine recordFault_changes ?_ ?_
    | with_reducible refine settleCore_changes ?_ ?_
    | with_reducible refine fenceTract_changes ?_ ?_
    | with_reducible refine ChangesOnly.ite_any ?_ ?_
    | split

theorem quiesceStart_changes {t : Nat} {s : State} (h₀ : ChangesOnly parts start s)
    (h₁ : [.glb, .gt, .clock, .shapers, .cel, .thm] ⊆ parts) : ChangesOnly parts start (quiesceStart t s) := by
  refine h₀.step ?_ h₁
  unfold quiesceStart
  try dsimp only
  repeat' first
    | with_reducible exact ChangesOnly.refl _ _
    | with_reducible assumption
    | decide
    | with_reducible refine ChangesOnly.modTract _ _ ?_ ?_
    | with_reducible refine advanceTo_changes ?_ ?_
    | with_reducible refine ChangesOnly.ite_any ?_ ?_
    | split

end Sys2Proof.Machine
end

