-- ==== Sys2Proof/Laws/FrameMirror.lean ====
section
/-! SUPPORT. Laws/FrameMirror.lean: what the operations of mirrors change: each adds its own parts, named in its second
hypothesis, to what a chain has changed so far. -/

set_option linter.all false
set_option maxRecDepth 8000

namespace Sys2Proof.Machine

variable {parts : List Part} {start : State}

theorem writeStream_changes {t : Nat} {chain : List Nat} {g : Geometry} {off : Nat} {data : Bytes} {s : State} (h₀ : ChangesOnly parts start s)
    (h₁ : [.glb, .flt, .fatal, .attic, .bel, .cel, .mem, .bln, .host, .out] ⊆ parts) : ChangesOnly parts start (writeStream t chain g off data s) := by
  refine h₀.step ?_ h₁
  unfold writeStream
  try dsimp only
  repeat' first
    | with_reducible exact ChangesOnly.refl _ _
    | with_reducible assumption
    | decide
    | dsimp only
    | with_reducible refine cellWrite_changes ?_ ?_
    | with_reducible refine ChangesOnly.foldl _ ?_ (fun _ _ _ => ?_)
    | with_reducible refine ChangesOnly.foldl_snd _ ?_ (fun _ _ _ => ?_)

theorem readStream_changes {t : Nat} {chain : List Nat} {g : Geometry} {off n : Nat} {s : State} (h₀ : ChangesOnly parts start s)
    (h₁ : [.glb, .flt, .fatal, .attic, .bel, .swc, .fld, .cel, .crf, .bln, .host, .out] ⊆ parts) : ChangesOnly parts start ((readStream t chain g off n s)).2 := by
  refine h₀.step ?_ h₁
  unfold readStream
  try dsimp only
  repeat' first
    | with_reducible exact ChangesOnly.refl _ _
    | with_reducible assumption
    | decide
    | dsimp only
    | with_reducible refine readStack_changes ?_ ?_
    | with_reducible refine ChangesOnly.foldl _ ?_ (fun _ _ _ => ?_)
    | with_reducible refine ChangesOnly.foldl_snd _ ?_ (fun _ _ _ => ?_)
    | split
    | (rename _ = (_, _) => hq; have e := congrArg Prod.snd hq; dsimp only at e; subst e; clear hq)

theorem setFill_changes {t : Nat} {chain : List Nat} {g : Geometry} {n : Nat} {s : State} (h₀ : ChangesOnly parts start s)
    (h₁ : [.cel] ⊆ parts) : ChangesOnly parts start (setFill t chain g n s) := by
  refine h₀.step ?_ h₁
  unfold setFill
  try dsimp only
  repeat' first
    | with_reducible exact ChangesOnly.refl _ _
    | with_reducible assumption
    | decide
    | with_reducible refine ChangesOnly.modPage _ _ _ ?_ ?_
    | with_reducible refine ChangesOnly.foldl _ ?_ (fun _ _ _ => ?_)

theorem growStream_changes {t sid layer : Nat} {mirror : Bool} {off : Nat} {data : Bytes} {s : State} (h₀ : ChangesOnly parts start s)
    (h₁ : [.glb, .flt, .fatal, .attic, .bel, .cel, .mem, .bln, .host, .out] ⊆ parts) : ChangesOnly parts start ((growStream t sid layer mirror off data s)).2 := by
  refine h₀.step ?_ h₁
  unfold growStream
  try dsimp only
  repeat' first
    | with_reducible exact ChangesOnly.refl _ _
    | with_reducible assumption
    | decide
    | dsimp only
    | with_reducible refine State.modSess_changes ?_ ?_
    | with_reducible refine stkAlloc_changes ?_ ?_
    | with_reducible refine writeStream_changes ?_ ?_
    | with_reducible refine setFill_changes ?_ ?_
    | with_reducible refine ChangesOnly.ite_any ?_ ?_
    | with_reducible refine ChangesOnly.ite_snd ?_ ?_
    | split
    | (rename _ = (_, _) => hq; have e := congrArg Prod.snd hq; dsimp only at e; subst e; clear hq)

theorem graftRun_changes {t sid pfx : Nat} {s : State} (h₀ : ChangesOnly parts start s)
    (h₁ : [.cel] ⊆ parts) : ChangesOnly parts start ((graftRun t sid pfx s)).2.2 := by
  refine h₀.step ?_ h₁
  unfold graftRun
  try dsimp only
  repeat' first
    | with_reducible exact ChangesOnly.refl _ _
    | with_reducible assumption
    | decide
    | dsimp only
    | with_reducible refine State.modSess_changes ?_ ?_
    | with_reducible refine stkShare_changes ?_ ?_
    | with_reducible refine stkAddOwner_changes ?_ ?_
    | with_reducible refine ChangesOnly.ite_any ?_ ?_
    | with_reducible refine ChangesOnly.ite_snd ?_ ?_
    | split
    | (rename _ = (_, _) => hq; have e := congrArg Prod.snd hq; dsimp only at e; subst e; clear hq)

theorem releaseRun_changes {t sid pfx : Nat} {s : State} (h₀ : ChangesOnly parts start s)
    (h₁ : [.glb, .flt, .fatal, .attic, .bel, .cel, .bln, .host, .out] ⊆ parts) : ChangesOnly parts start ((releaseRun t sid pfx s)).2 := by
  refine h₀.step ?_ h₁
  unfold releaseRun
  try dsimp only
  repeat' first
    | with_reducible exact ChangesOnly.refl _ _
    | with_reducible assumption
    | decide
    | dsimp only
    | with_reducible refine State.modSess_changes ?_ ?_
    | with_reducible refine stkRelease_changes ?_ ?_
    | with_reducible refine ChangesOnly.ite_any ?_ ?_
    | with_reducible refine ChangesOnly.ite_snd ?_ ?_
    | split
    | (rename _ = (_, _) => hq; have e := congrArg Prod.snd hq; dsimp only at e; subst e; clear hq)

theorem closeSession_changes {t sid : Nat} {s : State} (h₀ : ChangesOnly parts start s)
    (h₁ : [.cel] ⊆ parts) : ChangesOnly parts start (closeSession t sid s) := by
  refine h₀.step ?_ h₁
  unfold closeSession
  try dsimp only
  repeat' first
    | with_reducible exact ChangesOnly.refl _ _
    | with_reducible assumption
    | decide
    | with_reducible refine ChangesOnly.modTract _ _ ?_ ?_
    | with_reducible refine State.modSess_changes ?_ ?_

theorem putCopy_changes {t dev : Nat} {p : Packet} {s : State} (h₀ : ChangesOnly parts start s)
    (h₁ : [.swc, .cel] ⊆ parts) : ChangesOnly parts start (putCopy t dev p s) := by
  refine h₀.step ?_ h₁
  unfold putCopy
  try dsimp only
  repeat' first
    | with_reducible exact ChangesOnly.refl _ _
    | with_reducible assumption
    | decide
    | with_reducible refine ChangesOnly.modTract _ _ ?_ ?_
    | with_reducible refine inject_changes ?_ ?_

theorem sendCopy_changes {t sid op layer off aux : Nat} {data : Bytes} {s : State} (h₀ : ChangesOnly parts start s)
    (h₁ : [.swc, .cel] ⊆ parts) : ChangesOnly parts start (sendCopy t sid op layer off aux data s) := by
  refine h₀.step ?_ h₁
  unfold sendCopy
  try dsimp only
  repeat' first
    | with_reducible exact ChangesOnly.refl _ _
    | with_reducible assumption
    | decide
    | with_reducible refine ChangesOnly.modTract _ _ ?_ ?_
    | with_reducible refine State.modSess_changes ?_ ?_
    | with_reducible refine putCopy_changes ?_ ?_
    | with_reducible refine ChangesOnly.ite_any ?_ ?_
    | split

theorem sendData_changes {t sid layer off : Nat} {data : Bytes} {s : State} (h₀ : ChangesOnly parts start s)
    (h₁ : [.swc, .cel] ⊆ parts) : ChangesOnly parts start (sendData t sid layer off data s) := by
  refine h₀.step ?_ h₁
  unfold sendData
  try dsimp only
  repeat' first
    | with_reducible exact ChangesOnly.refl _ _
    | with_reducible assumption
    | decide
    | with_reducible refine sendCopy_changes ?_ ?_
    | with_reducible refine ChangesOnly.foldl _ ?_ (fun _ _ _ => ?_)

theorem drainHeld_changes {t dev : Nat} {k : Nat} {s : State} (h₀ : ChangesOnly parts start s)
    (h₁ : [.swc, .cel] ⊆ parts) : ChangesOnly parts start (drainHeld t dev k s) := by
  refine h₀.step ?_ h₁
  clear h₀ h₁
  revert s
  induction k with
  | zero => intro s; exact ChangesOnly.refl _ _
  | succ k ih =>
    intro s
    unfold drainHeld
    try dsimp only
    repeat' first
      | with_reducible exact ChangesOnly.refl _ _
      | with_reducible assumption
      | with_reducible refine ChangesOnly.trans ?_ ih
      | decide
      | with_reducible refine ChangesOnly.modTract _ _ ?_ ?_
      | with_reducible refine putCopy_changes ?_ ?_
      | with_reducible refine ChangesOnly.ite_any ?_ ?_
      | split

theorem releaseHeldResponses_changes {t : Nat} {c : HeldResp → Bool} {f : Packet → Packet} {s : State} (h₀ : ChangesOnly parts start s)
    (h₁ : [.swc, .ats] ⊆ parts) : ChangesOnly parts start (releaseHeldResponses t c f s) := by
  refine h₀.step ?_ h₁
  unfold releaseHeldResponses
  try dsimp only
  repeat' first
    | with_reducible exact ChangesOnly.refl _ _
    | with_reducible assumption
    | decide
    | with_reducible refine ChangesOnly.modAts _ ?_ ?_
    | with_reducible refine ChangesOnly.modAtsTract _ _ ?_ ?_
    | with_reducible refine inject_changes ?_ ?_
    | with_reducible refine ChangesOnly.foldl _ ?_ (fun _ _ _ => ?_)

theorem breakMirror_changes {t sid : Nat} {s : State} (h₀ : ChangesOnly parts start s)
    (h₁ : [.glb, .flt, .fatal, .attic, .bel, .swc, .cel, .ats, .bln, .host, .out] ⊆ parts) : ChangesOnly parts start (breakMirror t sid s) := by
  refine h₀.step ?_ h₁
  unfold breakMirror
  try dsimp only
  repeat' first
    | with_reducible exact ChangesOnly.refl _ _
    | with_reducible assumption
    | decide
    | exact .inr (by decide)
    | exact .inl rfl
    | with_reducible refine ChangesOnly.modCel _ ?_ ?_ ?_
    | with_reducible refine ChangesOnly.modTract _ _ ?_ ?_
    | with_reducible refine recordFault_changes ?_ ?_
    | with_reducible refine State.modSess_changes ?_ ?_
    | with_reducible refine drainHeld_changes ?_ ?_
    | with_reducible refine releaseHeldResponses_changes ?_ ?_
    | with_reducible refine ChangesOnly.ite_any ?_ ?_
    | split
    | (left; (try dsimp only); (repeat' split) <;> rfl)

theorem mirrorAck_changes {p : Packet} {s : State} (h₀ : ChangesOnly parts start s)
    (h₁ : [.swc, .cel, .ats] ⊆ parts) : ChangesOnly parts start (mirrorAck p s) := by
  refine h₀.step ?_ h₁
  unfold mirrorAck
  try dsimp only
  repeat' first
    | with_reducible exact ChangesOnly.refl _ _
    | with_reducible assumption
    | decide
    | with_reducible refine ChangesOnly.modTract _ _ ?_ ?_
    | with_reducible refine State.modSess_changes ?_ ?_
    | with_reducible refine drainHeld_changes ?_ ?_
    | with_reducible refine releaseHeldResponses_changes ?_ ?_

theorem mirrorBreakIn_changes {p : Packet} {s : State} (h₀ : ChangesOnly parts start s)
    (h₁ : [.glb, .flt, .fatal, .attic, .bel, .swc, .cel, .ats, .bln, .host, .out] ⊆ parts) : ChangesOnly parts start (mirrorBreakIn p s) := by
  refine h₀.step ?_ h₁
  unfold mirrorBreakIn
  try dsimp only
  repeat' first
    | with_reducible exact ChangesOnly.refl _ _
    | with_reducible assumption
    | decide
    | with_reducible refine breakMirror_changes ?_ ?_

theorem mirrorFetchData_changes {p : Packet} {s : State} (h₀ : ChangesOnly parts start s)
    (h₁ : [.glb, .flt, .fatal, .attic, .bel, .cel, .mem, .bln, .host, .out] ⊆ parts) : ChangesOnly parts start (mirrorFetchData p s) := by
  refine h₀.step ?_ h₁
  unfold mirrorFetchData
  try dsimp only
  repeat' first
    | with_reducible exact ChangesOnly.refl _ _
    | with_reducible assumption
    | decide
    | with_reducible refine ChangesOnly.modPage _ _ _ ?_ ?_
    | with_reducible refine writeStream_changes ?_ ?_
    | with_reducible refine ChangesOnly.ite_any ?_ ?_
    | split

theorem mirrorWaitExpire_changes {t sid : Nat} {s : State} (h₀ : ChangesOnly parts start s)
    (h₁ : [.glb, .flt, .fatal, .attic, .bel, .gt, .clock, .shapers, .swc, .cel, .ats, .bln, .thm, .host, .out] ⊆ parts) : ChangesOnly parts start (mirrorWaitExpire t sid s) := by
  refine h₀.step ?_ h₁
  unfold mirrorWaitExpire
  try dsimp only
  repeat' first
    | with_reducible exact ChangesOnly.refl _ _
    | with_reducible assumption
    | decide
    | with_reducible refine advanceTo_changes ?_ ?_
    | with_reducible refine releaseHeldResponses_changes ?_ ?_
    | with_reducible refine breakMirror_changes ?_ ?_
    | split

theorem rejectMirror_changes {s : State} (h₀ : ChangesOnly parts start s)
    (h₁ : [.cel] ⊆ parts) : ChangesOnly parts start (rejectMirror s) := by
  refine h₀.step ?_ h₁
  unfold rejectMirror
  try dsimp only
  repeat' first
    | with_reducible exact ChangesOnly.refl _ _
    | with_reducible assumption
    | decide
    | exact .inr (by decide)
    | exact .inl rfl
    | with_reducible refine ChangesOnly.modCel _ ?_ ?_ ?_

theorem ackMirror_changes {t sid : Nat} {s : State} (h₀ : ChangesOnly parts start s)
    (h₁ : [.swc] ⊆ parts) : ChangesOnly parts start (ackMirror t sid s) := by
  refine h₀.step ?_ h₁
  unfold ackMirror
  try dsimp only
  repeat' first
    | with_reducible exact ChangesOnly.refl _ _
    | with_reducible assumption
    | decide
    | with_reducible refine sendMirror_changes ?_ ?_
    | split

theorem freeGeometry_changes {s : State} (h₀ : ChangesOnly parts start s)
    (h₁ : [.draws] ⊆ parts) : ChangesOnly parts start ((freeGeometry s)).2 := by
  refine h₀.step ?_ h₁
  unfold freeGeometry
  try dsimp only
  repeat' first
    | with_reducible exact ChangesOnly.refl _ _
    | with_reducible assumption
    | decide
    | dsimp only
    | with_reducible refine ChangesOnly.drawn ?_ ?_
    | with_reducible refine ChangesOnly.drawnBytes _ ?_ ?_
    | with_reducible refine ChangesOnly.skip _ ?_ ?_

theorem applyCopy_changes {t sid : Nat} {p : Packet} {s : State} (h₀ : ChangesOnly parts start s)
    (h₁ : [.glb, .flt, .fatal, .attic, .bel, .swc, .cel, .mem, .bln, .host, .out] ⊆ parts) : ChangesOnly parts start (applyCopy t sid p s) := by
  refine h₀.step ?_ h₁
  unfold applyCopy
  try dsimp only
  repeat' first
    | with_reducible exact ChangesOnly.refl _ _
    | with_reducible assumption
    | decide
    | dsimp only
    | with_reducible refine partnerBreak_changes ?_ ?_
    | with_reducible refine growStream_changes ?_ ?_
    | with_reducible refine graftRun_changes ?_ ?_
    | with_reducible refine releaseRun_changes ?_ ?_
    | with_reducible refine closeSession_changes ?_ ?_
    | with_reducible refine ChangesOnly.ite_any ?_ ?_
    | with_reducible refine ChangesOnly.ite_snd ?_ ?_
    | split
    | (rename _ = (_, _) => hq; have e := congrArg Prod.snd hq; dsimp only at e; subst e; clear hq)

theorem applyInOrder_changes {t sid : Nat} {k : Nat} {s : State} (h₀ : ChangesOnly parts start s)
    (h₁ : [.glb, .flt, .fatal, .attic, .bel, .swc, .cel, .mem, .bln, .host, .out] ⊆ parts) : ChangesOnly parts start (applyInOrder t sid k s) := by
  refine h₀.step ?_ h₁
  clear h₀ h₁
  revert s
  induction k with
  | zero => intro s; exact ChangesOnly.refl _ _
  | succ k ih =>
    intro s
    unfold applyInOrder
    try dsimp only
    repeat' first
      | with_reducible exact ChangesOnly.refl _ _
      | with_reducible assumption
      | with_reducible refine ChangesOnly.trans ?_ ih
      | decide
      | with_reducible refine State.modSess_changes ?_ ?_
      | with_reducible refine applyCopy_changes ?_ ?_
      | with_reducible refine ChangesOnly.ite_any ?_ ?_
      | split

theorem takeCopy_changes {p : Packet} {s : State} (h₀ : ChangesOnly parts start s)
    (h₁ : [.glb, .flt, .fatal, .attic, .bel, .swc, .cel, .mem, .bln, .host, .out] ⊆ parts) : ChangesOnly parts start (takeCopy p s) := by
  refine h₀.step ?_ h₁
  unfold takeCopy
  try dsimp only
  repeat' first
    | with_reducible exact ChangesOnly.refl _ _
    | with_reducible assumption
    | decide
    | with_reducible refine ChangesOnly.modTract _ _ ?_ ?_
    | with_reducible refine State.modSess_changes ?_ ?_
    | with_reducible refine rejectMirror_changes ?_ ?_
    | with_reducible refine ackMirror_changes ?_ ?_
    | with_reducible refine applyInOrder_changes ?_ ?_
    | with_reducible refine ChangesOnly.ite_any ?_ ?_
    | split

theorem applyOpen_changes {p : Packet} {s : State} (h₀ : ChangesOnly parts start s)
    (h₁ : [.glb, .flt, .fatal, .attic, .bel, .swc, .cel, .mem, .bln, .host, .out, .draws] ⊆ parts) : ChangesOnly parts start (applyOpen p s) := by
  refine h₀.step ?_ h₁
  unfold applyOpen
  try dsimp only
  repeat' first
    | with_reducible exact ChangesOnly.refl _ _
    | with_reducible assumption
    | decide
    | dsimp only
    | with_reducible refine ChangesOnly.modTract _ _ ?_ ?_
    | with_reducible refine sendMirror_changes ?_ ?_
    | with_reducible refine rejectMirror_changes ?_ ?_
    | with_reducible refine ackMirror_changes ?_ ?_
    | with_reducible refine freeGeometry_changes ?_ ?_
    | with_reducible refine takeCopy_changes ?_ ?_
    | with_reducible refine ChangesOnly.foldl _ ?_ (fun _ _ _ => ?_)
    | with_reducible refine ChangesOnly.foldl_snd _ ?_ (fun _ _ _ => ?_)
    | with_reducible refine ChangesOnly.ite_any ?_ ?_
    | with_reducible refine ChangesOnly.ite_snd ?_ ?_
    | split
    | (rename _ = (_, _) => hq; have e := congrArg Prod.snd hq; dsimp only at e; subst e; clear hq)

theorem answerFetch_changes {p : Packet} {s : State} (h₀ : ChangesOnly parts start s)
    (h₁ : [.glb, .flt, .fatal, .attic, .bel, .swc, .fld, .cel, .crf, .bln, .host, .out] ⊆ parts) : ChangesOnly parts start (answerFetch p s) := by
  refine h₀.step ?_ h₁
  unfold answerFetch
  try dsimp only
  repeat' first
    | with_reducible exact ChangesOnly.refl _ _
    | with_reducible assumption
    | decide
    | dsimp only
    | with_reducible refine sendMirror_changes ?_ ?_
    | with_reducible refine readStream_changes ?_ ?_
    | with_reducible refine rejectMirror_changes ?_ ?_
    | with_reducible refine ChangesOnly.foldl _ ?_ (fun _ _ _ => ?_)
    | with_reducible refine ChangesOnly.foldl_snd _ ?_ (fun _ _ _ => ?_)
    | with_reducible refine ChangesOnly.ite_any ?_ ?_
    | with_reducible refine ChangesOnly.ite_snd ?_ ?_
    | split
    | (rename _ = (_, _) => hq; have e := congrArg Prod.snd hq; dsimp only at e; subst e; clear hq)

theorem fromPrimary_changes {p : Packet} {s : State} (h₀ : ChangesOnly parts start s)
    (h₁ : [.glb, .flt, .fatal, .attic, .bel, .swc, .fld, .cel, .mem, .crf, .bln, .host, .out, .draws] ⊆ parts) : ChangesOnly parts start (fromPrimary p s) := by
  refine h₀.step ?_ h₁
  unfold fromPrimary
  try dsimp only
  repeat' first
    | with_reducible exact ChangesOnly.refl _ _
    | with_reducible assumption
    | decide
    | with_reducible refine takeCopy_changes ?_ ?_
    | with_reducible refine applyOpen_changes ?_ ?_
    | with_reducible refine answerFetch_changes ?_ ?_
    | with_reducible refine ChangesOnly.ite_any ?_ ?_
    | split

theorem mirrorGapTimeout_changes {t sid : Nat} {s : State} (h₀ : ChangesOnly parts start s)
    (h₁ : [.glb, .flt, .fatal, .attic, .bel, .gt, .clock, .shapers, .swc, .cel, .bln, .thm, .host, .out] ⊆ parts) : ChangesOnly parts start (mirrorGapTimeout t sid s) := by
  refine h₀.step ?_ h₁
  unfold mirrorGapTimeout
  try dsimp only
  repeat' first
    | with_reducible exact ChangesOnly.refl _ _
    | with_reducible assumption
    | decide
    | with_reducible refine ChangesOnly.modTract _ _ ?_ ?_
    | with_reducible refine advanceTo_changes ?_ ?_
    | with_reducible refine sendMirror_changes ?_ ?_
    | with_reducible refine partnerBreak_changes ?_ ?_
    | with_reducible refine ChangesOnly.ite_any ?_ ?_
    | split

theorem mirrorPromote_changes {s : State} (h₀ : ChangesOnly parts start s)
    (h₁ : [.glb, .gt, .clock, .shapers, .cel, .thm] ⊆ parts) : ChangesOnly parts start (mirrorPromote s) := by
  refine h₀.step ?_ h₁
  unfold mirrorPromote
  try dsimp only
  repeat' first
    | with_reducible exact ChangesOnly.refl _ _
    | with_reducible assumption
    | decide
    | exact .inr (by decide)
    | exact .inl rfl
    | with_reducible refine ChangesOnly.modCel _ ?_ ?_ ?_
    | with_reducible refine ChangesOnly.modTract _ _ ?_ ?_
    | with_reducible refine advanceTo_changes ?_ ?_
    | with_reducible refine ChangesOnly.foldl _ ?_ (fun _ _ _ => ?_)
    | with_reducible refine ChangesOnly.ite_any ?_ ?_
    | split
    | (left; (try dsimp only); (repeat' split) <;> rfl)

theorem fallBehind_changes {t n : Nat} {s : State} (h₀ : ChangesOnly parts start s)
    (h₁ : [.crf] ⊆ parts) : ChangesOnly parts start (fallBehind t n s) := by
  refine h₀.step ?_ h₁
  unfold fallBehind
  try dsimp only
  repeat' first
    | with_reducible exact ChangesOnly.refl _ _
    | with_reducible assumption
    | decide
    | with_reducible refine ChangesOnly.modCrf _ ?_ ?_
    | with_reducible refine ChangesOnly.ite_any ?_ ?_
    | split

theorem quiesceEnd_changes {t : Nat} {s : State} (h₀ : ChangesOnly parts start s)
    (h₁ : [.glb, .flt, .fatal, .attic, .bel, .gt, .clock, .shapers, .gates, .swc, .rte, .fld, .cel, .mem, .crf, .bln, .thm, .host, .inbox, .out, .draws] ⊆ parts) : ChangesOnly parts start (quiesceEnd t s) := by
  refine h₀.step ?_ h₁
  unfold quiesceEnd
  try dsimp only
  repeat' first
    | with_reducible exact ChangesOnly.refl _ _
    | with_reducible assumption
    | decide
    | with_reducible refine ChangesOnly.modTract _ _ ?_ ?_
    | with_reducible refine advanceTo_changes ?_ ?_
    | with_reducible refine settleCore_changes ?_ ?_
    | with_reducible refine fromPrimary_changes ?_ ?_
    | with_reducible refine fallBehind_changes ?_ ?_
    | with_reducible refine ChangesOnly.foldl _ ?_ (fun _ _ _ => ?_)
    | with_reducible refine ChangesOnly.ite_any ?_ ?_
    | split

theorem mirrorTakes_changes {op : Nat} {reply : Bool} {f : Packet → State → State} {p : Packet} {s : State} (h₀ : ChangesOnly parts start s)
    (h₁ : [.glb, .flt, .fatal, .attic, .bel, .shapers, .gates, .swc, .rte, .cel, .bln, .host, .inbox, .out] ⊆ parts)
    (hf : ∀ x0 t, ChangesOnly parts start t → ChangesOnly parts start (f x0 t)) : ChangesOnly parts start (mirrorTakes op reply f p s) := by
  unfold mirrorTakes
  try dsimp only
  repeat' first
    | with_reducible assumption
    | with_reducible exact h₀
    | with_reducible refine hf _ _ ?_
    | exact List.Subset.trans (by decide) h₁
    | exact h₁ (by decide)
    | with_reducible refine ChangesOnly.modTract _ _ ?_ ?_
    | with_reducible refine settleCore_changes ?_ ?_
    | with_reducible refine takeInbox_changes ?_ ?_
    | with_reducible refine rejectMirror_changes ?_ ?_
    | with_reducible refine ChangesOnly.ite_any ?_ ?_
    | split

theorem promoteRequest_changes {index : Nat} {s : State} (h₀ : ChangesOnly parts start s)
    (h₁ : [.cel] ⊆ parts) : ChangesOnly parts start (promoteRequest index s) := by
  refine h₀.step ?_ h₁
  unfold promoteRequest
  try dsimp only
  repeat' first
    | with_reducible exact ChangesOnly.refl _ _
    | with_reducible assumption
    | decide
    | exact .inr (by decide)
    | exact .inl rfl
    | with_reducible refine ChangesOnly.modCel _ ?_ ?_ ?_

end Sys2Proof.Machine
end

