-- ==== Sys2Proof/Laws/FrameAttention.lean ====
section
/-! SUPPORT. Laws/FrameAttention.lean: what the operations of attention change: each adds its own parts, named in its second
hypothesis, to what a chain has changed so far. -/

set_option linter.all false
set_option maxRecDepth 8000

namespace Sys2Proof.Machine

variable {parts : List Part} {start : State}

theorem countReply_changes {t : Nat} {r : Reply} {s : State} (h₀ : ChangesOnly parts start s)
    (h₁ : [.ats] ⊆ parts) : ChangesOnly parts start (countReply t r s) := by
  refine h₀.step ?_ h₁
  unfold countReply
  try dsimp only
  repeat' first
    | with_reducible exact ChangesOnly.refl _ _
    | with_reducible assumption
    | decide
    | with_reducible refine ChangesOnly.modAts _ ?_ ?_
    | with_reducible refine ChangesOnly.modAtsTract _ _ ?_ ?_
    | with_reducible refine ChangesOnly.ite_any ?_ ?_
    | split

theorem refuse_changes {t : Nat} {key : MsgKey} {slot : Nat} {hdr : Packet} {r : Reply} {s : State} (h₀ : ChangesOnly parts start s)
    (h₁ : [.glb, .flt, .fatal, .attic, .bel, .swc, .ats, .bln, .host, .out] ⊆ parts) : ChangesOnly parts start (refuse t key slot hdr r s) := by
  refine h₀.step ?_ h₁
  unfold refuse
  try dsimp only
  repeat' first
    | with_reducible exact ChangesOnly.refl _ _
    | with_reducible assumption
    | decide
    | with_reducible refine ChangesOnly.modAts _ ?_ ?_
    | with_reducible refine ChangesOnly.modAtsTract _ _ ?_ ?_
    | with_reducible refine recordFault_changes ?_ ?_
    | with_reducible refine inject_changes ?_ ?_
    | with_reducible refine countReply_changes ?_ ?_
    | with_reducible refine ChangesOnly.foldl _ ?_ (fun _ _ _ => ?_)
    | with_reducible refine ChangesOnly.ite_any ?_ ?_
    | split

theorem State.modAsm_changes {t : Nat} {key : MsgKey} {f : Assembly → Assembly} {s : State} (h₀ : ChangesOnly parts start s)
    (h₁ : [.ats] ⊆ parts) : ChangesOnly parts start (State.modAsm t key f s) := by
  refine h₀.step ?_ h₁
  unfold State.modAsm
  try dsimp only
  repeat' first
    | with_reducible exact ChangesOnly.refl _ _
    | with_reducible assumption
    | decide
    | with_reducible refine ChangesOnly.modAts _ ?_ ?_
    | with_reducible refine ChangesOnly.modAtsTract _ _ ?_ ?_
    | with_reducible refine ChangesOnly.ite_any ?_ ?_
    | split

theorem State.dropAsm_changes {t : Nat} {key : MsgKey} {s : State} (h₀ : ChangesOnly parts start s)
    (h₁ : [.ats] ⊆ parts) : ChangesOnly parts start (State.dropAsm t key s) := by
  refine h₀.step ?_ h₁
  unfold State.dropAsm
  try dsimp only
  repeat' first
    | with_reducible exact ChangesOnly.refl _ _
    | with_reducible assumption
    | decide
    | with_reducible refine ChangesOnly.modAts _ ?_ ?_
    | with_reducible refine ChangesOnly.modAtsTract _ _ ?_ ?_

theorem countDisc_changes {s : State} (h₀ : ChangesOnly parts start s)
    (h₁ : [.ats] ⊆ parts) : ChangesOnly parts start (countDisc s) := by
  refine h₀.step ?_ h₁
  unfold countDisc
  try dsimp only
  repeat' first
    | with_reducible exact ChangesOnly.refl _ _
    | with_reducible assumption
    | decide
    | with_reducible refine ChangesOnly.modAts _ ?_ ?_

theorem assemblyPacket_changes {slot : Nat} {p : Packet} {s : State} (h₀ : ChangesOnly parts start s)
    (h₁ : [.glb, .flt, .fatal, .attic, .bel, .swc, .ats, .bln, .host, .out] ⊆ parts) : ChangesOnly parts start (assemblyPacket slot p s) := by
  refine h₀.step ?_ h₁
  unfold assemblyPacket
  try dsimp only
  repeat' first
    | with_reducible exact ChangesOnly.refl _ _
    | with_reducible assumption
    | decide
    | with_reducible refine ChangesOnly.modAts _ ?_ ?_
    | with_reducible refine ChangesOnly.modAtsTract _ _ ?_ ?_
    | with_reducible refine refuse_changes ?_ ?_
    | with_reducible refine State.modAsm_changes ?_ ?_
    | with_reducible refine State.dropAsm_changes ?_ ?_
    | with_reducible refine countDisc_changes ?_ ?_
    | with_reducible refine ChangesOnly.ite_any ?_ ?_
    | split

theorem assemblyTimeout_changes {t : Nat} {key : MsgKey} {s : State} (h₀ : ChangesOnly parts start s)
    (h₁ : [.glb, .flt, .fatal, .attic, .bel, .gt, .clock, .shapers, .swc, .ats, .bln, .thm, .host, .out] ⊆ parts) : ChangesOnly parts start (assemblyTimeout t key s) := by
  refine h₀.step ?_ h₁
  unfold assemblyTimeout
  try dsimp only
  repeat' first
    | with_reducible exact ChangesOnly.refl _ _
    | with_reducible assumption
    | decide
    | with_reducible refine ChangesOnly.modAts _ ?_ ?_
    | with_reducible refine advanceTo_changes ?_ ?_
    | with_reducible refine refuse_changes ?_ ?_
    | with_reducible refine State.dropAsm_changes ?_ ?_
    | with_reducible refine ChangesOnly.ite_any ?_ ?_
    | split

theorem rollMeters_changes {t : Nat} {s : State} (h₀ : ChangesOnly parts start s)
    (h₁ : [.ats] ⊆ parts) : ChangesOnly parts start (rollMeters t s) := by
  refine h₀.step ?_ h₁
  unfold rollMeters
  try dsimp only
  repeat' first
    | with_reducible exact ChangesOnly.refl _ _
    | with_reducible assumption
    | decide
    | with_reducible refine ChangesOnly.modAts _ ?_ ?_
    | with_reducible refine ChangesOnly.modAtsTract _ _ ?_ ?_
    | with_reducible refine ChangesOnly.ite_any ?_ ?_
    | split

theorem admitRequest_changes {type t : Nat} {key : MsgKey} {s : State} (h₀ : ChangesOnly parts start s)
    (h₁ : [.glb, .flt, .fatal, .attic, .bel, .swc, .ats, .bln, .host, .out] ⊆ parts) : ChangesOnly parts start (admitRequest type t key s) := by
  refine h₀.step ?_ h₁
  unfold admitRequest
  try dsimp only
  repeat' first
    | with_reducible exact ChangesOnly.refl _ _
    | with_reducible assumption
    | decide
    | with_reducible refine ChangesOnly.modAts _ ?_ ?_
    | with_reducible refine ChangesOnly.modAtsTract _ _ ?_ ?_
    | with_reducible refine closing_changes ?_ ?_
    | with_reducible refine refuse_changes ?_ ?_
    | with_reducible refine State.dropAsm_changes ?_ ?_
    | with_reducible refine rollMeters_changes ?_ ?_
    | with_reducible refine ChangesOnly.ite_any ?_ ?_
    | split

theorem readPage_changes {t page n pos : Nat} {g : Geometry} {s : State} (h₀ : ChangesOnly parts start s)
    (h₁ : [.glb, .flt, .fatal, .attic, .bel, .swc, .fld, .cel, .crf, .bln, .host, .out] ⊆ parts) : ChangesOnly parts start ((readPage t page n pos g s)).2 := by
  refine h₀.step ?_ h₁
  unfold readPage
  try dsimp only
  repeat' first
    | with_reducible exact ChangesOnly.refl _ _
    | with_reducible assumption
    | decide
    | dsimp only
    | with_reducible refine readStack_changes ?_ ?_
    | split
    | (rename _ = (_, _) => hq; have e := congrArg Prod.snd hq; dsimp only at e; subst e; clear hq)

theorem attendData_changes {t sid : Nat} {e : Sess} {q : AppendPart} {b : Bytes} {s : State} (h₀ : ChangesOnly parts start s)
    (h₁ : [.glb, .flt, .fatal, .attic, .bel, .swc, .fld, .cel, .crf, .bln, .host, .out] ⊆ parts) : ChangesOnly parts start ((attendData t sid e q b s)).2 := by
  refine h₀.step ?_ h₁
  unfold attendData
  try dsimp only
  repeat' first
    | with_reducible exact ChangesOnly.refl _ _
    | with_reducible assumption
    | decide
    | dsimp only
    | with_reducible refine readPage_changes ?_ ?_
    | with_reducible refine ChangesOnly.foldl _ ?_ (fun _ _ _ => ?_)
    | with_reducible refine ChangesOnly.foldl_snd _ ?_ (fun _ _ _ => ?_)
    | with_reducible refine ChangesOnly.ite_any ?_ ?_
    | with_reducible refine ChangesOnly.ite_snd ?_ ?_
    | split
    | (rename _ = (_, _) => hq; have e := congrArg Prod.snd hq; dsimp only at e; subst e; clear hq)

theorem doOpen_changes {t sid : Nat} {b : Bytes} {s : State} (h₀ : ChangesOnly parts start s)
    (h₁ : [.swc, .cel] ⊆ parts) : ChangesOnly parts start ((doOpen t sid b s)).2 := by
  refine h₀.step ?_ h₁
  unfold doOpen
  try dsimp only
  repeat' first
    | with_reducible exact ChangesOnly.refl _ _
    | with_reducible assumption
    | decide
    | dsimp only
    | with_reducible refine ChangesOnly.modTract _ _ ?_ ?_
    | with_reducible refine sendCopy_changes ?_ ?_
    | with_reducible refine ChangesOnly.ite_any ?_ ?_
    | with_reducible refine ChangesOnly.ite_snd ?_ ?_
    | split
    | (rename _ = (_, _) => hq; have e := congrArg Prod.snd hq; dsimp only at e; subst e; clear hq)

theorem doClose_changes {t sid : Nat} {e : Sess} {s : State} (h₀ : ChangesOnly parts start s)
    (h₁ : [.swc, .cel] ⊆ parts) : ChangesOnly parts start ((doClose t sid e s)).2 := by
  refine h₀.step ?_ h₁
  unfold doClose
  try dsimp only
  repeat' first
    | with_reducible exact ChangesOnly.refl _ _
    | with_reducible assumption
    | decide
    | dsimp only
    | with_reducible refine closeSession_changes ?_ ?_
    | with_reducible refine sendCopy_changes ?_ ?_
    | with_reducible refine ChangesOnly.ite_any ?_ ?_
    | with_reducible refine ChangesOnly.ite_snd ?_ ?_
    | split
    | (rename _ = (_, _) => hq; have e := congrArg Prod.snd hq; dsimp only at e; subst e; clear hq)

theorem doAppend_changes {t sid : Nat} {e : Sess} {type : Nat} {q : AppendPart} {b : Bytes} {s : State} (h₀ : ChangesOnly parts start s)
    (h₁ : [.glb, .flt, .fatal, .attic, .bel, .swc, .cel, .mem, .bln, .host, .out] ⊆ parts) : ChangesOnly parts start ((doAppend t sid e type q b s)).2 := by
  refine h₀.step ?_ h₁
  unfold doAppend
  try dsimp only
  repeat' first
    | with_reducible exact ChangesOnly.refl _ _
    | with_reducible assumption
    | decide
    | dsimp only
    | with_reducible refine growStream_changes ?_ ?_
    | with_reducible refine sendData_changes ?_ ?_
    | with_reducible refine ChangesOnly.ite_any ?_ ?_
    | with_reducible refine ChangesOnly.ite_snd ?_ ?_
    | split
    | (rename _ = (_, _) => hq; have e := congrArg Prod.snd hq; dsimp only at e; subst e; clear hq)

theorem doAttend_changes {t sid : Nat} {e : Sess} {hung : Bool} {b : Bytes} {s : State} (h₀ : ChangesOnly parts start s)
    (h₁ : [.glb, .flt, .fatal, .attic, .bel, .swc, .fld, .cel, .mem, .crf, .bln, .host, .out] ⊆ parts) : ChangesOnly parts start ((doAttend t sid e hung b s)).2 := by
  refine h₀.step ?_ h₁
  unfold doAttend
  try dsimp only
  repeat' first
    | with_reducible exact ChangesOnly.refl _ _
    | with_reducible assumption
    | decide
    | dsimp only
    | with_reducible refine attendData_changes ?_ ?_
    | with_reducible refine doAppend_changes ?_ ?_
    | with_reducible refine ChangesOnly.ite_any ?_ ?_
    | with_reducible refine ChangesOnly.ite_snd ?_ ?_
    | split
    | (rename _ = (_, _) => hq; have e := congrArg Prod.snd hq; dsimp only at e; subst e; clear hq)

theorem doGraft_changes {t sid : Nat} {e : Sess} {pfx : Nat} {s : State} (h₀ : ChangesOnly parts start s)
    (h₁ : [.swc, .cel] ⊆ parts) : ChangesOnly parts start ((doGraft t sid e pfx s)).2 := by
  refine h₀.step ?_ h₁
  unfold doGraft
  try dsimp only
  repeat' first
    | with_reducible exact ChangesOnly.refl _ _
    | with_reducible assumption
    | decide
    | dsimp only
    | with_reducible refine graftRun_changes ?_ ?_
    | with_reducible refine sendCopy_changes ?_ ?_
    | with_reducible refine ChangesOnly.ite_any ?_ ?_
    | with_reducible refine ChangesOnly.ite_snd ?_ ?_
    | split
    | (rename _ = (_, _) => hq; have e := congrArg Prod.snd hq; dsimp only at e; subst e; clear hq)

theorem doRelease_changes {t sid pfx : Nat} {s : State} (h₀ : ChangesOnly parts start s)
    (h₁ : [.glb, .flt, .fatal, .attic, .bel, .swc, .cel, .bln, .host, .out] ⊆ parts) : ChangesOnly parts start ((doRelease t sid pfx s)).2 := by
  refine h₀.step ?_ h₁
  unfold doRelease
  try dsimp only
  repeat' first
    | with_reducible exact ChangesOnly.refl _ _
    | with_reducible assumption
    | decide
    | dsimp only
    | with_reducible refine releaseRun_changes ?_ ?_
    | with_reducible refine sendCopy_changes ?_ ?_
    | with_reducible refine ChangesOnly.ite_any ?_ ?_
    | with_reducible refine ChangesOnly.ite_snd ?_ ?_
    | split
    | (rename _ = (_, _) => hq; have e := congrArg Prod.snd hq; dsimp only at e; subst e; clear hq)

theorem doRequest_changes {t : Nat} {r : Admitted} {hung : Bool} {s : State} (h₀ : ChangesOnly parts start s)
    (h₁ : [.glb, .flt, .fatal, .attic, .bel, .swc, .fld, .cel, .mem, .crf, .bln, .host, .out] ⊆ parts) : ChangesOnly parts start ((doRequest t r hung s)).2 := by
  refine h₀.step ?_ h₁
  unfold doRequest
  try dsimp only
  repeat' first
    | with_reducible exact ChangesOnly.refl _ _
    | with_reducible assumption
    | decide
    | dsimp only
    | with_reducible refine doOpen_changes ?_ ?_
    | with_reducible refine doClose_changes ?_ ?_
    | with_reducible refine doAppend_changes ?_ ?_
    | with_reducible refine doAttend_changes ?_ ?_
    | with_reducible refine doGraft_changes ?_ ?_
    | with_reducible refine doRelease_changes ?_ ?_
    | with_reducible refine ChangesOnly.ite_any ?_ ?_
    | with_reducible refine ChangesOnly.ite_snd ?_ ?_
    | split
    | (rename _ = (_, _) => hq; have e := congrArg Prod.snd hq; dsimp only at e; subst e; clear hq)

theorem answerRequest_changes {t : Nat} {hung : Bool} {r : Admitted} {s : State} (h₀ : ChangesOnly parts start s)
    (h₁ : [.glb, .flt, .fatal, .attic, .bel, .swc, .fld, .cel, .mem, .ats, .crf, .bln, .host, .out] ⊆ parts) : ChangesOnly parts start (answerRequest t hung r s) := by
  refine h₀.step ?_ h₁
  unfold answerRequest
  try dsimp only
  repeat' first
    | with_reducible exact ChangesOnly.refl _ _
    | with_reducible assumption
    | decide
    | dsimp only
    | with_reducible refine ChangesOnly.modAts _ ?_ ?_
    | with_reducible refine ChangesOnly.modAtsTract _ _ ?_ ?_
    | with_reducible refine inject_changes ?_ ?_
    | with_reducible refine countReply_changes ?_ ?_
    | with_reducible refine doRequest_changes ?_ ?_
    | with_reducible refine ChangesOnly.foldl _ ?_ (fun _ _ _ => ?_)
    | with_reducible refine ChangesOnly.foldl_snd _ ?_ (fun _ _ _ => ?_)
    | with_reducible refine ChangesOnly.ite_any ?_ ?_
    | with_reducible refine ChangesOnly.ite_snd ?_ ?_
    | split
    | (rename _ = (_, _) => hq; have e := congrArg Prod.snd hq; dsimp only at e; subst e; clear hq)

theorem takeBatch_changes {t : Nat} {s : State} (h₀ : ChangesOnly parts start s)
    (h₁ : [.ats] ⊆ parts) : ChangesOnly parts start ((takeBatch t s)).2 := by
  refine h₀.step ?_ h₁
  unfold takeBatch
  try dsimp only
  repeat' first
    | with_reducible exact ChangesOnly.refl _ _
    | with_reducible assumption
    | decide
    | dsimp only
    | with_reducible refine ChangesOnly.modAts _ ?_ ?_
    | with_reducible refine ChangesOnly.modAtsTract _ _ ?_ ?_
    | split
    | (rename _ = (_, _) => hq; have e := congrArg Prod.snd hq; dsimp only at e; subst e; clear hq)

theorem computeRequest_changes {t : Nat} {r : Admitted} {s : State} (h₀ : ChangesOnly parts start s)
    (h₁ : [.glb, .flt, .fatal, .attic, .bel, .swc, .fld, .cel, .mem, .ats, .crf, .bln, .host, .out, .draws] ⊆ parts) : ChangesOnly parts start (computeRequest t r s) := by
  refine h₀.step ?_ h₁
  unfold computeRequest
  try dsimp only
  repeat' first
    | with_reducible exact ChangesOnly.refl _ _
    | with_reducible assumption
    | decide
    | dsimp only
    | with_reducible refine ChangesOnly.drawn ?_ ?_
    | with_reducible refine ChangesOnly.drawnBytes _ ?_ ?_
    | with_reducible refine answerRequest_changes ?_ ?_
    | with_reducible refine ChangesOnly.ite_any ?_ ?_
    | with_reducible refine ChangesOnly.ite_snd ?_ ?_
    | split
    | (rename _ = (_, _) => hq; have e := congrArg Prod.snd hq; dsimp only at e; subst e; clear hq)

theorem attentionBatch_changes {t : Nat} {s : State} (h₀ : ChangesOnly parts start s)
    (h₁ : [.glb, .flt, .fatal, .attic, .bel, .gt, .clock, .shapers, .swc, .fld, .cel, .mem, .ats, .crf, .bln, .thm, .host, .out, .draws] ⊆ parts) : ChangesOnly parts start (attentionBatch t s) := by
  refine h₀.step ?_ h₁
  unfold attentionBatch
  try dsimp only
  repeat' first
    | with_reducible exact ChangesOnly.refl _ _
    | with_reducible assumption
    | decide
    | dsimp only
    | with_reducible refine advanceTo_changes ?_ ?_
    | with_reducible refine rollMeters_changes ?_ ?_
    | with_reducible refine takeBatch_changes ?_ ?_
    | with_reducible refine computeRequest_changes ?_ ?_
    | with_reducible refine ChangesOnly.foldl _ ?_ (fun _ _ _ => ?_)
    | with_reducible refine ChangesOnly.foldl_snd _ ?_ (fun _ _ _ => ?_)
    | split
    | (rename _ = (_, _) => hq; have e := congrArg Prod.snd hq; dsimp only at e; subst e; clear hq)

theorem reclaim_changes {t : Nat} {s : State} (h₀ : ChangesOnly parts start s)
    (h₁ : [.glb, .flt, .fatal, .attic, .bel, .cel, .bln, .host, .out] ⊆ parts) : ChangesOnly parts start (reclaim t s) := by
  refine h₀.step ?_ h₁
  unfold reclaim
  try dsimp only
  repeat' first
    | with_reducible exact ChangesOnly.refl _ _
    | with_reducible assumption
    | decide
    | with_reducible refine ChangesOnly.modTract _ _ ?_ ?_
    | with_reducible refine freeSession_changes ?_ ?_
    | with_reducible refine ChangesOnly.ite_any ?_ ?_
    | split

theorem batchLate_changes {t : Nat} {s : State} (h₀ : ChangesOnly parts start s)
    (h₁ : [.glb, .flt, .fatal, .attic, .bel, .gt, .clock, .shapers, .bln, .thm, .host, .out] ⊆ parts) : ChangesOnly parts start (batchLate t s) := by
  refine h₀.step ?_ h₁
  unfold batchLate
  try dsimp only
  repeat' first
    | with_reducible exact ChangesOnly.refl _ _
    | with_reducible assumption
    | decide
    | with_reducible refine advanceTo_changes ?_ ?_
    | with_reducible refine recordFault_changes ?_ ?_
    | split

theorem hangCroft_changes {k : Nat} {s : State} (h₀ : ChangesOnly parts start s)
    (h₁ : [.crf] ⊆ parts) : ChangesOnly parts start (hangCroft k s) := by
  refine h₀.step ?_ h₁
  unfold hangCroft
  try dsimp only
  repeat' first
    | with_reducible exact ChangesOnly.refl _ _
    | with_reducible assumption
    | decide
    | with_reducible refine ChangesOnly.modCroft _ _ ?_ ?_

theorem batchHung_changes {t : Nat} {crofts : List Nat} {s : State} (h₀ : ChangesOnly parts start s)
    (h₁ : [.glb, .flt, .fatal, .attic, .bel, .gt, .clock, .shapers, .swc, .fld, .cel, .mem, .ats, .crf, .bln, .thm, .host, .out] ⊆ parts) : ChangesOnly parts start (batchHung t crofts s) := by
  refine h₀.step ?_ h₁
  unfold batchHung
  try dsimp only
  repeat' first
    | with_reducible exact ChangesOnly.refl _ _
    | with_reducible assumption
    | decide
    | dsimp only
    | with_reducible refine advanceTo_changes ?_ ?_
    | with_reducible refine recordFault_changes ?_ ?_
    | with_reducible refine requestCapsule_changes ?_ ?_
    | with_reducible refine answerRequest_changes ?_ ?_
    | with_reducible refine takeBatch_changes ?_ ?_
    | with_reducible refine hangCroft_changes ?_ ?_
    | with_reducible refine ChangesOnly.foldl _ ?_ (fun _ _ _ => ?_)
    | with_reducible refine ChangesOnly.foldl_snd _ ?_ (fun _ _ _ => ?_)
    | split
    | (rename _ = (_, _) => hq; have e := congrArg Prod.snd hq; dsimp only at e; subst e; clear hq)

theorem request_changes {type t : Nat} {key : MsgKey} {s : State} (h₀ : ChangesOnly parts start s)
    (h₁ : [.glb, .flt, .fatal, .attic, .bel, .shapers, .gates, .swc, .rte, .ats, .bln, .host, .inbox, .out] ⊆ parts) : ChangesOnly parts start (request type t key s) := by
  refine h₀.step ?_ h₁
  unfold request
  try dsimp only
  repeat' first
    | with_reducible exact ChangesOnly.refl _ _
    | with_reducible assumption
    | decide
    | with_reducible refine settleCore_changes ?_ ?_
    | with_reducible refine admitRequest_changes ?_ ?_
    | with_reducible refine ChangesOnly.ite_any ?_ ?_
    | split

end Sys2Proof.Machine
end

