-- ==== Sys2Proof/Laws/FrameCrofts.lean ====
section
/-! SUPPORT. Laws/FrameCrofts.lean: what the operations of Crofts change: each adds its own parts, named in its second
hypothesis, to what a chain has changed so far. -/

set_option linter.all false
set_option maxRecDepth 8000

namespace Sys2Proof.Machine

variable {parts : List Part} {start : State}

theorem addFlag_changes {k i : Nat} {d : Int} {s : State} (h₀ : ChangesOnly parts start s)
    (h₁ : [.crf] ⊆ parts) : ChangesOnly parts start (addFlag k i d s) := by
  refine h₀.step ?_ h₁
  unfold addFlag
  try dsimp only
  repeat' first
    | with_reducible exact ChangesOnly.refl _ _
    | with_reducible assumption
    | decide
    | with_reducible refine ChangesOnly.modCroft _ _ ?_ ?_

theorem setFlag_changes {k i v : Nat} {s : State} (h₀ : ChangesOnly parts start s)
    (h₁ : [.crf] ⊆ parts) : ChangesOnly parts start (setFlag k i v s) := by
  refine h₀.step ?_ h₁
  unfold setFlag
  try dsimp only
  repeat' first
    | with_reducible exact ChangesOnly.refl _ _
    | with_reducible assumption
    | decide
    | with_reducible refine ChangesOnly.modCroft _ _ ?_ ?_

theorem addTflag_changes {t i : Nat} {d : Int} {s : State} (h₀ : ChangesOnly parts start s)
    (h₁ : [.crf] ⊆ parts) : ChangesOnly parts start (addTflag t i d s) := by
  refine h₀.step ?_ h₁
  unfold addTflag
  try dsimp only
  repeat' first
    | with_reducible exact ChangesOnly.refl _ _
    | with_reducible assumption
    | decide
    | with_reducible refine ChangesOnly.modCrf _ ?_ ?_

theorem signalWord_changes {k : Nat} {w : BitVec 256} {s : State} (h₀ : ChangesOnly parts start s)
    (h₁ : [.crf] ⊆ parts) : ChangesOnly parts start (signalWord k w s) := by
  refine h₀.step ?_ h₁
  unfold signalWord
  try dsimp only
  repeat' first
    | with_reducible exact ChangesOnly.refl _ _
    | with_reducible assumption
    | decide
    | with_reducible refine addFlag_changes ?_ ?_
    | with_reducible refine addTflag_changes ?_ ?_
    | with_reducible refine ChangesOnly.ite_any ?_ ?_
    | split

theorem eccMark_changes {k key : Nat} {s : State} (h₀ : ChangesOnly parts start s)
    (h₁ : [.flt, .crf] ⊆ parts) : ChangesOnly parts start (eccMark k key s) := by
  refine h₀.step ?_ h₁
  unfold eccMark
  try dsimp only
  repeat' first
    | with_reducible exact ChangesOnly.refl _ _
    | with_reducible assumption
    | decide
    | with_reducible refine ChangesOnly.modCroft _ _ ?_ ?_
    | with_reducible refine useInjection_changes ?_ ?_
    | with_reducible refine ChangesOnly.ite_any ?_ ?_
    | split

theorem pantryPut_changes {k a : Nat} {bs : Bytes} {s : State} (h₀ : ChangesOnly parts start s)
    (h₁ : [.flt, .crf] ⊆ parts) : ChangesOnly parts start (pantryPut k a bs s) := by
  refine h₀.step ?_ h₁
  unfold pantryPut
  try dsimp only
  repeat' first
    | with_reducible exact ChangesOnly.refl _ _
    | with_reducible assumption
    | decide
    | with_reducible refine ChangesOnly.modCroft _ _ ?_ ?_
    | with_reducible refine eccMark_changes ?_ ?_
    | with_reducible refine ChangesOnly.ite_any ?_ ?_
    | split

theorem storePut_changes {k i : Nat} {w : BitVec 256} {s : State} (h₀ : ChangesOnly parts start s)
    (h₁ : [.flt, .crf] ⊆ parts) : ChangesOnly parts start (storePut k i w s) := by
  refine h₀.step ?_ h₁
  unfold storePut
  try dsimp only
  repeat' first
    | with_reducible exact ChangesOnly.refl _ _
    | with_reducible assumption
    | decide
    | with_reducible refine ChangesOnly.modCroft _ _ ?_ ?_
    | with_reducible refine eccMark_changes ?_ ?_

theorem failWord_changes {k source access addr : Nat} {s : State} (h₀ : ChangesOnly parts start s)
    (h₁ : [.glb, .flt, .fatal, .attic, .bel, .crf, .bln, .host, .out] ⊆ parts) : ChangesOnly parts start (failWord k source access addr s) := by
  refine h₀.step ?_ h₁
  unfold failWord
  try dsimp only
  repeat' first
    | with_reducible exact ChangesOnly.refl _ _
    | with_reducible assumption
    | decide
    | with_reducible refine recordFault_changes ?_ ?_
    | with_reducible refine fenceCroft_changes ?_ ?_

theorem checkKeys_changes {k : Nat} {hit : Nat → Bool} {s : State} (h₀ : ChangesOnly parts start s)
    (h₁ : [.glb, .flt, .fatal, .attic, .bel, .crf, .bln, .host, .out] ⊆ parts) : ChangesOnly parts start ((checkKeys k hit s)).2 := by
  refine h₀.step ?_ h₁
  unfold checkKeys
  try dsimp only
  repeat' first
    | with_reducible exact ChangesOnly.refl _ _
    | with_reducible assumption
    | decide
    | dsimp only
    | with_reducible refine ChangesOnly.modCroft _ _ ?_ ?_
    | with_reducible refine recordFault_changes ?_ ?_
    | with_reducible refine failWord_changes ?_ ?_
    | with_reducible refine ChangesOnly.foldl _ ?_ (fun _ _ _ => ?_)
    | with_reducible refine ChangesOnly.foldl_snd _ ?_ (fun _ _ _ => ?_)
    | split
    | (rename _ = (_, _) => hq; have e := congrArg Prod.snd hq; dsimp only at e; subst e; clear hq)

theorem checkRanges_changes {k : Nat} {rs : List (Nat × Nat)} {s : State} (h₀ : ChangesOnly parts start s)
    (h₁ : [.glb, .flt, .fatal, .attic, .bel, .crf, .bln, .host, .out] ⊆ parts) : ChangesOnly parts start ((checkRanges k rs s)).2 := by
  refine h₀.step ?_ h₁
  unfold checkRanges
  try dsimp only
  repeat' first
    | with_reducible exact ChangesOnly.refl _ _
    | with_reducible assumption
    | decide
    | dsimp only
    | with_reducible refine checkKeys_changes ?_ ?_

theorem startWord_changes {c : Nat} {e : Engine} {op : Nat} {f : Nat → QWord → State → Bool × State} {s : State} (h₀ : ChangesOnly parts start s)
    (h₁ : [.crf] ⊆ parts)
    (hf : ∀ x0 x1 t, ChangesOnly parts start t → ChangesOnly parts start (f x0 x1 t).2) : ChangesOnly parts start (startWord c e op f s) := by
  unfold startWord
  try dsimp only
  repeat' first
    | with_reducible assumption
    | with_reducible exact h₀
    | with_reducible refine hf _ _ _ ?_
    | exact List.Subset.trans (by decide) h₁
    | exact h₁ (by decide)
    | dsimp only
    | with_reducible refine ChangesOnly.modCroft _ _ ?_ ?_
    | with_reducible refine ChangesOnly.ite_any ?_ ?_
    | with_reducible refine ChangesOnly.ite_snd ?_ ?_
    | split
    | (rename _ = (_, _) => hq; have e := congrArg Prod.snd hq; dsimp only at e; subst e; clear hq)

theorem conflicts_changes {k : Nat} {e : Engine} {mine : List Nat} {s : State} (h₀ : ChangesOnly parts start s)
    (h₁ : [.crf, .draws] ⊆ parts) : ChangesOnly parts start (conflicts k e mine s) := by
  refine h₀.step ?_ h₁
  unfold conflicts
  try dsimp only
  repeat' first
    | with_reducible exact ChangesOnly.refl _ _
    | with_reducible assumption
    | decide
    | dsimp only
    | with_reducible refine ChangesOnly.modCroft _ _ ?_ ?_
    | with_reducible refine ChangesOnly.drawn ?_ ?_
    | with_reducible refine ChangesOnly.drawnBytes _ ?_ ?_
    | with_reducible refine ChangesOnly.ite_any ?_ ?_
    | with_reducible refine ChangesOnly.ite_snd ?_ ?_
    | split
    | (rename _ = (_, _) => hq; have e := congrArg Prod.snd hq; dsimp only at e; subst e; clear hq)

theorem wordConflicts_changes {k : Nat} {e : Engine} {w : BitVec 256} {s : State} (h₀ : ChangesOnly parts start s)
    (h₁ : [.crf, .draws] ⊆ parts) : ChangesOnly parts start (wordConflicts k e w s) := by
  refine h₀.step ?_ h₁
  unfold wordConflicts
  try dsimp only
  repeat' first
    | with_reducible exact ChangesOnly.refl _ _
    | with_reducible assumption
    | decide
    | with_reducible refine conflicts_changes ?_ ?_
    | with_reducible refine ChangesOnly.ite_any ?_ ?_
    | split

theorem portPut_changes {k a : Nat} {bs : Bytes} {s : State} (h₀ : ChangesOnly parts start s)
    (h₁ : [.flt, .crf, .draws] ⊆ parts) : ChangesOnly parts start (portPut k a bs s) := by
  refine h₀.step ?_ h₁
  unfold portPut
  try dsimp only
  repeat' first
    | with_reducible exact ChangesOnly.refl _ _
    | with_reducible assumption
    | decide
    | with_reducible refine pantryPut_changes ?_ ?_
    | with_reducible refine conflicts_changes ?_ ?_

theorem applyEffect_changes {k : Nat} {e : Effect} {s : State} (h₀ : ChangesOnly parts start s)
    (h₁ : [.glb, .flt, .fatal, .attic, .bel, .crf, .bln, .host, .out] ⊆ parts) : ChangesOnly parts start ((applyEffect k e s)).2 := by
  refine h₀.step ?_ h₁
  unfold applyEffect
  try dsimp only
  repeat' first
    | with_reducible exact ChangesOnly.refl _ _
    | with_reducible assumption
    | decide
    | dsimp only
    | with_reducible refine ChangesOnly.modCroft _ _ ?_ ?_
    | with_reducible refine pantryPut_changes ?_ ?_
    | with_reducible refine checkRanges_changes ?_ ?_
    | with_reducible refine ChangesOnly.foldl _ ?_ (fun _ _ _ => ?_)
    | with_reducible refine ChangesOnly.foldl_snd _ ?_ (fun _ _ _ => ?_)
    | with_reducible refine ChangesOnly.ite_any ?_ ?_
    | with_reducible refine ChangesOnly.ite_snd ?_ ?_
    | split
    | (rename _ = (_, _) => hq; have e := congrArg Prod.snd hq; dsimp only at e; subst e; clear hq)

theorem rampUp_changes {k : Nat} {w : BitVec 256} {s : State} (h₀ : ChangesOnly parts start s)
    (h₁ : [.crf] ⊆ parts) : ChangesOnly parts start (rampUp k w s) := by
  refine h₀.step ?_ h₁
  unfold rampUp
  try dsimp only
  repeat' first
    | with_reducible exact ChangesOnly.refl _ _
    | with_reducible assumption
    | decide
    | with_reducible refine ChangesOnly.modCroft _ _ ?_ ?_
    | with_reducible refine ChangesOnly.ite_any ?_ ?_
    | split

theorem checkFails_changes {c k check : Nat} {q : QWord} {s : State} (h₀ : ChangesOnly parts start s)
    (h₁ : [.glb, .flt, .fatal, .attic, .bel, .crf, .bln, .host, .out] ⊆ parts) : ChangesOnly parts start ((checkFails c k check q s)).2 := by
  refine h₀.step ?_ h₁
  unfold checkFails
  try dsimp only
  repeat' first
    | with_reducible exact ChangesOnly.refl _ _
    | with_reducible assumption
    | decide
    | dsimp only
    | with_reducible refine useInjection_changes ?_ ?_
    | with_reducible refine failWord_changes ?_ ?_
    | with_reducible refine ChangesOnly.ite_any ?_ ?_
    | with_reducible refine ChangesOnly.ite_snd ?_ ?_
    | split
    | (rename _ = (_, _) => hq; have e := congrArg Prod.snd hq; dsimp only at e; subst e; clear hq)

theorem mxLoad_changes {c k : Nat} {q : QWord} {s : State} (h₀ : ChangesOnly parts start s)
    (h₁ : [.glb, .flt, .fatal, .attic, .bel, .crf, .bln, .host, .out, .draws] ⊆ parts) : ChangesOnly parts start ((mxLoad c k q s)).2 := by
  refine h₀.step ?_ h₁
  unfold mxLoad
  try dsimp only
  repeat' first
    | with_reducible exact ChangesOnly.refl _ _
    | with_reducible assumption
    | decide
    | dsimp only
    | with_reducible refine ChangesOnly.modCroft _ _ ?_ ?_
    | with_reducible refine wordConflicts_changes ?_ ?_
    | with_reducible refine applyEffect_changes ?_ ?_
    | with_reducible refine rampUp_changes ?_ ?_
    | with_reducible refine checkFails_changes ?_ ?_
    | with_reducible refine ChangesOnly.ite_any ?_ ?_
    | with_reducible refine ChangesOnly.ite_snd ?_ ?_
    | split
    | (rename _ = (_, _) => hq; have e := congrArg Prod.snd hq; dsimp only at e; subst e; clear hq)

theorem mxReuse_changes {c k : Nat} {q : QWord} {s : State} (h₀ : ChangesOnly parts start s)
    (h₁ : [.glb, .flt, .fatal, .attic, .bel, .crf, .bln, .host, .out, .draws] ⊆ parts) : ChangesOnly parts start ((mxReuse c k q s)).2 := by
  refine h₀.step ?_ h₁
  unfold mxReuse
  try dsimp only
  repeat' first
    | with_reducible exact ChangesOnly.refl _ _
    | with_reducible assumption
    | decide
    | dsimp only
    | with_reducible refine wordConflicts_changes ?_ ?_
    | with_reducible refine applyEffect_changes ?_ ?_
    | with_reducible refine rampUp_changes ?_ ?_
    | with_reducible refine checkFails_changes ?_ ?_
    | with_reducible refine ChangesOnly.ite_any ?_ ?_
    | with_reducible refine ChangesOnly.ite_snd ?_ ?_
    | split
    | (rename _ = (_, _) => hq; have e := congrArg Prod.snd hq; dsimp only at e; subst e; clear hq)

theorem vxWord_changes {op c k : Nat} {q : QWord} {s : State} (h₀ : ChangesOnly parts start s)
    (h₁ : [.glb, .flt, .fatal, .attic, .bel, .crf, .bln, .host, .out, .draws] ⊆ parts) : ChangesOnly parts start ((vxWord op c k q s)).2 := by
  refine h₀.step ?_ h₁
  unfold vxWord
  try dsimp only
  repeat' first
    | with_reducible exact ChangesOnly.refl _ _
    | with_reducible assumption
    | decide
    | dsimp only
    | with_reducible refine wordConflicts_changes ?_ ?_
    | with_reducible refine applyEffect_changes ?_ ?_
    | with_reducible refine checkFails_changes ?_ ?_
    | with_reducible refine ChangesOnly.ite_any ?_ ?_
    | with_reducible refine ChangesOnly.ite_snd ?_ ?_
    | split
    | (rename _ = (_, _) => hq; have e := congrArg Prod.snd hq; dsimp only at e; subst e; clear hq)

theorem moverRead_changes {k space : Nat} {off : Int} {n : Nat} {s : State} (h₀ : ChangesOnly parts start s)
    (h₁ : [.glb, .flt, .fatal, .attic, .bel, .swc, .fld, .cel, .crf, .bln, .host, .out, .draws] ⊆ parts) : ChangesOnly parts start ((moverRead k space off n s)).2 := by
  refine h₀.step ?_ h₁
  unfold moverRead
  try dsimp only
  repeat' first
    | with_reducible exact ChangesOnly.refl _ _
    | with_reducible assumption
    | decide
    | dsimp only
    | with_reducible refine ChangesOnly.drawn ?_ ?_
    | with_reducible refine ChangesOnly.drawnBytes _ ?_ ?_
    | with_reducible refine readStack_changes ?_ ?_
    | with_reducible refine ChangesOnly.ite_any ?_ ?_
    | with_reducible refine ChangesOnly.ite_snd ?_ ?_
    | split
    | (rename _ = (_, _) => hq; have e := congrArg Prod.snd hq; dsimp only at e; subst e; clear hq)

theorem moverWrite_changes {k space : Nat} {off : Int} {bs : Bytes} {s : State} (h₀ : ChangesOnly parts start s)
    (h₁ : [.glb, .flt, .fatal, .attic, .bel, .cel, .mem, .crf, .bln, .host, .out] ⊆ parts) : ChangesOnly parts start (moverWrite k space off bs s) := by
  refine h₀.step ?_ h₁
  unfold moverWrite
  try dsimp only
  repeat' first
    | with_reducible exact ChangesOnly.refl _ _
    | with_reducible assumption
    | decide
    | with_reducible refine cellWrite_changes ?_ ?_
    | with_reducible refine pantryPut_changes ?_ ?_
    | with_reducible refine storePut_changes ?_ ?_
    | with_reducible refine ChangesOnly.foldl _ ?_ (fun _ _ _ => ?_)
    | with_reducible refine ChangesOnly.ite_any ?_ ?_
    | split

theorem stopCroft_changes {k : Nat} {s : State} (h₀ : ChangesOnly parts start s)
    (h₁ : [.crf] ⊆ parts) : ChangesOnly parts start (stopCroft k s) := by
  refine h₀.step ?_ h₁
  unfold stopCroft
  try dsimp only
  repeat' first
    | with_reducible exact ChangesOnly.refl _ _
    | with_reducible assumption
    | decide
    | with_reducible refine ChangesOnly.modCroft _ _ ?_ ?_
    | with_reducible refine ChangesOnly.ite_any ?_ ?_
    | split

theorem moveEach_changes {k : Nat} {m : Mover} {n : Nat} {l : List (Int × Int)} {s : State} (h₀ : ChangesOnly parts start s)
    (h₁ : [.glb, .flt, .fatal, .attic, .bel, .swc, .fld, .cel, .mem, .crf, .bln, .host, .out, .draws] ⊆ parts) :
    ChangesOnly parts start (moveEach k m n l s) := by
  refine h₀.step ?_ h₁
  clear h₀ h₁
  induction l generalizing s with
  | nil => exact ChangesOnly.refl _ _
  | cons r rest ih =>
    unfold moveEach
    try dsimp only
    repeat' first
      | with_reducible exact ChangesOnly.refl _ _
      | with_reducible assumption
      | decide
      | with_reducible refine ChangesOnly.trans ?_ ih
      | with_reducible refine moverWrite_changes ?_ ?_
      | with_reducible refine stopCroft_changes ?_ ?_
      | with_reducible refine moverRead_changes ?_ ?_
      | with_reducible refine checkRanges_changes ?_ ?_
      | split
      | (rename _ = (_, _) => hq; have e := congrArg Prod.snd hq; dsimp only at e; subst e; clear hq)

theorem moveRuns_changes {k : Nat} {w : BitVec 256} {n : Nat} {idx : List (Nat × Nat)} {runs : List (Int × Int)} {s : State} (h₀ : ChangesOnly parts start s)
    (h₁ : [.glb, .flt, .fatal, .attic, .bel, .swc, .fld, .cel, .mem, .crf, .bln, .host, .out, .draws] ⊆ parts) : ChangesOnly parts start ((moveRuns k w n idx runs s)).2 := by
  refine h₀.step ?_ h₁
  unfold moveRuns
  try dsimp only
  repeat' first
    | with_reducible exact ChangesOnly.refl _ _
    | with_reducible assumption
    | decide
    | dsimp only
    | with_reducible refine checkRanges_changes ?_ ?_
    | with_reducible refine wordConflicts_changes ?_ ?_
    | with_reducible refine moveEach_changes ?_ ?_
    | with_reducible refine ChangesOnly.ite_any ?_ ?_
    | with_reducible refine ChangesOnly.ite_snd ?_ ?_
    | split
    | (rename _ = (_, _) => hq; have e := congrArg Prod.snd hq; dsimp only at e; subst e; clear hq)

theorem mvWalk_changes {k : Nat} {q : QWord} {s : State} (h₀ : ChangesOnly parts start s)
    (h₁ : [.glb, .flt, .fatal, .attic, .bel, .swc, .fld, .cel, .mem, .crf, .bln, .host, .out, .draws] ⊆ parts) : ChangesOnly parts start ((mvWalk k q s)).2 := by
  refine h₀.step ?_ h₁
  unfold mvWalk
  try dsimp only
  repeat' first
    | with_reducible exact ChangesOnly.refl _ _
    | with_reducible assumption
    | decide
    | dsimp only
    | with_reducible refine moveRuns_changes ?_ ?_

theorem mvGather_changes {k : Nat} {q : QWord} {s : State} (h₀ : ChangesOnly parts start s)
    (h₁ : [.glb, .flt, .fatal, .attic, .bel, .swc, .fld, .cel, .mem, .crf, .bln, .host, .out, .draws] ⊆ parts) : ChangesOnly parts start ((mvGather k q s)).2 := by
  refine h₀.step ?_ h₁
  unfold mvGather
  try dsimp only
  repeat' first
    | with_reducible exact ChangesOnly.refl _ _
    | with_reducible assumption
    | decide
    | dsimp only
    | with_reducible refine moveRuns_changes ?_ ?_

theorem mvScatter_changes {k : Nat} {q : QWord} {s : State} (h₀ : ChangesOnly parts start s)
    (h₁ : [.glb, .flt, .fatal, .attic, .bel, .swc, .fld, .cel, .mem, .crf, .bln, .host, .out, .draws] ⊆ parts) : ChangesOnly parts start ((mvScatter k q s)).2 := by
  refine h₀.step ?_ h₁
  unfold mvScatter
  try dsimp only
  repeat' first
    | with_reducible exact ChangesOnly.refl _ _
    | with_reducible assumption
    | decide
    | dsimp only
    | with_reducible refine moveRuns_changes ?_ ?_

theorem mvFill_changes {k : Nat} {q : QWord} {s : State} (h₀ : ChangesOnly parts start s)
    (h₁ : [.glb, .flt, .fatal, .attic, .bel, .cel, .mem, .crf, .bln, .host, .out, .draws] ⊆ parts) : ChangesOnly parts start ((mvFill k q s)).2 := by
  refine h₀.step ?_ h₁
  unfold mvFill
  try dsimp only
  repeat' first
    | with_reducible exact ChangesOnly.refl _ _
    | with_reducible assumption
    | decide
    | dsimp only
    | with_reducible refine checkRanges_changes ?_ ?_
    | with_reducible refine wordConflicts_changes ?_ ?_
    | with_reducible refine moverWrite_changes ?_ ?_
    | with_reducible refine ChangesOnly.foldl _ ?_ (fun _ _ _ => ?_)
    | with_reducible refine ChangesOnly.foldl_snd _ ?_ (fun _ _ _ => ?_)
    | with_reducible refine ChangesOnly.ite_any ?_ ?_
    | with_reducible refine ChangesOnly.ite_snd ?_ ?_
    | split
    | (rename _ = (_, _) => hq; have e := congrArg Prod.snd hq; dsimp only at e; subst e; clear hq)

theorem croftSend_changes {c : Nat} {p : Packet} {s : State} (h₀ : ChangesOnly parts start s)
    (h₁ : [.swc] ⊆ parts) : ChangesOnly parts start (croftSend c p s) := by
  refine h₀.step ?_ h₁
  unfold croftSend
  try dsimp only
  repeat' first
    | with_reducible exact ChangesOnly.refl _ _
    | with_reducible assumption
    | decide
    | with_reducible refine countStranger_changes ?_ ?_
    | with_reducible refine inject_changes ?_ ?_
    | with_reducible refine ChangesOnly.ite_any ?_ ?_
    | split

theorem fpSend_changes {c k : Nat} {q : QWord} {s : State} (h₀ : ChangesOnly parts start s)
    (h₁ : [.glb, .flt, .fatal, .attic, .bel, .swc, .crf, .bln, .host, .out, .draws] ⊆ parts) : ChangesOnly parts start ((fpSend c k q s)).2 := by
  refine h₀.step ?_ h₁
  unfold fpSend
  try dsimp only
  repeat' first
    | with_reducible exact ChangesOnly.refl _ _
    | with_reducible assumption
    | decide
    | dsimp only
    | with_reducible refine ChangesOnly.modCroft _ _ ?_ ?_
    | with_reducible refine checkRanges_changes ?_ ?_
    | with_reducible refine wordConflicts_changes ?_ ?_
    | with_reducible refine croftSend_changes ?_ ?_
    | with_reducible refine ChangesOnly.foldl _ ?_ (fun _ _ _ => ?_)
    | with_reducible refine ChangesOnly.foldl_snd _ ?_ (fun _ _ _ => ?_)
    | with_reducible refine ChangesOnly.ite_any ?_ ?_
    | with_reducible refine ChangesOnly.ite_snd ?_ ?_
    | split
    | (rename _ = (_, _) => hq; have e := congrArg Prod.snd hq; dsimp only at e; subst e; clear hq)

theorem fpPost_changes {k : Nat} {q : QWord} {s : State} (h₀ : ChangesOnly parts start s)
    (h₁ : [.crf] ⊆ parts) : ChangesOnly parts start ((fpPost k q s)).2 := by
  refine h₀.step ?_ h₁
  unfold fpPost
  try dsimp only
  repeat' first
    | with_reducible exact ChangesOnly.refl _ _
    | with_reducible assumption
    | decide
    | dsimp only
    | with_reducible refine ChangesOnly.modCroft _ _ ?_ ?_
    | with_reducible refine ChangesOnly.ite_any ?_ ?_
    | with_reducible refine ChangesOnly.ite_snd ?_ ?_
    | split
    | (rename _ = (_, _) => hq; have e := congrArg Prod.snd hq; dsimp only at e; subst e; clear hq)

theorem fpPenOpen_changes {c k : Nat} {q : QWord} {s : State} (h₀ : ChangesOnly parts start s)
    (h₁ : [.glb, .flt, .fatal, .attic, .bel, .swc, .crf, .bln, .host, .out, .draws] ⊆ parts) : ChangesOnly parts start ((fpPenOpen c k q s)).2 := by
  refine h₀.step ?_ h₁
  unfold fpPenOpen
  try dsimp only
  repeat' first
    | with_reducible exact ChangesOnly.refl _ _
    | with_reducible assumption
    | decide
    | dsimp only
    | with_reducible refine ChangesOnly.modCroft _ _ ?_ ?_
    | with_reducible refine checkRanges_changes ?_ ?_
    | with_reducible refine wordConflicts_changes ?_ ?_
    | with_reducible refine croftSend_changes ?_ ?_
    | with_reducible refine ChangesOnly.foldl _ ?_ (fun _ _ _ => ?_)
    | with_reducible refine ChangesOnly.foldl_snd _ ?_ (fun _ _ _ => ?_)
    | with_reducible refine ChangesOnly.ite_any ?_ ?_
    | with_reducible refine ChangesOnly.ite_snd ?_ ?_
    | split
    | (rename _ = (_, _) => hq; have e := congrArg Prod.snd hq; dsimp only at e; subst e; clear hq)

theorem fpPenSend_changes {c k : Nat} {q : QWord} {s : State} (h₀ : ChangesOnly parts start s)
    (h₁ : [.glb, .flt, .fatal, .attic, .bel, .swc, .crf, .bln, .host, .out, .draws] ⊆ parts) : ChangesOnly parts start ((fpPenSend c k q s)).2 := by
  refine h₀.step ?_ h₁
  unfold fpPenSend
  try dsimp only
  repeat' first
    | with_reducible exact ChangesOnly.refl _ _
    | with_reducible assumption
    | decide
    | dsimp only
    | with_reducible refine checkRanges_changes ?_ ?_
    | with_reducible refine wordConflicts_changes ?_ ?_
    | with_reducible refine croftSend_changes ?_ ?_
    | with_reducible refine ChangesOnly.foldl _ ?_ (fun _ _ _ => ?_)
    | with_reducible refine ChangesOnly.foldl_snd _ ?_ (fun _ _ _ => ?_)
    | with_reducible refine ChangesOnly.ite_any ?_ ?_
    | with_reducible refine ChangesOnly.ite_snd ?_ ?_
    | split
    | (rename _ = (_, _) => hq; have e := congrArg Prod.snd hq; dsimp only at e; subst e; clear hq)

theorem countRxDrop_changes {k : Nat} {s : State} (h₀ : ChangesOnly parts start s)
    (h₁ : [.crf] ⊆ parts) : ChangesOnly parts start (countRxDrop k s) := by
  refine h₀.step ?_ h₁
  unfold countRxDrop
  try dsimp only
  repeat' first
    | with_reducible exact ChangesOnly.refl _ _
    | with_reducible assumption
    | decide
    | with_reducible refine ChangesOnly.modCroft _ _ ?_ ?_

theorem rxData_changes {k : Nat} {p : Packet} {s : State} (h₀ : ChangesOnly parts start s)
    (h₁ : [.flt, .crf, .draws] ⊆ parts) : ChangesOnly parts start (rxData k p s) := by
  refine h₀.step ?_ h₁
  unfold rxData
  try dsimp only
  repeat' first
    | with_reducible exact ChangesOnly.refl _ _
    | with_reducible assumption
    | decide
    | with_reducible refine ChangesOnly.modCroft _ _ ?_ ?_
    | with_reducible refine addFlag_changes ?_ ?_
    | with_reducible refine portPut_changes ?_ ?_
    | with_reducible refine countRxDrop_changes ?_ ?_
    | with_reducible refine ChangesOnly.ite_any ?_ ?_
    | split

theorem rxResponse_changes {k : Nat} {p : Packet} {s : State} (h₀ : ChangesOnly parts start s)
    (h₁ : [.flt, .crf, .draws] ⊆ parts) : ChangesOnly parts start (rxResponse k p s) := by
  refine h₀.step ?_ h₁
  unfold rxResponse
  try dsimp only
  repeat' first
    | with_reducible exact ChangesOnly.refl _ _
    | with_reducible assumption
    | decide
    | with_reducible refine ChangesOnly.modCroft _ _ ?_ ?_
    | with_reducible refine addFlag_changes ?_ ?_
    | with_reducible refine portPut_changes ?_ ?_
    | with_reducible refine countRxDrop_changes ?_ ?_
    | with_reducible refine ChangesOnly.ite_any ?_ ?_
    | split

theorem penReply_changes {c : Nat} {r : PenPost} {dev ptype chunk : Nat} {body : Bytes} {s : State} (h₀ : ChangesOnly parts start s)
    (h₁ : [.swc] ⊆ parts) : ChangesOnly parts start (penReply c r dev ptype chunk body s) := by
  refine h₀.step ?_ h₁
  unfold penReply
  try dsimp only
  repeat' first
    | with_reducible exact ChangesOnly.refl _ _
    | with_reducible assumption
    | decide
    | with_reducible refine inject_changes ?_ ?_

theorem penAck_changes {c : Nat} {r : PenPost} {s : State} (h₀ : ChangesOnly parts start s)
    (h₁ : [.swc] ⊆ parts) : ChangesOnly parts start (penAck c r s) := by
  refine h₀.step ?_ h₁
  unfold penAck
  try dsimp only
  repeat' first
    | with_reducible exact ChangesOnly.refl _ _
    | with_reducible assumption
    | decide
    | with_reducible refine penReply_changes ?_ ?_
    | with_reducible refine ChangesOnly.foldl _ ?_ (fun _ _ _ => ?_)

theorem penResend_changes {c : Nat} {r : PenPost} {chunk : Nat} {s : State} (h₀ : ChangesOnly parts start s)
    (h₁ : [.swc] ⊆ parts) : ChangesOnly parts start (penResend c r chunk s) := by
  refine h₀.step ?_ h₁
  unfold penResend
  try dsimp only
  repeat' first
    | with_reducible exact ChangesOnly.refl _ _
    | with_reducible assumption
    | decide
    | with_reducible refine penReply_changes ?_ ?_
    | split

theorem State.modPenPost_changes {k : Nat} {r : PenPost} {f : PenPost → Option PenPost} {s : State} (h₀ : ChangesOnly parts start s)
    (h₁ : [.crf] ⊆ parts) : ChangesOnly parts start (State.modPenPost k r f s) := by
  refine h₀.step ?_ h₁
  unfold State.modPenPost
  try dsimp only
  repeat' first
    | with_reducible exact ChangesOnly.refl _ _
    | with_reducible assumption
    | decide
    | with_reducible refine ChangesOnly.modCroft _ _ ?_ ?_
    | with_reducible refine ChangesOnly.ite_any ?_ ?_
    | split

theorem penOver_changes {k : Nat} {r : PenPost} {status : Nat} {s : State} (h₀ : ChangesOnly parts start s)
    (h₁ : [.flt, .crf, .draws] ⊆ parts) : ChangesOnly parts start (penOver k r status s) := by
  refine h₀.step ?_ h₁
  unfold penOver
  try dsimp only
  repeat' first
    | with_reducible exact ChangesOnly.refl _ _
    | with_reducible assumption
    | decide
    | with_reducible refine addFlag_changes ?_ ?_
    | with_reducible refine portPut_changes ?_ ?_
    | with_reducible refine State.modPenPost_changes ?_ ?_

theorem penSettle_changes {k : Nat} {r : PenPost} {s : State} (h₀ : ChangesOnly parts start s)
    (h₁ : [.flt, .crf, .draws] ⊆ parts) : ChangesOnly parts start (penSettle k r s) := by
  refine h₀.step ?_ h₁
  unfold penSettle
  try dsimp only
  repeat' first
    | with_reducible exact ChangesOnly.refl _ _
    | with_reducible assumption
    | decide
    | with_reducible refine State.modPenPost_changes ?_ ?_
    | with_reducible refine penOver_changes ?_ ?_
    | with_reducible refine ChangesOnly.ite_any ?_ ?_
    | split

theorem rxResult_changes {c k : Nat} {r : PenPost} {p : Packet} {s : State} (h₀ : ChangesOnly parts start s)
    (h₁ : [.flt, .swc, .crf, .draws] ⊆ parts) : ChangesOnly parts start (rxResult c k r p s) := by
  refine h₀.step ?_ h₁
  unfold rxResult
  try dsimp only
  repeat' first
    | with_reducible exact ChangesOnly.refl _ _
    | with_reducible assumption
    | decide
    | with_reducible refine portPut_changes ?_ ?_
    | with_reducible refine countRxDrop_changes ?_ ?_
    | with_reducible refine penAck_changes ?_ ?_
    | with_reducible refine penResend_changes ?_ ?_
    | with_reducible refine State.modPenPost_changes ?_ ?_
    | with_reducible refine penSettle_changes ?_ ?_
    | with_reducible refine ChangesOnly.ite_any ?_ ?_
    | split

theorem rxStats_changes {c k : Nat} {r : PenPost} {p : Packet} {s : State} (h₀ : ChangesOnly parts start s)
    (h₁ : [.flt, .swc, .crf, .draws] ⊆ parts) : ChangesOnly parts start (rxStats c k r p s) := by
  refine h₀.step ?_ h₁
  unfold rxStats
  try dsimp only
  repeat' first
    | with_reducible exact ChangesOnly.refl _ _
    | with_reducible assumption
    | decide
    | with_reducible refine penResend_changes ?_ ?_
    | with_reducible refine penSettle_changes ?_ ?_
    | with_reducible refine ChangesOnly.foldl _ ?_ (fun _ _ _ => ?_)
    | with_reducible refine ChangesOnly.ite_any ?_ ?_
    | split

theorem rxPen_changes {c k : Nat} {p : Packet} {s : State} (h₀ : ChangesOnly parts start s)
    (h₁ : [.flt, .swc, .crf, .draws] ⊆ parts) : ChangesOnly parts start (rxPen c k p s) := by
  refine h₀.step ?_ h₁
  unfold rxPen
  try dsimp only
  repeat' first
    | with_reducible exact ChangesOnly.refl _ _
    | with_reducible assumption
    | decide
    | with_reducible refine countRxDrop_changes ?_ ?_
    | with_reducible refine penOver_changes ?_ ?_
    | with_reducible refine rxResult_changes ?_ ?_
    | with_reducible refine rxStats_changes ?_ ?_
    | with_reducible refine ChangesOnly.ite_any ?_ ?_
    | split

theorem croftRx_changes {c : Nat} {p : Packet} {s : State} (h₀ : ChangesOnly parts start s)
    (h₁ : [.flt, .swc, .crf, .inbox, .draws] ⊆ parts) : ChangesOnly parts start (croftRx c p s) := by
  refine h₀.step ?_ h₁
  unfold croftRx
  try dsimp only
  repeat' first
    | with_reducible exact ChangesOnly.refl _ _
    | with_reducible assumption
    | decide
    | with_reducible refine countFenced_changes ?_ ?_
    | with_reducible refine takeInbox_changes ?_ ?_
    | with_reducible refine rxData_changes ?_ ?_
    | with_reducible refine rxResponse_changes ?_ ?_
    | with_reducible refine rxPen_changes ?_ ?_
    | with_reducible refine ChangesOnly.ite_any ?_ ?_
    | split

theorem flWord_changes {f : Nat → QWord → State → State} {k : Nat} {q : QWord} {s : State} (h₀ : ChangesOnly parts start s)
    (h₁ : ([] : List Part) ⊆ parts)
    (hf : ∀ x0 x1 t, ChangesOnly parts start t → ChangesOnly parts start (f x0 x1 t)) : ChangesOnly parts start ((flWord f k q s)).2 := by
  unfold flWord
  try dsimp only
  repeat' first
    | with_reducible assumption
    | with_reducible exact h₀
    | with_reducible refine hf _ _ _ ?_
    | exact List.Subset.trans (by decide) h₁
    | exact h₁ (by decide)
    | dsimp only

theorem flSetDo_changes {k : Nat} {q : QWord} {s : State} (h₀ : ChangesOnly parts start s)
    (h₁ : [.crf] ⊆ parts) : ChangesOnly parts start (flSetDo k q s) := by
  refine h₀.step ?_ h₁
  unfold flSetDo
  try dsimp only
  repeat' first
    | with_reducible exact ChangesOnly.refl _ _
    | with_reducible assumption
    | decide
    | with_reducible refine setFlag_changes ?_ ?_

theorem flAddDo_changes {k : Nat} {q : QWord} {s : State} (h₀ : ChangesOnly parts start s)
    (h₁ : [.crf] ⊆ parts) : ChangesOnly parts start (flAddDo k q s) := by
  refine h₀.step ?_ h₁
  unfold flAddDo
  try dsimp only
  repeat' first
    | with_reducible exact ChangesOnly.refl _ _
    | with_reducible assumption
    | decide
    | with_reducible refine addFlag_changes ?_ ?_

theorem flTaddDo_changes {k : Nat} {q : QWord} {s : State} (h₀ : ChangesOnly parts start s)
    (h₁ : [.crf] ⊆ parts) : ChangesOnly parts start (flTaddDo k q s) := by
  refine h₀.step ?_ h₁
  unfold flTaddDo
  try dsimp only
  repeat' first
    | with_reducible exact ChangesOnly.refl _ _
    | with_reducible assumption
    | decide
    | with_reducible refine addTflag_changes ?_ ?_

theorem flBarrierDo_changes {k : Nat} {q : QWord} {s : State} (h₀ : ChangesOnly parts start s)
    (h₁ : [.glb, .flt, .fatal, .attic, .bel, .crf, .bln, .host, .out] ⊆ parts) : ChangesOnly parts start (flBarrierDo k q s) := by
  refine h₀.step ?_ h₁
  unfold flBarrierDo
  try dsimp only
  repeat' first
    | with_reducible exact ChangesOnly.refl _ _
    | with_reducible assumption
    | decide
    | with_reducible refine barrierArrive_changes ?_ ?_
    | with_reducible refine ChangesOnly.ite_any ?_ ?_
    | split

theorem tickStart_changes {c : Nat} {s : State} (h₀ : ChangesOnly parts start s)
    (h₁ : [.glb, .flt, .fatal, .attic, .bel, .gt, .clock, .shapers, .crf, .bln, .thm, .host, .out] ⊆ parts) : ChangesOnly parts start (tickStart c s) := by
  refine h₀.step ?_ h₁
  unfold tickStart
  try dsimp only
  repeat' first
    | with_reducible exact ChangesOnly.refl _ _
    | with_reducible assumption
    | decide
    | with_reducible refine ChangesOnly.modCroft _ _ ?_ ?_
    | with_reducible refine advanceTo_changes ?_ ?_
    | with_reducible refine recordFault_changes ?_ ?_
    | with_reducible refine ChangesOnly.ite_any ?_ ?_
    | split

theorem wordIssue_changes {c : Nat} {s : State} (h₀ : ChangesOnly parts start s)
    (h₁ : [.glb, .flt, .fatal, .attic, .bel, .crf, .bln, .host, .out] ⊆ parts) : ChangesOnly parts start (wordIssue c s) := by
  refine h₀.step ?_ h₁
  unfold wordIssue
  try dsimp only
  repeat' first
    | with_reducible exact ChangesOnly.refl _ _
    | with_reducible assumption
    | decide
    | dsimp only
    | with_reducible refine ChangesOnly.modCroft _ _ ?_ ?_
    | with_reducible refine checkKeys_changes ?_ ?_
    | with_reducible refine ChangesOnly.ite_any ?_ ?_
    | with_reducible refine ChangesOnly.ite_snd ?_ ?_
    | split
    | (rename _ = (_, _) => hq; have e := congrArg Prod.snd hq; dsimp only at e; subst e; clear hq)

theorem wordRetire_changes {c : Nat} {e : Engine} {s : State} (h₀ : ChangesOnly parts start s)
    (h₁ : [.crf] ⊆ parts) : ChangesOnly parts start (wordRetire c e s) := by
  refine h₀.step ?_ h₁
  unfold wordRetire
  try dsimp only
  repeat' first
    | with_reducible exact ChangesOnly.refl _ _
    | with_reducible assumption
    | decide
    | with_reducible refine ChangesOnly.modCroft _ _ ?_ ?_
    | with_reducible refine signalWord_changes ?_ ?_
    | with_reducible refine ChangesOnly.ite_any ?_ ?_
    | split

theorem croftHung_changes {c : Nat} {s : State} (h₀ : ChangesOnly parts start s)
    (h₁ : [.glb, .flt, .fatal, .attic, .bel, .gt, .clock, .shapers, .crf, .bln, .thm, .host, .out] ⊆ parts) : ChangesOnly parts start (croftHung c s) := by
  refine h₀.step ?_ h₁
  unfold croftHung
  try dsimp only
  repeat' first
    | with_reducible exact ChangesOnly.refl _ _
    | with_reducible assumption
    | decide
    | dsimp only
    | with_reducible refine advanceTo_changes ?_ ?_
    | with_reducible refine recordFault_changes ?_ ?_
    | with_reducible refine requestCapsule_changes ?_ ?_
    | with_reducible refine hangCroft_changes ?_ ?_
    | with_reducible refine ChangesOnly.ite_any ?_ ?_
    | with_reducible refine ChangesOnly.ite_snd ?_ ?_
    | split
    | (rename _ = (_, _) => hq; have e := congrArg Prod.snd hq; dsimp only at e; subst e; clear hq)

theorem onCore_changes {f : State → State} {s : State} (h₀ : ChangesOnly parts start s)
    (h₁ : [.glb, .flt, .fatal, .attic, .bel, .shapers, .gates, .swc, .rte, .bln, .host, .inbox, .out] ⊆ parts)
    (hf : ∀  t, ChangesOnly parts start t → ChangesOnly parts start (f  t)) : ChangesOnly parts start (onCore f s) := by
  unfold onCore
  try dsimp only
  repeat' first
    | with_reducible assumption
    | with_reducible exact h₀
    | with_reducible refine hf _ ?_
    | exact List.Subset.trans (by decide) h₁
    | exact h₁ (by decide)
    | with_reducible refine settleCore_changes ?_ ?_
    | with_reducible refine ChangesOnly.ite_any ?_ ?_
    | split

end Sys2Proof.Machine
end

