-- ==== Sys2Proof/Laws/FrameResets.lean ====
section
/-! SUPPORT. Laws/FrameResets.lean: what the operations of resets change: each adds its own parts, named in its second
hypothesis, to what a chain has changed so far. -/

set_option linter.all false
set_option maxRecDepth 8000

namespace Sys2Proof.Machine

variable {parts : List Part} {start : State}

theorem openReset_changes {kind field : Nat} {s : State} (h₀ : ChangesOnly parts start s)
    (h₁ : [.attic] ⊆ parts) : ChangesOnly parts start ((openReset kind field s)).2 := by
  refine h₀.step ?_ h₁
  unfold openReset
  try dsimp only
  repeat' first
    | with_reducible exact ChangesOnly.refl _ _
    | with_reducible assumption
    | decide
    | dsimp only
    | with_reducible refine ChangesOnly.modAttic _ ?_ ?_
    | with_reducible refine ChangesOnly.ite_any ?_ ?_
    | with_reducible refine ChangesOnly.ite_snd ?_ ?_
    | split
    | (rename _ = (_, _) => hq; have e := congrArg Prod.snd hq; dsimp only at e; subst e; clear hq)

theorem endCapsule_changes {s : State} (h₀ : ChangesOnly parts start s)
    (h₁ : [.attic] ⊆ parts) : ChangesOnly parts start (endCapsule s) := by
  refine h₀.step ?_ h₁
  unfold endCapsule
  try dsimp only
  repeat' first
    | with_reducible exact ChangesOnly.refl _ _
    | with_reducible assumption
    | decide
    | with_reducible refine ChangesOnly.modAttic _ ?_ ?_
    | with_reducible refine ChangesOnly.ite_any ?_ ?_
    | split

theorem reloadCroft_changes {l k : Nat} {s : State} (h₀ : ChangesOnly parts start s)
    (h₁ : [.crf] ⊆ parts) : ChangesOnly parts start (reloadCroft l k s) := by
  refine h₀.step ?_ h₁
  unfold reloadCroft
  try dsimp only
  repeat' first
    | with_reducible exact ChangesOnly.refl _ _
    | with_reducible assumption
    | decide
    | with_reducible refine ChangesOnly.modCroft _ _ ?_ ?_
    | split

theorem replaceCroft_changes {l k : Nat} {s : State} (h₀ : ChangesOnly parts start s)
    (h₁ : [.crf] ⊆ parts) : ChangesOnly parts start (replaceCroft l k s) := by
  refine h₀.step ?_ h₁
  unfold replaceCroft
  try dsimp only
  repeat' first
    | with_reducible exact ChangesOnly.refl _ _
    | with_reducible assumption
    | decide
    | with_reducible refine ChangesOnly.modCrf _ ?_ ?_
    | with_reducible refine ChangesOnly.modCroft _ _ ?_ ?_
    | split

theorem replaceFenced_changes {s : State} (h₀ : ChangesOnly parts start s)
    (h₁ : [.crf] ⊆ parts) : ChangesOnly parts start (replaceFenced s) := by
  refine h₀.step ?_ h₁
  unfold replaceFenced
  try dsimp only
  repeat' first
    | with_reducible exact ChangesOnly.refl _ _
    | with_reducible assumption
    | decide
    | with_reducible refine replaceCroft_changes ?_ ?_
    | with_reducible refine ChangesOnly.foldl _ ?_ (fun _ _ _ => ?_)
    | with_reducible refine ChangesOnly.ite_any ?_ ?_
    | split

theorem reloadCrofts_changes {s : State} (h₀ : ChangesOnly parts start s)
    (h₁ : [.bel, .crf] ⊆ parts) : ChangesOnly parts start (reloadCrofts s) := by
  refine h₀.step ?_ h₁
  unfold reloadCrofts
  try dsimp only
  repeat' first
    | with_reducible exact ChangesOnly.refl _ _
    | with_reducible assumption
    | decide
    | with_reducible refine ChangesOnly.modCrf _ ?_ ?_
    | with_reducible refine ChangesOnly.modBarrier _ _ ?_ ?_
    | with_reducible refine reloadCroft_changes ?_ ?_
    | with_reducible refine ChangesOnly.foldl _ ?_ (fun _ _ _ => ?_)
    | split

theorem clearCrofts_changes {s : State} (h₀ : ChangesOnly parts start s)
    (h₁ : [.bel, .crf] ⊆ parts) : ChangesOnly parts start (clearCrofts s) := by
  refine h₀.step ?_ h₁
  unfold clearCrofts
  try dsimp only
  repeat' first
    | with_reducible exact ChangesOnly.refl _ _
    | with_reducible assumption
    | decide
    | with_reducible refine replaceFenced_changes ?_ ?_
    | with_reducible refine reloadCrofts_changes ?_ ?_

theorem setCkpt_changes {st code : Nat} {s : State} (h₀ : ChangesOnly parts start s)
    (h₁ : [.img, .host, .out] ⊆ parts) : ChangesOnly parts start (setCkpt st code s) := by
  refine h₀.step ?_ h₁
  unfold setCkpt
  try dsimp only
  repeat' first
    | with_reducible exact ChangesOnly.refl _ _
    | with_reducible assumption
    | decide
    | exact .inr (by decide)
    | exact .inl rfl
    | with_reducible refine ChangesOnly.modImg _ ?_ ?_ ?_
    | with_reducible refine signal_changes ?_ ?_

theorem endCkpt_changes {s : State} (h₀ : ChangesOnly parts start s)
    (h₁ : [.img, .host, .out, .draws] ⊆ parts) : ChangesOnly parts start (endCkpt s) := by
  refine h₀.step ?_ h₁
  unfold endCkpt
  try dsimp only
  repeat' first
    | with_reducible exact ChangesOnly.refl _ _
    | with_reducible assumption
    | decide
    | dsimp only
    | with_reducible refine ChangesOnly.drawn ?_ ?_
    | with_reducible refine ChangesOnly.drawnBytes _ ?_ ?_
    | with_reducible refine setCkpt_changes ?_ ?_
    | with_reducible refine ChangesOnly.ite_any ?_ ?_
    | with_reducible refine ChangesOnly.ite_snd ?_ ?_
    | split
    | (rename _ = (_, _) => hq; have e := congrArg Prod.snd hq; dsimp only at e; subst e; clear hq)

theorem endLaunch_changes {c : Nat → Bool} {s : State} (h₀ : ChangesOnly parts start s)
    (h₁ : [.bel] ⊆ parts) : ChangesOnly parts start (endLaunch c s) := by
  refine h₀.step ?_ h₁
  unfold endLaunch
  try dsimp only
  repeat' first
    | with_reducible exact ChangesOnly.refl _ _
    | with_reducible assumption
    | decide
    | exact .inr (by decide)
    | exact .inl rfl
    | with_reducible refine ChangesOnly.modBel _ ?_ ?_ ?_
    | with_reducible refine ChangesOnly.ite_any ?_ ?_
    | split
    | (left; (try dsimp only); (repeat' split) <;> rfl)

theorem dropRequests_changes {s : State} (h₀ : ChangesOnly parts start s)
    (h₁ : [.ats] ⊆ parts) : ChangesOnly parts start (dropRequests s) := by
  refine h₀.step ?_ h₁
  unfold dropRequests
  try dsimp only
  repeat' first
    | with_reducible exact ChangesOnly.refl _ _
    | with_reducible assumption
    | decide
    | with_reducible refine ChangesOnly.modAts _ ?_ ?_
    | with_reducible refine ChangesOnly.modAtsTract _ _ ?_ ?_
    | with_reducible refine ChangesOnly.foldl _ ?_ (fun _ _ _ => ?_)

theorem fieldSteps_changes {f : Nat} {s : State} (h₀ : ChangesOnly parts start s)
    (h₁ : [.glb, .flt, .fatal, .attic, .bel, .swc, .fld, .ats, .crf, .img, .bln, .host, .out, .draws] ⊆ parts) : ChangesOnly parts start (fieldSteps f s) := by
  refine h₀.step ?_ h₁
  unfold fieldSteps
  try dsimp only
  repeat' first
    | with_reducible exact ChangesOnly.refl _ _
    | with_reducible assumption
    | decide
    | with_reducible refine ChangesOnly.modFld _ ?_ ?_
    | with_reducible refine resetPens_changes ?_ ?_
    | with_reducible refine clearCrofts_changes ?_ ?_
    | with_reducible refine endCkpt_changes ?_ ?_
    | with_reducible refine dropRequests_changes ?_ ?_

theorem fieldResetSteps_changes {f : Nat} {s : State} (h₀ : ChangesOnly parts start s)
    (h₁ : [.glb, .flt, .fatal, .attic, .bel, .shapers, .gates, .swc, .rte, .fld, .ats, .crf, .img, .bln, .host, .inbox, .out, .draws] ⊆ parts) : ChangesOnly parts start (fieldResetSteps f s) := by
  refine h₀.step ?_ h₁
  unfold fieldResetSteps
  try dsimp only
  repeat' first
    | with_reducible exact ChangesOnly.refl _ _
    | with_reducible assumption
    | decide
    | with_reducible refine settleCore_changes ?_ ?_
    | with_reducible refine abortBarrier_changes ?_ ?_
    | with_reducible refine endLaunch_changes ?_ ?_
    | with_reducible refine fieldSteps_changes ?_ ?_
    | with_reducible refine ChangesOnly.ite_any ?_ ?_
    | split

theorem restartTract_changes {t : Nat} {s : State} (h₀ : ChangesOnly parts start s)
    (h₁ : [.glb, .flt, .fatal, .attic, .bel, .gt, .clock, .shapers, .gates, .swc, .rte, .fld, .cel, .mem, .crf, .bln, .thm, .host, .inbox, .out, .draws] ⊆ parts) : ChangesOnly parts start (restartTract t s) := by
  refine h₀.step ?_ h₁
  unfold restartTract
  try dsimp only
  repeat' first
    | with_reducible exact ChangesOnly.refl _ _
    | with_reducible assumption
    | decide
    | with_reducible refine ChangesOnly.modTract _ _ ?_ ?_
    | with_reducible refine repairDone_changes ?_ ?_
    | with_reducible refine quiesceEnd_changes ?_ ?_
    | with_reducible refine ChangesOnly.ite_any ?_ ?_
    | split

theorem warmStart_changes {s : State} (h₀ : ChangesOnly parts start s)
    (h₁ : [.glb, .flt, .fatal, .attic, .bel, .swc, .fld, .ats, .bln, .host, .inbox, .out] ⊆ parts) : ChangesOnly parts start (warmStart s) := by
  refine h₀.step ?_ h₁
  unfold warmStart
  try dsimp only
  repeat' first
    | with_reducible exact ChangesOnly.refl _ _
    | with_reducible assumption
    | decide
    | exact .inr (by decide)
    | exact .inl rfl
    | with_reducible refine ChangesOnly.modAts _ ?_ ?_
    | with_reducible refine ChangesOnly.modInbox _ ?_ ?_
    | with_reducible refine ChangesOnly.modFlt _ ?_ ?_ ?_
    | with_reducible refine ChangesOnly.modAtsTract _ _ ?_ ?_
    | with_reducible refine countFenced_changes ?_ ?_
    | with_reducible refine resetPens_changes ?_ ?_
    | with_reducible refine ChangesOnly.foldl _ ?_ (fun _ _ _ => ?_)

theorem showReset_changes {st code : Nat} {s : State} (h₀ : ChangesOnly parts start s)
    (h₁ : [.flt] ⊆ parts) : ChangesOnly parts start (showReset st code s) := by
  refine h₀.step ?_ h₁
  unfold showReset
  try dsimp only
  repeat' first
    | with_reducible exact ChangesOnly.refl _ _
    | with_reducible assumption
    | decide
    | exact .inr (by decide)
    | exact .inl rfl
    | with_reducible refine ChangesOnly.modFlt _ ?_ ?_ ?_

theorem settleAttic_changes {s : State} (h₀ : ChangesOnly parts start s)
    (h₁ : [.attic] ⊆ parts) : ChangesOnly parts start (settleAttic s) := by
  refine h₀.step ?_ h₁
  unfold settleAttic
  try dsimp only
  repeat' first
    | with_reducible exact ChangesOnly.refl _ _
    | with_reducible assumption
    | decide
    | with_reducible refine ChangesOnly.modAttic _ ?_ ?_
    | with_reducible refine endCapsule_changes ?_ ?_
    | with_reducible refine ChangesOnly.foldl _ ?_ (fun _ _ _ => ?_)

theorem bootCrofts_changes {e : PowerEnv} {s : State} (h₀ : ChangesOnly parts start s)
    (h₁ : [.glb, .crf] ⊆ parts) : ChangesOnly parts start (bootCrofts e s) := by
  refine h₀.step ?_ h₁
  unfold bootCrofts
  try dsimp only
  repeat' first
    | with_reducible exact ChangesOnly.refl _ _
    | with_reducible assumption
    | decide
    | with_reducible refine ChangesOnly.modGlb _ ?_ ?_
    | with_reducible refine ChangesOnly.modCrf _ ?_ ?_

theorem bootLinks_changes {e : PowerEnv} {s : State} (h₀ : ChangesOnly parts start s)
    (h₁ : [.glb, .flt, .fatal, .attic, .bel, .shapers, .gates, .swc, .rte, .fld, .cel, .crf, .lnk, .bln, .host, .inbox, .out] ⊆ parts) : ChangesOnly parts start (bootLinks e s) := by
  refine h₀.step ?_ h₁
  unfold bootLinks
  try dsimp only
  repeat' first
    | with_reducible exact ChangesOnly.refl _ _
    | with_reducible assumption
    | decide
    | with_reducible refine ChangesOnly.modEngine _ _ ?_ ?_
    | with_reducible refine recordFault_changes ?_ ?_
    | with_reducible refine engineFault_changes ?_ ?_
    | with_reducible refine fenceTract_changes ?_ ?_
    | with_reducible refine ChangesOnly.foldl _ ?_ (fun _ _ _ => ?_)
    | with_reducible refine ChangesOnly.ite_any ?_ ?_
    | split

theorem bootAttic_changes {e : PowerEnv} {s : State} (h₀ : ChangesOnly parts start s)
    (h₁ : [.glb, .flt, .fatal, .attic, .bel, .bln, .host, .out] ⊆ parts) : ChangesOnly parts start (bootAttic e s) := by
  refine h₀.step ?_ h₁
  unfold bootAttic
  try dsimp only
  repeat' first
    | with_reducible exact ChangesOnly.refl _ _
    | with_reducible assumption
    | decide
    | dsimp only
    | exact .inr (by decide)
    | exact .inl rfl
    | with_reducible refine ChangesOnly.modAttic _ ?_ ?_
    | with_reducible refine ChangesOnly.modFlt _ ?_ ?_ ?_
    | with_reducible refine recordFault_changes ?_ ?_
    | with_reducible refine openReset_changes ?_ ?_
    | with_reducible refine ChangesOnly.ite_any ?_ ?_
    | with_reducible refine ChangesOnly.ite_snd ?_ ?_
    | split
    | (rename _ = (_, _) => hq; have e := congrArg Prod.snd hq; dsimp only at e; subst e; clear hq)
    | (left; (try dsimp only); (repeat' split) <;> rfl)

theorem toStage_changes {n : Nat} {s : State} (h₀ : ChangesOnly parts start s)
    (h₁ : [.glb] ⊆ parts) : ChangesOnly parts start (toStage n s) := by
  refine h₀.step ?_ h₁
  unfold toStage
  try dsimp only
  repeat' first
    | with_reducible exact ChangesOnly.refl _ _
    | with_reducible assumption
    | decide
    | with_reducible refine ChangesOnly.modGlb _ ?_ ?_
    | with_reducible refine ChangesOnly.ite_any ?_ ?_
    | split

theorem bootSteps_changes {e : PowerEnv} {s : State} (h₀ : ChangesOnly parts start s)
    (h₁ : [.fuses, .glb, .flt, .fatal, .attic, .bel, .shapers, .gates, .swc, .rte, .fld, .cel, .crf, .lnk, .bln, .sec, .host, .pins, .inbox, .out] ⊆ parts) : ChangesOnly parts start (bootSteps e s) := by
  refine h₀.step ?_ h₁
  unfold bootSteps
  try dsimp only
  repeat' first
    | with_reducible exact ChangesOnly.refl _ _
    | with_reducible assumption
    | decide
    | with_reducible refine ChangesOnly.modGlb _ ?_ ?_
    | with_reducible refine ChangesOnly.modSec _ ?_ ?_
    | with_reducible refine ChangesOnly.modFuses _ ?_ ?_
    | with_reducible refine recordFault_changes ?_ ?_
    | with_reducible refine railOut_changes ?_ ?_
    | with_reducible refine bootCrofts_changes ?_ ?_
    | with_reducible refine bootLinks_changes ?_ ?_
    | with_reducible refine bootAttic_changes ?_ ?_
    | with_reducible refine toStage_changes ?_ ?_
    | with_reducible refine ChangesOnly.ite_any ?_ ?_
    | split

theorem strapChange_changes {bitmap : BitVec 16} {s : State} (h₀ : ChangesOnly parts start s)
    (h₁ : [.glb, .flt, .fatal, .attic, .bel, .bln, .host, .out] ⊆ parts) : ChangesOnly parts start (strapChange bitmap s) := by
  refine h₀.step ?_ h₁
  unfold strapChange
  try dsimp only
  repeat' first
    | with_reducible exact ChangesOnly.refl _ _
    | with_reducible assumption
    | decide
    | with_reducible refine ChangesOnly.modGlb _ ?_ ?_
    | with_reducible refine recordFault_changes ?_ ?_
    | with_reducible refine ChangesOnly.ite_any ?_ ?_
    | split

theorem hostBridgeReset_changes {keepsLink : Bool} {s : State} (h₀ : ChangesOnly parts start s)
    (h₁ : [.glb, .flt, .fatal, .attic, .bel, .bln, .host, .out] ⊆ parts) : ChangesOnly parts start (hostBridgeReset keepsLink s) := by
  refine h₀.step ?_ h₁
  unfold hostBridgeReset
  try dsimp only
  repeat' first
    | with_reducible exact ChangesOnly.refl _ _
    | with_reducible assumption
    | decide
    | dsimp only
    | exact .inr (by decide)
    | exact .inl rfl
    | with_reducible refine ChangesOnly.modAttic _ ?_ ?_
    | with_reducible refine ChangesOnly.modHost _ ?_ ?_
    | with_reducible refine ChangesOnly.modFlt _ ?_ ?_ ?_
    | with_reducible refine recordFault_changes ?_ ?_
    | with_reducible refine openReset_changes ?_ ?_
    | with_reducible refine ChangesOnly.ite_any ?_ ?_
    | with_reducible refine ChangesOnly.ite_snd ?_ ?_
    | split
    | (rename _ = (_, _) => hq; have e := congrArg Prod.snd hq; dsimp only at e; subst e; clear hq)
    | (left; (try dsimp only); (repeat' split) <;> rfl)

theorem hostLinkReset_changes {kind : HostResetKind} {s : State} (h₀ : ChangesOnly parts start s)
    (h₁ : [.glb, .flt, .fatal, .attic, .bel, .bln, .host, .out] ⊆ parts) : ChangesOnly parts start (hostLinkReset kind s) := by
  refine h₀.step ?_ h₁
  unfold hostLinkReset
  try dsimp only
  repeat' first
    | with_reducible exact ChangesOnly.refl _ _
    | with_reducible assumption
    | decide
    | exact .inr (by decide)
    | exact .inl rfl
    | with_reducible refine ChangesOnly.modFlt _ ?_ ?_ ?_
    | with_reducible refine hostBridgeReset_changes ?_ ?_
    | with_reducible refine ChangesOnly.ite_any ?_ ?_
    | split
    | (left; (try dsimp only); (repeat' split) <;> rfl)

theorem hostLinkL0_changes {s : State} (h₀ : ChangesOnly parts start s)
    (h₁ : [.flt, .attic, .host] ⊆ parts) : ChangesOnly parts start (hostLinkL0 s) := by
  refine h₀.step ?_ h₁
  unfold hostLinkL0
  try dsimp only
  repeat' first
    | with_reducible exact ChangesOnly.refl _ _
    | with_reducible assumption
    | decide
    | exact .inr (by decide)
    | exact .inl rfl
    | with_reducible refine ChangesOnly.modAttic _ ?_ ?_
    | with_reducible refine ChangesOnly.modHost _ ?_ ?_
    | with_reducible refine ChangesOnly.modFlt _ ?_ ?_ ?_
    | with_reducible refine ChangesOnly.ite_any ?_ ?_
    | split
    | (left; (try dsimp only); (repeat' split) <;> rfl)

theorem recordClose_changes {source unit : Nat} {s : State} (h₀ : ChangesOnly parts start s)
    (h₁ : [.glb, .attic, .gt, .clock, .shapers, .thm] ⊆ parts) : ChangesOnly parts start (recordClose source unit s) := by
  refine h₀.step ?_ h₁
  unfold recordClose
  try dsimp only
  repeat' first
    | with_reducible exact ChangesOnly.refl _ _
    | with_reducible assumption
    | decide
    | with_reducible refine ChangesOnly.modAttic _ ?_ ?_
    | with_reducible refine advanceTo_changes ?_ ?_
    | split

theorem pulseEnd_changes {s : State} (h₀ : ChangesOnly parts start s)
    (h₁ : [.glb, .flt, .gt, .clock, .shapers, .thm] ⊆ parts) : ChangesOnly parts start (pulseEnd s) := by
  refine h₀.step ?_ h₁
  unfold pulseEnd
  try dsimp only
  repeat' first
    | with_reducible exact ChangesOnly.refl _ _
    | with_reducible assumption
    | decide
    | exact .inr (by decide)
    | exact .inl rfl
    | with_reducible refine ChangesOnly.modFlt _ ?_ ?_ ?_
    | with_reducible refine advanceTo_changes ?_ ?_
    | with_reducible refine ChangesOnly.ite_any ?_ ?_
    | split
    | (left; (try dsimp only); (repeat' split) <;> rfl)

theorem captureClear_changes {s : State} (h₀ : ChangesOnly parts start s)
    (h₁ : [.flt] ⊆ parts) : ChangesOnly parts start (captureClear s) := by
  refine h₀.step ?_ h₁
  unfold captureClear
  try dsimp only
  repeat' first
    | with_reducible exact ChangesOnly.refl _ _
    | with_reducible assumption
    | decide
    | exact .inr (by decide)
    | exact .inl rfl
    | with_reducible refine ChangesOnly.modFlt _ ?_ ?_ ?_
    | with_reducible refine ChangesOnly.ite_any ?_ ?_
    | split
    | (left; (try dsimp only); (repeat' split) <;> rfl)

theorem logFence_changes {source unit : Nat} {s : State} (h₀ : ChangesOnly parts start s)
    (h₁ : [.glb, .flt, .fatal, .attic, .bel, .bln, .host, .out] ⊆ parts) : ChangesOnly parts start (logFence source unit s) := by
  refine h₀.step ?_ h₁
  unfold logFence
  try dsimp only
  repeat' first
    | with_reducible exact ChangesOnly.refl _ _
    | with_reducible assumption
    | decide
    | with_reducible refine recordFault_changes ?_ ?_

theorem fence_changes {u : Nat} {s : State} (h₀ : ChangesOnly parts start s)
    (h₁ : [.glb, .flt, .fatal, .attic, .bel, .shapers, .gates, .swc, .rte, .fld, .cel, .crf, .lnk, .bln, .host, .inbox, .out] ⊆ parts) : ChangesOnly parts start (fence u s) := by
  refine h₀.step ?_ h₁
  unfold fence
  try dsimp only
  repeat' first
    | with_reducible exact ChangesOnly.refl _ _
    | with_reducible assumption
    | decide
    | with_reducible refine fencePort_changes ?_ ?_
    | with_reducible refine settleCore_changes ?_ ?_
    | with_reducible refine fenceEngine_changes ?_ ?_
    | with_reducible refine fenceLane_changes ?_ ?_
    | with_reducible refine fenceCroft_changes ?_ ?_
    | with_reducible refine fenceTract_changes ?_ ?_
    | with_reducible refine logFence_changes ?_ ?_
    | with_reducible refine ChangesOnly.ite_any ?_ ?_
    | split

theorem retrainPort_changes {n : Nat} {s : State} (h₀ : ChangesOnly parts start s)
    (h₁ : [.glb, .flt, .fatal, .attic, .bel, .shapers, .gates, .swc, .rte, .lnk, .bln, .host, .inbox, .out] ⊆ parts) : ChangesOnly parts start (retrainPort n s) := by
  refine h₀.step ?_ h₁
  unfold retrainPort
  try dsimp only
  repeat' first
    | with_reducible exact ChangesOnly.refl _ _
    | with_reducible assumption
    | decide
    | with_reducible refine goDown_changes ?_ ?_
    | with_reducible refine ChangesOnly.ite_any ?_ ?_
    | split

theorem unfence_changes {u : Nat} {s : State} (h₀ : ChangesOnly parts start s)
    (h₁ : [.glb, .flt, .fatal, .attic, .bel, .shapers, .gates, .swc, .rte, .lnk, .bln, .host, .inbox, .out] ⊆ parts) : ChangesOnly parts start (unfence u s) := by
  refine h₀.step ?_ h₁
  unfold unfence
  try dsimp only
  repeat' first
    | with_reducible exact ChangesOnly.refl _ _
    | with_reducible assumption
    | decide
    | with_reducible refine ChangesOnly.modSlot _ _ ?_ ?_
    | with_reducible refine ChangesOnly.modEngine _ _ ?_ ?_
    | with_reducible refine updateLost_changes ?_ ?_
    | with_reducible refine settleCore_changes ?_ ?_
    | with_reducible refine retrainPort_changes ?_ ?_
    | with_reducible refine ChangesOnly.foldl _ ?_ (fun _ _ _ => ?_)
    | with_reducible refine ChangesOnly.ite_any ?_ ?_
    | split

theorem writeInject_changes {go : Bool} {check width unit : Nat} {s : State} (h₀ : ChangesOnly parts start s)
    (h₁ : [.glb, .flt] ⊆ parts) : ChangesOnly parts start (writeInject go check width unit s) := by
  refine h₀.step ?_ h₁
  unfold writeInject
  try dsimp only
  repeat' first
    | with_reducible exact ChangesOnly.refl _ _
    | with_reducible assumption
    | decide
    | exact .inr (by decide)
    | exact .inl rfl
    | with_reducible refine ChangesOnly.modGlb _ ?_ ?_
    | with_reducible refine ChangesOnly.modFlt _ ?_ ?_ ?_
    | with_reducible refine ChangesOnly.ite_any ?_ ?_
    | split
    | (left; (try dsimp only); (repeat' split) <;> rfl)

theorem faultInject_changes {check width unit : Nat} {s : State} (h₀ : ChangesOnly parts start s)
    (h₁ : [.glb, .flt] ⊆ parts) : ChangesOnly parts start (faultInject check width unit s) := by
  refine h₀.step ?_ h₁
  unfold faultInject
  try dsimp only
  repeat' first
    | with_reducible exact ChangesOnly.refl _ _
    | with_reducible assumption
    | decide
    | with_reducible refine writeInject_changes ?_ ?_
    | with_reducible refine ChangesOnly.ite_any ?_ ?_
    | split

theorem faultIn_changes {s : State} (h₀ : ChangesOnly parts start s)
    (h₁ : [.glb, .flt, .fatal, .attic, .bel, .bln, .host, .out] ⊆ parts) : ChangesOnly parts start (faultIn s) := by
  refine h₀.step ?_ h₁
  unfold faultIn
  try dsimp only
  repeat' first
    | with_reducible exact ChangesOnly.refl _ _
    | with_reducible assumption
    | decide
    | dsimp only
    | exact .inr (by decide)
    | exact .inl rfl
    | with_reducible refine ChangesOnly.modFlt _ ?_ ?_ ?_
    | with_reducible refine recordFault_changes ?_ ?_
    | with_reducible refine ChangesOnly.ite_any ?_ ?_
    | with_reducible refine ChangesOnly.ite_snd ?_ ?_
    | split
    | (rename _ = (_, _) => hq; have e := congrArg Prod.snd hq; dsimp only at e; subst e; clear hq)
    | (left; (try dsimp only); (repeat' split) <;> rfl)

theorem faultInStuck_changes {s : State} (h₀ : ChangesOnly parts start s)
    (h₁ : [.glb, .flt, .fatal, .attic, .bel, .gt, .clock, .shapers, .bln, .thm, .host, .out] ⊆ parts) : ChangesOnly parts start (faultInStuck s) := by
  refine h₀.step ?_ h₁
  unfold faultInStuck
  try dsimp only
  repeat' first
    | with_reducible exact ChangesOnly.refl _ _
    | with_reducible assumption
    | decide
    | exact .inr (by decide)
    | exact .inl rfl
    | with_reducible refine ChangesOnly.modFlt _ ?_ ?_ ?_
    | with_reducible refine advanceTo_changes ?_ ?_
    | with_reducible refine recordFault_changes ?_ ?_
    | with_reducible refine ChangesOnly.ite_any ?_ ?_
    | split
    | (left; (try dsimp only); (repeat' split) <;> rfl)

theorem faultInRelease_changes {active : Bool} {s : State} (h₀ : ChangesOnly parts start s)
    (h₁ : [.flt] ⊆ parts) : ChangesOnly parts start (faultInRelease active s) := by
  refine h₀.step ?_ h₁
  unfold faultInRelease
  try dsimp only
  repeat' first
    | with_reducible exact ChangesOnly.refl _ _
    | with_reducible assumption
    | decide
    | exact .inr (by decide)
    | exact .inl rfl
    | with_reducible refine ChangesOnly.modFlt _ ?_ ?_ ?_
    | with_reducible refine ChangesOnly.ite_any ?_ ?_
    | split
    | (left; (try dsimp only); (repeat' split) <;> rfl)

theorem coreFault_changes {s : State} (h₀ : ChangesOnly parts start s)
    (h₁ : [.glb, .flt, .fatal, .attic, .bel, .bln, .host, .out] ⊆ parts) : ChangesOnly parts start (coreFault s) := by
  refine h₀.step ?_ h₁
  unfold coreFault
  try dsimp only
  repeat' first
    | with_reducible exact ChangesOnly.refl _ _
    | with_reducible assumption
    | decide
    | with_reducible refine recordFault_changes ?_ ?_
    | with_reducible refine ChangesOnly.ite_any ?_ ?_
    | split

theorem controlUe_changes {unit off : Nat} {s : State} (h₀ : ChangesOnly parts start s)
    (h₁ : [.glb, .flt, .fatal, .attic, .bel, .bln, .host, .out] ⊆ parts) : ChangesOnly parts start (controlUe unit off s) := by
  refine h₀.step ?_ h₁
  unfold controlUe
  try dsimp only
  repeat' first
    | with_reducible exact ChangesOnly.refl _ _
    | with_reducible assumption
    | decide
    | with_reducible refine recordFault_changes ?_ ?_
    | with_reducible refine ChangesOnly.ite_any ?_ ?_
    | split

theorem tableRefresh_changes {table index : Nat} {s : State} (h₀ : ChangesOnly parts start s)
    (h₁ : [.glb, .flt, .fatal, .attic, .bel, .shapers, .gates, .swc, .rte, .bln, .host, .inbox, .out] ⊆ parts) : ChangesOnly parts start (tableRefresh table index s) := by
  refine h₀.step ?_ h₁
  unfold tableRefresh
  try dsimp only
  repeat' first
    | with_reducible exact ChangesOnly.refl _ _
    | with_reducible assumption
    | decide
    | with_reducible refine ChangesOnly.modRte _ ?_ ?_
    | with_reducible refine settleCore_changes ?_ ?_
    | with_reducible refine ChangesOnly.ite_any ?_ ?_
    | split

end Sys2Proof.Machine
end

