-- ==== Sys2Proof/Laws/FrameImages.lean ====
section
/-! SUPPORT. Laws/FrameImages.lean: what the operations of the image loader change: each adds its own parts, named in its second
hypothesis, to what a chain has changed so far. -/

set_option linter.all false
set_option maxRecDepth 8000

namespace Sys2Proof.Machine

variable {parts : List Part} {start : State}

theorem loseCommand_changes {s : State} (h₀ : ChangesOnly parts start s)
    (h₁ : [.img] ⊆ parts) : ChangesOnly parts start (loseCommand s) := by
  refine h₀.step ?_ h₁
  unfold loseCommand
  try dsimp only
  repeat' first
    | with_reducible exact ChangesOnly.refl _ _
    | with_reducible assumption
    | decide
    | exact .inr (by decide)
    | exact .inl rfl
    | with_reducible refine ChangesOnly.modImg _ ?_ ?_ ?_

theorem onLoader_changes {f : State → State} {s : State} (h₀ : ChangesOnly parts start s)
    (h₁ : [.img] ⊆ parts)
    (hf : ∀  t, ChangesOnly parts start t → ChangesOnly parts start (f  t)) : ChangesOnly parts start (onLoader f s) := by
  unfold onLoader
  try dsimp only
  repeat' first
    | with_reducible assumption
    | with_reducible exact h₀
    | with_reducible refine hf _ ?_
    | exact List.Subset.trans (by decide) h₁
    | exact h₁ (by decide)
    | with_reducible refine loseCommand_changes ?_ ?_
    | with_reducible refine ChangesOnly.ite_any ?_ ?_
    | split

theorem startVerify_changes {kind : Nat} {body : ImageBody} {s : State} (h₀ : ChangesOnly parts start s)
    (h₁ : [.img] ⊆ parts) : ChangesOnly parts start (startVerify kind body s) := by
  refine h₀.step ?_ h₁
  unfold startVerify
  try dsimp only
  repeat' first
    | with_reducible exact ChangesOnly.refl _ _
    | with_reducible assumption
    | decide
    | exact .inr (by decide)
    | exact .inl rfl
    | with_reducible refine ChangesOnly.modImg _ ?_ ?_ ?_
    | with_reducible refine loseCommand_changes ?_ ?_
    | with_reducible refine ChangesOnly.ite_any ?_ ?_
    | split
    | (left; (try dsimp only); (repeat' split) <;> rfl)

theorem discard_changes {s : State} (h₀ : ChangesOnly parts start s)
    (h₁ : [.bel, .img] ⊆ parts) : ChangesOnly parts start (discard s) := by
  refine h₀.step ?_ h₁
  unfold discard
  try dsimp only
  repeat' first
    | with_reducible exact ChangesOnly.refl _ _
    | with_reducible assumption
    | decide
    | exact .inr (by decide)
    | exact .inl rfl
    | with_reducible refine ChangesOnly.modImg _ ?_ ?_ ?_
    | with_reducible refine endLaunch_changes ?_ ?_
    | with_reducible refine ChangesOnly.ite_any ?_ ?_
    | split
    | (left; (try dsimp only); (repeat' split) <;> rfl)

theorem logImage_changes {i : Image} {s : State} (h₀ : ChangesOnly parts start s)
    (h₁ : [.attic] ⊆ parts) : ChangesOnly parts start (logImage i s) := by
  refine h₀.step ?_ h₁
  unfold logImage
  try dsimp only
  repeat' first
    | with_reducible exact ChangesOnly.refl _ _
    | with_reducible assumption
    | decide
    | with_reducible refine ChangesOnly.modAttic _ ?_ ?_
    | with_reducible refine ChangesOnly.ite_any ?_ ?_
    | split

theorem replanPort_changes {old : Topology} {n : Nat} {s : State} (h₀ : ChangesOnly parts start s)
    (h₁ : [.glb, .flt, .fatal, .attic, .bel, .shapers, .gates, .swc, .rte, .lnk, .bln, .host, .inbox, .out] ⊆ parts) : ChangesOnly parts start (replanPort old n s) := by
  refine h₀.step ?_ h₁
  unfold replanPort
  try dsimp only
  repeat' first
    | with_reducible exact ChangesOnly.refl _ _
    | with_reducible assumption
    | decide
    | with_reducible refine setDisc_changes ?_ ?_
    | with_reducible refine goDown_changes ?_ ?_
    | with_reducible refine ChangesOnly.ite_any ?_ ?_
    | split

theorem loadBase_changes {i : Image} {s : State} (h₀ : ChangesOnly parts start s)
    (h₁ : [.glb, .flt, .fatal, .attic, .bel, .shapers, .gates, .swc, .rte, .img, .lnk, .bln, .host, .inbox, .out] ⊆ parts) : ChangesOnly parts start (loadBase i s) := by
  refine h₀.step ?_ h₁
  unfold loadBase
  try dsimp only
  repeat' first
    | with_reducible exact ChangesOnly.refl _ _
    | with_reducible assumption
    | decide
    | exact .inr (by decide)
    | exact .inl rfl
    | with_reducible refine ChangesOnly.modGlb _ ?_ ?_
    | with_reducible refine ChangesOnly.modRte _ ?_ ?_
    | with_reducible refine ChangesOnly.modBel _ ?_ ?_ ?_
    | with_reducible refine ChangesOnly.modImg _ ?_ ?_ ?_
    | with_reducible refine updateLost_changes ?_ ?_
    | with_reducible refine sendLink_changes ?_ ?_
    | with_reducible refine logImage_changes ?_ ?_
    | with_reducible refine replanPort_changes ?_ ?_
    | with_reducible refine ChangesOnly.foldl _ ?_ (fun _ _ _ => ?_)
    | with_reducible refine ChangesOnly.ite_any ?_ ?_
    | split
    | (left; (try dsimp only); (repeat' split) <;> rfl)

theorem setApply_changes {st code : Nat} {s : State} (h₀ : ChangesOnly parts start s)
    (h₁ : [.img, .host, .out] ⊆ parts) : ChangesOnly parts start (setApply st code s) := by
  refine h₀.step ?_ h₁
  unfold setApply
  try dsimp only
  repeat' first
    | with_reducible exact ChangesOnly.refl _ _
    | with_reducible assumption
    | decide
    | exact .inr (by decide)
    | exact .inl rfl
    | with_reducible refine ChangesOnly.modImg _ ?_ ?_ ?_
    | with_reducible refine signal_changes ?_ ?_
    | with_reducible refine ChangesOnly.ite_any ?_ ?_
    | split
    | (left; (try dsimp only); (repeat' split) <;> rfl)

theorem named_changes {o : Option Nat} {s : State} (h₀ : ChangesOnly parts start s)
    (h₁ : [.draws] ⊆ parts) : ChangesOnly parts start ((named o s)).2 := by
  refine h₀.step ?_ h₁
  unfold named
  try dsimp only
  repeat' first
    | with_reducible exact ChangesOnly.refl _ _
    | with_reducible assumption
    | decide
    | dsimp only
    | with_reducible refine ChangesOnly.drawn ?_ ?_
    | with_reducible refine ChangesOnly.drawnBytes _ ?_ ?_
    | split
    | (rename _ = (_, _) => hq; have e := congrArg Prod.snd hq; dsimp only at e; subst e; clear hq)

theorem verifyRejects_changes {r : Reject} {s : State} (h₀ : ChangesOnly parts start s)
    (h₁ : [.img, .host, .out, .draws] ⊆ parts) : ChangesOnly parts start (verifyRejects r s) := by
  refine h₀.step ?_ h₁
  unfold verifyRejects
  try dsimp only
  repeat' first
    | with_reducible exact ChangesOnly.refl _ _
    | with_reducible assumption
    | decide
    | dsimp only
    | exact .inr (by decide)
    | exact .inl rfl
    | with_reducible refine ChangesOnly.modImg _ ?_ ?_ ?_
    | with_reducible refine signal_changes ?_ ?_
    | with_reducible refine named_changes ?_ ?_
    | split
    | (rename _ = (_, _) => hq; have e := congrArg Prod.snd hq; dsimp only at e; subst e; clear hq)

theorem verifyPasses_changes {body : ImageBody} {s : State} (h₀ : ChangesOnly parts start s)
    (h₁ : [.glb, .flt, .fatal, .attic, .bel, .shapers, .gates, .swc, .rte, .img, .lnk, .bln, .host, .inbox, .out] ⊆ parts) : ChangesOnly parts start (verifyPasses body s) := by
  refine h₀.step ?_ h₁
  unfold verifyPasses
  try dsimp only
  repeat' first
    | with_reducible exact ChangesOnly.refl _ _
    | with_reducible assumption
    | decide
    | exact .inr (by decide)
    | exact .inl rfl
    | with_reducible refine ChangesOnly.modImg _ ?_ ?_ ?_
    | with_reducible refine signal_changes ?_ ?_
    | with_reducible refine endLaunch_changes ?_ ?_
    | with_reducible refine loadBase_changes ?_ ?_
    | with_reducible refine ChangesOnly.ite_any ?_ ?_
    | split
    | (left; (try dsimp only); (repeat' split) <;> rfl)

theorem verifyDone_changes {s : State} (h₀ : ChangesOnly parts start s)
    (h₁ : [.glb, .flt, .fatal, .attic, .bel, .shapers, .gates, .swc, .rte, .img, .lnk, .bln, .host, .inbox, .out, .draws] ⊆ parts) : ChangesOnly parts start (verifyDone s) := by
  refine h₀.step ?_ h₁
  unfold verifyDone
  try dsimp only
  repeat' first
    | with_reducible exact ChangesOnly.refl _ _
    | with_reducible assumption
    | decide
    | with_reducible refine verifyRejects_changes ?_ ?_
    | with_reducible refine verifyPasses_changes ?_ ?_
    | with_reducible refine ChangesOnly.ite_any ?_ ?_
    | split

theorem applyBase_changes {s : State} (h₀ : ChangesOnly parts start s)
    (h₁ : [.img, .host, .out] ⊆ parts) : ChangesOnly parts start (applyBase s) := by
  refine h₀.step ?_ h₁
  unfold applyBase
  try dsimp only
  repeat' first
    | with_reducible exact ChangesOnly.refl _ _
    | with_reducible assumption
    | decide
    | exact .inr (by decide)
    | exact .inl rfl
    | with_reducible refine ChangesOnly.modImg _ ?_ ?_ ?_
    | with_reducible refine loseCommand_changes ?_ ?_
    | with_reducible refine setApply_changes ?_ ?_
    | with_reducible refine ChangesOnly.ite_any ?_ ?_
    | split
    | (left; (try dsimp only); (repeat' split) <;> rfl)

theorem baseTakesEffect_changes {s : State} (h₀ : ChangesOnly parts start s)
    (h₁ : [.glb, .flt, .fatal, .attic, .bel, .gt, .clock, .shapers, .gates, .swc, .rte, .fld, .ats, .crf, .img, .lnk, .bln, .thm, .host, .inbox, .out, .draws] ⊆ parts) : ChangesOnly parts start (baseTakesEffect s) := by
  refine h₀.step ?_ h₁
  unfold baseTakesEffect
  try dsimp only
  repeat' first
    | with_reducible exact ChangesOnly.refl _ _
    | with_reducible assumption
    | decide
    | exact .inr (by decide)
    | exact .inl rfl
    | with_reducible refine ChangesOnly.modImg _ ?_ ?_ ?_
    | with_reducible refine advanceTo_changes ?_ ?_
    | with_reducible refine settleCore_changes ?_ ?_
    | with_reducible refine fieldResetSteps_changes ?_ ?_
    | with_reducible refine loadBase_changes ?_ ?_
    | with_reducible refine setApply_changes ?_ ?_
    | with_reducible refine ChangesOnly.ite_any ?_ ?_
    | split
    | (left; (try dsimp only); (repeat' split) <;> rfl)

end Sys2Proof.Machine
end

