-- ==== Sys2Proof/Laws/FrameCheckpoint.lean ====
section
/-! SUPPORT. Laws/FrameCheckpoint.lean: what the operations of checkpoints change: each adds its own parts, named in its second
hypothesis, to what a chain has changed so far. -/

set_option linter.all false
set_option maxRecDepth 8000

namespace Sys2Proof.Machine

variable {parts : List Part} {start : State}

theorem ckptCapture_changes {s : State} (h₀ : ChangesOnly parts start s)
    (h₁ : [.glb, .flt, .fatal, .attic, .bel, .gt, .clock, .shapers, .cel, .mem, .crf, .img, .bln, .thm, .host, .out, .draws] ⊆ parts) : ChangesOnly parts start (ckptCapture s) := by
  refine h₀.step ?_ h₁
  unfold ckptCapture
  try dsimp only
  repeat' first
    | with_reducible exact ChangesOnly.refl _ _
    | with_reducible assumption
    | decide
    | dsimp only
    | with_reducible refine ChangesOnly.modCrf _ ?_ ?_
    | with_reducible refine ChangesOnly.drawn ?_ ?_
    | with_reducible refine ChangesOnly.drawnBytes _ ?_ ?_
    | with_reducible refine advanceTo_changes ?_ ?_
    | with_reducible refine cellWrite_changes ?_ ?_
    | with_reducible refine fallBehind_changes ?_ ?_
    | with_reducible refine setCkpt_changes ?_ ?_
    | with_reducible refine ChangesOnly.foldl _ ?_ (fun _ _ _ => ?_)
    | with_reducible refine ChangesOnly.foldl_snd _ ?_ (fun _ _ _ => ?_)
    | with_reducible refine ChangesOnly.ite_any ?_ ?_
    | with_reducible refine ChangesOnly.ite_snd ?_ ?_
    | split
    | (rename _ = (_, _) => hq; have e := congrArg Prod.snd hq; dsimp only at e; subst e; clear hq)

theorem slotsWritten_changes {s : State} (h₀ : ChangesOnly parts start s)
    (h₁ : [.img, .host, .out] ⊆ parts) : ChangesOnly parts start (slotsWritten s) := by
  refine h₀.step ?_ h₁
  unfold slotsWritten
  try dsimp only
  repeat' first
    | with_reducible exact ChangesOnly.refl _ _
    | with_reducible assumption
    | decide
    | exact .inr (by decide)
    | exact .inl rfl
    | with_reducible refine ChangesOnly.modImg _ ?_ ?_ ?_
    | with_reducible refine setCkpt_changes ?_ ?_
    | with_reducible refine ChangesOnly.ite_any ?_ ?_
    | split
    | (left; (try dsimp only); (repeat' split) <;> rfl)

theorem startRun_changes {m runs : Nat} {s : State} (h₀ : ChangesOnly parts start s)
    (h₁ : [.crf] ⊆ parts) : ChangesOnly parts start (startRun m runs s) := by
  refine h₀.step ?_ h₁
  unfold startRun
  try dsimp only
  repeat' first
    | with_reducible exact ChangesOnly.refl _ _
    | with_reducible assumption
    | decide
    | with_reducible refine ChangesOnly.modCrf _ ?_ ?_

theorem resumeAtCount_changes {s : State} (h₀ : ChangesOnly parts start s)
    (h₁ : [.glb, .gt, .clock, .shapers, .crf, .img, .thm, .host, .out] ⊆ parts) : ChangesOnly parts start (resumeAtCount s) := by
  refine h₀.step ?_ h₁
  unfold resumeAtCount
  try dsimp only
  repeat' first
    | with_reducible exact ChangesOnly.refl _ _
    | with_reducible assumption
    | decide
    | with_reducible refine advanceTo_changes ?_ ?_
    | with_reducible refine setCkpt_changes ?_ ?_
    | with_reducible refine startRun_changes ?_ ?_
    | with_reducible refine ChangesOnly.ite_any ?_ ?_
    | split

theorem ckptCancel_changes {s : State} (h₀ : ChangesOnly parts start s)
    (h₁ : [.img, .host, .out] ⊆ parts) : ChangesOnly parts start (ckptCancel s) := by
  refine h₀.step ?_ h₁
  unfold ckptCancel
  try dsimp only
  repeat' first
    | with_reducible exact ChangesOnly.refl _ _
    | with_reducible assumption
    | decide
    | with_reducible refine setCkpt_changes ?_ ?_
    | with_reducible refine ChangesOnly.ite_any ?_ ?_
    | split

theorem restoreCroft_changes {r : Bytes} {s : State} (h₀ : ChangesOnly parts start s)
    (h₁ : [.crf] ⊆ parts) : ChangesOnly parts start (restoreCroft r s) := by
  refine h₀.step ?_ h₁
  unfold restoreCroft
  try dsimp only
  repeat' first
    | with_reducible exact ChangesOnly.refl _ _
    | with_reducible assumption
    | decide
    | with_reducible refine ChangesOnly.modCroft _ _ ?_ ?_
    | split

theorem restoreSlot_changes {top t : Nat} {d : SlotRead} {s : State} (h₀ : ChangesOnly parts start s)
    (h₁ : [.fld, .crf] ⊆ parts) : ChangesOnly parts start (restoreSlot top t d s) := by
  refine h₀.step ?_ h₁
  unfold restoreSlot
  try dsimp only
  repeat' first
    | with_reducible exact ChangesOnly.refl _ _
    | with_reducible assumption
    | decide
    | with_reducible refine ChangesOnly.modFld _ ?_ ?_
    | with_reducible refine ChangesOnly.modCrf _ ?_ ?_
    | with_reducible refine fallBehind_changes ?_ ?_
    | with_reducible refine restoreCroft_changes ?_ ?_
    | with_reducible refine ChangesOnly.foldl _ ?_ (fun _ _ _ => ?_)

end Sys2Proof.Machine
end

