-- ==== Sys2Proof/Laws/FrameLaunch.lean ====
section
/-! SUPPORT. Laws/FrameLaunch.lean: what the operations of launches change: each adds its own parts, named in its second
hypothesis, to what a chain has changed so far. -/

set_option linter.all false
set_option maxRecDepth 8000

namespace Sys2Proof.Machine

variable {parts : List Part} {start : State}

theorem refuseLaunch_changes {code : Nat} {s : State} (h₀ : ChangesOnly parts start s)
    (h₁ : [.bel, .host, .out] ⊆ parts) : ChangesOnly parts start (refuseLaunch code s) := by
  refine h₀.step ?_ h₁
  unfold refuseLaunch
  try dsimp only
  repeat' first
    | with_reducible exact ChangesOnly.refl _ _
    | with_reducible assumption
    | decide
    | exact .inr (by decide)
    | exact .inl rfl
    | with_reducible refine ChangesOnly.modBel _ ?_ ?_ ?_
    | with_reducible refine signal_changes ?_ ?_

theorem launchRequest_changes {f : Nat} {s : State} (h₀ : ChangesOnly parts start s)
    (h₁ : [.bel, .host, .out] ⊆ parts) : ChangesOnly parts start (launchRequest f s) := by
  refine h₀.step ?_ h₁
  unfold launchRequest
  try dsimp only
  repeat' first
    | with_reducible exact ChangesOnly.refl _ _
    | with_reducible assumption
    | decide
    | exact .inr (by decide)
    | exact .inl rfl
    | with_reducible refine ChangesOnly.modBel _ ?_ ?_ ?_
    | with_reducible refine refuseLaunch_changes ?_ ?_
    | with_reducible refine ChangesOnly.ite_any ?_ ?_
    | split
    | (left; (try dsimp only); (repeat' split) <;> rfl)

theorem repartition_changes {cold : Bool} {retired : List Nat} {t : Nat} {s : State} (h₀ : ChangesOnly parts start s)
    (h₁ : [.glb, .flt, .fatal, .attic, .bel, .cel, .bln, .host, .out] ⊆ parts) : ChangesOnly parts start (repartition cold retired t s) := by
  refine h₀.step ?_ h₁
  unfold repartition
  try dsimp only
  repeat' first
    | with_reducible exact ChangesOnly.refl _ _
    | with_reducible assumption
    | decide
    | with_reducible refine ChangesOnly.modTract _ _ ?_ ?_
    | with_reducible refine logRetired_changes ?_ ?_
    | with_reducible refine ChangesOnly.foldl _ ?_ (fun _ _ _ => ?_)
    | with_reducible refine ChangesOnly.ite_any ?_ ?_
    | split

theorem partition_changes {old : Option FieldBody} {new : FieldBody} {s : State} (h₀ : ChangesOnly parts start s)
    (h₁ : [.glb, .flt, .fatal, .attic, .bel, .cel, .bln, .host, .out] ⊆ parts) : ChangesOnly parts start (partition old new s) := by
  refine h₀.step ?_ h₁
  unfold partition
  try dsimp only
  repeat' first
    | with_reducible exact ChangesOnly.refl _ _
    | with_reducible assumption
    | decide
    | with_reducible refine recordFault_changes ?_ ?_
    | with_reducible refine repartition_changes ?_ ?_
    | with_reducible refine ChangesOnly.foldl _ ?_ (fun _ _ _ => ?_)
    | with_reducible refine ChangesOnly.ite_any ?_ ?_
    | split

theorem loadGates_changes {b : FieldBody} {s : State} (h₀ : ChangesOnly parts start s)
    (h₁ : [.gates] ⊆ parts) : ChangesOnly parts start (loadGates b s) := by
  refine h₀.step ?_ h₁
  unfold loadGates
  try dsimp only
  repeat' first
    | with_reducible exact ChangesOnly.refl _ _
    | with_reducible assumption
    | decide
    | with_reducible refine ChangesOnly.modGate _ _ ?_ ?_
    | with_reducible refine ChangesOnly.foldl _ ?_ (fun _ _ _ => ?_)
    | split

theorem loadShapers_changes {b : FieldBody} {s : State} (h₀ : ChangesOnly parts start s)
    (h₁ : [.shapers] ⊆ parts) : ChangesOnly parts start (loadShapers b s) := by
  refine h₀.step ?_ h₁
  unfold loadShapers
  try dsimp only
  repeat' first
    | with_reducible exact ChangesOnly.refl _ _
    | with_reducible assumption
    | decide
    | with_reducible refine ChangesOnly.modShapers _ ?_ ?_
    | with_reducible refine ChangesOnly.modShaper _ _ _ ?_ ?_
    | with_reducible refine ChangesOnly.foldl _ ?_ (fun _ _ _ => ?_)

theorem loadField_changes {i : Image} {b : FieldBody} {s : State} (h₀ : ChangesOnly parts start s)
    (h₁ : [.glb, .flt, .fatal, .attic, .bel, .shapers, .gates, .cel, .img, .bln, .host, .out] ⊆ parts) : ChangesOnly parts start (loadField i b s) := by
  refine h₀.step ?_ h₁
  unfold loadField
  try dsimp only
  repeat' first
    | with_reducible exact ChangesOnly.refl _ _
    | with_reducible assumption
    | decide
    | exact .inr (by decide)
    | exact .inl rfl
    | with_reducible refine ChangesOnly.modImg _ ?_ ?_ ?_
    | with_reducible refine logImage_changes ?_ ?_
    | with_reducible refine partition_changes ?_ ?_
    | with_reducible refine loadGates_changes ?_ ?_
    | with_reducible refine loadShapers_changes ?_ ?_

theorem loadSteps_changes {b : FieldBody} {s : State} (h₀ : ChangesOnly parts start s)
    (h₁ : [.crf] ⊆ parts) : ChangesOnly parts start (loadSteps b s) := by
  refine h₀.step ?_ h₁
  unfold loadSteps
  try dsimp only
  repeat' first
    | with_reducible exact ChangesOnly.refl _ _
    | with_reducible assumption
    | decide
    | with_reducible refine ChangesOnly.modCroft _ _ ?_ ?_
    | with_reducible refine ChangesOnly.foldl _ ?_ (fun _ _ _ => ?_)
    | split

theorem freshBarrier_changes {f seq : Nat} {s : State} (h₀ : ChangesOnly parts start s)
    (h₁ : [.glb, .flt, .fatal, .attic, .bel, .crf, .bln, .host, .out] ⊆ parts) : ChangesOnly parts start (freshBarrier f seq s) := by
  refine h₀.step ?_ h₁
  unfold freshBarrier
  try dsimp only
  repeat' first
    | with_reducible exact ChangesOnly.refl _ _
    | with_reducible assumption
    | decide
    | with_reducible refine ChangesOnly.modBarrier _ _ ?_ ?_
    | with_reducible refine tryArrive_changes ?_ ?_
    | with_reducible refine ChangesOnly.ite_any ?_ ?_
    | split

theorem restoreSlots_changes {ds : List (Option SlotRead)} {s : State} (h₀ : ChangesOnly parts start s)
    (h₁ : [.fld, .crf] ⊆ parts) : ChangesOnly parts start (restoreSlots ds s) := by
  refine h₀.step ?_ h₁
  unfold restoreSlots
  try dsimp only
  repeat' first
    | with_reducible exact ChangesOnly.refl _ _
    | with_reducible assumption
    | decide
    | with_reducible refine restoreSlot_changes ?_ ?_
    | with_reducible refine ChangesOnly.foldl _ ?_ (fun _ _ _ => ?_)
    | split

theorem loadOverlays_changes {b : FieldBody} {s : State} (h₀ : ChangesOnly parts start s)
    (h₁ : [.glb, .flt, .fatal, .attic, .bel, .cel, .mem, .bln, .host, .out] ⊆ parts) : ChangesOnly parts start (loadOverlays b s) := by
  refine h₀.step ?_ h₁
  unfold loadOverlays
  try dsimp only
  repeat' first
    | with_reducible exact ChangesOnly.refl _ _
    | with_reducible assumption
    | decide
    | with_reducible refine cellWrite_changes ?_ ?_
    | with_reducible refine ChangesOnly.foldl _ ?_ (fun _ _ _ => ?_)

theorem guestLaunch_changes {f : Nat} {staged : Bool} {i : Image} {b : FieldBody} {s : State} (h₀ : ChangesOnly parts start s)
    (h₁ : [.attic, .bel, .img, .host, .out] ⊆ parts) : ChangesOnly parts start (guestLaunch f staged i b s) := by
  refine h₀.step ?_ h₁
  unfold guestLaunch
  try dsimp only
  repeat' first
    | with_reducible exact ChangesOnly.refl _ _
    | with_reducible assumption
    | decide
    | exact .inr (by decide)
    | exact .inl rfl
    | with_reducible refine ChangesOnly.modBel _ ?_ ?_ ?_
    | with_reducible refine ChangesOnly.modImg _ ?_ ?_ ?_
    | with_reducible refine signal_changes ?_ ?_
    | with_reducible refine logImage_changes ?_ ?_
    | with_reducible refine ChangesOnly.ite_any ?_ ?_
    | split
    | (left; (try dsimp only); (repeat' split) <;> rfl)

end Sys2Proof.Machine
end

