-- ==== Sys2Proof/Laws/FrameRegGlobal.lean ====
section
/-! SUPPORT. Laws/FrameRegGlobal.lean: what the operations of the GLB, FLT, BEL and GAT blocks change: each adds its own parts, named in its second
hypothesis, to what a chain has changed so far. -/

set_option linter.all false
set_option maxRecDepth 8000

namespace Sys2Proof.Machine

variable {parts : List Part} {start : State}

theorem ro_changes {v : Nat} {s : State} (h₀ : ChangesOnly parts start s)
    (h₁ : ([] : List Part) ⊆ parts) : ChangesOnly parts start ((ro v s)).2 := by
  refine h₀.step ?_ h₁
  unfold ro
  try dsimp only
  repeat' first
    | with_reducible exact ChangesOnly.refl _ _
    | with_reducible assumption
    | decide
    | dsimp only

theorem rc_changes {v : Nat} {clear : State → State} {s : State} (h₀ : ChangesOnly parts start s)
    (h₁ : ([] : List Part) ⊆ parts)
    (hf : ∀  t, ChangesOnly parts start t → ChangesOnly parts start (clear  t)) : ChangesOnly parts start ((rc v clear s)).2 := by
  unfold rc
  try dsimp only
  repeat' first
    | with_reducible assumption
    | with_reducible exact h₀
    | with_reducible refine hf _ ?_
    | exact List.Subset.trans (by decide) h₁
    | exact h₁ (by decide)
    | dsimp only

theorem writeLocked_changes {same : Bool} {f : State → State} {s : State} (h₀ : ChangesOnly parts start s)
    (h₁ : [.glb] ⊆ parts)
    (hf : ∀  t, ChangesOnly parts start t → ChangesOnly parts start (f  t)) : ChangesOnly parts start (writeLocked same f s) := by
  unfold writeLocked
  try dsimp only
  repeat' first
    | with_reducible assumption
    | with_reducible exact h₀
    | with_reducible refine hf _ ?_
    | exact List.Subset.trans (by decide) h₁
    | exact h₁ (by decide)
    | with_reducible refine ChangesOnly.modGlb _ ?_ ?_
    | with_reducible refine ChangesOnly.ite_any ?_ ?_
    | split

theorem mailboxGo_changes {s : State} (h₀ : ChangesOnly parts start s)
    (h₁ : [.glb, .flt, .fatal, .attic, .bel, .shapers, .gates, .swc, .rte, .bln, .host, .inbox, .out] ⊆ parts) : ChangesOnly parts start (mailboxGo s) := by
  refine h₀.step ?_ h₁
  unfold mailboxGo
  try dsimp only
  repeat' first
    | with_reducible exact ChangesOnly.refl _ _
    | with_reducible assumption
    | decide
    | with_reducible refine ChangesOnly.modGlb _ ?_ ?_
    | with_reducible refine inject_changes ?_ ?_
    | with_reducible refine settleCore_changes ?_ ?_
    | with_reducible refine ChangesOnly.ite_any ?_ ?_
    | split

theorem readGlb_changes {o : Nat} {s : State} (h₀ : ChangesOnly parts start s)
    (h₁ : [.glb] ⊆ parts) : ChangesOnly parts start ((readGlb o s)).2 := by
  refine h₀.step ?_ h₁
  unfold readGlb
  try dsimp only
  repeat' first
    | with_reducible exact ChangesOnly.refl _ _
    | with_reducible assumption
    | decide
    | dsimp only
    | with_reducible refine ChangesOnly.modGlb _ ?_ ?_
    | with_reducible refine ro_changes ?_ ?_
    | with_reducible refine rc_changes ?_ ?_ (fun _ _ => ?_)
    | with_reducible refine ChangesOnly.ite_any ?_ ?_
    | with_reducible refine ChangesOnly.ite_snd ?_ ?_
    | split
    | (rename _ = (_, _) => hq; have e := congrArg Prod.snd hq; dsimp only at e; subst e; clear hq)

theorem writeGlb_changes {o v : Nat} {s : State} (h₀ : ChangesOnly parts start s)
    (h₁ : [.glb, .flt, .fatal, .attic, .bel, .shapers, .gates, .swc, .rte, .bln, .host, .inbox, .out] ⊆ parts) : ChangesOnly parts start (writeGlb o v s) := by
  refine h₀.step ?_ h₁
  unfold writeGlb
  try dsimp only
  repeat' first
    | with_reducible exact ChangesOnly.refl _ _
    | with_reducible assumption
    | decide
    | with_reducible refine ChangesOnly.modGlb _ ?_ ?_
    | with_reducible refine onlyIf_changes ?_ ?_ (fun _ _ => ?_)
    | with_reducible refine writeLocked_changes ?_ ?_ (fun _ _ => ?_)
    | with_reducible refine mailboxGo_changes ?_ ?_
    | dsimp only
    | with_reducible refine ChangesOnly.ite_any ?_ ?_
    | split

theorem readIn_changes {s : State} (h₀ : ChangesOnly parts start s)
    (h₁ : [.draws] ⊆ parts) : ChangesOnly parts start ((readIn s)).2 := by
  refine h₀.step ?_ h₁
  unfold readIn
  try dsimp only
  repeat' first
    | with_reducible exact ChangesOnly.refl _ _
    | with_reducible assumption
    | decide
    | dsimp only
    | with_reducible refine ChangesOnly.drawn ?_ ?_
    | with_reducible refine ChangesOnly.drawnBytes _ ?_ ?_
    | with_reducible refine ChangesOnly.ite_any ?_ ?_
    | with_reducible refine ChangesOnly.ite_snd ?_ ?_
    | split
    | (rename _ = (_, _) => hq; have e := congrArg Prod.snd hq; dsimp only at e; subst e; clear hq)

theorem readFlt_changes {o : Nat} {s : State} (h₀ : ChangesOnly parts start s)
    (h₁ : [.flt, .draws] ⊆ parts) : ChangesOnly parts start ((readFlt o s)).2 := by
  refine h₀.step ?_ h₁
  unfold readFlt
  try dsimp only
  repeat' first
    | with_reducible exact ChangesOnly.refl _ _
    | with_reducible assumption
    | decide
    | dsimp only
    | exact .inr (by decide)
    | exact .inl rfl
    | with_reducible refine ChangesOnly.modFlt _ ?_ ?_ ?_
    | with_reducible refine ro_changes ?_ ?_
    | with_reducible refine rc_changes ?_ ?_ (fun _ _ => ?_)
    | with_reducible refine readIn_changes ?_ ?_
    | with_reducible refine ChangesOnly.ite_any ?_ ?_
    | with_reducible refine ChangesOnly.ite_snd ?_ ?_
    | split
    | (rename _ = (_, _) => hq; have e := congrArg Prod.snd hq; dsimp only at e; subst e; clear hq)
    | (left; (try dsimp only); (repeat' split) <;> rfl)

theorem drawEnv_changes {s : State} (h₀ : ChangesOnly parts start s)
    (h₁ : [.draws] ⊆ parts) : ChangesOnly parts start ((drawEnv s)).2 := by
  refine h₀.step ?_ h₁
  unfold drawEnv
  try dsimp only
  repeat' first
    | with_reducible exact ChangesOnly.refl _ _
    | with_reducible assumption
    | decide
    | dsimp only
    | with_reducible refine ChangesOnly.drawn ?_ ?_
    | with_reducible refine ChangesOnly.drawnBytes _ ?_ ?_
    | with_reducible refine ChangesOnly.ite_any ?_ ?_
    | with_reducible refine ChangesOnly.ite_snd ?_ ?_
    | with_reducible refine ChangesOnly.skip _ ?_ ?_
    | split
    | (rename _ = (_, _) => hq; have e := congrArg Prod.snd hq; dsimp only at e; subst e; clear hq)

theorem readPortErr_changes {b : Nat} {s : State} (h₀ : ChangesOnly parts start s)
    (h₁ : [.bel] ⊆ parts) : ChangesOnly parts start ((readPortErr b s)).2 := by
  refine h₀.step ?_ h₁
  unfold readPortErr
  try dsimp only
  repeat' first
    | with_reducible exact ChangesOnly.refl _ _
    | with_reducible assumption
    | decide
    | dsimp only
    | exact .inr (by decide)
    | exact .inl rfl
    | with_reducible refine ChangesOnly.modBel _ ?_ ?_ ?_
    | with_reducible refine ChangesOnly.modBellPort _ _ ?_ ?_
    | with_reducible refine rc_changes ?_ ?_ (fun _ _ => ?_)

theorem readBel_changes {o : Nat} {s : State} (h₀ : ChangesOnly parts start s)
    (h₁ : [.bel] ⊆ parts) : ChangesOnly parts start ((readBel o s)).2 := by
  refine h₀.step ?_ h₁
  unfold readBel
  try dsimp only
  repeat' first
    | with_reducible exact ChangesOnly.refl _ _
    | with_reducible assumption
    | decide
    | dsimp only
    | with_reducible refine ro_changes ?_ ?_
    | with_reducible refine readPortErr_changes ?_ ?_
    | with_reducible refine ChangesOnly.ite_any ?_ ?_
    | with_reducible refine ChangesOnly.ite_snd ?_ ?_
    | split
    | (rename _ = (_, _) => hq; have e := congrArg Prod.snd hq; dsimp only at e; subst e; clear hq)

theorem writeBelStatus_changes {v : Nat} {s : State} (h₀ : ChangesOnly parts start s)
    (h₁ : [.bel, .bln, .host, .out] ⊆ parts) : ChangesOnly parts start (writeBelStatus v s) := by
  refine h₀.step ?_ h₁
  unfold writeBelStatus
  try dsimp only
  repeat' first
    | with_reducible exact ChangesOnly.refl _ _
    | with_reducible assumption
    | decide
    | exact .inr (by decide)
    | exact .inl rfl
    | with_reducible refine ChangesOnly.modBel _ ?_ ?_ ?_
    | with_reducible refine signal_changes ?_ ?_
    | with_reducible refine bellPortUnfence_changes ?_ ?_
    | with_reducible refine ChangesOnly.foldl _ ?_ (fun _ _ _ => ?_)
    | with_reducible refine ChangesOnly.ite_any ?_ ?_
    | split
    | (left; (try dsimp only); (repeat' split) <;> rfl)

theorem writeBel_changes {o v : Nat} {s : State} (h₀ : ChangesOnly parts start s)
    (h₁ : [.bel, .bln, .host, .out] ⊆ parts) : ChangesOnly parts start (writeBel o v s) := by
  refine h₀.step ?_ h₁
  unfold writeBel
  try dsimp only
  repeat' first
    | with_reducible exact ChangesOnly.refl _ _
    | with_reducible assumption
    | decide
    | exact .inr (by decide)
    | exact .inl rfl
    | with_reducible refine ChangesOnly.modBel _ ?_ ?_ ?_
    | with_reducible refine launchRequest_changes ?_ ?_
    | with_reducible refine writeBelStatus_changes ?_ ?_
    | with_reducible refine ChangesOnly.ite_any ?_ ?_
    | split
    | (left; (try dsimp only); (repeat' split) <;> rfl)

theorem readShaper_changes {p v r : Nat} {s : State} (h₀ : ChangesOnly parts start s)
    (h₁ : ([] : List Part) ⊆ parts) : ChangesOnly parts start ((readShaper p v r s)).2 := by
  refine h₀.step ?_ h₁
  unfold readShaper
  try dsimp only
  repeat' first
    | with_reducible exact ChangesOnly.refl _ _
    | with_reducible assumption
    | decide
    | dsimp only
    | with_reducible refine ro_changes ?_ ?_
    | with_reducible refine ChangesOnly.ite_any ?_ ?_
    | with_reducible refine ChangesOnly.ite_snd ?_ ?_
    | split
    | (rename _ = (_, _) => hq; have e := congrArg Prod.snd hq; dsimp only at e; subst e; clear hq)

theorem writeShaper_changes {p v r w : Nat} {s : State} (h₀ : ChangesOnly parts start s)
    (h₁ : [.shapers] ⊆ parts) : ChangesOnly parts start (writeShaper p v r w s) := by
  refine h₀.step ?_ h₁
  unfold writeShaper
  try dsimp only
  repeat' first
    | with_reducible exact ChangesOnly.refl _ _
    | with_reducible assumption
    | decide
    | with_reducible refine ChangesOnly.modShaper _ _ _ ?_ ?_
    | with_reducible refine shaperApply_changes ?_ ?_
    | with_reducible refine ChangesOnly.ite_any ?_ ?_
    | split

theorem readGate_changes {n r : Nat} {s : State} (h₀ : ChangesOnly parts start s)
    (h₁ : [.gates] ⊆ parts) : ChangesOnly parts start ((readGate n r s)).2 := by
  refine h₀.step ?_ h₁
  unfold readGate
  try dsimp only
  repeat' first
    | with_reducible exact ChangesOnly.refl _ _
    | with_reducible assumption
    | decide
    | dsimp only
    | with_reducible refine ChangesOnly.modGate _ _ ?_ ?_
    | with_reducible refine ro_changes ?_ ?_
    | with_reducible refine rc_changes ?_ ?_ (fun _ _ => ?_)
    | with_reducible refine ChangesOnly.ite_any ?_ ?_
    | with_reducible refine ChangesOnly.ite_snd ?_ ?_
    | split
    | (rename _ = (_, _) => hq; have e := congrArg Prod.snd hq; dsimp only at e; subst e; clear hq)

theorem readGat_changes {o : Nat} {s : State} (h₀ : ChangesOnly parts start s)
    (h₁ : [.gates] ⊆ parts) : ChangesOnly parts start ((readGat o s)).2 := by
  refine h₀.step ?_ h₁
  unfold readGat
  try dsimp only
  repeat' first
    | with_reducible exact ChangesOnly.refl _ _
    | with_reducible assumption
    | decide
    | dsimp only
    | with_reducible refine ro_changes ?_ ?_
    | with_reducible refine readShaper_changes ?_ ?_
    | with_reducible refine readGate_changes ?_ ?_
    | with_reducible refine ChangesOnly.ite_any ?_ ?_
    | with_reducible refine ChangesOnly.ite_snd ?_ ?_
    | split
    | (rename _ = (_, _) => hq; have e := congrArg Prod.snd hq; dsimp only at e; subst e; clear hq)

theorem writeGat_changes {o v : Nat} {s : State} (h₀ : ChangesOnly parts start s)
    (h₁ : [.shapers] ⊆ parts) : ChangesOnly parts start (writeGat o v s) := by
  refine h₀.step ?_ h₁
  unfold writeGat
  try dsimp only
  repeat' first
    | with_reducible exact ChangesOnly.refl _ _
    | with_reducible assumption
    | decide
    | with_reducible refine writeShaper_changes ?_ ?_
    | with_reducible refine ChangesOnly.ite_any ?_ ?_
    | split

end Sys2Proof.Machine
end

