-- ==== Sys2Proof/Laws/FrameRegFabric.lean ====
section
/-! SUPPORT. Laws/FrameRegFabric.lean: what the operations of the SWC, RTE, LNK and BLN blocks change: each adds its own parts, named in its second
hypothesis, to what a chain has changed so far. -/

set_option linter.all false
set_option maxRecDepth 8000

namespace Sys2Proof.Machine

variable {parts : List Part} {start : State}

theorem readSlotReg_changes {n r : Nat} {s : State} (h₀ : ChangesOnly parts start s)
    (h₁ : [.swc] ⊆ parts) : ChangesOnly parts start ((readSlotReg n r s)).2 := by
  refine h₀.step ?_ h₁
  unfold readSlotReg
  try dsimp only
  repeat' first
    | with_reducible exact ChangesOnly.refl _ _
    | with_reducible assumption
    | decide
    | dsimp only
    | with_reducible refine ChangesOnly.modSlot _ _ ?_ ?_
    | with_reducible refine ro_changes ?_ ?_
    | with_reducible refine rc_changes ?_ ?_ (fun _ _ => ?_)
    | with_reducible refine ChangesOnly.ite_any ?_ ?_
    | with_reducible refine ChangesOnly.ite_snd ?_ ?_
    | split
    | (rename _ = (_, _) => hq; have e := congrArg Prod.snd hq; dsimp only at e; subst e; clear hq)

theorem readSwc_changes {o : Nat} {s : State} (h₀ : ChangesOnly parts start s)
    (h₁ : [.swc] ⊆ parts) : ChangesOnly parts start ((readSwc o s)).2 := by
  refine h₀.step ?_ h₁
  unfold readSwc
  try dsimp only
  repeat' first
    | with_reducible exact ChangesOnly.refl _ _
    | with_reducible assumption
    | decide
    | dsimp only
    | with_reducible refine ro_changes ?_ ?_
    | with_reducible refine readSlotReg_changes ?_ ?_
    | with_reducible refine ChangesOnly.ite_any ?_ ?_
    | with_reducible refine ChangesOnly.ite_snd ?_ ?_
    | split
    | (rename _ = (_, _) => hq; have e := congrArg Prod.snd hq; dsimp only at e; subst e; clear hq)

theorem writeStall_changes {n v : Nat} {s : State} (h₀ : ChangesOnly parts start s)
    (h₁ : [.glb, .swc, .draws] ⊆ parts) : ChangesOnly parts start (writeStall n v s) := by
  refine h₀.step ?_ h₁
  unfold writeStall
  try dsimp only
  repeat' first
    | with_reducible exact ChangesOnly.refl _ _
    | with_reducible assumption
    | decide
    | dsimp only
    | with_reducible refine ChangesOnly.modSlot _ _ ?_ ?_
    | with_reducible refine ChangesOnly.drawn ?_ ?_
    | with_reducible refine ChangesOnly.drawnBytes _ ?_ ?_
    | with_reducible refine writeLocked_changes ?_ ?_ (fun _ _ => ?_)
    | with_reducible refine ChangesOnly.ite_any ?_ ?_
    | with_reducible refine ChangesOnly.ite_snd ?_ ?_
    | split
    | (rename _ = (_, _) => hq; have e := congrArg Prod.snd hq; dsimp only at e; subst e; clear hq)

theorem writeSwc_changes {o v : Nat} {s : State} (h₀ : ChangesOnly parts start s)
    (h₁ : [.glb, .swc, .draws] ⊆ parts) : ChangesOnly parts start (writeSwc o v s) := by
  refine h₀.step ?_ h₁
  unfold writeSwc
  try dsimp only
  repeat' first
    | with_reducible exact ChangesOnly.refl _ _
    | with_reducible assumption
    | decide
    | with_reducible refine ChangesOnly.modSwc _ ?_ ?_
    | with_reducible refine ChangesOnly.modSlot _ _ ?_ ?_
    | with_reducible refine onlyIf_changes ?_ ?_ (fun _ _ => ?_)
    | with_reducible refine writeLocked_changes ?_ ?_ (fun _ _ => ?_)
    | with_reducible refine writeStall_changes ?_ ?_
    | dsimp only
    | with_reducible refine ChangesOnly.ite_any ?_ ?_
    | split

theorem readRte_changes {o : Nat} {s : State} (h₀ : ChangesOnly parts start s)
    (h₁ : [.rte] ⊆ parts) : ChangesOnly parts start ((readRte o s)).2 := by
  refine h₀.step ?_ h₁
  unfold readRte
  try dsimp only
  repeat' first
    | with_reducible exact ChangesOnly.refl _ _
    | with_reducible assumption
    | decide
    | dsimp only
    | with_reducible refine ChangesOnly.modRte _ ?_ ?_
    | with_reducible refine ro_changes ?_ ?_
    | with_reducible refine rc_changes ?_ ?_ (fun _ _ => ?_)
    | with_reducible refine ChangesOnly.ite_any ?_ ?_
    | with_reducible refine ChangesOnly.ite_snd ?_ ?_
    | split
    | (rename _ = (_, _) => hq; have e := congrArg Prod.snd hq; dsimp only at e; subst e; clear hq)

theorem writeRte_changes {o v : Nat} {s : State} (h₀ : ChangesOnly parts start s)
    (h₁ : [.glb, .rte] ⊆ parts) : ChangesOnly parts start (writeRte o v s) := by
  refine h₀.step ?_ h₁
  unfold writeRte
  try dsimp only
  repeat' first
    | with_reducible exact ChangesOnly.refl _ _
    | with_reducible assumption
    | decide
    | with_reducible refine ChangesOnly.modRte _ ?_ ?_
    | with_reducible refine writeLocked_changes ?_ ?_ (fun _ _ => ?_)
    | dsimp only
    | with_reducible refine ChangesOnly.ite_any ?_ ?_
    | split

theorem readOptPort_changes {n r : Nat} {s : State} (h₀ : ChangesOnly parts start s)
    (h₁ : [.lnk] ⊆ parts) : ChangesOnly parts start ((readOptPort n r s)).2 := by
  refine h₀.step ?_ h₁
  unfold readOptPort
  try dsimp only
  repeat' first
    | with_reducible exact ChangesOnly.refl _ _
    | with_reducible assumption
    | decide
    | dsimp only
    | with_reducible refine ChangesOnly.modOptPort _ _ ?_ ?_
    | with_reducible refine ro_changes ?_ ?_
    | with_reducible refine rc_changes ?_ ?_ (fun _ _ => ?_)
    | with_reducible refine ChangesOnly.ite_any ?_ ?_
    | with_reducible refine ChangesOnly.ite_snd ?_ ?_
    | split
    | (rename _ = (_, _) => hq; have e := congrArg Prod.snd hq; dsimp only at e; subst e; clear hq)

theorem readPatErr_changes {oe l : Nat} {s : State} (h₀ : ChangesOnly parts start s)
    (h₁ : [.lnk, .draws] ⊆ parts) : ChangesOnly parts start ((readPatErr oe l s)).2 := by
  refine h₀.step ?_ h₁
  unfold readPatErr
  try dsimp only
  repeat' first
    | with_reducible exact ChangesOnly.refl _ _
    | with_reducible assumption
    | decide
    | dsimp only
    | with_reducible refine ChangesOnly.drawn ?_ ?_
    | with_reducible refine ChangesOnly.drawnBytes _ ?_ ?_
    | with_reducible refine State.modLane_changes ?_ ?_
    | with_reducible refine rc_changes ?_ ?_ (fun _ _ => ?_)
    | with_reducible refine ChangesOnly.ite_any ?_ ?_
    | with_reducible refine ChangesOnly.ite_snd ?_ ?_
    | split
    | (rename _ = (_, _) => hq; have e := congrArg Prod.snd hq; dsimp only at e; subst e; clear hq)

theorem readLane_changes {oe l r : Nat} {s : State} (h₀ : ChangesOnly parts start s)
    (h₁ : [.lnk, .draws] ⊆ parts) : ChangesOnly parts start ((readLane oe l r s)).2 := by
  refine h₀.step ?_ h₁
  unfold readLane
  try dsimp only
  repeat' first
    | with_reducible exact ChangesOnly.refl _ _
    | with_reducible assumption
    | decide
    | dsimp only
    | with_reducible refine State.modLane_changes ?_ ?_
    | with_reducible refine ro_changes ?_ ?_
    | with_reducible refine rc_changes ?_ ?_ (fun _ _ => ?_)
    | with_reducible refine readPatErr_changes ?_ ?_
    | with_reducible refine ChangesOnly.ite_any ?_ ?_
    | with_reducible refine ChangesOnly.ite_snd ?_ ?_
    | split
    | (rename _ = (_, _) => hq; have e := congrArg Prod.snd hq; dsimp only at e; subst e; clear hq)

theorem readFeedPower_changes {oe : Nat} {s : State} (h₀ : ChangesOnly parts start s)
    (h₁ : [.lnk, .draws] ⊆ parts) : ChangesOnly parts start ((readFeedPower oe s)).2 := by
  refine h₀.step ?_ h₁
  unfold readFeedPower
  try dsimp only
  repeat' first
    | with_reducible exact ChangesOnly.refl _ _
    | with_reducible assumption
    | decide
    | dsimp only
    | with_reducible refine ChangesOnly.modEngine _ _ ?_ ?_
    | with_reducible refine ChangesOnly.drawn ?_ ?_
    | with_reducible refine ChangesOnly.drawnBytes _ ?_ ?_
    | split
    | (rename _ = (_, _) => hq; have e := congrArg Prod.snd hq; dsimp only at e; subst e; clear hq)

theorem readLnk_changes {o : Nat} {s : State} (h₀ : ChangesOnly parts start s)
    (h₁ : [.lnk, .draws] ⊆ parts) : ChangesOnly parts start ((readLnk o s)).2 := by
  refine h₀.step ?_ h₁
  unfold readLnk
  try dsimp only
  repeat' first
    | with_reducible exact ChangesOnly.refl _ _
    | with_reducible assumption
    | decide
    | dsimp only
    | with_reducible refine ro_changes ?_ ?_
    | with_reducible refine readOptPort_changes ?_ ?_
    | with_reducible refine readLane_changes ?_ ?_
    | with_reducible refine readFeedPower_changes ?_ ?_
    | with_reducible refine ChangesOnly.ite_any ?_ ?_
    | with_reducible refine ChangesOnly.ite_snd ?_ ?_
    | split
    | (rename _ = (_, _) => hq; have e := congrArg Prod.snd hq; dsimp only at e; subst e; clear hq)

theorem writePortInject_changes {n v : Nat} {s : State} (h₀ : ChangesOnly parts start s)
    (h₁ : [.swc, .lnk] ⊆ parts) : ChangesOnly parts start (writePortInject n v s) := by
  refine h₀.step ?_ h₁
  unfold writePortInject
  try dsimp only
  repeat' first
    | with_reducible exact ChangesOnly.refl _ _
    | with_reducible assumption
    | decide
    | with_reducible refine ChangesOnly.modOptPort _ _ ?_ ?_
    | with_reducible refine injectBurst_changes ?_ ?_
    | with_reducible refine injectLcrc_changes ?_ ?_
    | with_reducible refine ChangesOnly.ite_any ?_ ?_
    | split

theorem writePattern_changes {oe l v : Nat} {s : State} (h₀ : ChangesOnly parts start s)
    (h₁ : [.lnk, .draws] ⊆ parts) : ChangesOnly parts start (writePattern oe l v s) := by
  refine h₀.step ?_ h₁
  unfold writePattern
  try dsimp only
  repeat' first
    | with_reducible exact ChangesOnly.refl _ _
    | with_reducible assumption
    | decide
    | dsimp only
    | with_reducible refine ChangesOnly.drawn ?_ ?_
    | with_reducible refine ChangesOnly.drawnBytes _ ?_ ?_
    | with_reducible refine State.modLane_changes ?_ ?_
    | with_reducible refine ChangesOnly.ite_any ?_ ?_
    | with_reducible refine ChangesOnly.ite_snd ?_ ?_
    | split
    | (rename _ = (_, _) => hq; have e := congrArg Prod.snd hq; dsimp only at e; subst e; clear hq)

theorem writeLnk_changes {o v : Nat} {s : State} (h₀ : ChangesOnly parts start s)
    (h₁ : [.glb, .flt, .fatal, .attic, .bel, .shapers, .gates, .swc, .rte, .lnk, .bln, .host, .inbox, .out, .draws] ⊆ parts) : ChangesOnly parts start (writeLnk o v s) := by
  refine h₀.step ?_ h₁
  unfold writeLnk
  try dsimp only
  repeat' first
    | with_reducible exact ChangesOnly.refl _ _
    | with_reducible assumption
    | decide
    | with_reducible refine ChangesOnly.modEngine _ _ ?_ ?_
    | with_reducible refine portTestMode_changes ?_ ?_
    | with_reducible refine writeLocked_changes ?_ ?_ (fun _ _ => ?_)
    | with_reducible refine writePortInject_changes ?_ ?_
    | with_reducible refine writePattern_changes ?_ ?_
    | dsimp only
    | with_reducible refine ChangesOnly.ite_any ?_ ?_
    | split

theorem readPrbsErr_changes {b : Nat} {s : State} (h₀ : ChangesOnly parts start s)
    (h₁ : [.bln, .draws] ⊆ parts) : ChangesOnly parts start ((readPrbsErr b s)).2 := by
  refine h₀.step ?_ h₁
  unfold readPrbsErr
  try dsimp only
  repeat' first
    | with_reducible exact ChangesOnly.refl _ _
    | with_reducible assumption
    | decide
    | dsimp only
    | with_reducible refine ChangesOnly.modBln _ _ ?_ ?_
    | with_reducible refine ChangesOnly.drawn ?_ ?_
    | with_reducible refine ChangesOnly.drawnBytes _ ?_ ?_
    | with_reducible refine rc_changes ?_ ?_ (fun _ _ => ?_)
    | with_reducible refine ChangesOnly.ite_any ?_ ?_
    | with_reducible refine ChangesOnly.ite_snd ?_ ?_
    | split
    | (rename _ = (_, _) => hq; have e := congrArg Prod.snd hq; dsimp only at e; subst e; clear hq)

theorem readBln_changes {o : Nat} {s : State} (h₀ : ChangesOnly parts start s)
    (h₁ : [.bln, .draws] ⊆ parts) : ChangesOnly parts start ((readBln o s)).2 := by
  refine h₀.step ?_ h₁
  unfold readBln
  try dsimp only
  repeat' first
    | with_reducible exact ChangesOnly.refl _ _
    | with_reducible assumption
    | decide
    | dsimp only
    | with_reducible refine ChangesOnly.modBln _ _ ?_ ?_
    | with_reducible refine ro_changes ?_ ?_
    | with_reducible refine rc_changes ?_ ?_ (fun _ _ => ?_)
    | with_reducible refine readPrbsErr_changes ?_ ?_
    | with_reducible refine ChangesOnly.ite_any ?_ ?_
    | with_reducible refine ChangesOnly.ite_snd ?_ ?_
    | split
    | (rename _ = (_, _) => hq; have e := congrArg Prod.snd hq; dsimp only at e; subst e; clear hq)

theorem writeBln_changes {o v : Nat} {s : State} (h₀ : ChangesOnly parts start s)
    (h₁ : [.bel, .bln, .draws] ⊆ parts) : ChangesOnly parts start (writeBln o v s) := by
  refine h₀.step ?_ h₁
  unfold writeBln
  try dsimp only
  repeat' first
    | with_reducible exact ChangesOnly.refl _ _
    | with_reducible assumption
    | decide
    | with_reducible refine ChangesOnly.modBln _ _ ?_ ?_
    | with_reducible refine bellPortRetrain_changes ?_ ?_
    | with_reducible refine bellPortTest_changes ?_ ?_
    | with_reducible refine bellInjCv_changes ?_ ?_
    | with_reducible refine bellInjDisp_changes ?_ ?_
    | with_reducible refine bellInjCrc_changes ?_ ?_
    | with_reducible refine ChangesOnly.ite_any ?_ ?_
    | split

end Sys2Proof.Machine
end

