-- ==== Sys2Proof/Laws/FrameRegCompute.lean ====
section
/-! SUPPORT. Laws/FrameRegCompute.lean: what the operations of the FLD, CEL, STK, ATS, CRF, IMG and THM blocks change: each adds its own parts, named in its second
hypothesis, to what a chain has changed so far. -/

set_option linter.all false
set_option maxRecDepth 8000

namespace Sys2Proof.Machine

variable {parts : List Part} {start : State}

theorem readFld_changes {o : Nat} {s : State} (h₀ : ChangesOnly parts start s)
    (h₁ : [.fld] ⊆ parts) : ChangesOnly parts start ((readFld o s)).2 := by
  refine h₀.step ?_ h₁
  unfold readFld
  try dsimp only
  repeat' first
    | with_reducible exact ChangesOnly.refl _ _
    | with_reducible assumption
    | decide
    | dsimp only
    | with_reducible refine ChangesOnly.modFld _ ?_ ?_
    | with_reducible refine ro_changes ?_ ?_
    | with_reducible refine rc_changes ?_ ?_ (fun _ _ => ?_)
    | with_reducible refine ChangesOnly.ite_any ?_ ?_
    | with_reducible refine ChangesOnly.ite_snd ?_ ?_
    | split
    | (rename _ = (_, _) => hq; have e := congrArg Prod.snd hq; dsimp only at e; subst e; clear hq)

theorem writeFld_changes {o v : Nat} {s : State} (h₀ : ChangesOnly parts start s)
    (h₁ : [.fld] ⊆ parts) : ChangesOnly parts start (writeFld o v s) := by
  refine h₀.step ?_ h₁
  unfold writeFld
  try dsimp only
  repeat' first
    | with_reducible exact ChangesOnly.refl _ _
    | with_reducible assumption
    | decide
    | with_reducible refine ChangesOnly.modFld _ ?_ ?_
    | with_reducible refine onlyIf_changes ?_ ?_ (fun _ _ => ?_)
    | with_reducible refine tallyClear_changes ?_ ?_
    | dsimp only
    | with_reducible refine ChangesOnly.ite_any ?_ ?_
    | split

theorem readCelTract_changes {t r : Nat} {s : State} (h₀ : ChangesOnly parts start s)
    (h₁ : [.cel] ⊆ parts) : ChangesOnly parts start ((readCelTract t r s)).2 := by
  refine h₀.step ?_ h₁
  unfold readCelTract
  try dsimp only
  repeat' first
    | with_reducible exact ChangesOnly.refl _ _
    | with_reducible assumption
    | decide
    | dsimp only
    | with_reducible refine ChangesOnly.modTract _ _ ?_ ?_
    | with_reducible refine ro_changes ?_ ?_
    | with_reducible refine rc_changes ?_ ?_ (fun _ _ => ?_)
    | with_reducible refine ChangesOnly.ite_any ?_ ?_
    | with_reducible refine ChangesOnly.ite_snd ?_ ?_
    | split
    | (rename _ = (_, _) => hq; have e := congrArg Prod.snd hq; dsimp only at e; subst e; clear hq)

theorem readCel_changes {o : Nat} {s : State} (h₀ : ChangesOnly parts start s)
    (h₁ : [.cel] ⊆ parts) : ChangesOnly parts start ((readCel o s)).2 := by
  refine h₀.step ?_ h₁
  unfold readCel
  try dsimp only
  repeat' first
    | with_reducible exact ChangesOnly.refl _ _
    | with_reducible assumption
    | decide
    | dsimp only
    | exact .inr (by decide)
    | exact .inl rfl
    | with_reducible refine ChangesOnly.modCel _ ?_ ?_ ?_
    | with_reducible refine ro_changes ?_ ?_
    | with_reducible refine rc_changes ?_ ?_ (fun _ _ => ?_)
    | with_reducible refine readCelTract_changes ?_ ?_
    | with_reducible refine ChangesOnly.ite_any ?_ ?_
    | with_reducible refine ChangesOnly.ite_snd ?_ ?_
    | split
    | (rename _ = (_, _) => hq; have e := congrArg Prod.snd hq; dsimp only at e; subst e; clear hq)
    | (left; (try dsimp only); (repeat' split) <;> rfl)

theorem writeCel_changes {o v : Nat} {s : State} (h₀ : ChangesOnly parts start s)
    (h₁ : [.glb, .cel] ⊆ parts) : ChangesOnly parts start (writeCel o v s) := by
  refine h₀.step ?_ h₁
  unfold writeCel
  try dsimp only
  repeat' first
    | with_reducible exact ChangesOnly.refl _ _
    | with_reducible assumption
    | decide
    | exact .inr (by decide)
    | exact .inl rfl
    | with_reducible refine ChangesOnly.modCel _ ?_ ?_ ?_
    | with_reducible refine ChangesOnly.modTract _ _ ?_ ?_
    | with_reducible refine onlyIf_changes ?_ ?_ (fun _ _ => ?_)
    | with_reducible refine repairQueue_changes ?_ ?_
    | with_reducible refine promoteRequest_changes ?_ ?_
    | with_reducible refine writeLocked_changes ?_ ?_ (fun _ _ => ?_)
    | dsimp only
    | with_reducible refine ChangesOnly.ite_any ?_ ?_
    | split
    | (left; (try dsimp only); (repeat' split) <;> rfl)

theorem readStkTract_changes {t r : Nat} {s : State} (h₀ : ChangesOnly parts start s)
    (h₁ : [.cel] ⊆ parts) : ChangesOnly parts start ((readStkTract t r s)).2 := by
  refine h₀.step ?_ h₁
  unfold readStkTract
  try dsimp only
  repeat' first
    | with_reducible exact ChangesOnly.refl _ _
    | with_reducible assumption
    | decide
    | dsimp only
    | with_reducible refine ChangesOnly.modTract _ _ ?_ ?_
    | with_reducible refine ro_changes ?_ ?_
    | with_reducible refine rc_changes ?_ ?_ (fun _ _ => ?_)
    | with_reducible refine ChangesOnly.ite_any ?_ ?_
    | with_reducible refine ChangesOnly.ite_snd ?_ ?_
    | split
    | (rename _ = (_, _) => hq; have e := congrArg Prod.snd hq; dsimp only at e; subst e; clear hq)

theorem readStk_changes {o : Nat} {s : State} (h₀ : ChangesOnly parts start s)
    (h₁ : [.cel] ⊆ parts) : ChangesOnly parts start ((readStk o s)).2 := by
  refine h₀.step ?_ h₁
  unfold readStk
  try dsimp only
  repeat' first
    | with_reducible exact ChangesOnly.refl _ _
    | with_reducible assumption
    | decide
    | dsimp only
    | with_reducible refine ro_changes ?_ ?_
    | with_reducible refine readStkTract_changes ?_ ?_
    | with_reducible refine ChangesOnly.ite_any ?_ ?_
    | with_reducible refine ChangesOnly.ite_snd ?_ ?_
    | split
    | (rename _ = (_, _) => hq; have e := congrArg Prod.snd hq; dsimp only at e; subst e; clear hq)

theorem readAtsTract_changes {t r : Nat} {s : State} (h₀ : ChangesOnly parts start s)
    (h₁ : [.ats] ⊆ parts) : ChangesOnly parts start ((readAtsTract t r s)).2 := by
  refine h₀.step ?_ h₁
  unfold readAtsTract
  try dsimp only
  repeat' first
    | with_reducible exact ChangesOnly.refl _ _
    | with_reducible assumption
    | decide
    | dsimp only
    | with_reducible refine ChangesOnly.modAts _ ?_ ?_
    | with_reducible refine ChangesOnly.modAtsTract _ _ ?_ ?_
    | with_reducible refine ro_changes ?_ ?_
    | with_reducible refine rc_changes ?_ ?_ (fun _ _ => ?_)
    | with_reducible refine ChangesOnly.ite_any ?_ ?_
    | with_reducible refine ChangesOnly.ite_snd ?_ ?_
    | split
    | (rename _ = (_, _) => hq; have e := congrArg Prod.snd hq; dsimp only at e; subst e; clear hq)

theorem readAts_changes {o : Nat} {s : State} (h₀ : ChangesOnly parts start s)
    (h₁ : [.ats] ⊆ parts) : ChangesOnly parts start ((readAts o s)).2 := by
  refine h₀.step ?_ h₁
  unfold readAts
  try dsimp only
  repeat' first
    | with_reducible exact ChangesOnly.refl _ _
    | with_reducible assumption
    | decide
    | dsimp only
    | with_reducible refine ChangesOnly.modAts _ ?_ ?_
    | with_reducible refine ro_changes ?_ ?_
    | with_reducible refine rc_changes ?_ ?_ (fun _ _ => ?_)
    | with_reducible refine readAtsTract_changes ?_ ?_
    | with_reducible refine ChangesOnly.ite_any ?_ ?_
    | with_reducible refine ChangesOnly.ite_snd ?_ ?_
    | split
    | (rename _ = (_, _) => hq; have e := congrArg Prod.snd hq; dsimp only at e; subst e; clear hq)

theorem writeAts_changes {o v : Nat} {s : State} (h₀ : ChangesOnly parts start s)
    (h₁ : [.glb, .ats] ⊆ parts) : ChangesOnly parts start (writeAts o v s) := by
  refine h₀.step ?_ h₁
  unfold writeAts
  try dsimp only
  repeat' first
    | with_reducible exact ChangesOnly.refl _ _
    | with_reducible assumption
    | decide
    | with_reducible refine ChangesOnly.modAts _ ?_ ?_
    | with_reducible refine writeLocked_changes ?_ ?_ (fun _ _ => ?_)
    | dsimp only
    | with_reducible refine ChangesOnly.ite_any ?_ ?_
    | split

theorem readCroft_changes {k r : Nat} {s : State} (h₀ : ChangesOnly parts start s)
    (h₁ : [.crf] ⊆ parts) : ChangesOnly parts start ((readCroft k r s)).2 := by
  refine h₀.step ?_ h₁
  unfold readCroft
  try dsimp only
  repeat' first
    | with_reducible exact ChangesOnly.refl _ _
    | with_reducible assumption
    | decide
    | dsimp only
    | with_reducible refine ChangesOnly.modCroft _ _ ?_ ?_
    | with_reducible refine ro_changes ?_ ?_
    | with_reducible refine rc_changes ?_ ?_ (fun _ _ => ?_)
    | with_reducible refine ChangesOnly.ite_any ?_ ?_
    | with_reducible refine ChangesOnly.ite_snd ?_ ?_
    | split
    | (rename _ = (_, _) => hq; have e := congrArg Prod.snd hq; dsimp only at e; subst e; clear hq)

theorem writeCroft_changes {k r v : Nat} {s : State} (h₀ : ChangesOnly parts start s)
    (h₁ : [.crf] ⊆ parts) : ChangesOnly parts start (writeCroft k r v s) := by
  refine h₀.step ?_ h₁
  unfold writeCroft
  try dsimp only
  repeat' first
    | with_reducible exact ChangesOnly.refl _ _
    | with_reducible assumption
    | decide
    | with_reducible refine ChangesOnly.modCroft _ _ ?_ ?_
    | with_reducible refine ChangesOnly.ite_any ?_ ?_
    | split

theorem readImg_changes {o : Nat} {s : State} (h₀ : ChangesOnly parts start s)
    (h₁ : ([] : List Part) ⊆ parts) : ChangesOnly parts start ((readImg o s)).2 := by
  refine h₀.step ?_ h₁
  unfold readImg
  try dsimp only
  repeat' first
    | with_reducible exact ChangesOnly.refl _ _
    | with_reducible assumption
    | decide
    | dsimp only
    | with_reducible refine ro_changes ?_ ?_
    | with_reducible refine ChangesOnly.ite_any ?_ ?_
    | with_reducible refine ChangesOnly.ite_snd ?_ ?_
    | split
    | (rename _ = (_, _) => hq; have e := congrArg Prod.snd hq; dsimp only at e; subst e; clear hq)

theorem imgCommand_changes {cmd : Nat} {s : State} (h₀ : ChangesOnly parts start s)
    (h₁ : [.bel, .img, .host, .out] ⊆ parts) : ChangesOnly parts start (imgCommand cmd s) := by
  refine h₀.step ?_ h₁
  unfold imgCommand
  try dsimp only
  repeat' first
    | with_reducible exact ChangesOnly.refl _ _
    | with_reducible assumption
    | decide
    | with_reducible refine onLoader_changes ?_ ?_ (fun _ _ => ?_)
    | with_reducible refine startVerify_changes ?_ ?_
    | with_reducible refine discard_changes ?_ ?_
    | with_reducible refine applyBase_changes ?_ ?_
    | dsimp only
    | with_reducible refine ChangesOnly.ite_any ?_ ?_
    | split

theorem readAtc_changes {o : Nat} {s : State} (h₀ : ChangesOnly parts start s)
    (h₁ : ([] : List Part) ⊆ parts) : ChangesOnly parts start ((readAtc o s)).2 := by
  refine h₀.step ?_ h₁
  unfold readAtc
  try dsimp only
  repeat' first
    | with_reducible exact ChangesOnly.refl _ _
    | with_reducible assumption
    | decide
    | dsimp only
    | with_reducible refine ro_changes ?_ ?_
    | with_reducible refine ChangesOnly.ite_any ?_ ?_
    | with_reducible refine ChangesOnly.ite_snd ?_ ?_
    | split
    | (rename _ = (_, _) => hq; have e := congrArg Prod.snd hq; dsimp only at e; subst e; clear hq)

theorem readThm_changes {o : Nat} {s : State} (h₀ : ChangesOnly parts start s)
    (h₁ : [.thm, .draws] ⊆ parts) : ChangesOnly parts start ((readThm o s)).2 := by
  refine h₀.step ?_ h₁
  unfold readThm
  try dsimp only
  repeat' first
    | with_reducible exact ChangesOnly.refl _ _
    | with_reducible assumption
    | decide
    | dsimp only
    | with_reducible refine ChangesOnly.modThm _ ?_ ?_
    | with_reducible refine samplePower_changes ?_ ?_
    | with_reducible refine ro_changes ?_ ?_
    | with_reducible refine rc_changes ?_ ?_ (fun _ _ => ?_)
    | with_reducible refine ChangesOnly.ite_any ?_ ?_
    | with_reducible refine ChangesOnly.ite_snd ?_ ?_
    | split
    | (rename _ = (_, _) => hq; have e := congrArg Prod.snd hq; dsimp only at e; subst e; clear hq)

theorem writeThm_changes {o v : Nat} {s : State} (h₀ : ChangesOnly parts start s)
    (h₁ : [.glb, .thm] ⊆ parts) : ChangesOnly parts start (writeThm o v s) := by
  refine h₀.step ?_ h₁
  unfold writeThm
  try dsimp only
  repeat' first
    | with_reducible exact ChangesOnly.refl _ _
    | with_reducible assumption
    | decide
    | with_reducible refine ChangesOnly.modThm _ ?_ ?_
    | with_reducible refine onlyIf_changes ?_ ?_ (fun _ _ => ?_)
    | with_reducible refine peakClear_changes ?_ ?_
    | with_reducible refine writeLocked_changes ?_ ?_ (fun _ _ => ?_)
    | dsimp only
    | with_reducible refine ChangesOnly.ite_any ?_ ?_
    | split

end Sys2Proof.Machine
end

