-- ==== Sys2Proof/Laws/FrameSecurity.lean ====
section
/-! SUPPORT. Laws/FrameSecurity.lean: what the operations of reports and key operations change: each adds its own parts, named in its second
hypothesis, to what a chain has changed so far. -/

set_option linter.all false
set_option maxRecDepth 8000

namespace Sys2Proof.Machine

variable {parts : List Part} {start : State}

theorem readSec_changes {o : Nat} {s : State} (h₀ : ChangesOnly parts start s)
    (h₁ : ([] : List Part) ⊆ parts) : ChangesOnly parts start ((readSec o s)).2 := by
  refine h₀.step ?_ h₁
  unfold readSec
  try dsimp only
  repeat' first
    | with_reducible exact ChangesOnly.refl _ _
    | with_reducible assumption
    | decide
    | dsimp only
    | with_reducible refine ro_changes ?_ ?_
    | with_reducible refine ChangesOnly.ite_any ?_ ?_
    | with_reducible refine ChangesOnly.ite_snd ?_ ?_
    | split
    | (rename _ = (_, _) => hq; have e := congrArg Prod.snd hq; dsimp only at e; subst e; clear hq)

theorem endSec_changes {code : Nat} {s : State} (h₀ : ChangesOnly parts start s)
    (h₁ : [.sec] ⊆ parts) : ChangesOnly parts start (endSec code s) := by
  refine h₀.step ?_ h₁
  unfold endSec
  try dsimp only
  repeat' first
    | with_reducible exact ChangesOnly.refl _ _
    | with_reducible assumption
    | decide
    | with_reducible refine ChangesOnly.modSec _ ?_ ?_
    | with_reducible refine ChangesOnly.ite_any ?_ ?_
    | split

theorem attest_changes {s : State} (h₀ : ChangesOnly parts start s)
    (h₁ : [.sec, .draws] ⊆ parts) : ChangesOnly parts start (attest s) := by
  refine h₀.step ?_ h₁
  unfold attest
  try dsimp only
  repeat' first
    | with_reducible exact ChangesOnly.refl _ _
    | with_reducible assumption
    | decide
    | dsimp only
    | with_reducible refine ChangesOnly.modSec _ ?_ ?_
    | with_reducible refine ChangesOnly.drawn ?_ ?_
    | with_reducible refine ChangesOnly.drawnBytes _ ?_ ?_
    | with_reducible refine report_changes ?_ ?_
    | with_reducible refine endSec_changes ?_ ?_
    | with_reducible refine ChangesOnly.ite_any ?_ ?_
    | with_reducible refine ChangesOnly.ite_snd ?_ ?_
    | split
    | (rename _ = (_, _) => hq; have e := congrArg Prod.snd hq; dsimp only at e; subst e; clear hq)

theorem enrollSlot_changes {r : KeyRecord} {s : State} (h₀ : ChangesOnly parts start s)
    (h₁ : [.fuses, .sec, .draws] ⊆ parts) : ChangesOnly parts start (enrollSlot r s) := by
  refine h₀.step ?_ h₁
  unfold enrollSlot
  try dsimp only
  repeat' first
    | with_reducible exact ChangesOnly.refl _ _
    | with_reducible assumption
    | decide
    | dsimp only
    | with_reducible refine ChangesOnly.modFuses _ ?_ ?_
    | with_reducible refine ChangesOnly.drawn ?_ ?_
    | with_reducible refine ChangesOnly.drawnBytes _ ?_ ?_
    | with_reducible refine endSec_changes ?_ ?_
    | with_reducible refine ChangesOnly.ite_any ?_ ?_
    | with_reducible refine ChangesOnly.ite_snd ?_ ?_
    | split
    | (rename _ = (_, _) => hq; have e := congrArg Prod.snd hq; dsimp only at e; subst e; clear hq)

theorem revokeSlot_changes {r : KeyRecord} {s : State} (h₀ : ChangesOnly parts start s)
    (h₁ : [.fuses, .sec] ⊆ parts) : ChangesOnly parts start (revokeSlot r s) := by
  refine h₀.step ?_ h₁
  unfold revokeSlot
  try dsimp only
  repeat' first
    | with_reducible exact ChangesOnly.refl _ _
    | with_reducible assumption
    | decide
    | with_reducible refine ChangesOnly.modFuses _ ?_ ?_
    | with_reducible refine endSec_changes ?_ ?_

theorem keyOp_changes {s : State} (h₀ : ChangesOnly parts start s)
    (h₁ : [.fuses, .sec, .draws] ⊆ parts) : ChangesOnly parts start (keyOp s) := by
  refine h₀.step ?_ h₁
  unfold keyOp
  try dsimp only
  repeat' first
    | with_reducible exact ChangesOnly.refl _ _
    | with_reducible assumption
    | decide
    | dsimp only
    | with_reducible refine ChangesOnly.modSec _ ?_ ?_
    | with_reducible refine ChangesOnly.drawn ?_ ?_
    | with_reducible refine ChangesOnly.drawnBytes _ ?_ ?_
    | with_reducible refine endSec_changes ?_ ?_
    | with_reducible refine enrollSlot_changes ?_ ?_
    | with_reducible refine revokeSlot_changes ?_ ?_
    | with_reducible refine ChangesOnly.ite_any ?_ ?_
    | with_reducible refine ChangesOnly.ite_snd ?_ ?_
    | split
    | (rename _ = (_, _) => hq; have e := congrArg Prod.snd hq; dsimp only at e; subst e; clear hq)

theorem writeSec_changes {o v : Nat} {s : State} (h₀ : ChangesOnly parts start s)
    (h₁ : [.fuses, .sec, .draws] ⊆ parts) : ChangesOnly parts start (writeSec o v s) := by
  refine h₀.step ?_ h₁
  unfold writeSec
  try dsimp only
  repeat' first
    | with_reducible exact ChangesOnly.refl _ _
    | with_reducible assumption
    | decide
    | with_reducible refine ChangesOnly.modSec _ ?_ ?_
    | with_reducible refine attest_changes ?_ ?_
    | with_reducible refine keyOp_changes ?_ ?_
    | with_reducible refine ChangesOnly.ite_any ?_ ?_
    | split

end Sys2Proof.Machine
end

