-- ==== Sys2Proof/Laws/FrameRegisters.lean ====
section
/-! SUPPORT. Laws/FrameRegisters.lean: what the operations of register accesses change: each adds its own parts, named in its second
hypothesis, to what a chain has changed so far. -/

set_option linter.all false
set_option maxRecDepth 8000

namespace Sys2Proof.Machine

variable {parts : List Part} {start : State}

theorem writeMsix_changes {i v : Nat} {s : State} (h₀ : ChangesOnly parts start s)
    (h₁ : [.host, .out] ⊆ parts) : ChangesOnly parts start (writeMsix i v s) := by
  refine h₀.step ?_ h₁
  unfold writeMsix
  try dsimp only
  repeat' first
    | with_reducible exact ChangesOnly.refl _ _
    | with_reducible assumption
    | decide
    | with_reducible refine ChangesOnly.modHost _ ?_ ?_
    | with_reducible refine signal_changes ?_ ?_
    | with_reducible refine ChangesOnly.ite_any ?_ ?_
    | split

theorem readBlock_changes {b : Block} {o : Nat} {s : State} (h₀ : ChangesOnly parts start s)
    (h₁ : [.glb, .flt, .bel, .gates, .swc, .rte, .fld, .cel, .ats, .crf, .lnk, .bln, .thm, .draws] ⊆ parts) : ChangesOnly parts start ((readBlock b o s)).2 := by
  refine h₀.step ?_ h₁
  unfold readBlock
  try dsimp only
  repeat' first
    | with_reducible exact ChangesOnly.refl _ _
    | with_reducible assumption
    | decide
    | dsimp only
    | with_reducible refine ro_changes ?_ ?_
    | with_reducible refine readGlb_changes ?_ ?_
    | with_reducible refine readFlt_changes ?_ ?_
    | with_reducible refine readBel_changes ?_ ?_
    | with_reducible refine readGat_changes ?_ ?_
    | with_reducible refine readSwc_changes ?_ ?_
    | with_reducible refine readRte_changes ?_ ?_
    | with_reducible refine readLnk_changes ?_ ?_
    | with_reducible refine readBln_changes ?_ ?_
    | with_reducible refine readFld_changes ?_ ?_
    | with_reducible refine readCel_changes ?_ ?_
    | with_reducible refine readStk_changes ?_ ?_
    | with_reducible refine readAts_changes ?_ ?_
    | with_reducible refine readCroft_changes ?_ ?_
    | with_reducible refine readImg_changes ?_ ?_
    | with_reducible refine readAtc_changes ?_ ?_
    | with_reducible refine readThm_changes ?_ ?_
    | with_reducible refine readSec_changes ?_ ?_
    | with_reducible refine ChangesOnly.ite_any ?_ ?_
    | with_reducible refine ChangesOnly.ite_snd ?_ ?_
    | split
    | (rename _ = (_, _) => hq; have e := congrArg Prod.snd hq; dsimp only at e; subst e; clear hq)

theorem logFused_changes {off access : Nat} {s : State} (h₀ : ChangesOnly parts start s)
    (h₁ : [.glb, .flt, .fatal, .attic, .bel, .bln, .host, .out] ⊆ parts) : ChangesOnly parts start (logFused off access s) := by
  refine h₀.step ?_ h₁
  unfold logFused
  try dsimp only
  repeat' first
    | with_reducible exact ChangesOnly.refl _ _
    | with_reducible assumption
    | decide
    | with_reducible refine recordFault_changes ?_ ?_

theorem readPlain_changes {off : Nat} {s : State} (h₀ : ChangesOnly parts start s)
    (h₁ : [.glb, .flt, .fatal, .attic, .bel, .gates, .swc, .rte, .fld, .cel, .ats, .crf, .lnk, .bln, .thm, .host, .out, .draws] ⊆ parts) : ChangesOnly parts start ((readPlain off s)).2 := by
  refine h₀.step ?_ h₁
  unfold readPlain
  try dsimp only
  repeat' first
    | with_reducible exact ChangesOnly.refl _ _
    | with_reducible assumption
    | decide
    | dsimp only
    | with_reducible refine readBlock_changes ?_ ?_
    | with_reducible refine logFused_changes ?_ ?_
    | with_reducible refine ChangesOnly.ite_any ?_ ?_
    | with_reducible refine ChangesOnly.ite_snd ?_ ?_
    | split
    | (rename _ = (_, _) => hq; have e := congrArg Prod.snd hq; dsimp only at e; subst e; clear hq)

theorem readReg_changes {off : Nat} {s : State} (h₀ : ChangesOnly parts start s)
    (h₁ : [.glb, .flt, .fatal, .attic, .bel, .gates, .swc, .rte, .fld, .cel, .ats, .crf, .lnk, .bln, .thm, .host, .out, .draws] ⊆ parts) : ChangesOnly parts start ((readReg off s)).2 := by
  refine h₀.step ?_ h₁
  unfold readReg
  try dsimp only
  repeat' first
    | with_reducible exact ChangesOnly.refl _ _
    | with_reducible assumption
    | decide
    | dsimp only
    | with_reducible refine ChangesOnly.modGlb _ ?_ ?_
    | with_reducible refine readPlain_changes ?_ ?_
    | with_reducible refine ChangesOnly.ite_any ?_ ?_
    | with_reducible refine ChangesOnly.ite_snd ?_ ?_
    | split
    | (rename _ = (_, _) => hq; have e := congrArg Prod.snd hq; dsimp only at e; subst e; clear hq)

theorem earlyCommand_changes {o v : Nat} {s : State} (h₀ : ChangesOnly parts start s)
    (h₁ : [.img] ⊆ parts) : ChangesOnly parts start (earlyCommand o v s) := by
  refine h₀.step ?_ h₁
  unfold earlyCommand
  try dsimp only
  repeat' first
    | with_reducible exact ChangesOnly.refl _ _
    | with_reducible assumption
    | decide
    | with_reducible refine loseCommand_changes ?_ ?_
    | with_reducible refine ChangesOnly.ite_any ?_ ?_
    | split

theorem hostRead_changes {off : Nat} {s : State} (h₀ : ChangesOnly parts start s)
    (h₁ : [.glb, .flt, .fatal, .attic, .bel, .gates, .swc, .rte, .fld, .cel, .ats, .crf, .lnk, .bln, .thm, .host, .out, .draws] ⊆ parts) : ChangesOnly parts start (hostRead off s) := by
  refine h₀.step ?_ h₁
  unfold hostRead
  try dsimp only
  repeat' first
    | with_reducible exact ChangesOnly.refl _ _
    | with_reducible assumption
    | decide
    | dsimp only
    | with_reducible refine ChangesOnly.emit _ ?_ ?_
    | with_reducible refine readReg_changes ?_ ?_
    | with_reducible refine ChangesOnly.ite_any ?_ ?_
    | with_reducible refine ChangesOnly.ite_snd ?_ ?_
    | split
    | (rename _ = (_, _) => hq; have e := congrArg Prod.snd hq; dsimp only at e; subst e; clear hq)

theorem bar2Write_changes {off : Nat} {data : Bytes} {s : State} (h₀ : ChangesOnly parts start s)
    (h₁ : [.img, .buf] ⊆ parts) : ChangesOnly parts start (bar2Write off data s) := by
  refine h₀.step ?_ h₁
  unfold bar2Write
  try dsimp only
  repeat' first
    | with_reducible exact ChangesOnly.refl _ _
    | with_reducible assumption
    | decide
    | exact .inr (by decide)
    | exact .inl rfl
    | with_reducible refine ChangesOnly.modImg _ ?_ ?_ ?_
    | with_reducible refine ChangesOnly.ite_any ?_ ?_
    | split
    | (left; (try dsimp only); (repeat' split) <;> rfl)

theorem bar4Read_changes {off len : Nat} {s : State} (h₀ : ChangesOnly parts start s)
    (h₁ : [.glb, .flt, .fatal, .attic, .bel, .shapers, .gates, .swc, .rte, .fld, .cel, .crf, .bln, .host, .inbox, .out] ⊆ parts) : ChangesOnly parts start (bar4Read off len s) := by
  refine h₀.step ?_ h₁
  unfold bar4Read
  try dsimp only
  repeat' first
    | with_reducible exact ChangesOnly.refl _ _
    | with_reducible assumption
    | decide
    | dsimp only
    | with_reducible refine ChangesOnly.emit _ ?_ ?_
    | with_reducible refine settleCore_changes ?_ ?_
    | with_reducible refine readStack_changes ?_ ?_
    | with_reducible refine ChangesOnly.ite_any ?_ ?_
    | with_reducible refine ChangesOnly.ite_snd ?_ ?_
    | split
    | (rename _ = (_, _) => hq; have e := congrArg Prod.snd hq; dsimp only at e; subst e; clear hq)

theorem bar4Write_changes {off : Nat} {data : Bytes} {s : State} (h₀ : ChangesOnly parts start s)
    (h₁ : [.glb, .flt, .fatal, .attic, .bel, .cel, .mem, .bln, .host, .out] ⊆ parts) : ChangesOnly parts start (bar4Write off data s) := by
  refine h₀.step ?_ h₁
  unfold bar4Write
  try dsimp only
  repeat' first
    | with_reducible exact ChangesOnly.refl _ _
    | with_reducible assumption
    | decide
    | with_reducible refine ChangesOnly.modGlb _ ?_ ?_
    | with_reducible refine cellWrite_changes ?_ ?_
    | with_reducible refine ChangesOnly.ite_any ?_ ?_
    | split

end Sys2Proof.Machine
end

