-- ==== Sys2Proof/Laws/FrameMailbox.lean ====
section
/-! SUPPORT. Laws/FrameMailbox.lean: what the operations of the mailbox change: each adds its own parts, named in its second
hypothesis, to what a chain has changed so far. -/

set_option linter.all false
set_option maxRecDepth 8000

namespace Sys2Proof.Machine

variable {parts : List Part} {start : State}

theorem mailboxRequest_changes {write : Bool} {s : State} (h₀ : ChangesOnly parts start s)
    (h₁ : [.glb, .flt, .fatal, .attic, .bel, .shapers, .gates, .swc, .rte, .bln, .host, .inbox, .out] ⊆ parts) : ChangesOnly parts start (mailboxRequest write s) := by
  refine h₀.step ?_ h₁
  unfold mailboxRequest
  try dsimp only
  repeat' first
    | with_reducible exact ChangesOnly.refl _ _
    | with_reducible assumption
    | decide
    | with_reducible refine ChangesOnly.modGlb _ ?_ ?_
    | with_reducible refine mailboxGo_changes ?_ ?_
    | with_reducible refine ChangesOnly.ite_any ?_ ?_
    | split

theorem mgmtRsp_changes {p : Packet} {s : State} (h₀ : ChangesOnly parts start s)
    (h₁ : [.glb, .inbox] ⊆ parts) : ChangesOnly parts start (mgmtRsp p s) := by
  refine h₀.step ?_ h₁
  unfold mgmtRsp
  try dsimp only
  repeat' first
    | with_reducible exact ChangesOnly.refl _ _
    | with_reducible assumption
    | decide
    | with_reducible refine ChangesOnly.modGlb _ ?_ ?_
    | with_reducible refine takeInbox_changes ?_ ?_
    | with_reducible refine ChangesOnly.foldl _ ?_ (fun _ _ _ => ?_)
    | with_reducible refine ChangesOnly.ite_any ?_ ?_
    | split

theorem mailboxTimeout_changes {s : State} (h₀ : ChangesOnly parts start s)
    (h₁ : [.glb, .gt, .clock, .shapers, .thm] ⊆ parts) : ChangesOnly parts start (mailboxTimeout s) := by
  refine h₀.step ?_ h₁
  unfold mailboxTimeout
  try dsimp only
  repeat' first
    | with_reducible exact ChangesOnly.refl _ _
    | with_reducible assumption
    | decide
    | with_reducible refine ChangesOnly.modGlb _ ?_ ?_
    | with_reducible refine advanceTo_changes ?_ ?_
    | with_reducible refine ChangesOnly.ite_any ?_ ?_
    | split

theorem mgmtReads_changes {off n : Nat} {s : State} (h₀ : ChangesOnly parts start s)
    (h₁ : [.glb, .flt, .fatal, .attic, .bel, .gates, .swc, .rte, .fld, .cel, .ats, .crf, .lnk, .bln, .thm, .host, .out, .draws] ⊆ parts) :
    ChangesOnly parts start (mgmtReads off n s).2 := by
  refine h₀.step ?_ h₁
  clear h₀ h₁
  induction n generalizing off s with
  | zero => exact ChangesOnly.refl _ _
  | succ n ih => exact (readReg_changes (ChangesOnly.refl _ _) (List.Subset.refl _)).trans ih

theorem mgmtTakes_changes {ptype : Nat} {f : Packet → State → State} {p : Packet} {s : State} (h₀ : ChangesOnly parts start s)
    (h₁ : ([] : List Part) ⊆ parts)
    (hf : ∀ x0 t, ChangesOnly parts start t → ChangesOnly parts start (f x0 t)) : ChangesOnly parts start (mgmtTakes ptype f p s) := by
  unfold mgmtTakes
  try dsimp only
  repeat' first
    | with_reducible assumption
    | with_reducible exact h₀
    | with_reducible refine hf _ _ ?_
    | exact List.Subset.trans (by decide) h₁
    | exact h₁ (by decide)
    | with_reducible refine ChangesOnly.ite_any ?_ ?_
    | split

end Sys2Proof.Machine
end

