-- ==== Sys2Proof/Laws/Memory.lean ====
section
/-! SUPPORT. Laws/Memory.lean: a write is read back and leaves every other byte; every memory operation keeps the
canonical form. -/

namespace Sys2Proof.Machine

theorem Memory.read_write (m : Memory) (a : Nat) (b : Byte) (x : Nat) :
    Memory.read (Memory.write m a b) x = if x = a then b else Memory.read m x := Tab.look_put ..

theorem Memory.wf_write {m : Memory} (a : Nat) (b : Byte) (h : Memory.wf m = true) : Memory.wf (Memory.write m a b) = true :=
  Tab.wf_put a b h

/-- What a byte reads as after a string has been written from `a` on. -/
theorem Memory.read_writeN (bs : Bytes) : ∀ (m : Memory) (a x : Nat),
    Memory.read (Memory.writeN m a bs) x = if a ≤ x ∧ x < a + bs.length then bs.getD (x - a) 0 else Memory.read m x := by
  induction bs with
  | nil => intro m a x; simp [Memory.writeN]
  | cons b r ih =>
    intro m a x
    rw [Memory.writeN, ih, Memory.read_write]
    rcases Nat.lt_trichotomy x a with h | h | h
    · rw [if_neg (by omega), if_neg (by omega), if_neg (by simp; omega)]
    · subst h; rw [if_neg (by omega), if_pos rfl, if_pos (by simp)]; simp
    · obtain ⟨k, rfl⟩ : ∃ k, x = a + 1 + k := ⟨x - a - 1, by omega⟩
      have e : a + 1 + k - a = k + 1 := by omega
      by_cases hk : k < r.length
      · rw [if_pos (by omega), if_pos (by simp; omega), e, List.getD_cons_succ]; congr 1; omega
      · rw [if_neg (by omega), if_neg (by omega), if_neg (by simp; omega)]

theorem Memory.wf_writeN (bs : Bytes) : ∀ {m : Memory} (a : Nat), Memory.wf m = true →
    Memory.wf (Memory.writeN m a bs) = true := by
  induction bs with
  | nil => intro m a h; exact h
  | cons b r ih => intro m a h; exact ih (a + 1) (Memory.wf_write a b h)

theorem Memory.wf_clear {m : Memory} (a n : Nat) (h : Memory.wf m = true) : Memory.wf (Memory.clear m a n) = true :=
  Tab.wf_filter _ h

@[simp] theorem Memory.length_readN (m : Memory) (a n : Nat) : (Memory.readN m a n).length = n := by simp [Memory.readN]

end Sys2Proof.Machine
end

