-- ==== Sys2Proof/Tests/Slice0.lean ====
section
/-! SUPPORT. Tests/Slice0.lean: tests of single commands on small states, ill-formed commands that are turned away, and
for every statement with hypotheses a state and operands that meet them together (theorems `witness_…`). -/

set_option Elab.async false

namespace Sys2Proof.Tests

open Sys2Proof.Machine

/-- The state after a command, or the state itself where the command stops. -/
def after (c : Instr) (s : State) : State := match exec c s with | .next t => t | _ => s

/-- Whether an open fault record of a SOURCE exists. -/
def opened (source : Nat) (t : State) : Bool := t.attic.openRecs.any (fun r => r.source == source)

/-- A device of slot 3 of Paddock (1, 1) in READY, its Bell grid 4 × 4 Paddocks, every Bell lane aligned. -/
def grid : State := { State.reset with
  glb := { stage := 7, sampled := true, straps := { padX := 1, padY := 1, slot := 3 } }
  img := { base := some { hdr := { kind := 1, kexp := 11 }, body := .base { topology := { extentW := 4, extentH := 4 } } } }
  bln := [(0, { aligned := true }), (1, { aligned := true }), (2, { aligned := true }), (3, { aligned := true })]
  bel := { k := 11, gt := 2040 } }

/-- The same device as the acting Bellwether. -/
def root : State := grid.modBel (fun b => { b with role := .bellwether, acting := true, state := .locked, hop := 0 })

/-- The same device as a worker that follows BN in a Bell state; the join's delay is two GT. -/
def follower (st : BellState) : State := grid.modBel (fun b => { b with
  state := st, upstream := 0, hop := 3, lastM := some 0, inTol := 15
  ports := [(0, { rounds := List.replicate 64 256, probeOut := some (9, 100), probeAt := some 2050 }),
            (2, { rounds := List.replicate 64 256 })] })

/-! ## The Bell (chapter 03) -/

/-- A mark of M = 2048 from two joins below the root. -/
def mark2048 : MarkFrame := { locked := true, hop := 2, kexp := 11, root := 5, m := 2048, corr := 64 }

theorem witness_bellwetherSendsMarks :
    (root.bellOn = true ∧ root.bel.role = .bellwether ∧ root.bellServes 0 = true ∧ root.bellServes 3 = true) ∧
    (let s := (follower .holdover).modBel (fun b => { b with role := .standby, missed := 3 })
     s.bellOn = true ∧ s.bel.role = .standby ∧ 3 ≤ s.bel.missed) := by decide +kernel

theorem test_bellMarkSend :
    (after .bellMarkSend root).bel.sentM = some 2048 ∧ (after .bellMarkSend root).bel.gt = 2048 ∧
    (after .bellMarkSend root).out.length = 4 := by decide +kernel

theorem test_standbyTakeover :
    let t := after .standbyTakeover ((follower .holdover).modBel (fun b => { b with role := .standby, missed := 3 }))
    t.bel.epoch = 1 ∧ t.bel.takeover = true ∧ opened 0x0204 t = true ∧ t.bel.gt = 2048 := by decide +kernel

/-- Every case of the servo: the offsets 16, 64, 65 and 512 fine units at their bounds. -/
theorem witness_marksDriveTheServo :
    (∀ x ∈ [BellState.unsync, .acquire, .locked, .holdover],
      let s := follower x
      Wf.bell 0 = true ∧ Wf.mark mark2048 = true ∧ s.bellOn = true ∧ s.bellServes 0 = true ∧ s.bel.acting = false ∧
      s.bel.role ≠ .bellwether ∧ s.bel.upstream = 0 ∧ mark2048.epoch = s.bel.epoch ∧ s.delayValid 0 = true ∧
      s.joinDelay 0 = 128 ∧ s.bel.state = x) ∧
    (∀ d ∈ [0, 16, 17, 64, 65, 512], 2048 * 64 + 192 + d < 2 ^ 70) ∧
    FrameCheck.badCrc ≠ .good ∧ newerEpoch 0 1 = false := by decide +kernel

theorem test_mark_loads :
    let t := after (.mark 0 mark2048 .good (2048 * 64 + 200)) (follower .unsync)
    t.bel.gt = 2051 ∧ t.bel.state = .acquire ∧ t.bel.hop = 3 := by decide +kernel

theorem test_mark_locks :
    (after (.mark 0 mark2048 .good (2048 * 64 + 192 + 16)) (follower .acquire)).bel.state = .locked ∧
    (after (.mark 0 mark2048 .good (2048 * 64 + 192 + 17)) (follower .acquire)).bel.state = .acquire ∧
    (after (.mark 0 mark2048 .good (2048 * 64 + 192 + 64)) (follower .locked)).bel.state = .locked ∧
    (after (.mark 0 mark2048 .good (2048 * 64 + 192 + 65)) (follower .locked)).bel.state = .acquire := by decide +kernel

/-- A device without upstream with two candidates of one HOP. -/
def choosing : State := (follower .unsync).modBel (fun b => { b with
  upstream := 4, collect := some (2048, 2051, [(2, mark2048, 131300), (0, mark2048, 131264)]) })

theorem witness_upstreamChoiceAndHoldover :
    (choosing.bellOn = true ∧ choosing.bel.acting = false ∧ choosing.bel.upstream = 4 ∧
      choosing.bel.collect = some (2048, 2051, [(2, mark2048, 131300), (0, mark2048, 131264)]) ∧
      choosing.candidate 2 mark2048 = true) ∧
    (let s := follower .locked
     s.bellOn = true ∧ s.bel.acting = false ∧ s.bel.state ≠ .unsync ∧ s.bel.lastM = some 0 ∧
     ∀ b < 4, (s.bellPort b).recent = []) := by decide +kernel

theorem test_upstreamChoice :
    let t := after .upstreamChoice choosing
    t.bel.upstream = 0 ∧ t.bel.hop = 3 ∧ t.bel.collect = none := by decide +kernel

theorem test_markMissed :
    let t := after .markMissed (follower .locked)
    t.bel.state = .holdover ∧ t.bel.missed = 1 ∧ t.bel.gt = 2056 ∧ opened 0x0203 t = true := by decide +kernel

theorem witness_joinDelaysAreMeasured :
    let s := follower .locked
    s.bellOn = true ∧ s.bellServes 0 = true ∧ s.bellServes 3 = true ∧ (s.bellPort 0).probeAt = some 2050 ∧
    (s.bellPort 3).probeAt = none ∧ (s.bellPort 0).probeOut = some (9, 100) := by decide +kernel

/-- The follower long before a mark. -/
def early : State := (follower .locked).modBel (fun b => { b with gt := 1000 })

theorem test_probeSend :
    let s := early.modBellPort 0 (fun p => { p with probeAt := some 1050 })
    let t := after (.probeSend 0) s
    t.out = [.bell 0 (.probe 0) true] ∧ t.bel.gt = 1050 ∧ (t.bellPort 0).probeAt = some 1114 := by decide +kernel

/-- Shortly before the mark at 2048 the same frame waits for the MARK (R64). -/
theorem test_heldBack :
    (let t := after (.probeSend 0) (follower .locked); t.out = [] ∧ (t.bellPort 0).waitQ.length = 1) ∧
    (follower .locked).heldBack (.probe 0) = true ∧ early.heldBack (.probe 0) = false := by decide +kernel

theorem test_probe :
    (after (.probe 3 255 .good 77) early).out = [.bell 3 (.echo 255 77) true] := by decide +kernel

theorem test_echo :
    ((after (.echo 0 9 40 .good 400) (follower .locked)).bellPort 0).rounds.head? = some 260 ∧
    ((after (.echo 0 8 40 .good 400) (follower .locked)).bellPort 0).rounds.head? = some 256 := by decide +kernel

/-- The Bellwether of Field 2, which holds the one Paddock (1, 1), with a child on BN; all 15 others have arrived. -/
def fieldRoot : State :=
  let s := root.modImg (fun i => { i with
    base := some { body := .base { topology := { extentW := 4, extentH := 4 },
                                   fields := [{ id := 2, rect := { xlo := 1, xhi := 1, ylo := 1, yhi := 1 } }] } }
    fieldImg := some { hdr := { kind := 2, field := 2 }, body := .field { barOffset := 500, barDeadline := 2 } } })
  (s.modBarrier 2 (fun r => { r with opened := true, localGt := some 2000 })).modBellPort 0
    (fun p => { p with childMark := some (0, 4) })

/-- 15 devices of the subtree on BN have arrived. -/
def arrive15 : ArriveFrame := { field := 2, seq := 0, count := 15, maxGt := 2010 }

theorem witness_barriersArriveAndRelease :
    (Wf.bell 0 = true ∧ Wf.arrive arrive15 = true ∧ fieldRoot.bellOn = true ∧ fieldRoot.bellServes 0 = true ∧
      fieldRoot.bel.acting = true ∧ fieldRoot.inField 2 = true ∧ (fieldRoot.barrier 2).release = none ∧
      fieldRoot.fieldDevices 2 = 16 ∧ fieldRoot.barOffset 2 = 500) ∧
    ((after (.arrive 0 { arrive15 with count := 14 } .good) fieldRoot).subtreeCount 2).1 = 15 ∧
    (∀ g ∈ [2039, 2040], Wf.release { field := 2, seq := 0, gt := g } = true) ∧
    (fieldRoot.bel.gt ≤ 2040 ∧ 2039 < fieldRoot.bel.gt ∧ (fieldRoot.barrier 2).seq = 0) ∧
    (fieldRoot.flt.fatal = none ∧
      ((fieldRoot.modBarrier 2 (fun r => { r with release := some (1, 2500) })).barrier 2).release = some (1, 2500)) ∧
    ((fieldRoot.modBarrier 2 (fun r => { r with firstGt := some 2000 })).barrier 2).firstGt = some 2000 := by
  decide +kernel

theorem test_arrive :
    ((after (.arrive 0 arrive15 .good) fieldRoot).barrier 2).release = some (0, 2510) := by decide +kernel

theorem test_releaseFrame :
    ((after (.releaseFrame 0 { field := 2, gt := 2040 } .good) fieldRoot).barrier 2).release = some (0, 2040) ∧
    (after (.releaseFrame 0 { field := 2, gt := 2039 } .good) fieldRoot).bel.barLate = true := by decide +kernel

theorem test_barrierRelease :
    let s := (fieldRoot.modBarrier 2 (fun r => { r with release := some (0, 2500), waiters := [(7, 3)] }))
    (Tab.look 0 ((after (.barrierRelease 2) s).croft 7).flags 3, ((after (.barrierRelease 2) s).barrier 2).seq) = (1, 1) := by
  decide +kernel

theorem test_barrierTimeout :
    let t := after (.barrierTimeout 2) (fieldRoot.modBarrier 2 (fun r => { r with firstGt := some 2000 }))
    (t.barrier 2).release = some (1, 2000 + 2 * 2048 + 500) ∧ opened 0x0206 t = true := by decide +kernel

theorem witness_faultFramesAndStuckPorts :
    (root.bellOn = true ∧ root.bellServes 1 = true ∧ Wf.fault { origin := 3, cls := 2 } = true ∧ root.bel.faultQ = [] ∧
      root.bel.dropped = 0 ∧ root.bel.acting = true) ∧
    (let s := follower .locked
     s.bellOn = true ∧ s.bellServes 1 = true ∧ s.bel.faultQ = [] ∧ s.bel.dropped = 0 ∧ s.bel.acting = false ∧
     s.bel.upstream < 4 ∧ s.bellServes s.bel.upstream = true ∧ s.attic.openRecs.length < 63 ∧ s.bel.state ≠ .unsync) ∧
    choosing.faultPath = false ∧
    (root.modBel (fun b => { b with stuck := 2 })).bel.stuck.getLsbD 1 = true := by decide +kernel

theorem test_faultFrame :
    (after (.faultFrame 1 { origin := 3 } .good) root).out = [.manager { origin := 3 }] ∧
    (after (.faultFrame 1 { origin := 3 } .good) early).out = [.bell 0 (.fault { origin := 3 }) true] := by
  decide +kernel

theorem test_bellPortStuck :
    let t := after (.bellPortStuck 1) (follower .locked)
    t.bel.stuck = 2 ∧ t.bel.state = .holdover ∧ opened 0x0201 t = true := by decide +kernel

theorem test_bellPortUnfence :
    let t := after (.bellPortUnfence 1) (root.modBel (fun b => { b with stuck := 3 }))
    t.bel.stuck = 1 ∧ (t.blnPort 1).aligned = false := by decide +kernel

theorem test_bellPort_maintenance :
    ((after (.bellPortRetrain 0) root).blnPort 0).aligned = false ∧
    ((after (.bellPortAligned 0 15) root).blnPort 0).peakUsed = 15 ∧
    ((after (.bellInjCv 3) root).blnPort 3).injCv = true ∧ ((after (.bellInjDisp 3) root).blnPort 3).injDisp = true ∧
    ((after (.bellInjCrc 3) root).blnPort 3).injCrc = true ∧
    ((after (.bellPortTest 2 2) root).bellServes 2) = false := by decide +kernel

theorem witness_bellPortMaintenance :
    5 ≤ root.glb.stage ∧ root.flt.fatal = none ∧ ((root.modBln 1 (fun l => { l with test := 2 })).blnPort 1).test = 2 := by
  decide +kernel

theorem witness_shaperTakesStagedSettings : 63 < 64 ∧ 7 < 8 ∧ 5 ≤ root.glb.stage ∧ root.flt.fatal = none := by decide +kernel

theorem test_shaperApply :
    let s := root.modShaper 63 7 (fun h => { h with sRate := 256, sBucket := 9, sEnable := true })
    let h := (after (.shaperApply 63 7) s).shaper 63 7
    (h.rate, h.bucket, h.enable, h.tokens) = (256, 9, true, 2304) := by decide +kernel

/-! ## Links and the switching core (chapters 04, 05) -/

/-- An UP and ACTIVE port of a link. -/
def upPort (n : Nat) (l : Link) (s : State) : State :=
  (((s.modOptPort n (fun p => { p with tstate := .up, light := true })).modLink n (fun _ => l)).modSlot n
    (fun r => { r with linkUp := true, disc := .active })).modEngine (n / 4) (fun e => { e with dark := false })

/-- A flit that waits for its ACK under SEQ 2047. -/
def waitingFlit : BitVec 11 × TxFlit := (2047, { vc := 1, type := 4, body := List.replicate 120 7 })

/-- Port 5 with flits both ways: one sent and not acknowledged, three accepted and not acknowledged, a NAK out. -/
def linked : State := upPort 5 { unacked := [waitingFlit], rxSeq := 3, toAck := 3, nakOut := true, replays := 16 } root

theorem test_header_roundTrip :
    let p : Packet := { dst := 0xABCDE, cls := 5, field := 63, src := 0x12345, order := true, track := true, pkey := 0xBEEF
                        len := 84, ptype := 0x11, islot := 200, flow := 513, stamp := 7, tsw0 := 0xFFFFFFFF, tsw1 := 9
                        ingress := 0x3FFF, injSeq := 77 }
    parseHeader (headerBytes p) = p ∧ (headerBytes p).take 4 = [0xAB, 0xCD, 0xEA, 0x3F] := by decide +kernel

/-- R97: LENGTH 84 fits one flit, 85 two, 204 two, 205 three, 4,096 thirty-five. -/
theorem test_flitCount : [0, 84, 85, 204, 205, 324, 325, 4096].map flitCount = [1, 1, 2, 2, 3, 3, 4, 35] := by decide +kernel

theorem witness_flitsRoundTrip :
    (∀ n ∈ [0, 84, 85, 205, 8191], (List.replicate n (0 : Byte)).length = ({ len := BitVec.ofNat 13 n } : Packet).len.toNat) ∧
    ({ type := 6, vc := 7, seq := 2047, cvc := 7, ccount := 127 } : LinkTag).type.toNat ≤ 6 ∧
    (List.replicate 120 (0 : Byte)).length = 120 := by decide +kernel

theorem witness_linkControlIsSent :
    (linked.optPort 5).tstate = .up ∧ linked.flt.fatal = none ∧ 0 < (linked.link 5).toAck ∧ (linked.link 5).nakOut = true ∧
    (linked.optPort 5).sparing = none ∧ (linked.optPort 5).peerSparing = false ∧ (linked.link 5).accepted = false ∧
    (linked.link 5).unacked ≠ [] ∧ 16 ≤ (linked.link 5).replays := by decide +kernel

/-- The slots on which flits leave, with the first eight bytes of each: the tag and the start of the body. -/
def fronts (t : State) : List (Nat × Bytes) :=
  t.out.filterMap (fun o => match o with | .flit n f => some (n, f.take 8) | _ => none)

theorem test_ackTimer :
    ((after (.ackTimer 5) linked).link 5).toAck = 0 ∧
    fronts (after (.ackTimer 5) linked) = [(5, [0x50, 0, 0, 0, 1, 0, 0, 2])] := by
  decide +kernel

theorem test_nakRepeat :
    fronts (after (.nakRepeat 5) linked) = [(5, [0x50, 0, 0, 0, 2, 0, 0, 3])] := by
  decide +kernel

theorem test_creditInitSend :
    fronts (after (.creditInitSend 5) linked) = [(5, [0x50, 0, 0, 0, 3, 0, 0, 0])] ∧
    slice (lctlBody 3 0 (linked.myGrants 5)) 4 6 = [0, 16, 0, 208, 0, 0] := by
  decide +kernel

theorem test_replayTimeout :
    let t := after (.replayTimeout 5) linked
    fronts t = [(5, [0x43, 0xFF, 0xC0, 0, 7, 7, 7, 7])] ∧
    (t.slotReg 5).replay = 1 ∧ (t.link 5).replays = 17 := by decide +kernel

theorem test_linkReplayFail :
    let t := after (.linkReplayFail 5) linked
    (t.slotReg 5).replayFail = true ∧ t.isUp 5 = false ∧ opened 0x0107 t = true := by decide +kernel

/-- A good flit of a type, VC and SEQ. -/
def flitOf (type : BitVec 4) (vc : BitVec 3) (seq : BitVec 11) (body : Bytes) : Bytes :=
  flitBytes { type := type, vc := vc, seq := seq } body 0

set_option maxRecDepth 20000 in
theorem witness_goBackNReception :
    linked.isUp 5 = true ∧ flitOk (flitBytes { type := 4 } (List.replicate 120 0) 1) = false ∧
    (let f := flitOf 4 1 2047 (List.replicate 120 0)
     flitOk f = true ∧ (parseTag f).type ≠ 0 ∧ (parseTag f).type ≠ 5 ∧ (parseTag f).seq ≠ (linked.link 5).rxSeq) ∧
    (let f := flitOf 5 0 0 (lctlBody 1 2047 [])
     flitOk f = true ∧ (parseTag f).type = 5 ∧ beAt (f.drop 4) 0 1 = 1 ∧
     (linked.link 5).unackedAt (BitVec.ofNat 11 (beAt (f.drop 4) 2 2)) = some 0) := by decide +kernel

set_option maxRecDepth 20000 in
theorem test_slotReceive_ack :
    let t := after (.slotReceive 5 (.data [] [flitOf 5 0 0 (lctlBody 1 2047 []), flitOf 0 0 0 (List.replicate 120 0),
      flitOf 0 0 0 (List.replicate 120 0), flitOf 0 0 0 (List.replicate 120 0), flitOf 0 0 0 (List.replicate 120 0)])) linked
    (t.link 5).unacked = [] ∧ (t.link 5).replays = 0 := by decide +kernel

/-- One copy of a single-flit packet of VC1 that waits from slot 64 for an egress. -/
def queued (eg : Nat) (s : State) : State :=
  let p := sealPacket { cls := 1, ptype := 0x13, dst := 7, src := 0xF0231 } (List.replicate 84 1)
  s.modSwc (fun x => { x with
    nextId := 1
    bufs := [(0, { ing := 64, vc := 1, need := 1, flits := packetFlits p, closed := true })]
    voq := [{ id := 0, p := { p with payload := [] }, ing := 64, inVc := 1, eg := eg, vc := 1 }] })

/-- Egress 5 with credit for VC1. -/
def ready5 : State := queued 5 (upPort 5 { grants := some endpointGrants } root)

theorem witness_packetsStartAtTheirEgress :
    (ready5.flt.fatal = none ∧ (ready5.front 5 1 64).isSome = true ∧ (128 : Nat) < 129 ∧
      (∀ w ∈ ready5.swc.voq, ready5.egressShut w = false ∧ ready5.age w.p ≤ ready5.ageLimit 1 ∧ ready5.meets w = true) ∧
      ready5.inTurn 5 1 64 = true) ∧
    (let s := ready5.modSlot 5 (fun r => { r with fenced := true })
     ∀ w ∈ s.swc.voq, s.egressShut w = true) ∧
    (let s := ready5.modBel (fun b => { b with gt := 312501 })
     s.inTurn 5 1 64 = true ∧ ∀ w ∈ s.swc.voq, s.egressShut w = false ∧ s.meets w = true ∧ s.ageLimit 1 < s.age w.p) ∧
    (let s := ready5.modLink 5 (fun l => { l with grants := none })
     s.inTurn 5 1 64 = false ∧ ∀ w ∈ s.swc.voq, s.egressShut w = false ∧ s.meets w = false) ∧
    (let s := ready5.modSwc (fun x => { x with turnVc := [(5, 3)] })
     (s.ready 5 0 = [] ∧ s.ready 5 7 = []) ∧ s.inTurn 5 1 64 = true) := by decide +kernel

set_option maxRecDepth 20000 in
theorem test_egressPacketStart :
    let t := after (.egressPacketStart 5 1 64) ready5
    t.out.length = 1 ∧ t.swc.voq = [] ∧ t.swc.bufs = [] ∧ (t.link 5).txSeq = 1 ∧ (t.link 5).credit 1 = 207 := by
  decide +kernel

theorem test_egressPacketStart_aged :
    let t := after (.egressPacketStart 5 1 64) (ready5.modBel (fun b => { b with gt := 312501 }))
    (t.slotReg 5).aged = 1 ∧ t.swc.voq = [] ∧ opened 0x0402 t = true := by decide +kernel

/-- A held ORDER packet of slot 5, class 1, while one earlier packet is outstanding. -/
def heldOrder : State :=
  let s := queued 999 root
  s.modSwc (fun x => { x with
    outstand := [(slotClass 5 1, 1)]
    voq := x.voq.map (fun w => { w with ing := 5, held := true, p := { w.p with order := true } }) })

/-- A head of class 1 at trunk 34 without credit; a packet of port 5 open on VC1. -/
def stuckHead : State := queued 34 (upPort 34 {} root)
def openPacket : State :=
  let s := queued 70 (upPort 5 {} root)
  s.modSwc (fun x => { x with
    opens := [(slotClass 5 1, some 0)]
    bufs := [(0, { ing := 5, vc := 1, need := 3, flits := [(1, List.replicate 120 0)] })]
    voq := x.voq.map (fun w => { w with ing := 5 }) })

theorem witness_holdsEscapesAndStalls :
    (heldOrder.flt.fatal = none ∧ ∀ w ∈ heldOrder.swc.voq, w.held = true ∧ w.ing = 5 ∧ w.p.cls = 1 ∧ w.p.order = true ∧
      heldOrder.outbound w.p = false) ∧
    ((stuckHead.front 34 1 64).isSome = true ∧ (stuckHead.link 34).credit 1 = 0 ∧
      ∀ w ∈ stuckHead.swc.voq, w.p.cls.toNat = 1) ∧
    (Tab.look none openPacket.swc.opens (8 * 5 + 1) = some 0 ∧ (openPacket.buf 0).ing = 5 ∧ (openPacket.buf 0).vc = 1 ∧
      Tab.look 0 (openPacket.link 5).rxHeld 1 < (openPacket.myGrants 5).getD 1 0) := by decide +kernel

theorem test_orderFenceLimit :
    let t := after (.orderFenceLimit 5 1) heldOrder
    t.rte.fenceTo = 1 ∧ opened 0x0307 t = true ∧ t.bel.gt = 312500 + 36 * 3125 + 31250 := by decide +kernel

theorem test_packetEscape : (after (.packetEscape 64 34 1) stuckHead).rte.escCnt = 1 := by decide +kernel

theorem test_packetStall :
    let t := after (.packetStall 5 1) openPacket
    t.swc.opens = [] ∧ t.swc.voq = [] ∧ (t.slotReg 5).trunc = 1 := by decide +kernel

/-- A DLV_ACK of two entries: 3 of slot 5 class 1, 2 of slot 96 class 3. -/
def ackPacket : Packet := sealPacket { ptype := 6 } [5, 0x20, 0, 3, 96, 0x60, 0, 2]

theorem witness_deliveriesAreAcknowledged :
    Wf.packet ackPacket = true ∧ ackPacket.ptype = 6 ∧ ackPacket.cls = 0 ∧ root.flt.fatal = none ∧
    (root.swc.pendDlv.filter (·.device == 16383)) = [] ∧
    (let es := (List.replicate 16 ({ device := 16383, count := 1 } : PendDlv)); es ≠ [] ∧ es.length ≤ 16) := by
  decide +kernel

theorem test_dlvAck :
    let t := after (.dlvAck ackPacket) (root.modSwc (fun x => { x with outstand := [(41, 4), (771, 1)] }))
    t.swc.outstand = [(41, 1)] := by decide +kernel

theorem test_dlvAckFlush :
    let s := root.modSwc (fun x => { x with pendDlv := [{ device := 561, slot := 5, cls := 1, count := 9 }] })
    let t := after (.dlvAckFlush 561) s
    t.swc.pendDlv = [] ∧ t.inbox.map (fun e => (e.1, e.2.payload)) = [(128, [5, 0x20, 0, 9])] := by
  decide +kernel


/-- R97, R115: a HEAD whose LENGTH fits one flit is truncated at once; it frees one flit and leaves nothing behind. -/
theorem test_headOfOneFlit :
    let t := admitHead 5 0 ftHead (headerBytes { ptype := 1, len := 40 } ++ List.replicate 88 0) linked
    (t.slotReg 5).trunc = 1 ∧ t.swc.voq = [] ∧ t.swc.bufs = [] ∧ t.swc.opens = [] ∧ Tab.look 0 (t.link 5).freed 0 = 1 := by
  decide +kernel
/-! ## The Fold (chapter 06) -/

/-- A Pen of two members at a leaf on this device, under a root on this device; tag 0x0801 is Pen 1 of Field 2. -/
def leafNode : PenNode :=
  { node := 1, level := 0, inputs := [.member 0, .member 1], devices := [561], parent := some 2 }
def rootNode : PenNode := { node := 2, level := 1, inputs := [.child 1, .child 3], devices := [561] }
def pol : PenPolicy :=
  { tag := 0x801, members := [{ eid := 16 }, { eid := 17 }], canonNodes := [leafNode, rootNode] }

/-- PEN_OPEN of 16 chunks of format 6 at every level, with a deadline and an ACK deadline of one tick. -/
def openBody (mode : Byte) : Bytes := [1, mode, 6, 0, 0, 0, 0, 0x66, 0, 16, 0, 1, 0, 1] ++ List.replicate 50 0

/-- A Fold packet of Pen 0x0801, STEP_LO 5: sender or node `pos`, chunk, PKT; `node` where a node sends it. -/
def foldPkt (ptype : BitVec 8) (pos chunk pkt : Nat) (node : Bool) (body : Bytes) : Packet :=
  sealPacket { dst := 0xF0231, cls := 1, field := 2, src := 0xF0231, ptype := ptype
               tsw0 := BitVec.ofNat 32 (0x801 * 65536 + pos)
               tsw1 := BitVec.ofNat 32 (chunk * 2 ^ 22 + pkt * 2 ^ 15 + ofBool node * 4096 + 80) } body

/-- The Bellwether with the Pen in its applied Field image. -/
def fold : State := fieldRoot.modImg (fun i => { i with
  base := some { body := .base { topology := { extentW := 4, extentH := 4 }
                                 fields := [{ id := 2, rect := { xlo := 1, xhi := 1, ylo := 1, yhi := 1 } }]
                                 rootDir := [(0x801, false, 561)] } }
  fieldImg := some { hdr := { kind := 2, field := 2 }, body := .field { pens := [pol] } } })

/-- An OPEN instance at a node. -/
def instAt (n : PenNode) : PenInst :=
  { tag := 0x801, stepLo := 5, node := n, policy := pol, msg := parsePenOpen (openBody 0), raw := openBody 0, tract := 2 }

/-- The device with one instance. -/
def withInst (i : PenInst) : State := fold.modFld (fun l => { l with insts := [i] })

theorem witness_pensOpenAtTheirNodes :
    let p := foldPkt 0x10 0 0 0 false (openBody 0)
    let m := parsePenOpen p.payload
    Wf.packet p = true ∧ fold.flt.fatal = none ∧ p.ptype = 0x10 ∧ root.penPolicy (penTag p) = none ∧
    fold.penPolicy (penTag p) = some pol ∧ fold.nodeFor (treeOf pol m.isArrival) (penSender p) = some leafNode ∧
    fold.pen (penTag p, penStepLo p, 1) = none ∧ m.valid pol 1 = true ∧ m.isFp64 1 = false ∧
    (parsePenOpen (openBody 0x20)).valid pol 1 = false ∧ rootLevel (treeOf pol false) = 1 ∧
    fold.fld.insts.length < 1024 ∧ fold.holdingTract 0x801 1 (2 * 16 * chunkBytes 6 + 1024 * 16) = some 2 := by
  decide +kernel

/-- Every sealed packet meets the end-to-end check that the Fold's statements ask for. -/
theorem witness_endToEnd (ptype : BitVec 8) (pos chunk pkt : Nat) (node : Bool) (body : Bytes) :
    let p := foldPkt ptype pos chunk pkt node body
    packetCrc p p.payload = p.crc := rfl

set_option maxRecDepth 20000 in
theorem test_penOpen :
    let t := after (.penOpen (foldPkt 0x10 0 0 0 false (openBody 0))) fold
    t.fld.insts.map (fun i => (i.tag, i.stepLo, i.node.node, i.tract, i.opens)) = [(0x801, 5, 1, 2, [0])] ∧
    t.fld.scales.map (fun e => (e.node, e.own)) = [(1, List.range 16)] := by decide +kernel

set_option maxRecDepth 20000 in
theorem test_penOpen_stale :
    (after (.penOpen (foldPkt 0x10 0 0 0 false (openBody 0))) root).fld.stale = 1 := by decide +kernel

/-- Chunk 3 of member 0 with every data packet but none yet closed. -/
def chunk3 : PenInst := { instAt leafNode with
  ins := [(inKey 3 0 0, { pkts := (List.range 4).map (fun k => (k, some (List.replicate 4096 0))) })] }

/-- A closing packet of chunk 3 of member 0 under a verdict, with scale bytes of 127 and a chunk CRC. -/
def close3 (verdict : Nat) (crc : Nat) : Packet :=
  foldPkt 0x11 0 3 4 false (List.replicate 1024 127 ++ trailerBytes { crc := BitVec.ofNat 32 crc, verdict := verdict })

theorem witness_contributionsAreKept :
    let s := withInst chunk3
    let p := foldPkt 0x11 0 3 3 false (List.replicate 4096 0)
    (Wf.packet p = true ∧ Wf.packet (close3 0x5A 7) = true ∧ s.flt.fatal = none ∧ p.ptype = 0x11 ∧ s.flt.armed = none ∧
      fold.penOfSender p = none ∧ penPkt p < 64) ∧
    (s.penOfSender p = some (chunk3, 0) ∧ s.pen chunk3.key = some chunk3 ∧ chunk3.state ≠ .aborted ∧
      chunk3.tooLate s.devIndex 0 = false ∧ penChunk p < chunk3.msg.chunks ∧
      nodeOwns chunk3.node s.devIndex (penChunk p) = true ∧ chunk3.formed (penChunk p) = false ∧
      (chunk3.copy (inKey (penChunk p) 0 (penPart p))).good = false ∧ penPkt p < dataPackets chunk3.fmtIn ∧
      p.payload.length = dataLen chunk3.fmtIn) ∧
    (∀ v ∈ [0xA5, 0x5A], let c := close3 v 7
      penPkt c = dataPackets chunk3.fmtIn ∧ penPkt c < 0x7E ∧ c.payload.length = scaleLen chunk3.fmtIn + 16 ∧
      (parseTrailer (c.payload.drop (scaleLen chunk3.fmtIn))).verdict = v) ∧
    ((List.range (dataPackets 6)).all (fun j => (Tab.look none (chunk3.copy (inKey 3 0 0)).pkts j).isSome) = true ∧
      (List.range (dataPackets 6)).all (fun j => (Tab.look none ((instAt leafNode).copy (inKey 3 0 0)).pkts j).isSome) =
        false) := by decide +kernel

/-- A root striped over this device and device 562. -/
def stripedRoot : PenInst := instAt { rootNode with devices := [561, 562] }

theorem witness_gatheredAndBadClosings :
    (let p := foldPkt 0x12 2 1 3 true (List.replicate 4096 0)
     let s := withInst stripedRoot
     Wf.packet p = true ∧ s.flt.fatal = none ∧ p.ptype = 0x12 ∧ s.penAtRoot p = some stripedRoot ∧
     s.pen stripedRoot.key = some stripedRoot ∧ stripedRoot.state = .opened ∧
     nodeOwns stripedRoot.node s.devIndex (penChunk p) = false ∧ penChunk p < stripedRoot.msg.chunks ∧
     (Tab.look {} stripedRoot.results (penChunk p)).good = false ∧ penPkt p < dataPackets stripedRoot.fmtOut ∧
     penPkt p < 64 ∧ p.payload.length = dataLen stripedRoot.fmtOut) ∧
    (let p := foldPkt 0x11 0 3 4 false [1]
     let s := withInst chunk3
     Wf.packet p = true ∧ p.ptype = 0x11 ∧ s.penOfSender p = some (chunk3, 0) ∧ penPkt p = dataPackets chunk3.fmtIn ∧
     chunk3.node.inputs[0]? = some (.member 0) ∧ p.payload.length ≠ scaleLen chunk3.fmtIn + 16) := by decide +kernel

/-- A closing packet can carry the right chunk CRC, whatever the chunk. -/
theorem witness_rightChunkCrc (x : Nat) (h : x < 2 ^ 32) :
    (parseTrailer ((close3 0x5A x).payload.drop 1024)).crc.toNat = x := by
  have e : (close3 0x5A x).payload.drop 1024 = trailerBytes { crc := BitVec.ofNat 32 x, verdict := 0x5A } := by
    rw [close3, foldPkt, sealPacket_payload]
    exact List.drop_left' (by rw [List.length_replicate])
  rw [e]
  simp only [parseTrailer, trailerBytes, List.append_assoc, beAt_append_beBytes]
  simp
  omega

/-- Chunk 3 of the root, formed from both children's copies and not yet computed. -/
def formed3 : PenInst := { instAt rootNode with outs := [(outKey 3 0, { keys := [inKey 3 0 0, inKey 3 1 0] })] }

theorem witness_chunksAreComputedAndSent :
    let s := withInst formed3
    s.flt.fatal = none ∧ s.flt.armed = none ∧ s.pen (0x801, 5, 2) = some formed3 ∧ formed3.state = .opened ∧
    (List.range 4).find? (fun p => formed3.hasOut 3 p && !(formed3.outp 3 p).good) = some 0 ∧
    (formed3.outp 3 0).computed = false ∧ (formed3.outp 3 0).attempt < 2 ∧
    s.sliceBusy formed3 3 (formed3.outp 3 0) = false ∧
    (let i := { formed3 with outs := [(outKey 3 0, { seq := 1, computed := true, checked := true }), (outKey 4 0, { seq := 0 })] }
     (withInst i).sliceBusy i 3 (i.outp 3 0) = (fold.chunkSlot i 3 == fold.chunkSlot i 4) ∧ (i.outp 3 0).checked = true) ∧
    (let i := { formed3 with outs := [(outKey 3 0, { seq := 1 }), (outKey 35 0, { seq := 0 })] }
     (withInst i).sliceBusy i 3 (i.outp 3 0) = true) := by decide +kernel

theorem test_foldChunkDone_retry :
    (after (.foldChunkDone 0x801 5 2 3 false) (withInst { formed3 with
      outs := [(outKey 3 0, { computed := true })] })).fld.retry = 1 := by decide +kernel

/-- The root with chunk 3 GOOD; the leaf with chunk 3 sent to its parent. -/
def rootGood : PenInst := { instAt rootNode with outs := [(outKey 3 0, { computed := true, good := true, sent := true })] }
def leafSent (n : Nat) : PenInst := { instAt leafNode with
  outs := [(outKey 3 0, { computed := true, good := true, sent := true })], resent := if n = 0 then [] else [(3, n)] }

/-- UPTO 3 and MASK bit 1: chunks 0, 1, 2 and 5. -/
def ackBody : Bytes := [0, 3, 0, 0, 0, 0, 0, 0, 0, 0, 0, 2]

theorem witness_acksAndResends :
    let ackM := foldPkt 0x13 1 0 0 false ackBody
    let ackN := foldPkt 0x13 1 0 0 true ackBody
    let again := foldPkt 0x14 1 3 0 true (List.replicate 12 0)
    let againM := foldPkt 0x14 1 3 0 false (List.replicate 12 0)
    (∀ p ∈ [ackM, ackN, again, againM], Wf.packet p = true ∧ p.payload.length = 12) ∧
    ((withInst rootGood).penAddressed ackM = some rootGood ∧ rootGood.isRoot = true ∧ penPos ackM < pol.members.length ∧
      rootGood.state ≠ .aborted ∧ (withInst rootGood).pen rootGood.key = some rootGood) ∧
    ((withInst (leafSent 0)).penAddressed ackN = some (leafSent 0) ∧ (leafSent 0).isRoot = false ∧
      (leafSent 0).parentNode = some rootNode ∧ rootNode.devices.contains (ackN.src.toNat % 16384) = true) ∧
    ((withInst rootGood).penAddressed againM = some rootGood ∧ (rootGood.outp (penChunk againM) (penPart againM)).good = true ∧
      (rootGood.outp (penChunk againM) (penPart againM)).resendTick ≠ some fold.tickNow ∧
      nodeOwns rootGood.node fold.devIndex (penChunk againM) = true) ∧
    (∀ n ∈ [0, 1], Tab.look 0 (leafSent n).resent (penChunk again) < 2 ∧
      ((leafSent n).outp (penChunk again) (penPart again)).sent = true) ∧
    ((withInst (leafSent 2)).penAddressed again = some (leafSent 2) ∧ 2 ≤ Tab.look 0 (leafSent 2).resent (penChunk again)) := by
  decide +kernel

set_option maxRecDepth 20000 in
theorem test_foldAck :
    ((after (.foldAck (foldPkt 0x13 1 0 0 false ackBody)) (withInst rootGood)).fld.insts.map (·.acks)) = [[(1, 0x27)]] := by
  decide +kernel

set_option maxRecDepth 20000 in
theorem test_foldResend_third :
    ((after (.foldResend (foldPkt 0x14 1 3 0 true (List.replicate 12 0))) (withInst (leafSent 2))).fld.insts.map (·.state)) =
      [.aborted] := by decide +kernel

/-- A LATE record of one range, ranks 0 to 1; abort records of status LATE and NODE_FAULT; an ABORT. -/
def lateRec : Packet := foldPkt 0x11 1 0 0x7E true [0, 1, 0, 0, 0, 0, 0, 2]
def abortRec (status : Nat) : Packet := foldPkt 0x11 1 0 0x7F true (abortHeader status 0 561 1 0 ++ [0, 0, 0, 2])
def abortPkt : Packet := foldPkt 0x15 2 0 0 true (abortHeader 2 0 561 2 0)

theorem witness_recordsAndAborts :
    (∀ p ∈ [lateRec, abortRec 1, abortRec 2], Wf.packet p = true ∧ p.ptype = 0x11 ∧
      (withInst rootGood).penAtRoot p = some rootGood) ∧
    penPkt lateRec = 0x7E ∧ penPkt (abortRec 1) = 0x7F ∧ beAt (abortRec 1).payload 0 1 = 1 ∧
    beAt (abortRec 2).payload 0 1 = 2 ∧ (withInst rootGood).pen rootGood.key = some rootGood ∧
    (let i := { rootGood with lateGt := some 100 }
     (withInst i).fld.insts.find? (fun i => i.tag == 0x801 && i.stepLo == 5 && i.isRoot && i.lateGt.isSome) = some i) ∧
    Wf.packet abortPkt = true ∧ abortPkt.ptype = 0x15 ∧ penPkt abortPkt = 0 := by decide +kernel

set_option maxRecDepth 20000 in
theorem test_lateRecord : (after (.lateRecord lateRec) (withInst rootGood)).fld.insts.map (·.late) = [[(0, 2)]] := by
  decide +kernel

set_option maxRecDepth 20000 in
theorem test_abortRecord :
    let t := after (.abortRecord (abortRec 2)) (withInst rootGood)
    t.fld.insts = [] ∧ t.fld.abortSt = [(2, 1)] := by decide +kernel

theorem test_penLateAbort :
    let t := after (.penLateAbort 0x801 5) (withInst { rootGood with lateGt := some 100 })
    t.fld.insts = [] ∧ t.fld.abortSt = [(1, 1)] ∧ t.bel.gt = 2148 := by decide +kernel

set_option maxRecDepth 20000 in
theorem test_foldAbort :
    let t := after (.foldAbort abortPkt) (withInst rootGood)
    t.fld.insts = [] ∧ t.fld.abortSt = [(2, 1)] ∧ t.fld.stale = 0 := by decide +kernel

/-- Chunk 3 of child node 1 begun at GT 100; an Arrival window of chunk 3 begun at GT 100. -/
def begun3 : PenInst := { instAt rootNode with
  ins := [(inKey 3 0 0, { firstGt := some 100 })], windows := [(3, some 100)] }

/-- Both members have delivered all: every chunk is formed. -/
def allFormed : PenInst := { instAt leafNode with outs := (List.range 16).map (fun c => (outKey c 0, {})) }

theorem witness_penDeadlinesJudge :
    ((withInst begun3).pen (0x801, 5, 2) = some begun3 ∧ begun3.state = .opened ∧ Tab.look none begun3.windows 3 = some 100 ∧
      begun3.formed 3 = false ∧ begun3.node.inputs[0]? = some (.child 1) ∧
      (List.range 4).find? (fun p => (begun3.copy (inKey 3 0 p)).firstGt.isSome) = some 0) ∧
    (let bad (i : PenInst) := (List.range i.node.inputs.length).filter (fun n => !(i.own 561).all (fun c => i.delivered c n))
     allFormed.judged = false ∧ bad allFormed = [] ∧ bad (instAt leafNode) = [0, 1] ∧
     (∀ n ∈ bad (instAt leafNode), ((instAt leafNode).node.inputs[n]?) = some (.member n)) ∧
     (instAt leafNode).msg.isExclude = false ∧ (parsePenOpen (openBody 2)).isExclude = true ∧
     bad (instAt rootNode) = [0, 1] ∧ (instAt rootNode).opens = [] ∧ (instAt rootNode).node.devices.head? = some 561) ∧
    (let i := { rootGood with state := .final, statsTick := some 0 }
     (withInst i).fld.insts.find? (fun i => i.tag == 0x801 && i.stepLo == 5 && i.isRoot && i.state == .final) = some i) ∧
    (4 ≤ fold.glb.stage ∧ fold.flt.fatal = none ∧ fold.flt.rstWaiting = none) := by decide +kernel

theorem test_arrivalWindow :
    let t := after (.arrivalWindow 0x801 5 2 3) (withInst begun3)
    t.bel.gt = 2040 ∧ t.fld.insts.map (·.windows) = [[(3, some 2040)]] := by decide +kernel

theorem test_chunkIncomplete :
    let t := after (.chunkIncomplete 0x801 5 2 3 0) (withInst begun3)
    t.bel.gt = 2148 ∧ t.swc.voq.map (fun w => (w.p.ptype.toNat, penChunk w.p)) = [(0x14, 3)] := by decide +kernel

theorem test_penDeadline :
    (after (.penDeadline 0x801 5 1) (withInst (instAt leafNode))).fld.insts.map (·.state) = [.aborted] ∧
    ((after (.penDeadline 0x801 5 1) (withInst allFormed)).fld.insts.map (fun i => (i.state, i.judged))) = [(.opened, true)] := by
  decide +kernel

theorem test_penAckDeadline :
    let t := after (.penAckDeadline 0x801 5) (withInst { rootGood with state := .final, statsTick := some 0 })
    t.fld.insts = [] ∧ t.fld.ackTo = 2 ∧ opened 0x0406 t = true := by decide +kernel

theorem test_penAbortedExpire :
    let t := after (.penAbortedExpire 0x801 5 1) (withInst { instAt leafNode with state := .aborted, abortTick := 0 })
    t.fld.insts = [] ∧ t.bel.gt = 64 * 2048 := by decide +kernel

theorem test_tallyClear :
    (after .tallyClear (fold.modFld (fun l => { l with tallySel := 2, tallies := [(1, { pens := 4 }), (2, { pens := 5 })] }))).fld.tallies
      = [(1, { pens := 4 })] := by decide +kernel

/-! ## The Cellar and the Storekeeper (chapter 08) -/

/-- Tract 3 with some sessions, pages and runs, on the Bellwether; no Field image is applied. -/
def cellar (r : Tract) : State := root.modTract 3 (fun _ => r)

/-- Session 3 holds page 0x8000 of layer 0; page 0x8001 is shared under run 0 by sessions 3 and 4. -/
def held3 : Tract :=
  { pages := [(0x8000, { state := .held, owner := 3 }), (0x8001, { state := .shared, run := 0 }), (0x8002, { state := .retired })]
    sessions := [(3, some { state := .active, counts := [(0, 5)], chains := [(0, [0x8000])] })]
    runs := [(0, some { pfx := 3, owners := [3, 4], pages := [(0, [0x8001])], tokens := 9 })] }

theorem witness_storekeeperGrantsAndFrees :
    let s := cellar held3
    ((2 ^ 32 - 2 : Nat) < 0xFFFFFFFF ∧ s.flt.fatal = none ∧ s.flt.armed = none ∧ (s.tract 3).fenced = false) ∧
    (Wf.layers (List.replicate 64 255) = true ∧ (s.lowestFree 3 64).length = 64 ∧ s.heldPages 3 false + 64 ≤ s.ceiling 3 false) ∧
    (let u := fold.modImg (fun i => { i with fieldImg := some { hdr := { kind := 2, field := 2 }, body := .field {
        cellar := [{ ownMax := some 1, croftExtra := some (0x100000 - 0x8001) }] } } })
     (u.lowestFree 0 2).length < 2 ∧ u.ceiling 0 false < u.heldPages 0 false + 2) ∧
    ((s.page 3 0x8000).state = .held ∧ (s.page 3 0x8000).owner = 3 ∧ (s.page 3 0x8000).retirePend = false ∧
      (s.page 3 0x8002).state = .retired ∧ (s.page 3 0xFFFFF).state = .free) := by decide +kernel

theorem test_alloc :
    let t := after (.alloc 3 3 false [0, 1]) (cellar held3)
    (t.page 3 0x8003).owner = 3 ∧ (t.page 3 0x8004).layer = 1 ∧ (t.page 3 0x8000).next = 0x8003 ∧
    (t.sess 3 3).map (·.chains) = some [(0, [0x8000, 0x8003]), (1, [0x8004])] := by decide +kernel

theorem test_free :
    ((after (.free 3 0x8000 3) (cellar held3)).page 3 0x8000).state = .free ∧
    ((after (.free 3 0x8000 4) (cellar held3)).tract 3).nlo = 1 ∧
    ((after (.free 3 0x8005 4) (cellar held3)).tract 3).dfree = 1 := by decide +kernel

theorem witness_runsAreSharedAndReleased :
    let s := cellar held3
    let alone := cellar { held3 with runs := [(0, some { pfx := 3, owners := [4], pages := [(0, [0x8001])] })] }
    (s.flt.fatal = none ∧ (s.tract 3).fenced = false) ∧
    ((s.sess 3 3).map (·.ownPages) = some [0x8000] ∧ (s.page 3 0x8000).state = .held ∧ (s.page 3 0x8000).owner = 3 ∧
      (s.tract 3).runs.length < 65536 ∧ (s.tract 3).roll + 2 ≤ 1048576) ∧
    ((s.run 3 0).map (fun r => (r.all, r.owners)) = some ([0x8001], [3, 4]) ∧ (s.page 3 0x8001).state = .shared ∧
      (s.page 3 0x8001).run = 0 ∧ (5 : Nat) ∉ [3, 4] ∧ (4 : Nat) ∈ [3, 4]) ∧
    (alone.run 3 0).map (·.owners) = some [4] := by decide +kernel

theorem test_share :
    let t := after (.share 3 3 7) (cellar held3)
    (t.page 3 0x8000).run = 1 ∧ (t.run 3 1).map (·.owners) = some [3, 7] := by decide +kernel

theorem test_addOwner :
    ((after (.addOwner 3 0 4) (cellar held3)).run 3 0).map (·.owners) = some [3, 4, 4] := by decide +kernel

theorem test_stkRelease :
    let t := after (.stkRelease 3 0 3) (cellar held3)
    (t.run 3 0).map (fun r => (r.owners, r.lastOwner)) = some ([4], 4) ∧
    ((after (.stkRelease 3 0 4) t).page 3 0x8001).state = .free := by decide +kernel

theorem witness_wordsAreCorrectedOrLost :
    let s := cellar held3
    31 < 32 ∧ (0xFFFFFFFFF : Nat) < 0x1000000000 ∧ s.flt.fatal = none ∧ (s.tract 3).fenced = false ∧ s.cel.bad = [] ∧
    s.cel.soft = [] ∧ s.regionOf 3 0x8000 = .pool ∧ (s.page 3 0x8000).mirrorPool = false ∧ s.regionOf 3 0x4000 = .tables := by
  decide +kernel

theorem test_cellarScrub :
    let t := after (.cellarScrub 3 0x80000400 .corrected) (cellar held3)
    (t.tract 3).ce = 1 ∧ (t.page 3 0x8000).lastPc = 1 ∧ opened 0x0501 t = true := by decide +kernel

theorem test_ue :
    ((after (.ue 3 0x40000000) (cellar held3)).tract 3).tableUe = true := by decide +kernel

theorem test_hbmChannelLost :
    let t := after (.hbmChannelLost 3 (some 63)) (cellar held3)
    (t.tract 3).fenced = true ∧ (t.tract 3).sessions = [] ∧ (t.croft 543).fenced = true ∧ (t.croft 544).fenced = false := by
  decide +kernel

theorem witness_pagesRetireAndRowsRepair :
    let worn (st : PageState) := (cellar { pages := [(0x8000, { state := st, ce := 8, lastPc := 63 })] })
    let noAuto (st : PageState) := (worn st).modCel (fun c => { c with autoRepair := false })
    let rows := cellar { repairQ := [(63, 0x8000)] }
    let busy := cellar { quiesce := true, repairing := true, repairQ := [(63, 0x8000)] }
    (∀ st ∈ [PageState.free, .held, .shared], (noAuto st).inPool 3 0x8000 = true ∧
      (noAuto st).cel.threshold ≤ ((noAuto st).page 3 0x8000).ce ∧ ((noAuto st).page 3 0x8000).state = st ∧
      (noAuto st).cel.autoRepair = false ∧ (worn st).cel.autoRepair = true ∧ ((worn st).tract 3).repairQ.length < 16) ∧
    ((rows.tract 3).quiesce = false ∧ (rows.tract 3).repairQ ≠ [] ∧ rows.fld.insts = [] ∧ 4 ≤ rows.glb.stage ∧
      rows.flt.rstWaiting = none) ∧
    ((busy.tract 3).quiesce = true ∧ (busy.tract 3).repairing = true ∧ (busy.tract 3).repairs ≤ 0xFFFF ∧ busy.cel.soft = []) ∧
    ((cellar { quiesce := true }).tract 3).repairing = false := by decide +kernel

/-- Where a device has spare rows, an untouched bank has one left; a bank whose rows are all used has none. The number
of spare rows is not in the manual (Config.spareRows). -/
theorem witness_spareRows (h : 0 < Config.spareRows) :
    (cellar {}).spareLeft 3 63 0x8000 = true ∧
    (cellar { spareUsed := [(bankKey 63 0x8000, Config.spareRows)] }).spareLeft 3 63 0x8000 = false := by
  constructor
  · exact decide_eq_true h
  · exact decide_eq_false (Nat.lt_irrefl _)

theorem test_ceLimit :
    let s := (cellar { pages := [(0x8000, { ce := 8 }), (0x8001, { state := .held, ce := 8 })] }).modCel
      (fun c => { c with autoRepair := false })
    ((after (.ceLimit 3 0x8000) s).page 3 0x8000).state = .retired ∧
    ((after (.ceLimit 3 0x8001) s).page 3 0x8001).retirePend = true := by decide +kernel

theorem test_repairQuiesceStart :
    let t := after (.repairQuiesceStart 3) (cellar { repairQ := [(63, 0x8000)] })
    (t.tract 3).quiesce = true ∧ t.bel.gt = 2048 ∧ (t.tract 3).quietFrom = 1 := by decide +kernel

theorem test_repairDone :
    let t := after (.repairDone 3 [1]) (cellar { quiesce := true, repairing := true, repairQ := [(63, 0x8000), (0, 0x8001)] })
    (t.tract 3).repairs = 1 ∧ (t.page 3 0x8001).state = .retired ∧ t.cel.lastRepair = 2 := by decide +kernel

theorem test_quiesceEnd :
    let t := after (.quiesceEnd 3) (((cellar { quiesce := true, quietFrom := 0 }).modCroft 408
      (fun c => { c with logical := some 384 })).modCrf (fun c => { c with running := true }))
    (t.tract 3).quietTicks = 1 ∧ (t.croft 408).shift = 1 := by decide +kernel

/-- A paused Field falls behind by no entry. -/
theorem test_quiesceEnd_paused :
    let t := after (.quiesceEnd 3) (((cellar { quiesce := true, quietFrom := 0 }).modCroft 408
      (fun c => { c with logical := some 384 })).modCrf (fun c => { c with running := true, paused := true }))
    (t.tract 3).quietTicks = 1 ∧ (t.croft 408).shift = 0 := by decide +kernel

/-! ### Mirrors -/

/-- The device is a partner of device 7, and may mirror to it. -/
def partner (r : Tract) : State :=
  let f : FieldBody := { cellar := List.replicate 4 { partnersIn := some [7], partnersOut := some [7] } }
  (root.modImg (fun i => { i with fieldImg := some { hdr := { kind := 2, field := 2 }, body := .field f } })).modTract 3
    (fun _ => r)

/-- A mirror packet of session 3 from a device, with an OP, an MSEQ and an AUX. -/
def mir (dev op mseq aux : Nat) : Packet :=
  sealPacket { cls := 5, ptype := 0x40, src := BitVec.ofNat 20 (0xF4000 + dev), dst := 0xF4231
               tsw0 := 3, tsw1 := BitVec.ofNat 32 mseq } (mirrorHeader op 0 0 aux)

/-- A copy of session 3 of device 7 with MSEQ 4 applied. -/
def copy3 : Tract := { sessions := [(3, some { copyOf := some 7, applied := some 4 })] }
/-- Session 3 mirrored to device 7, with copies 4 and 5 outstanding. -/
def mirrored3 : Tract := {
  sessions := [(3, some { state := .active, mirror := some 7, mseq := 5, chains := [(0, [0x8000])], geo := { kvHeads := 1 } })]
  mirOut := [{ sid := 3, mseq := 4, partner := 7, bytes := 16 }, { sid := 3, mseq := 5, partner := 7, bytes := 16 }] }

theorem witness_mirrorPartnerTakesCopies :
    (∀ op ∈ [1, 2, 3, 4, 5, 7], let p := mir 7 op 5 0
      Wf.packet p = true ∧ p.cls = 5 ∧ p.ptype = 0x40 ∧ mirOp p = op ∧ 16 ≤ p.payload.length ∧ p.tsw0.toNat = 3 ∧
      p.src.toNat % 16384 = 7) ∧
    (let s := partner copy3
     s.flt.fatal = none ∧ homeTract 3 = 3 ∧ (s.tract 3).fenced = false ∧ (s.tract 3).quiesce = false ∧
     ((s.part 3).partnersIn.getD []).contains 7 = true ∧ ((s.part 3).partnersIn.getD []).contains 8 = false ∧
     (s.sess 3 3).map (fun e => (e.copyOf, e.ahead, e.applied)) = some (some 7, [], some 4) ∧
     (partner {}).sess 3 3 = none ∧ (s.tract 3).sessions.length < 262144 ∧ s.sessTotal < 4194304 ∧
     ((partner { quiesce := true }).tract 3).quiesce = true) := by decide +kernel

theorem witness_mirrorCrc (dev op mseq aux : Nat) : packetCrc (mir dev op mseq aux) (mir dev op mseq aux).payload = (mir dev op mseq aux).crc := rfl

set_option maxRecDepth 20000 in
theorem test_mirrorOpen :
    ((after (.mirrorOpen (mir 7 1 0 1)) (partner {})).sess 3 3).map (fun e => (e.copyOf, e.applied)) = some (some 7, some 0) ∧
    (after (.mirrorOpen (mir 8 1 0 1)) (partner {})).cel.mirRej = 1 := by decide +kernel

set_option maxRecDepth 20000 in
theorem test_mirrorClose :
    ((after (.mirrorClose (mir 7 5 5 0)) (partner copy3)).tract 3).reclaimQ = [3] ∧
    ((after (.mirrorClose (mir 7 5 6 0)) (partner copy3)).sess 3 3).map (·.ahead.length) = some 1 := by decide +kernel

theorem witness_mirrorPrimaryHearsItsPartner :
    (let s := partner mirrored3
     s.flt.fatal = none ∧ (s.tract 3).fenced = false ∧ (s.tract 3).mirHeld = [] ∧
     (s.sess 3 3).map (fun e => (e.mirror, e.broken)) = some (some 7, false) ∧
     (∀ op ∈ [6, 8, 9], Wf.packet (mir 7 op 0 4) = true ∧ mirOp (mir 7 op 0 4) = op) ∧ mirAux (mir 7 6 0 4) = 4 ∧
     (s.page 3 0x8000).damaged = false) ∧
    (let s := (partner mirrored3).modAtsTract 3 (fun a => { a with held := [{ sid := 3, mseq := 5, tick := 2 }] })
     ((s.attn 3).held.find? (·.sid == 3)).map (·.tick) = some 2) ∧
    ((partner { sessions := [(3, some { copyOf := some 7, gapTick := some 1, ahead := [(9, some (mir 7 2 9 0))] })] }).sess 3 3).map
      (fun e => (e.gapTick, e.copyOf, e.ahead.length)) = some (some 1, some 7, 1) ∧
    (4 ≤ root.glb.stage ∧ root.flt.rstWaiting = none) ∧
    (let s := (partner copy3).modCel (fun c => { c with promote := [7] })
     7 ∈ s.cel.promote ∧ Tab.wf none (s.tract 3).sessions = true) := by decide +kernel

set_option maxRecDepth 20000 in
theorem test_mirrorAck :
    ((after (.mirrorAck (mir 7 6 0 4)) (partner mirrored3)).tract 3).mirOut.map (·.mseq) = [5] := by decide +kernel

set_option maxRecDepth 20000 in
theorem test_mirrorBreak :
    let t := after (.mirrorBreak (mir 7 9 0 1)) (partner mirrored3)
    (t.sess 3 3).map (·.broken) = some true ∧ t.cel.mirBroken = 1 ∧ opened 0x0507 t = true := by decide +kernel

theorem test_mirrorWaitExpire :
    let s := (partner mirrored3).modAtsTract 3 (fun a => { a with held := [{ sid := 3, mseq := 5, tick := 2 }] })
    let t := after (.mirrorWaitExpire 3 3) s
    t.bel.gt = 6 * 2048 ∧ (t.sess 3 3).map (·.broken) = some true ∧ (t.attn 3).held = [] := by decide +kernel

theorem test_mirrorGapTimeout :
    let s := partner { sessions := [(3, some { copyOf := some 7, gapTick := some 1, ahead := [(9, some (mir 7 2 9 0))] })] }
    let t := after (.mirrorGapTimeout 3 3) s
    t.sess 3 3 = none ∧ t.bel.gt = 5 * 2048 := by decide +kernel

theorem test_mirrorPromoteRequest : (after (.mirrorPromoteRequest 16383) (root.modCel (fun c => { c with promote := [7] }))).cel.promote = [7, 16383] := by decide +kernel

theorem test_mirrorPromote :
    let t := after .mirrorPromote ((partner copy3).modCel (fun c => { c with promote := [3, 7] }))
    (t.sess 3 3).map (·.copyOf) = some none ∧ t.cel.promote = [] ∧ t.bel.gt = 2048 := by decide +kernel


/-! ### The code of R214, descriptors, damaged pages -/

/-- α^0 to α^3 are the zeros of the generator polynomial, and of every code word. -/
theorem test_rsGenerator :
    (List.range 4).all (fun j => rsSyndrome (1 :: rsGenerator) j == 0) = true ∧
    (let w : Bytes := (List.range 32).map (fun i => BitVec.ofNat 8 (7 * i + 3))
     (List.range 4).all (fun j => rsSyndrome (w ++ rsCheck w) j == 0) = true) := by decide +kernel

/-- One erroneous byte is corrected, two are not. -/
theorem test_rsVerdict :
    let w : Bytes := (List.range 32).map (fun i => BitVec.ofNat 8 (7 * i + 3))
    rsVerdict w (rsCheck w) = .clean ∧ rsVerdict (0x55 :: w.drop 1) (rsCheck w) = .corrected ∧
    rsVerdict (0x55 :: 0x66 :: w.drop 2) (rsCheck w) = .uncorrectable := by decide +kernel

/-- Table 8-3: a HELD page of session 3, layer 2, FILL 5. -/
theorem test_descBytes :
    let s := cellar { pages := [(0x8000, { state := .held, owner := 3, layer := 2, fill := 5, ce := 9 })] }
    s.stackBytes 3 (0x40000000 + 16 * 0x8000) 16 =
      [0x40, 9, 0, 1, 0, 0, 0, 3, 0xFF, 0xFF, 0xF0, 5, 0xFF, 0xFF, 2, 0] := by decide +kernel

/-- The partner's answer to a FETCH of the damaged page of session 3. -/
def fetchData : Packet :=
  sealPacket { cls := 5, ptype := 0x40, src := 0xF4007, dst := 0xF4231, tsw0 := 3 } (mirrorHeader 8 0 0 0 ++ List.replicate 64 9)
def damaged3 : State := (partner mirrored3).modPage 3 0x8000 (fun d => { d with state := .held, owner := 3, fill := 1, damaged := true })

theorem witness_damagedPages :
    Wf.packet fetchData = true ∧ mirOp fetchData = 8 ∧ 16 ≤ fetchData.payload.length ∧
    (damaged3.sess 3 3).map (fun e => (e.mirror, e.broken)) = some (some 7, false) ∧
    (damaged3.chainOf 3 3 (mirLayer fetchData))[0]? = some 0x8000 ∧ (damaged3.page 3 0x8000).damaged = true ∧
    damaged3.damagedIn 3 0x80000000 1 = true ∧
    (let s := (partner {}).modTract 3 (fun r => { r with early := [(1, mir 7 2 1 0)] })
     s.sess 3 3 = none ∧ (s.tract 3).early.find? (fun e => e.2.tsw0.toNat == 3) = some (1, mir 7 2 1 0)) ∧
    (let s := (partner {}).modAtsTract 3 (fun a => { a with held := [{ sid := 3, mseq := 5, tick := 2 }] })
     s.sess 3 3 = none ∧ ((s.attn 3).held.find? (·.sid == 3)).isSome = true) ∧
    (let s := cellar { repairQ := (List.range 16).map (fun i => (1, 0x9000 + 64 * i)) }
     s.rowFits 3 2 0x8000 = false ∧ (cellar {}).rowFits 3 2 0x8000 = true) := by decide +kernel

set_option maxRecDepth 20000 in
theorem test_mirrorFetchData :
    let t := after (.mirrorFetchData fetchData) damaged3
    (t.page 3 0x8000).damaged = false ∧ Memory.read t.cel.mem (cellarAddr 3 0x80000000) = 9 := by decide +kernel
/-! ## The attention service (chapter 09) -/

/-- A request's key: EID 16, session 3, request 1. -/
def key3 : MsgKey := { src := 16, session := 3, req := 1 }

/-- SESSION_OPEN of one layer, BF16, one KV head, head dimension 64; a close; an append of one token from START. -/
def openMsg : Bytes := [1, 0, 0, 0, 0, 0, 0, 32, 0, 0, 1, 1, 0, 64, 0, 0, 0, 0, 0, 0] ++ List.replicate 12 0
def closeMsg : Bytes := [1, 0, 0, 0, 0, 0, 0, 8]
def appendMsg (start : Byte) : Bytes := [1, 0, 0, 0, 0, 0, 1, 16, 0, 0, 0, 1, 0, 0, 0, start] ++ List.replicate 256 9
def prefixMsg : Bytes := [1, 0, 0, 0, 0, 0, 0, 12, 0, 0, 0, 35]

/-- Tract 3 with a complete message of a type in assembly. -/
def withMsg (type : Nat) (body : Bytes) (r : Tract) : State :=
  (root.modTract 3 (fun _ => r)).modAtsTract 3 (fun a => { a with
    asm := [{ key := key3, slot := 97, type := type, last := 0, first := 2000, pkts := [(0, some body)] }] })

/-- Session 3 open in some state, with one page of its five tokens. -/
def sess3 (st : SessState) : Tract :=
  { sessions := [(3, some { state := st, counts := [(0, 5)], chains := [(0, [0x8000])] })]
    pages := [(0x8000, { state := .held, owner := 3 })] }

/-- One packet of a request: SESSION 3, REQ 1, PKT and LAST. -/
def reqPkt (type : BitVec 8) (pkt last : Nat) (body : Bytes) : Packet :=
  sealPacket { cls := 3, ptype := type, src := 16, dst := 0xF4231, tsw0 := 3
               tsw1 := BitVec.ofNat 32 (65536 + 256 * pkt + last) } body

theorem witness_attentionMessagesAreAdmitted :
    (root.flt.fatal = none ∧ (root.shortWaiting 3).length < 16384) ∧
    (let p := reqPkt 0x20 0 0 openMsg
     let q := reqPkt 0x22 1 2 (List.replicate 4096 0)
     Wf.packet p = true ∧ p.cls = 3 ∧ p.ptype.toNat ∈ [0x20, 0x21, 0x22, 0x23, 0x24, 0x25] ∧ msgKey p = key3 ∧
     homeTract p.tsw0.toNat = 3 ∧ (root.attn 3).refused = [] ∧ (root.attn 3).asm = [] ∧
     root.asmUsed 3 + 4096 ≤ 32 * 1024 * 1024 ∧ Wf.packet q = true ∧ q.payload.length = 4096 ∧
     (let m : Assembly := { key := key3, type := 0x22, last := 2, pkts := [(0, some [])] }
      m.whole = false ∧ (q.tsw1.toNat / 256) % 256 ≤ q.tsw1.toNat % 256 ∧ q.tsw1.toNat % 256 = m.last ∧
      Tab.look none m.pkts 1 = none ∧ Tab.look none m.pkts 0 ≠ none ∧ m.marked = false)) ∧
    (∀ e ∈ [(0x20, openMsg), (0x21, closeMsg), (0x22, appendMsg 5), (0x24, prefixMsg), (0x25, prefixMsg)],
      let s := withMsg e.1 e.2 (if e.1 = 0x20 then {} else sess3 .active)
      (s.attn 3).nextWhole.map (fun m => (m.key, m.type)) = some (key3, e.1) ∧ (s.tract 3).fenced = false ∧
      (s.tract 3).quiesce = false ∧ s.flt.rstWaiting = none ∧ badDetail e.1 e.2 (s.geoOf 3 3) = none) ∧
    (let s := withMsg 0x20 openMsg {}
     let v := rollMeters 3 (s.dropAsm 3 key3)
     (v.cost 3 key3 0x20 openMsg).exceeds (v.budgets 3) = none ∧
     ((v.cost 3 key3 0x20 openMsg).add (v.attn 3).used).exceeds (throttle s.thm.level (v.budgets 3)) = none ∧
     ((v.cost 3 key3 0x20 openMsg).add { batch := 4096 }).exceeds (throttle 0 (v.budgets 3)) = some 5) ∧
    (let s := withMsg 0x22 (appendMsg 5) (sess3 .active)
     let v := rollMeters 3 (s.dropAsm 3 key3)
     (v.cost 3 key3 0x22 (appendMsg 5)).exceeds (v.budgets 3) = some 1) ∧
    (badDetail 0x20 (openMsg.set 0 2) none = some 1 ∧ badDetail 0x21 openMsg none = some 3) := by decide +kernel

set_option maxRecDepth 20000 in
theorem test_assemblyPacket :
    ((after (.assemblyPacket 96 (reqPkt 0x21 0 0 closeMsg)) root).attn 3).asm.map (fun m => (m.key, m.last, m.bytes)) =
      [(key3, 0, closeMsg)] := by decide +kernel

/-- Tract 3's Cellar port slot is 96; at another slot the packet is none of the Tract's (Table 1-5). -/
theorem witness_cellarPortSlot :
    cellarSlotOfSid (reqPkt 0x21 0 0 closeMsg).tsw0.toNat = 96 ∧
    after (.assemblyPacket 97 (reqPkt 0x21 0 0 closeMsg)) root = root := by decide +kernel

/-- Two whole messages: the earlier is next; of two at one GT the one of the lower slot (R243). -/
theorem witness_nextWhole :
    let m (slot done : Nat) : Assembly := { key := { key3 with req := slot }, slot := slot, type := 0x21, last := 0,
                                            pkts := [(0, some closeMsg)], done := done }
    let s (l : List Assembly) : State := root.modAtsTract 3 (fun a => { a with asm := l })
    ((s [m 97 2000, m 98 1999]).attn 3).nextWhole.map (·.slot) = some 98 ∧
    ((s [m 98 2000, m 97 2000]).attn 3).nextWhole.map (·.slot) = some 97 ∧ ((s []).attn 3).nextWhole = none ∧
    ((withMsg 0x21 closeMsg {}).attn 3).nextWhole.map (fun x => (x.key, x.type)) = some (key3, 0x21) := by decide +kernel

theorem test_assemblyTimeout :
    let s := root.modAtsTract 3 (fun a => { a with asm := [{ key := key3, last := 1, first := 2000 }] })
    let t := after (.assemblyTimeout 3 key3) s
    (t.attn 3).asm = [] ∧ (t.attn 3).lastStatus = 0x10 ∧ t.ats.incomplete = 1 ∧ t.bel.gt = 6096 := by decide +kernel

theorem test_sessionOpen :
    let t := after (.sessionOpen 3 key3) (withMsg 0x20 openMsg {})
    (t.attn 3).batch.map (fun r => (r.type, r.tick, r.body)) = [(0x20, 0, openMsg)] ∧ (t.attn 3).asm = [] ∧
    (t.attn 3).used.store = 40 := by decide +kernel

theorem test_requests_refused :
    ((after (.sessionClose 3 key3) (withMsg 0x21 closeMsg { fenced := true })).attn 3).lastStatus = 7 ∧
    ((after (.append 3 key3) (withMsg 0x22 (appendMsg 5) (sess3 .active))).attn 3).lastStatus = 0x11 ∧
    ((after (.attend 3 key3) (withMsg 0x23 closeMsg (sess3 .active))).attn 3).lastStatus = 4 ∧
    ((after (.release 3 key3) (withMsg 0x25 prefixMsg (sess3 .closing))).attn 3).lastStatus = 4 := by decide +kernel

theorem test_graft : ((after (.graft 3 key3) (withMsg 0x24 prefixMsg (sess3 .active))).attn 3).batch.length = 1 := by
  decide +kernel

/-- Tract 3 with one admitted request of tick 0. -/
def admitted (type : Nat) (body : Bytes) (r : Tract) : State :=
  (root.modTract 3 (fun _ => r)).modAtsTract 3 (fun a => { a with
    batch := [{ key := key3, slot := 97, type := type, body := body, tick := 0 }] })

/-- The request itself. -/
def req (type : Nat) (body : Bytes) : Admitted := { key := key3, slot := 97, type := type, body := body, tick := 0 }

theorem witness_batchesTakeEffectInOrder :
    ((root.attn 3).batch = [] ∧ (root.tract 3).reclaimQ = [] ∧ [4351].all Wf.physCroft = true) ∧
    (let s := root.modTract 3 (fun _ => { sess3 .closing with reclaimQ := [3, 4] })
     (s.tract 3).reclaimQ = [3, 4] ∧ (s.tract 3).fenced = false ∧ (s.sess 3 3).map (·.ownPages) = some [0x8000] ∧
     (s.page 3 0x8000).state = .held ∧ (s.page 3 0x8000).owner = 3 ∧ [0x8000].Nodup) ∧
    (let s := admitted 0x20 openMsg {}
     (s.tract 3).fenced = false ∧ s.sess 3 3 = none ∧ (s.tract 3).sessions.length < 262144 ∧ s.sessTotal < 4194304 ∧
     beAt openMsg 15 1 % 2 = 0) ∧
    (∀ st ∈ [SessState.empty, .active, .frozen, .closing],
      let s := root.modTract 3 (fun _ => sess3 st)
      (s.sess 3 3).map (fun e => (e.state, e.copyOf)) = some (st, none) ∧
      badDetail 0x22 (appendMsg 5) (some ({} : Geometry)) = none ∧ 0 < recordBytes {}) ∧
    ((parsePart 0x22 (appendMsg 5)).start = 5 ∧ (parsePart 0x22 (appendMsg 6)).start ≠ 5 ∧
      badDetail 0x25 prefixMsg (some ({} : Geometry)) = none) ∧
    ((partner copy3).sess 3 3).map (·.copyOf) = some (some 7) := by decide +kernel

theorem test_attentionBatch_open :
    let t := after (.attentionBatch 3) (admitted 0x20 openMsg {})
    (t.sess 3 3).map (fun e => (e.state, e.geo.dim)) = some (.empty, 64) ∧ (t.attn 3).batch = [] ∧ t.bel.gt = 2048 := by
  decide +kernel

set_option maxRecDepth 20000 in
theorem test_attentionBatch_append :
    let t := after (.attentionBatch 3) (admitted 0x22 (appendMsg 5) (sess3 .active))
    (t.sess 3 3).map (fun e => e.counts) = some [(0, 6)] ∧
    Memory.readN t.cel.mem (cellarAddr 3 (0x80000000 + 5 * 128)) 2 = [9, 9] := by decide +kernel

theorem test_reclaim :
    let t := after (.reclaim 3) (root.modTract 3 (fun _ => { sess3 .closing with reclaimQ := [3, 4] }))
    t.sess 3 3 = none ∧ (t.tract 3).reclaimQ = [4] ∧ (t.page 3 0x8000).state = .free := by decide +kernel

theorem test_batchLate :
    let t := after (.batchLate 3) (admitted 0x21 closeMsg (sess3 .active))
    t.bel.gt = 4096 ∧ opened 0x0603 t = true ∧ (t.attn 3).batch.length = 1 := by decide +kernel

theorem test_batchHung :
    let s := (admitted 0x21 closeMsg (sess3 .active)).modCroft 408 (fun c => { c with attn := true, logical := some 384 })
    let t := after (.batchHung 3 [408]) s
    t.bel.gt = 6 * 2048 ∧ (t.croft 408).hung = true ∧ opened 0x0604 t = true ∧ (t.attn 3).batch = [] := by decide +kernel

/-! ## Crofts and control words (chapters 07, 10, 11) -/

/-- A control word from its fields, each with its lowest bit. -/
def wordOf (fields : List (Nat × Nat)) : BitVec 256 := BitVec.ofNat 256 (fields.foldl (fun n e => n + e.2 * 2 ^ e.1) 0)

/-- VX ADD of 64 FP32 elements: A and B at 0, D at 0x400; it waits for flag 3 to be 1 and raises Tract flag 2. -/
def addWord : BitVec 256 := wordOf [(253, 1), (232, 1), (231, 1), (224, 3), (208, 1), (207, 1), (206, 1), (200, 2),
  (187, 9), (182, 9), (177, 9), (97, 0x400)]
/-- MX LOAD of one BF16 element by one, A at 0, B at 0x40, FP32 output at 0x400; and the same with REUSE. -/
def loadWord : BitVec 256 := wordOf [(232, 1), (177, 9), (175, 1), (116, 0x40), (97, 0x400)]
def reuseWord : BitVec 256 := wordOf [(248, 1), (232, 1), (177, 9), (175, 1), (116, 0x40), (97, 0x400)]
/-- FL SET of flag 7 to 0x1234; ADD of −2 to flag 7; TADD of 5 to Tract flag 7; STEP by 9; BARRIER with flag 4; NOP. -/
def setWord : BitVec 256 := wordOf [(253, 4), (248, 1), (186, 7), (170, 0x1234)]
def addFlagWord : BitVec 256 := wordOf [(253, 4), (248, 2), (186, 7), (170, 0xFFFE)]
def taddWord : BitVec 256 := wordOf [(253, 4), (248, 3), (186, 7), (170, 5)]
def stepWord : BitVec 256 := wordOf [(253, 4), (248, 4), (138, 9)]
def barrierWord : BitVec 256 := wordOf [(253, 4), (248, 5), (186, 4)]
def nopWord : BitVec 256 := wordOf [(253, 4)]

/-- Croft 5 of Tract 0 (logical and physical) in a running Field 2 whose one program of two words runs at every mark. -/
def croft5 (c : Croft) : State :=
  let f : FieldBody := { participants := [5], crofts := [{ logical := 5, schedule := [some 0], programs := [{ entry := 16, len := 2 }] }] }
  let s := fieldRoot.modImg (fun i => { i with fieldImg := some { hdr := { kind := 2, field := 2 }, body := .field f } })
  { s with crf := { crofts := [(5, { c with logical := some 5 })], lmap := [(5, some 5)], running := true, launchGt := 2048 } }

/-- A word at the head of a queue that has not started, or has. -/
def queuedWord (w : BitVec 256) : List QWord := [{ word := w }]
def doneWord (w : BitVec 256) : List QWord := [{ word := w, done := true }]

/-- Croft 5 with a program under way at STEP, then SET. -/
def programmed : Croft := { prog := some { index := 0, next := 16, len := 2 }, store := [(16, stepWord), (17, setWord)] }

/-- A Pantry with FP32 1.0 at 0, which is BF16 1.0 there too, and BF16 2.0 at 0x40. -/
def ones : Memory := [(0, 0x3F), (1, 0x80), (0x40, 0x40)]

theorem witness_wordsIssueComputeAndRetire :
    (let s := croft5 {}
     5 < 4096 ∧ s.physOf 5 = some 5 ∧ s.works 5 = true ∧ (s.plan 5).map (·.schedule) = some [some 0] ∧ s.crf.running = true ∧
     s.crf.paused = false ∧ (s.croft 5).attn = false ∧ (s.croft 5).prog = none ∧ s.flt.armed = none ∧
     (s.croft 5).badWords = [] ∧ (s.croft 5).softWords = [] ∧ (s.croft 5).next .vx = none ∧ (s.croft 5).queue .fp = []) ∧
    (let x := (croft5 programmed).croft 5
     x.prog = some { index := 0, next := 16, len := 2 } ∧ engineNamed (Tab.look 0 x.store 16) = some .fl ∧
     (x.queue .fl).length < 128 ∧ x.unretired.length < 512 ∧ 16 ∉ x.unretired.flatMap overlaid) ∧
    (let s := croft5 { flags := [(3, 1)], vx := queuedWord addWord, mx := queuedWord reuseWord, fl := doneWord setWord }
     ((s.croft 5).next .vx).map (·.word) = some addWord ∧ isOp .vx 0 addWord = true ∧ s.waitMet 5 addWord = true ∧
     isOp .vx 1 addWord = false ∧ (croft5 {}).waitMet 5 addWord = false ∧ (s.croft 5).active = none ∧
     isOp .mx 1 reuseWord = true ∧ s.armedFor 2 0x1005 = false ∧ isStep setWord = false ∧ wSigEn addWord = true) ∧
    (isOp .mx 0 loadWord = true ∧ isOp .fl 0 nopWord = true ∧ isOp .fl 1 setWord = true ∧ isOp .fl 2 addFlagWord = true ∧
      isOp .fl 3 taddWord = true ∧ isOp .fl 5 barrierWord = true ∧ isStep stepWord = true) ∧
    ((croft5 {}).fieldBody.map (·.1) = some 2 ∧ 5 ∈ (croft5 {}).participants 2) := by decide +kernel

/-- Each VX operation has a word that names it. -/
theorem witness_vxOperations : ∀ op < 12, isOp .vx op (wordOf [(253, 1), (248, op)]) = true := by decide +kernel

theorem test_tickProgramStart :
    let t := after (.tickProgramStart 5) (croft5 { flags := [(3, 1), (47, 1), (48, 2)] })
    (t.croft 5).prog = some { index := 0, next := 16, len := 2 } ∧ (t.croft 5).flags = [(48, 2)] ∧ t.bel.gt = 2048 := by
  decide +kernel

theorem test_tickProgramStart_overrun :
    let t := after (.tickProgramStart 5) (croft5 programmed)
    (t.croft 5).overrun = 1 ∧ opened 0x0704 t = true := by decide +kernel

theorem test_wordIssue :
    let t := after (.wordIssue 5) (croft5 programmed)
    (t.croft 5).step = 9 ∧ (t.croft 5).fl.map (·.word) = [stepWord] ∧ (t.croft 5).prog.map (·.next) = some 17 := by decide +kernel

theorem test_wordRetire :
    let t := after (.wordRetire 5 .vx) (croft5 { vx := doneWord addWord })
    (t.croft 5).vx = [] ∧ t.crf.tflags = [(2, 1)] := by decide +kernel

set_option maxRecDepth 20000 in
theorem test_vxAdd :
    let t := after (.vxAdd 5) (croft5 { flags := [(3, 1)], vx := queuedWord addWord, pantry := ones })
    Memory.readN (t.croft 5).pantry 0x400 4 = [0x40, 0, 0, 0] ∧ (t.croft 5).vx.map (·.done) = [true] := by decide +kernel

set_option maxRecDepth 20000 in
theorem test_mxLoad :
    let t := after (.mxLoad 5) (croft5 { mx := queuedWord loadWord, pantry := ones })
    Memory.readN (t.croft 5).pantry 0x400 4 = [0x40, 0, 0, 0] ∧ (t.croft 5).lambda = 8 ∧ (t.croft 5).ramp = 1 := by decide +kernel

set_option maxRecDepth 20000 in
theorem test_mxReuse :
    let t := after (.mxReuse 5) (croft5 { mx := queuedWord reuseWord, pantry := ones,
                                          active := some { elems := [0x4040], scale := [127] } })
    Memory.readN (t.croft 5).pantry 0x400 4 = [0x40, 0x40, 0, 0] := by decide +kernel

theorem test_flags :
    ((after (.flSet 5) (croft5 { fl := queuedWord setWord })).croft 5).flags = [(7, 0x1234)] ∧
    ((after (.flAdd 5) (croft5 { fl := queuedWord addFlagWord, flags := [(7, 1)] })).croft 5).flags = [] ∧
    (after (.flTadd 5) (croft5 { fl := queuedWord taddWord })).crf.tflags = [(7, 5)] ∧
    ((after (.flNop 5) (croft5 { fl := queuedWord nopWord })).croft 5).fl.map (·.done) = [true] := by decide +kernel

theorem test_flBarrier :
    let t := after (.flBarrier 5) (croft5 { fl := queuedWord barrierWord })
    (t.barrier 2).crofts = [5] ∧ (t.barrier 2).waiters = [(5, 4)] := by decide +kernel

/-! ### Movers, ports and receives -/

/-- COPY of one run of 4 bytes from 0 to 0x400 in the Pantry; FILL of 16 bytes; GATHER of one run by index 0x10. -/
def copyWord : BitVec 256 := wordOf [(253, 2), (232, 1), (116, 0x400), (104, 3)]
def fillWord : BitVec 256 := wordOf [(253, 2), (248, 4), (232, 1), (116, 0x400), (104, 15)]
def gatherWord : BitVec 256 := wordOf [(253, 2), (248, 2), (232, 1), (116, 0x400), (104, 3), (72, 1), (44, 0x100)]
/-- SEND of 4 bytes of DATA to EID 9; POST of a DATA receive of 8 bytes at 0x200 under tag 3 with flag 6. -/
def sendWord : BitVec 256 := wordOf [(253, 3), (232, 1), (172, 9), (164, 0x40), (107, 4), (75, 5)]
def postWord : BitVec 256 := wordOf [(253, 3), (248, 1), (232, 1), (164, 0x40), (128, 0x200), (107, 8), (75, 3 * 65536), (37, 6)]
def penOpenWord : BitVec 256 := wordOf [(253, 3), (248, 2), (232, 1), (164, 0x10), (107, 64), (75, 0x801 * 65536 + 1), (37, 6)]
def penSendWord : BitVec 256 := wordOf [(253, 3), (248, 3), (232, 1), (164, 0x11), (107, 64), (75, 0x801 * 65536 + 1)]

/-- The receive that POST adds. -/
def post3 : Post := { tag := 3, buf := 0x200, len := 8, flag := 6 }

/-- A DATA packet for logical Croft 5 under tag 3 at an offset. -/
def dataPkt (off : Nat) (body : Bytes) : Packet :=
  sealPacket { cls := 5, ptype := 0x40, src := 16, dst := 0xF4231, tsw0 := 3 * 65536 + 5, tsw1 := BitVec.ofNat 32 off } body

theorem witness_moversPortsAndReceives :
    (let s := croft5 { mv := queuedWord copyWord, fp := queuedWord postWord, posts := [post3] }
     s.physOf 5 = some 5 ∧ s.works 5 = true ∧ s.cel.bad = [] ∧ s.cel.soft = [] ∧ s.flt.armed = none ∧
     ((s.croft 5).next .mv).map (·.word) = some copyWord ∧ isOp .mv 0 copyWord = true ∧ s.waitMet 5 copyWord = true ∧
     isOp .mv 1 copyWord = false ∧ (croft5 {}).croft 5 = { logical := some 5 } ∧ ((croft5 {}).croft 5).next .mv = none ∧
     (∀ r ∈ moverRuns (mover copyWord) 1, 0 ≤ r.2 ∧ r.2 + (mover copyWord).run ≤ 0x60000 ∧ 0 ≤ r.1 ∧
       r.1 + (mover copyWord).run ≤ 0x60000) ∧ (mover copyWord).dstSpace = 0 ∧ (mover copyWord).srcSpace = 0) ∧
    (∀ op < 6, isOp .mv op (wordOf [(253, 2), (248, op)]) = true) ∧
    (isOp .fp 0 sendWord = true ∧ isOp .fp 1 postWord = true ∧ isOp .fp 2 penOpenWord = true ∧ isOp .fp 3 penSendWord = true ∧
      ((croft5 { fp := queuedWord postWord }).croft 5).posts = [] ∧
      ¬ ((List.replicate 32 post3).filter (fun r => r.response == false)).length < 32) ∧
    (let p := dataPkt 4 [1, 2, 3, 4]
     Wf.packet p = true ∧ p.cls = 5 ∧ p.ptype = 0x40 ∧ p.src.toNat < 0xF0000 ∧ p.tsw0.toNat % 4096 = 5 ∧
     (p.tsw0.toNat / 4096) % 16 = 0 ∧ 4 + p.payload.length ≤ post3.len ∧ post3.len < 5 + p.payload.length ∧
     post3.buf + post3.len ≤ 0x60000 ∧ covers ([(0, 4)] ++ [(4, 4)]) 8 = true ∧ covers ([] ++ [(4, 4)]) 8 = false) ∧
    (let s := croft5 { vx := queuedWord addWord }
     s.waitedOn 5 = some 3 ∧ s.stalled 5 = true ∧ s.attic.failed = false ∧ s.attic.writing = none ∧
     (croft5 {}).waitedOn 5 = none) := by decide +kernel

theorem test_mvCopy :
    Memory.readN ((after (.mvCopy 5) (croft5 { mv := queuedWord copyWord, pantry := ones })).croft 5).pantry 0x400 4 =
      [0x3F, 0x80, 0, 0] := by decide +kernel

/-- COPY of two runs, the second of which reads what the first has written (R285). -/
def chainWord : BitVec 256 := wordOf [(253, 2), (232, 1), (116, 4), (104, 3), (96, 1), (72, 4), (28, 4)]

theorem test_mvCopy_runByRun :
    Memory.readN ((after (.mvCopy 5) (croft5 { mv := queuedWord chainWord, pantry := ones })).croft 5).pantry 8 4 =
      [0x3F, 0x80, 0, 0] := by decide +kernel

/-- OVERLAY of one word from the Pantry to word 3 of the program store; SCATTER of one run by the index at 0x10;
TRANSPOSE of a 1 × 2 matrix of bytes. -/
def overlayWord : BitVec 256 := wordOf [(253, 2), (248, 5), (232, 1), (188, 2), (116, 3), (104, 31)]
def scatterWord : BitVec 256 := wordOf [(253, 2), (248, 3), (232, 1), (116, 0x400), (104, 3), (28, 1), (0, 0x10)]
def transposeWord : BitVec 256 := wordOf [(253, 2), (248, 1), (232, 1), (116, 0x400), (96, 1), (72, 1), (28, 1)]

theorem test_mvOverlay :
    Tab.look 0 ((after (.mvOverlay 5) (croft5 { mv := queuedWord overlayWord, pantry := ones })).croft 5).store 3 =
      BitVec.ofNat 256 (0x3F80 * 2 ^ 240) := by decide +kernel

theorem test_mvScatter :
    let c : Croft := { mv := queuedWord scatterWord, pantry := [(0, 0x3F), (1, 0x80), (0x13, 0x10)] }
    Memory.readN ((after (.mvScatter 5) (croft5 c)).croft 5).pantry 0x410 4 = [0x3F, 0x80, 0, 0] := by decide +kernel

theorem test_mvTranspose :
    Memory.readN ((after (.mvTranspose 5) (croft5 { mv := queuedWord transposeWord, pantry := ones })).croft 5).pantry 0x400 2 =
      [0x3F, 0x80] := by decide +kernel

/-- A response packet for request tag 4 of Croft 5; a data packet of chunk 0 of the Pen's result. -/
def answerPkt : Packet :=
  sealPacket { cls := 4, ptype := 0x30, src := 0xF4007, dst := 0xF4231, tsw0 := 3
               tsw1 := BitVec.ofNat 32 (5 * 2 ^ 20 + 4 * 2 ^ 16) } [1, 2, 3, 4]
def resultPkt : Packet :=
  sealPacket { cls := 2, ptype := 0x12, src := 0xF0007, dst := 0xF4231, tsw0 := BitVec.ofNat 32 (0x801 * 65536)
               tsw1 := BitVec.ofNat 32 (3 * 2 ^ 15 + 80) } (List.replicate 4096 7)
def receiving : State := croft5 { posts := [{ response := true, tag := 4, buf := 0x200, len := 8, flag := 6 }], requests := [4]
                                  pens := [{ tag := 0x801, stepLo := 5, fmt := 6, chunks := 16, buf := 0x1000 }] }

theorem witness_responsesAndResults :
    Wf.packet answerPkt = true ∧ answerPkt.cls = 4 ∧ answerPkt.ptype = 0x30 ∧ answerPkt.tsw1.toNat / 2 ^ 20 = 5 ∧
    ((receiving.croft 5).posts.find? (fun r => r.response && r.tag == answerPkt.tsw1.toNat / 65536 % 16)).map (·.len) = some 8 ∧
    covers ([(0, 1)] : List (Nat × Nat)) (answerPkt.tsw1.toNat % 256 + 1) = true ∧
    Wf.packet resultPkt = true ∧ resultPkt.cls = 2 ∧ resultPkt.ptype = 0x12 ∧ penChunk resultPkt = 0 ∧ penPkt resultPkt = 3 ∧
    ((receiving.croft 5).pens.find? (fun r => r.tag == penTag resultPkt && r.stepLo == penStepLo resultPkt)).map
      (fun r => (r.buf, r.committed)) = some (0x1000, 0) ∧ penPkt resultPkt < dataPackets 6 ∧
    resultPkt.payload.length = dataLen 6 := by decide +kernel

set_option maxRecDepth 20000 in
theorem test_croftRxPacket_response :
    let t := after (.croftRxPacket 5 answerPkt) receiving
    Memory.readN (t.croft 5).pantry 0x200 4 = [1, 2, 3, 4] ∧ (t.croft 5).requests = [] ∧ (t.croft 5).flags = [(6, 1)] := by
  decide +kernel

theorem test_mvFill :
    Memory.readN ((after (.mvFill 5) (croft5 { mv := queuedWord fillWord, pantry := ones })).croft 5).pantry 0x400 16 =
      [0x3F, 0x80, 0, 0, 0, 0, 0, 0, 0x3F, 0x80, 0, 0, 0, 0, 0, 0] := by decide +kernel

theorem test_mvGather :
    let c : Croft := { mv := queuedWord gatherWord, pantry := [(0x10, 0xAB), (0x103, 0x10)] }
    Memory.readN ((after (.mvGather 5) (croft5 c)).croft 5).pantry 0x400 4 = [0xAB, 0, 0, 0] := by decide +kernel

theorem test_fpPost :
    ((after (.fpPost 5) (croft5 { fp := queuedWord postWord })).croft 5).posts = [post3] := by decide +kernel

set_option maxRecDepth 20000 in
theorem test_fpPenOpen :
    ((after (.fpPenOpen 5) (croft5 { fp := queuedWord penOpenWord })).croft 5).pens.map (fun r => (r.tag, r.rank, r.flag)) =
      [(0x801, 1, 6)] := by decide +kernel

theorem test_fpPost_held :
    ((after (.fpPost 5) (croft5 { fp := queuedWord postWord, posts := List.replicate 32 post3 })).croft 5).posts.length = 32 := by
  decide +kernel

set_option maxRecDepth 20000 in
theorem test_fpSend :
    let s := croft5 { fp := queuedWord sendWord, pantry := ones }
    let e := 2 ^ 31 + 2 * 2 ^ 25 + 4 * 2 ^ 20 + sysY s.devIndex * 2 ^ 14 + sysX s.devIndex * 2 ^ 9
    let t := after (.fpSend 5) { s with rte := { s.rte with route := [(9, BitVec.ofNat 32 e)] } }
    (t.croft 5).fp.map (·.done) = [true] ∧ (t.croft 5).requests = [] ∧ t.swc.nextId = 1 := by decide +kernel

set_option maxRecDepth 20000 in
theorem test_fpSend_stranger :
    ((after (.fpSend 5) (croft5 { fp := queuedWord sendWord, pantry := ones })).slotReg 98).stranger = 1 := by decide +kernel

set_option maxRecDepth 20000 in
theorem test_croftRxPacket :
    let t := after (.croftRxPacket 5 (dataPkt 4 [1, 2, 3, 4])) (croft5 { posts := [{ post3 with got := [(0, 4)] }] })
    Memory.readN (t.croft 5).pantry 0x204 4 = [1, 2, 3, 4] ∧ (t.croft 5).flags = [(6, 1)] ∧ (t.croft 5).posts = [] := by
  decide +kernel

set_option maxRecDepth 20000 in
theorem test_croftRxPacket_dropped :
    ((after (.croftRxPacket 5 (dataPkt 5 [1, 2, 3, 4])) (croft5 { posts := [post3] })).croft 5).rxDrop = 1 := by decide +kernel

theorem test_croftHung :
    let t := after (.croftHung 5) (croft5 { vx := queuedWord addWord })
    (t.croft 5).hung = true ∧ opened 0x0705 t = true ∧ t.bel.gt = 4 * 2048 ∧ t.attic.writing.map (·.crofts) = some [5] := by
  decide +kernel

/-! ## Images, checkpoints and launches (chapters 11, 12, 16) -/

/-- A base image of five empty sections: header, section table, nothing, and a signature of zeros. -/
def baseBuf : Memory := [(0, 0x56), (1, 0x50), (2, 0x4C), (3, 0x49), (5, 1), (6, 1), (7, 0x41), (12, 11), (13, 0xFF), (15, 5),
  (16, 0x02), (17, 0x31), (22, 0x0D), (23, 0x70), (33, 1), (39, 128), (49, 2), (55, 128), (65, 3), (71, 128), (81, 4),
  (87, 128), (97, 5), (103, 128)]

/-- The contents of those sections for the device of `grid`. -/
def baseBody : BaseBody :=
  { topology := { extentW := 4, extentH := 4, mgmtKey := 1, devIndex := strapIndex grid.glb.straps } }

/-- A device with that image in its buffer, before any Field has launched; and while it is checked. -/
def loading : State := { grid with
  img := { buf := (baseBuf.filter (fun e => e.1 ≠ 16 ∧ e.1 ≠ 17)).foldl (fun m e => Memory.write m e.1 e.2)
                    (Memory.writeN [] 16 (beBytes 2 (strapIndex grid.glb.straps)))
           len := 3440 }
  fuses := { grid.fuses with enrolled := 1 } }
def checkingBase : State := after (.verifyBase (.base baseBody)) loading

/-- A Field image for Field 2, and the state in which it is staged beside `fieldRoot`'s. -/
def image2 (f : FieldBody) : Image := { hdr := { kind := 2, field := 2, kexp := 11 }, body := .field f }
def baseImage : Image := { hdr := { kind := 1, kexp := 11 }, body := .base baseBody }
def stagedOf (i : Image) : State := fieldRoot.modImg (fun x => { x with state := .staged, staged := some i })
def field2 : FieldBody := { crofts := [{ logical := 5, schedule := [none], step := 9, pantry := [(3, 0xAB)] }] }

/-- `fieldRoot` with its Croft 5, its Field stopped, and a launch of Field 2 pending at 4096 on a staged image. -/
def toLaunch : State :=
  let s := stagedOf (image2 field2)
  { s with crf := { s.crf with lmap := [(5, some 5)], crofts := [(5, { flags := [(3, 1)], logical := some 5 })] }
           bel := { s.bel with launchState := 1, launchField := 2, launchAt := 4096, launchLo := 4096 } }

theorem witness_imagesAreVerified :
    loading.flt.fatal = none ∧ 3 ≤ loading.glb.stage ∧ loading.img.checking = none ∧ loading.img.state = .idle ∧
    checkingBase.img.state = .busy ∧ checkingBase.img.checking = some (1, .base baseBody) ∧
    (grid.fuses.enrolled.getLsbD 0 = false ∨ True) ∧ checkingBase.img.fieldImg = none ∧
    (stagedOf baseImage).img.state = .staged ∧ (stagedOf baseImage).stagedBase = some baseImage ∧
    (stagedOf baseImage).img.applyState ≠ 1 ∧ (stagedOf baseImage).img.fieldImg ≠ none ∧
    (stagedOf (image2 {})).stagedBase = none ∧ (stagedOf baseImage).bel.state = .locked ∧
    (6144 % 2 ^ max 11 baseImage.hdr.kexp = 0 ∧ (stagedOf baseImage).bel.gt + 2 * 2048 ≤ 6144) ∧
    kexpAt (stagedOf baseImage) 6144 11 = true ∧
    kexpAt (stagedOf baseImage |>.modBel (fun b => { b with acting := false })) 6144 12 = false := by decide +kernel

/-- Apart from the signature and the detour and escape checks, that base image passes every check. -/
theorem witness_imagePasses (hs : signatureOk checkingBase (parseImage checkingBase.img.buf) = true)
    (hd : Config.detourFailure baseBody = none) (he : Config.escapeFailure baseBody = none) :
    verifyFail checkingBase 1 (.base baseBody) = none := by
  have hb : baseFail checkingBase (readSections checkingBase.img.buf (parseImage checkingBase.img.buf)) baseBody = none := by
    unfold baseFail; rw [hd, he]; decide +kernel
  simp only [verifyFail, kindFail, hs, hb]
  decide +kernel

/-- A slot that is not enrolled: the image fails with SIGNATURE whatever the signature is. -/
theorem test_verifyDone_signature :
    let t := after .verifyDone (checkingBase.modImg (fun i => { i with buf := Memory.write i.buf 18 3 }))
    t.img.state = .fail ∧ t.img.code = 2 := by decide +kernel

theorem test_verifyDone_format :
    let t := after .verifyDone (checkingBase.modImg (fun i => { i with buf := [] }))
    t.img.state = .fail ∧ t.img.code = 1 ∧ t.img.sect = 0xFFFF := by decide +kernel

theorem test_verifyBase_busy : (after (.verifyBase (.base baseBody)) checkingBase).img.cmdLost = true := by decide +kernel

theorem test_verifyField : (after (.verifyField (.field {})) loading).img.checking = some (2, .field {}) := by decide +kernel

theorem test_discard :
    (after .discard checkingBase).img.state = .idle ∧
    (let t := after .discard ((stagedOf baseImage).modImg (fun i => { i with applyState := 1 }))
     t.img.staged = none ∧ t.img.applyState = 0 ∧ t.img.applyCode = 5) := by decide +kernel

theorem test_applyBase :
    (let t := after .applyBase ((stagedOf baseImage).modImg (fun i => { i with applyLo := 6144 }))
     t.img.applyState = 1 ∧ t.img.applyAt = 6144) ∧
    (after .applyBase ((stagedOf baseImage).modImg (fun i => { i with applyLo := 4096 }))).img.applyCode = 2 ∧
    (after .applyBase ((stagedOf baseImage).modImg (fun i => { i with applyLo := 6145 }))).img.applyCode = 1 := by decide +kernel

theorem test_baseImageTakeEffect :
    let s := (stagedOf baseImage).modImg (fun i => { i with applyState := 1, applyAt := 6144, base := none })
    let t := after .baseImageTakeEffect s
    t.img.base = some baseImage ∧ t.img.applyState = 2 ∧ t.bel.gt = 6144 ∧ t.attic.imageSeq = 1 := by decide +kernel

theorem test_imgLock : (after .imgLock loading).img.lock = true := by decide +kernel

/-- A Field 2 that runs from 2048 at GT 2040, with a SAVE or a RESUME pending at 6144. -/
def saving (st : Nat) : State :=
  (croft5 { flags := [(48, 7)] }).modImg (fun i => { i with ckptState := st, ckptAt := 6144, ckptLo := 6144 })

theorem witness_fieldsPauseResumeAndLaunch :
    (∀ st ∈ [0, 1, 2, 5], (saving st).flt.fatal = none ∧ 3 ≤ (saving st).glb.stage ∧ (saving st).img.ckptState = st) ∧
    (saving 1).fieldBody.map (·.1) = some 2 ∧ (saving 1).img.fieldImg ≠ none ∧ (saving 1).flt.armed = none ∧
    (saving 1).cel.bad = [] ∧ (saving 1).cel.soft = [] ∧ (saving 0).crf.paused = false ∧
    ((saving 5).modCrf (fun c => { c with paused := true })).crf.paused = true ∧
    (let s := toLaunch
     s.flt.fatal = none ∧ 5 ≤ s.glb.stage ∧ s.bel.launchState = 1 ∧ s.launchImage 2 = some (true, image2 field2) ∧
     s.bel.k ≠ 0 ∧ s.launchImage 3 = none ∧ s.img.restore = false ∧ s.crf.running = false ∧ Tab.wf none s.crf.lmap = true ∧
     s.physOf 5 = some 5 ∧ s.physOf 6 = none ∧ (s.neededPorts 2).find? (fun n => (s.slotReg n).disc != .active) = none ∧
     field2.crofts.find? (·.logical == 5) ≠ none) := by decide +kernel

/-- No two logical Crofts of `toLaunch` share a Croft. -/
theorem witness_oneToOne : ∀ a c k, toLaunch.physOf a = some k → toLaunch.physOf c = some k → a = c := by
  have h : ∀ a, toLaunch.physOf a = if a = 5 then some 5 else none := by
    intro a
    show Tab.look none [(5, some 5)] a = _
    by_cases h : a = 5
    · subst h; rfl
    · simp only [Tab.look]
      have : ¬ 5 = a := fun e => h e.symm
      simp [this, h]
  intro a c k ha hc
  rw [h] at ha hc
  split at ha <;> split at hc <;> simp_all

theorem test_ckptSave :
    (let t := after .ckptSave (saving 0)
     t.img.ckptState = 1 ∧ t.img.ckptAt = 6144) ∧ (after .ckptSave (saving 2)).img.cmdLost = true ∧
    (after .ckptResume (saving 0)).img.ckptCode = 0x0B ∧ (after .ckptCancel (saving 1)).img.ckptState = 0 := by decide +kernel

/-- A program that is under way at the mark fails the SAVE with code 4, and the Field runs on. -/
theorem test_ckptCapture_running :
    let t := after .ckptCapture ((saving 1).modCroft 5 (fun x => { x with prog := programmed.prog }))
    t.img.ckptState = 4 ∧ t.img.ckptCode = 4 ∧ t.crf.paused = false := by decide +kernel

theorem test_ckptSlotsWritten :
    let t := after .ckptSlotsWritten ((saving 2).modBel (fun b => { b with gt := 6144 + 625 }))
    t.img.ckptState = 3 ∧ t.img.ckptDone = true ∧ t.img.captureUs = 2 := by decide +kernel

theorem test_ckptResumeAtCount :
    let t := after .ckptResumeAtCount ((saving 5).modCrf (fun c => { c with paused := true, runs := 3 }))
    t.img.ckptState = 0 ∧ t.crf.paused = false ∧ t.crf.launchGt = 6144 ∧ t.crf.runsBase = 3 ∧ t.bel.gt = 6144 := by decide +kernel

theorem test_fieldLaunchRequest :
    let s := toLaunch.modBel (fun b => { b with launchState := 0, launchLo := 6144 })
    let t := after (.fieldLaunchRequest 2) s
    t.bel.launchState = 1 ∧ t.bel.launchAt = 6144 ∧ (after (.fieldLaunchRequest 3) s).bel.launchCode = 7 ∧
    (after (.fieldLaunchRequest 2) toLaunch).bel.launchLost = true := by decide +kernel

theorem test_fieldLaunch :
    let t := after .fieldLaunch toLaunch
    t.bel.launchState = 2 ∧ t.crf.running = true ∧ t.crf.launchGt = 4096 ∧ (t.croft 5).step = 9 ∧ (t.croft 5).flags = [] ∧
    (t.croft 5).pantry = [(3, 0xAB)] ∧ t.img.state = .idle := by decide +kernel

/-- A checkpoint slot of Field 2 with no Croft, after 4 entries, whose digest is zeros; its CRC; every stack holds it. -/
def slotHead : Bytes := beBytes 4 0x43504B31 ++ beBytes 2 1 ++ [2, 0] ++ beBytes 2 (strapIndex grid.glb.straps) ++
  List.replicate 14 0 ++ beBytes 4 4
def slotZeros : Bytes := List.replicate 100 0
def slotCrc : Nat := 2004148229
def slotOne : Memory := Memory.writeN [] slotOff (slotHead ++ slotZeros ++ beBytes 4 slotCrc)
def slotMem : Nat → Memory
  | 0 => []
  | t + 1 => slotMem t ++ slotOne.map (fun e => (t * 2 ^ 36 + e.1, e.2))
def toRestore : State :=
  let s := stagedOf { image2 field2 with pdigest := List.replicate 64 0 }
  { s with bel := toLaunch.bel, crf := toLaunch.crf, img := { s.img with restore := true }
           cel := { s.cel with mem := slotMem 32 } }

theorem slotOne_low : ∀ e ∈ slotOne, e.1 < 2 ^ 36 := by decide +kernel

theorem slotMem_look (n t k : Nat) (h : t < n) (hk : k < 2 ^ 36) :
    Tab.look Memory.blank (slotMem n) (t * 2 ^ 36 + k) = Tab.look Memory.blank slotOne k := by
  induction n with
  | zero => omega
  | succ n ih =>
    by_cases e : t = n
    · subst e
      have low : ∀ m, m ≤ t → ∀ x ∈ slotMem m, x.1 < m * 2 ^ 36 := by
        intro m
        induction m with
        | zero => intro _ x hx; cases hx
        | succ m ihm =>
          intro hm x hx
          rcases List.mem_append.mp hx with hx | hx
          · exact Nat.lt_of_lt_of_le (ihm (Nat.le_of_succ_le hm) x hx) (Nat.mul_le_mul_right _ (Nat.le_succ m))
          · obtain ⟨y, hy, rfl⟩ := List.mem_map.mp hx
            have := slotOne_low y hy
            show m * 2 ^ 36 + y.1 < _
            omega
      show Tab.look Memory.blank (slotMem t ++ _) _ = _
      rw [Tab.look_append _ _ _ _ (fun x hx => by have := low t (Nat.le_refl _) x hx; omega), Tab.look_shift]
    · show Tab.look Memory.blank (slotMem n ++ _) _ = _
      rw [Tab.look_append_left, ih (by omega)]
      intro x hx
      obtain ⟨y, hy, rfl⟩ := List.mem_map.mp hx
      show n * 2 ^ 36 + y.1 ≠ _
      omega

theorem restore_mem : toRestore.cel.mem = slotMem 32 := rfl

theorem slot_bytes (t : Nat) (h : t < 32) :
    Memory.readN toRestore.cel.mem (cellarAddr t slotOff) 132 = slotHead ++ slotZeros ++ beBytes 4 slotCrc := by
  have e : Memory.readN toRestore.cel.mem (cellarAddr t slotOff) 132 = Memory.readN slotOne slotOff 132 := by
    rw [restore_mem]
    generalize 32 = n at h
    unfold Memory.readN
    refine List.map_congr_left (fun i hi => ?_)
    have hi := List.mem_range.mp hi
    have := slotMem_look n t (slotOff + i) h (by unfold slotOff; omega)
    simp only [Memory.read, cellarAddr, Nat.add_assoc]
    exact this
  rw [e]
  decide +kernel

set_option maxRecDepth 20000 in
theorem slot_crc : crc32c (slotHead ++ slotZeros) = slotCrc := by
  have h1 : slotHead.foldl (crcByte 32 0x1EDC6F41) 0xFFFFFFFF = 2090738375 := by decide +kernel
  simp only [crc32c, crc, List.foldl_append, h1]
  decide +kernel

/-- Every slot matches the image and its CRC, so the launch that restores them runs. -/
theorem witness_restore : (readCkptSlots toRestore).1.findSome? ((readCkptSlots toRestore).2.slotFail 2 (List.replicate 64 0)) = none ∧
    toRestore.img.restore = true ∧ toRestore.bel.launchState = 1 ∧ toRestore.flt.fatal = none := by
  have h := fun t ht => readCkptSlot_clean t toRestore (by rfl) (by rfl) (by rfl)
    (by rw [slot_bytes t ht]; decide +kernel) (by rw [slot_bytes t ht]; decide +kernel)
  have r := readCkptSlots_same { header := slotHead ++ slotZeros, crc := slotCrc, records := [], scales := [] } toRestore
    (fun t ht => by
      have h1 : (slotHead ++ slotZeros ++ beBytes 4 slotCrc).take 128 = slotHead ++ slotZeros := by decide +kernel
      have h2 : beAt (slotHead ++ slotZeros ++ beBytes 4 slotCrc) 128 4 = slotCrc := by decide +kernel
      rw [h t ht, slot_bytes t ht, h1, h2])
  rw [r]
  refine ⟨?_, by decide +kernel⟩
  have one : toRestore.slotFail 2 (List.replicate 64 0)
      (some { header := slotHead ++ slotZeros, crc := slotCrc, records := [], scales := [] }) = none := by
    simp only [State.slotFail, List.append_nil, slot_crc]
    decide +kernel
  exact List.findSome?_eq_none_iff.mpr (fun x hx => by rw [List.eq_of_mem_replicate hx]; exact one)

/-- Slots that were never written do not match. -/
theorem witness_noSlots : let rd := readCkptSlots toLaunch
    rd.1.findSome? (rd.2.slotFail 2 []) = some 0x09 := by decide +kernel

/-- At the mark nothing stands in the way of the SAVE: no word, receive, Pen or barrier is open, and each slot fits. -/
theorem witness_saveHolds :
    let v := advanceTo 6144 { saving 1 with crf := { (saving 1).crf with lmap := [] } }
    v.saveFail 2 (fun t => v.slotData 2 t 6144 2 []) = none := by decide +kernel

/-- A Field image of eight empty sections for Field 2, and its contents. -/
def fieldBuf : Memory := [(0, 0x56), (1, 0x50), (2, 0x4C), (3, 0x49), (5, 1), (6, 2), (7, 0x41), (12, 11), (13, 2), (15, 8),
  (22, 0x0D), (23, 0xB0), (33, 0x10), (39, 192), (49, 0x11), (55, 192), (65, 0x12), (71, 192), (81, 0x13), (87, 192),
  (97, 0x14), (103, 192), (113, 0x15), (119, 192), (129, 0x16), (135, 192), (145, 0x17), (151, 192)]
def tractPart : CellarPart where
  foldExtra := some 0
  croftExtra := some 0
  ownMax := some 9
  mirrorMax := some 9
  xferAttn := some 16
  xferCroft := some 16
  xferMirror := some 16
  xferFold := some 16
  retired := some []
  partnersOut := some []
  partnersIn := some []
def plainField : FieldBody := { key := 7, barOffset := 4000, cellar := List.replicate 32 tractPart }
def checkingField : State :=
  let s := { fieldRoot with
    img := { fieldRoot.img with buf := Memory.writeN fieldBuf 16 (beBytes 2 (strapIndex grid.glb.straps)), len := 3504 }
    fuses := { grid.fuses with enrolled := 1 } }
  after (.verifyField (.field plainField)) { s with crf := { s.crf with running := false } }

/-- Apart from the signature and the Pen trees, that Field image passes every check. -/
theorem witness_fieldImagePasses (hs : signatureOk checkingField (parseImage checkingField.img.buf) = true)
    (hp : Config.penTreeFailure plainField = none) :
    checkingField.img.checking = some (2, .field plainField) ∧ verifyFail checkingField 2 (.field plainField) = none := by
  have hn : penFail checkingField 2 plainField = none := by unfold penFail; rw [hp]; decide +kernel
  refine ⟨by decide +kernel, ?_⟩
  have e : (parseImage checkingField.img.buf).field = 2 := by decide +kernel
  have hb : (checkingField.baseBody).isSome = true := by decide +kernel
  obtain ⟨b, hb⟩ := Option.isSome_iff_exists.mp hb
  have hff : fieldFail checkingField (parseImage checkingField.img.buf)
      (readSections checkingField.img.buf (parseImage checkingField.img.buf)) (checkingField.baseBody.getD {}) plainField = none := by
    simp only [fieldFail, e, hn]
    decide +kernel
  rw [hb] at hff
  simp only [verifyFail, kindFail, hs, hb]
  simp only [Option.getD_some] at hff
  simp only [hff]
  decide +kernel


/-- Field 3 is a guest on this device's Paddock; its image is staged and its launch pends. -/
def guest3 : State :=
  let one : Rect := { xlo := 1, xhi := 1, ylo := 1, yhi := 1 }
  let b : BaseBody := { topology := { extentW := 4, extentH := 4 }
                        fields := [{ id := 2, rect := one }, { id := 3, rows := [{ rect := one }] }] }
  let s := stagedOf { hdr := { kind := 2, field := 3, kexp := 11 }, body := .field { key := 9 } }
  { s with img := { s.img with base := some { hdr := { kind := 1, kexp := 11 }, body := .base b } }
           bel := { toLaunch.bel with launchField := 3 } }

theorem witness_guestLaunch :
    guest3.inField 3 = false ∧ guest3.lentTo 3 guest3.devIndex = true ∧ guest3.bel.launchState = 1 ∧
    guest3.flt.fatal = none ∧ (guest3.launchImage 3).map (·.1) = some true := by decide +kernel

theorem test_fieldLaunch_guest :
    let t := after .fieldLaunch guest3
    t.img.guestKeys = [(3, 9)] ∧ t.bel.launchState = 2 ∧ t.img.state = .idle ∧ t.crf.running = guest3.crf.running := by
  decide +kernel
/-! ## Links' physical side and discovery (chapters 02, 13) -/

/-- `fieldRoot`'s device with an endpoint port 5 for EID 700 and a trunk 40 to port 9's peer, in effect. -/
def planned : State := root.modImg (fun i => { i with
  base := some { body := .base { topology := { extentW := 4, extentH := 4, endpoints := [(5, 700)]
                                               trunks := [(40, { peer := 3, port := 56 })] } } } })

/-- A port of `planned` in a state of training on a lit engine. -/
def port (n : Nat) (o : OptPort) : State :=
  (planned.modEngine (n / 4) (fun e => { e with dark := false })).modOptPort n (fun _ => o)

/-- Port 5 while it discovers. -/
def discovering (n : Nat) : State :=
  ((port n { tstate := .up, light := true, rxOk := true, peerRxOk := true }).modSlot n
    (fun r => { r with linkUp := true, disc := .discovering })).modLink n (fun l => { l with accepted := true, discSent := true })

/-- A DISCOVER of a KIND from PORT 1 of an IDENT. -/
def discoverPkt (len : BitVec 13) (kind : Byte) (ident : Nat) : Packet :=
  { ptype := 1, len := len, payload := ([kind, 1, 0, 0] ++ beBytes 4 ident ++ List.replicate 32 0).take len.toNat }

def proofPkt : Packet := { ptype := 2, len := 3309, payload := List.replicate 3309 0 }

theorem witness_portTrains :
    (∀ oe ∈ [0, 15], oe < 16 ∧ 4 ≤ planned.glb.stage ∧ planned.flt.fatal = none ∧ (planned.engine oe).fenced = false ∧
      ¬((planned.engine oe).lostA = true ∧ (planned.engine oe).lostB = true) ∧ (planned.engine oe).dark = true) ∧
    (∀ n ∈ [0, 63], ∀ st ∈ [TState.dark, .adapt, .align, .fec], (port n { tstate := st }).lit n = true ∧
      ((port n { tstate := st }).optPort n).tstate = st) ∧
    ((port 5 { tstate := .align }).optPort 5).sparing = none ∧
    (((port 5 { tstate := .align }).optPort 5).spareQ ++ [7].map (fun l => ({ lane := l } : Sparing))) = [{ lane := 7 }] := by
  decide +kernel

theorem witness_linkUpAndLinkDown :
    (let s := port 5 { tstate := .fec, rxOk := true, peerRxOk := true }
     s.lit 5 = true ∧ (s.optPort 5).tstate = .fec ∧ (s.optPort 5).rxOk = true ∧ (s.optPort 5).peerRxOk = true ∧
     s.hasBase = true ∧ (s.optPort 5).sparing = none ∧ (s.optPort 5).mode = 0 ∧ (plannedIdent s.topology 5).isSome ∧
     (plannedIdent s.topology 6).isSome = false) ∧
    (let s := port 5 { tstate := .up }
     (s.optPort 5).tstate = .up ∧ s.flt.fatal = none ∧ (s.optPort 5).peerSparing = false ∧
     ((s.modEngine 1 (fun e => { e with dark := true })).engine (5 / 4)).dark = true ∧
     ((port 5 { tstate := .up, mode := 2 }).optPort 5).mode ≠ 0) := by decide +kernel

theorem witness_receivedSlots :
    (∀ n ∈ [0, 63], n < 64 ∧ (port n { tstate := .up }).lit n = true ∧ ((port n { tstate := .up }).optPort n).tstate = .up) ∧
    ([0, 7].all (· < 8)) = true ∧ (List.replicate 5 (List.replicate 128 (0 : Byte))).length = 5 ∧
    (List.replicate 5 (List.replicate 128 (0 : Byte))).all (fun f => f.length == 128) = true := by decide +kernel

theorem witness_lanesMove :
    (let s := port 5 { tstate := .up }
     (s.engine 1).fenced = false ∧ (s.engine 1).dark = false ∧ (s.lane 1 8).rx = some 8 ∧ (s.engine 1).autoSpare = true ∧
     (s.engine 1).lostA = false ∧ 4 * 1 + 8 / 8 = 5 ∧ (s.optPort 4).request = none ∧ (s.optPort 5).spareQ = [] ∧ (s.engine 1).badLanes = []) ∧
    (let s := (port 5 { tstate := .up }).modEngine 1 (fun e => { e with badLanes := [(0, 2000), (33, 1)] })
     2 ≤ ((s.engine 1).badLanes.filter (fun b => s.bel.gt < b.2 + 234057 && b.1 ≠ 8)).length) ∧
    (let s := port 5 { tstate := .up, request := some 0 }
     (s.optPort 5).request = some 0 ∧ s.freeTxSpare 5 = none ∧
     (port 40 { tstate := .up, request := some 0 }).freeTxSpare 40 = some 32) ∧
    (let s := ((port 40 { tstate := .up, request := some 7 }).modLane 10 32 (fun x => { x with txFailed := true })).modLane 10 33
       (fun x => { x with txFailed := true })
     s.freeTxSpare 40 = none) ∧
    (let s := port 5 { tstate := .up, sparing := some { lane := 3 } }
     s.lit 5 = true ∧ (s.optPort 5).sparing = some { lane := 3 } ∧ (s.optPort 5).spareQ = []) := by decide +kernel

theorem witness_laserFeeds :
    (let s := planned
     s.flt.fatal = none ∧ (s.engine 15).lostA = false ∧ (s.engine 15).lostB = false) ∧
    (let s := planned.modEngine 15 (fun e => { e with lostA := true })
     (s.engine 15).lostA = true ∧ (s.engine 15).lostB = false) := by decide +kernel

theorem witness_portTests :
    (∀ n ∈ [0, 63], 5 ≤ (port n {}).glb.stage ∧ (port n {}).flt.fatal = none ∧ ((port n {}).optPort n).mode = 0 ∧
      ((port n {}).optPort n).tstate ≠ .up ∧ ((port n { mode := 1 }).optPort n).mode ≠ 0) := by decide +kernel

theorem witness_discovery :
    (discovering 5).discovering 5 = true ∧ (discovering 40).discovering 40 = true ∧ (discovering 5).flt.fatal = none ∧
    (∀ l ∈ [39, 40, 41], Wf.packet (discoverPkt l 2 700) = true ∨ l = 41) ∧
    (discoverPkt 40 2 700).len = 40 ∧ beAt (discoverPkt 40 2 700).payload 0 1 = 2 ∧
    plannedIdent (discovering 5).topology 5 = some (beAt (discoverPkt 40 2 700).payload 4 4) ∧
    beAt (discoverPkt 40 1 3).payload 0 1 = 1 ∧ (plannedIdent (discovering 40).topology 40).isSome ∧
    Wf.packet proofPkt = true ∧ (discovering 40).trunkPlan 40 = some { peer := 3, port := 56 } ∧
    (((discovering 40).modLink 40 (fun l => { l with gotDisc := some (56, 3, []) })).link 40).gotDisc = some (56, 3, []) ∧
    (let s := (port 5 { tstate := .adapt }).modSlot 5 (fun r => { r with disc := .discovering })
     (s.optPort 5).tstate ≠ .up ∧ (s.slotReg 5).disc = .discovering ∧ (plannedIdent s.topology 5).isSome) := by decide +kernel

theorem test_training :
    ((after (.engineModulatorsLocked 1) (planned.modOptPort 5 (fun _ => { tstate := .off }))).optPort 5).tstate = .dark ∧
    ((after (.portLightDetected 5) (port 5 { tstate := .dark })).optPort 5).tstate = .adapt ∧
    ((after (.portAdapted 5) (port 5 { tstate := .adapt })).optPort 5).tstate = .align ∧
    ((after (.portAligned 5 [2]) (port 5 { tstate := .align })).optPort 5).sparing = some { lane := 2 } ∧
    (after (.portFecLocked 5) (port 5 { tstate := .fec })).out = [.linkWord 5 true 0 0] := by decide +kernel

theorem test_portUp :
    let t := after (.portUp 5) (port 5 { tstate := .fec, rxOk := true, peerRxOk := true })
    t.isUp 5 = true ∧ (t.slotReg 5).disc = .discovering ∧ fronts t = [(5, [0x50, 0, 0, 0, 3, 0, 0, 0])] := by decide +kernel

theorem test_portDown :
    let t := after (.portDown 5 .signalLost false) (discovering 5)
    (t.optPort 5).tstate = .dark ∧ (t.slotReg 5).linkUp = false ∧ (t.slotReg 5).disc = .discovering := by decide +kernel

theorem test_slotReceive :
    (let t := after (.slotReceive 5 (.rm [1, 1, 6])) (port 5 { tstate := .up })
     (t.optPort 5).cwc = 1 ∧ (t.optPort 5).fecMax = 3 ∧ (t.lane 1 9).sym = 2) ∧
    ((after (.slotReceive 5 .uncorrectable) (port 5 { tstate := .up })).optPort 5).cwu = 1 := by decide +kernel

theorem test_laneMoveToSpare :
    let t := after (.laneMoveToSpare 40) (port 40 { tstate := .up, request := some 3 })
    (t.lane 10 32).tx = some 3 ∧ (t.lane 10 3).tx = none ∧ t.out = [.linkWord 40 false 0 0] := by decide +kernel

theorem test_feedLost :
    let s := (port 5 { tstate := .adapt }).modEngine 1 (fun e => { e with lostA := true })
    let t := after (.feedLost 1 true) s
    (t.engine 1).dark = true ∧ (t.optPort 5).tstate = .dark ∧ opened 0x0104 t = true := by decide +kernel

theorem test_discover_endpoint :
    ((after (.discover 5 (discoverPkt 40 2 700)) (discovering 5)).slotReg 5).disc = .active ∧
    ((after (.discover 5 (discoverPkt 40 2 701)) (discovering 5)).slotReg 5).disc = .quarantined ∧
    ((after (.discover 5 (discoverPkt 39 2 700)) (discovering 5)).slotReg 5).disc = .quarantined := by decide +kernel

theorem test_absentTimeout :
    let t := after (.absentTimeout 5) ((port 5 { tstate := .adapt }).modSlot 5 (fun r => { r with disc := .discovering }))
    (t.slotReg 5).disc = .absent ∧ opened 0x0108 t = true := by decide +kernel


/-- Tables 13-2 and 13-3: CTYPE 1 in bits 19:18, RX_OK in bit 9 and OP SPARE in bits 8:7 of lane 0's sixth symbol. -/
theorem test_amSlot :
    let m := amSlot 7 (fun j => if j = 3 then 32 else j) (linkWord true 1 3)
    m.length = 514 ∧ m.take 2 = [256, 7] ∧ m.getD 48 0 = 512 + 128 + 3 ∧ m.getD 8 0 = 0x3C5 ∧ m.getD 2 0 = 0x3C5 ∧ m.getD 27 0 = 0x159 ∧
    m.getD 35 0 = 32 * 8 + 3 ∧ readSlot [] m none = .am [] true 1 3 none := by decide +kernel

theorem test_readSlot_reserved : readSlot [1] (768 :: List.replicate 513 0) none = .reservedType := by decide +kernel

/-- Hypotheses on slots: symbols that are well formed, an AM slot before FEC lock; on lanes: noise; on trunks: no plan. -/
theorem witness_slotsLanesTrunks :
    Wf.rxSlot (.symbols [] (amSlot 7 id 0) none) = true ∧ Wf.rxSlot (.am [] true 0 0 none) = true ∧
    (let s := port 5 { tstate := .fec }
     s.lit 5 = true ∧ (s.optPort 5).tstate = .fec ∧ (s.optPort 5).rxOk = false) ∧
    (let s := (port 5 { tstate := .up }).modLane 1 8 (fun l => { l with recent := List.replicate 64 2000 })
     let thr (n : Nat) := s.modEngine 1 (fun e => { e with thr := n })
     (thr 6).noisy 1 8 = true ∧ (thr 7).noisy 1 8 = false) ∧
    (let s := discovering 41
     s.discovering 41 = true ∧ plannedIdent s.topology 41 = none ∧ (discoverPkt 40 1 3).len = 40) := by decide +kernel

theorem test_slotReceive_beforeLock :
    let t := after (.slotReceive 5 (.am [1] true 0 0 none)) (port 5 { tstate := .fec })
    (t.optPort 5).peerRxOk = true ∧ (t.optPort 5).cwc = 0 := by decide +kernel

theorem test_laneUnusable :
    let s := (port 5 { tstate := .up }).modLane 1 8 (fun l => { l with recent := List.replicate 64 2000 })
    let s := s.modEngine 1 (fun e => { e with thr := 6 })
    let t := after (.laneUnusable 1 8 false) s
    (t.optPort 5).sparing = some { lane := 0 } ∧ t.out = [.linkWord 5 false 1 0] ∧ (t.lane 1 8).rxFailed = true ∧
    after (.laneUnusable 1 8 false) (port 5 { tstate := .up }) = port 5 { tstate := .up } := by decide +kernel
/-! ## Faults, fences, resets and power-up (chapters 14, 15) -/

/-- `grid` with its host link up, fault capture clear and an injection, a fence or a reset to come. -/
def live : State := { grid with host := { l0 := true } }
def liveRoot : State := { root with host := { l0 := true } }

/-- `live` with an open record of 0x0107 on unit 9 since GT 2000. -/
def openRec : FaultRec := { seq := 4098, cls := 1, source := 0x0107, unit := 9, gtFirst := 2000 }
def recorded : State := live.modAttic (fun a => { a with openRecs := [openRec], faultSeq := 4099 })

/-- Croft 5 of Field 2 is captured at a reset; the device is warm with its Field running. -/
def toReset : State :=
  let s := croft5 { programmed with vx := queuedWord addWord }
  s.modImg (fun i => { i with fieldImg := some { hdr := { kind := 2, field := 2 }, body := .field { captureSet := [5] } } })

theorem witness_firstErrorCapture :
    (∀ c ∈ [1, 2, 3], 1 ≤ c ∧ c ≤ 3) ∧ live.flt.cap.valid = false ∧
    ((recordFault { source := 0x0107, unit := 9, cls := 1 } live).flt.cap.valid = true) ∧
    (0x80000000 : Word).getLsbD 31 = true ∧ live.host.l0 = true ∧ 2 ≤ live.glb.stage := by decide +kernel

theorem witness_fatalFaults :
    (∀ u ∈ [0x2F01, 0x2F02, 0x2F04, 64, 95], Wf.controlUnit u = true) ∧ State.reset.glb.stage = 0 ∧ live.glb.stage ≠ 0 ∧
    live.flt.fatal = none ∧ live.attic.openRecs = [] ∧ (2 ^ 64 - 1 < 2 ^ 64) ∧
    (after .switchingCoreControlFault liveRoot).flt.fatal ≠ none := by decide +kernel

theorem witness_recordsClose :
    recorded.attic.openRecs.find? (fun r => r.source == 0x0107 && r.unit == 9) = some openRec ∧
    live.attic.openRecs.find? (fun r => r.source == 0x0107 && r.unit == 9) = none ∧ recorded.attic.failed = false ∧
    (recorded.modAttic (fun a => { a with failed := true })).attic.failed = true ∧ live.attic.writing = none ∧
    (let s := live.modAttic (fun a => { a with writing := some {} })
     s.attic.writing = some {} ∧ s.flt.rstWaiting = none) ∧
    (live.img.lock = false ∧ live.flt.armed = none ∧ (live.modImg (fun i => { i with lock := true })).img.lock = true) := by
  decide +kernel

theorem witness_fences :
    (∀ s ∈ [(State.reset : State)], s.glb.stage < 2) ∧ 2 ≤ live.glb.stage ∧ live.flt.fatal = none ∧
    (∀ n ∈ [0, 63], (live.slotReg n).fenced = false) ∧
    (∀ k ∈ [0, 4351], (live.croft k).fenced = false ∧ (live.croft k).fused = false) ∧
    (∀ t ∈ [0, 31], (live.tract t).fenced = false) ∧ (Tab.look 0 live.fld.lanes 31).getLsbD 9 = false ∧
    (live.engine 15).fenced = false ∧ ((live.modSlot 9 (fun r => { r with fenced := true })).slotReg 9).fenced = true ∧
    ((live.modEngine 3 (fun r => { r with fenced := true })).engine 3).fenced = true ∧
    (∀ u ∈ [64, 0xFFF, 0x2100, 0x21FF, 0x2220, 0x23FF, 0x2C0A, 0x2DFF, 0x2E10, 0xFFFF], u < 0x10000 ∧
      ¬(u < 64 ∨ (0x1000 ≤ u ∧ u < 0x2100) ∨ (0x2200 ≤ u ∧ u < 0x2220) ∨ (0x2400 ≤ u ∧ u < 0x2C00) ∨
        (0x2C00 ≤ u ∧ u < 0x2E00 ∧ u % 16 < 10) ∨ (0x2E00 ≤ u ∧ u < 0x2E10))) := by decide +kernel

theorem witness_faultInput :
    live.glb.stage ≠ 0 ∧ live.flt.inStuck = false ∧ 0 < min 16 (live.flt.inBucket + (live.bel.gt - live.flt.inRefill) / 312500) ∧
    (∀ a ∈ [0, 1, 2, 3], (live.modFlt (fun x => { x with inAction := a })).flt.inAction = a) ∧
    (let s := live.modFlt (fun x => { x with inBucket := 0, inExcessGt := some 2000 })
     min 16 (s.flt.inBucket + (s.bel.gt - s.flt.inRefill) / 312500) = 0 ∧ s.bel.gt < 2000 + 312500000 ∧
     2000 + 312500000 ≤ (s.modBel (fun b => { b with gt := 312502000 })).bel.gt) ∧
    ((live.modFlt (fun x => { x with inStuck := true, inLevel := true })).flt.inStuck = true) := by decide +kernel

theorem witness_resets :
    (∀ s ∈ [after .switchingCoreControlFault liveRoot], s.flt.fatal ≠ none ∧ 2 ≤ s.glb.stage) ∧
    (live.modGlb (fun g => { g with stage := 6 })).glb.stage < 7 ∧ 7 ≤ live.glb.stage ∧ live.flt.rstWaiting = none ∧
    live.inField 2 = false ∧ live.bel.acting = false ∧ toReset.inField 2 = true ∧ toReset.resetCrofts 1 2 = [5] ∧
    toReset.resetCrofts 2 0 = [5] ∧ toReset.attic.failed = false ∧ toReset.attic.writing = none ∧
    toReset.attic.waiting = none ∧ live.resetCrofts 2 0 = [] := by decide +kernel

theorem witness_powerUp :
    Wf.power {} = true ∧ State.reset.glb.stage = 0 ∧ State.reset.flt.fatal = none ∧ Wf.power { pllFault := some 1 } = true ∧
    Wf.power { fusesVote := false } = true ∧ Wf.power { sramFault := some 0 } = true ∧
    Wf.power { failedStacks := [31], darkEngines := [0], unlockedEngines := [15], atticHeaderOk := false } = true ∧
    live.pins.pwrGood = true ∧ (live.modPins (fun p => { p with pwrGood := false })).pins.pwrGood = false ∧
    (live.modGlb (fun g => { g with stage := 6 })).glb.stage < 7 ∧ live.flt.rstWaiting = none := by decide +kernel

theorem witness_hostLinkResets :
    live.glb.stage ≠ 0 ∧ live.host.l0 = true ∧ ({ grid with host := { l0 := false } } : State).host.l0 = false ∧
    (let s := live.modFlt (fun x => { x with perstGt := some 40 })
     s.flt.perstGt = some 40 ∧ s.bel.gt < 40 + 3125000 ∧ 40 + 3125000 ≤ (s.modBel (fun b => { b with gt := 3125040 })).bel.gt) ∧
    live.glb.sampled = true ∧ State.reset.glb.sampled = false ∧ live.attic.failed = false ∧ live.flt.fatal = none ∧
    (let s := (after (.hostLinkReset .hotReset) live)
     s.host.l0 = false ∧ s.flt.hostSeq = some 0 ∧ (Tab.look none s.attic.resets 0).map (·.kind) = some 6) ∧
    ((3, 65535) : Nat × Nat) ∈ (live.modRte (fun r => { r with bad := [(3, 65535), (0, 1)] })).rte.bad := by decide +kernel

theorem test_capture :
    let s := after .switchingCoreControlFault liveRoot
    s.flt.cap.valid = true ∧ s.flt.cap.seen = 4 ∧ s.flt.cap.source = 0x0306 ∧ s.glb.stage = 8 ∧ s.out.head? = some .dark ∧
    (after .captureClear s).flt.cap.valid = false := by decide +kernel

theorem test_faultRecordClose :
    let t := after (.faultRecordClose 0x0107 9) recorded
    t.attic.openRecs = [] ∧ Tab.look none t.attic.ring 2 = some { openRec with closed := true } ∧ t.bel.gt = 312502000 := by
  decide +kernel

theorem test_faultInject :
    (after (.faultInject 1 2 0x1005) live).flt.armed = some { check := 1, width := 2, unit := 0x1005 } ∧
    (after (.faultInject 1 2 0x1005) (live.modImg (fun i => { i with lock := true }))).glb.lockRej = 1 := by decide +kernel

theorem test_fence :
    let t := after (.fence 0x1005) toReset
    (t.croft 5).fenced = true ∧ (t.croft 5).vx = [] ∧ opened 0x0702 t = true ∧
    (after (.unfence 0x1005) t).croft 5 = t.croft 5 := by decide +kernel

theorem test_fence_port :
    let t := after (.fence 9) liveRoot
    (t.slotReg 9).fenced = true ∧ opened 0x0302 t = true ∧ ((after (.unfence 9) t).slotReg 9).fenced = false := by decide +kernel

theorem test_faultIn :
    (let t := after .faultIn live
     t.flt.inBucket = 15 ∧ t.flt.inCnt = 1 ∧ opened 0x0802 t = true) ∧
    (let t := after .faultIn (live.modFlt (fun x => { x with inBucket := 0 }))
     t.flt.inExcess = 1 ∧ t.flt.inCnt = 0 ∧ opened 0x0804 t = true) := by decide +kernel

theorem test_warmReset_refused :
    (after (.warmReset false) (live.modGlb (fun g => { g with stage := 6 }))).flt.rstCode = 1 ∧
    (after (.fieldReset 9 false) live).flt.rstCode = 2 := by decide +kernel

theorem test_powerUp :
    let t := after (.powerUp { straps := { padX := 2 } }) State.reset
    t.glb.stage = 5 ∧ t.glb.straps.padX = 2 ∧ t.glb.grade = 0x41 ∧ t.attic.boots = 1 ∧ t.bel.gt = 0 := by decide +kernel

theorem test_hostLinkReset :
    let t := after (.hostLinkReset .flr) live
    t.host.l0 = true ∧ opened 0x0305 t = true ∧ (Tab.look none t.attic.resets 0).map (·.gtDone) = some 2040 := by decide +kernel

theorem test_strapChange :
    let t := after (.strapChange 6) live
    t.glb.strapChg = true ∧ t.flt.cap.addr = 6 ∧ t.glb.straps = live.glb.straps := by decide +kernel

/-! ## Registers, windows, mailbox, security (chapters 13, 15, 16) -/

/-- A device with its host link up in a STAGE. -/
def staged (n : Nat) : State := { live with glb := { live.glb with stage := n } }

/-- The image buffer with a key-operation record: REVOKE of slot 1 under slot 0, or ENROLL of slot 1. -/
def recordBuf (op : Byte) : Memory := [(0, 0x45), (1, 0x4E), (2, 0x52), (3, 0x4C), (5, 1), (6, op), (7, 1)]
def keyed (op : Byte) (enrolled : BitVec 4) : State := { live with
  img := { live.img with buf := recordBuf op, len := 5344 }
  fuses := { live.fuses with enrolled := enrolled, keys := [[1], [2], [], []] } }

/-- A request for one word of GLB_SCRATCH, or to write it, from the device 5 of this Range and plane; and an answer. -/
def mgmtPkt (ptype : Byte) (body : Bytes) : Packet :=
  { ptype := ptype, src := 0xF0005, tsw0 := 3, len := BitVec.ofNat 13 body.length, payload := body }
def rdScratch : Packet := mgmtPkt 3 [0, 0, 0, 0x20, 0, 1, 0, 0]
def wrScratch : Packet := mgmtPkt 4 [0, 0, 0, 0x20, 0, 1, 0, 0, 0, 0, 0, 9]
def asking : State := live.modGlb (fun g => { g with mgmtState := 1, mgmtTag := 3, mgmtCtl := 3, scratch := 7 })

theorem witness_unreadyBlocks :
    (∀ n ∈ [1, 2, 3, 4], (staged n).glb.stage ≠ 0 ∧ (staged n).flt.fatal = none ∧ (staged n).host.l0 = true) ∧
    (staged 1).glb.stage < 2 ∧ (staged 4).glb.stage < 5 ∧ (0x3F01004 : Nat) ≤ 0x3F01007 ∧ 0x2000000 % 4 = 0 ∧
    (staged 3).img.state = .idle ∧ (4 : Word).toNat % 8 = 4 ∧ (7 : Word).toNat % 4 = 3 := by decide +kernel

theorem witness_registers :
    live.host.l0 = true ∧ live.glb.stage ≠ 0 ∧ State.reset.glb.stage = 0 ∧ live.flt.fatal = none ∧ live.bel.gt < 2 ^ 64 ∧
    (∀ off ∈ [1, 0x1B00000, 0x1FFFFFC, 0x2600000, 0x3EFFFFC, 0x3F00400, 0x3F00FFC, 0x3F01008, 0x3FFFFFC], off < 0x4000000) ∧
    (live.modImg (fun i => { i with lock := true })).img.lock = true ∧ live.img.lock = false ∧
    live.glb.mgmtCtl ≠ (3 : Word).setWidth 2 ∧ live.flt.reportCe ≠ (1 : Word).getLsbD 0 ∧
    Tab.look none live.glb.hiLatch 0x200000 = none ∧
    Tab.look none (live.modGlb (fun g => { g with hiLatch := [(0x200000, some 5)] })).glb.hiLatch 0x200000 = some 5 ∧
    (∀ b < 4, (live.bellPort b).stale < 2 ^ 8 ∧ (live.bellPort b).marks < 2 ^ 8 ∧ (live.bellPort b).frames < 2 ^ 16) ∧
    live.flt.rstWaiting = none ∧ ((live.modCroft 4351 (fun x => { x with fused := true })).croft 4351).fused = true := by
  decide +kernel

theorem witness_windows :
    live.host.l0 = true ∧ live.glb.stage ≠ 0 ∧ live.img.atticWin = false ∧ live.img.state = .idle ∧
    (let t := live.glb.winTract
     (live.tract t).fenced = false ∧ live.cel.bad = [] ∧ live.cel.soft = [] ∧ live.flt.rstWaiting = none ∧
     live.crf.running = false ∧ live.flt.armed = none ∧ wordsOf t 0x40 4 = [2]) ∧
    (let s := live.modCel (fun c => { c with ue := [2] })
     ∃ w ∈ wordsOf s.glb.winTract 0x40 4, w ∈ s.cel.bad) ∧
    (live.modTract 0 (fun r => { r with fenced := true })).glb.winTract = 0 ∧
    ((live.modTract 0 (fun r => { r with fenced := true })).tract 0).fenced = true ∧
    0x44A0 * 65536 + 2 ≤ firstUsable * 65536 ∧ live.bar4Takes 0 2 = false ∧ live.bar4Takes (0x44A0 * 65536) 2 = true := by
  decide +kernel

theorem witness_mailbox :
    live.host.l0 = true ∧ 2 ≤ live.glb.stage ∧ asking.glb.mgmtState = 1 ∧ live.glb.mgmtState ≠ 1 ∧ live.devIndex < 16384 ∧
    (let t := ({ live with glb := { live.glb with mgmtTarget := 0x3FFF } } : State).glb.mgmtTarget.toNat
     ¬(t / 4096 = live.devIndex / 4096 ∧ (t / 512) % 8 = (live.devIndex / 512) % 8)) ∧
    (let s := live.modGlb (fun g => { g with mgmtTarget := BitVec.ofNat 14 live.devIndex })
     s.glb.mgmtTarget.toNat / 4096 = s.devIndex / 4096 ∧ (s.glb.mgmtTarget.toNat / 512) % 8 = (s.devIndex / 512) % 8) ∧
    Wf.packet rdScratch = true ∧ Wf.packet wrScratch = true ∧ (parseMgmt rdScratch).formed false rdScratch = true ∧
    (parseMgmt wrScratch).formed true wrScratch = true ∧ (parseMgmt wrScratch).formed false wrScratch = false ∧
    (parseMgmt (mgmtPkt 3 [3, 0xFF, 0xFF, 0xFC, 0, 2, 0, 0])).formed false (mgmtPkt 3 [3, 0xFF, 0xFF, 0xFC, 0, 2, 0, 0]) = true ∧
    asking.glb.mgmtCtl.getLsbD 0 = true ∧ asking.glb.mgmtCtl.getLsbD 1 = true ∧ live.glb.mgmtCtl.getLsbD 0 = false ∧
    Wf.packet (mgmtPkt 5 [1, 0, 0, 0, 0, 0, 0, 0x20]) = true ∧ (3 : Word).toNat % 65536 = asking.glb.mgmtTag.toNat ∧
    (mgmtReads 0x20 1 (takeInbox rdScratch asking)).2.flt.fatal = none ∧
    (mgmtWrites 0x20 [9] (takeInbox wrScratch asking)).flt.fatal = none := by decide +kernel

theorem witness_reports :
    2 ≤ (staged 2).glb.stage ∧ (staged 2).glb.stage < 3 ∧ (staged 3).glb.stage < 4 ∧ 4 ≤ live.glb.stage ∧
    checkingBase.img.state = .busy ∧ live.img.state = .idle ∧ live.flt.fatal = none := by decide +kernel

set_option maxRecDepth 20000 in
theorem witness_keyRecords :
    (let s := keyed 1 1
     s.keyRecord.formed s.img.len.toNat = true ∧ s.keyRecord.op = 1 ∧ s.keyRecord.target = 1 ∧ s.keyRecord.auth = 0 ∧
     s.fuses.enrolled.getLsbD 1 = false ∧ s.fuses.revoked = 0 ∧ s.fuses.keys.length = 4 ∧
     s.keyRecord.device.all (· == 0) = true) ∧
    (let s := keyed 2 3
     s.keyRecord.formed s.img.len.toNat = true ∧ s.keyRecord.op = 2 ∧ s.keyUsable 1 = true ∧ s.keyUsable 0 = true) ∧
    (keyed 2 1).keyUsable 1 = false ∧ (keyed 2 0).keyUsable 0 = false ∧ (keyed 1 3).fuses.enrolled.getLsbD 1 = true ∧
    live.keyRecord.formed live.img.len.toNat = false := by decide +kernel

/-- The last usable slot: a REVOKE of it under itself. -/
theorem witness_lastSlot :
    let s := { keyed 2 1 with img := { (keyed 2 1).img with buf := (recordBuf 2).filter (fun e => e.1 ≠ 7) } }
    s.keyRecord.target = 0 ∧ s.keyUsable 0 = true ∧ ∀ i < 4, i ≠ 0 → s.keyUsable i = false := by decide +kernel

theorem test_register_scratch :
    (after (.registerWrite 0x20 0xDEAD) live).glb.scratch = 0xDEAD ∧
    (after (.registerRead 0x20) (after (.registerWrite 0x20 0xDEAD) live)).out = [.readDone 0x20 0xDEAD] ∧
    (after (.registerRead 0x22) live).out = [.unsupportedRequest] := by decide +kernel

theorem test_register_gtLatch :
    let s := live.modBel (fun b => { b with gt := 7 * 2 ^ 32 + 5 })
    let t := after (.registerRead 0x200000) s
    (after (.registerRead 0x200004) (t.modBel (fun b => { b with gt := 8 * 2 ^ 32 }))).out =
      [.readDone 0x200004 7, .readDone 0x200000 5] := by decide +kernel

theorem test_bar2Write :
    (after (.bar2Write 5 [1, 0, 2]) live).img.buf = [(5, 1), (7, 2)] ∧
    (after (.bar2Write 5 [1]) checkingBase).img.buf = checkingBase.img.buf := by decide +kernel

theorem test_bar4 :
    (let t := after (.bar4Write (0x44A0 * 65536) [1, 2]) live
     (after (.bar4Read (0x44A0 * 65536) 3) t).out = [.readBytes [1, 2, 0]]) ∧
    (after (.bar4Write 0 [1, 2]) live).glb.wrRej = 1 := by decide +kernel

theorem test_mailbox :
    (after .mailboxTimeout asking).glb.mgmtResult = 4 ∧
    (after .mailboxRead (live.modGlb (fun g => { g with mgmtTarget := 0x3FFF }))).glb.mgmtResult = 3 ∧
    (let t := after (.mgmtRsp (mgmtPkt 5 [0, 0, 0, 0, 0, 0, 0, 0x20, 0, 0, 1, 2])) asking
     t.glb.mgmtState = 2 ∧ Tab.look 0 t.glb.mgmtData 0 = 0x102) := by decide +kernel

theorem test_mgmt :
    (mgmtReads 0x20 1 asking).1 = [7] ∧ (mgmtWrites 0x20 [9] asking).glb.scratch = 9 ∧
    asking.mgmtResult true { tag := 3, dev := 5, offset := 0x2400000, count := 1, words := [0] } = 1 ∧
    asking.mgmtResult false { tag := 3, dev := 5, offset := 0x3FFFFFC, count := 2, words := [] } = 2 := by decide +kernel

theorem test_attest_early : (after .attest (staged 3)).sec.code = 8 := by decide +kernel

theorem test_keyOp :
    (after .revoke checkingBase).sec.code = 1 ∧ (after .enroll live).sec.code = 2 ∧
    (after .enroll (staged 2)).sec.code = 8 := by decide +kernel


/-- FIPS 202: the first bytes of SHAKE256 of the empty string. -/
theorem test_shake256 : shake256 4 [] = [0x46, 0xB9, 0xDD, 0x2B] := by decide +kernel

/-- A slot whose check fails serves neither as a seed nor as a key (R387); marked seeds are never drawn again. -/
theorem test_badSlots :
    (let s := (keyed 2 3).modGlb (fun g => { g with keyBad := 2 })
     s.keyUsable 0 = true ∧ s.keyUsable 1 = false) ∧
    (let u : Fuses := { seedA := [1], markA := true }
     (seedFuses [9] 1 u).1.seedB = [9] ∧ (seedFuses [9] 0 u).2 = false ∧ (seedFuses [9] 1 u).1.seedA = [1]) := by decide +kernel

/-- A damaged page of the pool makes every byte of it unreadable. -/
theorem test_bar4_damaged :
    (after (.bar4Read 0x80000010 1) (live.modPage 0 0x8000 (fun d => { d with damaged := true }))).out.head? =
      some .completerAbort := by decide +kernel
/-! ## Pins (chapter 17) and the step -/

theorem witness_smbus :
    (staged 1).glb.stage ≠ 0 ∧ State.reset.glb.stage = 0 ∧ (∀ i ∈ [0, 8, 41, 56], i ≤ 8 ∨ (41 ≤ i ∧ i ≤ 56)) := by
  decide +kernel

theorem witness_testPort : State.reset.glb.stage = 0 ∧ (staged 1).glb.stage ≠ 0 := by decide +kernel

/-- Sensor 5 one degree above its onset, and all sensors cold; LEVEL 3 with 15 quiet marks. -/
def hot : List (Nat × BitVec 16) := [(5, BitVec.ofInt 16 (live.onset 5 + 8)), (56, 0)]

theorem witness_throttle :
    hot.all (fun r => Wf.sensor r.1) = true ∧ live.glb.stage ≠ 0 ∧ 2 ≤ live.glb.stage := by decide +kernel

theorem witness_powerFaults :
    (∀ i ∈ [0, 8, 41, 56], i < 57 ∧ ¬(9 ≤ i ∧ i ≤ 40) ∧ 108 * 8 ≤ (864 : BitVec 16).toInt) ∧
    (∀ i ∈ [9, 40], 9 ≤ i ∧ i ≤ 40 ∧ 98 * 8 ≤ (784 : BitVec 16).toInt) ∧ live.pins.pwrGood = true ∧
    live.glb.stage ≠ 0 ∧ live.flt.fatal = none := by decide +kernel

theorem witness_vid :
    (let s := live.modPins (fun p => { p with vid := 28, vidGt := some 2000 })
     s.glb.stage ≠ 0 ∧ s.flt.fatal = none ∧ s.pins.vid ≠ 31 ∧ 27 + 1 = s.pins.vid ∧ 26 + 1 ≠ s.pins.vid ∧ 26 ≠ s.pins.vid + 1) ∧
    (let s := live.modPins (fun p => { p with vid := 0 })
     1 = s.pins.vid + 1 ∧ s.pins.vidGt = none) := by decide +kernel

theorem test_smbRailMv :
    ∃ v, (after (.smbRailMv 2) live).out = [.smbWord v] ∧ Tab.look 0 (after (.smbRailMv 2) live).pins.rails 2 = v := ⟨_, rfl, rfl⟩

theorem test_smbus :
    (after .smbStatus live).out = [.smbWord 0x7000] ∧ (after .smbStatus State.reset).out = [.smbNack] ∧
    (after .smbVid (live.modPins (fun p => { p with vid := 9 }))).out = [.smbWord 9] := by decide +kernel

theorem test_jtag :
    (after .jtagIdcode live).out = [.jtag 1 (BitVec.ofNat 32 (live.fuses.dieRev % 16 * 2 ^ 28 + 0x096056B))] ∧
    (after .jtagClamp live).out = [.jtag 0 0] ∧ (after .jtagClamp State.reset).out = [.jtag 5 0] := by decide +kernel

theorem test_throttle :
    (let t := after (.throttleEval hot) liveRoot
     t.thm.level = 3 ∧ opened 0x0805 t = true ∧ t.bel.gt = 2048) ∧
    (after (.throttleEval []) (liveRoot.modThm (fun h => { h with level := 3, quiet := 15 }))).thm.level = 2 := by decide +kernel

theorem test_thermalTrip :
    let t := after (.thermalTrip 9 784) liveRoot
    t.flt.fatal = some 0x0806 ∧ t.thm.trip = true ∧ (after (.thermalTrip 9 783) liveRoot).flt.fatal = none := by decide +kernel

theorem test_vidStep :
    let t := after (.vidStep 27) (live.modPins (fun p => { p with vid := 28, vidGt := some 2000 }))
    t.pins.vid = 27 ∧ t.bel.gt = 3127000 := by decide +kernel

theorem witness_steps :
    State.reset.pending = [] ∧ live.glb.stage ≠ 0 ∧ Instr.wf (.ackTimer 64) = false ∧ Instr.wf (.ackTimer 63) = true := by
  decide +kernel

theorem witness_invariants :
    (let s := after .switchingCoreControlFault liveRoot
     s.flt.fatal ≠ none ∧ s.memWf = true) ∧ (exec (.ackTimer 5) linked = .next (after (.ackTimer 5) linked)) ∧
    (keyed 1 3).fuses.enrolled.getLsbD 1 = true ∧ live.fuses.markB = false ∧
    ({ live.fuses with markA := true, markB := true } : Fuses).markA = true := by
  refine ⟨by decide +kernel, rfl, by decide +kernel, by decide +kernel, rfl⟩

theorem test_step :
    (match step { live with pending := [.imgLock, .smbVid] } with
     | .next t => t.img.lock && t.pending == [.smbVid] | _ => false) = true ∧
    (match step live with | .next t => t.bel.gt == 2041 | _ => false) = true := by decide +kernel

/-- With nothing to do a port that is UP sends a DATA slot of five IDLE flits, an AM slot after the nineteenth, and an RM slot
when one is due (R321). -/
theorem test_idleSlot :
    let s := linked.modLink 5 (fun l => { l with slotFlits := [] })
    let t := slotTime (advance 1 s)
    s.lit 5 = true ∧ (s.optPort 5).tstate = .up ∧ (t.link 5).slotFlits = [] ∧ (t.link 5).sinceAm = 1 ∧
    (t.link 5).unacked = (s.link 5).unacked ∧
    ((slotTime (s.modLink 5 (fun l => { l with sinceAm := 18 }))).link 5).amCount = 1 ∧
    (let u := slotTime (s.modLink 5 (fun l => { l with rmOwed := 8490 }))
     (u.link 5).rmOwed = 2 ∧ (u.link 5).sinceAm = 2) := by decide +kernel

/-! ## Ill-formed commands: each check turns one away -/

/-- Every command that the list names is turned away. -/
def turnedAway (cs : List Instr) : Bool := cs.all (fun c => !c.wf && (match exec c State.reset with | .fault .noSuchUnit => true | _ => false))

theorem wf_links : turnedAway [.ackTimer 64, .portAligned 0 [8], .slotReceive 0 (.rm [8]), .slotReceive 0 (.data [] []),
    .slotReceive 0 (.am [] true 4 0 none), .laneUnusable 16 0 false, .laneUnusable 0 34 false, .feedLost 16 true,
    .portTestMode 0 4, .injectBurst 0 32, .packetStall 0 8, .egressPacketStart 128 0 0, .egressPacketStart 0 8 0,
    .egressPacketStart 0 0 130, .packetEscape 130 0 0, .slotReceive 0 (.rm (List.replicate 16 0)), .slotReceive 0 (.symbols [] [0] none), .orderFenceLimit 128 0, .dlvAckFlush 16384, .shaperApply 64 0] = true := by
  decide +kernel

theorem wf_bell : turnedAway [.bellPortRetrain 4, .mark 0 { hop := 65536 } .good 0, .bellPortAligned 0 16, .bellPortTest 0 4, .probe 0 256 .good 0,
    .probe 0 0 .good (2 ^ 32), .echo 0 0 0 .good (2 ^ 70), .arrive 0 { field := 64 } .good, .arrive 0 { seq := 1024 } .good,
    .arrive 0 { count := 65536 } .good, .arrive 0 { maxGt := 2 ^ 64 } .good, .releaseFrame 0 { status := 256 } .good,
    .faultFrame 0 { origin := 65536 } .good, .faultFrame 0 { source := 65536 } .good, .barrierRelease 64,
    .fieldLaunchRequest 64] = true := by decide +kernel

theorem wf_stacks : turnedAway [.alloc 32 0 false [0], .alloc 0 0xFFFFFFFF false [0], .alloc 0 0 false [], .alloc 0 0 false [256],
    .free 0 0x100000 0, .addOwner 0 0x10000 0, .ue 0 0x1000000000, .hbmChannelLost 0 (some 64), .repairQueue 0 64 0,
    .mirrorPromoteRequest 16384, .batchHung 0 [4352], .assemblyPacket 128 {}] = true := by decide +kernel

theorem wf_rest : turnedAway [.wordIssue 4096, .penOpen { len := 1 }, .faultRecordClose 0x10000 0, .fence 0x10000,
    .faultInject 4 0 0, .faultInject 0 16 0, .crossingDieControlStateUe 0 0, .crossingDieControlStateUe 64 (2 ^ 64),
    .tableEntryRefresh 4 0, .tableEntryRefresh 0 0x10000, .smbRailMv 7, .bar2Write 0xFFFFFFF [0, 0], .bar4Read (2 ^ 36) 1,
    .bar4Write (2 ^ 36) [0], .registerWrite 0x4000000 0, .registerRead 0x4000000, .vidStep 29, .throttleEval [(57, 0)],
    .thermalTrip 57 0, .railOutOfRange 7 0, .powerUp { straps := { padX := 16 } }, .powerUp { failedStacks := [32] },
    .fieldReset 64 false] = true := by decide +kernel


/-- The spec's example of R38: PAD_X 5, PAD_Y 2, SLOT 7 is device 0x0655. -/
theorem witness_position :
    let p : Straps := { padX := 5, padY := 2, slot := 7 }
    Wf.power { straps := p } = true ∧ Wf.straps p = true ∧ State.reset.glb.stage = 0 ∧ State.reset.flt.fatal = none ∧
    strapIndex p = 0x655 := by decide +kernel

end Sys2Proof.Tests
end

section
/-! SUPPORT. A chunk's outputs (R154, R161, R192): what the lookup of a Pen reads after an update, what a Fold abort
leaves of FLD_RETRY, and what FOLD_CHUNK_DONE does with the output that waits. -/

namespace Sys2Proof.Machine

/-! ## Pens after an update -/

@[simp] theorem PenInst.key_setOut (i : PenInst) (c part : Nat) (o : ChunkOut) : (i.setOut c part o).key = i.key := rfl
@[simp] theorem PenInst.ins_setOut (i : PenInst) (c part : Nat) (o : ChunkOut) : (i.setOut c part o).ins = i.ins := rfl

@[simp] theorem PenInst.outp_setOut_self (i : PenInst) (c part : Nat) (o : ChunkOut) :
    (i.setOut c part o).outp c part = o := by
  simp [PenInst.outp, PenInst.setOut, Tab.look_add]

theorem PenInst.look_outs_setOut_of_ne (i : PenInst) (c part : Nat) (o : ChunkOut) {x : Nat} (h : x ≠ outKey c part) :
    Tab.look {} (i.setOut c part o).outs x = Tab.look {} i.outs x := by
  simp [PenInst.setOut, Tab.look_add, h]

theorem State.pen_congr {s t : State} (h : t.fld = s.fld) (k : Nat × Nat × Nat) : t.pen k = s.pen k := by
  simp [State.pen, h]

theorem State.key_of_pen {s : State} {k : Nat × Nat × Nat} {i : PenInst} (h : s.pen k = some i) : i.key = k := by
  simpa using List.find?_some h

/-- An update of a Pen that keeps its key is what the lookup reads. -/
theorem State.pen_modPen_self {s : State} {k : Nat × Nat × Nat} {i : PenInst} (f : PenInst → PenInst)
    (h : s.pen k = some i) (hf : (f i).key = k) : (s.modPen k f).pen k = some (f i) := by
  simp only [State.pen, State.modPen, State.modFld_fld] at h ⊢
  generalize s.fld.insts = l at h ⊢
  induction l with
  | nil => simp at h
  | cons x r ih =>
    by_cases hx : x.key = k
    · obtain rfl : x = i := by simpa [hx] using h
      simp [hx, hf]
    · simpa [hx] using ih (by simpa [hx] using h)

@[simp] theorem keepBias_pen (i : PenInst) (c : Nat) (s : State) (k : Nat × Nat × Nat) :
    (keepBias i c s).pen k = s.pen k := rfl

theorem sendOut_fld (i : PenInst) (c part : Nat) (o : ChunkOut) (good : Bool) (data : Bytes) (s : State) :
    (sendOut i c part o good data s).fld = s.fld :=
  sendOut_changes (parts := [.swc]) (.refl _ s) (List.Subset.refl _) .fld (by decide)

/-! ## FLD_RETRY through records and aborts -/

theorem recordFault_fld (e : FaultEvent) (s : State) : (recordFault e s).fld = s.fld :=
  recordFault_changes (parts := [.glb, .flt, .fatal, .attic, .bel, .bln, .host, .out]) (.refl _ s) (List.Subset.refl _)
    .fld (by decide)

theorem logPenAbort_fld (tag status : Nat) (s : State) : (logPenAbort tag status s).fld = s.fld :=
  logPenAbort_changes (parts := [.glb, .flt, .fatal, .attic, .bel, .bln, .host, .out]) (.refl _ s) (List.Subset.refl _)
    .fld (by decide)

theorem sendMcast_fld (ptype tag stepLo node chunk pkt part slot : Nat) (body : Bytes) (s : State) :
    (sendMcast ptype tag stepLo node chunk pkt part slot body s).fld = s.fld :=
  sendMcast_changes (parts := [.swc]) (.refl _ s) (List.Subset.refl _) .fld (by decide)

theorem sendAbortRecord_fld (tag stepLo node status : Nat) (arrival : Option Bool) (tail : Bytes) (s : State) :
    (sendAbortRecord tag stepLo node status arrival tail s).fld = s.fld :=
  sendAbortRecord_changes (parts := [.swc]) (.refl _ s) (List.Subset.refl _) .fld (by decide)

@[simp] theorem State.modPen_retry (k : Nat × Nat × Nat) (f : PenInst → PenInst) (s : State) :
    (s.modPen k f).fld.retry = s.fld.retry := rfl
@[simp] theorem State.dropPen_retry (k : Nat × Nat × Nat) (s : State) : (s.dropPen k).fld.retry = s.fld.retry := rfl

/-- A chain of operations that each keep FLD_RETRY keeps it. -/
theorem foldl_retry {α : Type} {f : State → α → State} (hf : ∀ t x, (f t x).fld.retry = t.fld.retry) (l : List α)
    (s : State) : (l.foldl f s).fld.retry = s.fld.retry :=
  List.foldlRecOn (motive := fun t => t.fld.retry = s.fld.retry) l f rfl fun t ht x _ => (hf t x).trans ht

@[simp] theorem issueAbort_retry (tag stepLo node status dev origin : Nat) (ranks : List Nat) (s : State) :
    (issueAbort tag stepLo node status dev origin ranks s).fld.retry = s.fld.retry := by
  simp only [issueAbort, State.dropPen_retry, State.modFld_fld]
  rw [foldl_retry fun t x => by rw [sendMcast_fld], sendMcast_fld]

@[simp] theorem reportAbort_retry (tag stepLo : Nat) (n : PenNode) (arrival : Bool) (status : Nat) (ranks : List Nat)
    (s : State) : (reportAbort tag stepLo n arrival status ranks s).fld.retry = s.fld.retry := by
  unfold reportAbort
  dsimp only
  split
  · rw [issueAbort_retry, logPenAbort_fld]
  · rw [foldl_retry fun t x => by rw [sendAbortRecord_fld], logPenAbort_fld]

@[simp] theorem openAbort_retry (i : PenInst) (status : Nat) (ranks : List Nat) (s : State) :
    (openAbort i status ranks s).fld.retry = s.fld.retry := by
  unfold openAbort
  split
  · rfl
  · rw [reportAbort_retry, State.modPen_retry]

@[simp] theorem fenceLane_retry (sl l : Nat) (s : State) : (fenceLane sl l s).fld.retry = s.fld.retry := by
  refine foldl_retry (fun t x => ?_) _ _
  split
  · exact openAbort_retry ..
  · rfl

@[simp] theorem laneFailed_retry (sl l : Nat) (inj : Bool) (s : State) :
    (laneFailed sl l inj s).fld.retry = s.fld.retry := by
  unfold laneFailed
  dsimp only
  split
  · rfl
  · rw [fenceLane_retry, recordFault_fld, State.modFld_fld]

/-! ## The residue check with no injection armed (R192) -/

theorem State.armedFor_of_unarmed {s : State} (h : s.flt.armed = none) (check unit : Nat) :
    s.armedFor check unit = false := by
  simp [State.armedFor, h]

theorem State.find_armed_of_unarmed {s : State} (h : s.flt.armed = none) (check : Nat) (unit : Nat → Nat) (lanes : List Nat) :
    lanes.find? (fun l => s.armedFor check (unit l)) = none := by
  simp [List.find?_eq_none, State.armedFor_of_unarmed h]

theorem checkResidue_of_agree {s : State} (h : s.flt.armed = none) (sl : Nat) (fp64 : Bool) :
    checkResidue sl fp64 true s = (none, s) := by
  simp [checkResidue, State.find_armed_of_unarmed h]

/-- Residues that disagree of themselves fail a lane at work, chosen by a free value. -/
theorem checkResidue_of_disagree {s : State} (h : s.flt.armed = none) (sl : Nat) (fp64 : Bool) :
    ∃ l, checkResidue sl fp64 false s = (some (l, false), s.draw.2) := by
  simp [checkResidue, State.find_armed_of_unarmed h]

/-! ## FOLD_CHUNK_DONE, by what the check of the waiting output finds -/

/-- The output of a chunk that its check reads: computed now, or as it was computed before. -/
def State.readyOut (s : State) (i : PenInst) (c part : Nat) : ChunkOut :=
  if (i.outp c part).computed then i.outp c part else computeOut i c (s.biasOf i c) (i.outp c part)

/-- An output whose check passed: GOOD, and sent where the parent's first ACK allows it. -/
def PenInst.goodOut (i : PenInst) (c : Nat) (o : ChunkOut) : ChunkOut := { o with good := true, sent := i.mayReport c }

/-- The state after an output's check passed, before its Pen settles. -/
def outputPassed (k : Nat × Nat × Nat) (i : PenInst) (c part : Nat) (o : ChunkOut) (s : State) : State :=
  let g := i.goodOut c o
  let t := (if i.mayReport c then sendOut i c part g true g.data s else s).modPen k (fun _ => i.setOut c part g)
  if (i.setOut c part g).done c then keepBias (i.setOut c part g) c t else t

/-- The state after an output's check failed of itself, before the retry is counted: the copy goes out with a BAD verdict
and free bits, and the next attempt is due. -/
def outputFailed (k : Nat × Nat × Nat) (i : PenInst) (c part : Nat) (o : ChunkOut) (s : State) : State :=
  let drawn := s.drawBytes o.data.length
  (if i.mayReport c then sendOut i c part o false drawn.1 drawn.2 else drawn.2).modPen k
    (PenInst.setOut c part { o with attempt := o.attempt + 1 })

section
variable {tag step node c part : Nat} {i : PenInst} {s : State}

theorem foldChunkDone_of_busy (ok : Bool) (hi : s.pen (tag, step, node) = some i) (ho : i.state = .opened)
    (hp : (List.range 4).find? (fun p => i.hasOut c p && !(i.outp c p).good) = some part)
    (hb : s.sliceBusy i c (i.outp c part) = true) : foldChunkDone tag step node c ok s = s := by
  simp [foldChunkDone, hi, ho, hp, hb]

theorem foldChunkDone_of_checked (hi : s.pen (tag, step, node) = some i) (ho : i.state = .opened)
    (hp : (List.range 4).find? (fun p => i.hasOut c p && !(i.outp c p).good) = some part)
    (hb : s.sliceBusy i c (i.outp c part) = false) (ha : s.flt.armed = none) (hc : (s.readyOut i c part).checked = true) :
    foldChunkDone tag step node c true s =
      settlePen (tag, step, node) (outputPassed (tag, step, node) i c part (s.readyOut i c part) s) := by
  unfold State.readyOut at hc ⊢
  simp [foldChunkDone, hi, ho, hp, hb, hc, checkResidue_of_agree ha, outputPassed, PenInst.goodOut]

/-- A check that fails before ATTEMPT 2 counts the retry, records it (0x0401) and charges a lane with it. -/
theorem foldChunkDone_of_unchecked {ok : Bool} (hi : s.pen (tag, step, node) = some i) (ho : i.state = .opened)
    (hp : (List.range 4).find? (fun p => i.hasOut c p && !(i.outp c p).good) = some part)
    (hb : s.sliceBusy i c (i.outp c part) = false) (ha : s.flt.armed = none)
    (hc : (ok && (s.readyOut i c part).checked) = false) (ht : (s.readyOut i c part).attempt < 2) :
    ∃ l, foldChunkDone tag step node c ok s = laneFailed (s.chunkSlot i c - 64) l false
      (recordFault { source := 0x0401, unit := unitLane (s.chunkSlot i c - 64) l, cls := 1, access := 4
                     addr := tag * 2 ^ 32 + c, info := tag }
        ((outputFailed (tag, step, node) i c part (s.readyOut i c part) s.draw.2).modFld
          (fun f => { f with retry := sat32 f.retry }))) := by
  obtain ⟨l, hl⟩ := checkResidue_of_disagree ha (s.chunkSlot i c - 64) i.isFp64
  unfold State.readyOut at hc ht ⊢
  refine ⟨l, ?_⟩
  simp only [foldChunkDone, hi, ho, hp, hb, hc, hl, Nat.not_le.2 ht]
  rfl

end

/-! ## What the two outcomes leave -/

theorem outputPassed_pen {k : Nat × Nat × Nat} {i : PenInst} {s : State} (c part : Nat) (o : ChunkOut)
    (hi : s.pen k = some i) : (outputPassed k i c part o s).pen k = some (i.setOut c part (i.goodOut c o)) := by
  have hsent : (if i.mayReport c then sendOut i c part (i.goodOut c o) true (i.goodOut c o).data s else s).pen k = some i := by
    split
    · rw [State.pen_congr (sendOut_fld ..), hi]
    · exact hi
  have hput := State.pen_modPen_self (fun _ => i.setOut c part (i.goodOut c o)) hsent
    ((i.key_setOut ..).trans (State.key_of_pen hi))
  unfold outputPassed
  dsimp only
  split
  · rw [keepBias_pen, hput]
  · exact hput

theorem outputPassed_changes (k : Nat × Nat × Nat) (i : PenInst) (c part : Nat) (o : ChunkOut) (s : State) :
    ChangesOnly [.fld, .swc] s (outputPassed k i c part o s) := by
  have hput : ChangesOnly [.fld, .swc] s ((if i.mayReport c then sendOut i c part (i.goodOut c o) true
      (i.goodOut c o).data s else s).modPen k (fun _ => i.setOut c part (i.goodOut c o))) :=
    State.modPen_changes (.ite_any (sendOut_changes (.refl _ s) (by decide)) (.refl _ s)) (by decide)
  exact .ite_any (keepBias_changes hput (by decide)) hput

theorem outputFailed_retry (k : Nat × Nat × Nat) (i : PenInst) (c part : Nat) (o : ChunkOut) (s : State) :
    (outputFailed k i c part o s).fld.retry = s.fld.retry := by
  simp only [outputFailed, State.modPen_retry]
  split
  · rw [sendOut_fld]; rfl
  · rfl

theorem exec_foldChunkDone {s : State} (h : s.flt.fatal = none) (tag step node c : Nat) (ok : Bool) :
    exec (.foldChunkDone tag step node c ok) s = .next (settleCore (foldChunkDone tag step node c ok s)) := by
  have hf : s.isFatal = false := by simp [State.isFatal, h]
  simp [exec, execFoldChunkDone, hf]

end Sys2Proof.Machine

open Sys2Proof Sys2Proof.Machine

/-- Settles O18, by the three ways FOLD_CHUNK_DONE goes on with the lowest output that waits: it stays behind a
busy slice, or its check passes, or the check fails and a lane is charged. -/
theorem chunksAreComputedAndSent : Obligations.ChunksAreComputedAndSent := by
  unfold Obligations.ChunksAreComputedAndSent
  intro tag step node c part i s hf ha hi ho hp
  refine ⟨fun hb ok => ?_, fun hb hc => ?_, fun ok hb hc ht => ?_⟩
  · rw [exec_foldChunkDone hf, foldChunkDone_of_busy ok hi ho hp hb]
  · refine ⟨outputPassed (tag, step, node) i c part (s.readyOut i c part) s,
      i.setOut c part (i.goodOut c (s.readyOut i c part)), ?_, outputPassed_pen c part _ hi, i.outp_setOut_self ..,
      fun x hx => i.look_outs_setOut_of_ne c part _ hx, i.ins_setOut .., outputPassed_changes _ i c part _ s⟩
    rw [exec_foldChunkDone hf, foldChunkDone_of_checked hi ho hp hb ha hc]
  · refine ⟨foldChunkDone tag step node c ok s, exec_foldChunkDone hf .., ?_, foldChunkDone_changes (.refl _ s) (by decide)⟩
    obtain ⟨l, hl⟩ := foldChunkDone_of_unchecked hi ho hp hb ha hc ht
    rw [hl, laneFailed_retry, recordFault_fld, State.modFld_fld, outputFailed_retry]
    rfl

end

section
/-! SUPPORT. The step (notes/assumptions 1, 2, 6): every arm of the dispatch is guarded by its command's well-formedness;
what one GT and one slot's time (R321) leave of a port's link. -/

namespace Sys2Proof.Machine

/-! ## Every command checks its operands, then goes to a next state -/

/-- Each arm of `exec` is guarded by the command's own well-formedness and by nothing else. -/
theorem exec_eq_need (c : Instr) (s : State) : ∃ t, exec c s = need c.wf t := by
  cases c
  all_goals exact ⟨_, rfl⟩

theorem exec_of_illFormed {c : Instr} (h : c.wf = false) (s : State) : exec c s = .fault .noSuchUnit := by
  obtain ⟨t, ht⟩ := exec_eq_need c s
  rw [ht, h]; rfl

theorem exec_of_wellFormed {c : Instr} (h : c.wf = true) (s : State) : ∃ t, exec c s = .next t := by
  obtain ⟨t, ht⟩ := exec_eq_need c s
  exact ⟨t, by rw [ht, h]; rfl⟩

/-! ## Units of a part that does not change -/

theorem ChangesOnly.link {ps : List Part} {s t : State} (h : ChangesOnly ps s t) (m : Part.swc ∉ ps) (n : Nat) :
    t.link n = s.link n := by
  rw [State.link, h .swc m, State.link]

theorem ChangesOnly.optPort {ps : List Part} {s t : State} (h : ChangesOnly ps s t) (m : Part.lnk ∉ ps) (n : Nat) :
    t.optPort n = s.optPort n := by
  rw [State.optPort, h .lnk m, State.optPort]

theorem ChangesOnly.lit {ps : List Part} {s t : State} (h : ChangesOnly ps s t) (m : Part.lnk ∉ ps) (f : Part.fatal ∉ ps)
    (n : Nat) : t.lit n = s.lit n := by
  simp only [State.lit, State.isFatal, State.engine, h .lnk m, h .fatal f]

/-! ## The slot that a port fills in one GT (R321) -/

/-- What a port's link holds: how many flits of the slot that fills, and the flits not yet acknowledged. -/
def State.filling (s : State) (n : Nat) : Nat × List (BitVec 11 × TxFlit) :=
  ((s.link n).slotFlits.length, (s.link n).unacked)

@[simp] theorem State.emit_filling (o : Output) (s : State) (m : Nat) : (s.emit o).filling m = s.filling m := rfl

theorem State.modLink_filling_of_ne (n : Nat) (f : Link → Link) (s : State) {m : Nat} (h : m ≠ n) :
    (s.modLink n f).filling m = s.filling m := by
  simp [State.filling, State.modLink_link, h]

@[simp] theorem State.modLink_filling_self (n : Nat) (f : Link → Link) (s : State) :
    (s.modLink n f).filling n = ((f (s.link n)).slotFlits.length, (f (s.link n)).unacked) := by
  simp [State.filling]

/-- An update of a link's counters leaves what fills. -/
theorem State.modLink_filling (n : Nat) (f : Link → Link) (s : State) (m : Nat)
    (hf : ∀ l, (f l).slotFlits = l.slotFlits ∧ (f l).unacked = l.unacked) :
    (s.modLink n f).filling m = s.filling m := by
  by_cases h : m = n
  · subst h; simp [hf, State.filling]
  · exact State.modLink_filling_of_ne n f s h

@[simp] theorem sendAm_filling (n : Nat) (s : State) (m : Nat) : (sendAm n s).filling m = s.filling m :=
  State.modLink_filling _ _ _ _ fun _ => ⟨rfl, rfl⟩

@[simp] theorem sendSlot_filling (n : Nat) (b : List Nat) (s : State) (m : Nat) :
    (sendSlot n b s).filling m = s.filling m := by
  have sent : ((s.emit (.slot n b)).modLink n (fun l => { l with sinceAm := l.sinceAm + 1 })).filling m = s.filling m :=
    State.modLink_filling _ _ _ _ fun _ => ⟨rfl, rfl⟩
  unfold sendSlot
  dsimp only
  split
  · rw [sendAm_filling, sent]
  · exact sent

theorem fillSlot_filling_of_ne (n : Nat) (f : Bytes) (s : State) {m : Nat} (h : m ≠ n) :
    (fillSlot n f s).filling m = s.filling m := by
  unfold fillSlot
  dsimp only
  split
  · exact State.modLink_filling_of_ne n _ s h
  · split <;> simp [State.modLink_filling_of_ne n _ _ h]

/-- The fifth flit closes the slot. -/
theorem fillSlot_filling_self (n : Nat) (f : Bytes) (s : State) : (fillSlot n f s).filling n =
    (if (s.link n).slotFlits.length < 4 then (s.link n).slotFlits.length + 1 else 0, (s.link n).unacked) := by
  have kept (b : List Nat) (t : State) : ((sendSlot n b t).link n).unacked = (t.link n).unacked :=
    congrArg Prod.snd (sendSlot_filling n b t n)
  unfold fillSlot
  dsimp only
  rw [apply_ite (fun t => State.filling t n), List.length_append, List.length_singleton]
  by_cases h : (s.link n).slotFlits.length < 4
  · simp [h]
  · rw [if_neg (by omega), if_neg h, apply_ite (fun t => State.filling t n)]
    simp [kept]

theorem putTagged_filling_of_ne (n : Nat) (t : LinkTag) (body : Bytes) (s : State) {m : Nat} (h : m ≠ n) :
    (putTagged n t body s).filling m = s.filling m := by
  unfold putTagged
  dsimp only
  rw [fillSlot_filling_of_ne n _ _ h, State.modLink_filling_of_ne n _ _ h]
  split <;> simp

theorem putTagged_filling_self (n : Nat) (t : LinkTag) (body : Bytes) (s : State) : (putTagged n t body s).filling n =
    (if (s.link n).slotFlits.length < 4 then (s.link n).slotFlits.length + 1 else 0, (s.link n).unacked) := by
  unfold putTagged
  dsimp only
  rw [fillSlot_filling_self, State.modLink_link_self]
  split <;> rfl

theorem sendIdle_filling_of_ne (n : Nat) (s : State) {m : Nat} (h : m ≠ n) :
    (sendIdle n s).filling m = s.filling m := by
  rw [sendIdle, putFlit, State.modLink_filling_of_ne n _ _ h, putTagged_filling_of_ne n _ _ _ h]

/-- An IDLE flit takes the next place of the slot, and no replay buffer holds it. -/
theorem sendIdle_filling_self (n : Nat) (s : State) : (sendIdle n s).filling n =
    (if (s.link n).slotFlits.length < 4 then (s.link n).slotFlits.length + 1 else 0, (s.link n).unacked) := by
  rw [← putTagged_filling_self]
  exact State.modLink_filling _ _ _ _ fun _ => ⟨rfl, rfl⟩

theorem sendTestFlit_filling_of_ne (n : Nat) (s : State) {m : Nat} (h : m ≠ n) :
    (sendTestFlit n s).filling m = s.filling m := by
  unfold sendTestFlit
  rw [fillSlot_filling_of_ne n _ _ h, State.modLink_filling_of_ne n _ _ h, State.emit_filling]

/-- A chain of operations that each keep what a port fills keeps it. -/
theorem foldl_filling {α : Type} {f : State → α → State} {m : Nat} (l : List α) (s : State)
    (hf : ∀ x ∈ l, ∀ t, (f t x).filling m = t.filling m) : (l.foldl f s).filling m = s.filling m :=
  List.foldlRecOn (motive := fun t => t.filling m = s.filling m) l f rfl fun t ht x hx => (hf x hx t).trans ht

/-- As many IDLE flits as the slot lacks close it. -/
theorem idles_filling (n k : Nat) (s : State) (h : (s.link n).slotFlits.length + (k + 1) = 5) :
    ((sendIdle n)^[k + 1] s).filling n = (0, (s.link n).unacked) := by
  have sent := sendIdle_filling_self n s
  induction k generalizing s with
  | zero => rw [Function.iterate_one, sent, if_neg (by omega)]
  | succ k ih =>
    rw [if_pos (by omega)] at sent
    rw [State.filling, Prod.mk.injEq] at sent
    obtain ⟨hl, hu⟩ := sent
    rw [Function.iterate_succ_apply, ih _ (by omega) (sendIdle_filling_self n _), hu]

theorem streamPort_filling_of_ne (n : Nat) (s : State) {m : Nat} (h : m ≠ n) :
    (streamPort n s).filling m = s.filling m := by
  unfold streamPort
  dsimp only
  split
  · rfl
  · refine foldl_filling _ _ fun _ _ t => ?_
    split
    · exact sendTestFlit_filling_of_ne n t h
    · exact sendIdle_filling_of_ne n t h

theorem streamSpare_filling (oe l : Nat) (s : State) (m : Nat) : (streamSpare oe l s).filling m = s.filling m := by
  unfold streamSpare
  dsimp only
  split <;> rfl

/-- A live port outside test mode that lacks flits of its slot completes it with IDLE flits. -/
theorem streamPort_filling_self {n : Nat} {s : State} (lit : s.lit n = true) (on : (s.optPort n).tstate ≠ .off)
    (live : (s.optPort n).tstate ≠ .test) (lacks : (s.link n).slotFlits.length < 5) :
    (streamPort n s).filling n = (0, (s.link n).unacked) := by
  obtain ⟨k, hk⟩ : ∃ k, 5 - (s.link n).slotFlits.length = k + 1 := ⟨4 - (s.link n).slotFlits.length, by omega⟩
  simpa [streamPort, lit, on, live, hk, List.foldl_const] using idles_filling n k s (by omega)

/-- A slot's time leaves a link as the port's own stream leaves it. -/
theorem slotTime_filling {n : Nat} (hn : n < 64) {s : State} (lit : s.lit n = true) (on : (s.optPort n).tstate ≠ .off)
    (live : (s.optPort n).tstate ≠ .test) (lacks : (s.link n).slotFlits.length < 5) :
    (slotTime s).filling n = (0, (s.link n).unacked) := by
  have split : List.range 64 = List.range n ++ n :: (List.range (63 - n)).map (n + 1 + ·) := by
    rw [show 64 = n + (63 - n + 1) by omega, List.range_add, List.range_succ_eq_map]
    simp [Function.comp_def, Nat.add_assoc, Nat.add_comm 1]
  have before : ChangesOnly [.swc, .out] s ((List.range n).foldl (fun s n => streamPort n s) s) :=
    ChangesOnly.foldl _ (.refl _ s) fun _ _ h => streamPort_changes h (List.Subset.refl _)
  have first : ((List.range n).foldl (fun s n => streamPort n s) s).filling n = s.filling n :=
    foldl_filling _ _ fun m hm t => streamPort_filling_of_ne m t (by simp at hm; omega)
  have rest : ∀ t, (((List.range (63 - n)).map (n + 1 + ·)).foldl (fun s n => streamPort n s) t).filling n = t.filling n :=
    fun t => foldl_filling _ _ fun m hm t => streamPort_filling_of_ne m t (by simp at hm; omega)
  have spares : ∀ t, ((List.range 16).foldl (fun s oe => streamSpare oe 33 (streamSpare oe 32 s)) t).filling n = t.filling n :=
    fun t => foldl_filling _ _ fun oe _ t => by rw [streamSpare_filling, streamSpare_filling]
  rw [State.filling, State.filling, Prod.mk.injEq] at first
  obtain ⟨hlen, hunacked⟩ := first
  unfold slotTime
  dsimp only
  rw [spares, split, List.foldl_append, List.foldl_cons, rest, streamPort_filling_self, hunacked]
  · rwa [before.lit (by decide) (by decide)]
  · rwa [before.optPort (by decide)]
  · rwa [before.optPort (by decide)]
  · rwa [hlen]

/-- Before PLL lock no time passes (R379). -/
theorem advance_of_stage_zero {s : State} (h : s.glb.stage = 0) (n : Nat) : advance n s = s := by
  simp [advance, h]

/-- From t0 on GT counts, modulo 2^64 (R61). -/
theorem advance_gt {s : State} (h : s.glb.stage ≠ 0) (n : Nat) : (advance n s).bel.gt = (s.bel.gt + n) % 2 ^ 64 := by
  simp [advance, h]

/-- The passing of time leaves the links, the ports and the engines. -/
theorem advance_frame (n : Nat) (s : State) : ChangesOnly [.glb, .gt, .clock, .shapers, .thm] s (advance n s) :=
  advance_changes (.refl _ s) (List.Subset.refl _)

end Sys2Proof.Machine

open Sys2Proof Sys2Proof.Machine

/-- Settles O59, by the arms of the dispatch, which check operands alone, and by what a slot's time leaves of a link. -/
theorem stepsTakeTheFrontCommand : Obligations.StepsTakeTheFrontCommand := by
  unfold Obligations.StepsTakeTheFrontCommand
  refine ⟨fun c rest s => rfl, fun s hp => ?_, fun n s => ⟨fun h => advance_of_stage_zero h n, fun h => advance_gt h n⟩,
    ?_, fun c s => ⟨fun h => exec_of_illFormed h s, fun h => exec_of_wellFormed h s⟩⟩
  · refine ⟨slotTime (advance 1 s), by simp [step, hp], rfl, slotTime_changes (.refl _ _) (List.Subset.refl _),
      fun n hn lit on live lacks => ?_⟩
    have time := advance_frame 1 s
    have filled : (slotTime (advance 1 s)).filling n = (0, ((advance 1 s).link n).unacked) := by
      apply slotTime_filling hn
      · rwa [time.lit (by decide) (by decide)]
      · rwa [time.optPort (by decide)]
      · rwa [time.optPort (by decide)]
      · rwa [time.link (by decide)]
    rw [State.filling, Prod.mk.injEq] at filled
    exact ⟨List.length_eq_zero_iff.1 filled.1, by rw [filled.2, time.link (by decide)]⟩
  · refine ⟨rfl, rfl, rfl, rfl, rfl, rfl, rfl, fun _ => rfl, fun _ => rfl⟩

end

section
/-! SUPPORT. Recording a fault (R348-R352): what a frame says of numbered units, and the inversion of the recording: the
event is captured, its record is open, and an FT event then enters the fatal state. -/

namespace Sys2Proof.Machine

/-! ## What a frame says of numbered units -/

theorem ChangesOnly.flt_eq {ps : List Part} {s t : State} (h : ChangesOnly ps s t) (m : Part.flt ∉ ps)
    (f : Part.fatal ∉ ps) : t.flt = s.flt := by
  have rest := h .flt m
  have fatal := h .fatal f
  simp only [Agree] at rest fatal
  cases ht : t.flt; cases hs : s.flt
  simp_all

theorem ChangesOnly.slotReg {ps : List Part} {s t : State} (h : ChangesOnly ps s t) (m : Part.swc ∉ ps) (n : Nat) :
    t.slotReg n = s.slotReg n := by
  rw [State.slotReg, h .swc m, State.slotReg]

theorem ChangesOnly.topology {ps : List Part} {s t : State} (h : ChangesOnly ps s t) (m : Part.img ∉ ps) :
    t.topology = s.topology := by
  have base : t.img.base = s.img.base := by
    simpa using congrArg Img.base (h .img m : ({ t.img with buf := [] } : Img) = { s.img with buf := [] })
  rw [State.topology, State.baseBody, base, State.topology, State.baseBody]

theorem ChangesOnly.tract {ps : List Part} {s t : State} (h : ChangesOnly ps s t) (m : Part.cel ∉ ps) (n : Nat) :
    t.tract n = s.tract n := by
  have tracts : t.cel.tracts = s.cel.tracts := by
    simpa using congrArg Cel.tracts (h .cel m : ({ t.cel with mem := [] } : Cel) = { s.cel with mem := [] })
  rw [State.tract, tracts, State.tract]

/-! ## Recording a fault (R348-R352) -/

theorem signal_host (v : Nat) (s : State) :
    (signal v s).host.l0 = s.host.l0 ∧ (signal v s).host.table = s.host.table := by
  unfold signal
  repeat' split
  all_goals exact ⟨rfl, rfl⟩

theorem flushFaults_frame (s : State) : ChangesOnly [.bel, .bln, .out] s (flushFaults s) :=
  flushFaults_changes (.refl _ s) (List.Subset.refl _)

/-- A FAULT frame touches of the FLT block the count of dropped frames alone. -/
theorem queueFault_flt (f : FaultFrame) (s : State) : ∃ n, (queueFault f s).flt = { s.flt with bellDrop := n } := by
  unfold queueFault
  dsimp only
  rw [(flushFaults_frame _).flt_eq (by decide) (by decide)]
  split
  · exact ⟨s.flt.bellDrop, rfl⟩
  · exact ⟨sat32 s.flt.bellDrop, rfl⟩

theorem queueFault_frame (f : FaultFrame) (s : State) : ChangesOnly [.flt, .bel, .bln, .out] s (queueFault f s) :=
  queueFault_changes (.refl _ s) (List.Subset.refl _)

/-- What reporting a record leaves: the first-error capture, the open host-link record, the host link and its table. -/
theorem report_keeps (e : FaultEvent) (s : State) :
    (report e s).flt.cap = s.flt.cap ∧ (report e s).flt.hostSeq = s.flt.hostSeq ∧
    (report e s).host.l0 = s.host.l0 ∧ (report e s).host.table = s.host.table := by
  have pulse (c : Nat) (i : Bool) (t : State) : (startPulse c i t).flt.cap = t.flt.cap ∧
      (startPulse c i t).flt.hostSeq = t.flt.hostSeq ∧ (startPulse c i t).host = t.host := by
    unfold startPulse
    split <;> exact ⟨rfl, rfl, rfl⟩
  obtain ⟨hl, ht⟩ := signal_host (3 - e.cls) s
  have hflt := (signal_changes (parts := [.host, .out]) (v := 3 - e.cls) (.refl _ s) (List.Subset.refl _)).flt_eq
    (by decide) (by decide)
  unfold report
  dsimp only
  rw [State.modFlt_flt, State.modFlt_host, (pulse _ _ _).1, (pulse _ _ _).2.1, (pulse _ _ _).2.2]
  split
  · obtain ⟨n, hn⟩ := queueFault_flt
      { origin := (signal (3 - e.cls) s).devIndex, cls := e.cls, source := e.source, gt := (signal (3 - e.cls) s).bel.gt }
      (signal (3 - e.cls) s)
    rw [hn, queueFault_frame _ _ .host (by decide), hflt, hl, ht]
    exact ⟨rfl, rfl, rfl, rfl⟩
  · rw [hflt, hl, ht]
    exact ⟨rfl, rfl, rfl, rfl⟩

theorem report_attic (e : FaultEvent) (s : State) : (report e s).attic = s.attic :=
  report_changes (parts := [.flt, .bel, .bln, .host, .out]) (.refl _ s) (List.Subset.refl _) .attic (by decide)

/-- A fault event is noted: it is captured, its record is open, and what is no part of recording and reporting stays. -/
structure FaultNoted (e : FaultEvent) (s t : State) : Prop where
  frame   : ChangesOnly [.flt, .attic, .bel, .bln, .host, .out] s t
  opened  : ∃ r ∈ t.attic.openRecs, r.source = e.source ∧ r.unit = e.unit
  resets  : t.attic.resets = s.attic.resets
  l0      : t.host.l0 = s.host.l0
  table   : t.host.table = s.host.table
  hostSeq : t.flt.hostSeq = s.flt.hostSeq
  capture : t.flt.cap = s.flt.cap.take e s.bel.gt

theorem FaultRec.is_iff (r : FaultRec) (source unit : Nat) :
    r.is source unit = true ↔ r.source = source ∧ r.unit = unit := by
  simp [FaultRec.is]

/-- The record that opens is listed last. -/
theorem Attic.mem_openRecord (a : Attic) (r : FaultRec) : r ∈ (a.openRecord r).openRecs := by
  simp [Attic.openRecord]

theorem Attic.putRecord_resets (a : Attic) (r : FaultRec) : (a.putRecord r).resets = a.resets := by
  unfold Attic.putRecord
  split <;> rfl

theorem Attic.openRecord_resets (a : Attic) (r : FaultRec) : (a.openRecord r).resets = a.resets := by
  unfold Attic.openRecord
  dsimp only
  rw [Attic.putRecord_resets]
  repeat' split
  all_goals first | rfl | exact Attic.putRecord_resets ..

/-- Recording notes the event, and an FT event then enters the fatal state. -/
theorem recordFault_noted (e : FaultEvent) (s : State) : ∃ t, FaultNoted e s t ∧
    recordFault e s = if e.cls = 3 then enterFatal e.source t else t := by
  refine ⟨_, ?_, rfl⟩
  change FaultNoted e s (if s.attic.openRecs.any (·.is e.source e.unit) = true then _ else _)
  by_cases h : s.attic.openRecs.any (·.is e.source e.unit) = true
  · rw [if_pos h]
    obtain ⟨r, hr, his⟩ := List.any_eq_true.1 h
    refine ⟨((ChangesOnly.refl _ s).modFlt _ (by decide) (.inl rfl)).modAttic _ (by decide),
      ⟨r.merge e s.bel.gt, List.mem_map.2 ⟨r, hr, if_pos his⟩, (FaultRec.is_iff ..).1 his⟩, rfl, rfl, rfl, rfl, rfl⟩
  · rw [if_neg h]
    refine ⟨report_changes (((ChangesOnly.refl _ s).modFlt _ (by decide) (.inl rfl)).modAttic _ (by decide)) (by decide),
      ?_, ?_, ?_, ?_, ?_, ?_⟩
    · rw [report_attic]
      exact ⟨_, Attic.mem_openRecord .., rfl, rfl⟩
    · rw [report_attic]
      exact Attic.openRecord_resets ..
    all_goals obtain ⟨hcap, hseq, hl, ht⟩ := report_keeps e _
    · exact hl
    · exact ht
    · exact hseq
    · exact hcap

/-- A fault that is not FT is noted and nothing else. -/
theorem recordFault_of_not_ft {e : FaultEvent} (h : e.cls ≠ 3) (s : State) : FaultNoted e s (recordFault e s) := by
  obtain ⟨t, ht, hr⟩ := recordFault_noted e s
  rwa [hr, if_neg h]

end Sys2Proof.Machine
end

section
/-! SUPPORT. Position (R36, R37, R379): what power-up keeps of the straps, and the fields of the device index. -/

namespace Sys2Proof.Machine

/-! ## The straps through power-up (R36, R379) -/

/-- Recording a fault keeps the straps in use. -/
theorem recordFault_straps (e : FaultEvent) (s : State) :
    (recordFault e s).glb.straps = s.glb.straps ∧ (recordFault e s).glb.sampled = s.glb.sampled := by
  obtain ⟨t, ht, h⟩ := recordFault_noted e s
  have glb := ht.frame .glb (by decide)
  rw [h, ← glb]
  unfold enterFatal
  repeat' split
  all_goals exact ⟨rfl, rfl⟩

/-- A device that powers up: its straps are sampled, no Pen, no session and no live port is there yet. -/
structure PoweringUp (p : Straps) (s : State) : Prop where
  straps   : s.glb.straps = p
  sampled  : s.glb.sampled = true
  pens     : s.fld.insts = []
  sessions : ∀ t, (s.tract t).sessions = []
  ports    : ∀ n, (s.optPort n).tstate = .off

namespace PoweringUp

variable {p : Straps} {ps : List Part} {s t : State}

/-- A chain that leaves Pens, stacks and ports as they are, and the straps, keeps a power-up under way. -/
theorem of_changes (h : PoweringUp p s) (c : ChangesOnly ps s t) (hs : t.glb.straps = s.glb.straps)
    (hb : t.glb.sampled = s.glb.sampled) (fld : Part.fld ∉ ps := by decide) (cel : Part.cel ∉ ps := by decide)
    (lnk : Part.lnk ∉ ps := by decide) : PoweringUp p t where
  straps := hs.trans h.straps
  sampled := hb.trans h.sampled
  pens := by rw [c .fld fld, h.pens]
  sessions n := by rw [c.tract cel, h.sessions]
  ports n := by rw [State.optPort, c .lnk lnk]; exact h.ports n

theorem recordFault (h : PoweringUp p s) (e : FaultEvent) : PoweringUp p (recordFault e s) :=
  h.of_changes (recordFault_changes (.refl _ s) (List.Subset.refl _)) (recordFault_straps e s).1 (recordFault_straps e s).2

theorem foldl {α : Type} {f : State → α → State} (h : PoweringUp p s) (l : List α)
    (hf : ∀ t x, PoweringUp p t → PoweringUp p (f t x)) : PoweringUp p (l.foldl f s) :=
  List.foldlRecOn l f h fun t ht x _ => hf t x ht

theorem modGlb (h : PoweringUp p s) (f : Glb → Glb) (hs : (f s.glb).straps = s.glb.straps)
    (hb : (f s.glb).sampled = s.glb.sampled) : PoweringUp p (s.modGlb f) :=
  h.of_changes ((ChangesOnly.refl [.glb] s).modGlb f (by decide)) hs hb

/-- Keys and fuses are read. -/
theorem keyed (h : PoweringUp p s) (f : Fuses → Fuses) (g : Glb → Glb) (k : Sec → Sec)
    (hs : (g s.glb).straps = s.glb.straps) (hb : (g s.glb).sampled = s.glb.sampled) :
    PoweringUp p (((s.modFuses f).modGlb g).modSec k) :=
  h.of_changes (ps := [.fuses, .glb, .sec]) ((((ChangesOnly.refl _ s).modFuses f (by decide)).modGlb g (by decide)).modSec k
    (by decide)) hs hb

theorem toStage (h : PoweringUp p s) (n : Nat) : PoweringUp p (toStage n s) := by
  unfold Machine.toStage
  split
  · exact h
  · exact h.modGlb _ rfl rfl

/-- No session has a copy and no Pen is open, so that a Tract that is fenced takes no packet with it. -/
theorem fenceTract (h : PoweringUp p s) (n : Nat) : PoweringUp p (fenceTract n s) := by
  have lost : foldTractLost n s = s.modFld (fun l => { l with scales := l.scales.filter (fun e => e.tract != n) }) := by
    simp [foldTractLost, abortWhere, h.pens]
  unfold Machine.fenceTract
  split
  · exact h
  · simp only [h.sessions, List.filterMap_nil, List.foldl_nil, lost]
    refine foldl ?_ _ fun t k ht => ht.of_changes (fenceCroft_changes (.refl _ t) (List.Subset.refl _)) rfl rfl
    refine ⟨h.straps, h.sampled, h.pens, fun m => ?_, h.ports⟩
    rw [State.modTract_tract]
    split
    · rfl
    · exact h.sessions m

/-- No port is live, so that the fence of an engine takes none down. -/
theorem engineFault (h : PoweringUp p s) (n : Nat) : PoweringUp p (engineFault n s) := by
  unfold Machine.engineFault
  split
  · exact h
  · have g := h.recordFault { source := 0x0106, unit := unitEngine n, cls := 2, access := 0x0C, fenced := true }
    generalize Machine.recordFault _ s = u at g ⊢
    have fenced : PoweringUp p (updateLost (u.modEngine n (fun e => { e with fenced := true }))) := by
      have marked : PoweringUp p (u.modEngine n (fun e => { e with fenced := true })) := ⟨g.straps, g.sampled, g.pens, g.sessions, g.ports⟩
      have c := updateLost_changes (parts := [.rte]) (.refl _ (u.modEngine n (fun e => { e with fenced := true })))
        (List.Subset.refl _)
      exact marked.of_changes c (by rw [c .glb (by decide)]) (by rw [c .glb (by decide)])
    unfold fenceEngine portsDown
    exact foldl fenced _ fun t q ht => by rw [if_pos (ht.ports _)]; exact ht

theorem bootLinks (h : PoweringUp p s) (e : PowerEnv) : PoweringUp p (bootLinks e s) := by
  unfold Machine.bootLinks
  refine foldl (foldl (foldl (foldl h _ ?tracts) _ ?feeds) _ ?dark) _ fun t n ht => ht.engineFault n
  case tracts =>
    intro t n ht
    split
    · exact ht
    · exact (ht.recordFault _).fenceTract n
  case feeds => exact fun t n ht => ⟨ht.straps, ht.sampled, ht.pens, ht.sessions, ht.ports⟩
  case dark =>
    intro t n ht
    dsimp only
    split
    · exact ht.recordFault _
    · exact ht

theorem bootAttic (h : PoweringUp p s) (e : PowerEnv) : PoweringUp p (bootAttic e s) := by
  have marked : PoweringUp p (s.modAttic (fun a => { a with failed := !e.atticHeaderOk, headerBad := !e.atticHeaderOk })) :=
    h.of_changes ((ChangesOnly.refl [.attic] s).modAttic _ (by decide)) rfl rfl
  unfold Machine.bootAttic
  dsimp only
  split
  · exact marked.of_changes (ps := [.attic, .flt]) ((openReset_changes ((ChangesOnly.refl _ _).modAttic _ (by decide))
      (by decide)).modFlt _ (by decide) (.inl rfl)) rfl rfl
  · exact marked.recordFault _

theorem bootCrofts (h : PoweringUp p s) (e : PowerEnv) : PoweringUp p (bootCrofts e s) := by
  unfold Machine.bootCrofts
  exact (h.of_changes ((ChangesOnly.refl [.crf] s).modCrf _ (by decide)) rfl rfl).modGlb _ rfl rfl

theorem bootSteps (h : PoweringUp p s) (e : PowerEnv) : PoweringUp p (bootSteps e s) := by
  have begun := h.modGlb (fun g => { g with stage := 1 }) rfl rfl
  unfold Machine.bootSteps
  generalize s.modGlb (fun g => { g with stage := 1 }) = u at begun
  dsimp only
  split
  · exact begun.recordFault _
  · unfold railOut
    split
    · exact begun
    · exact recordFault (begun.of_changes ((ChangesOnly.refl [.pins] u).modPins _ (by decide)) rfl rfl) _
  · split
    · exact (begun.modGlb _ rfl rfl).recordFault _
    · have graded := begun.modGlb (fun g => { g with grade := u.fuses.grade, fuseOk := true }) rfl rfl
      generalize u.modGlb (fun g => { g with grade := u.fuses.grade, fuseOk := true }) = v at graded ⊢
      split
      · exact graded.recordFault _
      · split
        · exact ((graded.keyed _ _ _ rfl rfl).bootAttic e).toStage 2 |>.recordFault _
        · exact ((((graded.keyed _ _ _ rfl rfl).bootAttic e).toStage 2).bootCrofts e).bootLinks e |>.toStage 5

theorem powerUp {e : PowerEnv} (stage : s.glb.stage = 0) (fatal : s.flt.fatal = none) :
    PoweringUp e.straps (powerUp e s) := by
  unfold Machine.powerUp
  rw [if_neg (by simp [stage, State.isFatal, fatal])]
  refine bootSteps ?_ e
  exact ⟨rfl, rfl, rfl, fun _ => rfl, fun _ => rfl⟩

end PoweringUp

/-! ## Position (R37) -/

section
variable {p : Straps} {s : State}

theorem PoweringUp.devIndex (h : PoweringUp p s) : s.devIndex = strapIndex p := by
  simp [State.devIndex, h.sampled, h.straps]

theorem wf_straps_iff : Wf.straps p = true ↔ p.range < 4 ∧ p.padX < 16 ∧ p.padY < 16 ∧ p.slot < 16 := by
  simp [Wf.straps, and_assoc]

/-- The fields of the index are those of the straps, each within its bits. -/
theorem strapIndex_fields (h : Wf.straps p = true) :
    strapIndex p < 2 ^ 14 ∧ meshX (strapIndex p) = p.padX ∧ meshY (strapIndex p) = 2 * p.padY + p.slot % 2 ∧
    rangeOf (strapIndex p) = p.range ∧ strapIndex p / 512 % 8 = p.slot / 2 := by
  obtain ⟨hr, hx, hy, hs⟩ := wf_straps_iff.1 h
  unfold strapIndex meshX meshY rangeOf
  omega

/-- The index names the strap values that it is made of. -/
theorem strapIndex_inj {q : Straps} (hp : Wf.straps p = true) (hq : Wf.straps q = true) (h : strapIndex p = strapIndex q) :
    p.range = q.range ∧ p.padX = q.padX ∧ p.padY = q.padY ∧ p.slot = q.slot := by
  obtain ⟨-, hx, hy, hr, hs⟩ := strapIndex_fields hp
  obtain ⟨-, hx', hy', hr', hs'⟩ := strapIndex_fields hq
  rw [h] at hx hy hr hs
  omega

end

/-! ## Service EIDs (R41) -/

theorem foldHeader_src (s : State) (dst ptype cls tag pos chunk pkt part stepLo : Nat) (node : Bool) :
    (s.foldHeader dst ptype cls tag pos chunk pkt part node stepLo).src = BitVec.ofNat 20 (0xF0000 + s.devIndex) := rfl

theorem replyPackets_src {s : State} {key : MsgKey} {hdr : Packet} {r : Reply} {tick : Nat} {p : Packet}
    (h : p ∈ s.replyPackets key hdr r tick) : p.src = BitVec.ofNat 20 (0xF4000 + s.devIndex) := by
  obtain ⟨i, -, rfl⟩ := List.mem_map.1 h
  rfl

theorem wf_straps_of_power {e : PowerEnv} (h : Wf.power e = true) : Wf.straps e.straps = true := by
  simp only [Wf.power, Bool.and_eq_true] at h
  tauto

end Sys2Proof.Machine
end

section
open Sys2Proof Sys2Proof.Machine

/-- Settles O58: what keeps a power-up under way keeps the straps, and the index of well-formed straps is a number whose
fields they are. -/
theorem positionComesFromTheStraps : Obligations.PositionComesFromTheStraps := by
  unfold Obligations.PositionComesFromTheStraps
  refine ⟨fun e s hw hs hf => ?_, fun p q => strapIndex_inj⟩
  have up := PoweringUp.powerUp (e := e) hs hf
  obtain ⟨hlt, hx, hy, hr, -⟩ := strapIndex_fields (wf_straps_of_power hw)
  refine ⟨powerUp e s, _, _, _, by simp [exec, execPowerUp, need, hw], up.straps, rfl, rfl, rfl, ?_⟩
  rw [up.devIndex]
  refine ⟨by rw [strapIndex], hlt, hx, hy, hr, fun _ _ _ _ _ _ _ _ _ _ => ?_, fun _ _ _ _ p hp => ?_⟩
  · rw [foldHeader_src, up.devIndex]
  · rw [replyPackets_src hp, up.devIndex]

end

section
/-! SUPPORT. The host link (R341, R357, R373): reset records, the reset of the host bridge, straps and table entries. -/

namespace Sys2Proof.Machine

/-! ## Reset records (R373) -/

theorem Attic.look_putReset_self {a : Attic} (h : a.failed = false) (r : ResetRec) :
    Tab.look none (a.putReset r).resets (r.seq % 1024) = some r := by
  simp [Attic.putReset, h]

/-- A record that its place in the ring still holds is written again with the GT and code of its end. -/
theorem Attic.look_finishReset {a : Attic} (h : a.failed = false) {seq : Nat} {r : ResetRec}
    (hr : Tab.look none a.resets (seq % 1024) = some r) (hs : r.seq = seq) (gt code : Nat) :
    Tab.look none (a.finishReset seq gt code none).resets (seq % 1024) = some { r with gtDone := gt, code := code } := by
  subst hs
  simp only [Attic.finishReset, hr]
  exact Attic.look_putReset_self h { r with gtDone := gt, code := code }

/-- The record that a reset opens, of its kind and at the GT of its request. -/
theorem openReset_look {s : State} (h : s.attic.failed = false) (kind field : Nat) :
    ∃ r, Tab.look none (openReset kind field s).2.attic.resets (s.attic.resetSeq % 1024) = some r ∧
      r.seq = s.attic.resetSeq ∧ r.kind = kind ∧ r.gtReq = s.bel.gt ∧ r.gtDone = 0 :=
  ⟨_, Attic.look_putReset_self h _, rfl, rfl, rfl, rfl⟩

@[simp] theorem openReset_fst (kind field : Nat) (s : State) : (openReset kind field s).1 = s.attic.resetSeq := rfl

/-! ## The host bridge (R341, R357) -/

/-- Where the link stays up, the record of the reset is complete at once. -/
theorem hostBridgeReset_of_up {keeps : Bool} {s : State} (h : (s.host.l0 && keeps) = true) : hostBridgeReset keeps s =
    recordFault { source := 0x0305, unit := 120, cls := 1, access := 0x0A }
      (((openReset 6 0xFF s).2.modHost (fun _ => { l0 := true })).modAttic
        (fun a => a.finishReset s.attic.resetSeq s.bel.gt 0 none)) := by
  have l0 : ((openReset 6 0xFF s).2.host.l0 && keeps) = true := h
  simp only [hostBridgeReset, l0, if_true]
  rfl

/-- Where the link is lost, the record stays open until the link is back. -/
theorem hostBridgeReset_of_down {keeps : Bool} {s : State} (h : (s.host.l0 && keeps) = false) : hostBridgeReset keeps s =
    recordFault { source := 0x0305, unit := 120, cls := 1, access := 0x0A }
      (((openReset 6 0xFF s).2.modHost (fun _ => { l0 := false })).modFlt
        (fun x => { x with hostSeq := some s.attic.resetSeq })) := by
  have l0 : ((openReset 6 0xFF s).2.host.l0 && keeps) = false := h
  simp only [hostBridgeReset, l0]
  rfl

/-- A host-bridge reset clears the MSI-X table, logs 0x0305 and writes a record of KIND 6. -/
theorem hostBridgeReset_spec (keeps : Bool) (s : State) :
    let u := hostBridgeReset keeps s
    u.host.l0 = (s.host.l0 && keeps) ∧ u.host.table = [] ∧ (∃ r ∈ u.attic.openRecs, r.source = 0x0305 ∧ r.unit = 120) ∧
    u.flt.fatal = s.flt.fatal ∧ u.glb = s.glb ∧
    (s.attic.failed = false → ∃ r, Tab.look none u.attic.resets (s.attic.resetSeq % 1024) = some r ∧ r.kind = 6 ∧
      r.gtReq = s.bel.gt ∧ r.gtDone = if s.host.l0 && keeps then s.bel.gt else 0) ∧
    ((s.host.l0 && keeps) = false → u.flt.hostSeq = some s.attic.resetSeq) := by
  have opened := openReset_look (s := s) (kind := 6) (field := 0xFF)
  cases h : s.host.l0 && keeps
  case true =>
    rw [hostBridgeReset_of_up h]
    have noted := recordFault_of_not_ft (e := { source := 0x0305, unit := 120, cls := 1, access := 0x0A }) (by decide)
      (((openReset 6 0xFF s).2.modHost (fun _ => { l0 := true })).modAttic
        (fun a => a.finishReset s.attic.resetSeq s.bel.gt 0 none))
    refine ⟨noted.l0, noted.table, noted.opened, noted.frame .fatal (by decide), noted.frame .glb (by decide),
      fun hf => ?_, nofun⟩
    obtain ⟨r, hr, hseq, hkind, hreq, -⟩ := opened hf
    have live : (openReset 6 0xFF s).2.attic.failed = false := by simp [openReset, Attic.putReset, hf]
    rw [noted.resets]
    exact ⟨_, Attic.look_finishReset live hr hseq s.bel.gt 0, hkind, hreq, rfl⟩
  case false =>
    rw [hostBridgeReset_of_down h]
    have noted := recordFault_of_not_ft (e := { source := 0x0305, unit := 120, cls := 1, access := 0x0A }) (by decide)
      (((openReset 6 0xFF s).2.modHost (fun _ => { l0 := false })).modFlt
        (fun x => { x with hostSeq := some s.attic.resetSeq }))
    refine ⟨noted.l0, noted.table, noted.opened, noted.frame .fatal (by decide), noted.frame .glb (by decide),
      fun hf => ?_, fun _ => noted.hostSeq⟩
    obtain ⟨r, hr, -, hkind, hreq, hdone⟩ := opened hf
    rw [noted.resets]
    exact ⟨r, hr, hkind, hreq, hdone⟩

theorem hostLinkReset_frame (kind : HostResetKind) (s : State) : ChangesOnly faultParts s (hostLinkReset kind s) :=
  hostLinkReset_changes (.refl _ s) (by decide)

/-- A link that is not up has nothing to lose, and no Function of it to reset. -/
theorem hostLinkReset_of_down {kind : HostResetKind} {s : State} (hk : kind ≠ .perst) (h : s.host.l0 = false) :
    hostLinkReset kind s = s := by
  cases kind
  case perst => exact absurd rfl hk
  all_goals simp [hostLinkReset, h]

/-- PERST_N within 10 ms of its release is counted alone (Table 14-7). -/
theorem hostLinkReset_perst_early {s : State} {g : Nat} (hs : s.glb.stage ≠ 0) (hg : s.flt.perstGt = some g)
    (h : s.bel.gt < g + 3125000) :
    hostLinkReset .perst s = s.modFlt (fun x => { x with inExcess := sat32 x.inExcess }) := by
  simp only [hostLinkReset, hs, hg, gt10ms, h, if_true, if_false]

theorem hostLinkReset_perst_late {s : State} {g : Nat} (hs : s.glb.stage ≠ 0) (hg : s.flt.perstGt = some g)
    (h : g + 3125000 ≤ s.bel.gt) :
    hostLinkReset .perst s = hostBridgeReset false (s.modFlt (fun x => { x with perstGt := none })) := by
  simp only [hostLinkReset, hs, hg, gt10ms, Nat.not_lt.2 h, if_false]

theorem hostLinkReset_of_up {kind : HostResetKind} {s : State} (hs : s.glb.stage ≠ 0) (hk : kind ≠ .perst)
    (h : s.host.l0 = true) : hostLinkReset kind s = hostBridgeReset (kind == .flr) s := by
  cases kind
  case perst => exact absurd rfl hk
  all_goals
    unfold hostLinkReset
    rw [if_neg hs]
    exact if_pos h

/-- The return to L0 closes the record that a reset of the link left open. -/
theorem hostLinkL0_spec {s : State} (hs : s.glb.stage ≠ 0) (h : s.host.l0 = false) :
    let u := hostLinkL0 s
    u.host.l0 = true ∧ u.host.table = s.host.table ∧ u.flt.hostSeq = none ∧
    ∀ q r, s.flt.hostSeq = some q → s.attic.failed = false → Tab.look none s.attic.resets (q % 1024) = some r → r.seq = q →
      Tab.look none u.attic.resets (q % 1024) = some { r with gtDone := s.bel.gt, code := 0 } := by
  unfold hostLinkL0
  rw [if_neg (by simp [hs, h])]
  dsimp only [State.modHost_flt]
  cases hq : s.flt.hostSeq
  case none => exact ⟨rfl, rfl, rfl, nofun⟩
  case some q =>
    refine ⟨rfl, rfl, rfl, fun q' r e hf hr hseq => ?_⟩
    obtain rfl : q = q' := by simpa using e
    exact Attic.look_finishReset hf hr hseq s.bel.gt 0

/-! ## Straps and table entries -/

/-- A change of sampled straps is shown and logged, with the straps that changed as ADDR. -/
theorem strapChange_noted {b : BitVec 16} {s : State} (hs : s.glb.sampled = true) (hb : b ≠ 0) :
    FaultNoted { source := 0x0801, unit := 0x2F13, cls := 1, access := 0x0A, addr := b.toNat }
      (s.modGlb (fun g => { g with strapChg := true })) (strapChange b s) := by
  rw [strapChange, if_neg (by simpa [hs] using hb)]
  exact recordFault_of_not_ft (by simp) _

theorem strapChange_of_none {b : BitVec 16} {s : State} (h : s.glb.sampled = false ∨ b = 0) : strapChange b s = s := by
  simp only [strapChange, beq_iff_eq, Bool.or_eq_true, Bool.not_eq_true', h, if_true]

end Sys2Proof.Machine
end

section
open Sys2Proof Sys2Proof.Machine

/-- Settles O48: a host-link reset is the host bridge's alone, of a link that is up or of PERST_N long after its release. -/
theorem hostLinkResetsAlone : Obligations.HostLinkResetsAlone := by
  unfold Obligations.HostLinkResetsAlone
  refine ⟨fun kind s hs => ⟨fun h => ?_, ?_, fun hk h => congrArg _ (hostLinkReset_of_down hk h)⟩, fun s hs h => ?_,
    fun b s => ⟨fun hb hne => ?_, fun h => congrArg _ (strapChange_of_none h)⟩, fun table i s ht hi => ⟨fun hf => ?_, fun hf => ?_⟩⟩
  · refine ⟨hostLinkReset kind s, rfl, ?_⟩
    have frame := hostLinkReset_frame kind s
    rcases h with ⟨hk, h⟩ | ⟨rfl, g, hg, hle⟩
    · rw [hostLinkReset_of_up hs hk h] at frame ⊢
      obtain ⟨hl, ht, hr, hf, hglb, hdone, hseq⟩ := hostBridgeReset_spec (kind == .flr) s
      rw [h, Bool.true_and] at hl hdone hseq
      exact ⟨hl, ht, hr, hf, hglb, by simpa using hdone, fun hne => hseq (by simpa using hne), frame⟩
    · rw [hostLinkReset_perst_late hs hg hle] at frame ⊢
      obtain ⟨hl, ht, hr, hf, hglb, hdone, hseq⟩ :=
        hostBridgeReset_spec false (s.modFlt (fun x => { x with perstGt := none }))
      rw [Bool.and_false] at hl hdone hseq
      exact ⟨hl, ht, hr, hf, hglb, hdone, fun _ => hseq rfl, frame⟩
  · rintro rfl g hg hlt
    exact congrArg _ (hostLinkReset_perst_early hs hg hlt)
  · obtain ⟨hl, ht, hseq, hrec⟩ := hostLinkL0_spec hs h
    exact ⟨hostLinkL0 s, rfl, hl, ht, hseq, hrec, hostLinkL0_changes (.refl _ s) (by decide)⟩
  · have noted := strapChange_noted hb hne
    refine ⟨strapChange b s, rfl, noted.frame .glb (by decide), noted.opened, fun hv => ?_, noted.frame .fatal (by decide),
      ((ChangesOnly.refl _ s).modGlb _ (by decide)).step noted.frame (by decide)⟩
    rw [noted.capture, Capture.take, if_neg (by simpa using hv)]
  · refine ⟨s.modRte (fun r => { r with bad := r.bad.filter (· != (table, i)) }), ?_, ?_, ?_,
      (ChangesOnly.refl _ s).modRte _ (by decide)⟩
    · simp [exec, execTableEntryRefresh, need, tableRefresh, State.isFatal, ht, hi, hf]
    · simp
    · exact fun x hx hne => List.mem_filter.2 ⟨hx, by simpa using hne⟩
  · simp [exec, execTableEntryRefresh, need, tableRefresh, State.isFatal, ht, hi, Option.isSome_iff_ne_none, hf]

end

section
/-! SUPPORT. Discovery (R44, R45, Table 2-6): a port's discovery state, the end of a discovery, and the cases of DISCOVER
and PROOF. -/

namespace Sys2Proof.Machine

/-! ## A port's discovery state (Table 2-6) -/

theorem signal_frame (v : Nat) (s : State) : ChangesOnly [.host, .out] s (signal v s) :=
  signal_changes (.refl _ s) (List.Subset.refl _)

theorem setDisc_slotReg (n : Nat) (d : Disc) (s : State) (m : Nat) :
    (setDisc n d s).slotReg m = if m = n then { s.slotReg n with disc := d } else s.slotReg m := by
  unfold setDisc
  split
  case isTrue h =>
    split
    · subst m d; rfl
    · rfl
  case isFalse => rw [(signal_frame _ _).slotReg (by decide), State.modSlot_slotReg]

theorem setDisc_link (n : Nat) (d : Disc) (s : State) (m : Nat) : (setDisc n d s).link m = s.link m := by
  unfold setDisc
  split
  · rfl
  · rw [(signal_frame _ _).link (by decide)]; rfl

theorem setDisc_frame (n : Nat) (d : Disc) (s : State) : ChangesOnly [.swc, .host, .out] s (setDisc n d s) :=
  setDisc_changes (.refl _ s) (List.Subset.refl _)

@[simp] theorem State.modLink_slotReg (n : Nat) (f : Link → Link) (s : State) (m : Nat) :
    (s.modLink n f).slotReg m = s.slotReg m := rfl

/-- A planned identity of a trunk is that of its plan. -/
theorem State.plannedIdent_of_trunkPlan {s : State} {n : Nat} {tp : TrunkPlan} (hn : 32 ≤ n) (h : s.trunkPlan n = some tp) :
    plannedIdent s.topology n = some tp.peer := by
  rw [State.trunkPlan, Option.map_eq_some_iff] at h
  obtain ⟨e, he, rfl⟩ := h
  simp [plannedIdent, Nat.not_lt.2 hn, he]

/-! ## The end of a discovery (R45) -/

/-- The state in which a discovery ends. -/
def discEnd (good : Bool) : Disc := if good then .active else .quarantined

/-- A discovery of port `n` has ended: `u` differs from `s` in that port's state and in what is recorded of it. -/
structure DiscoveryEnded (n : Nat) (d : Disc) (s u : State) : Prop where
  disc    : (u.slotReg n).disc = d
  proofOk : (u.link n).proofOk = (d == .active)
  discBad : (u.link n).discBad = (d != .active)
  logged  : d = .quarantined → ∃ r ∈ u.attic.openRecs, r.source = 0x0108 ∧ r.unit = n
  others  : ∀ m, m ≠ n → u.slotReg m = s.slotReg m ∧ u.link m = s.link m
  lnk     : u.lnk = s.lnk
  rte     : u.rte = s.rte

/-- Record 0x0108 is of class CE. -/
theorem logDiscovery_noted (n access planned presented : Nat) (s : State) :
    FaultNoted { source := 0x0108, unit := n, cls := 1, access := access
                 addr := (planned % 2 ^ 20) * 2 ^ 32 + presented % 2 ^ 20 } s (logDiscovery n access planned presented s) :=
  recordFault_of_not_ft (show 1 ≠ 3 by decide) s

/-- The port's outcome is marked on its link, what is due is recorded, then its state changes. -/
theorem DiscoveryEnded.of_marked {n : Nat} {good : Bool} {s v : State}
    (h : ChangesOnly [.flt, .attic, .bel, .bln, .host, .out] (s.modLink n (fun l => { l with proofOk := good, discBad := !good })) v)
    (logged : good = false → ∃ r ∈ v.attic.openRecs, r.source = 0x0108 ∧ r.unit = n) :
    DiscoveryEnded n (discEnd good) s (setDisc n (discEnd good) v) := by
  have frame := setDisc_frame n (discEnd good) v
  have link (m : Nat) : (setDisc n (discEnd good) v).link m =
      if m = n then { s.link n with proofOk := good, discBad := !good } else s.link m := by
    rw [setDisc_link, h.link (by decide), State.modLink_link]
  refine ⟨by simp [setDisc_slotReg], ?_, ?_, fun hd => ?_, fun m hm => ⟨?_, by simp [link, hm]⟩, ?_, ?_⟩
  · rw [link, if_pos rfl]
    cases good <;> rfl
  · rw [link, if_pos rfl]
    cases good <;> rfl
  · rw [frame .attic (by decide)]
    exact logged (by cases good; rfl; exact absurd hd nofun)
  · rw [setDisc_slotReg, if_neg hm, h.slotReg (by decide)]
    rfl
  · rw [frame .lnk (by decide), h .lnk (by decide)]
    rfl
  · rw [frame .rte (by decide), h .rte (by decide)]
    rfl

/-- A discovery ends ACTIVE only on a planned port; QUARANTINED is recorded as 0x0108. -/
theorem endDiscovery_ended {n : Nat} {good : Bool} {s : State} (h : good = true → (plannedIdent s.topology n).isSome = true) :
    ∃ u, endDiscovery n good s = settleCore (updateLost u) ∧ DiscoveryEnded n (discEnd good) s u := by
  cases good
  case true => exact ⟨_, if_pos (h rfl), .of_marked (.refl _ _) nofun⟩
  case false =>
    unfold endDiscovery
    dsimp only
    rw [Bool.false_and, if_neg Bool.false_ne_true]
    exact ⟨_, rfl, .of_marked (good := false) (logDiscovery_noted ..).frame fun _ => (logDiscovery_noted ..).opened⟩

/-- A command that ends discovery in a state that has the rest in common with the one it met. -/
theorem discovery_ends {c : Instr} {n : Nat} {good : Bool} {d : Disc} {s t : State}
    (ends : exec c s = .next (endDiscovery n good t)) (hd : d = discEnd good)
    (planned : good = true → (plannedIdent s.topology n).isSome = true) (topology : t.topology = s.topology)
    (others : ∀ m, m ≠ n → t.slotReg m = s.slotReg m ∧ t.link m = s.link m) (lnk : t.lnk = s.lnk) (rte : t.rte = s.rte) :
    ∃ u, exec c s = .next (settleCore (updateLost u)) ∧
      (u.slotReg n).disc = d ∧ (u.link n).proofOk = (d == .active) ∧ (u.link n).discBad = (d != .active) ∧
      (d = .quarantined → ∃ r ∈ u.attic.openRecs, r.source = 0x0108 ∧ r.unit = n) ∧
      (∀ m, m ≠ n → u.slotReg m = s.slotReg m ∧ u.link m = s.link m) ∧ u.lnk = s.lnk ∧ u.rte = s.rte := by
  obtain ⟨u, hu, e⟩ := endDiscovery_ended (topology.symm ▸ planned)
  subst hd
  exact ⟨u, by rw [ends, hu], e.disc, e.proofOk, e.discBad, e.logged,
    fun m hm => ⟨(e.others m hm).1.trans (others m hm).1, (e.others m hm).2.trans (others m hm).2⟩,
    e.lnk.trans lnk, e.rte.trans rte⟩

/-! ## DISCOVER, PROOF and the two timeouts -/

/-- A packet for a port that discovers, outside the fatal state, is looked at. -/
theorem takeInbox_looked {n : Nat} {p : Packet} {s : State} (hd : s.discovering n = true) (hf : s.flt.fatal = none) :
    ¬ (!(takeInbox p s).discovering n || (takeInbox p s).isFatal) = true := by
  have discovering : (takeInbox p s).discovering n = s.discovering n := rfl
  have fatal : (takeInbox p s).isFatal = s.flt.fatal.isSome := rfl
  simp [discovering, fatal, hd, hf]

/-- What a DISCOVER writes of its port: the peer's PORT and IDENT, and the packet's body for PROOF. -/
def heardDiscover (n : Nat) (p : Packet) (s : State) : State :=
  ((takeInbox p s).modSlot n (fun r => { r with
      peerPort := BitVec.ofNat 6 (beAt p.payload 1 1), peerIdent := BitVec.ofNat 20 (beAt p.payload 4 4) })).modLink n
    (fun l => { l with gotDisc := some (beAt p.payload 1 1, beAt p.payload 4 4, p.payload) })

/-- The state in which this device's PROOF waits for its port. -/
def sentProof (n : Nat) (p : Packet) (s : State) : State :=
  let u := heardDiscover n p s
  sendDiscovery n 2 (slice (mldsaSign u.seed (slice p.payload 8 32 ++ (u.discoverBody n []).take 8) (u.drawBytes 32).1) 0 3309)
    (u.drawBytes 32).2

section
variable {n : Nat} {p : Packet} {s : State}

/-- The DISCOVER that a port expects: 40 bytes, and KIND 2 on an endpoint port, 1 on a trunk (Table 2-5). -/
def expectsDiscover (n : Nat) (p : Packet) : Prop := p.len = 40 ∧ beAt p.payload 0 1 = if n < 32 then 2 else 1

theorem expectsDiscover_iff :
    (p.len.toNat == 40 && beAt p.payload 0 1 == (if n < 32 then 2 else 1)) = true ↔ expectsDiscover n p := by
  simp [expectsDiscover, ← BitVec.toNat_inj]

theorem heardDiscover_frame (n : Nat) (p : Packet) (s : State) : ChangesOnly [.swc, .inbox] s (heardDiscover n p s) :=
  ((takeInbox_changes (.refl _ s) (by decide)).modSlot _ _ (by decide)).modLink _ _ (by decide)

theorem heardDiscover_slotReg (n : Nat) (p : Packet) (s : State) (m : Nat) : (heardDiscover n p s).slotReg m =
    if m = n then { s.slotReg n with
      peerPort := BitVec.ofNat 6 (beAt p.payload 1 1), peerIdent := BitVec.ofNat 20 (beAt p.payload 4 4) } else s.slotReg m := by
  rw [heardDiscover, State.modLink_slotReg, State.modSlot_slotReg]
  rfl

theorem heardDiscover_link (n : Nat) (p : Packet) (s : State) (m : Nat) : (heardDiscover n p s).link m =
    if m = n then { s.link n with gotDisc := some (beAt p.payload 1 1, beAt p.payload 4 4, p.payload) } else s.link m :=
  State.modLink_link n _ _ m

theorem sentProof_frame (n : Nat) (p : Packet) (s : State) : ChangesOnly [.swc, .inbox, .draws] s (sentProof n p s) :=
  sendDiscovery_changes (((heardDiscover_frame n p s).mono (by decide)).drawnBytes 32 (by decide)) (by decide)

theorem sentProof_slotReg (n : Nat) (p : Packet) (s : State) (m : Nat) :
    (sentProof n p s).slotReg m = (heardDiscover n p s).slotReg m := rfl

theorem sentProof_link (n : Nat) (p : Packet) (s : State) (m : Nat) :
    (sentProof n p s).link m = (heardDiscover n p s).link m := rfl

/-- A discovery packet waits for its own port, under its TYPE and LENGTH. -/
theorem sendDiscovery_queued (n ptype : Nat) (body : Bytes) (s : State) : ∃ w ∈ (sendDiscovery n ptype body s).swc.voq,
    w.eg = n ∧ w.p.ptype = BitVec.ofNat 8 ptype ∧ w.p.len = BitVec.ofNat 13 body.length :=
  ⟨_, List.mem_append_right _ (List.mem_singleton_self _), rfl, rfl, rfl⟩

/-- A PROOF of 3,309 bytes (Table 2-5). -/
theorem sentProof_queued (n : Nat) (p : Packet) (s : State) :
    ∃ w ∈ (sentProof n p s).swc.voq, w.eg = n ∧ w.p.ptype = 2 ∧ w.p.len = 3309 := by
  obtain ⟨w, hw, he, ht, hl⟩ := sendDiscovery_queued n 2 (slice (mldsaSign (heardDiscover n p s).seed
    (slice p.payload 8 32 ++ ((heardDiscover n p s).discoverBody n []).take 8) ((heardDiscover n p s).drawBytes 32).1) 0 3309)
    ((heardDiscover n p s).drawBytes 32).2
  exact ⟨w, hw, he, ht, by rw [hl, length_slice]; rfl⟩

section
variable (hd : s.discovering n = true) (hf : s.flt.fatal = none)
include hd hf

theorem discover_of_unexpected (h : ¬ expectsDiscover n p) :
    discover n p s = endDiscovery n false (heardDiscover n p s) := by
  have bad := (Bool.not_eq_true _).mp (mt expectsDiscover_iff.1 h)
  unfold discover
  rw [if_neg (takeInbox_looked hd hf)]
  dsimp only
  rw [bad]
  exact if_pos rfl

theorem discover_of_endpoint (h : expectsDiscover n p) (hn : n < 32) :
    discover n p s = endDiscovery n (plannedIdent s.topology n == some (beAt p.payload 4 4)) (heardDiscover n p s) := by
  have good := expectsDiscover_iff.2 h
  unfold discover
  rw [if_neg (takeInbox_looked hd hf)]
  dsimp only
  rw [good, if_neg (by decide)]
  exact if_pos hn

theorem discover_of_trunk (h : expectsDiscover n p) (hn : 32 ≤ n) :
    discover n p s = if (plannedIdent s.topology n).isSome then settleCore (sentProof n p s)
      else endDiscovery n false (settleCore (sentProof n p s)) := by
  have good := expectsDiscover_iff.2 h
  have settled := settleCore_changes (.refl _ (sentProof n p s)) (List.Subset.refl _)
  have planned : (settleCore (sentProof n p s)).topology = s.topology :=
    (settled.topology (by decide)).trans ((sentProof_frame n p s).topology (by decide))
  rw [← planned]
  unfold discover
  rw [if_neg (takeInbox_looked hd hf)]
  dsimp only
  rw [good, if_neg (by decide), if_neg (Nat.not_lt.2 hn)]
  rfl

/-- A PROOF on a planned trunk that has heard its peer decides the discovery by the signature and the peer's place. -/
theorem proof_of_heard {port ident : Nat} {raw : Bytes} {tp : TrunkPlan} (hn : 32 ≤ n)
    (hg : (s.link n).gotDisc = some (port, ident, raw)) (ht : s.trunkPlan n = some tp) :
    proof n p s = endDiscovery n (p.len.toNat == 3309 && mldsaVerify tp.key ((s.link n).nonce ++ raw.take 8) p.payload &&
      ident == tp.peer && port == tp.port) (takeInbox p s) := by
  have heard : ((takeInbox p s).link n).gotDisc = some (port, ident, raw) := hg
  have plan : (takeInbox p s).trunkPlan n = some tp := ht
  have looked := takeInbox_looked (p := p) hd hf
  unfold proof
  rw [if_neg (by simp_all [Nat.not_lt.2 hn])]
  simp only [heard, plan]
  rfl

theorem discoveryTimeout_of_discovering : discoveryTimeout n s = endDiscovery n false s := by
  simp [discoveryTimeout, hd, State.isFatal, hf]

end

end

/-- Nothing has trained on a planned port: it becomes ABSENT, after the record 0x0108. -/
theorem absentTimeout_of_untrained {n : Nat} {s : State} (hf : s.flt.fatal = none) (hu : (s.optPort n).tstate ≠ .up)
    (hp : (plannedIdent s.topology n).isSome = true) (hd : (s.slotReg n).disc = .discovering) :
    absentTimeout n s = setDisc n .absent (logDiscovery n 0x0B ((plannedIdent s.topology n).getD 0) 0 s) := by
  simp [absentTimeout, State.isUp, hu, hp, hd, State.isFatal, hf]

end Sys2Proof.Machine
end

section
open Sys2Proof Sys2Proof.Machine

/-- Settles O40: each way in which discovery ends is `endDiscovery`, which marks the port, records a refusal, and leaves the
rest; a planned trunk that is heard sends its PROOF and goes on. -/
theorem discoveryDecidesThePort : Obligations.DiscoveryDecidesThePort := by
  unfold Obligations.DiscoveryDecidesThePort
  intro n s hn hf
  dsimp only
  have discovers {p : Packet} (hw : Wf.packet p = true) : exec (.discover n p) s = .next (discover n p s) := by
    simp [exec, execDiscover, need, Wf.port, hn, hw]
  refine ⟨fun hd => ⟨fun p hw => ?_, ?_, fun p port ident raw tp hge hw hg ht => ?_⟩, fun hu hp hdisc => ?_⟩
  · have frame := heardDiscover_frame n p s
    have others (m : Nat) (hm : m ≠ n) : (heardDiscover n p s).slotReg m = s.slotReg m ∧ (heardDiscover n p s).link m = s.link m := by
      rw [heardDiscover_slotReg, heardDiscover_link, if_neg hm, if_neg hm]
      exact ⟨rfl, rfl⟩
    refine ⟨fun hx => ?_, fun hl hlt hk => ?_, fun hl hge hk hp => ?_, fun hl hge hk hp => ?_⟩
    · refine discovery_ends (t := heardDiscover n p s) ?_ (good := false) rfl nofun (frame.topology (by decide)) others
        (frame .lnk (by decide)) (frame .rte (by decide))
      rw [discovers hw, discover_of_unexpected hd hf hx]
    · refine discovery_ends (t := heardDiscover n p s) ?_ (good := plannedIdent s.topology n == some (beAt p.payload 4 4))
        ?_ ?_ (frame.topology (by decide)) others (frame .lnk (by decide)) (frame .rte (by decide))
      · rw [discovers hw, discover_of_endpoint hd hf ⟨hl, by rw [hk, if_pos hlt]⟩ hlt]
      · simp [discEnd]
      · intro h
        rw [beq_iff_eq.1 h]
        rfl
    · refine ⟨sentProof n p s, ?_, ?_, ?_, sentProof_queued n p s, sentProof_frame n p s⟩
      · rw [discovers hw, discover_of_trunk hd hf ⟨hl, by rw [hk, if_neg (by omega)]⟩ hge, if_pos hp]
      · rw [sentProof_slotReg, heardDiscover_slotReg, if_pos rfl]
      · rw [sentProof_link, heardDiscover_link, if_pos rfl]
    · refine ⟨sentProof n p s, ?_, sentProof_queued n p s, sentProof_frame n p s⟩
      rw [discovers hw, discover_of_trunk hd hf ⟨hl, by rw [hk, if_neg (by omega)]⟩ hge, if_neg (by simp [hp])]
  · refine discovery_ends (t := s) ?_ (good := false) rfl nofun rfl (fun _ _ => ⟨rfl, rfl⟩) rfl rfl
    simp [exec, execDiscoveryTimeout, need, Wf.port, hn, discoveryTimeout_of_discovering hd hf]
  · have runs : exec (.proof n p) s = .next (proof n p s) := by simp [exec, execProof, need, Wf.port, hn, hw]
    rw [proof_of_heard hd hf hge hg ht] at runs
    refine discovery_ends runs ?_ (fun _ => ?_) rfl (fun _ _ => ⟨rfl, rfl⟩) rfl rfl
    · simp [discEnd, ← BitVec.toNat_inj, and_assoc]
    · rw [State.plannedIdent_of_trunkPlan hge ht]
      rfl
  · have logged := logDiscovery_noted n 0x0B ((plannedIdent s.topology n).getD 0) 0 s
    have frame := setDisc_frame n .absent (logDiscovery n 0x0B ((plannedIdent s.topology n).getD 0) 0 s)
    refine ⟨absentTimeout n s, by simp [exec, execAbsentTimeout, need, Wf.port, hn], ?_⟩
    rw [absentTimeout_of_untrained hf hu hp hdisc]
    refine ⟨?_, fun m hm => ?_, ?_, ?_, (logged.frame.mono (by decide)).step frame (by decide)⟩
    · rw [setDisc_slotReg, if_pos rfl, logged.frame.slotReg (by decide)]
    · rw [setDisc_slotReg, if_neg hm, logged.frame.slotReg (by decide)]
    · rw [frame .attic (by decide)]
      exact logged.opened
    · rw [frame .fatal (by decide), logged.frame .fatal (by decide), hf]

end

section
/-! SUPPORT. Writes to a stack whose words are all good (R214): they raise no fault, leave every word good, and are read
back. -/

namespace Sys2Proof.Machine

/-- What a write of stack bytes leaves where no word was bad: `put` gives the bytes it wrote. -/
structure CellsWritten (put : Nat → Option Byte) (s t : State) : Prop where
  frame  : ChangesOnly [.cel, .mem] s t
  tracts : ∀ v, t.tract v = s.tract v
  bad    : t.cel.bad = []
  soft   : t.cel.soft = []
  read   : ∀ x, Memory.read t.cel.mem x = (put x).getD (Memory.read s.cel.mem x)

theorem CellsWritten.none {s : State} (hb : s.cel.bad = []) (hs : s.cel.soft = []) : CellsWritten (fun _ => none) s s :=
  ⟨.refl _ s, fun _ => rfl, hb, hs, fun _ => rfl⟩

theorem CellsWritten.trans {p q r : Nat → Option Byte} {s t u : State} (h : CellsWritten p s t) (g : CellsWritten q t u)
    (hr : ∀ x, r x = (q x).or (p x)) : CellsWritten r s u where
  frame := h.frame.trans g.frame
  tracts v := (g.tracts v).trans (h.tracts v)
  bad := g.bad
  soft := g.soft
  read x := by
    rw [g.read, h.read, hr]
    cases q x <;> rfl

/-- The words of the code that stay are those whose bytes stay. -/
theorem Cel.good_of_fresh {c e : Cel} {w : Nat} (hb : c.bad = []) (hs : c.soft = []) (hc : e.check = Tab.drop w c.check)
    (hu : e.ue = c.ue.filter (· != w)) (hm : ∀ x, x / 32 ≠ w → Memory.read e.mem x = Memory.read c.mem x) :
    e.bad = [] ∧ e.soft = [] := by
  have verdict (v : Nat) (hv : v ≠ w) : e.verdict v = c.verdict v := by
    have bytes : Memory.readN e.mem (v * 32) 32 = Memory.readN c.mem (v * 32) 32 :=
      List.map_congr_left fun i hi => hm _ (by have := List.mem_range.1 hi; omega)
    rw [Cel.verdict, hc, Tab.look_drop, if_neg hv, bytes, Cel.verdict]
  have fresh : e.verdict w = .clean := by
    rw [Cel.verdict, hc, Tab.look_drop, if_pos rfl]
  have listed {v : Nat} (hv : v ∈ e.check.map (·.1)) : v ∈ c.check.map (·.1) := by
    obtain ⟨x, hx, rfl⟩ := List.mem_map.1 hv
    exact List.mem_map.2 ⟨x, Tab.mem_drop (hc ▸ hx), rfl⟩
  simp only [Cel.bad, Cel.soft, List.append_eq_nil_iff, List.filter_eq_nil_iff] at hb hs ⊢
  obtain ⟨hue, hbad⟩ := hb
  have ue : e.ue = [] := by rw [hu, hue]; rfl
  refine ⟨⟨ue, fun v hv => ?_⟩, fun v hv => ?_⟩
  · by_cases h : v = w
    · subst h; simp [fresh]
    · rw [verdict v h]; exact hbad v (listed hv)
  · by_cases h : v = w
    · subst h; simp [fresh]
    · rw [verdict v h, ue, ← hue]; exact hs v (listed hv)

/-- The byte of a string that stands at an address, where the string is written from `a` on. -/
def byteAt (a : Nat) (data : Bytes) (x : Nat) : Option Byte := if a ≤ x then data[x - a]? else none

/-- Where the part of a range that lies in a word begins, and the bytes of that part. -/
def partLow (a w : Nat) : Nat := max a (w * 32)
def partBytes (a : Nat) (data : Bytes) (w : Nat) : Bytes :=
  slice data (partLow a w - a) (min (a + data.length) (w * 32 + 32) - partLow a w)

/-- The part is read back in its word, and every other byte stays. -/
theorem read_writePart (m : Memory) (a : Nat) (data : Bytes) (w x : Nat) :
    Memory.read (Memory.writeN m (partLow a w) (partBytes a data w)) x =
      (if x / 32 = w then byteAt a data x else none).getD (Memory.read m x) := by
  have len : (partBytes a data w).length = min (a + data.length) (w * 32 + 32) - partLow a w := length_slice ..
  rw [Memory.read_writeN, len]
  unfold byteAt
  by_cases h : partLow a w ≤ x ∧ x < partLow a w + (min (a + data.length) (w * 32 + 32) - partLow a w)
  · rw [if_pos h]
    unfold partBytes
    unfold partLow at h ⊢
    rw [if_pos (by omega), if_pos (by omega), slice_of_le _ _ _ (by omega), List.getD_eq_getElem?_getD,
      List.getElem?_take_of_lt (by omega), List.getElem?_drop,
      show max a (w * 32) - a + (x - max a (w * 32)) = x - a by omega, List.getElem?_eq_getElem (by omega)]
    rfl
  · rw [if_neg h]
    unfold partLow at h
    split
    · split
      · rw [List.getElem?_eq_none (by omega)]
        rfl
      · rfl
    · rfl

/-- An update of the stacks is what it makes of them. -/
theorem State.modCel_congr {s : State} {f g : Cel → Cel} (h : f s.cel = g s.cel) : s.modCel f = s.modCel g := by
  rw [State.modCel, h, State.modCel]

theorem mem_wordsOf {t off n x : Nat} (h : cellarAddr t off ≤ x) (h' : x < cellarAddr t off + n) :
    x / 32 ∈ wordsOf t off n := by
  unfold wordsOf
  generalize cellarAddr t off = a at h h'
  rw [if_neg (by omega)]
  refine List.mem_map.2 ⟨x / 32 - a / 32, List.mem_range.2 ?_, ?_⟩ <;> omega

section
variable {s : State} (ha : s.flt.armed = none) (hb : s.cel.bad = []) (hs : s.cel.soft = [])
include ha hb hs

omit ha in
/-- A word that takes new bytes is good again, and the others stay. -/
theorem freshWord_written {w : Nat} {m : Memory} {put : Nat → Option Byte}
    (hr : ∀ x, Memory.read m x = (if x / 32 = w then put x else none).getD (Memory.read s.cel.mem x)) :
    CellsWritten (fun x => if x / 32 = w then put x else none) s (freshWord w (s.modCel (fun c => { c with mem := m }))) := by
  obtain ⟨bad, soft⟩ := Cel.good_of_fresh (w := w) hb hs (e := (freshWord w (s.modCel (fun c => { c with mem := m }))).cel)
    rfl rfl fun x hx => by
      refine (hr x).trans ?_
      rw [if_neg hx]
      rfl
  exact ⟨((ChangesOnly.refl _ s).modCel _ (by decide) (.inr (by decide))).modCel _ (by decide) (.inl rfl), fun _ => rfl,
    bad, soft, hr⟩

/-- Where no word is bad and no injection armed, a word's part of a range is stored as it is. -/
theorem writeWord_of_good (t off : Nat) (data : Bytes) (w : Nat) : writeWord t off data w s =
    freshWord w (s.modCel (fun c =>
      { c with mem := Memory.writeN s.cel.mem (partLow (cellarAddr t off) w) (partBytes (cellarAddr t off) data w) })) := by
  have unarmed (u : State) (hu : u.flt = s.flt) : eccInjection t w u = u := by
    simp [eccInjection, State.armedFor, hu, ha]
  unfold writeWord partBytes partLow
  dsimp only
  rw [hb, hs, List.contains_nil, Bool.and_false, if_neg Bool.false_ne_true, if_neg Bool.false_ne_true, unarmed]
  · exact congrArg (freshWord w) (State.modCel_congr rfl)
  · rw [freshWord, State.modCel_flt, State.modCel_flt]

theorem writeWord_written (t off : Nat) (data : Bytes) (w : Nat) :
    CellsWritten (fun x => if x / 32 = w then byteAt (cellarAddr t off) data x else none) s (writeWord t off data w s) := by
  rw [writeWord_of_good ha hb hs]
  exact freshWord_written hb hs (read_writePart _ _ _ _)

/-- Words written one after another. -/
theorem writeWords_written (t off : Nat) (data : Bytes) (ws : List Nat) :
    CellsWritten (fun x => if x / 32 ∈ ws then byteAt (cellarAddr t off) data x else none) s
      (ws.foldl (fun u w => writeWord t off data w u) s) := by
  induction ws generalizing s with
  | nil => simpa using CellsWritten.none hb hs
  | cons w r ih =>
    have first := writeWord_written ha hb hs t off data w
    have armed : (writeWord t off data w s).flt.armed = none := by
      rw [first.frame.flt_eq (by decide) (by decide), ha]
    refine first.trans (ih armed first.bad first.soft) fun x => ?_
    simp only [List.mem_cons]
    by_cases hr : x / 32 ∈ r
    · cases hput : byteAt (cellarAddr t off) data x <;> simp [hr]
    · simp [hr]

/-- A string written to an unfenced Tract outside the fatal state stands there, and nothing else changes. -/
theorem cellWrite_written (hf : s.flt.fatal = none) {t : Nat} (ht : (s.tract t).fenced = false) (off : Nat) (data : Bytes) :
    CellsWritten (byteAt (cellarAddr t off) data) s (cellWrite t off data s) := by
  have put : (fun x => if x / 32 ∈ wordsOf t off data.length then byteAt (cellarAddr t off) data x else none) =
      byteAt (cellarAddr t off) data := by
    funext x
    split
    case isTrue => rfl
    case isFalse hx =>
      unfold byteAt
      split
      · by_contra hne
        have hlt : x - cellarAddr t off < data.length := by
          by_contra h
          exact hne (List.getElem?_eq_none (by omega)).symm
        exact hx (mem_wordsOf (by assumption) (by omega))
      · rfl
  have h := writeWords_written ha hb hs t off data (wordsOf t off data.length)
  rw [put] at h
  unfold cellWrite
  rwa [if_neg (by simp [State.isFatal, hf, ht])]

end

/-! ## One string for each Tract -/

theorem byteAt_self (a j : Nat) (data : Bytes) : byteAt a data (a + j) = data[j]? := by
  simp [byteAt]

/-- Strings at one offset of different Tracts keep apart. -/
theorem byteAt_of_ne {t v off j : Nat} {data : Bytes} (h : t ≠ v) (hd : off + data.length ≤ 2 ^ 36) (hj : off + j < 2 ^ 36) :
    byteAt (cellarAddr v off) data (cellarAddr t off + j) = none := by
  unfold byteAt cellarAddr
  split
  · refine List.getElem?_eq_none ?_
    rcases Nat.lt_or_gt_of_ne h with h | h <;> omega
  · rfl

/-- Strings written at one offset of several Tracts, one Tract after another, stand there in those that are not fenced. -/
theorem cellWrites_written {s : State} (ha : s.flt.armed = none) (hf : s.flt.fatal = none) (hb : s.cel.bad = [])
    (hs : s.cel.soft = []) (off : Nat) (d : Nat → Bytes) (l : List Nat)
    (hd : ∀ t ∈ l, off + (d t).length ≤ 2 ^ 36) :
    let u := l.foldl (fun x t => cellWrite t off (d t) x) s
    ChangesOnly [.cel, .mem] s u ∧ ∀ t j, off + j < 2 ^ 36 → Memory.read u.cel.mem (cellarAddr t off + j) =
      (if t ∈ l ∧ (s.tract t).fenced = false then (d t)[j]? else none).getD (Memory.read s.cel.mem (cellarAddr t off + j)) := by
  induction l generalizing s with
  | nil => exact ⟨.refl _ s, fun t j hj => by simp⟩
  | cons v r ih =>
    obtain ⟨put, hput, first⟩ : ∃ put, (∀ x, put x = if (s.tract v).fenced then none else byteAt (cellarAddr v off) (d v) x) ∧
        CellsWritten put s (cellWrite v off (d v) s) := by
      refine ⟨_, fun x => rfl, ?_⟩
      cases hv : (s.tract v).fenced
      case false =>
        simp only [Bool.false_eq_true, if_false]
        exact cellWrite_written ha hb hs hf hv off (d v)
      case true =>
        have kept : cellWrite v off (d v) s = s := by rw [cellWrite, hv, Bool.or_true, if_pos rfl]
        simp only [if_true]
        rw [kept]
        exact .none hb hs
    have hflt := first.frame.flt_eq (by decide) (by decide)
    obtain ⟨frame, read⟩ := ih (s := cellWrite v off (d v) s) (by rw [hflt, ha]) (by rw [hflt, hf]) first.bad first.soft
      fun t ht => hd t (List.mem_cons_of_mem v ht)
    refine ⟨first.frame.trans frame, fun t j hj => ?_⟩
    rw [List.foldl_cons, read t j hj, first.read, hput, first.tracts]
    by_cases htv : t = v
    · subst htv
      rw [byteAt_self]
      cases hv : (s.tract t).fenced
      case true => simp
      case false => by_cases hr : t ∈ r <;> cases (d t)[j]? <;> simp [hr]
    · rw [byteAt_of_ne htv (hd v List.mem_cons_self) hj]
      simp [htv]

end Sys2Proof.Machine
end

section
/-! SUPPORT. Checkpoints (R311 to R314, Table 12-8): what each command of a checkpoint leaves, by the count rules of R72
and the conditions of a SAVE. -/

namespace Sys2Proof.Machine

/-! ## What a frame says of whole blocks -/

theorem ChangesOnly.img_eq {ps : List Part} {s t : State} (h : ChangesOnly ps s t) (m : Part.img ∉ ps) (b : Part.buf ∉ ps) :
    t.img = s.img := by
  have rest := h .img m
  have buf := h .buf b
  simp only [Agree] at rest buf
  cases ht : t.img; cases hs : s.img
  simp_all

theorem ChangesOnly.cel_eq {ps : List Part} {s t : State} (h : ChangesOnly ps s t) (m : Part.cel ∉ ps) (b : Part.mem ∉ ps) :
    t.cel = s.cel := by
  have rest := h .cel m
  have mem := h .mem b
  simp only [Agree] at rest mem
  cases ht : t.cel; cases hs : s.cel
  simp_all

theorem ChangesOnly.bel_eq {ps : List Part} {s t : State} (h : ChangesOnly ps s t) (m : Part.bel ∉ ps) (b : Part.gt ∉ ps) :
    t.bel = s.bel := by
  have rest := h .bel m
  have gt := h .gt b
  simp only [Agree] at rest gt
  cases ht : t.bel; cases hs : s.bel
  simp_all

theorem advanceTo_frame (l : Nat) (s : State) : ChangesOnly timeParts s (advanceTo l s) :=
  advanceTo_changes (.refl _ s) (by decide)

theorem advanceTo_img (l : Nat) (s : State) : (advanceTo l s).img = s.img :=
  (advanceTo_frame l s).img_eq (by decide) (by decide)

theorem State.fieldBody_congr {s t : State} (h : t.img = s.img) : t.fieldBody = s.fieldBody := by
  rw [State.fieldBody, h, State.fieldBody]

/-! ## IMG_CKPT_STATUS -/

/-- The image loader acts from STAGE 3 on, outside the fatal state (R380). -/
theorem onLoader_of_ready {s : State} (hf : s.flt.fatal = none) (hs : 3 ≤ s.glb.stage) (f : State → State) :
    onLoader f s = f s := by
  rw [onLoader, if_neg (by simp [State.isFatal, hf]; omega), if_neg (by omega)]

theorem setCkpt_frame (st code : Nat) (s : State) : ChangesOnly [.img, .host, .out] s (setCkpt st code s) :=
  setCkpt_changes (.refl _ s) (List.Subset.refl _)

theorem signal_img (v : Nat) (s : State) : (signal v s).img = s.img :=
  (signal_frame v s).img_eq (by decide) (by decide)

@[simp] theorem setCkpt_img (st code : Nat) (s : State) :
    (setCkpt st code s).img = { s.img with ckptState := st, ckptCode := code } := by
  rw [setCkpt, signal_img, State.modImg_img]

theorem State.ckptPending_iff (s : State) :
    s.ckptPending = true ↔ s.img.ckptState = 1 ∨ s.img.ckptState = 2 ∨ s.img.ckptState = 5 := by
  simp [State.ckptPending, or_assoc]

/-- The count rules of R72 by the two states in which the Bell counts. -/
theorem countFail_eq (s : State) (tick count : Nat) : countFail s tick count =
    if count % tick ≠ 0 then some 1 else if count < s.bel.gt + 2 * tick then some 2
    else if s.bel.state = .locked ∨ s.bel.state = .holdover then none else some 3 := by
  unfold countFail
  cases s.bel.state <;> simp

theorem countFail_code {s : State} {tick count c : Nat} (h : countFail s tick count = some c) : c = 1 ∨ c = 2 ∨ c = 3 := by
  unfold countFail at h
  split_ifs at h <;> simp_all

/-- The count that software wrote to IMG_CKPT. -/
def State.ckptCount (s : State) : Nat := pairCount s.img.ckptLo s.img.ckptHi

/-- IMG_CKPT_STATUS shows a STATE and CODE and the count that the request was armed for. -/
structure CkptShown (st code count : Nat) (s u : State) : Prop where
  img   : u.img = { s.img with ckptState := st, ckptCode := code, ckptAt := count }
  frame : ChangesOnly [.img, .host, .out] s u

theorem setCkpt_shown (st code : Nat) (s : State) : CkptShown st code s.img.ckptAt s (setCkpt st code s) :=
  ⟨setCkpt_img st code s, setCkpt_frame st code s⟩

/-- The definition is unfolded before it is applied: its equation would make the kernel evaluate the count, whose factor
2^32 it unfolds in unary. -/
theorem armCkpt_eq (st : Nat) (s : State) : armCkpt st s = (countFail s s.tickLen s.ckptCount).elim
    (setCkpt st 0 (s.modImg (fun i => { i with ckptAt := s.ckptCount }))) (fun c => setCkpt 4 c s) := by
  have body : armCkpt = armCkpt := rfl
  conv at body => rhs; delta armCkpt
  rw [body, State.ckptCount]
  dsimp only
  generalize countFail s s.tickLen (pairCount s.img.ckptLo s.img.ckptHi) = r
  cases r <;> rfl

theorem armCkpt_of_fail {s : State} {c : Nat} (h : countFail s s.tickLen s.ckptCount = some c) (st : Nat) :
    CkptShown 4 c s.img.ckptAt s (armCkpt st s) := by
  rw [armCkpt_eq, h]
  exact setCkpt_shown 4 c s

theorem armCkpt_of_pass {s : State} (h : countFail s s.tickLen s.ckptCount = none) (st : Nat) :
    CkptShown st 0 s.ckptCount s (armCkpt st s) := by
  rw [armCkpt_eq, h]
  exact ⟨setCkpt_img _ _ _, setCkpt_changes ((ChangesOnly.refl _ s).modImg _ (by decide) (.inl rfl)) (by decide)⟩

/-! ## SAVE at its mark (R313) -/

/-- Marks of the Field's run up to `m`. -/
def State.runsAt (s : State) (m : Nat) : Nat :=
  if s.crf.paused then s.crf.runs else s.crf.runsBase + (m - s.crf.launchGt) / s.tickLen

/-- The Crofts of each Tract in a repair quiesce are behind by the marks it has kept (R220). -/
def State.quietBehind (s : State) : State :=
  ((List.range 32).filter (fun t => (s.tract t).quiesce)).foldl (fun x t => fallBehind t (s.keptMarks t) x) s

theorem State.quietBehind_frame (s : State) : ChangesOnly [.crf] s s.quietBehind :=
  ChangesOnly.foldl _ (.refl _ s) fun _ _ h => fallBehind_changes h (List.Subset.refl _)

theorem State.quietBehind_of_none {s : State} (h : ∀ t, t < 32 → (s.tract t).quiesce = false) : s.quietBehind = s := by
  have none : (List.range 32).filter (fun t => (s.tract t).quiesce) = [] :=
    List.filter_eq_nil_iff.2 fun t ht => by simp [h t (List.mem_range.1 ht)]
  rw [State.quietBehind, none]
  rfl

theorem SlotData.length_bytes (d : SlotData) : d.bytes.length = 65536 + d.records.length + d.scales.length := by
  have pad (n : Nat) (b : Bytes) : (padTo n b).length = n := by simp [padTo]; omega
  simp only [SlotData.bytes, List.length_append, pad]

/-- A SAVE whose conditions hold has slots that fit. -/
theorem State.saveFail_fits {s : State} {f : Nat} {d : Nat → SlotData} (h : s.saveFail f d = none) {t : Nat} (ht : t < 32) :
    slotOff + (d t).bytes.length ≤ 2 ^ 36 := by
  unfold State.saveFail at h
  dsimp only at h
  split_ifs at h with _ _ _ _ hfit
  have fits : (d t).fits = true := by
    simp only [Bool.not_eq_true, Bool.not_eq_false', List.all_eq_true, List.mem_range] at hfit
    exact hfit t ht
  rw [SlotData.length_bytes]
  have room := of_decide_eq_true fits
  unfold slotBytes at room
  unfold slotOff
  omega

section
variable {s : State} {f : Nat} {b : FieldBody} {i : Image} (hf : s.flt.fatal = none) (hst : s.img.ckptState = 1)
  (hb : s.fieldBody = some (f, b)) (hi : s.img.fieldImg = some i)

/-- The slot of each Tract at the mark of a SAVE, in a state whose quiesced Tracts have fallen behind. -/
def State.slotsAt (v : State) (f m : Nat) (i : Image) (t : Nat) : SlotData :=
  v.quietBehind.slotData f t m (v.runsAt m) i.pdigest

/-- The state that a SAVE whose conditions hold leaves before its STATE shows it. -/
def State.captured (v : State) (f m : Nat) (i : Image) : State :=
  ((List.range 32).foldl (fun x t => cellWrite t slotOff (v.slotsAt f m i t).bytes x) v.quietBehind).modCrf
    (fun c => { c with paused := true, runs := v.runsAt m })

include hf hst hb hi

theorem ckptCapture_of_fail {c : Nat}
    (h : (advanceTo s.img.ckptAt s).saveFail f ((advanceTo s.img.ckptAt s).slotsAt f s.img.ckptAt i) = some c) :
    ckptCapture s = setCkpt 4 c (advanceTo s.img.ckptAt s) := by
  have body : (advanceTo s.img.ckptAt s).fieldBody = some (f, b) := by
    rw [State.fieldBody_congr (advanceTo_img ..), hb]
  unfold ckptCapture
  rw [if_neg (by simp [State.isFatal, hf, hst])]
  dsimp only
  rw [body, advanceTo_img, hi]
  dsimp only
  have h' := h
  unfold State.slotsAt State.quietBehind State.runsAt at h'
  rw [h']

theorem ckptCapture_of_pass
    (h : (advanceTo s.img.ckptAt s).saveFail f ((advanceTo s.img.ckptAt s).slotsAt f s.img.ckptAt i) = none) :
    ckptCapture s = setCkpt 2 0 ((advanceTo s.img.ckptAt s).captured f s.img.ckptAt i) := by
  have body : (advanceTo s.img.ckptAt s).fieldBody = some (f, b) := by
    rw [State.fieldBody_congr (advanceTo_img ..), hb]
  unfold ckptCapture
  rw [if_neg (by simp [State.isFatal, hf, hst])]
  dsimp only
  rw [body, advanceTo_img, hi]
  dsimp only
  have h' := h
  unfold State.slotsAt State.quietBehind State.runsAt at h'
  rw [h']
  rfl

end

end Sys2Proof.Machine
end

section
/-! SUPPORT. What a SAVE whose conditions hold leaves at its mark (R313), how its slots end (R313) and how a resumed Field
starts (R314). -/

namespace Sys2Proof.Machine

/-! ## The slots of a SAVE -/

section
variable {v : State} {f m : Nat} {i : Image}

/-- What a SAVE leaves before its STATE shows it: the Field paused, its slots written in every Tract that is not fenced. -/
theorem State.captured_saved (hfat : v.flt.fatal = none) (harm : v.flt.armed = none) (hbad : v.cel.bad = [])
    (hsoft : v.cel.soft = []) (hd : v.saveFail f (v.slotsAt f m i) = none) :
    let u := v.captured f m i
    ChangesOnly [.cel, .mem, .crf] v u ∧ u.crf = { v.quietBehind.crf with paused := true, runs := v.runsAt m } ∧
      ∀ t, t < 32 → (v.tract t).fenced = false → ∀ j x, (v.slotsAt f m i t).bytes[j]? = some x →
        Memory.read u.cel.mem (cellarAddr t slotOff + j) = x := by
  have quiet := v.quietBehind_frame
  have flt : v.quietBehind.flt = v.flt := quiet.flt_eq (by decide) (by decide)
  have cel : v.quietBehind.cel = v.cel := quiet.cel_eq (by decide) (by decide)
  have fit (t : Nat) (ht : t ∈ List.range 32) : slotOff + (v.slotsAt f m i t).bytes.length ≤ 2 ^ 36 :=
    State.saveFail_fits hd (List.mem_range.1 ht)
  obtain ⟨written, read⟩ := cellWrites_written (by rw [flt, harm]) (by rw [flt, hfat]) (by rw [cel, hbad])
    (by rw [cel, hsoft]) slotOff (fun t => (v.slotsAt f m i t).bytes) (List.range 32) fit
  unfold State.captured
  refine ⟨((quiet.mono (by decide)).trans (written.mono (by decide))).modCrf _ (by decide), ?_, ?_⟩
  · rw [State.modCrf_crf, written .crf (by decide)]
  · intro t ht hfen j x hx
    have inside : slotOff + j < 2 ^ 36 := by
      have := fit t (List.mem_range.2 ht)
      have : j < (v.slotsAt f m i t).bytes.length := (List.getElem?_eq_some_iff.1 hx).1
      omega
    have fenced : (v.quietBehind.tract t).fenced = false := by
      rw [State.tract, cel, ← State.tract, hfen]
    rw [State.modCrf_cel, read t j inside, if_pos ⟨List.mem_range.2 ht, fenced⟩, hx]
    rfl

end

section
variable {s : State} {f : Nat} {b : FieldBody} {i : Image} (hf : s.flt.fatal = none) (hst : s.img.ckptState = 1)
  (hb : s.fieldBody = some (f, b)) (hi : s.img.fieldImg = some i)
include hf hst hb hi

theorem ckptCapture_fails {c : Nat}
    (h : (advanceTo s.img.ckptAt s).saveFail f ((advanceTo s.img.ckptAt s).slotsAt f s.img.ckptAt i) = some c) :
    let u := ckptCapture s
    u.img.ckptState = 4 ∧ u.img.ckptCode = c ∧ ChangesOnly ([.img, .host, .out] ++ timeParts) s u := by
  intro u
  have shown : u = setCkpt 4 c (advanceTo s.img.ckptAt s) := ckptCapture_of_fail hf hst hb hi h
  rw [shown, setCkpt_img]
  exact ⟨rfl, rfl, setCkpt_changes ((advanceTo_frame _ s).mono (by decide)) (by decide)⟩

theorem ckptCapture_saves
    (h : (advanceTo s.img.ckptAt s).saveFail f ((advanceTo s.img.ckptAt s).slotsAt f s.img.ckptAt i) = none)
    (harm : s.flt.armed = none) (hbad : s.cel.bad = []) (hsoft : s.cel.soft = []) :
    let u := ckptCapture s
    let v := advanceTo s.img.ckptAt s
    u.img.ckptState = 2 ∧ u.crf = { v.quietBehind.crf with paused := true, runs := v.runsAt s.img.ckptAt } ∧
      ((∀ t, t < 32 → (s.tract t).quiesce = false) → v.quietBehind.crf = s.crf) ∧
      (∀ t, t < 32 → (s.tract t).fenced = false → ∀ j x, (v.slotsAt f s.img.ckptAt i t).bytes[j]? = some x →
        Memory.read u.cel.mem (cellarAddr t slotOff + j) = x) ∧
      ChangesOnly ([.img, .mem, .cel, .crf, .host, .out] ++ timeParts) s u := by
  intro u v
  change v.saveFail f (v.slotsAt f s.img.ckptAt i) = none at h
  have time : ChangesOnly timeParts s v := advanceTo_frame _ s
  have flt : v.flt = s.flt := time.flt_eq (by decide) (by decide)
  have cel : v.cel = s.cel := time.cel_eq (by decide) (by decide)
  have tract (t : Nat) : v.tract t = s.tract t := by rw [State.tract, cel, State.tract]
  obtain ⟨frame, crf, bytes⟩ := State.captured_saved (i := i) (by rw [flt, hf]) (by rw [flt, harm]) (by rw [cel, hbad])
    (by rw [cel, hsoft]) h
  have shown : u = setCkpt 2 0 (v.captured f s.img.ckptAt i) := ckptCapture_of_pass hf hst hb hi h
  have last := setCkpt_frame 2 0 (v.captured f s.img.ckptAt i)
  have crf' : (setCkpt 2 0 (v.captured f s.img.ckptAt i)).crf = (v.captured f s.img.ckptAt i).crf := last .crf (by decide)
  have cel' : (setCkpt 2 0 (v.captured f s.img.ckptAt i)).cel = (v.captured f s.img.ckptAt i).cel :=
    last.cel_eq (by decide) (by decide)
  rw [shown]
  refine ⟨by rw [setCkpt_img], crf'.trans crf, fun quiet => ?_, fun t ht hfen => ?_,
    (time.mono (by decide)).trans ((frame.mono (by decide)).trans (last.mono (by decide)))⟩
  · rw [State.quietBehind_of_none fun t ht => by rw [tract, quiet t ht]]
    exact time .crf (by decide)
  · rw [cel']
    exact bytes t ht (by rw [tract, hfen])

end

/-! ## The end of a SAVE, and RESUME at its count -/

theorem slotsWritten_shown {s : State} (hf : s.flt.fatal = none) (hst : s.img.ckptState = 2) :
    (slotsWritten s).img.ckptState = 3 ∧ (slotsWritten s).img.ckptDone = true ∧ (slotsWritten s).img.captureUs ≤ 0xFFFF := by
  unfold slotsWritten
  rw [if_neg (by simp [State.isFatal, hf, hst])]
  simp only [setCkpt_img, State.modImg_img]
  exact ⟨trivial, trivial, Nat.min_le_left ..⟩

/-- What holds of the default and of every entry holds of what the table shows. -/
theorem Tab.look_of_all {α : Type} {P : α → Prop} {d : α} {t : Tab α} (hd : P d) (h : ∀ e ∈ t, P e.2) (k : Nat) :
    P (Tab.look d t k) := by
  induction t with
  | nil => exact hd
  | cons e r ih =>
    unfold Tab.look
    split
    · exact h e List.mem_cons_self
    · exact ih fun e' he => h e' (List.mem_cons_of_mem e he)

/-- Every Croft of a run that starts is at entry 0. -/
theorem startRun_entries (m runs : Nat) (s : State) (k : Nat) : ((startRun m runs s).croft k).entries = 0 := by
  refine Tab.look_of_all (P := fun c : Croft => c.entries = 0) rfl (fun e he => ?_) k
  obtain ⟨old, _, rfl⟩ := List.mem_map.1 (List.mem_of_mem_filter he)
  rfl

theorem resumeAtCount_started {s : State} (hf : s.flt.fatal = none) (hst : s.img.ckptState = 5) :
    let u := resumeAtCount s
    u.img.ckptState = 0 ∧ u.crf = (startRun s.img.ckptAt s.crf.runs (advanceTo s.img.ckptAt s)).crf ∧
      u.bel = (advanceTo s.img.ckptAt s).bel := by
  intro u
  have crf : (advanceTo s.img.ckptAt s).crf = s.crf := advanceTo_frame _ s .crf (by decide)
  have shown : u = setCkpt 0 0 (startRun s.img.ckptAt s.crf.runs (advanceTo s.img.ckptAt s)) := by
    rw [show u = resumeAtCount s from rfl, resumeAtCount, if_neg (by simp [State.isFatal, hf, hst])]
    dsimp only
    rw [advanceTo_img, crf]
  have last := setCkpt_frame 0 0 (startRun s.img.ckptAt s.crf.runs (advanceTo s.img.ckptAt s))
  rw [shown]
  exact ⟨by rw [setCkpt_img], last .crf (by decide), last.bel_eq (by decide) (by decide)⟩

end Sys2Proof.Machine
end

section
/-! SUPPORT. Launch requests (R72, R409, Table 16-8): the refusal of the first check that fails, and the request that is taken. -/

namespace Sys2Proof.Machine

/-- The GT that software wrote to BEL_LAUNCH. -/
def State.launchCount (s : State) : Nat := pairCount s.bel.launchLo s.bel.launchHi

/-- BEL_LAUNCH_CTL as a request writes it, before it is checked. -/
def State.requested (s : State) (f : Nat) : State :=
  s.modBel (fun b => { b with launchReg := BitVec.ofNat 6 f, launchField := f, launchAt := s.launchCount, launchHold := false })

/-- The first needed port that discovery has not proved. -/
def State.badPort (s : State) (f : Nat) : Option Nat := (s.neededPorts f).find? (fun n => (s.slotReg n).disc != .active)

/-- A refusal for a port names it (Table 16-8, code 4). -/
def State.namePort (s : State) (c : Nat) (bad : Option Nat) : State :=
  if c = 4 then bad.elim s (fun n => s.modBel (fun b => { b with portValid := true, portSlot := n })) else s

/-- The checks read nothing that the request itself writes. -/
theorem State.launchRefusal_requested (s : State) (f l : Nat) : (s.requested f).launchRefusal f l = s.launchRefusal f l := rfl

theorem State.badPort_requested (s : State) (f : Nat) : (s.requested f).badPort f = s.badPort f := rfl

theorem launchRequest_eq {s : State} {f : Nat} (hf : s.flt.fatal = none) (hs : 5 ≤ s.glb.stage) (hl : s.bel.launchState ≠ 1) :
    launchRequest f s = (s.launchRefusal f s.launchCount).elim
      ((s.requested f).modBel (fun b => { b with launchState := 1, launchCode := 0 }))
      (fun c => refuseLaunch c ((s.requested f).namePort c (s.badPort f))) := by
  rw [← s.launchRefusal_requested f, ← s.badPort_requested f]
  unfold launchRequest
  rw [if_neg (by simp [State.isFatal, hf]; omega), if_neg hl]
  show (match (s.requested f).launchRefusal f s.launchCount with | some _ => _ | none => _) = _
  generalize (s.requested f).launchRefusal f s.launchCount = r
  cases r with
  | none => rfl
  | some c =>
    refine congrArg (refuseLaunch c) ?_
    show (match c, (s.requested f).badPort f with | 4, some n => _ | _, _ => _) = _
    generalize (s.requested f).badPort f = bad
    unfold State.namePort
    by_cases h4 : c = 4
    · subst h4
      cases bad <;> rfl
    · rw [if_neg h4]
      split
      · contradiction
      · rfl

/-! ## The checks in their order (Table 16-8) -/

theorem State.usesAbsent_iff (s : State) (b : FieldBody) :
    s.usesAbsent b = true ↔ ∃ x ∈ b.crofts, s.physOf x.logical = none := by
  simp [State.usesAbsent]

theorem State.launchRefusal_of_unset {s : State} {f : Nat} (h : s.launchImage f = none ∨ s.bel.k = 0) (l : Nat) :
    s.launchRefusal f l = some 7 := by
  unfold State.launchRefusal
  rcases h with h | h
  · rw [h]
  · rw [h]
    cases s.launchImage f <;> rfl

theorem State.launchRefusal_of_image {s : State} {f : Nat} {st : Bool} {i : Image} {b : FieldBody}
    (h : s.launchImage f = some (st, i)) (hb : i.body = .field b) (hk : s.bel.k ≠ 0) (l : Nat) :
    s.launchRefusal f l = (countFail s s.tickLen l).or
      (if s.usesAbsent b then some 5 else if s.badPort f ≠ none then some 4 else none) := by
  have body : i.field? = some b := by rw [Image.field?, hb]
  have ports : (s.neededPorts f).any (fun n => (s.slotReg n).disc != .active) = true ↔ s.badPort f ≠ none := by
    rw [← Option.isSome_iff_ne_none, State.badPort, List.find?_isSome, List.any_eq_true]
  unfold State.launchRefusal
  rw [h]
  dsimp only
  rw [if_neg hk, body]
  simp only [ports]
  cases countFail s s.tickLen l <;> rfl

/-- Code 4 stands for a port that fails the check. -/
theorem State.badPort_of_refusal {s : State} {f l : Nat} (h : s.launchRefusal f l = some 4) : s.badPort f ≠ none := by
  cases hi : s.launchImage f
  case none => rw [State.launchRefusal_of_unset (.inl hi)] at h; simp at h
  case some e =>
    obtain ⟨st, i⟩ := e
    by_cases hk : s.bel.k = 0
    · rw [State.launchRefusal_of_unset (.inr hk)] at h; simp at h
    · unfold State.launchRefusal at h
      rw [hi] at h
      dsimp only at h
      rw [if_neg hk] at h
      cases hc : countFail s s.tickLen l with
      | some c =>
        rw [hc] at h
        have := countFail_code hc
        simp only [Option.some.injEq] at h
        omega
      | none =>
        rw [hc] at h
        dsimp only at h
        split_ifs at h with _ ports
        · simp at h
        · rwa [List.any_eq_true, ← List.find?_isSome, Option.isSome_iff_ne_none] at ports

/-! ## What a refusal leaves -/

theorem refuseLaunch_bel (code : Nat) (s : State) :
    (refuseLaunch code s).bel = { s.bel with launchState := 3, launchCode := code, launchHold := false } := by
  rw [refuseLaunch, (signal_frame _ _).bel_eq (by decide) (by decide), State.modBel_bel]

theorem launchRequest_of_refusal {s : State} {f c : Nat} (hf : s.flt.fatal = none) (hs : 5 ≤ s.glb.stage)
    (hl : s.bel.launchState ≠ 1) (h : s.launchRefusal f s.launchCount = some c) :
    let u := launchRequest f s
    u.bel.launchState = 3 ∧ u.bel.launchCode = c ∧ ChangesOnly [.bel, .host, .out] s u ∧
      (c = 4 → u.bel.portValid = true ∧ s.badPort f = some u.bel.portSlot) := by
  intro u
  have shown : u = refuseLaunch c ((s.requested f).namePort c (s.badPort f)) := by
    rw [show u = launchRequest f s from rfl, launchRequest_eq hf hs hl, h]
    rfl
  have bel : u.bel = _ := shown ▸ refuseLaunch_bel c _
  refine ⟨by rw [bel], by rw [bel], launchRequest_changes (.refl _ s) (List.Subset.refl _), fun h4 => ?_⟩
  subst h4
  obtain ⟨n, hn⟩ := Option.ne_none_iff_exists'.1 (State.badPort_of_refusal h)
  rw [bel, hn]
  exact ⟨rfl, rfl⟩

end Sys2Proof.Machine
end

section
/-! SUPPORT. What frames and fault events leave of the Bell block, operation by operation: all but its ports, its fault
queue and its count of dropped frames; and what releases and launches leave: GT and the servo's state. -/

namespace Sys2Proof.Machine

/-- What holds of a part after each step of a fold holds after the fold. -/
theorem foldl_keeps {α β : Type} {π : State → β} {g : State → α → State} (h : ∀ s x, π (g s x) = π s) (l : List α)
    (s : State) : π (l.foldl g s) = π s := by
  induction l generalizing s with
  | nil => rfl
  | cons x r ih => rw [List.foldl_cons, ih, h]

/-! ## Frames and fault events -/

/-- The Bell block without its ports, its fault queue and its count of dropped frames. -/
def State.belCore (s : State) : Bel := { s.bel with ports := [], faultQ := [], dropped := 0 }

/-- GT and the servo's state. -/
def State.servo (s : State) : Nat × BellState := (s.bel.gt, s.bel.state)

section
variable {s t : State}

theorem State.belCore_congr (h : t.bel = s.bel) : t.belCore = s.belCore := by rw [State.belCore, h, State.belCore]

theorem State.servo_congr (h : t.bel = s.bel) : t.servo = s.servo := by rw [State.servo, h, State.servo]

theorem State.servo_of_core (h : t.belCore = s.belCore) : t.servo = s.servo := by
  have kept : (t.belCore.gt, t.belCore.state) = (s.belCore.gt, s.belCore.state) := by rw [h]
  exact kept

theorem State.barriers_of_core (h : t.belCore = s.belCore) : t.bel.barriers = s.bel.barriers := by
  have kept : t.belCore.barriers = s.belCore.barriers := by rw [h]
  exact kept

/-- An operation that does not write the Bell block keeps all of it. -/
theorem ChangesOnly.belCore {ps : List Part} (h : ChangesOnly ps s t) (m : Part.bel ∉ ps) (g : Part.gt ∉ ps) :
    t.belCore = s.belCore := State.belCore_congr (h.bel_eq m g)

theorem ChangesOnly.servo {ps : List Part} (h : ChangesOnly ps s t) (m : Part.bel ∉ ps) (g : Part.gt ∉ ps) :
    t.servo = s.servo := State.servo_congr (h.bel_eq m g)

end

theorem putFrame_core (b : Nat) (f : BellFrame) (good : Bool) (s : State) : (putFrame b f good s).belCore = s.belCore := by
  cases f <;> rfl

theorem flushLane_core (b : Nat) (s : State) : (flushLane b s).belCore = s.belCore :=
  foldl_keeps (π := State.belCore) (fun _ _ => putFrame_core _ _ _ _) _ _

theorem bellSend_core (b : Nat) (f : BellFrame) (good : Bool) (s : State) : (bellSend b f good s).belCore = s.belCore := by
  unfold bellSend
  split
  · rfl
  · split
    · rw [flushLane_core, putFrame_core]
    · split
      · rfl
      · exact putFrame_core _ _ _ _

theorem bellSendFault_core (f : FaultFrame) (s : State) : (bellSendFault f s).belCore = s.belCore := by
  unfold bellSendFault
  split
  · rfl
  · exact bellSend_core _ _ _ _

theorem flushFaults_core (s : State) : (flushFaults s).belCore = s.belCore := by
  have sent : (s.bel.faultQ.foldl (fun s f => bellSendFault f s) s).belCore = s.belCore :=
    foldl_keeps (π := State.belCore) (fun _ _ => bellSendFault_core _ _) _ _
  unfold flushFaults
  split
  · rfl
  · dsimp only
    split
    · exact sent
    · exact (bellSendFault_core _ _).trans sent

theorem queueFault_core (f : FaultFrame) (s : State) : (queueFault f s).belCore = s.belCore := by
  unfold queueFault
  dsimp only
  rw [flushFaults_core]
  split <;> rfl

theorem report_core (e : FaultEvent) (s : State) : (report e s).belCore = s.belCore := by
  have signalled : (signal (3 - e.cls) s).belCore = s.belCore := (signal_frame _ _).belCore (by decide) (by decide)
  unfold report
  dsimp only
  refine Eq.trans ((startPulse_changes (.refl [.flt] _) (by decide)).belCore (by decide) (by decide)) ?_
  split
  · exact (queueFault_core _ _).trans signalled
  · exact signalled

theorem recordFault_core (e : FaultEvent) (s : State) : (recordFault e s).belCore = s.belCore := by
  have fatal (u : State) : (enterFatal e.source u).belCore = u.belCore :=
    (enterFatal_changes (.refl [.glb, .flt, .fatal, .out] _) (by decide)).belCore (by decide) (by decide)
  unfold recordFault
  dsimp only
  rw [apply_ite State.belCore, fatal, ite_self, apply_ite State.belCore, report_core]
  exact ite_self _

/-! ## Cellar, Fold and image -/

theorem repartition_core (cold : Bool) (retired : List Nat) (t : Nat) (s : State) :
    (repartition cold retired t s).belCore = s.belCore := by
  unfold repartition
  split
  · rfl
  · dsimp only
    split
    · rfl
    · exact foldl_keeps (π := State.belCore) (fun _ _ => recordFault_core _ _) _ _

theorem partition_core (old : Option FieldBody) (new : FieldBody) (s : State) : (partition old new s).belCore = s.belCore := by
  have freed := foldl_keeps (π := State.belCore)
    (fun s t => repartition_core old.isNone ((new.cellar.getD t {}).retired.getD []) t s) (List.range 32) s
  unfold partition
  dsimp only
  rw [apply_ite State.belCore, apply_ite State.belCore, recordFault_core, freed, ite_self, ite_self]

theorem loadField_core (i : Image) (b : FieldBody) (s : State) : (loadField i b s).belCore = s.belCore := by
  unfold loadField
  dsimp only
  rw [(loadShapers_changes (.refl [.shapers] _) (by decide)).belCore (by decide) (by decide),
    (loadGates_changes (.refl [.gates] _) (by decide)).belCore (by decide) (by decide), partition_core,
    (logImage_changes (.refl [.attic] _) (by decide)).belCore (by decide) (by decide)]
  rfl

theorem correctedError_core (t off access : Nat) (inj : Bool) (s : State) :
    (correctedError t off access inj s).belCore = s.belCore := recordFault_core _ _

theorem eccInjection_core (t w : Nat) (s : State) : (eccInjection t w s).belCore = s.belCore := by
  unfold eccInjection
  split <;> rfl

theorem writeWord_core (t off : Nat) (data : Bytes) (w : Nat) (s : State) : (writeWord t off data w s).belCore = s.belCore := by
  unfold writeWord
  dsimp only
  split
  · rw [recordFault_core]
    exact State.belCore_congr (State.modTract_bel ..)
  · rw [eccInjection_core, (freshWord_changes (.refl [.cel] _) (by decide)).belCore (by decide) (by decide)]
    refine (State.belCore_congr (State.modCel_bel ..)).trans ?_
    split
    · exact correctedError_core _ _ _ _ _
    · rfl

theorem cellWrite_core (t off : Nat) (data : Bytes) (s : State) : (cellWrite t off data s).belCore = s.belCore := by
  unfold cellWrite
  split
  · rfl
  · exact foldl_keeps (π := State.belCore) (fun _ _ => writeWord_core _ _ _ _ _) _ _

theorem loadOverlays_core (b : FieldBody) (s : State) : (loadOverlays b s).belCore = s.belCore :=
  foldl_keeps (π := State.belCore) (fun _ _ => cellWrite_core _ _ _ _) _ _

theorem reportAbort_core (tag stepLo : Nat) (n : PenNode) (arrival : Bool) (status : Nat) (ranks : List Nat) (s : State) :
    (reportAbort tag stepLo n arrival status ranks s).belCore = s.belCore := by
  have logged : (logPenAbort tag status s).belCore = s.belCore := by
    unfold logPenAbort
    split
    · rfl
    · exact recordFault_core _ _
  unfold reportAbort
  dsimp only
  split
  · rw [(issueAbort_changes (.refl [.swc, .fld] _) (by decide)).belCore (by decide) (by decide), logged]
  · exact (foldl_keeps (π := State.belCore)
      (fun u _ => (sendAbortRecord_changes (.refl [.swc] u) (by decide)).belCore (by decide) (by decide)) _ _).trans logged

theorem openAbort_core (i : PenInst) (status : Nat) (ranks : List Nat) (s : State) :
    (openAbort i status ranks s).belCore = s.belCore := by
  unfold openAbort
  split
  · rfl
  · exact reportAbort_core _ _ _ _ _ _ _

theorem resetPens_core (c : PenInst → Bool) (status : Nat) (s : State) : (resetPens c status s).belCore = s.belCore :=
  foldl_keeps (π := State.belCore)
    (fun s i => (State.belCore_congr (State.modFld_bel _ _)).trans (openAbort_core i status [] s)) _ _

/-! ## Runs and barriers -/

theorem State.modBarrier_servo (f : Nat) (g : Barrier → Barrier) (s : State) : (s.modBarrier f g).servo = s.servo := rfl

theorem reloadCrofts_servo (s : State) : (reloadCrofts s).servo = s.servo := by
  have reloaded (e : Nat × Option Nat) (s : State) :
      (match e.2 with | some k => reloadCroft e.1 k s | none => s).servo = s.servo := by
    split <;> rfl
  unfold reloadCrofts
  dsimp only
  refine Eq.trans (State.servo_congr (State.modCrf_bel _ _)) ?_
  have folded := foldl_keeps (π := State.servo) (fun s e => reloaded e s) s.crf.lmap s
  split
  · exact folded
  · exact folded

theorem fieldSteps_servo (f : Nat) (s : State) : (fieldSteps f s).servo = s.servo := by
  unfold fieldSteps clearCrofts
  dsimp only
  rw [(endCkpt_changes (.refl [.img, .host, .out, .draws] _) (by decide)).servo (by decide) (by decide), reloadCrofts_servo,
    (replaceFenced_changes (.refl [.crf] _) (by decide)).servo (by decide) (by decide),
    (dropRequests_changes (.refl [.ats] _) (by decide)).servo (by decide) (by decide)]
  exact State.servo_of_core (resetPens_core _ _ _)

theorem relayRelease_core (fr : ReleaseFrame) (s : State) : (relayRelease fr s).belCore = s.belCore :=
  foldl_keeps (π := State.belCore) (fun _ _ => bellSend_core _ _ _ _) _ _

theorem releaseParticipants_servo (f status : Nat) (s : State) : (releaseParticipants f status s).servo = s.servo := by
  unfold releaseParticipants
  dsimp only
  rw [State.modBarrier_servo]
  split
  · exact foldl_keeps (π := State.servo) (g := fun s (w : Nat × Nat) => raiseFlag w.1 w.2 1 s) (fun _ _ => rfl) _ _
  · exact foldl_keeps (π := State.servo) (g := fun s k => endProgram k s) (fun _ _ => rfl) _ _

theorem takeRelease_servo (fr : ReleaseFrame) (s : State) : (takeRelease fr s).servo = s.servo := by
  unfold takeRelease
  dsimp only
  split_ifs
  · rfl
  · rfl
  · rw [releaseParticipants_servo, State.servo_of_core (recordFault_core _ _)]
    rfl
  · rfl

theorem sendRelease_servo (f status gt : Nat) (s : State) : (sendRelease f status gt s).servo = s.servo :=
  (takeRelease_servo _ _).trans (State.servo_of_core (relayRelease_core _ _))

theorem abortBarrier_servo (f : Nat) (s : State) : (abortBarrier f s).servo = s.servo := by
  unfold abortBarrier
  split
  · exact sendRelease_servo _ _ _ _
  · rfl

theorem sendArrive_servo (f : Nat) (s : State) : (sendArrive f s).servo = s.servo := by
  unfold sendArrive
  dsimp only
  split
  · rfl
  · rw [State.modBarrier_servo]
    exact State.servo_of_core (bellSend_core _ _ _ _)

theorem tryArrive_servo (f : Nat) (s : State) : (tryArrive f s).servo = s.servo := by
  unfold tryArrive
  dsimp only
  split_ifs
  · exact sendRelease_servo _ _ _ _
  · rfl
  · exact sendArrive_servo _ _

theorem freshBarrier_servo (f seq : Nat) (s : State) : (freshBarrier f seq s).servo = s.servo := tryArrive_servo _ _

end Sys2Proof.Machine
end

section
/-! SUPPORT. The launch of a Field at its GT (R50, R298, R409): which launch it is, the stages of a launch and what each
leaves of the runs, the image and the servo. -/

namespace Sys2Proof.Machine

/-! ## A barrier that starts again (R73) -/

theorem State.barrier_of_core {s t : State} (h : t.belCore = s.belCore) (f : Nat) : t.barrier f = s.barrier f := by
  rw [State.barrier, State.barriers_of_core h, State.barrier]

/-- A release without an error code reaches the Crofts that wait, and no other. -/
theorem releaseParticipants_crf {f : Nat} {s : State} (h : (s.barrier f).waiters = []) :
    (releaseParticipants f 0 s).crf = s.crf := by
  unfold releaseParticipants
  dsimp only
  rw [State.modBarrier_crf, if_pos rfl, h, List.foldl_nil]

theorem takeRelease_crf {fr : ReleaseFrame} {s : State} (h0 : fr.status = 0) (h : (s.barrier fr.field).waiters = []) :
    (takeRelease fr s).crf = s.crf := by
  have recorded (e : FaultEvent) (u : State) : (recordFault e u).crf = u.crf :=
    recordFault_changes (.refl [.glb, .flt, .fatal, .attic, .bel, .bln, .host, .out] u) (by decide) .crf (by decide)
  unfold takeRelease
  dsimp only
  split_ifs
  · rfl
  · rfl
  · rw [h0, releaseParticipants_crf, recorded, State.modBel_crf]
    rw [State.barrier_of_core (recordFault_core _ _)]
    exact h
  · rfl

theorem tryArrive_crf {f : Nat} {s : State} (h : (s.barrier f).waiters = []) : (tryArrive f s).crf = s.crf := by
  have relayed (fr : ReleaseFrame) : (relayRelease fr s).crf = s.crf :=
    relayRelease_changes (.refl [.bel, .bln, .out] s) (by decide) .crf (by decide)
  have arrived : (sendArrive f s).crf = s.crf :=
    sendArrive_changes (.refl [.bel, .bln, .out] s) (by decide) .crf (by decide)
  unfold tryArrive
  dsimp only
  split_ifs
  · unfold sendRelease
    dsimp only
    rw [takeRelease_crf rfl, relayed]
    rw [State.barrier_of_core (relayRelease_core _ _)]
    exact h
  · rfl
  · exact arrived

theorem freshBarrier_crf (f seq : Nat) (s : State) : (freshBarrier f seq s).crf = s.crf := by
  unfold freshBarrier
  dsimp only
  rw [tryArrive_crf, State.modBarrier_crf]
  rw [State.barrier, State.modBarrier, State.modBel_bel, Tab.look_edit_self]

/-! ## What advancing to GT L keeps -/

theorem advanceTo_devIndex (l : Nat) (s : State) : (advanceTo l s).devIndex = s.devIndex := by
  unfold advanceTo advance State.devIndex
  split_ifs <;> rfl

theorem State.baseBody_congr {s t : State} (h : t.img = s.img) : t.baseBody = s.baseBody := by
  rw [State.baseBody, h, State.baseBody]

theorem advanceTo_inField (l f : Nat) (s : State) : (advanceTo l s).inField f = s.inField f := by
  unfold State.inField State.home State.owner
  rw [advanceTo_devIndex, State.baseBody_congr (advanceTo_img l s)]

theorem advanceTo_lentTo (l f dev : Nat) (s : State) : (advanceTo l s).lentTo f dev = s.lentTo f dev := by
  unfold State.lentTo State.fieldEntry
  rw [advanceTo_devIndex, State.baseBody_congr (advanceTo_img l s)]

/-! ## Which launch it is -/

/-- The launch of a Field whose slots are read back first (R315). -/
def restoredLaunch (f l : Nat) (staged : Bool) (i : Image) (b : FieldBody) (s : State) : State :=
  let rd := readCkptSlots s
  (rd.1.findSome? (rd.2.slotFail f i.pdigest)).elim (settleCore (launch f l staged i b (some rd.1) rd.2))
    (fun c => refuseLaunch 6 (setCkpt 4 c rd.2))

/-- On a device lent to the Field, with RESTORE set, or else afresh. -/
theorem fieldLaunch_eq {s : State} {st : Bool} {i : Image} {b : FieldBody} (hf : s.flt.fatal = none)
    (hl : s.bel.launchState = 1) (hi : s.launchImage s.bel.launchField = some (st, i)) (hb : i.body = .field b) :
    fieldLaunch s =
      let f := s.bel.launchField
      let l := s.bel.launchAt
      let v := advanceTo l s
      if !s.inField f && s.lentTo f s.devIndex then settleCore (guestLaunch f st i b v)
      else if s.img.restore then restoredLaunch f l st i b v else settleCore (launch f l st i b none v) := by
  have body : i.field? = some b := by rw [Image.field?, hb]
  unfold fieldLaunch
  rw [if_neg (by simp [State.isFatal, hf, hl])]
  dsimp only
  rw [hi]
  dsimp only
  rw [body]
  dsimp only
  rw [advanceTo_inField, advanceTo_lentTo, advanceTo_devIndex, advanceTo_img]
  refine ite_congr rfl (fun _ => rfl) fun _ => ite_congr rfl (fun _ => ?_) fun _ => rfl
  unfold restoredLaunch
  generalize readCkptSlots (advanceTo s.bel.launchAt s) = rd
  obtain ⟨ds, u⟩ := rd
  dsimp only
  cases ds.findSome? (u.slotFail s.bel.launchField i.pdigest) with
  | none => rw [Option.elim_none]
  | some c => rw [Option.elim_some]

/-! ## What a launch shows -/

/-- The end of every launch: the request is done. -/
def launchShown (s : State) : State :=
  let hold := s.bel.state == .holdover
  signal 6 (s.modBel (fun x => { x with launchState := 2, launchCode := 0, launchHold := hold }))

theorem launchShown_bel (s : State) : (launchShown s).bel =
    { s.bel with launchState := 2, launchCode := 0, launchHold := s.bel.state == .holdover } := by
  rw [launchShown, (signal_frame _ _).bel_eq (by decide) (by decide), State.modBel_bel]

theorem launchShown_frame (s : State) : ChangesOnly [.bel, .host, .out] s (launchShown s) :=
  ((ChangesOnly.refl _ s).modBel _ (by decide) (.inl rfl)).trans ((signal_frame _ _).mono (by decide))

theorem launchShown_img (s : State) : (launchShown s).img = s.img := (launchShown_frame s).img_eq (by decide) (by decide)

theorem launchShown_crf (s : State) : (launchShown s).crf = s.crf := launchShown_frame s .crf (by decide)

/-! ## On a device lent to the Field -/

/-- The staged image is taken where the launch binds to it. -/
def takeStaged (staged : Bool) (i : Image) (s : State) : State :=
  if staged then logImage i (s.modImg (fun x => { x with staged := none, state := .idle })) else s

theorem guestLaunch_eq (f : Nat) (staged : Bool) (i : Image) (b : FieldBody) (s : State) : guestLaunch f staged i b s =
    launchShown ((takeStaged staged i s).modImg (fun x => { x with guestKeys := Tab.put 0 x.guestKeys f b.key })) := rfl

theorem takeStaged_frame (staged : Bool) (i : Image) (s : State) : ChangesOnly [.attic, .img] s (takeStaged staged i s) := by
  unfold takeStaged
  split
  · exact logImage_changes ((ChangesOnly.refl _ s).modImg _ (by decide) (.inl rfl)) (by decide)
  · exact .refl _ s

theorem takeStaged_img (staged : Bool) (i : Image) (s : State) : (takeStaged staged i s).img =
    if staged then { s.img with staged := none, state := .idle } else s.img := by
  unfold takeStaged
  split
  · rw [(logImage_changes (.refl [.attic] _) (by decide)).img_eq (by decide) (by decide), State.modImg_img]
  · rfl

theorem guestLaunch_bel (f : Nat) (staged : Bool) (i : Image) (b : FieldBody) (s : State) : (guestLaunch f staged i b s).bel =
    { s.bel with launchState := 2, launchCode := 0, launchHold := s.bel.state == .holdover } := by
  rw [guestLaunch_eq, launchShown_bel, State.modImg_bel, (takeStaged_frame staged i s).bel_eq (by decide) (by decide)]

theorem guestLaunch_img (f : Nat) (staged : Bool) (i : Image) (b : FieldBody) (s : State) : (guestLaunch f staged i b s).img =
    { (takeStaged staged i s).img with guestKeys := Tab.put 0 (takeStaged staged i s).img.guestKeys f b.key } := by
  rw [guestLaunch_eq, launchShown_img, State.modImg_img]

end Sys2Proof.Machine
end

section
/-! SUPPORT. What a launch makes of the Crofts in use (R245, R298, R314): one pass over the Croft map changes each of them
once, and the run that starts shows each as it is. -/

namespace Sys2Proof.Machine

/-! ## Tables that list a number only with a value of its own -/

section
variable {α : Type} {d : α} {t : Tab α}

/-- A number that shows the default is not listed. -/
def Tab.Plain (d : α) (t : Tab α) (k : Nat) : Prop := Tab.look d t k = d → ∀ e ∈ t, e.1 ≠ k

theorem Tab.ne_of_mem_drop {k : Nat} {e : Nat × α} (h : e ∈ Tab.drop k t) : e.1 ≠ k := by
  induction t with
  | nil => simp [Tab.drop] at h
  | cons f r ih =>
    unfold Tab.drop at h
    split at h
    case isTrue => exact ih h
    case isFalse hf =>
      rcases List.mem_cons.1 h with rfl | h
      · exact hf
      · exact ih h

theorem Tab.plain_put_self [DecidableEq α] (t : Tab α) (k : Nat) (v : α) : Tab.Plain d (Tab.put d t k v) k := by
  intro shown e he
  have hv : v = d := by rwa [Tab.look_put_self] at shown
  rw [Tab.put, if_pos hv] at he
  exact Tab.ne_of_mem_drop he

theorem Tab.Plain.put [DecidableEq α] {k : Nat} (h : Tab.Plain d t k) {j : Nat} (hj : k ≠ j) (v : α) :
    Tab.Plain d (Tab.put d t j v) k := by
  intro shown e he
  rw [Tab.look_put, if_neg hj] at shown
  unfold Tab.put at he
  split at he
  · exact h shown e (Tab.mem_drop he)
  · rcases Tab.mem_add he with rfl | he
    · exact hj.symm
    · exact h shown e he

theorem Tab.mem_of_look {k : Nat} {v : α} (hv : v ≠ d) (h : Tab.look d t k = v) : (k, v) ∈ t := by
  induction t with
  | nil => exact absurd h.symm hv
  | cons e r ih =>
    unfold Tab.look at h
    split at h
    case isTrue hk =>
      subst hk h
      exact List.mem_cons_self
    case isFalse => exact List.mem_cons_of_mem _ (ih h)

theorem Tab.look_of_mem [DecidableEq α] {e : Nat × α} (hw : Tab.wf d t = true) (h : e ∈ t) : Tab.look d t e.1 = e.2 := by
  induction t with
  | nil => simp at h
  | cons f r ih =>
    obtain ⟨-, first, rest⟩ := Tab.wf_cons.1 hw
    unfold Tab.look
    rcases List.mem_cons.1 h with rfl | h
    · rw [if_pos rfl]
    · rw [if_neg (by have := first e h; omega), ih rest h]

/-- The numbers of a canonical table differ. -/
theorem Tab.nodup_of_wf [DecidableEq α] (hw : Tab.wf d t = true) : (t.map (·.1)).Nodup := by
  induction t with
  | nil => simp
  | cons f r ih =>
    obtain ⟨-, first, rest⟩ := Tab.wf_cons.1 hw
    refine List.nodup_cons.2 ⟨fun h => ?_, ih rest⟩
    obtain ⟨e, he, heq⟩ := List.mem_map.1 h
    exact absurd heq (Nat.ne_of_gt (first e he))

end

/-! ## A Croft of the table of a run -/

/-- A Croft that is at entry 0 stays as it is when a run starts. -/
theorem startRun_croft {s : State} {k : Nat} (h0 : (s.croft k).entries = 0) (hp : Tab.Plain {} s.crf.crofts k) (m runs : Nat) :
    (startRun m runs s).croft k = s.croft k := by
  unfold State.croft at h0 ⊢
  unfold startRun
  rw [State.modCrf_crf]
  dsimp only
  generalize s.crf.crofts = t at h0 hp
  induction t with
  | nil => rfl
  | cons e r ih =>
    obtain ⟨j, c⟩ := e
    by_cases hj : j = k
    · have shown : Tab.look {} ((j, c) :: r) k = c := by rw [Tab.look, if_pos hj]
      rw [shown] at h0
      have kept : ({ c with entries := 0 } : Croft) = c := by cases c; simp_all
      have listed : c ≠ {} := fun hc => hp (shown.trans hc) (j, c) List.mem_cons_self hj
      rw [List.map_cons, List.filter_cons_of_pos (by simpa [kept] using listed), shown, kept, Tab.look, if_pos hj]
    · have skipped (c' : Croft) (r' : Tab Croft) : Tab.look {} ((j, c') :: r') k = Tab.look {} r' k := by
        rw [Tab.look, if_neg hj]
      rw [skipped] at h0 ⊢
      have rest := ih h0 fun hs e he => hp ((skipped c r).trans hs) e (List.mem_cons_of_mem _ he)
      rw [List.map_cons, List.filter_cons]
      split
      · rw [skipped, rest]
      · exact rest

/-! ## One pass over the Croft map -/

/-- A pass over the map changes each mapped Croft by its logical number, in every state of `I`. -/
structure MapPass (I : State → Prop) (G : Nat → Croft → Croft) (F : State → Nat × Option Nat → State) : Prop where
  mapped : ∀ s a k, I s → F s (a, some k) = s.modCroft k (G a)
  absent : ∀ s a, F s (a, none) = s
  keeps  : ∀ s k g, I s → I (s.modCroft k g)

namespace MapPass
variable {I : State → Prop} {G : Nat → Croft → Croft} {F : State → Nat × Option Nat → State} (h : MapPass I G F)
  {s : State} {k : Nat} {l : List (Nat × Option Nat)}
include h

/-- A step at another Croft, or at none. -/
theorem step_of_ne (hI : I s) {e : Nat × Option Nat} (he : e.2 ≠ some k) : I (F s e) ∧ (F s e).croft k = s.croft k ∧
    (Tab.Plain {} s.crf.crofts k → Tab.Plain {} (F s e).crf.crofts k) := by
  obtain ⟨a, q⟩ := e
  cases q with
  | none => rw [h.absent]; exact ⟨hI, rfl, id⟩
  | some j =>
    have hj : k ≠ j := fun hk => he (by rw [hk])
    rw [h.mapped s a j hI]
    exact ⟨h.keeps s j _ hI, Tab.look_edit_of_ne _ _ _ _ _ hj, fun hp => hp.put hj _⟩

theorem untouched (hI : I s) (hl : ∀ e ∈ l, e.2 ≠ some k) : (l.foldl F s).croft k = s.croft k ∧
    (Tab.Plain {} s.crf.crofts k → Tab.Plain {} (l.foldl F s).crf.crofts k) := by
  induction l generalizing s with
  | nil => exact ⟨rfl, id⟩
  | cons e r ih =>
    obtain ⟨hI', hc, hp⟩ := h.step_of_ne hI (hl e List.mem_cons_self)
    obtain ⟨hc', hp'⟩ := ih hI' fun x hx => hl x (List.mem_cons_of_mem _ hx)
    exact ⟨hc'.trans hc, fun p => hp' (hp p)⟩

theorem touched (hI : I s) (hn : (l.map (·.1)).Nodup) {a : Nat} (hm : (a, some k) ∈ l)
    (hu : ∀ e ∈ l, e.2 = some k → e.1 = a) :
    (l.foldl F s).croft k = G a (s.croft k) ∧ Tab.Plain {} (l.foldl F s).crf.crofts k := by
  induction l generalizing s with
  | nil => simp at hm
  | cons e r ih =>
    obtain ⟨he, hr⟩ := List.nodup_cons.1 hn
    by_cases hk : e.2 = some k
    · have ha : e.1 = a := hu e List.mem_cons_self hk
      have rest : ∀ x ∈ r, x.2 ≠ some k := fun x hx hxk =>
        he (List.mem_map.2 ⟨x, hx, (hu x (List.mem_cons_of_mem _ hx) hxk).trans ha.symm⟩)
      have here : F s e = s.modCroft k (G a) := by rw [← h.mapped s a k hI, ← ha, ← hk]
      obtain ⟨hc, hp⟩ := h.untouched (s := s.modCroft k (G a)) (h.keeps s k _ hI) rest
      rw [List.foldl_cons, here]
      exact ⟨hc.trans (Tab.look_edit_self _ _ _ _), hp (Tab.plain_put_self _ _ _)⟩
    · obtain ⟨hI', hc, -⟩ := h.step_of_ne hI hk
      have inRest : (a, some k) ∈ r := by
        rcases List.mem_cons.1 hm with rfl | hm
        · exact absurd rfl hk
        · exact hm
      have rest := ih hI' hr inRest fun x hx => hu x (List.mem_cons_of_mem _ hx)
      rwa [hc] at rest

end MapPass

/-! ## The Crofts that a launch clears, loads and marks -/

/-- A Croft as the image's plan of its logical number loads it. -/
def loadedBy (p : Option CroftPlan) (c : Croft) : Croft :=
  p.elim c.bare (fun p => { c.bare with pantry := pantryOf p, store := storeOf p.store })

/-- A Croft's place in the attention set and its CRF_STEP. -/
def steppedBy (b : FieldBody) (a : Nat) (c : Croft) : Croft :=
  { c with attn := b.attnCrofts.contains a, step := ((b.crofts.find? (·.logical == a)).elim 0 (·.step)) }

/-- A Croft that is loaded and marked holds nothing of an earlier run. -/
theorem launchedCroft_clear (b : FieldBody) (a : Nat) (p : Option CroftPlan) (c : Croft) :
    let x := steppedBy b a (loadedBy p c)
    x.prog = none ∧ x.mx = [] ∧ x.vx = [] ∧ x.mv = [] ∧ x.fp = [] ∧ x.fl = [] ∧ x.flags = [] ∧ x.entries = 0 ∧
      x.attn = b.attnCrofts.contains a := by
  cases p <;> exact ⟨rfl, rfl, rfl, rfl, rfl, rfl, rfl, rfl, rfl⟩

theorem launchedCroft_planned {b : FieldBody} {a : Nat} {p : CroftPlan} (h : b.crofts.find? (·.logical == a) = some p)
    (c : Croft) : (steppedBy b a (loadedBy (some p) c)).step = p.step ∧
      (steppedBy b a (loadedBy (some p) c)).pantry = pantryOf p := by
  unfold steppedBy
  rw [h]
  exact ⟨rfl, rfl⟩

theorem reloadPass (p : Nat → Option CroftPlan) : MapPass (fun s => s.plan = p) (fun a => loadedBy (p a))
    (fun s e => match e.2 with | some k => reloadCroft e.1 k s | none => s) where
  mapped s a k hI := by
    show reloadCroft a k s = _
    unfold reloadCroft
    rw [hI]
    cases p a <;> rfl
  absent _ _ := rfl
  keeps _ _ _ hI := hI

theorem stepPass (b : FieldBody) : MapPass (fun _ => True) (steppedBy b) (fun s e => match e.2 with
    | none => s
    | some k =>
      let step := match b.crofts.find? (·.logical == e.1) with | some p => p.step | none => 0
      s.modCroft k (fun c => { c with attn := b.attnCrofts.contains e.1, step := step })) where
  mapped s a k _ := by
    unfold steppedBy
    dsimp only
    cases b.crofts.find? (·.logical == a) <;> rfl
  absent _ _ := rfl
  keeps _ _ _ _ := trivial

/-- The Croft map gives each logical Croft in use a Croft of its own (R273). -/
structure State.OneToOne (s : State) : Prop where
  wf  : Tab.wf none s.crf.lmap = true
  inj : ∀ a c k, s.physOf a = some k → s.physOf c = some k → a = c

/-- A pass over a one-to-one map. -/
theorem MapPass.onMap {I : State → Prop} {G : Nat → Croft → Croft} {F : State → Nat × Option Nat → State} {s : State}
    (h : MapPass I G F) (hI : I s) (hs : s.OneToOne) {a k : Nat} (hp : s.physOf a = some k) :
    (s.crf.lmap.foldl F s).croft k = G a (s.croft k) ∧ Tab.Plain {} (s.crf.lmap.foldl F s).crf.crofts k :=
  h.touched hI (Tab.nodup_of_wf hs.wf) (Tab.mem_of_look (by simp) hp) fun e he hk =>
    hs.inj e.1 a k ((Tab.look_of_mem hs.wf he).trans hk) hp

theorem reloadCrofts_lmap (s : State) : (reloadCrofts s).crf.lmap = s.crf.lmap := by
  have reloaded (s : State) (e : Nat × Option Nat) :
      (match e.2 with | some k => reloadCroft e.1 k s | none => s).crf.lmap = s.crf.lmap := by
    split <;> rfl
  have folded := foldl_keeps (π := fun s => s.crf.lmap) reloaded s.crf.lmap s
  unfold reloadCrofts
  dsimp only
  split
  · exact folded
  · exact folded

theorem reloadCrofts_tflags (s : State) : (reloadCrofts s).crf.tflags = [] := rfl

theorem reloadCrofts_croft {s : State} (hs : s.OneToOne) {a k : Nat} (hp : s.physOf a = some k) :
    (reloadCrofts s).croft k = loadedBy (s.plan a) (s.croft k) ∧ Tab.Plain {} (reloadCrofts s).crf.crofts k := by
  have loaded := (reloadPass s.plan).onMap rfl hs hp
  unfold reloadCrofts
  dsimp only
  split
  · exact loaded
  · exact loaded

theorem loadSteps_tflags (b : FieldBody) (s : State) : (loadSteps b s).crf.tflags = s.crf.tflags := by
  refine foldl_keeps (π := fun s => s.crf.tflags) (fun s e => ?_) s.crf.lmap s
  split <;> rfl

theorem loadSteps_croft (b : FieldBody) {s : State} (hs : s.OneToOne) {a k : Nat} (hp : s.physOf a = some k) :
    (loadSteps b s).croft k = steppedBy b a (s.croft k) ∧ Tab.Plain {} (loadSteps b s).crf.crofts k :=
  (stepPass b).onMap trivial hs hp

/-- The Crofts in use after a launch cleared, loaded and marked them, and the run has started. -/
theorem launched_croft (b : FieldBody) {s : State} (hs : s.OneToOne) {a k : Nat} (hp : s.physOf a = some k) (m runs : Nat) :
    (startRun m runs (loadSteps b (reloadCrofts s))).croft k = steppedBy b a (loadedBy (s.plan a) (s.croft k)) := by
  have lmap := reloadCrofts_lmap s
  have phys (c : Nat) : (reloadCrofts s).physOf c = s.physOf c := by rw [State.physOf, lmap, State.physOf]
  have one : (reloadCrofts s).OneToOne := ⟨by rw [lmap, hs.wf], fun a c k => by
    rw [phys, phys]
    exact hs.inj a c k⟩
  obtain ⟨loaded, -⟩ := reloadCrofts_croft hs hp
  obtain ⟨stepped, plain⟩ := loadSteps_croft b one ((phys a).trans hp)
  rw [loaded] at stepped
  rw [startRun_croft _ plain, stepped]
  rw [stepped]
  cases s.plan a <;> rfl

end Sys2Proof.Machine
end

section
/-! SUPPORT. A launch as the chain of its stages (R409): the run before it ends, the image it binds to takes effect, the
Crofts are loaded, the run starts and its barriers start again. -/

namespace Sys2Proof.Machine

/-! ## The stages -/

/-- A run that goes on ends with the steps of a field reset. -/
def endRun (s : State) : State :=
  if s.crf.running then match s.fieldBody with | some (g, _) => abortBarrier g (fieldSteps g s) | none => s else s

/-- The image that the launch binds to is the applied one. -/
def bindImage (staged : Bool) (i : Image) (b : FieldBody) (s : State) : State := if staged then loadField i b s else s

def dropScales (f : Nat) (s : State) : State :=
  s.modFld (fun x => { x with scales := x.scales.filter (fun e => e.tag / 1024 != f) })

/-- The state whose Crofts a launch loads. -/
def bound (f : Nat) (staged : Bool) (i : Image) (b : FieldBody) (s : State) : State :=
  loadOverlays b (dropScales f (bindImage staged i b (endRun s)))

/-- The state in which the run starts. -/
def readied (f : Nat) (staged : Bool) (i : Image) (b : FieldBody) (s : State) : State :=
  loadSteps b (reloadCrofts (bound f staged i b s))

/-- The barrier SEQ of the first slot. -/
def firstSeq (ds : List (Option SlotRead)) : Nat := match ds.head?.bind id with | some d => d.seq | none => 0

theorem launch_fresh (f l : Nat) (staged : Bool) (i : Image) (b : FieldBody) (s : State) : launch f l staged i b none s =
    launchShown (freshBarrier f 0 (startRun l 0 (readied f staged i b s))) := rfl

theorem launch_restored (f l : Nat) (staged : Bool) (i : Image) (b : FieldBody) (ds : List (Option SlotRead)) (s : State) :
    launch f l staged i b (some ds) s =
      launchShown ((freshBarrier f (firstSeq ds) (startRun l (maxRuns ds) (restoreSlots ds (readied f staged i b s)))).modImg
        (fun x => { x with restore := false, ckptDone := true })) := rfl

/-! ## The servo -/

theorem endRun_servo (s : State) : (endRun s).servo = s.servo := by
  unfold endRun
  split
  · split
    · rw [abortBarrier_servo, fieldSteps_servo]
    · rfl
  · rfl

theorem bound_servo (f : Nat) (staged : Bool) (i : Image) (b : FieldBody) (s : State) :
    (bound f staged i b s).servo = s.servo := by
  have applied (u : State) : (bindImage staged i b u).servo = u.servo := by
    unfold bindImage
    split
    · exact State.servo_of_core (loadField_core i b u)
    · rfl
  unfold bound
  rw [State.servo_of_core (loadOverlays_core _ _)]
  exact (applied _).trans (endRun_servo s)

theorem readied_servo (f : Nat) (staged : Bool) (i : Image) (b : FieldBody) (s : State) :
    (readied f staged i b s).servo = s.servo := by
  unfold readied
  rw [(loadSteps_changes (.refl [.crf] _) (by decide)).servo (by decide) (by decide), reloadCrofts_servo, bound_servo]

theorem startRun_servo (m runs : Nat) (s : State) : (startRun m runs s).servo = s.servo := rfl

/-! ## The image -/

theorem loadField_img (i : Image) (b : FieldBody) (s : State) :
    (loadField i b s).img = { s.img with fieldImg := some i, staged := none, state := .idle } := by
  have partitioned (old : Option FieldBody) (u : State) : (partition old b u).img = u.img :=
    (partition_changes (.refl [.glb, .flt, .fatal, .attic, .bel, .cel, .bln, .host, .out] u) (by decide)).img_eq
      (by decide) (by decide)
  unfold loadField
  dsimp only
  rw [(loadShapers_changes (.refl [.shapers] _) (by decide)).img_eq (by decide) (by decide),
    (loadGates_changes (.refl [.gates] _) (by decide)).img_eq (by decide) (by decide), partitioned,
    (logImage_changes (.refl [.attic] _) (by decide)).img_eq (by decide) (by decide), State.modImg_img]

/-- Loading overlays and the scale tables leave the image and the Crofts. -/
theorem bound_img (f : Nat) (staged : Bool) (i : Image) (b : FieldBody) (s : State) :
    (bound f staged i b s).img = (bindImage staged i b (endRun s)).img :=
  (loadOverlays_changes (.refl [.glb, .flt, .fatal, .attic, .bel, .cel, .mem, .bln, .host, .out] _) (by decide)).img_eq
    (by decide) (by decide)

theorem readied_img (f : Nat) (staged : Bool) (i : Image) (b : FieldBody) (s : State) :
    (readied f staged i b s).img = (bindImage staged i b (endRun s)).img := by
  unfold readied
  rw [(loadSteps_changes (.refl [.crf] _) (by decide)).img_eq (by decide) (by decide),
    (reloadCrofts_changes (.refl [.bel, .crf] _) (by decide)).img_eq (by decide) (by decide), bound_img]

theorem freshBarrier_img (f seq : Nat) (s : State) : (freshBarrier f seq s).img = s.img :=
  (freshBarrier_changes (.refl [.glb, .flt, .fatal, .attic, .bel, .crf, .bln, .host, .out] s) (by decide)).img_eq
    (by decide) (by decide)

/-! ## What a launch without slots leaves -/

section
variable (f l : Nat) (staged : Bool) (i : Image) (b : FieldBody) (s : State)

theorem launch_fresh_bel : ∃ x : Bel, x.gt = s.bel.gt ∧ x.state = s.bel.state ∧ (launch f l staged i b none s).bel =
    { x with launchState := 2, launchCode := 0, launchHold := x.state == .holdover } := by
  have servo : (freshBarrier f 0 (startRun l 0 (readied f staged i b s))).servo = s.servo := by
    rw [freshBarrier_servo, startRun_servo, readied_servo]
  obtain ⟨hgt, hstate⟩ := Prod.mk.inj servo
  exact ⟨_, hgt, hstate, by rw [launch_fresh, launchShown_bel]⟩

theorem launch_fresh_crf : (launch f l staged i b none s).crf = (startRun l 0 (readied f staged i b s)).crf := by
  rw [launch_fresh, launchShown_crf, freshBarrier_crf]

theorem readied_tflags : (readied f staged i b s).crf.tflags = [] := by
  rw [readied, loadSteps_tflags, reloadCrofts_tflags]

theorem launch_fresh_img : (launch f l staged i b none s).img = (bindImage staged i b (endRun s)).img := by
  rw [launch_fresh, launchShown_img, freshBarrier_img, ← readied_img f staged i b s]
  rfl

end

/-- What a launch with the slots of a checkpoint leaves. -/
theorem launch_restored_shown (f l : Nat) (staged : Bool) (i : Image) (b : FieldBody) (ds : List (Option SlotRead)) (s : State) :
    let u := launch f l staged i b (some ds) s
    u.bel.launchState = 2 ∧ u.crf.running = true ∧ u.crf.launchGt = l ∧ u.crf.runsBase = maxRuns ds ∧
      u.img.restore = false ∧ u.img.ckptDone = true := by
  intro u
  have shown : u = _ := launch_restored f l staged i b ds s
  rw [shown, launchShown_bel, launchShown_crf, launchShown_img, State.modImg_crf, freshBarrier_crf, State.modImg_img]
  exact ⟨rfl, rfl, rfl, rfl, rfl, rfl⟩

/-! ## The Crofts of a launch while no Field runs -/

/-- The state whose Crofts are loaded has the Crofts and the map of the state before, and the launch's image. -/
theorem bound_idle {f : Nat} {staged : Bool} {i : Image} {b : FieldBody} {s : State} (hr : s.crf.running = false)
    (hb : i.body = .field b) (hi : staged = false → s.img.fieldImg = some i) :
    (bound f staged i b s).crf = s.crf ∧ (bound f staged i b s).fieldBody = some (i.hdr.field, b) := by
  have still : endRun s = s := by rw [endRun, hr]; rfl
  have img : (bound f staged i b s).img.fieldImg = some i := by
    rw [bound_img, still, bindImage]
    cases staged
    · exact hi rfl
    · rw [if_pos rfl, loadField_img]
  have applied : (bindImage staged i b s).crf = s.crf := by
    unfold bindImage
    split
    · exact loadField_changes (.refl [.glb, .flt, .fatal, .attic, .bel, .shapers, .gates, .cel, .img, .bln, .host, .out] s)
        (by decide) .crf (by decide)
    · rfl
  constructor
  · unfold bound
    rw [still, loadOverlays_changes (.refl [.glb, .flt, .fatal, .attic, .bel, .cel, .mem, .bln, .host, .out] _) (by decide)
      .crf (by decide)]
    exact applied
  · rw [State.fieldBody, img]
    dsimp only
    rw [hb]

/-- A Croft in use after a launch without slots, where no Field ran before. -/
theorem launch_fresh_croft {f l : Nat} {staged : Bool} {i : Image} {b : FieldBody} {s : State} (hr : s.crf.running = false)
    (hb : i.body = .field b) (hi : staged = false → s.img.fieldImg = some i) (hs : s.OneToOne) {a k : Nat}
    (hp : s.physOf a = some k) : (launch f l staged i b none s).croft k =
      steppedBy b a (loadedBy (b.crofts.find? (·.logical == a)) (s.croft k)) := by
  obtain ⟨crf, body⟩ := bound_idle (f := f) hr hb hi
  have plan : (bound f staged i b s).plan a = b.crofts.find? (·.logical == a) := by rw [State.plan, body]
  have phys (c : Nat) : (bound f staged i b s).physOf c = s.physOf c := by rw [State.physOf, crf, State.physOf]
  have one : (bound f staged i b s).OneToOne := ⟨by rw [crf, hs.wf], fun a c k => by
    rw [phys, phys]
    exact hs.inj a c k⟩
  have loaded := launched_croft b one ((phys a).trans hp) l 0
  rw [plan, State.croft, State.croft, crf] at loaded
  rw [State.croft, launch_fresh_crf]
  exact loaded

/-- A launch that does not bind to the staged image binds to the applied one. -/
theorem State.fieldImg_of_launchImage {s : State} {f : Nat} {i : Image} (h : s.launchImage f = some (false, i)) :
    s.img.fieldImg = some i := by
  unfold State.launchImage at h
  split at h
  · simp at h
  · split at h
    case h_1 j hj =>
      split at h
      · simp only [Option.some.injEq, Prod.mk.injEq, true_and] at h
        rw [hj, h]
      · simp at h
    case h_2 => simp at h

end Sys2Proof.Machine
end

section
/-! SUPPORT. FIELD_LAUNCH at its GT (R50, R315, R409): what each of the four launches leaves before the core settles. -/

namespace Sys2Proof.Machine

/-- The launch's Field is not this device's own, and the device is lent to it (R50). -/
def State.Guest (s : State) : Prop :=
  s.inField s.bel.launchField = false ∧ s.lentTo s.bel.launchField s.devIndex = true

theorem State.guest_iff (s : State) :
    (!s.inField s.bel.launchField && s.lentTo s.bel.launchField s.devIndex) = true ↔ s.Guest := by
  rw [Bool.and_eq_true, Bool.not_eq_true', State.Guest]

/-- What a launch on a lent device changes: the request's state, the new key, and the staged image where it binds to it. -/
theorem guestLaunch_shown (l f : Nat) (st : Bool) (i : Image) (b : FieldBody) (s : State) :
    let v := advanceTo l s
    let u := guestLaunch f st i b v
    u.bel.launchState = 2 ∧ u.bel.launchCode = 0 ∧ Tab.look 0 u.img.guestKeys f = b.key ∧ u.img.fieldImg = s.img.fieldImg ∧
      u.crf = s.crf ∧ u.bel.gt = v.bel.gt ∧ (st = true → u.img.staged = none ∧ u.img.state = .idle) ∧
      ChangesOnly ([.img, .bel, .attic, .host, .out] ++ timeParts) s u := by
  intro v u
  have bel : u.bel = _ := guestLaunch_bel f st i b v
  have img : u.img = _ := guestLaunch_img f st i b v
  have frame : ChangesOnly ([.img, .bel, .attic, .host, .out] ++ timeParts) s u :=
    guestLaunch_changes ((advanceTo_frame l s).mono (by decide)) (by decide)
  rw [takeStaged_img, show v.img = s.img from advanceTo_img l s] at img
  rw [bel, img]
  refine ⟨rfl, rfl, Tab.look_put_self _ _ _ _, ?_, frame .crf (by decide), rfl, fun hst => ?_, frame⟩
  · cases st <;> rfl
  · subst hst
    exact ⟨rfl, rfl⟩

/-- What a launch without slots changes of the request, the servo, the run and the image. -/
theorem freshLaunch_shown (l f : Nat) (st : Bool) (i : Image) (b : FieldBody) (v : State) :
    let u := launch f l st i b none v
    u.bel.launchState = 2 ∧ u.bel.launchCode = 0 ∧ u.bel.launchHold = (v.bel.state == .holdover) ∧ u.bel.gt = v.bel.gt ∧
      u.crf.running = true ∧ u.crf.paused = false ∧ u.crf.launchGt = l ∧ u.crf.runsBase = 0 ∧ u.crf.tflags = [] ∧
      (st = true → u.img.fieldImg = some i ∧ u.img.staged = none ∧ u.img.state = .idle) := by
  intro u
  obtain ⟨x, hgt, hstate, hbel⟩ := launch_fresh_bel f l st i b v
  have bel : u.bel = _ := hbel
  have run : u.crf = _ := launch_fresh_crf f l st i b v
  have img : u.img = _ := launch_fresh_img f l st i b v
  rw [bel, run, img, ← hstate, ← hgt]
  refine ⟨rfl, rfl, rfl, rfl, rfl, rfl, rfl, rfl, readied_tflags f st i b v, fun hst => ?_⟩
  rw [hst, bindImage, if_pos rfl, loadField_img]
  exact ⟨rfl, rfl, rfl⟩

theorem advanceTo_launchImage (l f : Nat) (s : State) : (advanceTo l s).launchImage f = s.launchImage f := by
  unfold State.launchImage State.stagedField
  rw [advanceTo_img]

/-- The Crofts in use after a launch without slots. -/
theorem freshLaunch_croft {l f : Nat} {st : Bool} {i : Image} {b : FieldBody} {v : State} (hr : v.crf.running = false)
    (hb : i.body = .field b) (hi : v.launchImage f = some (st, i)) (hs : v.OneToOne) {a k : Nat} (hp : v.physOf a = some k) :
    let x := (launch f l st i b none v).croft k
    x.prog = none ∧ x.mx = [] ∧ x.vx = [] ∧ x.mv = [] ∧ x.fp = [] ∧ x.fl = [] ∧ x.flags = [] ∧ x.entries = 0 ∧
      x.attn = b.attnCrofts.contains a ∧
      ∀ p, b.crofts.find? (·.logical == a) = some p → x.step = p.step ∧ x.pantry = pantryOf p := by
  intro x
  have croft : x = _ := launch_fresh_croft (l := l) (f := f) hr hb
    (fun hst => State.fieldImg_of_launchImage (hst ▸ hi)) hs hp
  obtain ⟨hprog, hmx, hvx, hmv, hfp, hfl, hflags, hentries, hattn⟩ :=
    launchedCroft_clear b a (b.crofts.find? (·.logical == a)) (v.croft k)
  rw [croft]
  refine ⟨hprog, hmx, hvx, hmv, hfp, hfl, hflags, hentries, hattn, fun p hplan => ?_⟩
  rw [hplan]
  exact launchedCroft_planned hplan _

/-- Slots that fail their check refuse the launch. -/
theorem restoredLaunch_fails {f l c : Nat} {st : Bool} {i : Image} {b : FieldBody} {v : State}
    (hc : (readCkptSlots v).1.findSome? ((readCkptSlots v).2.slotFail f i.pdigest) = some c) :
    let u := restoredLaunch f l st i b v
    u.bel.launchState = 3 ∧ u.bel.launchCode = 6 ∧ u.img.ckptState = 4 ∧ u.img.ckptCode = c ∧
      u.crf.running = (readCkptSlots v).2.crf.running := by
  intro u
  have shown : u = refuseLaunch 6 (setCkpt 4 c (readCkptSlots v).2) := by
    rw [show u = restoredLaunch f l st i b v from rfl, restoredLaunch, hc, Option.elim_some]
  generalize (readCkptSlots v).2 = w at shown ⊢
  have last : ChangesOnly [.bel, .host, .out] (setCkpt 4 c w) u := by
    rw [shown]
    exact refuseLaunch_changes (.refl _ _) (List.Subset.refl _)
  have kept : (setCkpt 4 c w).crf = w.crf := setCkpt_frame 4 c w .crf (by decide)
  have crf : u.crf = (setCkpt 4 c w).crf := last .crf (by decide)
  have bel : u.bel = _ := (congrArg State.bel shown).trans (refuseLaunch_bel 6 (setCkpt 4 c w))
  have img : u.img = _ := (last.img_eq (by decide) (by decide)).trans (setCkpt_img 4 c w)
  rw [bel, img, crf, kept]
  exact ⟨rfl, rfl, rfl, rfl, rfl⟩

theorem restoredLaunch_of_match {f l : Nat} {st : Bool} {i : Image} {b : FieldBody} {v : State}
    (hc : (readCkptSlots v).1.findSome? ((readCkptSlots v).2.slotFail f i.pdigest) = none) :
    restoredLaunch f l st i b v = settleCore (launch f l st i b (some (readCkptSlots v).1) (readCkptSlots v).2) := by
  rw [restoredLaunch, hc, Option.elim_none]

end Sys2Proof.Machine
end

section
open Sys2Proof Sys2Proof.Machine

/-- Settles O33: the commands of a checkpoint by the count rules, a SAVE at its mark by the words that it writes, a request by
the first check that fails, and a launch by what each of its stages leaves. -/
theorem fieldsPauseResumeAndLaunch : Obligations.FieldsPauseResumeAndLaunch := by
  unfold Obligations.FieldsPauseResumeAndLaunch
  intro s hf hs lost pend fails count shows
  have hcount : count = s.ckptCount := by rw [State.ckptCount, pairCount]
  have hfails (tick n : Nat) : fails tick n = countFail s tick n := (countFail_eq s tick n).symm
  have hpend : s.ckptPending = true ↔ pend := s.ckptPending_iff
  have save : exec .ckptSave s = .next (ckptSave s) := congrArg Host.Outcome.next (onLoader_of_ready hf hs _)
  have resume : exec .ckptResume s = .next (ckptResume s) := congrArg Host.Outcome.next (onLoader_of_ready hf hs _)
  have cancel : exec .ckptCancel s = .next (ckptCancel s) := congrArg Host.Outcome.next (onLoader_of_ready hf hs _)
  have shown {c : Instr} {st code n : Nat} {u : State} (he : exec c s = .next u) (h : CkptShown st code n s u)
      (hn : n = if code = 0 ∧ st ≠ 0 then count else s.img.ckptAt) : shows c st code := by
    refine ⟨u, he, ?_, ?_, h.frame⟩
    · rw [h.img]
    · rw [h.img]
      exact hn
  have refused {c : Instr} {st code : Nat} (he : exec c s = .next (armCkpt st s))
      (hc : countFail s s.tickLen s.ckptCount = some code) : shows c 4 code := by
    have code0 : code ≠ 0 := by have := countFail_code hc; omega
    exact shown he (armCkpt_of_fail hc st) (if_neg fun h => code0 h.1).symm
  have armed {c : Instr} {st : Nat} (hst : st ≠ 0) (he : exec c s = .next (armCkpt st s))
      (hc : countFail s s.tickLen s.ckptCount = none) : shows c st 0 :=
    shown he (armCkpt_of_pass hc st) ((if_pos ⟨rfl, hst⟩).trans hcount).symm
  refine ⟨fun hp => ?_, fun hp => ⟨?_, fun hpa => ?_, fun hpa => ?_⟩, fun h1 => ?_, fun h1 => ?_, ?_, fun h2 => ?_,
    fun h5 => ?_, ?_, ?_⟩
  · rw [save, resume, ckptSave, ckptResume, if_pos (hpend.2 hp), if_pos (hpend.2 hp)]
    exact ⟨rfl, rfl⟩
  · have he : exec .ckptSave s = .next (armCkpt 1 s) := by rw [save, ckptSave, if_neg (mt hpend.1 hp)]
    rw [hfails, hcount]
    cases hc : countFail s s.tickLen s.ckptCount with
    | some code => exact refused he hc
    | none => exact armed (by decide) he hc
  · refine shown (n := s.img.ckptAt) ?_ (setCkpt_shown 4 0x0B s) (if_neg (by decide)).symm
    rw [resume, ckptResume, if_neg (mt hpend.1 hp), if_pos (by rw [hpa]; rfl)]
  · have he : exec .ckptResume s = .next (armCkpt 5 s) := by
      rw [resume, ckptResume, if_neg (mt hpend.1 hp), if_neg (by simp [hpa])]
    rw [hfails, hcount]
    cases hc : countFail s s.tickLen s.ckptCount with
    | some code => exact refused he hc
    | none => exact armed (by decide) he hc
  · refine shown (n := s.img.ckptAt) ?_ (setCkpt_shown 0 0 s) (if_neg (by decide)).symm
    rw [cancel, ckptCancel, if_pos h1]
  · rw [cancel, ckptCancel, if_neg h1]
  · intro f b i h1 hb hi m v runs w d
    refine ⟨fun c hc => ?_, fun hc harm hbad hsoft => ?_⟩
    · exact ⟨ckptCapture s, rfl, ckptCapture_fails hf h1 hb hi hc⟩
    · exact ⟨ckptCapture s, rfl, ckptCapture_saves hf h1 hb hi hc harm hbad hsoft⟩
  · obtain ⟨hst, hdone, hus⟩ := slotsWritten_shown hf h2
    exact ⟨slotsWritten s, rfl, hst, hdone, hus, slotsWritten_changes (.refl _ s) (List.Subset.refl _)⟩
  · obtain ⟨hst, crf, bel⟩ := resumeAtCount_started hf h5
    refine ⟨resumeAtCount s, rfl, hst, by rw [crf]; rfl, by rw [crf]; rfl, by rw [crf]; rfl, by rw [crf]; rfl, fun k => ?_,
      congrArg Bel.gt bel, resumeAtCount_changes (.refl _ s) (by decide)⟩
    rw [State.croft, crf]
    exact startRun_entries _ _ _ k
  · intro f hf64 h5 l bad refused
    have hl : l = s.launchCount := by rw [State.launchCount, pairCount]
    have hexec : exec (.fieldLaunchRequest f) s = .next (launchRequest f s) := if_pos (decide_eq_true hf64)
    refine ⟨fun h1 => ?_, fun h1 => ⟨fun h7 => ?_, fun st i b hi hb hk => ?_⟩⟩
    · rw [hexec, launchRequest, if_neg (by simp [State.isFatal, hf]; omega), if_pos h1]
      rfl
    · exact ⟨_, hexec, launchRequest_of_refusal hf h5 h1 (State.launchRefusal_of_unset h7 _)⟩
    · have refusal := State.launchRefusal_of_image hi hb hk s.launchCount
      have refusedBy {c : Nat} (hc : s.launchRefusal f s.launchCount = some c) : refused c :=
        ⟨_, hexec, launchRequest_of_refusal hf h5 h1 hc⟩
      rw [hfails, hl]
      cases hc : countFail s s.tickLen s.launchCount with
      | some c => exact refusedBy (by rw [refusal, hc, Option.some_or])
      | none =>
        rw [hc, Option.none_or] at refusal
        refine ⟨fun habs => refusedBy ?_, fun hpres => ?_⟩
        · rw [refusal, if_pos ((s.usesAbsent_iff b).2 habs)]
        · have present : ¬ s.usesAbsent b = true := fun h => by
            obtain ⟨x, hx, hxp⟩ := (s.usesAbsent_iff b).1 h
            exact hpres x hx hxp
          rw [if_neg present] at refusal
          refine ⟨fun hbad => refusedBy (refusal.trans (if_pos hbad)), fun hbad => ?_⟩
          rw [hexec, launchRequest_eq hf h5 h1, refusal, if_neg fun h => h hbad]
          rfl
  · intro st i b h1 hi hb v guest
    have crf : v.crf = s.crf := advanceTo_frame _ s .crf (by decide)
    have launched : exec .fieldLaunch s = .next _ := congrArg Host.Outcome.next (fieldLaunch_eq hf h1 hi hb)
    refine ⟨fun hg => ?_, fun hg hres => ?_, fun hg hres => ?_⟩
    · rw [if_pos (s.guest_iff.2 hg)] at launched
      exact ⟨_, launched, guestLaunch_shown _ _ st i b s⟩
    · rw [if_neg (mt s.guest_iff.1 hg), if_neg (by rw [hres]; decide)] at launched
      obtain ⟨hstate, hcode, hhold, hgt, hrun, hpaused, hlaunch, hbase, hflags, himg⟩ :=
        freshLaunch_shown s.bel.launchAt s.bel.launchField st i b v
      refine ⟨_, launched, hstate, hcode, hhold, hgt, hrun, hpaused, hlaunch, hbase, hflags, himg,
        fun hr hwf hinj a k hp => ?_⟩
      have phys (c : Nat) : v.physOf c = s.physOf c := by rw [State.physOf, crf, State.physOf]
      have one : v.OneToOne := ⟨by rw [crf, hwf], fun a c k => by rw [phys, phys]; exact hinj a c k⟩
      exact freshLaunch_croft (by rw [crf, hr]) hb ((advanceTo_launchImage _ _ s).trans hi) one ((phys a).trans hp)
    · rw [if_neg (mt s.guest_iff.1 hg), if_pos hres, show advanceTo s.bel.launchAt s = v from rfl] at launched
      clear_value v
      dsimp only
      refine ⟨fun c hc => ⟨_, launched, restoredLaunch_fails hc⟩, fun hc => ?_⟩
      rw [restoredLaunch_of_match hc] at launched
      exact ⟨_, launched, launch_restored_shown _ _ st i b _ _⟩
end

section
/-! SUPPORT. What stays around the Bell while frames go out, events are noted, marks are judged and time passes: the
device's place in the grid, its lanes in service, its measured delays, and what has left it already. -/

namespace Sys2Proof.Machine

/-! ## The place of a device in the Bell grid -/

/-- The Bell's surroundings stay: straps and images, the lanes in service, the exchanges of the joins and the counts of bad
frames; and nothing that has left is taken back. -/
structure BellKept (s t : State) : Prop where
  straps  : t.glb.straps = s.glb.straps
  sampled : t.glb.sampled = s.glb.sampled
  img     : t.img = s.img
  stuck   : t.bel.stuck = s.bel.stuck
  rounds  : ∀ b, (t.bellPort b).rounds = (s.bellPort b).rounds
  frames  : ∀ b, (t.bellPort b).frames = (s.bellPort b).frames
  aligned : ∀ b, (t.blnPort b).aligned = (s.blnPort b).aligned
  test    : ∀ b, (t.blnPort b).test = (s.blnPort b).test
  out     : s.out <:+ t.out

namespace BellKept

variable {s t u : State}

theorem refl (s : State) : BellKept s s :=
  ⟨rfl, rfl, rfl, rfl, fun _ => rfl, fun _ => rfl, fun _ => rfl, fun _ => rfl, List.suffix_rfl⟩

theorem trans (h : BellKept s t) (g : BellKept t u) : BellKept s u where
  straps := g.straps.trans h.straps
  sampled := g.sampled.trans h.sampled
  img := g.img.trans h.img
  stuck := g.stuck.trans h.stuck
  rounds b := (g.rounds b).trans (h.rounds b)
  frames b := (g.frames b).trans (h.frames b)
  aligned b := (g.aligned b).trans (h.aligned b)
  test b := (g.test b).trans (h.test b)
  out := h.out.trans g.out

theorem foldl {α : Type} {f : State → α → State} (l : List α) (s : State) (g : ∀ t x, BellKept t (f t x)) :
    BellKept s (l.foldl f s) := by
  induction l generalizing s with
  | nil => exact refl s
  | cons x r ih => exact (g s x).trans (ih (f s x))

/-- An update of one port that leaves its exchanges and its count of bad frames. -/
theorem modBellPort (b : Nat) (f : BellPort → BellPort) (s : State)
    (h : ((f (s.bellPort b)).rounds, (f (s.bellPort b)).frames) = ((s.bellPort b).rounds, (s.bellPort b).frames)) :
    BellKept s (s.modBellPort b f) := by
  obtain ⟨hr, hf⟩ := Prod.mk.inj h
  refine { refl s with rounds := fun c => ?_, frames := fun c => ?_ }
  all_goals
    rw [State.modBellPort_bellPort]
    split
    · subst c; assumption
    · rfl

/-- An update of one lane that leaves it in or out of service. -/
theorem modBln (b : Nat) (f : BlnPort → BlnPort) (s : State)
    (h : ((f (s.blnPort b)).aligned, (f (s.blnPort b)).test) = ((s.blnPort b).aligned, (s.blnPort b).test)) :
    BellKept s (s.modBln b f) := by
  obtain ⟨ha, ht⟩ := Prod.mk.inj h
  refine { refl s with aligned := fun c => ?_, test := fun c => ?_ }
  all_goals
    rw [State.modBln_blnPort]
    split
    · subst c; assumption
    · rfl

/-- An update of the Bell block beside its ports and STUCK. -/
theorem modBel (f : Bel → Bel) (s : State) (h : ((f s.bel).ports, (f s.bel).stuck) = (s.bel.ports, s.bel.stuck)) :
    BellKept s (s.modBel f) := by
  obtain ⟨hp, hs⟩ := Prod.mk.inj h
  have port (b : Nat) : (s.modBel f).bellPort b = s.bellPort b := by rw [State.bellPort, State.modBel_bel, hp, State.bellPort]
  exact { refl s with stuck := hs, rounds := fun b => by rw [port], frames := fun b => by rw [port] }

theorem emit (o : Output) (s : State) : BellKept s (s.emit o) := { refl s with out := List.suffix_cons o _ }

theorem ite {c : Prop} [Decidable c] (h : BellKept s t) (g : BellKept s u) : BellKept s (if c then t else u) := by
  split <;> assumption

/-! ### What depends on the place alone -/

theorem topology (h : BellKept s t) : t.topology = s.topology := by
  rw [State.topology, State.baseBody_congr h.img, State.topology]

theorem devIndex (h : BellKept s t) : t.devIndex = s.devIndex := by
  rw [State.devIndex, h.sampled, h.straps, State.devIndex]

theorem bellServes (h : BellKept s t) (b : Nat) : t.bellServes b = s.bellServes b := by
  simp only [State.bellServes, State.bellJoined, h.straps, h.topology, h.aligned, h.stuck, h.test]

theorem delayValid (h : BellKept s t) (b : Nat) : t.delayValid b = s.delayValid b := by
  rw [State.delayValid, h.rounds, State.delayValid]

theorem joinDelay (h : BellKept s t) (b : Nat) : t.joinDelay b = s.joinDelay b := by
  simp only [State.joinDelay, h.rounds, h.topology]

theorem candidate (h : BellKept s t) (he : t.bel.epoch = s.bel.epoch) (b : Nat) (f : MarkFrame) :
    t.candidate b f = s.candidate b f := by
  simp only [State.candidate, h.bellServes, h.delayValid, he]

theorem inField (h : BellKept s t) (f : Nat) : t.inField f = s.inField f := by
  simp only [State.inField, State.home, State.owner, h.devIndex, State.baseBody_congr h.img]

theorem imageOf (h : BellKept s t) (f : Nat) : t.imageOf f = s.imageOf f := by
  simp only [State.imageOf, State.fieldBody, h.img]

theorem barOffset (h : BellKept s t) (f : Nat) : t.barOffset f = s.barOffset f := by
  simp only [State.barOffset, h.imageOf]

theorem fieldDevices (h : BellKept s t) (f : Nat) : t.fieldDevices f = s.fieldDevices f := by
  simp only [State.fieldDevices, State.fieldEntry, State.baseBody_congr h.img]

end BellKept

/-! ## Frames -/

theorem putFrame_kept (b : Nat) (f : BellFrame) (good : Bool) (s : State) : BellKept s (putFrame b f good s) := by
  have sent (o : Output) : BellKept s
      ((s.modBln b (fun l => { l with injCv := false, injDisp := false, injCrc := false })).emit o) :=
    (BellKept.modBln _ _ _ rfl).trans (.emit _ _)
  unfold putFrame
  dsimp only
  split
  · exact (sent _).trans (.modBellPort _ _ _ rfl)
  · exact sent _

theorem flushLane_kept (b : Nat) (s : State) : BellKept s (flushLane b s) :=
  (BellKept.modBellPort b (fun p => { p with waitQ := [] }) s rfl).trans (.foldl _ _ fun _ _ => putFrame_kept _ _ _ _)

theorem bellSend_kept (b : Nat) (f : BellFrame) (good : Bool) (s : State) : BellKept s (bellSend b f good s) := by
  unfold bellSend
  split
  · exact .refl s
  · split
    · exact (putFrame_kept _ _ _ _).trans (flushLane_kept _ _)
    · exact .ite (.modBellPort _ _ _ rfl) (putFrame_kept _ _ _ _)

theorem flushLanes_kept (s : State) : BellKept s (flushLanes s) :=
  .foldl _ _ fun _ _ => .ite (flushLane_kept _ _) (.refl _)

theorem sendMarks_kept (m : Nat) (corr : Int) (kexp : Nat) (good : Bool) (s : State) :
    BellKept s (sendMarks m corr kexp good s) := .foldl _ _ fun _ _ => bellSend_kept _ _ _ _

theorem relayRelease_kept (fr : ReleaseFrame) (s : State) : BellKept s (relayRelease fr s) :=
  .foldl _ _ fun _ _ => bellSend_kept _ _ _ _

theorem noteFrame_kept (b : Nat) (s : State) : BellKept s (noteFrame b s) := .modBellPort _ _ _ rfl

theorem tallyMark_kept (b : Nat) (s : State) : BellKept s (tallyMark b s) := by
  refine .modBellPort _ _ _ ?_
  dsimp only [BellPort.tally]
  split <;> rfl

theorem noteMark_kept (b : Nat) (f : MarkFrame) (stamp : Nat) (s : State) : BellKept s (noteMark b f stamp s) :=
  .modBellPort _ _ _ rfl

/-! ## Events -/

theorem signal_kept (v : Nat) (s : State) : BellKept s (signal v s) :=
  .ite (.refl s) (.ite { BellKept.refl s with } (.emit _ _))

theorem bellSendFault_kept (f : FaultFrame) (s : State) : BellKept s (bellSendFault f s) :=
  .ite (.emit _ _) (bellSend_kept _ _ _ _)

theorem flushFaults_kept (s : State) : BellKept s (flushFaults s) := by
  have sent : BellKept s ((s.bel.faultQ.foldl (fun s f => bellSendFault f s) s).modBel (fun b => { b with faultQ := [] })) :=
    (BellKept.foldl _ s fun _ _ => bellSendFault_kept _ _).trans (.modBel _ _ rfl)
  exact .ite (.refl s) (.ite sent ((sent.trans (bellSendFault_kept _ _)).trans (.modBel _ _ rfl)))

theorem queueFault_kept (f : FaultFrame) (s : State) : BellKept s (queueFault f s) := by
  unfold queueFault
  refine BellKept.trans ?_ (flushFaults_kept _)
  split
  · exact .modBel _ _ rfl
  · exact { BellKept.modBel (fun b => { b with dropped := b.dropped + 1 }) s rfl with }

theorem report_kept (e : FaultEvent) (s : State) : BellKept s (report e s) := by
  have pulsed (t : State) : BellKept t (startPulse e.cls e.inj t) := .ite { BellKept.refl t with } (.refl t)
  have signalled := signal_kept (3 - e.cls) s
  refine BellKept.trans (t := startPulse e.cls e.inj _) (BellKept.trans ?_ (pulsed _)) { BellKept.refl _ with }
  exact .ite (signalled.trans (queueFault_kept _ _)) signalled

theorem recordFault_kept (e : FaultEvent) (s : State) : BellKept s (recordFault e s) := by
  have fatal (t : State) : BellKept t (enterFatal e.source t) :=
    .ite (.refl t) { BellKept.refl t with out := (List.suffix_cons Output.dark t.out :) }
  have recorded : ∃ t, BellKept s t ∧ recordFault e s = if e.cls = 3 then enterFatal e.source t else t := by
    refine ⟨_, ?_, rfl⟩
    change BellKept s (if s.attic.openRecs.any (·.is e.source e.unit) = true then _ else _)
    exact .ite { BellKept.refl s with } (.trans (t := State.modAttic _ (State.modFlt _ s)) { BellKept.refl s with } (report_kept _ _))
  obtain ⟨t, kept, h⟩ := recorded
  rw [h]
  exact .ite (kept.trans (fatal t)) kept

/-! ## The state of the Bell, and time -/

theorem becomeReady_kept (s : State) : BellKept s (becomeReady s) := by
  unfold becomeReady
  dsimp only
  split
  · exact .refl s
  · split <;> exact { BellKept.refl s with }

theorem setBellState_kept (st : BellState) (s : State) : BellKept s (setBellState st s) := by
  have shown : BellKept s (if s.bel.state = st then s else signal 4 (s.modBel (fun b => { b with state := st }))) :=
    .ite (.refl s) ((BellKept.modBel _ _ rfl).trans (signal_kept _ _))
  exact .ite ((shown.trans (.modBel _ _ rfl)).trans (becomeReady_kept _)) shown

theorem advanceTo_kept (l : Nat) (s : State) : BellKept s (advanceTo l s) :=
  .ite (.ite (.refl s) { BellKept.refl s with }) (.refl s)

theorem adoptK_kept (k : Nat) (s : State) : BellKept s (adoptK k s) := by
  have adopted : BellKept s (s.modBel (fun b => { b with k := k })) := .modBel _ _ rfl
  unfold adoptK
  dsimp only
  split
  · exact .refl s
  · split
    · exact .ite adopted (adopted.trans (recordFault_kept _ _))
    · exact adopted

theorem sendArrive_kept (f : Nat) (s : State) : BellKept s (sendArrive f s) := by
  unfold sendArrive
  dsimp only
  exact .ite (.refl s) ((bellSend_kept _ _ _ _).trans (.modBel _ _ rfl))

theorem tryBarriers_kept (s : State) : BellKept s (tryBarriers s) :=
  .ite (.refl s) (.foldl _ _ fun _ _ => .ite (sendArrive_kept _ _) (.refl _))

end Sys2Proof.Machine
end

section
/-! SUPPORT. What the operations of the Bell make of its block, beside its ports and what waits there. -/

namespace Sys2Proof.Machine

/-! ## The Bell block after an operation -/

theorem signal_core (v : Nat) (s : State) : (signal v s).belCore = s.belCore :=
  (signal_frame v s).belCore (by decide) (by decide)

theorem becomeReady_core (s : State) : (becomeReady s).belCore = s.belCore :=
  (becomeReady_changes (.refl [.glb, .flt, .attic] s) (by decide)).belCore (by decide) (by decide)

theorem setBellState_core (st : BellState) (s : State) : (setBellState st s).belCore =
    { s.belCore with state := st, everLocked := st = .locked || s.bel.everLocked } := by
  have shown : (if s.bel.state = st then s else signal 4 (s.modBel (fun b => { b with state := st }))).belCore =
      { s.belCore with state := st } := by
    split
    · next h => rw [← h]; rfl
    · exact signal_core _ _
  generalize ht : (if s.bel.state = st then s else signal 4 (s.modBel (fun b => { b with state := st }))) = t at shown
  simp only [setBellState, ht]
  split
  · next h =>
    subst h
    rw [becomeReady_core]
    exact congrArg (fun b : Bel => { b with everLocked := true }) shown
  · next h =>
    rw [shown, decide_eq_false h, Bool.false_or]
    rfl

theorem sendMarks_core (m : Nat) (corr : Int) (kexp : Nat) (good : Bool) (s : State) :
    (sendMarks m corr kexp good s).belCore = s.belCore :=
  foldl_keeps (π := State.belCore) (fun _ _ => bellSend_core _ _ _ _) _ _

theorem flushLanes_core (s : State) : (flushLanes s).belCore = s.belCore := by
  refine foldl_keeps (π := State.belCore) (fun _ _ => ?_) _ _
  split
  · exact flushLane_core _ _
  · rfl

/-- Time moves GT alone in the Bell block. -/
theorem advanceTo_bel (l : Nat) (s : State) : (advanceTo l s).bel = { s.bel with gt := (advanceTo l s).bel.gt } := by
  unfold advanceTo advance
  split
  · split <;> rfl
  · rfl

theorem advanceTo_epoch (l : Nat) (s : State) : (advanceTo l s).bel.epoch = s.bel.epoch := by rw [advanceTo_bel]
theorem advanceTo_k (l : Nat) (s : State) : (advanceTo l s).bel.k = s.bel.k := by rw [advanceTo_bel]

theorem advanceTo_bellPort (l b : Nat) (s : State) : (advanceTo l s).bellPort b = s.bellPort b := by
  rw [State.bellPort, advanceTo_bel, State.bellPort]

theorem advanceTo_barrier (l f : Nat) (s : State) : (advanceTo l s).barrier f = s.barrier f := by
  rw [State.barrier, advanceTo_bel, State.barrier]

theorem advanceTo_tickLen (l : Nat) (s : State) : (advanceTo l s).tickLen = s.tickLen := by
  rw [State.tickLen, advanceTo_bel, State.tickLen]

/-! ## The MARK of a root (R65) -/

/-- The MARK that a device sends, CHILD aside. -/
def State.markFrame (s : State) (m : Nat) (corr : Int) (kexp : Nat) : MarkFrame where
  epoch := s.bel.epoch
  locked := s.bel.state = .locked
  hop := s.bel.hop
  kexp := kexp
  root := s.bel.root
  mask := s.subtreeMask m
  m := m
  corr := ofInt 32 corr

theorem sendMarks_eq (m : Nat) (corr : Int) (kexp : Nat) (good : Bool) (s : State) : sendMarks m corr kexp good s =
    (List.range 4).foldl (fun t b =>
      bellSend b (.mark { s.markFrame m corr kexp with child := b = t.bel.upstream }) good t) s := rfl

/-- A MARK leaves at once on a lane in service. -/
theorem bellSend_mark_mem {b : Nat} {s : State} (h : s.bellServes b = true) (f : MarkFrame) (good : Bool) :
    ∃ ok, Output.bell b (.mark f) ok ∈ (bellSend b (.mark f) good s).out := by
  have sent : bellSend b (.mark f) good s = flushLane b (putFrame b (.mark f) good s) := by simp [bellSend, h]
  rw [sent]
  exact ⟨_, (flushLane_kept b _).out.subset (List.mem_cons_self ..)⟩

theorem sendMarks_sends {b : Nat} {s : State} (hb : b < 4) (h : s.bellServes b = true) (m : Nat) (corr : Int) (kexp : Nat)
    (good : Bool) : ∃ ok, Output.bell b (.mark { s.markFrame m corr kexp with child := b = s.bel.upstream }) ok ∈
      (sendMarks m corr kexp good s).out := by
  obtain ⟨before, later, hl⟩ := List.append_of_mem (List.mem_range.2 hb)
  rw [sendMarks_eq, hl, List.foldl_append, List.foldl_cons]
  generalize ht : before.foldl _ s = t
  have kept : BellKept s t := ht ▸ .foldl _ _ fun _ _ => bellSend_kept _ _ _ _
  have upstream : t.bel.upstream = s.bel.upstream := by
    subst t
    exact foldl_keeps (π := fun t => t.bel.upstream) (fun t _ => (congrArg Bel.upstream (bellSend_core _ _ _ t) :)) _ _
  obtain ⟨ok, sent⟩ := bellSend_mark_mem (by rwa [kept.bellServes])
    { s.markFrame m corr kexp with child := b = t.bel.upstream } good
  rw [upstream] at sent ⊢
  exact ⟨ok, (BellKept.foldl later _ fun _ _ => bellSend_kept _ _ _ _).out.subset sent⟩

/-- The device acts as root from its MARK for `m` on. -/
def State.asRoot (s : State) (m : Nat) : State :=
  s.modBel (fun b => { b with
    acting := true, hop := 0, upstream := 4, root := s.devIndex, sentM := some m, collect := none })

theorem rootMark_eq (m : Nat) (s : State) :
    rootMark m s = flushFaults (sendMarks m 0 s.bel.k true (setBellState .locked (s.asRoot m))) := rfl

/-- The Bell block of a device that has marked `m` as root. -/
def Bel.rooted (m dev : Nat) (b : Bel) : Bel := { b with
  acting := true, hop := 0, upstream := 4, root := dev, sentM := some m, collect := none
  state := .locked, everLocked := true }

theorem rootMark_core (m : Nat) (s : State) : (rootMark m s).belCore = s.belCore.rooted m s.devIndex := by
  rw [rootMark_eq, flushFaults_core, sendMarks_core, setBellState_core]
  rfl

/-- What the registers show of a device that has marked `m` as root. -/
theorem rooted_shown {m dev : Nat} {s t : State} (h : t.belCore = s.belCore.rooted m dev) :
    t.bel.gt = s.bel.gt ∧ t.bel.sentM = some m ∧ t.bel.state = .locked ∧ t.bel.hop = 0 ∧ t.bel.upstream = 4 ∧
      t.bel.root = dev ∧ t.bel.acting = true ∧ t.bel.epoch = s.bel.epoch ∧ t.bel.role = s.bel.role ∧
      t.bel.takeover = s.bel.takeover :=
  ⟨(congrArg Bel.gt h :), (congrArg Bel.sentM h :), (congrArg Bel.state h :), (congrArg Bel.hop h :),
    (congrArg Bel.upstream h :), (congrArg Bel.root h :), (congrArg Bel.acting h :), (congrArg Bel.epoch h :),
    (congrArg Bel.role h :), (congrArg Bel.takeover h :)⟩

theorem rootMark_kept (m : Nat) (s : State) : BellKept s (rootMark m s) := by
  have acts : BellKept s (s.asRoot m) := .modBel _ _ rfl
  rw [rootMark_eq]
  exact ((acts.trans (setBellState_kept _ _)).trans (sendMarks_kept ..)).trans (flushFaults_kept _)

theorem rootMark_sends {b : Nat} {s : State} (hb : b < 4) (h : s.bellServes b = true) (m : Nat) :
    ∃ good f, Output.bell b (.mark f) good ∈ (rootMark m s).out ∧ f.epoch = s.bel.epoch ∧ f.locked = true ∧
      f.child = false ∧ f.hop = 0 ∧ f.kexp = s.bel.k ∧ f.root = s.devIndex ∧ f.m = m ∧ f.corr = 0 := by
  have acts : BellKept s (setBellState .locked (s.asRoot m)) := (BellKept.modBel _ _ rfl).trans (setBellState_kept _ _)
  obtain ⟨ok, sent⟩ := sendMarks_sends hb (by rwa [acts.bellServes]) m 0 s.bel.k true
  have core := setBellState_core .locked (s.asRoot m)
  have epoch : (setBellState .locked (s.asRoot m)).bel.epoch = s.bel.epoch := (congrArg Bel.epoch core :)
  have locked : (setBellState .locked (s.asRoot m)).bel.state = .locked := (congrArg Bel.state core :)
  have hop : (setBellState .locked (s.asRoot m)).bel.hop = 0 := (congrArg Bel.hop core :)
  have upstream : (setBellState .locked (s.asRoot m)).bel.upstream = 4 := (congrArg Bel.upstream core :)
  have root : (setBellState .locked (s.asRoot m)).bel.root = s.devIndex := (congrArg Bel.root core :)
  exact ⟨ok, _, (flushFaults_kept _).out.subset sent, epoch, decide_eq_true locked, decide_eq_false (by omega), hop, rfl,
    root, rfl, rfl⟩

/-! ## A takeover (R77) -/

/-- A standby becomes the Bellwether of the next epoch. -/
def State.promoted (s : State) : State :=
  s.modBel (fun b => { b with role := .bellwether, epoch := b.epoch + 1, takeover := true, missed := 0 })

/-- What a takeover reports: the host, and a fault record. -/
def announced (e : BitVec 8) (s : State) : State :=
  recordFault { source := 0x0204, unit := 0x2F01, cls := 1, access := 0x0B, addr := e.toNat }
    (signal 4 (s.emit (.takeover e.toNat)))

theorem announced_core (e : BitVec 8) (s : State) : (announced e s).belCore = s.belCore :=
  (recordFault_core _ _).trans (signal_core _ _)

theorem announced_kept (e : BitVec 8) (s : State) : BellKept s (announced e s) :=
  ((BellKept.emit _ _).trans (signal_kept _ _)).trans (recordFault_kept _ _)

theorem announced_shown (e : BitVec 8) (s : State) : Output.takeover e.toNat ∈ (announced e s).out ∧
    ∃ r ∈ (announced e s).attic.openRecs, r.source = 0x0204 := by
  obtain ⟨r, hr, hs, _⟩ := (recordFault_of_not_ft (e := {
    source := 0x0204, unit := 0x2F01, cls := 1, access := 0x0B, addr := e.toNat }) (by simp)
    (signal 4 (s.emit (.takeover e.toNat)))).opened
  exact ⟨((signal_kept _ _).trans (recordFault_kept _ _)).out.subset (List.mem_cons_self ..), r, hr, hs⟩

theorem standbyTakeover_eq {s : State} (on : s.bellOn = true) (hr : s.bel.role = .standby) (hm : 3 ≤ s.bel.missed) :
    standbyTakeover s = announced (s.bel.epoch + 1) (rootMark s.nextMark (advanceTo s.nextMark s).promoted) := by
  have epoch : (advanceTo s.nextMark s).promoted.bel.epoch = s.bel.epoch + 1 := by
    rw [State.promoted, State.modBel_bel, advanceTo_epoch]
  have next : (rootMark s.nextMark (advanceTo s.nextMark s).promoted).bel.epoch = s.bel.epoch + 1 := by
    obtain ⟨-, -, -, -, -, -, -, he, -, -⟩ := rooted_shown (rootMark_core s.nextMark (advanceTo s.nextMark s).promoted)
    rw [he, epoch]
  unfold standbyTakeover
  rw [if_neg (by simp [on, hr, hm])]
  dsimp only
  unfold State.promoted at epoch next ⊢
  rw [epoch]
  generalize rootMark _ _ = t at next ⊢
  rw [← next]
  rfl

end Sys2Proof.Machine
end

section
open Sys2Proof Sys2Proof.Machine

/-- Settles O1: both commands are `rootMark` at the next mark; a takeover has raised the epoch before it and reports after. -/
theorem bellwetherSendsMarks : Obligations.BellwetherSendsMarks := by
  unfold Obligations.BellwetherSendsMarks
  intro s on marked
  have late := advanceTo_kept s.nextMark s
  refine ⟨fun hr => ⟨bellMarkSend s, rfl, ?_⟩, fun hr hm => ⟨standbyTakeover s, rfl, ?_⟩⟩
  · have frame : ChangesOnly (timeParts ++ faultParts) s (bellMarkSend s) := bellMarkSend_changes (.refl _ s) (by decide)
    have marks : bellMarkSend s = rootMark s.nextMark (advanceTo s.nextMark s) := by simp [bellMarkSend, on, hr]
    rw [marks] at frame ⊢
    obtain ⟨gt, sentM, state, hop, upstream, root, acting, epoch, -, -⟩ := rooted_shown (rootMark_core _ _)
    refine ⟨gt, sentM, state, hop, upstream, root.trans late.devIndex, acting, epoch.trans (advanceTo_epoch _ _),
      fun b hb serves => ?_, frame⟩
    obtain ⟨good, f, sent, epoch, locked, child, hop, kexp, root, m, corr⟩ :=
      rootMark_sends hb (by rwa [late.bellServes]) s.nextMark
    exact ⟨good, f, sent, epoch.trans (advanceTo_epoch _ _), locked, child, hop, kexp.trans (advanceTo_k _ _),
      root.trans late.devIndex, m, corr⟩
  · have frame : ChangesOnly (timeParts ++ faultParts) s (standbyTakeover s) :=
      standbyTakeover_changes (.refl _ s) (by decide)
    rw [standbyTakeover_eq on hr hm] at frame ⊢
    have up : BellKept s (advanceTo s.nextMark s).promoted := late.trans (.modBel _ _ rfl)
    obtain ⟨gt, sentM, state, hop, upstream, root, acting, epoch, role, takeover⟩ :=
      rooted_shown ((announced_core (s.bel.epoch + 1) _).trans (rootMark_core s.nextMark (advanceTo s.nextMark s).promoted))
    have next : (advanceTo s.nextMark s).promoted.bel.epoch = s.bel.epoch + 1 :=
      congrArg (· + 1) (advanceTo_epoch _ _)
    obtain ⟨out, logged⟩ := announced_shown (s.bel.epoch + 1) (rootMark s.nextMark (advanceTo s.nextMark s).promoted)
    refine ⟨⟨gt, sentM, state, hop, upstream, root.trans up.devIndex, acting, epoch.trans next, fun b hb serves => ?_, frame⟩,
      role, takeover, out, logged⟩
    obtain ⟨good, f, sent, epoch, locked, child, hop, kexp, root, m, corr⟩ :=
      rootMark_sends hb (by rwa [up.bellServes]) s.nextMark
    exact ⟨good, f, (announced_kept _ _).out.subset sent, epoch.trans next, locked, child, hop,
      kexp.trans (advanceTo_k _ _), root.trans up.devIndex, m, corr⟩
end

section
/-! SUPPORT. The servo (R65, R67, R76): what following a MARK makes of the Bell block and of GT. -/

namespace Sys2Proof.Machine

/-! ## Barriers that are judged again (R73) -/

/-- The Bell block without its ports, its barriers, its fault queue and its count of dropped frames. -/
def State.bellBase (s : State) : Bel := { s.belCore with barriers := [] }

theorem State.base_of_core {s t : State} (h : t.belCore = s.belCore) : t.bellBase = s.bellBase := by
  rw [State.bellBase, h, State.bellBase]

/-- What the registers show of two Bell blocks alike but for ports, barriers and waiting frames. -/
theorem State.base_shown {s t : State} (h : t.bellBase = s.bellBase) :
    t.bel.gt = s.bel.gt ∧ t.bel.state = s.bel.state ∧ t.bel.hop = s.bel.hop ∧ t.bel.root = s.bel.root ∧
      t.bel.upstream = s.bel.upstream ∧ t.bel.lastM = s.bel.lastM ∧ t.bel.missed = s.bel.missed ∧
      t.bel.inTol = s.bel.inTol ∧ t.bel.collect = s.bel.collect :=
  ⟨(congrArg Bel.gt h :), (congrArg Bel.state h :), (congrArg Bel.hop h :), (congrArg Bel.root h :),
    (congrArg Bel.upstream h :), (congrArg Bel.lastM h :), (congrArg Bel.missed h :), (congrArg Bel.inTol h :),
    (congrArg Bel.collect h :)⟩

theorem sendArrive_base (f : Nat) (s : State) : (sendArrive f s).bellBase = s.bellBase := by
  unfold sendArrive
  dsimp only
  split
  · rfl
  · change (bellSend _ _ _ _).bellBase = s.bellBase
    exact State.base_of_core (bellSend_core _ _ _ _)

theorem tryBarriers_base (s : State) : (tryBarriers s).bellBase = s.bellBase := by
  unfold tryBarriers
  split
  · rfl
  · refine foldl_keeps (π := State.bellBase) (fun _ _ => ?_) _ _
    split
    · exact sendArrive_base _ _
    · rfl

theorem tryBarriers_frame (s : State) : ChangesOnly [.bel, .bln, .out] s (tryBarriers s) :=
  tryBarriers_changes (.refl _ s) (List.Subset.refl _)

/-! ## Records that stay open -/

theorem Attic.finishReset_openRecs (a : Attic) (seq gt code : Nat) (cap : Option Nat) :
    (a.finishReset seq gt code cap).openRecs = a.openRecs := by
  unfold Attic.finishReset Attic.putReset
  repeat' split
  all_goals rfl

theorem becomeReady_openRecs (s : State) : (becomeReady s).attic.openRecs = s.attic.openRecs := by
  unfold becomeReady
  dsimp only
  split
  · rfl
  · split
    · exact Attic.finishReset_openRecs _ _ _ _ _
    · rfl

theorem setBellState_openRecs (st : BellState) (s : State) : (setBellState st s).attic.openRecs = s.attic.openRecs := by
  have shown : (if s.bel.state = st then s else signal 4 (s.modBel (fun b => { b with state := st }))).attic = s.attic := by
    split
    · rfl
    · exact signal_frame _ _ .attic (by decide)
  unfold setBellState
  dsimp only
  split
  · rw [becomeReady_openRecs, State.modBel_attic, shown]
  · rw [shown]

theorem setBellState_clock (st : BellState) (s : State) : (setBellState st s).clock = s.clock :=
  setBellState_changes (.refl [.glb, .flt, .attic, .bel, .host, .out] s) (by decide) .clock (by decide)

/-! ## The servo in its stages -/

/-- The offset is slewed away from now on. -/
def State.slewing (s : State) (off : Int) : State := { s with clock := { s.clock with slew := off * 1024 } }

def leaveHoldover (s : State) : State := if s.bel.state = .holdover then setBellState .acquire s else s

def dropLock (off : Int) (s : State) : State :=
  if s.bel.state = .locked && 64 < off.natAbs then
    setBellState .acquire (recordFault { source := 0x0202, unit := 0x2F01, cls := 1, access := 0x0B, addr := ofInt 64 off } s)
  else s

/-- Marks in a row within 16 fine units. -/
def countTol (off : Int) (s : State) : State :=
  s.modBel (fun b => { b with inTol := if off.natAbs ≤ 16 then b.inTol + 1 else 0 })

def gainLock (locked : Bool) (s : State) : State :=
  if s.bel.state = .acquire && 16 ≤ s.bel.inTol && locked then setBellState .locked s else s

theorem servo_of_unsync {s : State} (h : s.bel.state = .unsync) (off e : Int) (stamp : Nat) (locked : Bool) :
    servo off e stamp locked s = setBellState .acquire ((loadGt e stamp s).modBel (fun b => { b with inTol := 0 })) :=
  if_pos h

theorem servo_of_running {s : State} (h : s.bel.state ≠ .unsync) (off e : Int) (stamp : Nat) (locked : Bool) :
    servo off e stamp locked s = gainLock locked (countTol off (dropLock off (leaveHoldover (s.slewing off)))) :=
  if_neg h

theorem setBellState_acquire_core (s : State) : (setBellState .acquire s).belCore = { s.belCore with state := .acquire } :=
  setBellState_core .acquire s

/-- The state that an offset leads to: HOLDOVER ends, the lock is lost above 64 fine units, and the sixteenth mark in a row
within 16 locks. -/
def BellState.next (st : BellState) (off : Int) (inTol : Nat) (locked : Bool) : BellState :=
  let acquires := st = .holdover ∨ st = .locked ∧ 64 < off.natAbs
  if (st = .acquire ∨ acquires) ∧ off.natAbs ≤ 16 ∧ 16 ≤ inTol + 1 ∧ locked = true then .locked
  else if acquires then .acquire else st

theorem BellState.next_acquire (off : Int) (n : Nat) (locked : Bool) : BellState.acquire.next off n locked =
    if off.natAbs ≤ 16 ∧ 16 ≤ n + 1 ∧ locked = true then .locked else .acquire := by
  simp [BellState.next]

theorem BellState.next_locked_of_near {off : Int} (h : off.natAbs ≤ 64) (n : Nat) (locked : Bool) :
    BellState.locked.next off n locked = .locked := by
  simp [BellState.next, Nat.not_lt.2 h]

theorem BellState.next_locked_of_far {off : Int} (h : 64 < off.natAbs) (n : Nat) (locked : Bool) :
    BellState.locked.next off n locked = .acquire := by
  have off16 : ¬ off.natAbs ≤ 16 := by omega
  simp [BellState.next, h, off16]

theorem BellState.next_holdover_ne (off : Int) (n : Nat) (locked : Bool) : BellState.holdover.next off n locked ≠ .holdover := by
  simp only [BellState.next]
  split <;> simp

theorem leaveHoldover_core (s : State) : (leaveHoldover s).belCore =
    { s.belCore with state := if s.bel.state = .holdover then .acquire else s.bel.state } := by
  unfold leaveHoldover
  split
  · exact setBellState_acquire_core s
  · rfl

theorem dropLock_core (off : Int) (s : State) : (dropLock off s).belCore =
    { s.belCore with state := if s.bel.state = .locked ∧ 64 < off.natAbs then .acquire else s.bel.state } := by
  unfold dropLock
  simp only [Bool.and_eq_true, decide_eq_true_eq]
  split
  · rw [setBellState_acquire_core, recordFault_core]
  · rfl

theorem gainLock_core (locked : Bool) (s : State) : ∃ e, (gainLock locked s).belCore = { s.belCore with
    state := if s.bel.state = .acquire ∧ 16 ≤ s.bel.inTol ∧ locked = true then .locked else s.bel.state, everLocked := e } := by
  unfold gainLock
  simp only [Bool.and_eq_true, decide_eq_true_eq, and_assoc]
  split
  · exact ⟨_, setBellState_core .locked s⟩
  · exact ⟨_, rfl⟩

theorem servo_running_core {s : State} (h : s.bel.state ≠ .unsync) (off x : Int) (stamp : Nat) (locked : Bool) :
    ∃ e, (servo off x stamp locked s).belCore = { s.belCore with
      state := s.bel.state.next off s.bel.inTol locked, everLocked := e
      inTol := if off.natAbs ≤ 16 then s.bel.inTol + 1 else 0 } := by
  rw [servo_of_running h]
  have left := leaveHoldover_core (s.slewing off)
  generalize leaveHoldover (s.slewing off) = a at left ⊢
  have dropped := dropLock_core off a
  generalize dropLock off a = d at dropped ⊢
  obtain ⟨e, gained⟩ := gainLock_core locked (countTol off d)
  have stateA : a.bel.state = if s.bel.state = .holdover then .acquire else s.bel.state := (congrArg Bel.state left :)
  have stateD : d.bel.state = if a.bel.state = .locked ∧ 64 < off.natAbs then .acquire else a.bel.state :=
    (congrArg Bel.state dropped :)
  have tol : d.bel.inTol = s.bel.inTol := (congrArg Bel.inTol dropped).trans (congrArg Bel.inTol left :)
  have counted : (countTol off d).belCore = { s.belCore with
      state := d.bel.state, inTol := if off.natAbs ≤ 16 then s.bel.inTol + 1 else 0 } := by
    change { d.belCore with inTol := if off.natAbs ≤ 16 then d.bel.inTol + 1 else 0 } = _
    rw [tol, dropped, left, stateD]
    rfl
  have last : (if (countTol off d).bel.state = .acquire ∧ 16 ≤ (countTol off d).bel.inTol ∧ locked = true then .locked
      else (countTol off d).bel.state) = s.bel.state.next off s.bel.inTol locked := by
    change (if d.bel.state = .acquire ∧ 16 ≤ (if off.natAbs ≤ 16 then d.bel.inTol + 1 else 0) ∧ locked = true then .locked
      else d.bel.state) = _
    rw [tol, stateD, stateA, BellState.next]
    cases hs : s.bel.state <;> grind
  exact ⟨e, by rw [gained, last, counted]⟩

theorem servo_running_clock {s : State} (h : s.bel.state ≠ .unsync) (off x : Int) (stamp : Nat) (locked : Bool) :
    (servo off x stamp locked s).clock = { s.clock with slew := off * 1024 } := by
  have recorded (e : FaultEvent) (t : State) : (recordFault e t).clock = t.clock :=
    recordFault_changes (.refl [.glb, .flt, .fatal, .attic, .bel, .bln, .host, .out] t) (by decide) .clock (by decide)
  have gained (t : State) : (gainLock locked t).clock = t.clock := by
    unfold gainLock
    split
    · exact setBellState_clock _ _
    · rfl
  have dropped (t : State) : (dropLock off t).clock = t.clock := by
    unfold dropLock
    split
    · rw [setBellState_clock, recorded]
    · rfl
  have left (t : State) : (leaveHoldover t).clock = t.clock := by
    unfold leaveHoldover
    split
    · exact setBellState_clock _ _
    · rfl
  rw [servo_of_running h, gained, countTol, State.modBel_clock, dropped, left]
  rfl

/-- A lock that is lost is recorded (R67). -/
theorem servo_lost_lock {s : State} (h : s.bel.state = .locked) {off : Int} (ho : 64 < off.natAbs) (x : Int) (stamp : Nat)
    (locked : Bool) : ∃ r ∈ (servo off x stamp locked s).attic.openRecs, r.source = 0x0202 := by
  have gained (t : State) : (gainLock locked t).attic.openRecs = t.attic.openRecs := by
    unfold gainLock
    split
    · exact setBellState_openRecs _ _
    · rfl
  have stays : leaveHoldover (s.slewing off) = s.slewing off := if_neg (by rw [State.slewing, h]; decide)
  rw [servo_of_running (by rw [h]; decide), gained, countTol, State.modBel_attic, stays, dropLock,
    if_pos (by simp [State.slewing, h, ho]), setBellState_openRecs]
  obtain ⟨r, hr, hs, -⟩ := (recordFault_of_not_ft (e := {
    source := 0x0202, unit := 0x2F01, cls := 1, access := 0x0B, addr := ofInt 64 off }) (by simp) (s.slewing off)).opened
  exact ⟨r, hr, hs⟩

/-- GT steps in UNSYNC alone: to the count expected at the arrival, and what has passed since. -/
theorem servo_unsync_core {s : State} (h : s.bel.state = .unsync) (off x : Int) (stamp : Nat) (locked : Bool) :
    (servo off x stamp locked s).belCore = { s.belCore with
      gt := (x.toNat + (s.bel.gt * 64 - stamp)) / 64 % 2 ^ 64, inTol := 0, state := .acquire } := by
  rw [servo_of_unsync h, setBellState_acquire_core]
  rfl

theorem servo_unsync_clock {s : State} (h : s.bel.state = .unsync) (off x : Int) (stamp : Nat) (locked : Bool) :
    (servo off x stamp locked s).clock =
      { frac := BitVec.ofNat 16 ((x.toNat + (s.bel.gt * 64 - stamp)) % 64 * 1024), slew := 0 } := by
  rw [servo_of_unsync h, setBellState_clock]
  rfl

/-! ## A MARK that is followed (R65) -/

theorem adoptK_core (k : Nat) (s : State) : ∃ k', (adoptK k s).belCore = { s.belCore with k := k' } := by
  unfold adoptK
  dsimp only
  split
  · exact ⟨s.bel.k, rfl⟩
  · refine ⟨k, ?_⟩
    split
    · split
      · rfl
      · rw [recordFault_core]
        rfl
    · rfl

/-- The k of a mark is adopted, unless a base image takes effect at it. -/
def judgeK (f : MarkFrame) (s : State) : State :=
  if s.img.applyState = 1 && s.img.applyAt = f.m then s else adoptK f.kexp s

/-- The registers show a followed mark. -/
def State.showing (s : State) (f : MarkFrame) (path : Int) : State :=
  s.modBel (fun x => { x with
    hop := f.hop + 1, root := f.root, latency := path.toNat, lastM := some f.m, missed := 0, collect := none })

/-- A followed mark is relayed while the servo runs. -/
def relayed (f : MarkFrame) (path : Int) (relay : Bool) (s : State) : State :=
  if relay && s.bel.state != .unsync && s.bel.state != .holdover then sendMarks f.m (path + 512) f.kexp true s else s

/-- What a followed mark makes of a state before the servo acts on it. -/
def State.heard (s : State) (b : Nat) (f : MarkFrame) (relay : Bool) : State :=
  relayed f (f.corr + s.joinDelay b) relay ((judgeK f s).showing f (f.corr + s.joinDelay b))

theorem followMark_eq (b : Nat) (f : MarkFrame) (stamp : Nat) (relay : Bool) (s : State) : followMark b f stamp relay s =
    flushFaults (servo ((stamp : Int) - ((f.m : Int) * 64 + (f.corr + s.joinDelay b)))
      ((f.m : Int) * 64 + (f.corr + s.joinDelay b)) stamp f.locked (s.heard b f relay)) := rfl

theorem heard_core (s : State) (b : Nat) (f : MarkFrame) (relay : Bool) : ∃ k l, (s.heard b f relay).belCore =
    { s.belCore with
      k := k, hop := f.hop + 1, root := f.root, latency := l, lastM := some f.m, missed := 0, collect := none } := by
  have judged : ∃ k, (judgeK f s).belCore = { s.belCore with k := k } := by
    unfold judgeK
    split
    · exact ⟨s.bel.k, rfl⟩
    · exact adoptK_core _ _
  have sent (path : Int) (t : State) : (relayed f path relay t).belCore = t.belCore := by
    unfold relayed
    split
    · exact sendMarks_core _ _ _ _ _
    · rfl
  obtain ⟨k, judged⟩ := judged
  refine ⟨k, (f.corr + s.joinDelay b).toNat, ?_⟩
  rw [State.heard, sent]
  exact congrArg (fun x : Bel => { x with
    hop := f.hop + 1, root := f.root, latency := (f.corr + s.joinDelay b).toNat, lastM := some f.m, missed := 0, collect := none }) judged

theorem heard_clock (s : State) (b : Nat) (f : MarkFrame) (relay : Bool) : (s.heard b f relay).clock = s.clock := by
  have judged : (judgeK f s).clock = s.clock := by
    unfold judgeK
    split
    · rfl
    · exact adoptK_changes (.refl [.glb, .flt, .fatal, .attic, .bel, .bln, .host, .out] s) (by decide) .clock (by decide)
  have sent (path : Int) (t : State) : (relayed f path relay t).clock = t.clock := by
    unfold relayed
    split
    · exact sendMarks_changes (.refl [.bel, .bln, .out] t) (by decide) .clock (by decide)
    · rfl
  rw [State.heard, sent, State.showing, State.modBel_clock, judged]

/-- A MARK has been followed: what the registers show of it, and what the servo has made of its offset. -/
structure Followed (f : MarkFrame) (off x : Int) (stamp : Nat) (s t : State) : Prop where
  hop      : t.bel.hop = f.hop + 1
  root     : t.bel.root = f.root
  upstream : t.bel.upstream = s.bel.upstream
  lastM    : t.bel.lastM = some f.m
  missed   : t.bel.missed = 0
  collect  : t.bel.collect = none
  stepped  : s.bel.state = .unsync → t.bel.gt = (x.toNat + (s.bel.gt * 64 - stamp)) / 64 % 2 ^ 64 ∧
    t.clock = { frac := BitVec.ofNat 16 ((x.toNat + (s.bel.gt * 64 - stamp)) % 64 * 1024), slew := 0 } ∧
    t.bel.state = .acquire ∧ t.bel.inTol = 0
  slewed   : s.bel.state ≠ .unsync → t.bel.gt = s.bel.gt ∧ t.clock = { s.clock with slew := off * 1024 } ∧
    t.bel.state = s.bel.state.next off s.bel.inTol f.locked ∧
    t.bel.inTol = if off.natAbs ≤ 16 then s.bel.inTol + 1 else 0
  lost     : s.bel.state = .locked → 64 < off.natAbs → ∃ r ∈ t.attic.openRecs, r.source = 0x0202

/-- The servo leaves what the registers show of the mark. -/
theorem servo_shown (off x : Int) (stamp : Nat) (locked : Bool) (s : State) :
    (servo off x stamp locked s).bel.hop = s.bel.hop ∧ (servo off x stamp locked s).bel.root = s.bel.root ∧
      (servo off x stamp locked s).bel.upstream = s.bel.upstream ∧ (servo off x stamp locked s).bel.lastM = s.bel.lastM ∧
      (servo off x stamp locked s).bel.missed = s.bel.missed ∧ (servo off x stamp locked s).bel.collect = s.bel.collect := by
  by_cases h : s.bel.state = .unsync
  · have core := servo_unsync_core h off x stamp locked
    generalize servo off x stamp locked s = t at core ⊢
    exact ⟨(congrArg Bel.hop core :), (congrArg Bel.root core :), (congrArg Bel.upstream core :),
      (congrArg Bel.lastM core :), (congrArg Bel.missed core :), (congrArg Bel.collect core :)⟩
  · obtain ⟨e, core⟩ := servo_running_core h off x stamp locked
    generalize servo off x stamp locked s = t at core ⊢
    exact ⟨(congrArg Bel.hop core :), (congrArg Bel.root core :), (congrArg Bel.upstream core :),
      (congrArg Bel.lastM core :), (congrArg Bel.missed core :), (congrArg Bel.collect core :)⟩

theorem followMark_followed (b : Nat) (f : MarkFrame) (stamp : Nat) (relay : Bool) (s : State) :
    Followed f (stamp - (f.m * 64 + (f.corr + s.joinDelay b))) (f.m * 64 + (f.corr + s.joinDelay b)) stamp s
      (followMark b f stamp relay s) := by
  rw [followMark_eq]
  obtain ⟨k, l, core⟩ := heard_core s b f relay
  have clock := heard_clock s b f relay
  generalize (stamp - (f.m * 64 + (f.corr + s.joinDelay b)) : Int) = off
  generalize (f.m * 64 + (f.corr + s.joinDelay b) : Int) = x
  generalize s.heard b f relay = h at core clock ⊢
  have state : h.bel.state = s.bel.state := (congrArg Bel.state core :)
  have gt : h.bel.gt = s.bel.gt := (congrArg Bel.gt core :)
  have inTol : h.bel.inTol = s.bel.inTol := (congrArg Bel.inTol core :)
  have shown := servo_shown off x stamp f.locked h
  have step := fun hs => servo_unsync_core (s := h) hs off x stamp f.locked
  have stepClock := fun hs => servo_unsync_clock (s := h) hs off x stamp f.locked
  have slew := fun hs => servo_running_core (s := h) hs off x stamp f.locked
  have slewClock := fun hs => servo_running_clock (s := h) hs off x stamp f.locked
  have lost := fun hs ho => servo_lost_lock (s := h) hs (off := off) ho x stamp f.locked
  generalize servo off x stamp f.locked h = v at shown step stepClock slew slewClock lost ⊢
  have flushed := flushFaults_core v
  have vclock : (flushFaults v).clock = v.clock := flushFaults_frame v .clock (by decide)
  have vattic : (flushFaults v).attic = v.attic := flushFaults_frame v .attic (by decide)
  generalize flushFaults v = t at flushed vclock vattic ⊢
  obtain ⟨hop, root, upstream, lastM, missed, collect⟩ := shown
  rw [state] at step stepClock slew slewClock lost
  exact {
    hop := (congrArg Bel.hop flushed :).trans (hop.trans (congrArg Bel.hop core :))
    root := (congrArg Bel.root flushed :).trans (root.trans (congrArg Bel.root core :))
    upstream := (congrArg Bel.upstream flushed :).trans (upstream.trans (congrArg Bel.upstream core :))
    lastM := (congrArg Bel.lastM flushed :).trans (lastM.trans (congrArg Bel.lastM core :))
    missed := (congrArg Bel.missed flushed :).trans (missed.trans (congrArg Bel.missed core :))
    collect := (congrArg Bel.collect flushed :).trans (collect.trans (congrArg Bel.collect core :))
    stepped := fun hs => by
      have stepped := flushed.trans (step hs)
      rw [vclock, stepClock hs, ← gt]
      exact ⟨(congrArg Bel.gt stepped :), rfl, (congrArg Bel.state stepped :), (congrArg Bel.inTol stepped :)⟩
    slewed := fun hs => by
      obtain ⟨e, slewed⟩ := slew hs
      have slewed := flushed.trans slewed
      rw [vclock, slewClock hs, clock, ← gt, ← inTol]
      exact ⟨(congrArg Bel.gt slewed :), rfl, (congrArg Bel.state slewed :), (congrArg Bel.inTol slewed :)⟩
    lost := fun hs ho => by
      rw [vattic]
      exact lost hs ho }

end Sys2Proof.Machine
end

section
/-! SUPPORT. A received MARK (R63, R65, R67): which of its cases it is. -/

namespace Sys2Proof.Machine

/-- A device at the arrival of a MARK that counts: the mark joins those seen on its port. -/
def State.marked (s : State) (b : Nat) (f : MarkFrame) (stamp : Nat) : State :=
  noteMark b f stamp (tallyMark b (noteFrame b (advanceTo (stamp / 64) s)))

section
variable {b : Nat} {f : MarkFrame} {stamp : Nat} {s : State}

theorem arrived_kept (b : Nat) (stamp : Nat) (s : State) : BellKept s (noteFrame b (advanceTo (stamp / 64) s)) :=
  (advanceTo_kept _ s).trans (noteFrame_kept b _)

theorem marked_kept (b : Nat) (f : MarkFrame) (stamp : Nat) (s : State) : BellKept s (s.marked b f stamp) :=
  ((arrived_kept b stamp s).trans (tallyMark_kept b _)).trans (noteMark_kept b f stamp _)

theorem advanceTo_core (l : Nat) (s : State) :
    (advanceTo l s).belCore = { s.belCore with gt := (advanceTo l s).bel.gt } :=
  congrArg (fun x : Bel => { x with ports := [], faultQ := [], dropped := 0 }) (advanceTo_bel l s)

theorem State.modBellPort_core (b : Nat) (g : BellPort → BellPort) (s : State) : (s.modBellPort b g).belCore = s.belCore := rfl

theorem noteFrame_core (b : Nat) (s : State) : (noteFrame b s).belCore = s.belCore := rfl

theorem marked_core (b : Nat) (f : MarkFrame) (stamp : Nat) (s : State) :
    (s.marked b f stamp).belCore = { s.belCore with gt := (advanceTo (stamp / 64) s).bel.gt } := by
  rw [State.marked, noteMark, State.modBellPort_core, tallyMark, State.modBellPort_core, noteFrame_core, advanceTo_core]

theorem marked_clock (b : Nat) (f : MarkFrame) (stamp : Nat) (s : State) :
    (s.marked b f stamp).clock = (advanceTo (stamp / 64) s).clock := by
  rw [State.marked, noteMark, State.modBellPort_clock, tallyMark, State.modBellPort_clock, noteFrame,
    State.modBellPort_clock]

/-- A mark on the port that is followed, of the epoch at hand and not far off, is followed. -/
theorem takeMark_of_upstream (on : s.bellOn = true) (serves : s.bellServes b = true) (acting : s.bel.acting = false)
    (role : s.bel.role ≠ .bellwether) (up : s.bel.upstream = b) (epoch : f.epoch = s.bel.epoch)
    (valid : s.delayValid b = true)
    (near : s.bel.state = .locked → ((stamp : Int) - (f.m * 64 + f.corr + s.joinDelay b)).natAbs ≤ 512) :
    takeMark b f .good stamp s = followMark b f stamp true (s.marked b f stamp) := by
  have marks := marked_core b f stamp s
  have seen := marked_kept b f stamp s
  have kept := arrived_kept b stamp s
  have core : (noteFrame b (advanceTo (stamp / 64) s)).belCore = _ :=
    (noteFrame_core b _).trans (advanceTo_core _ s)
  unfold takeMark
  rw [if_neg (by simp [on, serves])]
  unfold State.marked at marks seen ⊢
  generalize noteFrame b (advanceTo (stamp / 64) s) = v at marks seen kept core ⊢
  dsimp only
  have vepoch : v.bel.epoch = s.bel.epoch := (congrArg Bel.epoch core :)
  have vstate : v.bel.state = s.bel.state := (congrArg Bel.state core :)
  rw [if_neg (by decide), if_neg (by simp [vepoch, epoch]), if_neg, if_pos (epoch.trans vepoch.symm)]
  · generalize noteMark b f stamp (tallyMark b v) = w at marks seen ⊢
    have wacting : w.bel.acting = s.bel.acting := (congrArg Bel.acting marks :)
    have wrole : w.bel.role = s.bel.role := (congrArg Bel.role marks :)
    have wup : w.bel.upstream = s.bel.upstream := (congrArg Bel.upstream marks :)
    rw [if_neg (by simp [wacting, acting, wrole, role, seen.delayValid, valid]), if_pos (wup.trans up)]
  · rw [vstate, kept.joinDelay]
    simp only [Bool.and_eq_true, decide_eq_true_eq, not_and]
    exact fun ⟨⟨_, locked⟩, _⟩ far => absurd (near locked) (by omega)

/-- A mark of an older epoch is counted as stale. -/
theorem takeMark_of_stale (on : s.bellOn = true) (serves : s.bellServes b = true) (epoch : f.epoch ≠ s.bel.epoch)
    (old : newerEpoch f.epoch s.bel.epoch = false) : takeMark b f .good stamp s =
      (noteFrame b (advanceTo (stamp / 64) s)).modBellPort b (fun p => { p with stale := min 255 (p.stale + 1) }) := by
  have core : (noteFrame b (advanceTo (stamp / 64) s)).belCore = _ :=
    (noteFrame_core b _).trans (advanceTo_core _ s)
  unfold takeMark
  rw [if_neg (by simp [on, serves])]
  generalize noteFrame b (advanceTo (stamp / 64) s) = v at core ⊢
  have vepoch : v.bel.epoch = s.bel.epoch := (congrArg Bel.epoch core :)
  dsimp only
  rw [if_neg (by decide), if_pos (by simp [vepoch, epoch, old])]
  rfl

/-- A bad frame counts in FRAMES, after the spoilt copy of a mark that was being relayed. -/
theorem takeMark_of_bad (on : s.bellOn = true) (serves : s.bellServes b = true) {c : FrameCheck} (bad : c ≠ .good) :
    ∃ v, takeMark b f c stamp s = badFrame b c v ∧ BellKept s v ∧
      v.belCore = { s.belCore with gt := (advanceTo (stamp / 64) s).bel.gt } := by
  have kept := arrived_kept b stamp s
  have core : (noteFrame b (advanceTo (stamp / 64) s)).belCore = _ :=
    (noteFrame_core b _).trans (advanceTo_core _ s)
  unfold takeMark
  rw [if_neg (by simp [on, serves])]
  generalize noteFrame b (advanceTo (stamp / 64) s) = v at kept core ⊢
  dsimp only
  rw [if_pos (by simpa using bad)]
  refine ⟨_, rfl, ?_, ?_⟩
  · exact .ite (kept.trans (sendMarks_kept ..)) kept
  · split
    · rw [sendMarks_core, core]
    · exact core

end

/-- A bad frame counts once in FRAMES of its port, and nothing of the Bell's registers moves. -/
theorem badFrame_shown (b : Nat) (c : FrameCheck) (s : State) :
    ((badFrame b c s).bellPort b).frames = min 0xFFFF ((s.bellPort b).frames + 1) ∧ (badFrame b c s).belCore = s.belCore := by
  have counted : ((s.modBellPort b (fun p => { p with frames := satAdd 0xFFFF p.frames 1 })).bellPort b).frames =
      min 0xFFFF ((s.bellPort b).frames + 1) := by rw [State.modBellPort_bellPort_self, satAdd]
  cases c <;> exact ⟨counted, rfl⟩

theorem takeMark_bad_frame {b : Nat} {f : MarkFrame} {c : FrameCheck} (bad : c ≠ .good) (stamp : Nat) (s : State) :
    ChangesOnly (timeParts ++ [.bel, .bln, .out]) s (takeMark b f c stamp s) := by
  have late : ChangesOnly (timeParts ++ [.bel, .bln, .out]) s (noteFrame b (advanceTo (stamp / 64) s)) :=
    noteFrame_changes (advanceTo_changes (.refl _ s) (by decide)) (by decide)
  unfold takeMark
  split
  · exact .refl _ s
  · dsimp only
    rw [if_pos (by simpa using bad)]
    exact badFrame_changes (.ite_any (sendMarks_changes late (by decide)) late) (by decide)

end Sys2Proof.Machine
end

section
open Sys2Proof Sys2Proof.Machine

/-- Settles O2: a mark from upstream is followed, and what `Followed` says of it is read off state by state. -/
theorem marksDriveTheServo : Obligations.MarksDriveTheServo := by
  unfold Obligations.MarksDriveTheServo
  intro b f stamp s hb hf hstamp on serves u
  have taken (c : FrameCheck) : exec (.mark b f c stamp) s = .next (tryBarriers (takeMark b f c stamp s)) :=
    if_pos (by simpa [hb, hf] using hstamp)
  refine ⟨fun acting role up epoch valid => ?_, fun c bad => ?_, fun epoch old => ?_⟩
  · intro expected off near
    have frame : ChangesOnly (timeParts ++ faultParts) s (tryBarriers (takeMark b f .good stamp s)) :=
      mark_changes (.refl _ s) (by decide)
    have seen := followMark_followed b f stamp true (s.marked b f stamp)
    rw [← takeMark_of_upstream on serves acting role up epoch valid near, (marked_kept b f stamp s).joinDelay,
      ← Int.add_assoc, show (f.m : Int) * 64 + f.corr + s.joinDelay b = expected from rfl] at seen
    have core := marked_core b f stamp s
    have clock : (s.marked b f stamp).clock = u.clock := marked_clock b f stamp s
    rw [taken]
    refine ⟨_, rfl, ?_⟩
    obtain ⟨gt, state, hop, root, upstream, lastM, missed, inTol, -⟩ :=
      State.base_shown (tryBarriers_base (takeMark b f .good stamp s))
    have tclock : (tryBarriers (takeMark b f .good stamp s)).clock = _ := tryBarriers_frame _ .clock (by decide)
    have attic : (tryBarriers (takeMark b f .good stamp s)).attic = _ := tryBarriers_frame _ .attic (by decide)
    generalize tryBarriers (takeMark b f .good stamp s) = t at *
    generalize takeMark b f .good stamp s = w at *
    generalize s.marked b f stamp = v at *
    have vgt : v.bel.gt = u.bel.gt := (congrArg Bel.gt core :)
    have vstate : v.bel.state = s.bel.state := (congrArg Bel.state core :)
    have vtol : v.bel.inTol = s.bel.inTol := (congrArg Bel.inTol core :)
    have vup : v.bel.upstream = s.bel.upstream := (congrArg Bel.upstream core :)
    obtain ⟨whop, wroot, wup, wlastM, wmissed, -, stepped, slewed, lost⟩ := seen
    rw [← gt, ← state, ← inTol, ← tclock, vgt, vstate] at stepped
    rw [← gt, ← state, ← inTol, ← tclock, vgt, vstate, vtol, clock] at slewed
    refine ⟨hop.trans whop, root.trans wroot, upstream.trans (wup.trans (vup.trans up)), lastM.trans wlastM,
      missed.trans wmissed, frame, stepped, fun h => ?_, fun h => ?_, fun h near => ?_, fun h far => ?_, fun h => ?_⟩
    · obtain ⟨tgt, tclock, -, tol⟩ := slewed h
      exact ⟨tgt, tclock, tol⟩
    all_goals
      obtain ⟨-, -, tstate, -⟩ := slewed (by rw [h]; decide)
      rw [h] at tstate
    · exact tstate.trans (BellState.next_acquire _ _ _)
    · exact tstate.trans (BellState.next_locked_of_near near _ _)
    · exact ⟨tstate.trans (BellState.next_locked_of_far far _ _), attic ▸ lost (vstate.trans h) far⟩
    · exact tstate.trans_ne (BellState.next_holdover_ne _ _ _)
  · have frame := (takeMark_bad_frame (f := f) (b := b) bad stamp s).trans
      ((tryBarriers_frame (takeMark b f c stamp s)).mono (by decide))
    obtain ⟨v, took, kept, core⟩ := takeMark_of_bad (f := f) (stamp := stamp) on serves bad
    obtain ⟨counted, same⟩ := badFrame_shown b c v
    obtain ⟨-, state, hop, -, upstream, -, missed, -⟩ := State.base_shown (tryBarriers_base (badFrame b c v))
    rw [taken, took]
    rw [took] at frame
    refine ⟨_, rfl, ?_, frame, ?_⟩
    · rw [(tryBarriers_kept _).frames, counted, kept.frames]
    · rw [state, hop, upstream, missed]
      have shown := same.trans core
      generalize badFrame b c v = w at shown ⊢
      exact (congrArg (fun x : Bel => (x.state, x.hop, x.upstream, x.missed)) shown :)
  · rw [taken, takeMark_of_stale on serves epoch old]
end

section
/-! SUPPORT. The choice of an upstream and a missed mark (R65, R76). -/

namespace Sys2Proof.Machine

/-! ## The order of candidates -/

theorem better_trans {x y z : Nat × MarkFrame × Nat} (h : better x y = true) (g : better y z = true) : better x z = true := by
  unfold better at *
  simp only [Bool.or_eq_true, Bool.and_eq_true, decide_eq_true_eq, beq_iff_eq, Bool.not_eq_true'] at *
  grind

theorem better_irrefl (x : Nat × MarkFrame × Nat) : better x x = false := by simp [better]

theorem best_isSome {l : List (Nat × MarkFrame × Nat)} (h : l ≠ []) : ∃ x, best l = some x := by
  cases l with
  | nil => exact absurd rfl h
  | cons a r =>
    unfold best
    split
    · exact ⟨_, (apply_ite some _ _ _).symm⟩
    · exact ⟨a, rfl⟩

/-- Of several candidates one is chosen than which none is better. -/
theorem best_spec {l : List (Nat × MarkFrame × Nat)} {x : Nat × MarkFrame × Nat} (h : best l = some x) :
    x ∈ l ∧ ∀ y ∈ l, better y x = false := by
  induction l generalizing x with
  | nil => cases h
  | cons a r ih =>
    unfold best at h
    split at h
    case h_1 y hr =>
      obtain ⟨hy, least⟩ := ih hr
      split at h
      · next ha =>
        cases h
        refine ⟨List.mem_cons_self .., List.forall_mem_cons.2 ⟨better_irrefl _, fun z hz => ?_⟩⟩
        by_contra hza
        exact absurd (better_trans (Bool.eq_true_of_not_eq_false hza) ha) (by simp [least z hz])
      · next ha =>
        cases h
        exact ⟨List.mem_cons_of_mem _ hy, List.forall_mem_cons.2 ⟨Bool.eq_false_of_not_eq_true ha, least⟩⟩
    case h_2 hr =>
      cases h
      have empty : r = [] := by
        by_contra hne
        obtain ⟨y, hy⟩ := best_isSome hne
        rw [hr] at hy
        cases hy
      rw [empty]
      exact ⟨List.mem_cons_self .., List.forall_mem_cons.2 ⟨better_irrefl _, by simp⟩⟩

/-! ## The choice (R65) -/

/-- The device when the collecting of candidates ends, 512 GT after the first. -/
def State.choosing (s : State) (g : Nat) : State := (advanceTo (g + 512) s).modBel (fun x => { x with collect := none })

theorem choosing_kept (s : State) (g : Nat) : BellKept s (s.choosing g) := (advanceTo_kept _ s).trans (.modBel _ _ rfl)

theorem choosing_core (s : State) (g : Nat) : (s.choosing g).belCore =
    { s.belCore with gt := (advanceTo (g + 512) s).bel.gt, collect := none } :=
  congrArg (fun x : Bel => { x with collect := none }) (advanceTo_core (g + 512) s)

theorem chooseUpstream_chooses {m g : Nat} {l : List (Nat × MarkFrame × Nat)} {s : State} (on : s.bellOn = true)
    (acting : s.bel.acting = false) (up : s.bel.upstream = 4) (hc : s.bel.collect = some (m, g, l))
    (some_ : ∃ x ∈ l, s.candidate x.1 x.2.1 = true) :
    ∃ x ∈ l, s.candidate x.1 x.2.1 = true ∧ (∀ y ∈ l, s.candidate y.1 y.2.1 = true → better y x = false) ∧
      chooseUpstream s = followMark x.1 x.2.1 x.2.2 false ((s.choosing g).modBel (fun b => { b with upstream := x.1 })) := by
  have epoch : (s.choosing g).bel.epoch = s.bel.epoch := (congrArg Bel.epoch (choosing_core s g) :)
  have same (e : Nat × MarkFrame × Nat) : (s.choosing g).candidate e.1 e.2.1 = s.candidate e.1 e.2.1 :=
    (choosing_kept s g).candidate epoch _ _
  have chosen : l.filter (fun e => (s.choosing g).candidate e.1 e.2.1) ≠ [] := by
    obtain ⟨y, hy, hcand⟩ := some_
    exact List.ne_nil_of_mem (List.mem_filter.2 ⟨hy, (same y).trans hcand⟩)
  obtain ⟨x, hx⟩ := best_isSome chosen
  obtain ⟨mem, least⟩ := best_spec hx
  obtain ⟨hxl, hxc⟩ := List.mem_filter.1 mem
  refine ⟨x, hxl, (same x).symm.trans hxc, fun y hy hyc => least y (List.mem_filter.2 ⟨hy, (same y).trans hyc⟩), ?_⟩
  unfold chooseUpstream
  rw [if_neg (by simp [on, acting, up]), hc]
  unfold State.choosing at hx ⊢
  simp only [hx]

/-! ## A missed mark (R76) -/

/-- No MARK for `m` of the epoch at hand was seen on a port. -/
theorem missMark_unseen {m : Nat} {s : State}
    (unseen : ∀ b < 4, ∀ e ∈ (s.bellPort b).recent, ¬(e.1.m = m ∧ e.1.epoch = s.bel.epoch)) : missMark m s =
      flushLanes (enterHoldover (s.modBel (fun b => { b with lastM := some m, missed := b.missed + 1 }))) := by
  have none_ (b : Nat) (hb : b ∈ List.range 4) :
      (s.bellPort b).recent.find? (fun e => e.1.m == m && e.1.epoch == s.bel.epoch) = none := by
    rw [List.find?_eq_none]
    simpa using unseen b (List.mem_range.1 hb)
  have any : (List.range 4).any (fun b =>
      ((s.bellPort b).recent.find? (fun e => e.1.m == m && e.1.epoch == s.bel.epoch)).isSome) = false :=
    List.any_eq_false.2 fun b hb => by simp [none_ b hb]
  unfold missMark
  dsimp only
  rw [any, List.filterMap_eq_nil_iff.2 (fun b hb => by rw [none_ b hb])]
  rfl

theorem enterHoldover_core (s : State) : (enterHoldover s).belCore =
    { s.belCore with state := .holdover, inTol := if s.bel.state = .holdover then s.bel.inTol else 0 } := by
  unfold enterHoldover
  split
  · next h => rw [← h]; rfl
  · rw [recordFault_core, setBellState_core]
    rfl

theorem enterHoldover_records {s : State} (h : s.bel.state ≠ .holdover) :
    ∃ r ∈ (enterHoldover s).attic.openRecs, r.source = 0x0203 := by
  rw [enterHoldover, if_neg h]
  obtain ⟨r, hr, hs, -⟩ := (recordFault_of_not_ft (e := { source := 0x0203, unit := 0x2F01, cls := 1, access := 0x0B })
    (by decide) (setBellState .holdover (s.modBel (fun b => { b with inTol := 0 })))).opened
  exact ⟨r, hr, hs⟩

/-- The device when mark `m` is known to be missed. -/
def State.missing (s : State) (m : Nat) : State :=
  (advanceTo (m + (s.bel.latency + 63) / 64 + 8) s).modBel (fun b => { b with lastM := some m, missed := b.missed + 1 })

theorem missing_core (s : State) (m : Nat) : (s.missing m).belCore = { s.belCore with
    gt := (advanceTo (m + (s.bel.latency + 63) / 64 + 8) s).bel.gt, lastM := some m, missed := s.bel.missed + 1 } :=
  congrArg (fun x : Bel => { x with lastM := some m, missed := x.missed + 1 }) (advanceTo_core _ s)

theorem passMark_unseen {m0 : Nat} {s : State} (on : s.bellOn = true) (acting : s.bel.acting = false)
    (state : s.bel.state ≠ .unsync) (lastM : s.bel.lastM = some m0)
    (unseen : ∀ b < 4, ∀ e ∈ (s.bellPort b).recent, ¬(e.1.m = m0 + s.tickLen ∧ e.1.epoch = s.bel.epoch)) :
    passMark s = flushLanes (enterHoldover (s.missing (m0 + s.tickLen))) := by
  unfold passMark
  rw [if_neg (by simp [on, acting, state]), lastM]
  refine missMark_unseen fun b hb e he => ?_
  rw [advanceTo_bellPort] at he
  rw [advanceTo_epoch]
  exact unseen b hb e he

theorem flushedHoldover_core (s : State) : (flushLanes (enterHoldover s)).belCore =
    { s.belCore with state := .holdover, inTol := if s.bel.state = .holdover then s.bel.inTol else 0 } :=
  (flushLanes_core _).trans (enterHoldover_core s)

/-- What the registers show of a mark that was missed. -/
theorem missed_shown {s t : State} {m : Nat} (ht : t = flushLanes (enterHoldover (s.missing m))) :
    t.bel.state = .holdover ∧ t.bel.missed = s.bel.missed + 1 ∧ t.bel.lastM = some m ∧
      t.bel.gt = (advanceTo (m + (s.bel.latency + 63) / 64 + 8) s).bel.gt ∧ t.bel.hop = s.bel.hop ∧
      (s.bel.state ≠ .holdover → ∃ r ∈ t.attic.openRecs, r.source = 0x0203) := by
  have attic : t.attic = (enterHoldover (s.missing m)).attic := ht ▸
    flushLanes_changes (.refl [.bel, .bln, .out] _) (by decide) .attic (by decide)
  have core : t.belCore = _ := ht ▸ flushedHoldover_core (s.missing m)
  have before := missing_core s m
  have records := fun h => enterHoldover_records (s := s.missing m) h
  rw [← attic] at records
  clear ht
  generalize s.missing m = v at core before records
  have from_ : v.bel.state = s.bel.state := (congrArg Bel.state before :)
  exact ⟨(congrArg Bel.state core :), (congrArg Bel.missed core :).trans (congrArg Bel.missed before :),
    (congrArg Bel.lastM core :).trans (congrArg Bel.lastM before :), (congrArg Bel.gt core :).trans (congrArg Bel.gt before :),
    (congrArg Bel.hop core :).trans (congrArg Bel.hop before :), fun h => records (from_.trans_ne h)⟩

end Sys2Proof.Machine
end

section
open Sys2Proof Sys2Proof.Machine

/-- Settles O3: the choice follows the best candidate's mark; a mark that no port has seen leads to HOLDOVER. -/
theorem upstreamChoiceAndHoldover : Obligations.UpstreamChoiceAndHoldover := by
  unfold Obligations.UpstreamChoiceAndHoldover
  refine ⟨fun m g l s on acting up hc some_ => ?_, fun m0 s on acting state lastM => ?_⟩
  · have frame : ChangesOnly (timeParts ++ faultParts) s (tryBarriers (chooseUpstream s)) :=
      upstreamChoice_changes (.refl _ s) (by decide)
    obtain ⟨x, hx, hcand, least, chose⟩ := chooseUpstream_chooses on acting up hc some_
    have seen := followMark_followed x.1 x.2.1 x.2.2 false ((s.choosing g).modBel (fun b => { b with upstream := x.1 }))
    rw [← chose] at seen
    obtain ⟨-, tstate, hop, -, upstream, tlastM, -, -, collect⟩ := State.base_shown (tryBarriers_base (chooseUpstream s))
    refine ⟨_, rfl, x, hx, hcand, least, upstream.trans seen.upstream, hop.trans seen.hop, collect.trans seen.collect,
      tlastM.trans seen.lastM, fun h => ?_, frame⟩
    have from_ : (s.choosing g).bel.state = s.bel.state := (congrArg Bel.state (choosing_core s g) :)
    obtain ⟨-, -, acquire, -⟩ := seen.stepped (from_.trans h)
    exact tstate.trans acquire
  · intro m unseen
    have frame : ChangesOnly (timeParts ++ faultParts) s (tryBarriers (passMark s)) :=
      markMissed_changes (.refl _ s) (by decide)
    obtain ⟨tgt, tstate, hop, -, -, tlastM, missed, -, -⟩ := State.base_shown (tryBarriers_base (passMark s))
    have attic : (tryBarriers (passMark s)).attic = (passMark s).attic := tryBarriers_frame _ .attic (by decide)
    obtain ⟨vstate, vmissed, vlastM, vgt, vhop, records⟩ :=
      missed_shown (passMark_unseen on acting state lastM unseen)
    exact ⟨tryBarriers (passMark s), rfl, tstate.trans vstate, missed.trans vmissed, tlastM.trans vlastM, tgt.trans vgt,
      hop.trans vhop, attic ▸ records, frame⟩
end

section
/-! SUPPORT. Frames other than MARK on a lane in service (R64): they leave at once or wait for the next MARK. -/

namespace Sys2Proof.Machine

section
variable {s t : State}

/-- Whether a frame waits for the next MARK is no matter of ports and queues. -/
theorem heldBack_of_core (h : t.belCore = s.belCore) (f : BellFrame) : t.heldBack f = s.heldBack f := by
  have bel : ∃ p q d, t.bel = { s.bel with ports := p, faultQ := q, dropped := d } :=
    ⟨t.bel.ports, t.bel.faultQ, t.bel.dropped,
      congrArg (fun x : Bel => { x with ports := t.bel.ports, faultQ := t.bel.faultQ, dropped := t.bel.dropped }) h⟩
  obtain ⟨p, q, d, bel⟩ := bel
  have due : t.markDue = s.markDue := by
    simp only [State.markDue, State.nextMark, State.markAt, State.tickLen, bel]
    rfl
  have gt : t.bel.gt = s.bel.gt := by rw [bel]
  rw [State.heldBack, due, gt, State.heldBack]

theorem bellSend_of_held {b : Nat} {f : BellFrame} (serves : s.bellServes b = true) (noMark : ∀ g, f ≠ .mark g)
    (held : s.heldBack f = true) (good : Bool) :
    bellSend b f good s = s.modBellPort b (fun p => { p with waitQ := p.waitQ ++ [(f, good, s.bel.gt)] }) := by
  unfold bellSend
  rw [if_neg (by simp [serves])]
  split
  · next g => exact absurd rfl (noMark g)
  · exact if_pos held

theorem bellSend_of_free {b : Nat} {f : BellFrame} (serves : s.bellServes b = true) (noMark : ∀ g, f ≠ .mark g)
    (free : s.heldBack f = false) (good : Bool) : bellSend b f good s = putFrame b f good s := by
  unfold bellSend
  rw [if_neg (by simp [serves])]
  split
  · next g => exact absurd rfl (noMark g)
  · exact if_neg (by simp [free])

theorem putFrame_out (b : Nat) (f : BellFrame) (good : Bool) (s : State) :
    ∃ ok, (putFrame b f good s).out = .bell b f ok :: s.out := by
  cases f <;> exact ⟨_, rfl⟩

theorem putFrame_probe_port (b q : Nat) (good : Bool) (s : State) :
    (putFrame b (.probe q) good s).bellPort b = { s.bellPort b with probeOut := some (q, s.bel.gt * 64) } := by
  unfold putFrame
  dsimp only
  rw [State.modBellPort_bellPort_self]
  rfl

end

/-! ## Join delays (R66) -/

/-- The GT at which a PROBE may leave has come. -/
def State.probing (s : State) (b : Nat) : State :=
  match (s.bellPort b).probeAt with | some g => advanceTo g s | none => s

theorem probing_kept (s : State) (b : Nat) : BellKept s (s.probing b) := by
  unfold State.probing
  split
  · exact advanceTo_kept _ _
  · exact .refl s

theorem probing_bellPort (s : State) (b c : Nat) : (s.probing b).bellPort c = s.bellPort c := by
  unfold State.probing
  split
  · exact advanceTo_bellPort _ _ _
  · rfl

theorem probing_out (s : State) (b : Nat) : (s.probing b).out = s.out := by
  unfold State.probing
  split
  · exact advanceTo_frame _ _ .out (by decide)
  · rfl

theorem probeSend_eq {b : Nat} {s : State} (on : s.bellOn = true) (serves : s.bellServes b = true) : probeSend b s =
    (bellSend b (.probe (s.bellPort b).probeSeq) true (s.probing b)).modBellPort b (fun p =>
      { p with probeAt := some ((s.probing b).bel.gt + 64), probeSeq := ((s.bellPort b).probeSeq + 1) % 256 }) := by
  rw [← probing_bellPort s b b]
  exact if_neg (by simp [on, serves])

theorem probe_of_good {b : Nat} {s : State} (on : s.bellOn = true) (serves : s.bellServes b = true) (q r : Nat) :
    probe b q .good r s = bellSend b (.echo q r) true (noteFrame b s) := by
  unfold probe
  rw [if_neg (by simp [on, serves]), if_neg (by decide)]

theorem echo_of_good {b : Nat} {s : State} (on : s.bellOn = true) (serves : s.bellServes b = true) {q0 t1 : Nat}
    (hp : (s.bellPort b).probeOut = some (q0, t1)) (q r stamp : Nat) : echo b q r .good stamp s =
      if q0 = q then (noteFrame b (advanceTo (stamp / 64) s)).modBellPort b (fun p =>
        { p with probeOut := none, rounds := ((stamp : Int) - t1 - r) :: p.rounds.take 63 })
      else noteFrame b (advanceTo (stamp / 64) s) := by
  have out : ((noteFrame b (advanceTo (stamp / 64) s)).bellPort b).probeOut = some (q0, t1) := by
    rw [noteFrame, State.modBellPort_bellPort_self, advanceTo_bellPort]
    exact hp
  unfold echo
  rw [if_neg (by simp [on, serves])]
  generalize noteFrame b (advanceTo (stamp / 64) s) = v at out ⊢
  dsimp only
  rw [if_neg (by decide), out]
  exact ite_not _ _ _

/-! ## Blocks of registers (R352, R399) -/

theorem onBlock_of_ready {n : Nat} {s : State} (h : n ≤ s.glb.stage) (fatal : s.flt.fatal = none) (f : State → State) :
    onBlock n false f s = f s := by
  simp [onBlock, Nat.not_lt.2 h, fatal]

/-! ## Shapers (R86, R87) -/

theorem State.modShaper_shaper (p v : Nat) (f : Shaper → Shaper) (s : State) {q w : Nat} (hv : v < 8) (hw : w < 8) :
    (s.modShaper p v f).shaper q w = if q = p ∧ w = v then f (s.shaper p v) else s.shaper q w := by
  rw [State.shaper, State.modShaper, Tab.look_edit]
  have same : 8 * q + w = 8 * p + v ↔ q = p ∧ w = v := by omega
  simp only [same]
  rfl

end Sys2Proof.Machine
end

section
open Sys2Proof Sys2Proof.Machine

/-- Settles O4: PROBE and ECHO go out by `bellSend`, and an ECHO for the PROBE that is out adds one exchange. -/
theorem joinDelaysAreMeasured : Obligations.JoinDelaysAreMeasured := by
  unfold Obligations.JoinDelaysAreMeasured
  intro b s hb on serves
  refine ⟨?_, fun q r hq hr => ?_, fun q r stamp q0 t1 hq hr hs hp => ?_⟩
  · intro u q
    have frame : ChangesOnly (timeParts ++ [.bel, .bln, .out]) s (probeSend b s) := probeSend_changes (.refl _ s) (by decide)
    have gt : (bellSend b (.probe q) true u).bel.gt = u.bel.gt := (congrArg Bel.gt (bellSend_core b (.probe q) true u) :)
    have userves : u.bellServes b = true := (probing_kept s b).bellServes b ▸ serves
    have port : u.bellPort b = s.bellPort b := probing_bellPort s b b
    have out : u.out = s.out := probing_out s b
    refine ⟨probeSend b s, if_pos (decide_eq_true hb), frame, ?_⟩
    rw [probeSend_eq on serves, show s.probing b = u from rfl, State.modBellPort_bellPort_self]
    refine ⟨gt, fun free => ?_, fun held => ?_⟩
    · rw [bellSend_of_free userves (by simp) free, putFrame_probe_port, port]
      exact ⟨out ▸ putFrame_out b _ true u, rfl⟩
    · rw [bellSend_of_held userves (by simp) held, State.modBellPort_bellPort_self, port]
      exact ⟨out, rfl⟩
  · have same (f : BellFrame) : (noteFrame b s).heldBack f = s.heldBack f := heldBack_of_core (noteFrame_core b s) f
    have vserves : (noteFrame b s).bellServes b = true := (noteFrame_kept b s).bellServes b ▸ serves
    refine ⟨probe b q .good r s, if_pos (by simp only [Wf.bell, Bool.and_eq_true, decide_eq_true_eq]; exact ⟨⟨hb, hq⟩, hr⟩),
      probe_changes (.refl _ s) (by decide), fun free => ?_, fun held => ?_⟩
    · rw [probe_of_good on serves, bellSend_of_free vserves (by simp) (by rw [same, free])]
      exact putFrame_out b _ true _
    · rw [probe_of_good on serves, bellSend_of_held vserves (by simp) (by rw [same, held]), State.modBellPort_bellPort_self,
        noteFrame, State.modBellPort_bellPort_self]
      exact ⟨rfl, rfl⟩
  · refine (if_pos ?_).trans (congrArg _ (echo_of_good on serves hp q r stamp))
    simp only [Wf.bell, Bool.and_eq_true, decide_eq_true_eq]
    exact ⟨⟨⟨hb, hq⟩, hr⟩, hs⟩

/-- Settles O8: the shaper of the port and VC takes its staged settings by `Shaper.apply`. -/
theorem shaperTakesStagedSettings : Obligations.ShaperTakesStagedSettings := by
  unfold Obligations.ShaperTakesStagedSettings
  intro p v s hp hv hs hf
  have applied : exec (.shaperApply p v) s = .next (s.modShaper p v Shaper.apply) := by
    have written : onBlock 5 false (shaperApply p v) s = s.modShaper p v Shaper.apply :=
      (onBlock_of_ready hs hf _).trans (if_neg (by simp [State.isFatal, hf]))
    exact (if_pos (by simp [Wf.port, Wf.vc, hp, hv])).trans (congrArg _ written)
  refine ⟨_, applied, (ChangesOnly.refl _ s).modShaper _ _ _ (by decide), ?_, fun q w hw hne => ?_⟩
  · rw [State.modShaper_shaper p v _ s hv hv, if_pos ⟨rfl, rfl⟩, Shaper.apply]
  · rw [State.modShaper_shaper p v _ s hv hw, if_neg (by omega)]
end

section
/-! SUPPORT. FAULT frames on their way and ports that are stuck (R78, R79). -/

namespace Sys2Proof.Machine

/-! ## FAULT frames (R78) -/

section
variable {s t : State} {f : FaultFrame}

theorem faultPath_of_core (kept : BellKept s t) (core : t.belCore = s.belCore) : t.faultPath = s.faultPath := by
  have acting : t.bel.acting = s.bel.acting := (congrArg Bel.acting core :)
  have up : t.bel.upstream = s.bel.upstream := (congrArg Bel.upstream core :)
  rw [State.faultPath, acting, up, kept.bellServes, State.faultPath]

theorem faultFrame_of_good {b : Nat} (on : s.bellOn = true) (serves : s.bellServes b = true) (f : FaultFrame) :
    faultFrame b f .good s = queueFault f (noteFrame b s) := by
  unfold faultFrame
  rw [if_neg (by simp [on, serves]), if_neg (by decide)]

theorem bellSendFault_dropped (f : FaultFrame) (s : State) : (bellSendFault f s).bel.dropped = s.bel.dropped := by
  have sent : (bellSend s.bel.upstream (.fault f) true s).bel.dropped = s.bel.dropped := by
    unfold bellSend
    dsimp only
    split_ifs <;> rfl
  unfold bellSendFault
  split
  · rfl
  · exact sent

theorem bellSendFault_of_acting (h : s.bel.acting = true) : bellSendFault f s = s.emit (.manager f) := if_pos h

theorem bellSendFault_of_not_acting (h : s.bel.acting = false) :
    bellSendFault f s = bellSend s.bel.upstream (.fault f) true s := if_neg (by simp [h])

/-- With none waiting and none dropped a FAULT frame goes out alone. -/
theorem queueFault_of_path (path : s.faultPath = true) (empty : s.bel.faultQ = []) (none_ : s.bel.dropped = 0) :
    queueFault f s = (bellSendFault f (s.modBel (fun b => { b with faultQ := [f] }))).modBel
      (fun b => { b with faultQ := [] }) := by
  have joins : s.modBel (fun b => { b with faultQ := b.faultQ ++ [f] }) = s.modBel (fun b => { b with faultQ := [f] }) := by
    rw [State.modBel, empty, List.nil_append, State.modBel]
  have open_ : (s.modBel (fun b => { b with faultQ := [f] })).faultPath = true := path
  unfold queueFault
  dsimp only
  rw [if_pos (by simp [path]), joins, flushFaults, if_neg (by simp [open_])]
  refine if_pos ?_
  rw [State.modBel_bel]
  exact (bellSendFault_dropped f _).trans none_

/-- Elsewhere than at the Bellwether it goes out on the upstream port, or waits there for the next MARK. -/
theorem queueFault_upstream (acting : s.bel.acting = false) (up : s.bel.upstream < 4)
    (serves : s.bellServes s.bel.upstream = true) (empty : s.bel.faultQ = []) (none_ : s.bel.dropped = 0) :
    (s.heldBack (.fault f) = false → ∃ ok, (queueFault f s).out = .bell s.bel.upstream (.fault f) ok :: s.out) ∧
    (s.heldBack (.fault f) = true → (queueFault f s).out = s.out ∧ ((queueFault f s).bellPort s.bel.upstream).waitQ =
      (s.bellPort s.bel.upstream).waitQ ++ [(.fault f, true, s.bel.gt)]) := by
  let v := s.modBel (fun b => { b with faultQ := [f] })
  have path : s.faultPath = true := by simp [State.faultPath, up, serves]
  have sent : queueFault f s = (bellSend s.bel.upstream (.fault f) true v).modBel (fun b => { b with faultQ := [] }) :=
    (queueFault_of_path path empty none_).trans (congrArg _ (bellSendFault_of_not_acting (s := v) acting))
  have vserves : v.bellServes s.bel.upstream = true := serves
  refine ⟨fun free => ?_, fun held => ?_⟩
  · rw [sent, State.modBel_out, bellSend_of_free vserves (by simp) (by exact free)]
    exact putFrame_out _ _ _ v
  · rw [sent, State.modBel_out, bellSend_of_held vserves (by simp) (by exact held)]
    refine ⟨rfl, ?_⟩
    have waits := State.modBellPort_bellPort_self s.bel.upstream v
      (fun p => { p with waitQ := p.waitQ ++ [(.fault f, true, s.bel.gt)] })
    exact congrArg BellPort.waitQ waits

/-- A FAULT frame that can leave nowhere waits, or is dropped where the queue is full. -/
theorem queueFault_of_no_path (path : s.faultPath = false) : queueFault f s =
    if s.bel.faultQ.length < Config.faultQueueDepth then s.modBel (fun b => { b with faultQ := b.faultQ ++ [f] })
    else (s.modBel (fun b => { b with dropped := b.dropped + 1 })).modFlt (fun t => { t with bellDrop := sat32 t.bellDrop }) := by
  have stays (u : State) (h : u.faultPath = false) : flushFaults u = u := if_pos (by simp [h])
  unfold queueFault
  simp only [path, Bool.false_or, decide_eq_true_eq]
  split
  · exact stays _ path
  · exact stays _ path

end

/-! ## Records that stay open -/

/-- The records that were open are open, and one more at most. -/
def RecordsKept (l m : List FaultRec) : Prop :=
  m.length ≤ l.length + 1 ∧ ∀ r ∈ l, ∃ q ∈ m, q.source = r.source ∧ q.unit = r.unit

theorem Attic.openRecord_kept {a : Attic} (room : a.openRecs.length < 64) (r : FaultRec) :
    RecordsKept a.openRecs (a.openRecord r).openRecs := by
  have opens : (a.openRecord r).openRecs = a.openRecs ++ [r] := by
    unfold Attic.openRecord
    split
    · next o rest h => rw [if_neg (by omega)]
    · rfl
  rw [opens]
  exact ⟨by simp, fun q hq => ⟨q, List.mem_append_left _ hq, rfl, rfl⟩⟩

theorem recordFault_records (e : FaultEvent) {s : State} (room : s.attic.openRecs.length < 64) :
    RecordsKept s.attic.openRecs (recordFault e s).attic.openRecs := by
  have listed : ∃ t, RecordsKept s.attic.openRecs t.attic.openRecs ∧
      recordFault e s = if e.cls = 3 then enterFatal e.source t else t := by
    refine ⟨_, ?_, rfl⟩
    change RecordsKept _ (if s.attic.openRecs.any (·.is e.source e.unit) = true then _ else _ : State).attic.openRecs
    split
    · refine ⟨by simp, fun r hr => ⟨_, List.mem_map_of_mem hr, ?_⟩⟩
      split <;> exact ⟨rfl, rfl⟩
    · rw [report_attic]
      exact Attic.openRecord_kept room _
  obtain ⟨t, kept, h⟩ := listed
  rw [h]
  split
  · rwa [(enterFatal_changes (.refl [.glb, .flt, .fatal, .out] t) (by decide) .attic (by decide) :
      (enterFatal e.source t).attic = t.attic)]
  · exact kept

theorem enterHoldover_record {s : State} (room : s.attic.openRecs.length < 64) {r : FaultRec}
    (hr : r ∈ s.attic.openRecs) : ∃ q ∈ (enterHoldover s).attic.openRecs, q.source = r.source ∧ q.unit = r.unit := by
  have shown : (setBellState .holdover (s.modBel (fun b => { b with inTol := 0 }))).attic.openRecs = s.attic.openRecs := by
    rw [setBellState_openRecs, State.modBel_attic]
  unfold enterHoldover
  split
  · exact ⟨r, hr, rfl, rfl⟩
  · exact (recordFault_records _ (shown ▸ room)).2 r (shown ▸ hr)

/-! ## Stuck ports (R79) -/

/-- The port is fenced at the time when it is known to be stuck. -/
def State.fencing (s : State) (b : Nat) : State :=
  (stuckAt b s).modBel (fun x => { x with stuck := x.stuck ||| (1#4 <<< b), upstream := if x.upstream = b then 4 else x.upstream })

/-- The fence of a Bell port is shown and recorded. -/
def loggedStuck (b : Nat) (s : State) : State :=
  recordFault { source := 0x0201, unit := unitBell b, cls := 1, access := 0x0B, fenced := true } (signal 4 s)

theorem stuckAt_core (b : Nat) (s : State) : (stuckAt b s).belCore = { s.belCore with gt := (stuckAt b s).bel.gt } := by
  unfold stuckAt
  dsimp only
  split
  · rfl
  · exact advanceTo_core _ s

theorem loggedStuck_core (b : Nat) (s : State) : (loggedStuck b (s.fencing b)).belCore = { s.belCore with
    gt := (stuckAt b s).bel.gt, stuck := s.bel.stuck ||| (1#4 <<< b)
    upstream := if s.bel.upstream = b then 4 else s.bel.upstream } := by
  have fences : (s.fencing b).belCore = { (stuckAt b s).belCore with
      stuck := (stuckAt b s).belCore.stuck ||| (1#4 <<< b)
      upstream := if (stuckAt b s).belCore.upstream = b then 4 else (stuckAt b s).belCore.upstream } := rfl
  rw [loggedStuck, recordFault_core, signal_core, fences, stuckAt_core]
  rfl

theorem bellPortStuck_eq {b : Nat} {s : State} (on : s.bellOn = true) (serves : s.bellServes b = true) :
    bellPortStuck b s = if s.bel.acting || s.bel.state = .unsync then loggedStuck b (s.fencing b)
      else enterHoldover (loggedStuck b (s.fencing b)) := by
  have core := loggedStuck_core b s
  have split_ : bellPortStuck b s = if (loggedStuck b (s.fencing b)).bel.acting ||
      (loggedStuck b (s.fencing b)).bel.state = .unsync then loggedStuck b (s.fencing b)
      else enterHoldover (loggedStuck b (s.fencing b)) := if_neg (by simp [on, serves])
  rw [split_]
  generalize loggedStuck b (s.fencing b) = w at core
  have acting : w.bel.acting = s.bel.acting := (congrArg Bel.acting core :)
  have state : w.bel.state = s.bel.state := (congrArg Bel.state core :)
  rw [acting, state]

/-- The fence is on record, also behind a record of HOLDOVER while there is room. -/
theorem bellPortStuck_recorded {b : Nat} {s : State} (on : s.bellOn = true) (serves : s.bellServes b = true)
    (room : s.attic.openRecs.length < 63) :
    ∃ r ∈ (bellPortStuck b s).attic.openRecs, r.source = 0x0201 ∧ r.unit = 0x2E10 + b := by
  have attic : (signal 4 (s.fencing b)).attic = s.attic := by
    have late : (stuckAt b s).attic = s.attic :=
      stuckAt_changes (.refl [.glb, .gt, .clock, .shapers, .thm] s) (by decide) .attic (by decide)
    have shown : (signal 4 (s.fencing b)).attic = (s.fencing b).attic := signal_frame 4 _ .attic (by decide)
    exact shown.trans late
  obtain ⟨r, hr, hs, hu⟩ := (recordFault_of_not_ft (e := {
    source := 0x0201, unit := unitBell b, cls := 1, access := 0x0B, fenced := true }) (by simp) (signal 4 (s.fencing b))).opened
  have listed : r ∈ (loggedStuck b (s.fencing b)).attic.openRecs := hr
  have few : (loggedStuck b (s.fencing b)).attic.openRecs.length < 64 := by
    have := (recordFault_records { source := 0x0201, unit := unitBell b, cls := 1, access := 0x0B, fenced := true }
      (s := signal 4 (s.fencing b)) (by rw [attic]; omega)).1
    rw [attic] at this
    exact Nat.lt_of_le_of_lt this (by omega)
  rw [bellPortStuck_eq on serves]
  split
  · exact ⟨r, listed, hs, hu⟩
  · obtain ⟨q, hq, qs, qu⟩ := enterHoldover_record few listed
    exact ⟨q, hq, qs.trans hs, qu.trans hu⟩

theorem bellPortStuck_core {b : Nat} {s : State} (on : s.bellOn = true) (serves : s.bellServes b = true) :
    ∃ n, (bellPortStuck b s).belCore = { s.belCore with
      gt := (stuckAt b s).bel.gt, stuck := s.bel.stuck ||| (1#4 <<< b)
      upstream := if s.bel.upstream = b then 4 else s.bel.upstream, inTol := n
      state := if s.bel.acting || s.bel.state = .unsync then s.bel.state else .holdover } := by
  rw [bellPortStuck_eq on serves]
  split
  · exact ⟨_, loggedStuck_core b s⟩
  · have held := enterHoldover_core (loggedStuck b (s.fencing b))
    rw [loggedStuck_core] at held
    exact ⟨_, held⟩

/-- The fence of a Bell port is taken away and its STUCK bit shown clear. -/
def State.unfenced (s : State) (b : Nat) : State :=
  signal 4 (s.modBel (fun x => { x with stuck := x.stuck &&& ~~~(1#4 <<< b) }))

theorem retrainBell_aligned (b : Nat) (s : State) : ((retrainBell b s).blnPort b).aligned = false :=
  congrArg BlnPort.aligned (s.modBln_blnPort_self b (fun l => { l with aligned := false }))

theorem retrainBell_rounds (b : Nat) (s : State) : ((retrainBell b s).bellPort b).rounds = [] := by
  rw [retrainBell, State.modBellPort_bellPort_self]

end Sys2Proof.Machine
end

section
open Sys2Proof Sys2Proof.Machine

/-- Settles O6: a FAULT frame goes by `queueFault`, and a port that is stuck is fenced and recorded before HOLDOVER. -/
theorem faultFramesAndStuckPorts : Obligations.FaultFramesAndStuckPorts := by
  unfold Obligations.FaultFramesAndStuckPorts
  refine ⟨fun b f s hb hf on serves => ?_, fun b s hb => ⟨fun on serves => ?_, fun stage fatal stuck => ?_⟩⟩
  · have taken : exec (.faultFrame b f .good) s = .next (queueFault f (noteFrame b s)) :=
      (if_pos (by rw [hb, hf]; rfl)).trans (congrArg _ (faultFrame_of_good on serves f))
    have path : (noteFrame b s).faultPath = s.faultPath := faultPath_of_core (noteFrame_kept b s) (noteFrame_core b s)
    have noted : ChangesOnly [.bel] s (noteFrame b s) := noteFrame_changes (.refl _ s) (by decide)
    rw [taken]
    refine ⟨fun empty none_ acting => ?_, fun empty none_ acting up upServes => ?_, fun closed => ?_⟩
    · have open_ : s.faultPath = true := by simp [State.faultPath, acting]
      have sent := queueFault_of_path (f := f) (path.trans open_) empty none_
      refine ⟨_, rfl, ?_⟩
      rw [sent, bellSendFault_of_acting (by exact acting)]
      refine ⟨rfl, ?_, ?_⟩
      · exact (((noted.mono (by decide)).modBel _ (by decide) (.inl rfl)).emit _ (by decide)).modBel _ (by decide) (.inl rfl)
      · change { (noteFrame b s).bel with faultQ := [] } = (noteFrame b s).bel
        have same : { (noteFrame b s).bel with faultQ := s.bel.faultQ } = (noteFrame b s).bel := rfl
        rwa [empty] at same
    · have open_ : s.faultPath = true := by simp [State.faultPath, up, upServes]
      have sent := queueFault_of_path (f := f) (path.trans open_) empty none_
      have frame : ChangesOnly [.bel, .bln, .out] s (queueFault f (noteFrame b s)) := by
        rw [sent]
        exact (bellSendFault_changes ((noted.mono (by decide)).modBel _ (by decide) (.inl rfl)) (by decide)).modBel _
          (by decide) (.inl rfl)
      refine ⟨_, rfl, frame, ?_⟩
      have same := heldBack_of_core (noteFrame_core b s) (.fault f)
      have port : ((noteFrame b s).bellPort s.bel.upstream).waitQ = (s.bellPort s.bel.upstream).waitQ := by
        rw [noteFrame, State.modBellPort_bellPort]
        split
        · next h => rw [h]
        · rfl
      have goes := queueFault_upstream (f := f) (s := noteFrame b s) acting up
        ((noteFrame_kept b s).bellServes _ ▸ upServes) empty none_
      rw [same] at goes
      exact ⟨goes.1, fun held => ⟨(goes.2 held).1, (goes.2 held).2.trans (congrArg (· ++ _) port)⟩⟩
    · rw [queueFault_of_no_path (path.trans closed)]
      rfl
  · obtain ⟨n, core⟩ := bellPortStuck_core on serves
    have recorded := bellPortStuck_recorded on serves (b := b) (s := s)
    have frame : ChangesOnly (timeParts ++ faultParts) s (bellPortStuck b s) := bellPortStuck_changes (.refl _ s) (by decide)
    refine ⟨_, if_pos (decide_eq_true hb), ?_⟩
    generalize bellPortStuck b s = t at core recorded frame ⊢
    refine ⟨(congrArg Bel.stuck core :), (congrArg Bel.upstream core :), recorded, fun acting state => ?_, ?_, frame⟩
    · refine (congrArg Bel.state core).trans (if_neg ?_)
      simp [acting, state]
    · refine (congrArg Bel.gt core).trans ?_
      exact apply_ite (fun u : State => u.bel.gt) _ _ _
  · have cleared : onBlock 5 false (bellPortUnfence b) s = retrainBell b (s.unfenced b) :=
      (onBlock_of_ready stage fatal _).trans (if_neg (by simp [stuck, State.isFatal, fatal]))
    have frame : ChangesOnly [.bel, .bln, .host, .out] s (s.unfenced b) :=
      (signal_frame 4 _).mono (by decide) |> ((ChangesOnly.refl _ s).modBel _ (by decide) (.inl rfl)).trans
    have bits : (s.unfenced b).bel.stuck = s.bel.stuck &&& ~~~(1#4 <<< b) :=
      (congrArg Bel.stuck (signal_core 4 (s.modBel (fun x => { x with stuck := x.stuck &&& ~~~(1#4 <<< b) }))) :)
    refine ⟨_, (if_pos (decide_eq_true hb)).trans (congrArg _ cleared), ?_⟩
    generalize s.unfenced b = v at frame bits ⊢
    exact ⟨bits, retrainBell_aligned b v, retrainBell_rounds b v, retrainBell_changes frame (by decide)⟩
end

section
/-! SUPPORT. Barriers of a Field (R73 to R75, R290): arrivals that join, releases that are taken, and participants that go. -/

namespace Sys2Proof.Machine

/-! ## What a barrier's operations leave -/

section
variable {s t : State} {f : Nat}

theorem modBarrier_kept (f : Nat) (g : Barrier → Barrier) (s : State) : BellKept s (s.modBarrier f g) := .modBel _ _ rfl

/-- The SEQ at hand of a Field of the device's own is the barrier's (R73). -/
theorem State.barrierSeq_of_inField (h : s.inField f = true) : s.barrierSeq f = (s.barrier f).seq := by
  simp [State.barrierSeq, h]

theorem State.barrierSeq_congr (place : t.inField f = s.inField f) (seq : (t.barrier f).seq = (s.barrier f).seq)
    (children : (t.barrier f).children = (s.barrier f).children) : t.barrierSeq f = s.barrierSeq f := by
  unfold State.barrierSeq
  dsimp only
  rw [place, seq, children]

theorem State.barLate_of_base (h : t.bellBase = s.bellBase) : t.bel.barLate = s.bel.barLate := (congrArg Bel.barLate h :)

theorem relayRelease_barrier (fr : ReleaseFrame) (s : State) (f : Nat) : (relayRelease fr s).barrier f = s.barrier f :=
  State.barrier_of_core (relayRelease_core fr s) f

end

/-! ## Arrivals (R73) -/

section
variable (b : Nat) (f : ArriveFrame) (s : State)

theorem noteArrive_kept : BellKept s (noteArrive b f s) := (modBarrier_kept _ _ s).trans (modBarrier_kept _ _ _)

theorem noteArrive_base : (noteArrive b f s).bellBase = s.bellBase := rfl

theorem noteArrive_barrier_of_ne {g : Nat} (h : g ≠ f.field) : (noteArrive b f s).barrier g = s.barrier g := by
  unfold noteArrive
  dsimp only
  rw [State.modBarrier_barrier, if_neg h, State.modBarrier_barrier, if_neg h]

/-- An ARRIVE takes the place of the port's earlier one, and the first for the SEQ at hand starts the deadline. -/
theorem noteArrive_barrier : let u := noteArrive b f s
    (u.barrier f.field).opened = true ∧ (u.barrier f.field).release = (s.barrier f.field).release ∧
    (u.barrier f.field).children = (s.barrier f.field).children.filter (fun e => e.1 != b) ++ [(b, f)] ∧
    (u.barrier f.field).firstGt = if f.seq ≠ u.barrierSeq f.field then (s.barrier f.field).firstGt
      else if u.barrierSeq f.field = s.barrierSeq f.field then (s.barrier f.field).firstGt.or (some s.bel.gt)
      else some s.bel.gt := by
  intro u
  let join (r : Barrier) : Barrier := { r with
    opened := true
    sent := if s.inField f.field then r.sent else r.sent && r.children.all (fun e => e.2.seq == f.seq)
    children := r.children.filter (fun e => e.1 != b) ++ [(b, f)] }
  let t := s.modBarrier f.field join
  let start (r : Barrier) : Barrier := { r with
    firstGt := if f.seq ≠ t.barrierSeq f.field then r.firstGt
      else if t.barrierSeq f.field = s.barrierSeq f.field then r.firstGt.or (some s.bel.gt) else some s.bel.gt }
  have ht : t.barrier f.field = join (s.barrier f.field) := State.modBarrier_barrier_self ..
  have hu : u.barrier f.field = start (t.barrier f.field) := State.modBarrier_barrier_self ..
  have seq : u.barrierSeq f.field = t.barrierSeq f.field :=
    State.barrierSeq_congr ((modBarrier_kept _ _ t).inField _) (by rw [hu]) (by rw [hu])
  rw [seq, hu, ht]
  exact ⟨rfl, rfl, rfl, rfl⟩

end

/-! ## Releases (R74, R75) -/

section
variable {fr : ReleaseFrame} {s : State}

/-- A release whose GT has not passed is kept until then. -/
theorem takeRelease_of_due (place : s.inField fr.field = true) (seq : (s.barrier fr.field).seq = fr.seq)
    (due : s.bel.gt ≤ fr.gt) :
    takeRelease fr s = s.modBarrier fr.field (fun r => { r with release := some (fr.status, fr.gt) }) := by
  unfold takeRelease
  dsimp only
  rw [if_neg (by simp [place]), if_neg (by simp [seq]), if_neg (by omega)]

/-- The Crofts that a release reaches: those that wait, or with an error all that take part. -/
def State.reached (s : State) (f status : Nat) : State :=
  if status = 0 then (s.barrier f).waiters.foldl (fun s w => raiseFlag w.1 w.2 1 s) s
  else (s.participants f).foldl (fun s k => endProgram k s) s

theorem reached_frame (s : State) (f status : Nat) : ChangesOnly [.crf] s (s.reached f status) :=
  .ite_any (.foldl _ (.refl _ s) fun _ _ h => raiseFlag_changes h (by decide))
    (.foldl _ (.refl _ s) fun _ _ h => endProgram_changes h (by decide))

theorem releaseParticipants_eq (f status : Nat) (s : State) : ∃ again,
    releaseParticipants f status s = (s.reached f status).modBarrier f (fun r => r.next again) := ⟨_, rfl⟩

theorem releaseParticipants_barrier (f status : Nat) (s : State) : ((releaseParticipants f status s).barrier f).seq =
    ((s.barrier f).seq + 1) % 1024 ∧ ((releaseParticipants f status s).barrier f).waiters = [] ∧
      ((releaseParticipants f status s).barrier f).release = none := by
  obtain ⟨again, h⟩ := releaseParticipants_eq f status s
  have same : (s.reached f status).barrier f = s.barrier f := by
    rw [State.barrier, (reached_frame s f status).bel_eq (by decide) (by decide), State.barrier]
  rw [h, State.modBarrier_barrier_self, same]
  exact ⟨rfl, rfl, rfl⟩

theorem releaseParticipants_barLate (f status : Nat) (s : State) :
    (releaseParticipants f status s).bel.barLate = s.bel.barLate := by
  obtain ⟨again, h⟩ := releaseParticipants_eq f status s
  rw [h, ← (reached_frame s f status).bel_eq (by decide) (by decide)]
  rfl

theorem endProgram_prog (k j : Nat) (s : State) :
    ((endProgram k s).croft j).prog = if j = k then none else (s.croft j).prog := by
  rw [endProgram, State.modCroft_croft]
  split <;> rfl

/-- Every Croft of a list whose programs end has none. -/
theorem endPrograms_prog (l : List Nat) (s : State) {k : Nat} (h : k ∈ l ∨ (s.croft k).prog = none) :
    ((l.foldl (fun s k => endProgram k s) s).croft k).prog = none := by
  induction l generalizing s with
  | nil => exact h.resolve_left (by simp)
  | cons j r ih =>
    refine ih _ ?_
    rw [endProgram_prog]
    rcases h with h | h
    · rcases List.mem_cons.1 h with rfl | h
      · exact .inr (if_pos rfl)
      · exact .inl h
    · exact .inr (by simp [h])

theorem takeRelease_of_late (place : s.inField fr.field = true) (seq : (s.barrier fr.field).seq = fr.seq)
    (late : fr.gt < s.bel.gt) : (takeRelease fr s).bel.barLate = true := by
  unfold takeRelease
  dsimp only
  rw [if_neg (by simp [place]), if_neg (by simp [seq]), if_pos late, releaseParticipants_barLate]
  exact (congrArg Bel.barLate (recordFault_core _ _) :)

/-- BAR_LATE once set stays. -/
theorem takeRelease_barLate (h : s.bel.barLate = true) : (takeRelease fr s).bel.barLate = true := by
  unfold takeRelease
  dsimp only
  split_ifs
  · exact h
  · exact h
  · rw [releaseParticipants_barLate]
    exact (congrArg Bel.barLate (recordFault_core _ _) :)
  · exact h

theorem sendRelease_barLate (h : s.bel.barLate = true) (f status gt : Nat) :
    (sendRelease f status gt s).bel.barLate = true :=
  takeRelease_barLate ((congrArg Bel.barLate (relayRelease_core _ s) :).trans h)

theorem tryArrive_barLate (h : s.bel.barLate = true) (f : Nat) : (tryArrive f s).bel.barLate = true := by
  unfold tryArrive
  dsimp only
  split_ifs
  · exact sendRelease_barLate h _ _ _
  · exact h
  · exact (State.barLate_of_base (sendArrive_base f s)).trans h

/-- While a release is out no ARRIVE goes up and no other release is sent. -/
theorem tryArrive_of_released {f : Nat} (h : (s.barrier f).release.isSome = true) : tryArrive f s = s := by
  have up : sendArrive f s = s := by
    unfold sendArrive
    exact if_pos (by simp [h])
  unfold tryArrive
  rw [up]
  simp [h]

/-- The release of a full or overdue barrier, relayed to the children, is kept until its GT. -/
theorem sendRelease_of_due {f st g : Nat} (place : s.inField f = true) (due : s.bel.gt ≤ g) :
    ∃ fr : ReleaseFrame, sendRelease f st g s =
      (relayRelease fr s).modBarrier f (fun r => { r with release := some (st, g) }) := by
  let fr : ReleaseFrame := { field := f, seq := s.barrierSeq f, status := st, gt := g }
  refine ⟨fr, takeRelease_of_due (fr := fr) ((relayRelease_kept fr s).inField f ▸ place) ?_ ?_⟩
  · rw [relayRelease_barrier]
    exact (State.barrierSeq_of_inField place).symm
  · exact (congrArg Bel.gt (relayRelease_core fr s) :).symm ▸ due

theorem sendRelease_of_late {f st g : Nat} (place : s.inField f = true) (late : g < s.bel.gt) :
    (sendRelease f st g s).bel.barLate = true := by
  let fr : ReleaseFrame := { field := f, seq := s.barrierSeq f, status := st, gt := g }
  refine takeRelease_of_late (fr := fr) ((relayRelease_kept fr s).inField f ▸ place) ?_ ?_
  · rw [relayRelease_barrier]
    exact (State.barrierSeq_of_inField place).symm
  · exact (congrArg Bel.gt (relayRelease_core fr s) :).symm ▸ late

/-- At the acting Bellwether a full count is released with STATUS 0 (R74). -/
theorem tryArrive_of_full {f : Nat} (acting : s.bel.acting = true) (open_ : (s.barrier f).release = none)
    (full : (s.subtreeCount f).1 = s.fieldDevices f) (some_ : 0 < s.fieldDevices f) :
    tryArrive f s = sendRelease f 0 ((s.subtreeCount f).2 + s.barOffset f) s := by
  unfold tryArrive
  dsimp only
  rw [if_pos acting, if_pos (by simp [open_, full, some_])]

/-! ## The commands -/

theorem arrive_of_good {b : Nat} (on : s.bellOn = true) (serves : s.bellServes b = true) (f : ArriveFrame) :
    arrive b f .good s = tryArrive f.field (noteArrive b f (noteFrame b s)) := by
  unfold arrive
  rw [if_neg (by simp [on, serves]), if_neg (by decide)]

theorem releaseFrame_of_good {b : Nat} (on : s.bellOn = true) (serves : s.bellServes b = true) (f : ReleaseFrame) :
    releaseFrame b f .good s = tryArrive f.field (takeRelease f (relayRelease f (noteFrame b s))) := by
  unfold releaseFrame
  rw [if_neg (by simp [on, serves]), if_neg (by decide)]

theorem barrierRelease_of_release {f st g : Nat} (fatal : s.flt.fatal = none) (h : (s.barrier f).release = some (st, g)) :
    barrierRelease f s = tryArrive f (releaseParticipants f st (advanceTo g s)) := by
  unfold barrierRelease
  rw [if_neg (by simp [State.isFatal, fatal]), h]

/-- The deadline of a barrier passes, and that is recorded (R75). -/
def State.overdue (s : State) (f g : Nat) : State :=
  let v := advanceTo (g + s.barDeadline f * s.tickLen) s
  recordFault { source := 0x0206, unit := 0x2F01, cls := 2, access := 0x0B, addr := f * 1024 + v.barrierSeq f, info := f } v

theorem barrierTimeout_of_open {f g : Nat} (on : s.bellOn = true) (acting : s.bel.acting = true)
    (open_ : (s.barrier f).release = none) (first : (s.barrier f).firstGt = some g) : barrierTimeout f s =
      sendRelease f 1 ((s.overdue f g).bel.gt + (s.overdue f g).barOffset f) (s.overdue f g) := by
  unfold barrierTimeout
  rw [if_neg (by simp [on, acting, open_]), first]
  rfl

theorem overdue_kept (f g : Nat) (s : State) : BellKept s (s.overdue f g) := by
  unfold State.overdue
  exact (advanceTo_kept _ s).trans (recordFault_kept _ _)

theorem overdue_core (f g : Nat) (s : State) : (s.overdue f g).belCore =
    { s.belCore with gt := (advanceTo (g + s.barDeadline f * s.tickLen) s).bel.gt } :=
  (recordFault_core _ _).trans (advanceTo_core _ s)

theorem overdue_recorded (f g : Nat) (s : State) : ∃ r ∈ (s.overdue f g).attic.openRecs, r.source = 0x0206 := by
  obtain ⟨r, hr, hs, -⟩ := (recordFault_of_not_ft (e := {
    source := 0x0206, unit := 0x2F01, cls := 2, access := 0x0B
    addr := f * 1024 + (advanceTo (g + s.barDeadline f * s.tickLen) s).barrierSeq f, info := f }) (by simp)
    (advanceTo (g + s.barDeadline f * s.tickLen) s)).opened
  exact ⟨r, hr, hs⟩

/-- What a release that is kept until its GT leaves. -/
theorem sendRelease_shown {f st g : Nat} (place : s.inField f = true) (due : s.bel.gt ≤ g) :
    (sendRelease f st g s).bel.gt = s.bel.gt ∧ ((sendRelease f st g s).barrier f).release = some (st, g) ∧
      (sendRelease f st g s).attic = s.attic := by
  obtain ⟨fr, sent⟩ := sendRelease_of_due (st := st) place due
  rw [sent, State.modBarrier_barrier_self]
  refine ⟨(congrArg Bel.gt (relayRelease_core fr s) :), rfl, ?_⟩
  exact relayRelease_changes (.refl [.bel, .bln, .out] s) (by decide) .attic (by decide)

end

end Sys2Proof.Machine
end

section
open Sys2Proof Sys2Proof.Machine

/-- Settles O5: ARRIVE by `noteArrive`, RELEASE by `takeRelease`, and the two commands of a barrier by the releases they make. -/
theorem barriersArriveAndRelease : Obligations.BarriersArriveAndRelease := by
  unfold Obligations.BarriersArriveAndRelease
  refine ⟨fun b f s hb hf on serves => ?_, fun b f s hb hf on serves place seq => ?_, fun f st g s hf fatal hr => ?_,
    fun f g s hf on acting open_ first place => ?_⟩
  · have noted : BellKept s (noteArrive b f (noteFrame b s)) := (noteFrame_kept b s).trans (noteArrive_kept b f _)
    obtain ⟨opened, release, children, firstGt⟩ := noteArrive_barrier b f (noteFrame b s)
    have before (g : Nat) : (noteFrame b s).barrier g = s.barrier g := State.barrier_of_core (noteFrame_core b s) g
    have others (g : Nat) (h : g ≠ f.field) : (noteArrive b f (noteFrame b s)).barrier g = s.barrier g :=
      (noteArrive_barrier_of_ne b f _ h).trans (before g)
    have frame : ChangesOnly [.bel] s (noteArrive b f (noteFrame b s)) :=
      noteArrive_changes (noteFrame_changes (.refl _ s) (by decide)) (by decide)
    have base : (noteArrive b f (noteFrame b s)).bellBase = s.bellBase :=
      (noteArrive_base b f _).trans (State.base_of_core (noteFrame_core b s))
    have seqV : (noteFrame b s).barrierSeq f.field = s.barrierSeq f.field :=
      State.barrierSeq_congr ((noteFrame_kept b s).inField _) (by rw [before]) (by rw [before])
    have taken : exec (.arrive b f .good) s = .next (arrive b f .good s) := if_pos (by rw [hb, hf]; rfl)
    rw [taken, arrive_of_good on serves]
    refine ⟨noteArrive b f (noteFrame b s), rfl, ?_⟩
    rw [before] at release children firstGt
    rw [seqV] at firstGt
    generalize noteArrive b f (noteFrame b s) = u at *
    have gt : u.bel.gt = s.bel.gt := (congrArg Bel.gt base :)
    have actingU : u.bel.acting = s.bel.acting := (congrArg Bel.acting base :)
    refine ⟨opened, children, firstGt, frame, others, fun acting place none_ full some_ => ?_⟩
    intro g
    rw [tryArrive_of_full (actingU.trans acting) (release.trans none_) (by rw [full, noted.fieldDevices])
      (by rwa [noted.fieldDevices]), noted.barOffset]
    split
    · next due => exact (sendRelease_shown (by rwa [noted.inField]) (by rwa [gt])).2.1
    · next late => exact sendRelease_of_late (by rwa [noted.inField]) (by rw [gt]; omega)
  · have taken : exec (.releaseFrame b f .good) s = .next (tryArrive f.field (takeRelease f (relayRelease f (noteFrame b s)))) :=
      (if_pos (by rw [hb, hf]; rfl)).trans (congrArg _ (releaseFrame_of_good on serves f))
    have core : (relayRelease f (noteFrame b s)).belCore = s.belCore := (relayRelease_core _ _).trans (noteFrame_core b s)
    have kept : BellKept s (relayRelease f (noteFrame b s)) := (noteFrame_kept b s).trans (relayRelease_kept _ _)
    have gt : (relayRelease f (noteFrame b s)).bel.gt = s.bel.gt := (congrArg Bel.gt core :)
    have here : (relayRelease f (noteFrame b s)).inField f.field = true := by rw [kept.inField, place]
    have same : ((relayRelease f (noteFrame b s)).barrier f.field).seq = f.seq := by rw [State.barrier_of_core core, seq]
    rw [taken]
    refine ⟨fun due => ?_, fun late => ⟨_, rfl, tryArrive_barLate (takeRelease_of_late here same (by rwa [gt])) _⟩⟩
    rw [takeRelease_of_due here same (by rwa [gt]), tryArrive_of_released]
    rw [State.modBarrier_barrier_self]
    rfl
  · have late : ChangesOnly timeParts s (advanceTo g s) := advanceTo_frame g s
    have crf : (advanceTo g s).crf = s.crf := late .crf (by decide)
    obtain ⟨seq, waiters, release⟩ := releaseParticipants_barrier f st (advanceTo g s)
    obtain ⟨again, h⟩ := releaseParticipants_eq f st (advanceTo g s)
    have gone : (releaseParticipants f st (advanceTo g s)).crf = ((advanceTo g s).reached f st).crf := by
      rw [h, State.modBarrier_crf]
    have taken : exec (.barrierRelease f) s = .next (barrierRelease f s) := if_pos (decide_eq_true hf)
    rw [taken, barrierRelease_of_release fatal hr]
    refine ⟨releaseParticipants f st (advanceTo g s), rfl, ?_, ?_, waiters, release, fun ok => ?_, fun bad k hk => ?_, ?_⟩
    · exact congrArg Prod.fst (releaseParticipants_servo f st (advanceTo g s))
    · rw [seq, advanceTo_barrier]
    · rw [gone, State.reached, if_pos ok, advanceTo_barrier]
    · have part : k ∈ (advanceTo g s).participants f := by
        unfold State.participants State.physOf at hk ⊢
        rwa [(advanceTo_kept g s).imageOf, crf]
      rw [State.croft, gone, State.reached, if_neg bad]
      exact endPrograms_prog _ _ (.inl part)
    · exact releaseParticipants_changes (late.mono (by decide)) (by decide)
  · intro now
    have core := overdue_core f g s
    have kept := overdue_kept f g s
    have recorded := overdue_recorded f g s
    refine ⟨barrierTimeout f s, if_pos (decide_eq_true hf), ?_⟩
    rw [barrierTimeout_of_open on acting open_ first, kept.barOffset]
    generalize s.overdue f g = v at core kept recorded
    have gt : v.bel.gt = now := (congrArg Bel.gt core :)
    obtain ⟨tgt, release, attic⟩ := sendRelease_shown (s := v) (f := f) (st := 1) (g := v.bel.gt + s.barOffset f)
      (by rw [kept.inField, place]) (by omega)
    rw [← gt, attic]
    exact ⟨tgt, release, recorded⟩
end


section
/-! The start of a packet at its egress (R83, R85, R86, R108, R114, R129; O12). -/

namespace Sys2Proof.Machine

/-! ## The copy at the front of its queue (R104, R107) -/

theorem State.front_queue {s : State} {eg vc ing : Nat} {w : Waiting} (h : s.front eg vc ing = some w) :
    w.eg = eg ∧ w.vc = vc ∧ w.ing = ing := by
  have meets := List.find?_some h
  simp only [Bool.and_eq_true, beq_iff_eq] at meets
  obtain ⟨⟨⟨_, heg⟩, hvc⟩, hing⟩ := meets
  exact ⟨heg, hvc, hing⟩

theorem startPacket_of_front {s : State} {eg vc ing : Nat} {w : Waiting} (hf : s.flt.fatal = none)
    (h : s.front eg vc ing = some w) :
    startPacket eg vc ing s =
      if s.egressShut w then settleCore (discardCopy w (countFenced eg s))
      else if !s.meets w || !s.inTurn eg vc ing then s
      else if ing ≠ 129 && s.ageLimit vc < s.age w.p then settleCore (agedFold w.p (discardCopy w (countAged eg s)))
      else settleCore (passTurn w (beginCopy w s)) := by
  rw [startPacket, if_neg (by simp [State.isFatal, hf]), h]

/-! ## A copy is discarded (R112, R134) -/

/-- The discard of a copy writes links, buffers and acknowledgements of the core; the queues and the slots' registers it
writes only where it takes the copy out. -/
def State.sameQueues (s t : State) : Prop := t.swc.voq = s.swc.voq ∧ t.swc.slots = s.swc.slots

theorem freeFlits_sameQueues (n vc k : Nat) (s : State) : s.sameQueues (freeFlits n vc k s) := ⟨rfl, rfl⟩

theorem settleBuf_sameQueues (id : Nat) (s : State) : s.sameQueues (settleBuf id s) := by
  rw [settleBuf]
  split <;> split <;> exact ⟨rfl, rfl⟩

theorem resolveTrack_sameQueues (p : Packet) (s : State) : s.sameQueues (resolveTrack p s) := by
  rw [resolveTrack]
  split
  · exact ⟨rfl, rfl⟩
  · dsimp only
    split <;> exact ⟨rfl, rfl⟩

theorem resolveCopy_sameQueues (w : Waiting) (s : State) : s.sameQueues (resolveCopy w s) := by
  rw [resolveCopy]
  split
  · exact ⟨rfl, rfl⟩
  · exact resolveTrack_sameQueues w.p s

theorem discardCopy_voq (w : Waiting) (s : State) :
    (discardCopy w s).swc.voq = s.swc.voq.filter (fun e => !e.is w.id w.eg) := by
  have taken := (settleBuf_sameQueues w.id ((resolveCopy w s).dropCopies (·.is w.id w.eg))).1
  exact taken.trans (congrArg (List.filter fun (e : Waiting) => !e.is w.id w.eg) (resolveCopy_sameQueues w s).1)

theorem discardCopy_gone (w : Waiting) (s : State) :
    ∀ e ∈ (discardCopy w s).swc.voq, ¬(e.id = w.id ∧ e.eg = w.eg) := by
  rw [discardCopy_voq]
  intro e he
  simpa [Waiting.is, ← not_and_or] using (List.mem_filter.1 he).2

theorem discardCopy_slotReg (w : Waiting) (s : State) (n : Nat) : (discardCopy w s).slotReg n = s.slotReg n := by
  have slots := (settleBuf_sameQueues w.id ((resolveCopy w s).dropCopies (·.is w.id w.eg))).2.trans (resolveCopy_sameQueues w s).2
  exact congrArg (Tab.look {} · n) slots

theorem discardCopy_modSlot_changes (w : Waiting) (n : Nat) (f : SlotReg → SlotReg) (s : State) :
    ChangesOnly [.swc] s (discardCopy w (s.modSlot n f)) :=
  discardCopy_changes ((ChangesOnly.refl _ s).modSlot n f (by decide)) (by decide)

/-! ## A copy is started (R86, R108) -/

theorem payShaper_swc (w : Waiting) (s : State) : (payShaper w s).swc = s.swc := by
  rw [payShaper]
  split <;> rfl

theorem payShaper_tokens (w : Waiting) (s : State) (hv : w.vc < 8) :
    ((payShaper w s).shaper w.eg w.vc).tokens =
      if w.eg < 64 ∧ (s.shaper w.eg w.vc).enable = true
      then (s.shaper w.eg w.vc).tokens - s.frameLen w.eg w.p * 256 else (s.shaper w.eg w.vc).tokens := by
  rw [payShaper]
  by_cases optical : w.eg < 64
  · rw [if_neg (by omega), State.modShaper_shaper _ _ _ _ hv hv, if_pos ⟨rfl, rfl⟩]
    by_cases on : (s.shaper w.eg w.vc).enable = true <;> simp [optical, on]
  · rw [if_pos (by omega), if_neg (by simp [optical])]

/-- Where the run of the gate that a copy starts in closes, at an optical egress (R83). -/
def State.closing (s : State) (w : Waiting) := if w.eg < 64 then s.closeAt w.eg w.vc else none

theorem beginCopy_swc (w : Waiting) (s : State) :
    (beginCopy w s).swc = { s.swc with
      voq := s.swc.voq.map (fun e => if e.is w.id w.eg then { e with started := true, close := s.closing w } else e) } :=
  congrArg (fun x : Swc => { x with
    voq := x.voq.map (fun (e : Waiting) => if e.is w.id w.eg then { e with started := true, close := s.closing w } else e) })
    (payShaper_swc w s)

theorem passTurn_turnIn (w : Waiting) (s : State) :
    Tab.look 0 (passTurn w s).swc.turnIn (8 * w.eg + w.vc) = (w.ing + 1) % 130 := Tab.look_put_self ..

theorem passTurn_turnVc (w : Waiting) (s : State) :
    Tab.look 0 (passTurn w s).swc.turnVc w.eg =
      if w.vc = 0 ∨ w.vc = 7 then Tab.look 0 s.swc.turnVc w.eg else (w.vc + 1) % 8 := by
  simp only [passTurn, State.modSwc, Bool.or_eq_true, decide_eq_true_eq]
  split
  · rfl
  · exact Tab.look_put_self ..

/-! ## The order of the VCs at an optical egress (R85) -/

theorem State.vcOf_of_ready_vc0 {s : State} {eg : Nat} (h : s.ready eg 0 ≠ []) : s.vcOf eg = some 0 := by
  simp [State.vcOf, h]

theorem State.vcOf_of_ready_vc7 {s : State} {eg : Nat} (h : s.ready eg 7 ≠ []) : s.vcOf eg = some 0 ∨ s.vcOf eg = some 7 := by
  by_cases first : s.ready eg 0 = []
  · exact .inr (by simp [State.vcOf, first, h])
  · exact .inl (vcOf_of_ready_vc0 first)

theorem State.vcOf_of_inTurn {s : State} {eg vc ing : Nat} (optical : eg < 64) (h : s.inTurn eg vc ing = true) :
    s.vcOf eg = some vc := by
  simpa [State.inTurn, Nat.not_le.2 optical] using (Bool.and_eq_true_iff.1 h).2

end Sys2Proof.Machine
end

section
open Sys2Proof Sys2Proof.Machine

/-- Settles O12: the four outcomes are the branches of `startPacket` on the front copy; the last clause is the order of
the VCs in `State.vcOf`. -/
theorem packetsStartAtTheirEgress : Obligations.PacketsStartAtTheirEgress := by
  unfold Obligations.PacketsStartAtTheirEgress
  intro eg vc ing w s heg hvc hing hf front
  obtain ⟨rfl, rfl, rfl⟩ := State.front_queue front
  have start {t : State} (h : startPacket w.eg w.vc w.ing s = t) : exec (.egressPacketStart w.eg w.vc w.ing) s = .next t :=
    (if_pos (by simp [Wf.slot, Wf.vc, Wf.ingress, heg, hvc, hing])).trans (congrArg _ h)
  have branches := startPacket_of_front hf front
  refine ⟨fun shut => ?_, fun open_ fits turn old => ?_, fun open_ fits turn young => ?_, fun open_ wait => ?_,
    fun optical turn => ⟨fun vc0 => ?_, fun vc7 => ?_⟩⟩
  · refine ⟨_, start (branches.trans (if_pos shut)), discardCopy_gone w _, ?_, discardCopy_modSlot_changes _ _ _ _⟩
    rw [discardCopy_slotReg, countFenced, State.modSlot_slotReg_self]
    rfl
  · refine ⟨discardCopy w (countAged w.eg s), start (branches.trans ?_), discardCopy_gone w _, ?_, discardCopy_modSlot_changes _ _ _ _⟩
    · rw [if_neg (by simp [open_]), if_neg (by simp [fits, turn]), if_pos (by simpa using old)]
    · rw [discardCopy_slotReg, countAged, State.modSlot_slotReg_self]
      rfl
  · refine ⟨passTurn w (beginCopy w s), s.closing w, start (branches.trans ?_), ?_, passTurn_turnIn w _, ?_,
      payShaper_tokens w s hvc, passTurn_changes (beginCopy_changes (.refl _ s) (by decide)) (by decide)⟩
    · rw [if_neg (by simp [open_]), if_neg (by simp [fits, turn]), if_neg (by simpa using young)]
    · exact congrArg (fun x : Swc => { x with
        turnIn := (passTurn w (beginCopy w s)).swc.turnIn, turnVc := (passTurn w (beginCopy w s)).swc.turnVc }) (beginCopy_swc w s)
    · rw [passTurn_turnVc, beginCopy_swc]
  · refine start (branches.trans ?_)
    rcases wait with wait | wait <;> simp [open_, wait]
  · exact Option.some.inj ((State.vcOf_of_inTurn optical turn).symm.trans (State.vcOf_of_ready_vc0 vc0))
  · have now := State.vcOf_of_inTurn optical turn
    exact (State.vcOf_of_ready_vc7 vc7).imp (fun h => Option.some.inj (now.symm.trans h)) (fun h => Option.some.inj (now.symm.trans h))
end

section
/-! SUPPORT. The wire format read back (R89, R93, R97, R98): fields of words, headers, link tags, link CRCs, and the run of
slices that a packet's flits carry. -/

namespace Sys2Proof.Machine

/-! ## Fields of a word (R7) -/

/-- A field of `n` bits is read at the bit where its word carries it. -/
theorem field_at {n lo v : Nat} {x : BitVec n} (h : v / 2 ^ lo % 2 ^ n = x.toNat) : BitVec.ofNat n (v >>> lo) = x :=
  BitVec.eq_of_toNat_eq (by rw [BitVec.toNat_ofNat, Nat.shiftRight_eq_div_pow, h])

/-- A field at the low end of its word. -/
theorem field_low {n v : Nat} {x : BitVec n} (h : v % 2 ^ n = x.toNat) : BitVec.ofNat n v = x :=
  field_at (lo := 0) (by rwa [pow_zero, Nat.div_one])

theorem ofBool_lt (b : Bool) : ofBool b < 2 := by cases b <;> decide

/-- A flag is read at its bit. -/
theorem flag_at {i v : Nat} {b : Bool} (h : v / 2 ^ i % 2 = ofBool b) : bit v i = b := by
  rw [bit, Nat.testBit_eq_decide_div_mod_eq, h]
  cases b <;> rfl

/-- A word is read where a string of words carries it. -/
theorem beAt_words {ws : List Nat} {i : Nat} (h : i < ws.length) (rest : Bytes) :
    beAt (ws.flatMap (beBytes 4) ++ rest) (4 * i) 4 = ws[i] % 2 ^ 32 := by
  induction ws generalizing i with
  | nil => simp at h
  | cons w ws ih =>
    rw [List.flatMap_cons, List.append_assoc]
    cases i with
    | zero => exact beAt_append_beBytes 4 w _
    | succ i =>
      rw [beAt, slice_append_right _ _ _ _ (by simp), length_beBytes, show 4 * (i + 1) - 4 = 4 * i by omega]
      exact ih (by simpa using h)

/-! ## Headers and link tags (Tables 4-1, 4-4, 4-5) -/

theorem length_headerBytes (p : Packet) : (headerBytes p).length = 32 := by simp [headerBytes, headerWords]

theorem parseHeader_headerBytes (p : Packet) (rest : Bytes) :
    parseHeader (headerBytes p ++ rest) = { p with payload := [], crc := 0 } := by
  have word {i : Nat} (h : i < 8) : beAt (headerBytes p ++ rest) (4 * i) 4 = (headerWords p)[i] % 2 ^ 32 := beAt_words h rest
  have := p.dst.isLt; have := p.cls.isLt; have := p.rsv0.isLt; have := p.field.isLt
  have := p.src.isLt; have := p.rsvF.isLt; have := p.rsv1.isLt
  have := ofBool_lt p.order; have := ofBool_lt p.transit; have := ofBool_lt p.mcast; have := ofBool_lt p.track
  have := p.pkey.isLt; have := p.rsv2.isLt; have := p.len.isLt
  have := p.ptype.isLt; have := p.islot.isLt; have := p.flow.isLt
  have := p.stamp.isLt; have := p.tsw0.isLt; have := p.tsw1.isLt
  have := p.rsv7.isLt; have := p.ingress.isLt; have := p.injSeq.isLt
  simp only [parseHeader, word (show 0 < 8 by decide), word (show 1 < 8 by decide), word (show 2 < 8 by decide),
    word (show 3 < 8 by decide), word (show 4 < 8 by decide), word (show 5 < 8 by decide), word (show 6 < 8 by decide),
    word (show 7 < 8 by decide), headerWords, List.getElem_cons_zero, List.getElem_cons_succ, Packet.mk.injEq]
  refine ⟨field_at ?_, field_at ?_, field_at ?_, field_low ?_, field_at ?_, flag_at ?_, flag_at ?_, flag_at ?_, flag_at ?_,
    field_at ?_, field_low ?_, field_at ?_, field_at ?_, field_low ?_, field_at ?_, field_at ?_, field_low ?_, field_low ?_,
    field_low ?_, field_low ?_, field_at ?_, field_at ?_, field_low ?_, trivial, trivial⟩
  all_goals omega

theorem length_tagBytes (t : LinkTag) : (tagBytes t).length = 4 := length_beBytes ..

theorem parseTag_tagBytes (t : LinkTag) (body : Bytes) : parseTag (tagBytes t ++ body) = t := by
  have := t.type.isLt; have := t.vc.isLt; have := t.seq.isLt; have := t.cvc.isLt; have := t.ccount.isLt; have := t.rsv.isLt
  simp only [parseTag, tagBytes, beAt_append_beBytes]
  obtain ⟨type, vc, seq, cvc, ccount, rsv⟩ := t
  simp only [LinkTag.mk.injEq]
  refine ⟨field_at ?_, field_at ?_, field_at ?_, field_at ?_, field_at ?_, field_low ?_⟩
  all_goals dsimp only at *; omega

/-! ## Flits on the link (R89, R93, R95) -/

theorem length_flitBytes (t : LinkTag) (body : Bytes) (mask : Nat) : (flitBytes t body mask).length = body.length + 8 := by
  simp [flitBytes, length_tagBytes]
  omega

theorem parseTag_flitBytes (t : LinkTag) (body : Bytes) (mask : Nat) : parseTag (flitBytes t body mask) = t := by
  rw [flitBytes, List.append_assoc]
  exact parseTag_tagBytes t _

/-- The receiver's checks of a flit of 120 body bytes: its CRC has come as it was computed, and its tag is valid. -/
theorem flitOk_flitBytes {t : LinkTag} {body : Bytes} (h : body.length = 120) {mask : Nat} (hm : mask < 2 ^ 32) :
    flitOk (flitBytes t body mask) = (linkCrc (tagBytes t ++ body) == linkCrc (tagBytes t ++ body) ^^^ mask &&
      t.rsv == 0 && decide (t.type.toNat ≤ 6)) := by
  have front : (tagBytes t ++ body).length = 124 := by rw [List.length_append, length_tagBytes, h]
  have sent : beAt (flitBytes t body mask) 124 4 = linkCrc (tagBytes t ++ body) ^^^ mask := by
    rw [flitBytes, beAt, slice_append_right _ _ _ _ (by omega), front, slice_beBytes, beNat_beBytes]
    exact Nat.mod_eq_of_lt (Nat.xor_lt_two_pow (linkCrc_lt _) hm)
  rw [flitOk, parseTag_flitBytes, sent, flitBytes, List.take_left' front]

/-! ## The payload in its flits (R97) -/

theorem slice_eq_map (bs : Bytes) (off n : Nat) : slice bs off n = (List.range n).map (fun i => bs.getD (off + i) 0) := by
  refine List.ext_getElem (by simp) fun i hi _ => ?_
  rw [length_slice] at hi
  simp only [slice, List.getElem_append, List.length_take, List.length_drop, List.getElem_take, List.getElem_drop,
    List.getElem_replicate, List.getElem_map, List.getElem_range, List.getD_eq_getElem?_getD]
  split
  · rw [List.getElem?_eq_getElem (by omega), Option.getD_some]
  · rw [List.getElem?_eq_none (by omega), Option.getD_none]

theorem slice_add (bs : Bytes) (off m n : Nat) : slice bs off (m + n) = slice bs off m ++ slice bs (off + m) n := by
  simp [slice_eq_map, List.range_add, Nat.add_assoc]

/-- Slices of one length that follow each other are one slice. -/
theorem flatMap_slice (bs : Bytes) (off n k : Nat) :
    (List.range k).flatMap (fun i => slice bs (off + n * i) n) = slice bs off (n * k) := by
  induction k with
  | zero => rfl
  | succ k ih => rw [List.range_succ, List.flatMap_append, ih, List.flatMap_singleton, Nat.mul_succ, slice_add]

/-- The whole string is at the front of a slice that is at least as long. -/
theorem take_slice {bs : Bytes} {n : Nat} (h : bs.length ≤ n) : (slice bs 0 n).take bs.length = bs := by
  obtain ⟨k, rfl⟩ := Nat.exists_eq_add_of_le h
  rw [slice_add, List.take_left' (length_slice ..), slice_of_le _ _ _ (by omega), List.drop_zero, List.take_length]

theorem flitCount_pos (len : Nat) : 1 ≤ flitCount len := by
  unfold flitCount
  repeat' split
  all_goals omega

/-- The flits of a packet have room for its header, its payload and its end-to-end CRC. -/
theorem le_flitRoom (len : Nat) : len ≤ 120 * flitCount len - 36 := by
  unfold flitCount
  repeat' split
  all_goals omega

theorem length_packetFlits (p : Packet) : (packetFlits p).length = flitCount p.len.toNat := by
  have := flitCount_pos p.len.toNat
  unfold packetFlits
  dsimp only
  split <;> simp <;> omega

theorem length_body_packetFlits {p : Packet} {f : BitVec 4 × Bytes} (h : f ∈ packetFlits p) : f.2.length = 120 := by
  unfold packetFlits at h
  dsimp only at h
  split at h
  · obtain rfl := List.mem_singleton.1 h
    simp [length_headerBytes]
  · simp only [List.mem_cons, List.mem_append, List.mem_map, List.not_mem_nil, or_false] at h
    rcases h with rfl | ⟨i, _, rfl⟩ | rfl <;> simp [length_headerBytes]

/-- The bodies of a packet's flits in a row: header, payload with its padding, end-to-end CRC. -/
theorem bodies_packetFlits (p : Packet) : (packetFlits p).flatMap (·.2) =
    headerBytes p ++ (slice p.payload 0 (120 * flitCount p.len.toNat - 36) ++ beBytes 4 p.crc.toNat) := by
  have pos := flitCount_pos p.len.toNat
  unfold packetFlits
  dsimp only
  split
  case isTrue one => simp [one]
  case isFalse more =>
    have run : 120 * flitCount p.len.toNat - 36 = 88 + (120 * (flitCount p.len.toNat - 2) + 116) := by omega
    rw [run, slice_add, slice_add, ← flatMap_slice]
    simp [List.flatMap_map]

theorem parseHeader_head (p : Packet) : ∃ f r, packetFlits p = f :: r ∧ parseHeader f.2 = { p with payload := [], crc := 0 } := by
  unfold packetFlits
  dsimp only
  split
  · exact ⟨_, _, rfl, by rw [List.append_assoc]; exact parseHeader_headerBytes p _⟩
  · exact ⟨_, _, rfl, parseHeader_headerBytes p _⟩

theorem joinFlits_packetFlits {p : Packet} (h : p.payload.length = p.len.toNat) :
    joinFlits { p with payload := [], crc := 0 } (packetFlits p) = p := by
  have body : ((packetFlits p).flatMap (·.2)).drop 32 =
      slice p.payload 0 (120 * flitCount p.len.toNat - 36) ++ beBytes 4 p.crc.toNat := by
    rw [bodies_packetFlits, List.drop_left' (length_headerBytes p)]
  have crc : BitVec.ofNat 32 (beNat (beBytes 4 p.crc.toNat)) = p.crc := by
    have := p.crc.isLt
    rw [beNat_beBytes]
    exact field_low (by omega)
  have payload : (slice p.payload 0 (120 * flitCount p.len.toNat - 36)).take p.len.toNat = p.payload := by
    rw [← h]
    exact take_slice (h ▸ le_flitRoom _)
  simp only [joinFlits, body, List.length_append, length_slice, length_beBytes, Nat.add_sub_cancel]
  rw [List.take_left' (length_slice ..), List.drop_left' (length_slice ..), payload, crc]

end Sys2Proof.Machine
end

section
open Sys2Proof Sys2Proof.Machine

/-- Settles O9: each field is read at its bit of its word, and the slices of the payload in the flits are one run that is
at least LENGTH bytes long. -/
theorem flitsRoundTrip : Obligations.FlitsRoundTrip := by
  unfold Obligations.FlitsRoundTrip
  refine ⟨parseHeader_headerBytes, fun p len => ⟨length_packetFlits p, fun f => length_body_packetFlits, ?_⟩,
    fun t body => ⟨parseTag_tagBytes t body, fun type rsv len => ⟨?_, ?_, ?_⟩⟩⟩
  · obtain ⟨f, r, flits, head⟩ := parseHeader_head p
    exact ⟨f, r, flits, head, by rw [head, joinFlits_packetFlits len]⟩
  · rw [length_flitBytes, len]
  · rw [flitOk_flitBytes len (by decide)]
    simp [type, rsv]
  · have inverted : linkCrc (tagBytes t ++ body) ≠ linkCrc (tagBytes t ++ body) ^^^ 0xFFFFFFFF := fun same => by
      have := Nat.xor_right_injective (same.symm.trans (Nat.xor_zero _).symm)
      omega
    rw [flitOk_flitBytes len (by decide), beq_false_of_ne inverted, Bool.false_and, Bool.false_and]
end

section
/-! SUPPORT. One optical link (R91, R95, R96): what sending a flit leaves of the core, and what the retry of the link keeps
while its slot stream goes on. -/

namespace Sys2Proof.Machine

variable {n : Nat} {s t u : State}

/-! ## One link of the core goes on -/

/-- From `s` to `t` flits and slots left on port `n`: of the core its link alone changes, and no output is taken back. -/
structure LinkOnly (n : Nat) (s t : State) : Prop where
  frame  : ChangesOnly [.swc, .out] s t
  core   : { t.swc with links := [] } = { s.swc with links := [] }
  others : ∀ m, m ≠ n → t.link m = s.link m
  out    : s.out <:+ t.out

namespace LinkOnly

theorem refl (n : Nat) (s : State) : LinkOnly n s s := ⟨.refl _ s, rfl, fun _ _ => rfl, List.suffix_rfl⟩

theorem trans (h : LinkOnly n s t) (g : LinkOnly n t u) : LinkOnly n s u where
  frame := h.frame.trans g.frame
  core := g.core.trans h.core
  others m hm := (g.others m hm).trans (h.others m hm)
  out := h.out.trans g.out

theorem modLink (f : Link → Link) (h : LinkOnly n s t) : LinkOnly n s (t.modLink n f) where
  frame := h.frame.modLink n f (by decide)
  core := h.core
  others m hm := by rw [State.modLink_link, if_neg hm, h.others m hm]
  out := h.out

theorem emit (o : Output) (h : LinkOnly n s t) : LinkOnly n s (t.emit o) where
  frame := h.frame.emit o (by decide)
  core := h.core
  others := h.others
  out := h.out.trans (List.suffix_cons o _)

theorem slotReg (h : LinkOnly n s t) (m : Nat) : t.slotReg m = s.slotReg m := (congrArg (fun x : Swc => Tab.look {} x.slots m) h.core :)

theorem queues (h : LinkOnly n s t) : t.swc.voq = s.swc.voq ∧ t.swc.bufs = s.swc.bufs ∧ t.swc.opens = s.swc.opens :=
  ⟨(congrArg Swc.voq h.core :), (congrArg Swc.bufs h.core :), (congrArg Swc.opens h.core :)⟩

end LinkOnly

/-! ## The slot stream (R321) -/

/-- A link without what its slot stream holds: the slot that fills, the counts to the next AM and RM slot, the injections
of R334. -/
def Link.retry (l : Link) : Link :=
  { l with slotFlits := [], sinceAm := 0, rmOwed := 0, amCount := 0, lcrcOnce := false, burstOnce := 0 }

/-- The slot stream of port `n` goes on, and the retry of its link stays. -/
structure Streams (n : Nat) (s t : State) : Prop extends LinkOnly n s t where
  retry : (t.link n).retry = (s.link n).retry

namespace Streams

theorem refl (n : Nat) (s : State) : Streams n s s := ⟨.refl n s, rfl⟩

theorem trans (h : Streams n s t) (g : Streams n t u) : Streams n s u :=
  ⟨h.toLinkOnly.trans g.toLinkOnly, g.retry.trans h.retry⟩

theorem modLink {f : Link → Link} (hf : ∀ l, (f l).retry = l.retry) (h : Streams n s t) : Streams n s (t.modLink n f) :=
  ⟨h.toLinkOnly.modLink f, by rw [State.modLink_link_self, hf, h.retry]⟩

theorem emit (o : Output) (h : Streams n s t) : Streams n s (t.emit o) := ⟨h.toLinkOnly.emit o, h.retry⟩

end Streams

theorem sendAm_streams (n : Nat) (s : State) : Streams n s (sendAm n s) := by
  unfold sendAm
  exact .modLink (fun _ => rfl) (.emit _ (.refl n s))

theorem sendSlot_streams (n : Nat) (m : List Nat) (s : State) : Streams n s (sendSlot n m s) := by
  unfold sendSlot
  dsimp only
  have slot := Streams.modLink (f := fun l => { l with sinceAm := l.sinceAm + 1 }) (fun _ => rfl) (.emit (.slot n m) (.refl n s))
  split
  · exact slot.trans (sendAm_streams n _)
  · exact slot

theorem fillSlot_streams (n : Nat) (f : Bytes) (s : State) : Streams n s (fillSlot n f s) := by
  unfold fillSlot
  dsimp only
  split
  · exact .modLink (fun _ => rfl) (.refl n s)
  · have data := Streams.modLink (f := fun l => { l with slotFlits := [], rmOwed := l.rmOwed + 12 }) (fun _ => rfl)
      (sendSlot_streams n (dataSlot ((s.link n).slotFlits ++ [f])) s)
    split
    · refine Streams.trans ?_ (sendSlot_streams n rmSlot _)
      exact data.modLink fun l => by simp only [Link.retry]
    · exact data

/-! ## A flit leaves (R91, R334) -/

/-- The link CRC's mask for a flit: an armed injection inverts that of a sequenced flit. -/
def Link.crcMask (l : Link) (tag : LinkTag) : Nat := if l.lcrcOnce && (tag.type != ftLctl && tag.type != 0) then 0xFFFFFFFF else 0

theorem Link.crcMask_eq_or (l : Link) (tag : LinkTag) : l.crcMask tag = 0 ∨ l.crcMask tag = 0xFFFFFFFF := by
  unfold Link.crcMask
  split
  · exact .inr rfl
  · exact .inl rfl

theorem Link.crcMask_of_lctl {tag : LinkTag} (h : tag.type = ftLctl) (l : Link) : l.crcMask tag = 0 := by
  simp [Link.crcMask, h]

/-- A flit goes out under its tag, and the slot stream goes on. -/
theorem putTagged_sends (n : Nat) (tag : LinkTag) (body : Bytes) (s : State) : Streams n s (putTagged n tag body s) ∧
    Output.flit n (flitBytes tag body ((s.link n).crcMask tag)) ∈ (putTagged n tag body s).out := by
  unfold putTagged Link.crcMask
  dsimp only
  generalize flitBytes tag body _ = f
  have sent := Streams.emit (.flit n f) (.refl n s)
  have fills {v : State} {g : Link → Link} (hg : ∀ l, (g l).retry = l.retry) (streams : Streams n s v)
      (out : Output.flit n f ∈ v.out) :
      Streams n s (fillSlot n f (v.modLink n g)) ∧ Output.flit n f ∈ (fillSlot n f (v.modLink n g)).out := by
    have filled := fillSlot_streams n f (v.modLink n g)
    exact ⟨(streams.modLink hg).trans filled, filled.out.subset out⟩
  split
  · exact fills (fun l => by simp only [Link.retry]) sent (List.mem_cons_self ..)
  · exact fills (fun l => by simp only [Link.retry]) (sent.emit _) (List.mem_cons_of_mem _ (List.mem_cons_self ..))

/-! ## Link control (Table 4-3) -/

/-- What sending link control does: a flit with the body goes out with a good link CRC, and of the retry only the turn of
the credit reports and what is owed to the peer, ACK and NAK, change. -/
structure LctlSent (n : Nat) (body : Bytes) (s t : State) : Prop extends LinkOnly n s t where
  sends : ∃ tag, Output.flit n (flitBytes tag body 0) ∈ t.out ∧ tag.type = 5
  retry : ∃ c a o, (t.link n).retry = { (s.link n).retry with cvc := c, toAck := a, nakOut := o }

theorem LctlSent.modLink {body : Bytes} {f : Link → Link} (h : LctlSent n body s t)
    (hf : ∀ l, ∃ a o, (f l).retry = { l.retry with toAck := a, nakOut := o }) : LctlSent n body s (t.modLink n f) where
  toLinkOnly := h.toLinkOnly.modLink f
  sends := h.sends
  retry := by
    obtain ⟨c, _, _, kept⟩ := h.retry
    obtain ⟨a, o, noted⟩ := hf (t.link n)
    exact ⟨c, a, o, by rw [State.modLink_link_self, noted, kept]⟩

theorem sendLctl_sent (n lcode aseq : Nat) (credits : List Nat) (s : State) :
    LctlSent n (lctlBody lcode aseq credits) s (sendLctl n lcode aseq credits s) := by
  unfold sendLctl putFlit
  generalize lctlBody lcode aseq credits = body
  have plain := Link.crcMask_of_lctl (tag := (s.link n).tag ftLctl 0 (s.link n).txSeq) rfl (s.link n)
  have type : ((s.link n).tag ftLctl 0 (s.link n).txSeq).type = 5 := rfl
  generalize (s.link n).tag ftLctl 0 (s.link n).txSeq = tag at plain type ⊢
  obtain ⟨streams, out⟩ := putTagged_sends n tag body s
  rw [plain] at out
  generalize putTagged n tag body s = t at streams out ⊢
  refine ⟨streams.toLinkOnly.modLink _, ⟨tag, out, type⟩, (t.link n).cvc + 1, (t.link n).toAck, (t.link n).nakOut, ?_⟩
  rw [State.modLink_link_self, ← streams.retry]
  rfl

theorem sendAck_sent (n : Nat) (s : State) : LctlSent n (lctlBody 1 ((s.link n).rxSeq - 1).toNat []) s (sendAck n s) :=
  (sendLctl_sent n 1 _ [] s).modLink fun _ => ⟨_, _, rfl⟩

theorem sendNak_sent (n : Nat) (s : State) : LctlSent n (lctlBody 2 (s.link n).rxSeq.toNat []) s (sendNak n s) :=
  (sendLctl_sent n 2 _ [] s).modLink fun _ => ⟨_, _, rfl⟩

theorem sendCreditInit_sent (n : Nat) (s : State) : LctlSent n (lctlBody 3 0 (s.myGrants n)) s (sendCreditInit n s) :=
  sendLctl_sent n 3 0 (s.myGrants n) s

theorem sendAck_toAck (n : Nat) (s : State) : ((sendAck n s).link n).toAck = 0 := by rw [sendAck, State.modLink_link_self]

theorem sendNak_nakOut (n : Nat) (s : State) : ((sendNak n s).link n).nakOut = true := by rw [sendNak, State.modLink_link_self]

theorem LctlSent.unacked {body : Bytes} (h : LctlSent n body s t) : (t.link n).unacked = (s.link n).unacked := by
  obtain ⟨c, a, o, kept⟩ := h.retry
  exact (congrArg Link.unacked kept :)

/-! ## A replay (R95, R96) -/

/-- Each flit of a replay goes out under the tag of its first sending. -/
theorem putTagged_all_sends (n : Nat) (fs : List (BitVec 11 × TxFlit)) (s : State) :
    let t := fs.foldl (fun s e => putTagged n (e.2.tag e.1) e.2.body s) s
    Streams n s t ∧ ∀ e ∈ fs, ∃ mask, (mask = 0 ∨ mask = 0xFFFFFFFF) ∧
      Output.flit n (flitBytes (e.2.tag e.1) e.2.body mask) ∈ t.out := by
  induction fs generalizing s with
  | nil => exact ⟨.refl n s, by simp⟩
  | cons f fs ih =>
    obtain ⟨streams, sent⟩ := putTagged_sends n (f.2.tag f.1) f.2.body s
    obtain ⟨rest, all⟩ := ih (putTagged n (f.2.tag f.1) f.2.body s)
    refine ⟨streams.trans rest, fun e he => ?_⟩
    rcases List.mem_cons.1 he with rfl | he
    · exact ⟨_, Link.crcMask_eq_or .., rest.out.subset sent⟩
    · exact all e he

/-! ## The timers of a port in service (R95, R96, R118) -/

section
variable (up : s.isUp n = true) (live : s.isFatal = false)
include up live

theorem ackTimer_of_due (due : 0 < (s.link n).toAck) : ackTimer n s = sendAck n s := by
  simp [ackTimer, up, live, due]

theorem creditInitSend_of_due (due : (s.link n).accepted = false) : creditInitSend n s = sendCreditInit n s := by
  simp [creditInitSend, up, live, due]

theorem linkReplayFail_of_due (due : 16 ≤ (s.link n).replays) : linkReplayFail n s = replayDown n s := by
  simp [linkReplayFail, up, live, due]

variable (here : (s.optPort n).sparing = none) (there : (s.optPort n).peerSparing = false)
include here there

theorem nakRepeat_of_due (due : (s.link n).nakOut = true) : nakRepeat n s = sendNak n s := by
  simp [nakRepeat, up, live, here, there, due]

theorem replayTimeout_of_due (due : (s.link n).unacked ≠ []) :
    replayTimeout n s = (resendFrom n (s.link n).unacked s).modLink n (fun l => { l with replays := l.replays + 1 }) := by
  have port : (resendFrom n (s.link n).unacked s).optPort n = s.optPort n :=
    (resendFrom_changes (.refl [.swc, .out] s) (List.Subset.refl _)).optPort (by decide) n
  simp [replayTimeout, countReplay, port, up, live, here, there, due]

end

end Sys2Proof.Machine
end

section
/-! SUPPORT. A port that goes down (R96, R324): what is left of it when its link is lost. -/

namespace Sys2Proof.Machine

variable {n : Nat} {s : State}

theorem setLinkUp_slotReg (n : Nat) (u : Bool) (s : State) (m : Nat) :
    (setLinkUp n u s).slotReg m = if m = n then { s.slotReg n with linkUp := u } else s.slotReg m := by
  unfold setLinkUp
  split
  case isTrue same =>
    split
    · subst m u; rfl
    · rfl
  case isFalse => rw [(signal_frame _ _).slotReg (by decide), State.modSlot_slotReg]

theorem setLinkUp_frame (n : Nat) (u : Bool) (s : State) : ChangesOnly [.swc, .host, .out] s (setLinkUp n u s) :=
  setLinkUp_changes (.refl _ s) (List.Subset.refl _)

/-- The port itself when it goes down: out of service, its sparing ended. -/
def State.shut (s : State) (n : Nat) (light : Bool) : State :=
  s.modOptPort n (fun o => { o with
    tstate := if (s.optPort n).mode ≠ 0 then .test else if light then .adapt else .dark
    light := light, rxOk := false, peerRxOk := false, sparing := none, spareQ := [], request := none
    peerSparing := false })

/-- The port with its discovery and LINK_UP when it goes down. -/
def State.unlinked (s : State) (n : Nat) (light : Bool) : State :=
  setDisc n ((s.shut n light).restDisc n) (setLinkUp n false (s.shut n light))

theorem goDown_of_up (up : s.isUp n = true) (light : Bool) : goDown n light s = linkLost n rLinkDown (s.unlinked n light) :=
  if_pos up

theorem unlinked_slotReg (s : State) (n : Nat) (light : Bool) : ((s.unlinked n light).slotReg n).linkUp = false ∧
    ((s.unlinked n light).slotReg n).replayFail = (s.slotReg n).replayFail := by
  rw [State.unlinked, setDisc_slotReg, if_pos rfl, setLinkUp_slotReg, if_pos rfl]
  exact ⟨rfl, rfl⟩

theorem unlinked_frame (s : State) (n : Nat) (light : Bool) :
    ChangesOnly [.swc, .lnk, .host, .out] s (s.unlinked n light) :=
  (((ChangesOnly.refl _ s).modOptPort n _ (by decide)).trans ((setLinkUp_frame n false _).mono (by decide))).trans
    ((setDisc_frame n _ _).mono (by decide))

theorem unlinked_tstate (s : State) (n : Nat) (light : Bool) : ((s.unlinked n light).optPort n).tstate =
    if (s.optPort n).mode ≠ 0 then .test else if light then .adapt else .dark := by
  rw [State.unlinked, (setDisc_frame n _ _).optPort (by decide), (setLinkUp_frame n _ _).optPort (by decide), State.shut,
    State.modOptPort_optPort_self]

/-- REPLAY_FAIL is set and recorded (R96). -/
def replayFailed (n : Nat) (s : State) : State :=
  recordFault { source := 0x0107, unit := n, cls := 1, access := 8 } (s.modSlot n (fun r => { r with replayFail := true }))

theorem replayFailed_noted (n : Nat) (s : State) : FaultNoted { source := 0x0107, unit := n, cls := 1, access := 8 }
    (s.modSlot n (fun r => { r with replayFail := true })) (replayFailed n s) := recordFault_of_not_ft (show (1 : Nat) ≠ 3 by decide) _

theorem replayDown_of_up (up : s.isUp n = true) :
    replayDown n s = linkLost n rLinkDown ((replayFailed n s).unlinked n (s.optPort n).light) := by
  have still : (replayFailed n s).isUp n = true := by
    rw [State.isUp, (replayFailed_noted n s).frame.optPort (by decide)]
    exact up
  exact goDown_of_up still _

end Sys2Proof.Machine
end

section
open Sys2Proof Sys2Proof.Machine

/-- Settles O10: each timer that is due does its one sending, and link control and replays go out through `putTagged`,
which leaves the retry; the last clause is the state in which the link is lost. -/
theorem linkControlIsSent : Obligations.LinkControlIsSent := by
  unfold Obligations.LinkControlIsSent
  intro n s hn up fatal
  have isUp : s.isUp n = true := by simp [State.isUp, up]
  have live : s.isFatal = false := by simp [State.isFatal, fatal]
  have port {t u : State} (h : t = u) : need (Wf.port n) t = .next u := by simp [need, Wf.port, hn, h]
  refine ⟨fun due => ?_, fun due here there => ?_, fun due => ?_, fun due here there => ?_, fun due => ?_⟩
  · have sent := sendAck_sent n s
    exact ⟨_, port (ackTimer_of_due isUp live due), sent.sends, sendAck_toAck n s, sent.unacked, sent.frame⟩
  · have sent := sendNak_sent n s
    exact ⟨_, port (nakRepeat_of_due isUp live here there due), sent.sends, sendNak_nakOut n s, sent.unacked, sent.frame⟩
  · have sent := sendCreditInit_sent n s
    exact ⟨_, port (creditInitSend_of_due isUp live due), sent.sends, sent.unacked, sent.frame⟩
  · obtain ⟨streams, sent⟩ := putTagged_all_sends n (s.link n).unacked s
    refine ⟨_, port (replayTimeout_of_due isUp live here there due), ?_⟩
    rw [State.modLink_link_self, State.modLink_slotReg, resendFrom]
    generalize List.foldl _ s (s.link n).unacked = t at streams sent ⊢
    refine ⟨(congrArg Link.unacked streams.retry :), (congrArg Link.txSeq streams.retry :),
      (congrArg (·.replays + 1) streams.retry :), ?_, (congrArg Link.cvc streams.retry :), sent,
      (streams.frame.modSlot n _ (by decide)).modLink n _ (by decide)⟩
    rw [State.modSlot_slotReg_self, streams.slotReg]
    rfl
  · have failed := replayFailed_noted n s
    have lost := unlinked_frame (replayFailed n s) n (s.optPort n).light
    obtain ⟨down, kept⟩ := unlinked_slotReg (replayFailed n s) n (s.optPort n).light
    refine ⟨_, port ((linkReplayFail_of_due isUp live due).trans (replayDown_of_up isUp)), ?_, down, ?_, ?_, ?_⟩
    · rw [kept, failed.frame.slotReg (by decide), State.modSlot_slotReg_self]
    · rw [lost .attic (by decide)]
      exact failed.opened
    · rw [unlinked_tstate, failed.frame.optPort (by decide)]
      rfl
    · exact (((ChangesOnly.refl _ s).modSlot n _ (by decide)).step failed.frame (by decide)).step lost (by decide)
end

section
/-! SUPPORT. The receiver of one link (R91, R95): a flit that is dropped, and an ACK that is taken. -/

namespace Sys2Proof.Machine

variable {n : Nat} {f : Bytes} {s t : State}

theorem slice_take {bs : Bytes} {k off m : Nat} (h : off + m ≤ k) : slice (bs.take k) off m = slice bs off m := by
  simp only [slice, List.drop_take, List.take_take, Nat.min_eq_left (show m ≤ k - off by omega)]

/-! ## A flit is dropped (R95) -/

/-- A flit was dropped at port `n`: a NAK is out, and the queues, the other ports and the rest of the retry stay. -/
structure FlitDropped (n : Nat) (s t : State) : Prop where
  frame  : ChangesOnly [.swc, .out] s t
  queues : t.swc.voq = s.swc.voq ∧ t.swc.bufs = s.swc.bufs ∧ t.swc.opens = s.swc.opens
  others : ∀ m, m ≠ n → t.link m = s.link m ∧ t.slotReg m = s.slotReg m
  retry  : ∃ c a, (t.link n).retry = { (s.link n).retry with cvc := c, toAck := a, nakOut := true }

theorem FlitDropped.of_nakOut (out : (s.link n).nakOut = true) : FlitDropped n s s where
  frame := .refl _ s
  queues := ⟨rfl, rfl, rfl⟩
  others _ _ := ⟨rfl, rfl⟩
  retry := ⟨(s.link n).cvc, (s.link n).toAck, by rw [← out]; rfl⟩

theorem LctlSent.dropped {body : Bytes} (h : LctlSent n body s t) (out : (t.link n).nakOut = true) : FlitDropped n s t where
  frame := h.frame
  queues := h.queues
  others m hm := ⟨h.others m hm, h.slotReg m⟩
  retry := by
    obtain ⟨c, a, o, kept⟩ := h.retry
    obtain rfl : o = true := (congrArg Link.nakOut kept).symm.trans out
    exact ⟨c, a, kept⟩

/-- The counters of the port's own slot may change before. -/
theorem FlitDropped.of_modSlot {g : SlotReg → SlotReg} (h : FlitDropped n (s.modSlot n g) t) : FlitDropped n s t where
  frame := ((ChangesOnly.refl _ s).modSlot n g (by decide)).trans h.frame
  queues := h.queues
  others m hm := ⟨(h.others m hm).1, (h.others m hm).2.trans (by rw [State.modSlot_slotReg, if_neg hm])⟩
  retry := h.retry

theorem failFlit_dropped (n : Nat) (s : State) : FlitDropped n s (failFlit n s) := by
  unfold failFlit
  refine FlitDropped.of_modSlot (g := fun r => { r with lcrc := sat32 r.lcrc }) ?_
  dsimp only
  split
  case isTrue out => exact .of_nakOut out
  case isFalse => exact (sendNak_sent n _).dropped (sendNak_nakOut n _)

theorem failFlit_lcrc (n : Nat) (s : State) : ((failFlit n s).slotReg n).lcrc = sat32 (s.slotReg n).lcrc := by
  unfold failFlit
  dsimp only
  split
  · rw [State.modSlot_slotReg_self]
  · rw [(sendNak_sent n _).slotReg, State.modSlot_slotReg_self]

/-! ## What the receiver does with a flit -/

section
variable (up : s.isUp n = true)
include up

theorem receiveFlit_of_bad (bad : flitOk f = false) : receiveFlit replayDown n f s = failFlit n s := by
  simp [receiveFlit, up, bad]

variable (good : flitOk f = true)
include good

theorem receiveFlit_drops (idle : (parseTag f).type ≠ 0) (lctl : (parseTag f).type ≠ 5)
    (shut : (parseTag f).seq ≠ (s.link n).rxSeq ∨
      (s.myGrants n).getD (parseTag f).vc.toNat 0 ≤ Tab.look 0 (s.link n).rxHeld (parseTag f).vc.toNat) :
    FlitDropped n s (receiveFlit replayDown n f s) := by
  have full (inOrder : (parseTag f).seq = (s.link n).rxSeq) := shut.resolve_left (not_not_intro inOrder)
  unfold receiveFlit
  rw [if_neg (by simp [up]), if_neg (by simp [good])]
  dsimp only
  rw [if_neg (by simpa using idle), if_neg (by simpa [ftLctl] using lctl)]
  split
  case isTrue =>
    split
    case isTrue out => exact .of_nakOut out
    case isFalse => exact failFlit_dropped n s
  case isFalse inOrder =>
    rw [if_pos (by simpa using full (by simpa using inOrder))]
    exact failFlit_dropped n s

theorem receiveFlit_of_ack (lctl : (parseTag f).type = 5) (code : beAt (f.drop 4) 0 1 = 1) :
    receiveFlit replayDown n f s = onAck n (BitVec.ofNat 11 (beAt (f.drop 4) 2 2)) (takeReport n (parseTag f) s) := by
  have body {off m : Nat} (h : off + m ≤ 120) : beAt ((f.drop 4).take 120) off m = beAt (f.drop 4) off m :=
    congrArg beNat (slice_take h)
  unfold receiveFlit
  rw [if_neg (by simp [up]), if_neg (by simp [good])]
  dsimp only
  rw [if_neg (by simp [lctl]), if_pos (by simp [lctl, ftLctl]), body (by decide), body (by decide), if_pos code]

end

/-- A credit report leaves the flits that wait for an ACK. -/
theorem takeReport_unacked (n : Nat) (tag : LinkTag) (s : State) :
    ((takeReport n tag s).link n).unacked = (s.link n).unacked := by rw [takeReport, State.modLink_link_self]

theorem onAck_of_window {seq : BitVec 11} {i : Nat} (h : (s.link n).unackedAt seq = some i) :
    ((onAck n seq s).link n).unacked = (s.link n).unacked.drop (i + 1) ∧ ((onAck n seq s).link n).replays = 0 := by
  rw [onAck, h]
  dsimp only
  rw [State.modLink_link_self]
  exact ⟨rfl, rfl⟩

end Sys2Proof.Machine
end

section
open Sys2Proof Sys2Proof.Machine

/-- Settles O11: a flit that fails, is out of sequence or finds no room goes by `failFlit`, or by nothing where a NAK is
out; an ACK goes by `onAck` after its tag's credit report. -/
theorem goBackNReception : Obligations.GoBackNReception := by
  unfold Obligations.GoBackNReception
  intro n f s up kept
  have isUp : s.isUp n = true := by simp [State.isUp, up]
  have kept_of {t : State} (h : FlitDropped n s t) : kept t := by
    obtain ⟨frame, ⟨voq, bufs, opens⟩, others, c, a, retry⟩ := h
    exact ⟨(congrArg Link.rxSeq retry :), voq, bufs, opens, (congrArg Link.unacked retry :), (congrArg Link.rxHeld retry :),
      (congrArg Link.peerFreed retry :), (congrArg Link.lastCc retry :), (congrArg Link.nakOut retry :), others, frame⟩
  refine ⟨fun bad => ?_, fun good idle lctl seq => ?_, fun good idle lctl room => ?_, fun good lctl code i window => ?_⟩
  · rw [receiveFlit_of_bad isUp bad]
    exact ⟨kept_of (failFlit_dropped n s), failFlit_lcrc n s⟩
  · exact kept_of (receiveFlit_drops isUp good idle lctl (.inl seq))
  · exact kept_of (receiveFlit_drops isUp good idle lctl (.inr room))
  · have reported := takeReport_unacked n (parseTag f) s
    rw [receiveFlit_of_ack isUp good lctl code, ← reported]
    exact onAck_of_window (by rw [Link.unackedAt, reported]; exact window)
end

section
/-! SUPPORT. Limits of the switching core (R115, R127, R133): where a held packet is bound, a head without credit, and what
a truncation leaves. -/

namespace Sys2Proof.Machine

variable {s t : State}

/-! ## Time passes and nothing of the core changes -/

theorem targetOf_congr (devices : t.devIndex = s.devIndex) (rte : t.rte = s.rte) (dst : Nat) :
    t.targetOf dst = s.targetOf dst := by
  rw [State.targetOf, State.targetOf, State.routeEntry, State.routeEntry, rte, devices]

theorem advanceTo_outbound (l : Nat) (s : State) (p : Packet) : (advanceTo l s).outbound p = s.outbound p := by
  have devices := advanceTo_devIndex l s
  simp only [State.outbound, State.elsewhere, devices,
    targetOf_congr devices (advanceTo_frame l s .rte (by decide)) p.dst.toNat]

/-! ## An ORDER hold at its limit (R133) -/

/-- The fence limit passes for a packet of this Range: it is recorded and counted. -/
def State.fencePassed (s : State) (ing cls : Nat) (w : Waiting) : State :=
  recordFault { source := 0x0307, unit := ing, cls := 1, access := 0x0B, addr := ing * 256 + cls }
    ((advanceTo (w.admGt + s.fenceLimit cls) s).modRte (fun r => { r with fenceTo := sat32 r.fenceTo }))

theorem fencePassed_noted (s : State) (ing cls : Nat) (w : Waiting) :
    FaultNoted { source := 0x0307, unit := ing, cls := 1, access := 0x0B, addr := ing * 256 + cls }
      ((advanceTo (w.admGt + s.fenceLimit cls) s).modRte (fun r => { r with fenceTo := sat32 r.fenceTo }))
      (s.fencePassed ing cls w) := recordFault_of_not_ft (show (1 : Nat) ≠ 3 by decide) _

theorem orderFenceLimit_of_held {ing cls : Nat} {w : Waiting} (live : s.isFatal = false)
    (first : s.swc.voq.find? (fun w => w.held && w.ing == ing && w.p.cls.toNat == cls) = some w)
    (order : w.p.order = true) (here : s.outbound w.p = false) :
    orderFenceLimit ing cls s = settleCore (releaseCopy w (s.fencePassed ing cls w)) := by
  have still : (advanceTo (w.admGt + s.fenceLimit cls) s).outbound w.p = false := (advanceTo_outbound ..).trans here
  rw [orderFenceLimit, if_neg (by simp [live]), first]
  dsimp only
  rw [if_neg (by simp [order]), still, if_neg (by decide)]
  rfl

/-! ## A head without credit (R127) -/

theorem State.dry_of_front {eg vc ing : Nat} {w : Waiting} (trunk : 32 ≤ eg) (optical : eg < 64)
    (front : s.front eg vc ing = some w) (empty : (s.link eg).credit vc = 0) : s.dry w = true := by
  have waits := List.find?_some front
  simp only [Bool.and_eq_true, beq_iff_eq, Bool.not_eq_true'] at waits
  obtain ⟨⟨⟨⟨held, started⟩, rfl⟩, rfl⟩, rfl⟩ := waits
  simp [State.dry, trunk, optical, held, started, empty, front, Waiting.is]

/-- The head that escapes is counted and takes VC7, once its wait has reached ESC_WAIT. -/
def State.escaped (s : State) (w : Waiting) : State :=
  ((advanceTo (w.dryFrom.getD s.bel.gt + (s.escWait - w.waited)) s).modCopies (·.is w.id w.eg)
    (fun _ => { w with inVc := 7 })).modRte (fun r => { r with escCnt := sat32 r.escCnt })

theorem packetEscape_of_dry {ing eg vc : Nat} {w : Waiting} (live : s.isFatal = false)
    (front : s.front eg vc ing = some w) (dry : s.dry w = true) (own : w.p.cls.toNat = vc) (data : vc ≠ 2)
    (unordered : s.orderedClass vc = false) :
    packetEscape ing eg vc s = settleCore (routeCopy { w with inVc := 7 } (s.escaped w)) := by
  subst own
  rw [packetEscape, if_neg (by simp [live]), front]
  dsimp only
  rw [if_pos (by simp [dry, unordered, data])]
  rfl

/-! ## A truncation (R115) -/

theorem foldl_resolveCopy_sameQueues (l : List Waiting) (s : State) :
    s.sameQueues (l.foldl (fun s w => resolveCopy w s) s) := by
  have kept := foldl_keeps (π := fun s : State => (s.swc.voq, s.swc.slots))
    (fun s w => Prod.ext (resolveCopy_sameQueues w s).1 (resolveCopy_sameQueues w s).2) l s
  exact ⟨congrArg Prod.fst kept, congrArg Prod.snd kept⟩

theorem settleBuf_opens (id : Nat) (s : State) : (settleBuf id s).swc.opens = s.swc.opens := by
  rw [settleBuf]
  split <;> split <;> rfl

/-- The packet is counted where a copy of it was there that no fault had cut short. -/
def State.counted (s : State) (id : Nat) : State :=
  if s.swc.voq.any (fun w => w.id == id && w.short.isNone) then countTrunc (s.buf id).ing s else s

theorem State.counted_slotReg (s : State) (id : Nat) : ((s.counted id).slotReg (s.buf id).ing).trunc =
    if s.swc.voq.any (fun w => w.id == id && w.short.isNone) then sat32 (s.slotReg (s.buf id).ing).trunc
    else (s.slotReg (s.buf id).ing).trunc := by
  unfold State.counted
  split
  · rw [countTrunc, State.modSlot_slotReg_self]
  · rfl

/-- The copies of the packet that an ABORT is to end: all are resolved, and those that have not started are gone. -/
def State.cutShort (s : State) (id : Nat) : State :=
  (((s.counted id).swc.voq.filter (·.id == id)).foldl (fun s w => resolveCopy w s) (s.counted id)).dropCopies
    (fun w => w.id == id && !w.started)

theorem truncate_eq (id reason : Nat) (s : State) : truncate id reason s =
    settleBuf id (((s.cutShort id).modBuf id (fun b =>
      { b with flits := b.flits ++ [(ftAbort, abortBody reason (s.cutShort id).devIndex)], closed := true, cut := true })).modSwc
        (fun w => { w with opens := Tab.drop (slotClass (s.buf id).ing (s.buf id).vc) w.opens })) := rfl

theorem cutShort_queues (s : State) (id : Nat) :
    (s.cutShort id).swc.voq = s.swc.voq.filter (fun w => !(w.id == id && !w.started)) ∧
    (s.cutShort id).swc.slots = (s.counted id).swc.slots := by
  have counts : (s.counted id).swc.voq = s.swc.voq := by
    unfold State.counted
    split <;> rfl
  obtain ⟨voq, slots⟩ := foldl_resolveCopy_sameQueues ((s.counted id).swc.voq.filter (·.id == id)) (s.counted id)
  exact ⟨congrArg (List.filter _) (voq.trans counts), slots⟩

/-- What a truncation leaves in the queues: the copies that have started. Its ingress VC has no open packet. -/
theorem truncate_queues (id reason : Nat) (s : State) :
    (truncate id reason s).swc.voq = s.swc.voq.filter (fun w => !(w.id == id && !w.started)) ∧
    (truncate id reason s).swc.slots = (s.counted id).swc.slots ∧
    Tab.look none (truncate id reason s).swc.opens (slotClass (s.buf id).ing (s.buf id).vc) = none := by
  obtain ⟨voq, slots⟩ := cutShort_queues s id
  rw [truncate_eq, settleBuf_opens, (settleBuf_sameQueues id _).1, (settleBuf_sameQueues id _).2]
  exact ⟨voq, slots, by rw [State.modSwc_swc, Tab.look_drop, if_pos rfl]⟩

theorem packetStall_of_room {n vc id : Nat} (live : s.isFatal = false)
    (open_ : Tab.look none s.swc.opens (slotClass n vc) = some id)
    (room : Tab.look 0 (s.link n).rxHeld vc < (s.myGrants n).getD vc 0) :
    packetStall n vc s = settleCore (truncate id rStall
      (advanceTo (max (s.buf id).lastGt (Tab.look 0 (s.link n).spaceGt vc) + (s.slotReg n).stall) s)) := by
  rw [packetStall, if_neg (by simp [live]), open_]
  exact if_pos room

end Sys2Proof.Machine
end

section
open Sys2Proof Sys2Proof.Machine

/-- Settles O13: the three limits pass as `fencePassed`, `escaped` and `truncate` have it, and the core then settles. -/
theorem holdsEscapesAndStalls : Obligations.HoldsEscapesAndStalls := by
  unfold Obligations.HoldsEscapesAndStalls
  refine ⟨fun ing cls w s hing hcls fatal first order here => ?_,
    fun ing eg vc w s hing trunk optical hvc fatal front own data unordered empty => ?_,
    fun n vc id s hn hvc fatal open_ ingIs vcIs room => ?_⟩
  all_goals have live : s.isFatal = false := by simp [State.isFatal, fatal]
  · have passed := fencePassed_noted s ing cls w
    have waited := advanceTo_frame (w.admGt + s.fenceLimit cls) s
    refine ⟨s.fencePassed ing cls w, ?_, passed.frame .gt (by decide), ?_, passed.opened, ?_, ?_⟩
    · exact (if_pos (by simp [Wf.slot, Wf.vc, hing, hcls])).trans
        (congrArg _ (orderFenceLimit_of_held live first order here))
    · rw [passed.frame .rte (by decide), State.modRte_rte, waited .rte (by decide)]
      rfl
    · rw [passed.frame .swc (by decide), State.modRte_swc, waited .swc (by decide)]
    · exact ((waited.mono (by decide)).modRte _ (by decide)).step passed.frame (by decide)
  · have dry := State.dry_of_front trunk optical front empty
    have waited := advanceTo_frame (w.dryFrom.getD s.bel.gt + (s.escWait - w.waited)) s
    refine ⟨s.escaped w, ?_, ?_, rfl, ?_, ?_⟩
    · exact (if_pos (by simp [Wf.ingress, Wf.slot, Wf.vc, hing, hvc]; omega)).trans
        (congrArg _ (packetEscape_of_dry live front dry own data unordered))
    · rw [State.escaped, State.modRte_rte, State.modCopies, State.modSwc_rte, waited .rte (by decide)]
      rfl
    · exact congrArg (fun x : Swc => x.voq.map fun e => if e.is w.id w.eg then { w with inVc := 7 } else e)
        (waited .swc (by decide))
    · exact (State.modCopies_changes (waited.mono (by decide)) (by decide)).modRte _ (by decide)
  · have waited := advanceTo_frame (max (s.buf id).lastGt (Tab.look 0 (s.link n).spaceGt vc) + (s.slotReg n).stall) s
    have stalled := packetStall_of_room live open_ room
    generalize advanceTo _ s = v at waited stalled ⊢
    have swc := waited .swc (by decide)
    have buf : v.buf id = s.buf id := by rw [State.buf, swc, State.buf]
    obtain ⟨voq, slots, opens⟩ := truncate_queues id rStall v
    have trunc := State.counted_slotReg v id
    rw [buf, ingIs, vcIs] at opens
    rw [buf, ingIs, waited.slotReg (by decide), swc] at trunc
    have frame : ChangesOnly [.swc] v (truncate id rStall v) := truncate_changes (.refl _ v) (List.Subset.refl _)
    refine ⟨truncate id rStall v, ?_, opens, frame .gt (by decide), fun w hw same => ?_, ?_, ?_⟩
    · exact (if_pos (by simp [Wf.port, Wf.vc, hn, hvc])).trans (congrArg _ stalled)
    · have kept := (List.mem_filter.1 (voq ▸ hw)).2
      simpa [same] using kept
    · rw [State.slotReg, slots]
      exact trunc
    · exact (waited.mono (by decide)).trans (frame.mono (by decide))
end

section
open Sys2Proof Sys2Proof.Machine

/-- Settles O15: the frames of the four operations lie within the core's parts. -/
theorem coreSettlesWithinItsParts : Obligations.CoreSettlesWithinItsParts := by
  unfold Obligations.CoreSettlesWithinItsParts
  exact ⟨fun s => settleCore_changes (.refl _ s) (by decide), fun n r s => linkLost_changes (.refl _ s) (by decide),
    fun p s => agedFold_changes (.refl _ s) (by decide), fun w s => releaseCopy_changes (.refl _ s) (by decide)⟩
end

section
/-! SUPPORT. Delivery acknowledgement (R134, Table 5-3): what the entries of a DLV_ACK count off, and the packet that takes a
device's pending counts. -/

namespace Sys2Proof.Machine

variable {s : State}

/-! ## A DLV_ACK arrives -/

/-- One entry of a DLV_ACK (Table 5-3) counts off the outstanding packets of its slot and class. -/
def countOff (o : Tab Nat) (e : Nat) : Tab Nat :=
  Tab.edit 0 o (slotClass (bits e 31 24) (bits e 23 21)) (· - e % 65536)

/-- Entries that count off `m` less `n` so far: truncated subtraction of one count after another is that of their sum. -/
theorem foldl_countOff_look {k m : Nat} (es : List Nat) (o : Tab Nat) (n : Nat) (soFar : Tab.look 0 o k = m - n) :
    Tab.look 0 (es.foldl countOff o) k =
      m - (es.filter (fun e => slotClass (bits e 31 24) (bits e 23 21) == k)).foldl (fun n e => n + e % 65536) n := by
  induction es generalizing o n with
  | nil => exact soFar
  | cons e es ih =>
    rw [List.foldl_cons, List.filter_cons]
    split
    next own =>
      obtain rfl : slotClass (bits e 31 24) (bits e 23 21) = k := by simpa using own
      exact ih _ _ (by rw [countOff, Tab.look_edit_self, soFar, Nat.sub_sub])
    next other =>
      exact ih _ _ (by rw [countOff, Tab.look_edit_of_ne _ _ _ _ _ (fun same => other (beq_iff_eq.2 same.symm)), soFar])

theorem foldl_modSwc_outstand {α : Type} (f : Tab Nat → α → Tab Nat) (es : List α) (s : State) :
    es.foldl (fun s e => s.modSwc (fun w => { w with outstand := f w.outstand e })) s =
      s.modSwc (fun w => { w with outstand := es.foldl f w.outstand }) := by
  induction es generalizing s with
  | nil => rfl
  | cons e es ih => exact ih _

/-- The entries of a DLV_ACK, 4 bytes each (Table 5-3). -/
def dlvEntries (p : Packet) : List Nat := (List.range (p.payload.length / 4)).map (fun i => beAt p.payload (4 * i) 4)

/-- A DLV_ACK is taken and its entries are counted off. -/
def State.acknowledged (s : State) (p : Packet) : State :=
  (takeInbox p s).modSwc (fun w => { w with outstand := (dlvEntries p).foldl countOff w.outstand })

theorem dlvAck_of_live {p : Packet} (live : s.isFatal = false) (type : p.ptype = 6) (cls : p.cls = 0) :
    dlvAck p s = settleCore (s.acknowledged p) := by
  rw [dlvAck, if_neg (by simp [live, type, cls])]
  exact congrArg settleCore (foldl_modSwc_outstand countOff (dlvEntries p) _)

/-! ## A packet of the core enters -/

/-- The core's own ingress has no bound on its queues (R112): its packet enters unless others wait there. -/
theorem inject_core {p : Packet} (clear : s.swc.waitIn.any (·.1 == 128) = false) :
    inject 128 p s = enterInside 128 p s := by
  rw [inject, if_pos (by simp [State.hasRoom, clear])]

/-- The one copy of a packet that enters at a slot inside the package. -/
def State.entering (s : State) (slot : Nat) (p : Packet) : Waiting :=
  { id := s.swc.nextId, p := { stampPacket (sealPacket p p.payload) s with payload := [] }, ing := slot
    inVc := p.cls.toNat, eg := 999, vc := p.cls.toNat, held := true, admGt := s.bel.gt }

/-- A packet that is not replicated joins the end of the queues; the pending deliveries stay. -/
theorem enterInside_queues {slot : Nat} {p : Packet} (single : p.cls.toNat ≠ 2) :
    (enterInside slot p s).swc.voq = s.swc.voq ++ [s.entering slot p] ∧
    (enterInside slot p s).swc.pendDlv = s.swc.pendDlv := by
  have enters : enterInside slot p s = enqueue (s.entering slot p) _ := if_neg single
  rw [enters]
  exact ⟨rfl, rfl⟩

/-! ## Pending counts are sent -/

/-- An entry of Table 5-3. -/
def PendDlv.word (e : PendDlv) : Bytes := beBytes 4 (e.slot * 2 ^ 24 + e.cls * 2 ^ 21 + e.count)

theorem length_flatMap_word (es : List PendDlv) : (es.flatMap PendDlv.word).length = 4 * es.length := by
  induction es with
  | nil => rfl
  | cons e es ih =>
    rw [List.flatMap_cons, List.length_append, ih, PendDlv.word, length_beBytes, List.length_cons]
    omega

/-- The DLV_ACK of some pending counts to their ingress device. -/
def State.ackOf (s : State) (dev : Nat) (es : List PendDlv) : Packet :=
  { dst := BitVec.ofNat 20 (foldEid dev), cls := 0, src := BitVec.ofNat 20 (foldEid s.devIndex)
    pkey := s.topology.mgmtKey, ptype := 6, payload := es.flatMap PendDlv.word }

/-- The pending counts of a device are taken away. -/
def State.cleared (s : State) (dev : Nat) : State :=
  s.modSwc (fun w => { w with pendDlv := w.pendDlv.filter (fun e => e.device != dev) })

theorem sendDlvAck_of_none {dev : Nat} (empty : s.swc.pendDlv.filter (·.device == dev) = []) : sendDlvAck dev s = s :=
  if_pos (by rw [empty]; rfl)

/-- Up to 16 entries are all taken, so those that are left are those of other devices. -/
theorem sendDlvAck_of_few {dev : Nat} (pending : s.swc.pendDlv.filter (·.device == dev) ≠ [])
    (few : (s.swc.pendDlv.filter (·.device == dev)).length ≤ 16) :
    sendDlvAck dev s = inject 128 (s.ackOf dev (s.swc.pendDlv.filter (·.device == dev))) (s.cleared dev) := by
  have left : s.swc.pendDlv.filter (fun e => !(s.swc.pendDlv.filter (·.device == dev)).contains e) =
      s.swc.pendDlv.filter (fun e => e.device != dev) :=
    List.filter_congr (fun e he => by simp [he, bne, beq_eq_decide])
  have taken : State.cleared s dev = s.modSwc (fun w =>
      { w with pendDlv := w.pendDlv.filter (fun e => !(s.swc.pendDlv.filter (·.device == dev)).contains e) }) := by
    rw [State.cleared, State.modSwc, State.modSwc, left]
  rw [sendDlvAck, List.take_of_length_le few, if_neg (by simpa using pending), taken]
  rfl

end Sys2Proof.Machine
end

section
open Sys2Proof Sys2Proof.Machine

/-- Settles O14: a DLV_ACK leaves `acknowledged`; a flush takes all of a device's entries and its packet joins the queues. -/
theorem deliveriesAreAcknowledged : Obligations.DeliveriesAreAcknowledged := by
  unfold Obligations.DeliveriesAreAcknowledged
  refine ⟨fun p s wf fatal type cls => ?_, fun d s device fatal => ⟨fun empty => ?_, fun nonempty few clear => ?_⟩⟩
  all_goals have live : s.isFatal = false := by simp [State.isFatal, fatal]
  · refine ⟨s.acknowledged p, ?_, fun k => foldl_countOff_look (dlvEntries p) _ 0 rfl, rfl, ?_⟩
    · exact (if_pos wf).trans (congrArg _ (dlvAck_of_live live type cls))
    · exact (takeInbox_changes (.refl _ s) (by decide)).modSwc _ (by decide)
  all_goals
    have flushed : exec (.dlvAckFlush d) s = .next (settleCore (sendDlvAck d s)) :=
      (if_pos (by simp [Wf.device, device])).trans (congrArg _ (if_neg (by simp [live])))
  · rw [flushed, sendDlvAck_of_none empty]
  · have sent := (sendDlvAck_of_few nonempty few).trans (inject_core clear)
    let ack := s.ackOf d (s.swc.pendDlv.filter (·.device == d))
    obtain ⟨voq, pending⟩ := enterInside_queues (s := s.cleared d) (slot := 128) (p := ack)
      (show (0 : BitVec 3).toNat ≠ 2 by decide)
    refine ⟨sendDlvAck d s, flushed, ?_, ⟨(s.cleared d).entering 128 ack, ?_, rfl, rfl, rfl, rfl, ?_, rfl⟩, sendDlvAck_changes (.refl _ s) (by decide)⟩
    · rw [sent, pending, State.cleared, State.modSwc_swc]
    · rw [sent, voq]
      exact List.mem_append_right _ (List.mem_singleton.2 rfl)
    · exact congrArg (BitVec.ofNat 13) (length_flatMap_word _)
end

section
/-! SUPPORT. Pens (R148-R167, Table 6-10): what the Fold's shared operations leave of the FLD block and of one Pen, and
how a Fold packet reaches its operation. -/

namespace Sys2Proof.Machine

/-! ## The FLD block through sending and aborts -/

theorem inject_fld (slot : Nat) (p : Packet) (s : State) : (inject slot p s).fld = s.fld :=
  inject_changes (parts := [.swc]) (.refl _ s) (List.Subset.refl _) .fld (by decide)

/-- The root's ABORT counts its status and releases the Pen (R152, Table 6-11). -/
theorem issueAbort_fld (tag stepLo node status dev origin : Nat) (ranks : List Nat) (s : State) :
    (issueAbort tag stepLo node status dev origin ranks s).fld =
      { s.fld with insts := s.fld.insts.filter (fun i => i.key != (tag, stepLo, node))
                   abortSt := Tab.edit 0 s.fld.abortSt status sat32 } := by
  simp only [issueAbort, State.dropPen, State.modFld_fld]
  rw [foldl_keeps (π := State.fld) (fun t x => sendMcast_fld ..), sendMcast_fld]

/-- Only the root's home ends the Pen; others send abort records, which leave FLD as it is (R151). -/
theorem reportAbort_fld (tag stepLo : Nat) (n : PenNode) (arrival : Bool) (status : Nat) (ranks : List Nat) (s : State) :
    (reportAbort tag stepLo n arrival status ranks s).fld =
      if n.parent.isNone = true ∧ n.devices.head? = some (logPenAbort tag status s).devIndex then
        { s.fld with insts := s.fld.insts.filter (fun i => i.key != (tag, stepLo, n.node))
                     abortSt := Tab.edit 0 s.fld.abortSt status sat32 }
      else s.fld := by
  simp only [reportAbort, Bool.and_eq_true, beq_iff_eq]
  split
  · rw [issueAbort_fld, logPenAbort_fld]
  · rw [foldl_keeps (π := State.fld) (fun t x => sendAbortRecord_fld ..), logPenAbort_fld]

/-! ## One Pen -/

theorem State.pen_eq_none {s : State} {k : Nat × Nat × Nat} : s.pen k = none ↔ ∀ j ∈ s.fld.insts, j.key ≠ k := by
  simp [State.pen]

/-- A change of a Pen that keeps its key is what the lookup reads. -/
theorem State.pen_changed {s : State} {k : Nat × Nat × Nat} {i : PenInst} (f : PenInst → PenInst) (h : s.pen k = some i)
    (hf : (f i).key = i.key) : (s.modPen k f).pen k = some (f i) :=
  State.pen_modPen_self f h (hf.trans (State.key_of_pen h))

/-- The other Pens stay when one is released. -/
theorem State.mem_dropPen {s : State} {k : Nat × Nat × Nat} {j : PenInst} :
    j ∈ (s.dropPen k).fld.insts ↔ j ∈ s.fld.insts ∧ j.key ≠ k := by
  simp [State.dropPen]

/-- An output that is formed is all that changes in its Pen (R145). -/
theorem formOut_pen {s : State} {k : Nat × Nat × Nat} {i : PenInst} (c : Nat) (window : Bool) (h : s.pen k = some i) :
    ∃ outs, (formOut k c window s).pen k = some { i with outs := outs } := by
  have formed (o : ChunkOut) (f : Fld → Fld) (hf : ∀ l, (f l).insts = l.insts) :
      ∃ outs, ((s.modPen k (PenInst.setOut c (i.parts c) o)).modFld f).pen k = some { i with outs := outs } :=
    ⟨_, by
      rw [State.pen, State.modFld_fld, hf]
      exact State.pen_changed _ h rfl⟩
  simp only [formOut, h]
  split_ifs
  · exact ⟨_, h⟩
  · exact formed _ _ fun _ => rfl
  · exact formed _ _ fun _ => rfl
  · exact ⟨_, h⟩

/-- An ACK counts the chunks since the last one anew, and is sent (R150). -/
theorem ackChild_pen {s : State} {k : Nat × Nat × Nat} {i : PenInst} (first : Bool) (n : Nat) (h : s.pen k = some i) :
    ∃ since, (ackChild first k n s).pen k = some { i with sinceAck := since } := by
  simp only [ackChild, h]
  split
  · exact ⟨_, (State.pen_congr (foldl_keeps (π := State.fld) (fun t x => inject_fld ..) _ _) k).trans
      (State.pen_changed _ h rfl)⟩
  · exact ⟨_, h⟩

/-- A Pen is tallied once (R170). -/
theorem tallyPen_pen {s : State} {k : Nat × Nat × Nat} {i : PenInst} (h : s.pen k = some i) :
    ∃ b, (tallyPen k s).pen k = some { i with tallied := b } := by
  simp only [tallyPen, h]
  split
  · exact ⟨_, h⟩
  · exact ⟨_, State.pen_changed _ h rfl⟩

/-! ## A Fold packet is taken (R352) -/

section
variable {p : Packet} {s : State}

theorem need_of_wf {c : Bool} (wf : c = true) (s : State) : need c s = .next s := if_pos wf

theorem foldTakes_of_live {ptype : Nat} {c : Packet → Bool} (f : Packet → State → State) (live : s.flt.fatal = none)
    (type : p.ptype.toNat = ptype) (fits : c p = true) : foldTakes ptype c f p s = settleCore (f p (takeInbox p s)) := by
  simp [foldTakes, State.isFatal, live, type, fits]

variable (wf : Wf.packet p = true) (live : s.flt.fatal = none)
include wf live

theorem exec_penOpen (type : p.ptype = 0x10) (crc : packetCrc p p.payload = p.crc) :
    exec (.penOpen p) s = .next (settleCore (penOpen p (takeInbox p s))) := by
  refine (need_of_wf wf _).trans (congrArg _ ((foldTakes_of_live _ live (congrArg _ type) rfl).trans ?_))
  rw [if_neg (by simpa using crc)]

end

end Sys2Proof.Machine
end

section
/-! SUPPORT. PEN_OPEN (R148, R158, R163): an unknown Pen, a message that the checks refuse, and a Pen that opens. -/

namespace Sys2Proof.Machine

variable {s : State} {p : Packet} {q : PenPolicy} {n : PenNode}

/-- The Pen that a PEN_OPEN opens at a node, before it has its place in the retention. -/
def State.newPen (s : State) (q : PenPolicy) (n : PenNode) (p : Packet) : PenInst :=
  { tag := penTag p, stepLo := penStepLo p, node := n, arrival := (parsePenOpen p.payload).isArrival, policy := q
    msg := parsePenOpen p.payload, raw := p.payload, tick := s.tickNow, opens := [n.inputs.idxOf (penSender p)] }

/-- Chunks for which the node's scale table must grow, or be made (R155, R159). -/
def State.scaleGrowth (s : State) (tag node : Nat) (fp64 : Bool) (own : List Nat) : Nat :=
  if fp64 then 0 else match s.scaleTab tag node with
    | some e => (own.filter (fun c => !e.own.contains c)).length
    | none => own.length

theorem penOpen_of_unknown (unknown : s.penPolicy (penTag p) = none) : penOpen p s = countStale s := by
  simp [penOpen, unknown]

section
variable (known : s.penPolicy (penTag p) = some q)
  (here : s.nodeFor (treeOf q (parsePenOpen p.payload).isArrival) (penSender p) = some n)
  (idle : s.pen (penTag p, penStepLo p, n.node) = none)
include known here idle

theorem penOpen_of_idle : penOpen p s = passOpen n p (openPen q n true p s) := by
  simp [penOpen, known, here, idle]

end

theorem passOpen_of_idle (idle : s.pen (penTag p, penStepLo p, n.node) = none) : passOpen n p s = s := by
  simp [passOpen, idle]

theorem passOpen_fld (n : PenNode) (p : Packet) (s : State) : (passOpen n p s).fld = s.fld :=
  passOpen_changes (parts := [.swc]) (.refl _ s) (List.Subset.refl _) .fld (by decide)

theorem openPen_of_refused
    (refused : (parsePenOpen p.payload).valid q (rootLevel (treeOf q (parsePenOpen p.payload).isArrival)) = false) :
    openPen q n true p s = reportAbort (penTag p) (penStepLo p) n (parsePenOpen p.payload).isArrival 7 [] s := by
  simp [openPen, refused, abMismatch]

/-- An abort of a Pen that is not open here leaves none open. -/
theorem reportAbort_pen_of_idle {tag stepLo : Nat} (arrival : Bool) (status : Nat) (ranks : List Nat)
    (idle : s.pen (tag, stepLo, n.node) = none) :
    (reportAbort tag stepLo n arrival status ranks s).pen (tag, stepLo, n.node) = none := by
  rw [State.pen_eq_none] at idle ⊢
  rw [reportAbort_fld]
  split
  · exact fun j hj => idle j (List.mem_of_mem_filter hj)
  · exact idle

/-- The first ACK counts nothing. -/
theorem ackChild_first_insts (k : Nat × Nat × Nat) (m : Nat) (s : State) :
    (ackChild true k m s).fld.insts = s.fld.insts := by
  unfold ackChild
  split
  · rfl
  · split
    · rw [foldl_keeps (π := State.fld) (fun t x => inject_fld ..)]
      exact (List.map_congr_left fun x _ => ite_self _).trans (List.map_id _)
    · rfl

/-- A message that passes every check opens the Pen in the Tract that has the retention (R158, Table 6-10). -/
theorem openPen_of_room {t : Nat} (s : State)
    (valid : (parsePenOpen p.payload).valid q (rootLevel (treeOf q (parsePenOpen p.payload).isArrival)) = true)
    (wide : (parsePenOpen p.payload).isFp64 (rootLevel (treeOf q (parsePenOpen p.payload).isArrival)) = true →
      s.fuses.fp64 = true)
    (table : s.fld.insts.length < 1024)
    (two : (s.fld.insts.filter (fun i => i.tag == penTag p && i.node.node == n.node)).length < 2)
    (holds : s.holdingTract (penTag p) n.node ((s.newPen q n p).bytes s.devIndex + 1024 * s.scaleGrowth (penTag p) n.node
      ((parsePenOpen p.payload).isFp64 (rootLevel (treeOf q (parsePenOpen p.payload).isArrival)))
      ((s.newPen q n p).own s.devIndex)) = some t) :
    ∃ v, (openPen q n true p s).fld.insts = s.fld.insts ++ [{ s.newPen q n p with
        tract := t, size := (s.newPen q n p).bytes s.devIndex
        base := v % (s.foldRoom t - (s.newPen q n p).bytes s.devIndex + 1) }] ∧
      ChangesOnly [.fld, .swc, .draws] s (openPen q n true p s) := by
  refine ⟨s.draw.1.toNat, ?_⟩
  have fuse : ((parsePenOpen p.payload).isFp64 (rootLevel (treeOf q (parsePenOpen p.payload).isArrival)) &&
      !s.fuses.fp64) = false := by
    cases h : s.fuses.fp64 <;> simp_all
  generalize opens : openPen q n true p s = u
  unfold openPen at opens
  extract_lets m tag step ns top fail here i own old grow size at opens
  rw [if_neg (by simpa using valid), if_neg (by simpa using fuse),
    if_neg (by simpa using And.intro table (Nat.le_of_lt_succ two))] at opens
  split at opens
  next none => exact absurd (holds.symm.trans none) (by simp)
  next t' found =>
  obtain rfl : t = t' := Option.some.inj (holds.symm.trans found)
  dsimp -zeta only [State.draw] at opens
  extract_lets room j s3 s4 s5 at opens
  clear_value old
  have entered : s4.fld.insts = s.fld.insts ++ [j] := by
    dsimp only [s4]
    repeat' split
    all_goals rfl
  have scaled : ChangesOnly [.fld, .swc, .draws] s s4 := by
    have drawn : ChangesOnly [.fld, .swc, .draws] s s3 :=
      (((ChangesOnly.refl _ s).drawn (by decide)).drawn (by decide)).modFld _ (by decide)
    refine .ite_any drawn ?_
    split <;> exact drawn.modFld _ (by decide)
  have asked : s5.fld = s4.fld ∧ ChangesOnly [.fld, .swc, .draws] s s5 := by
    dsimp only [s5]
    split
    · split
      · exact ⟨inject_fld .., inject_changes scaled (by decide)⟩
      · exact ⟨rfl, scaled⟩
    · exact ⟨rfl, scaled⟩
  obtain ⟨fld, frame⟩ := asked
  rw [← opens]
  exact ⟨by rw [ackChild_first_insts, fld, entered]; rfl, ackChild_changes frame (by decide)⟩

end Sys2Proof.Machine
end

section
open Sys2Proof Sys2Proof.Machine

/-- Settles O16: an unknown Pen is counted stale, a refused message is reported by `reportAbort`, and a valid one goes on in
`openPen_of_room`; the last thing a PEN_OPEN does, `passOpen`, sends packets alone. -/
theorem pensOpenAtTheirNodes : Obligations.PensOpenAtTheirNodes := by
  unfold Obligations.PensOpenAtTheirNodes
  intro p s wf live type crc m s1
  have taken : exec (.penOpen p) s = .next (settleCore (penOpen p s1)) := exec_penOpen wf live type crc
  have inbox (ps : List Part) (h : [.inbox] ⊆ ps) : ChangesOnly ps s s1 := takeInbox_changes (.refl _ s) h
  rw [taken]
  refine ⟨fun unknown => ?_, fun q n known here idle => ?_⟩
  · rw [penOpen_of_unknown (s := s1) unknown]
    exact ⟨_, rfl, rfl, countStale_changes (inbox _ (by decide)) (by decide)⟩
  · rw [penOpen_of_idle (s := s1) known here idle]
    refine ⟨fun refused => ?_, ?_⟩
    · rw [openPen_of_refused refused, passOpen_of_idle (reportAbort_pen_of_idle (s := s1) _ _ _ idle)]
    · intro valid wide table two i own grow t holds
      obtain ⟨v, insts, frame⟩ := openPen_of_room s1 valid wide table two holds
      refine ⟨_, _, rfl, (congrArg Fld.insts (passOpen_fld ..)).trans insts, rfl, rfl,
        Nat.lt_succ_iff.1 (Nat.mod_lt _ (Nat.succ_pos _)), ?_⟩
      exact passOpen_changes ((inbox _ (by decide)).trans (frame.mono (by decide))) (by decide)

end

section
/-! SUPPORT. Contributions (R143, R149, R161, R162, R171): a copy that is still wanted, its data packets, what its closing
packet makes of it, and the results of other stripe devices. -/

namespace Sys2Proof.Machine

variable {s : State} {p : Packet} {i : PenInst} {n : Nat}

/-! ## Taking the packet -/

theorem exec_contrib (wf : Wf.packet p = true) (live : s.flt.fatal = none) (type : p.ptype = 0x11) (data : penPkt p < 64) :
    exec (.contrib p) s = .next (settleCore (contrib p (takeInbox p s))) := by
  refine (need_of_wf wf _).trans (congrArg _ ((if_neg (by simp [type])).trans ?_))
  exact foldTakes_of_live _ live (congrArg _ type) (by simpa using data)

theorem exec_contrib_result (wf : Wf.packet p = true) (live : s.flt.fatal = none) (type : p.ptype = 0x12)
    (data : penPkt p < 64) : exec (.contrib p) s = .next (settleCore (gatherResult p (takeInbox p s))) := by
  refine (need_of_wf wf _).trans (congrArg _ ((if_pos type).trans ?_))
  exact foldTakes_of_live _ live (congrArg _ type) (by simpa using data)

theorem exec_closingPacket (wf : Wf.packet p = true) (live : s.flt.fatal = none) (type : p.ptype = 0x11)
    (closes : penPkt p < 0x7E) : exec (.closingPacket p) s = .next (settleCore (closing p (takeInbox p s))) := by
  refine (need_of_wf wf _).trans (congrArg _ ((if_neg (by simp [type])).trans ?_))
  exact foldTakes_of_live _ live (congrArg _ type) (by simpa using closes)

/-! ## A copy that is still wanted -/

/-- The packet's sender is input `n` of the Pen `i`, and the copy of its chunk is still wanted here (R161-R164). -/
structure State.Wants (s : State) (p : Packet) (i : PenInst) (n : Nat) : Prop where
  sender   : s.penOfSender p = some (i, n)
  pen      : s.pen i.key = some i
  alive    : i.state ≠ .aborted
  inTime   : i.tooLate s.devIndex n = false
  chunk    : penChunk p < i.msg.chunks
  owned    : nodeOwns i.node s.devIndex (penChunk p) = true
  unformed : i.formed (penChunk p) = false
  open_    : (i.copy (inKey (penChunk p) n (penPart p))).good = false

theorem State.Wants.taken (h : s.Wants p i n) : (takeInbox p s).Wants p i n := { h with }

theorem withCopy_of_wanted (h : s.Wants p i n) (f : PenInst → Nat → State → State) : withCopy p f s = f i n s := by
  simp [withCopy, h.sender, h.alive, h.inTime, Nat.not_le.2 h.chunk, h.owned, h.unformed, h.open_]

theorem withCopy_of_stranger (h : s.penOfSender p = none) (f : PenInst → Nat → State → State) :
    withCopy p f s = countStale s := by
  simp [withCopy, h]

theorem foldSram_of_unarmed (h : s.flt.armed = none) (i : PenInst) (c : Nat) : foldSram i c s = s := by
  simp [foldSram, State.find_armed_of_unarmed h]

theorem dataPackets_le (fmt : Nat) : dataPackets fmt ≤ 64 := by
  unfold dataPackets
  split <;> decide

/-! ## The copies of a Pen -/

/-- The copies of chunks that a Pen holds. -/
def State.copiesAt (s : State) (k : Nat × Nat × Nat) : Option (Tab ChunkIn) := (s.pen k).map PenInst.ins

theorem State.modPen_copiesAt {f : PenInst → PenInst} {k : Nat × Nat × Nat} (key : ∀ i, (f i).key = i.key)
    (ins : ∀ i, (f i).ins = i.ins) : (s.modPen k f).copiesAt k = s.copiesAt k := by
  cases pen : s.pen k with
  | some i => simp [State.copiesAt, State.pen_changed f pen (key i), pen, ins]
  | none =>
    have idle : (s.modPen k f).pen k = none := by
      rw [State.pen_eq_none] at pen ⊢
      rintro _ hj
      obtain ⟨i, hi, rfl⟩ := List.mem_map.1 hj
      simp [pen i hi]
    rw [State.copiesAt, State.copiesAt, idle, pen]

theorem formOut_copiesAt (k : Nat × Nat × Nat) (c : Nat) (window : Bool) (s : State) :
    (formOut k c window s).copiesAt k = s.copiesAt k := by
  cases pen : s.pen k with
  | some i => obtain ⟨outs, h⟩ := formOut_pen c window pen; simp [State.copiesAt, h, pen]
  | none => simp [formOut, pen]

theorem ackChild_copiesAt (first : Bool) (k : Nat × Nat × Nat) (m : Nat) (s : State) :
    (ackChild first k m s).copiesAt k = s.copiesAt k := by
  cases pen : s.pen k with
  | some i => obtain ⟨since, h⟩ := ackChild_pen first m pen; simp [State.copiesAt, h, pen]
  | none => simp [ackChild, pen]

theorem tallyPen_copiesAt (k : Nat × Nat × Nat) (s : State) : (tallyPen k s).copiesAt k = s.copiesAt k := by
  cases pen : s.pen k with
  | some i => obtain ⟨b, h⟩ := tallyPen_pen pen; simp [State.copiesAt, h, pen]
  | none => simp [tallyPen, pen]

/-! ## Data packets (R143) -/

/-- A copy with one more data packet. -/
def ChunkIn.keep (pkt : Nat) (bytes : Bytes) (gt : Nat) (x : ChunkIn) : ChunkIn :=
  { x with pkts := Tab.put none x.pkts pkt (some bytes), firstGt := x.firstGt.or (some gt) }

theorem PenInst.copy_edit (k : Nat) (f : ChunkIn → ChunkIn) (i : PenInst) :
    ({ i with ins := Tab.edit {} i.ins k f } : PenInst).copy k = f (i.copy k) := Tab.look_edit_self ..

theorem contrib_of_wanted (h : s.Wants p i n) (unarmed : s.flt.armed = none) (crc : packetCrc p p.payload = p.crc)
    (data : penPkt p < dataPackets i.fmtIn) (len : p.payload.length = dataLen i.fmtIn) :
    contrib p s = s.modPen i.key (fun x => { x with
      ins := Tab.edit {} x.ins (inKey (penChunk p) n (penPart p)) (ChunkIn.keep (penPkt p) p.payload s.bel.gt) }) := by
  have fits : (decide (dataPackets i.fmtIn ≤ penPkt p) || p.payload.length != dataLen i.fmtIn ||
      packetCrc p p.payload != p.crc) = false := by
    simp [Nat.not_le.2 data, len, crc]
  rw [contrib, withCopy_of_wanted h]
  exact (if_neg (by simp [fits])).trans (foldSram_of_unarmed (s := State.modPen _ _ _) unarmed ..)

/-! ## Closing packets (R149, R161, R162) -/

/-- A copy is dropped. -/
def PenInst.dropCopy (k : Nat) (i : PenInst) : PenInst := { i with ins := Tab.drop k i.ins }

@[simp] theorem PenInst.copy_dropCopy (k : Nat) (i : PenInst) : (i.dropCopy k).copy k = {} := by
  simp [PenInst.dropCopy, PenInst.copy, Tab.look_drop]

theorem pen_dropCopy (h : s.pen i.key = some i) (k : Nat) :
    (s.modPen i.key (PenInst.dropCopy k)).pen i.key = some (i.dropCopy k) := State.pen_changed _ h rfl

/-- The trailer of a closing packet (Table 6-6). -/
def closingTrailer (p : Packet) (fmt : Nat) : Trailer := parseTrailer (p.payload.drop (scaleLen fmt))

/-- Every data packet of a copy is here, and the chunk's CRC-32C is that of the trailer. -/
def ChunkIn.Whole (x : ChunkIn) (fmt : Nat) (p : Packet) : Prop :=
  (List.range (dataPackets fmt)).all (fun j => (Tab.look none x.pkts j).isSome) = true ∧
    crc32c (x.data fmt ++ p.payload.take (scaleLen fmt)) = (closingTrailer p fmt).crc.toNat

/-- The test of R149 as the closing packet makes it. -/
theorem ChunkIn.not_whole_iff {x : ChunkIn} {fmt : Nat} :
    (!(List.range (dataPackets fmt)).all (fun j => (Tab.look none x.pkts j).isSome) ||
      decide (crc32c (x.data fmt ++ p.payload.take (scaleLen fmt)) ≠ (closingTrailer p fmt).crc.toNat)) = true ↔
      ¬x.Whole fmt p := by
  rw [ChunkIn.Whole, not_and_or, Bool.or_eq_true, decide_eq_true_iff, Bool.not_eq_true', Bool.not_eq_true]

section
variable (h : s.Wants p i n) (last : penPkt p = dataPackets i.fmtIn)
include h last

/-- A member's closing packet whose end-to-end CRC or LENGTH is wrong. -/
theorem closing_of_spoilt {r : Nat} (member : i.node.inputs[n]? = some (.member r))
    (spoilt : packetCrc p p.payload ≠ p.crc ∨ p.payload.length ≠ scaleLen i.fmtIn + 16) :
    closing p s = (s.modFld (fun l => { l with crc := sat32 l.crc })).modPen i.key
      (PenInst.dropCopy (inKey (penChunk p) n (penPart p))) := by
  rw [closing, withCopy_of_wanted h]
  refine (if_neg (not_not.2 last)).trans ((if_pos (by simpa using spoilt)).trans ?_)
  simp only [member]
  rfl

variable (crc : packetCrc p p.payload = p.crc) (len : p.payload.length = scaleLen i.fmtIn + 16)
include crc len

/-- A closing packet with verdict BAD drops the copy. -/
theorem closing_of_bad (bad : (closingTrailer p i.fmtIn).verdict = 0xA5) :
    closing p s = s.modPen i.key (PenInst.dropCopy (inKey (penChunk p) n (penPart p))) := by
  rw [closing, withCopy_of_wanted h]
  exact (if_neg (not_not.2 last)).trans ((if_neg (by simp [crc, len])).trans (if_pos bad))

/-- A copy that lacks a packet, or fails the chunk's CRC, is dropped and counted; a child is asked to send it again. -/
theorem closing_of_partial (good : (closingTrailer p i.fmtIn).verdict ≠ 0xA5)
    (lacks : ¬(i.copy (inKey (penChunk p) n (penPart p))).Whole i.fmtIn p) :
    (closing p s).fld = ((s.modPen i.key (PenInst.dropCopy (inKey (penChunk p) n (penPart p)))).modFld
      (fun l => { l with crc := sat32 l.crc })).fld ∧ ChangesOnly [.fld, .swc] s (closing p s) := by
  have dropped : ChangesOnly [.fld, .swc] s ((s.modPen i.key
      (PenInst.dropCopy (inKey (penChunk p) n (penPart p)))).modFld (fun l => { l with crc := sat32 l.crc })) :=
    (State.modPen_changes (.refl _ s) (by decide)).modFld _ (by decide)
  generalize closes : closing p s = u
  rw [closing, withCopy_of_wanted h] at closes
  have lost := (if_neg (not_not.2 last)).symm.trans closes
  replace lost := (if_neg (by simp [crc, len])).symm.trans lost
  replace lost := (if_neg good).symm.trans lost
  replace lost := (if_pos (ChunkIn.not_whole_iff.2 lacks)).symm.trans lost
  rw [← lost]
  split
  · exact ⟨inject_fld .., sendResend_changes dropped (by decide)⟩
  · exact ⟨rfl, dropped⟩

/-- A complete copy: its scales and trailer are those of the closing packet. -/
def ChunkIn.complete (p : Packet) (fmt : Nat) (x : ChunkIn) : ChunkIn :=
  { x with scales := p.payload.take (scaleLen fmt), trailer := closingTrailer p fmt, good := true, firstGt := none }

/-- A whole copy is complete; the outputs, ACKs and tallies that follow leave the copies of the Pen as they are. -/
theorem closing_of_whole (unarmed : s.flt.armed = none) (good : (closingTrailer p i.fmtIn).verdict ≠ 0xA5)
    (whole : (i.copy (inKey (penChunk p) n (penPart p))).Whole i.fmtIn p) :
    (closing p s).copiesAt i.key = some (Tab.add (inKey (penChunk p) n (penPart p))
      ((i.copy (inKey (penChunk p) n (penPart p))).complete p i.fmtIn) i.ins) ∧
      ChangesOnly [.fld, .swc] s (closing p s) := by
  generalize closes : closing p s = u
  rw [closing, withCopy_of_wanted h] at closes
  have done := (if_neg (not_not.2 last)).symm.trans closes
  replace done := (if_neg (by simp [crc, len])).symm.trans done
  replace done := (if_neg good).symm.trans done
  replace done := (if_neg (fun lacks => ChunkIn.not_whole_iff.1 lacks whole)).symm.trans done
  clear closes
  extract_lets copy s1 s2 at done
  have stored : s1.copiesAt i.key = some (Tab.add (inKey (penChunk p) n (penPart p)) copy i.ins) ∧
      ChangesOnly [.fld, .swc] s s1 := by
    dsimp only [s1]
    rw [foldSram_of_unarmed (s := State.modPen _ _ _) unarmed, State.copiesAt, State.pen_changed _ h.pen rfl]
    exact ⟨rfl, State.modPen_changes (.refl _ s) (by decide)⟩
  have formed : s2.copiesAt i.key = s1.copiesAt i.key ∧ ChangesOnly [.fld, .swc] s s2 :=
    ⟨formOut_copiesAt .., formOut_changes stored.2 (by decide)⟩
  suffices rest : u.copiesAt i.key = s2.copiesAt i.key ∧ ChangesOnly [.fld, .swc] s u from
    ⟨rest.1.trans (formed.1.trans stored.1), rest.2⟩
  rw [← done]
  split
  next gone => exact ⟨rfl, formed.2⟩
  next i2 pen2 =>
  rw [State.key_of_pen pen2]
  extract_lets all s3
  have acked : s3.copiesAt i.key = s2.copiesAt i.key ∧ ChangesOnly [.fld, .swc] s s3 := by
    dsimp only [s3]
    split
    · exact ⟨ackChild_copiesAt .., ackChild_changes formed.2 (by decide)⟩
    · exact ⟨rfl, formed.2⟩
  split
  · refine ⟨(tallyPen_copiesAt ..).trans (.trans (State.modPen_copiesAt ?_ ?_) acked.1), ?_⟩
    · exact fun _ => rfl
    · exact fun _ => rfl
    · exact tallyPen_changes (State.modPen_changes acked.2 (by decide)) (by decide)
  · exact acked

end

/-! ## Results of other stripe devices (R171) -/

/-- A copy of a result chunk with one more data packet. -/
def ChunkIn.gather (pkt : Nat) (bytes : Bytes) (x : ChunkIn) : ChunkIn := { x with pkts := Tab.put none x.pkts pkt (some bytes) }

/-- A data packet of a RESULT chunk that another stripe device owns is kept at the root's home. -/
theorem gatherResult_of_data (home : s.penAtRoot p = some i) (opened : i.state = .opened)
    (other : nodeOwns i.node s.devIndex (penChunk p) = false) (chunk : penChunk p < i.msg.chunks)
    (open_ : (Tab.look {} i.results (penChunk p)).good = false) (crc : packetCrc p p.payload = p.crc)
    (data : penPkt p < dataPackets i.fmtOut) (len : p.payload.length = dataLen i.fmtOut) :
    gatherResult p s = s.modPen i.key (fun x => { x with
      results := Tab.put {} x.results (penChunk p)
        ((Tab.look {} i.results (penChunk p)).gather (penPkt p) p.payload) }) := by
  unfold State.penAtRoot at home
  simp only [gatherResult, home]
  refine (if_neg (by rw [open_]; simp [opened, other, Nat.not_le.2 chunk, crc])).trans ?_
  exact (if_pos data).trans (if_pos len)

end Sys2Proof.Machine
end

section
open Sys2Proof Sys2Proof.Machine

/-- Settles O17: a copy that is still wanted goes by `contrib_of_wanted` where the packet is data, and by the four outcomes of
its closing packet, of which only `closing_of_whole` completes it. -/
theorem contributionsAreKept : Obligations.ContributionsAreKept := by
  unfold Obligations.ContributionsAreKept
  refine ⟨fun p s wf live type crc unarmed => ⟨fun stranger data => ?_, ?_⟩, ?_, ?_⟩
  · refine ⟨_, exec_contrib wf live type data, ?_⟩
    rw [contrib, withCopy_of_stranger (s := takeInbox p s) stranger]
    exact ⟨rfl, countStale_changes (takeInbox_changes (.refl _ s) (by decide)) (by decide)⟩
  · intro i n sender pen alive inTime chunk owned unformed open_ k fmt
    have wanted : (takeInbox p s).Wants p i n :=
      State.Wants.taken ⟨sender, pen, alive, inTime, chunk, owned, unformed, open_⟩
    have inbox : ChangesOnly [.inbox] s (takeInbox p s) := takeInbox_changes (.refl _ s) (by decide)
    refine ⟨fun data len => ?_, fun last closes len => ⟨fun bad => ?_, fun good lacks => ?_, fun good whole => ?_⟩⟩
    · refine ⟨_, _, (exec_contrib wf live type (data.trans_le (dataPackets_le _))).trans
        (by rw [contrib_of_wanted wanted unarmed crc data len]), State.pen_changed _ wanted.pen rfl, ?_, ?_,
        fun x other => ?_, fun x other => ?_, rfl,
        State.modPen_changes (inbox.mono (by decide)) (by decide)⟩
      · rw [PenInst.copy_edit, ChunkIn.keep, Tab.look_put_self]
      · rw [PenInst.copy_edit]
        exact open_
      · rw [PenInst.copy_edit, ChunkIn.keep, Tab.look_put, if_neg other]
      · exact Tab.look_edit_of_ne _ _ _ _ _ other
    all_goals rw [exec_closingPacket wf live type closes]
    · rw [closing_of_bad wanted last crc len bad]
      exact ⟨_, _, rfl, pen_dropCopy wanted.pen k, PenInst.copy_dropCopy .., rfl,
        State.modPen_changes (inbox.mono (by decide)) (by decide)⟩
    · obtain ⟨fld, frame⟩ := closing_of_partial wanted last crc len good lacks
      exact ⟨_, _, rfl, (State.pen_congr fld _).trans (pen_dropCopy wanted.pen k), PenInst.copy_dropCopy ..,
        congrArg Fld.crc fld, (inbox.mono (by decide)).step frame (by decide)⟩
    · obtain ⟨copies, frame⟩ := closing_of_whole wanted last crc len unarmed good whole
      obtain ⟨j, pen', ins⟩ := Option.map_eq_some_iff.1 copies
      have complete : j.copy k = (i.copy k).complete p i.fmtIn := by
        rw [PenInst.copy, ins, Tab.look_add, if_pos rfl]
      refine ⟨_, j, rfl, pen', ?_, ?_, ?_, ?_, (inbox.mono (by decide)).step frame (by decide)⟩
      all_goals exact complete ▸ rfl
  · intro p i n r s wf live type sender pen alive inTime chunk owned unformed open_ last closes member spoilt
    have wanted : (takeInbox p s).Wants p i n :=
      State.Wants.taken ⟨sender, pen, alive, inTime, chunk, owned, unformed, open_⟩
    rw [exec_closingPacket wf live type closes, closing_of_spoilt wanted last member spoilt]
    exact ⟨_, _, rfl, pen_dropCopy (i := i) (.trans rfl wanted.pen) _, PenInst.copy_dropCopy .., rfl,
      State.modPen_changes ((takeInbox_changes (.refl _ s) (by decide)).modFld _ (by decide)) (by decide)⟩
  · intro p i s wf live type crc home pen opened other chunk open_ data small len
    rw [exec_contrib_result wf live type small,
      gatherResult_of_data (s := takeInbox p s) home opened other chunk open_ crc data len]
    refine ⟨_, _, rfl, State.pen_changed _ (s := takeInbox p s) pen rfl, ?_, rfl, rfl,
      State.modPen_changes (takeInbox_changes (.refl _ s) (by decide)) (by decide)⟩
    rw [Tab.look_put_self, ChunkIn.gather, Tab.look_put_self]

end

section
/-! SUPPORT. ACK and RESEND (R150, R160, R162, R163): what an ACK of the parent or of a member adds, and how a RESEND is
answered at the root and at a child. -/

namespace Sys2Proof.Machine

variable {s : State} {p : Packet} {i : PenInst}

theorem exec_foldAck (wf : Wf.packet p = true) (live : s.flt.fatal = none) (type : p.ptype = 0x13) :
    exec (.foldAck p) s = .next (settleCore (foldAck p (takeInbox p s))) :=
  (need_of_wf wf _).trans (congrArg _ (foldTakes_of_live _ live (congrArg _ type) rfl))

theorem exec_foldResend (wf : Wf.packet p = true) (live : s.flt.fatal = none) (type : p.ptype = 0x14) :
    exec (.foldResend p) s = .next (settleCore (foldResend p (takeInbox p s))) :=
  (need_of_wf wf _).trans (congrArg _ (foldTakes_of_live _ live (congrArg _ type) rfl))

theorem mem_insertUp (n : Nat) (l : List Nat) : n ∈ insertUp n l := by
  induction l with
  | nil => exact List.mem_singleton_self n
  | cons m r ih =>
    rw [insertUp]
    split_ifs with lt eq
    · exact List.mem_cons_self
    · exact eq ▸ List.mem_cons_self
    · exact List.mem_cons_of_mem m ih

/-- Chunks that an ACK packet covers (R150). -/
def ackBits (i : PenInst) (p : Packet) : Nat := coverBits i.msg.chunks (beAt p.payload 0 2) (beAt p.payload 4 8)

/-- A member has acknowledged more chunks. -/
def PenInst.ackedBy (r bits : Nat) (i : PenInst) : PenInst := { i with acks := Tab.edit 0 i.acks r (· ||| bits) }

/-- A stripe device of the parent has acknowledged more chunks, and takes contributions. -/
def PenInst.coveredBy (d bits : Nat) (i : PenInst) : PenInst :=
  { i with covered := Tab.edit 0 i.covered d (· ||| bits), parentOk := insertUp d i.parentOk }

theorem look_edit_or (t : Tab Nat) (d bits x : Nat) :
    Tab.look 0 (Tab.edit 0 t d (· ||| bits)) x = if x = d then Tab.look 0 t x ||| bits else Tab.look 0 t x := by
  rw [Tab.look_edit]
  split_ifs with same
  · rw [same]
  · rfl

/-- A chunk has been asked for once more. -/
def PenInst.askedAgain (c : Nat) (i : PenInst) : PenInst := { i with resent := Tab.edit 0 i.resent c (· + 1) }

section
variable (addressed : s.penAddressed p = some i) (alive : i.state ≠ .aborted) (len : p.payload.length = 12)
  (crc : packetCrc p p.payload = p.crc)
include addressed alive len crc

theorem foldAck_at_root (root : i.isRoot = true) (rank : penPos p < i.policy.members.length) :
    foldAck p s = settlePen i.key (s.modPen i.key (PenInst.ackedBy (penPos p) (ackBits i p))) := by
  simp only [foldAck, addressed]
  refine (if_neg (by simp [alive, len, crc])).trans ?_
  rw [if_pos root, if_neg (Nat.not_le.2 rank)]
  rfl

theorem foldAck_at_child {q : PenNode} (child : i.isRoot = false) (parent : i.parentNode = some q)
    (member : q.devices.contains (p.src.toNat % 16384) = true) :
    foldAck p s = settlePen i.key (sendWaiting i.key (s.modPen i.key
      (PenInst.coveredBy (q.devices.idxOf (p.src.toNat % 16384)) (ackBits i p)))) := by
  have place : ¬q.devices.length ≤ q.devices.idxOf (p.src.toNat % 16384) :=
    Nat.not_le.2 (List.idxOf_lt_length_iff.2 (by simpa using member))
  simp only [foldAck, addressed, parent]
  refine (if_neg (by simp [alive, len, crc])).trans ?_
  rw [if_neg (by simp [child]), if_neg place]
  rfl

/-- The root sends a GOOD output again, once in a tick. -/
theorem foldResend_at_root (root : i.isRoot = true) (good : (i.outp (penChunk p) (penPart p)).good = true)
    (fresh : (i.outp (penChunk p) (penPart p)).resendTick ≠ some s.tickNow)
    (owned : nodeOwns i.node s.devIndex (penChunk p) = true) :
    (foldResend p s).fld.resend = sat32 s.fld.resend ∧ ChangesOnly [.fld, .swc] s (foldResend p s) := by
  generalize answers : foldResend p s = u
  simp only [foldResend, addressed] at answers
  have sent := (if_neg (by simp [alive, len, crc])).symm.trans answers
  replace sent := (if_neg (by simp [good, fresh, owned])).symm.trans ((if_pos root).symm.trans sent)
  rw [← sent]
  refine ⟨?_, State.modPen_changes ((sendOut_changes (.refl _ s) (by decide)).modFld _ (by decide)) (by decide)⟩
  rw [State.modPen, State.modFld_fld, State.modFld_fld, sendOut_fld]

section
variable (child : i.isRoot = false)
include child

/-- A child counts a request and answers it where the output was sent (R162). -/
theorem foldResend_at_child (few : Tab.look 0 i.resent (penChunk p) < 2)
    (good : (i.outp (penChunk p) (penPart p)).good = true) (was : (i.outp (penChunk p) (penPart p)).sent = true) :
    (foldResend p s).fld = ((s.modPen i.key (PenInst.askedAgain (penChunk p))).modFld
      (fun l => { l with resend := sat32 l.resend })).fld ∧ ChangesOnly [.fld, .swc] s (foldResend p s) := by
  generalize answers : foldResend p s = u
  simp only [foldResend, addressed] at answers
  have sent := (if_neg (by simp [alive, len, crc])).symm.trans answers
  replace sent := (if_neg (Nat.not_le.2 few)).symm.trans ((if_neg (by simp [child])).symm.trans sent)
  replace sent := (if_pos (by simp [good, was])).symm.trans sent
  rw [← sent]
  refine ⟨?_, (sendOut_changes (State.modPen_changes (.refl _ s) (by decide)) (by decide)).modFld _ (by decide)⟩
  rw [State.modFld_fld, sendOut_fld]
  rfl

/-- The third request for a chunk opens NODE_FAULT. -/
theorem foldResend_third (third : 2 ≤ Tab.look 0 i.resent (penChunk p)) : foldResend p s = openAbort i 2 [] s := by
  simp only [foldResend, addressed]
  exact (if_neg (by simp [alive, len, crc])).trans ((if_neg (by simp [child])).trans (if_pos third))

end
end
end Sys2Proof.Machine
end

section
open Sys2Proof Sys2Proof.Machine

/-- Settles O19: an ACK adds its bits to one entry of a table, at the root or at a child; a RESEND is answered at the root, counted
and answered at a child, and the third one opens the abort. -/
theorem acksAndResends : Obligations.AcksAndResends := by
  unfold Obligations.AcksAndResends
  intro p i s wf live crc len addressed pen alive bits
  have inbox : ChangesOnly [.inbox] s (takeInbox p s) := takeInbox_changes (.refl _ s) (by decide)
  have here : (takeInbox p s).penAddressed p = some i := addressed
  refine ⟨fun type root rank => ?_, fun q type child parent member => ?_, fun type root good fresh owned => ?_,
    fun type child few good was => ?_, fun type child third => ?_⟩
  · rw [exec_foldAck wf live type, foldAck_at_root here alive len crc root rank]
    exact ⟨_, _, rfl, State.pen_changed _ (s := takeInbox p s) pen rfl, fun r => look_edit_or ..,
      State.modPen_changes (inbox.mono (by decide)) (by decide)⟩
  · rw [exec_foldAck wf live type, foldAck_at_child here alive len crc child parent member]
    exact ⟨_, _, rfl, State.pen_changed _ (s := takeInbox p s) pen rfl, fun x => look_edit_or ..,
      List.contains_iff_mem.2 (mem_insertUp ..), State.modPen_changes (inbox.mono (by decide)) (by decide)⟩
  · rw [exec_foldResend wf live type]
    obtain ⟨count, frame⟩ := foldResend_at_root here alive len crc root good fresh owned
    exact ⟨_, rfl, count, (inbox.mono (by decide)).step frame (by decide)⟩
  · rw [exec_foldResend wf live type]
    obtain ⟨fld, frame⟩ := foldResend_at_child here alive len crc child few good was
    exact ⟨_, _, rfl, congrArg Fld.resend fld,
      (State.pen_congr fld _).trans (State.pen_changed (PenInst.askedAgain (penChunk p)) (s := takeInbox p s) pen rfl),
      Tab.look_edit_self 0 i.resent (penChunk p) (· + 1), (inbox.mono (by decide)).step frame (by decide)⟩
  · rw [exec_foldResend wf live type, foldResend_third here alive len crc child third]

end

section
/-! SUPPORT. Records and aborts (R151, R152, R165, R167): what the root's home makes of a record, the ABORT it issues, and what an
ABORT packet releases. -/

namespace Sys2Proof.Machine

variable {s : State} {p : Packet} {i : PenInst}

theorem exec_lateRecord (wf : Wf.packet p = true) (live : s.flt.fatal = none) (type : p.ptype = 0x11)
    (late : penPkt p = 0x7E) : exec (.lateRecord p) s = .next (settleCore (lateRecord p (takeInbox p s))) :=
  (need_of_wf wf _).trans (congrArg _ (foldTakes_of_live _ live (congrArg _ type) (by simp [late])))

theorem exec_abortRecord (wf : Wf.packet p = true) (live : s.flt.fatal = none) (type : p.ptype = 0x11)
    (abort : penPkt p = 0x7F) : exec (.abortRecord p) s = .next (settleCore (abortRecord p (takeInbox p s))) :=
  (need_of_wf wf _).trans (congrArg _ (foldTakes_of_live _ live (congrArg _ type) (by simp [abort])))

theorem exec_foldAbort (wf : Wf.packet p = true) (live : s.flt.fatal = none) (type : p.ptype = 0x15) :
    exec (.foldAbort p) s = .next (settleCore (foldAbort p (takeInbox p s))) :=
  (need_of_wf wf _).trans (congrArg _ (foldTakes_of_live _ live (congrArg _ type) rfl))

theorem exec_penLateAbort (live : s.flt.fatal = none) (tag step : Nat) :
    exec (.penLateAbort tag step) s = .next (settleCore (penLateAbort tag step s)) := by
  simp [exec, execPenLateAbort, State.isFatal, live]

/-! ## Records at the root's home -/

/-- Ranks are known late. -/
def PenInst.withLate (ranges : List (Nat × Nat)) (i : PenInst) : PenInst := { i with late := i.late ++ ranges }

section
variable (home : s.penAtRoot p = some i) (crc : packetCrc p p.payload = p.crc)
include home crc

theorem lateRecord_at_home : lateRecord p s = s.modPen i.key
    (PenInst.withLate (parseRanges (p.payload.drop 4) (min 16 (beAt p.payload 0 2)))) := by
  simp only [lateRecord, home]
  exact if_neg (by simp [crc])

/-- An abort record of status LATE (R165): the first one is dated. -/
theorem abortRecord_of_late (pen : s.pen i.key = some i) (late : beAt p.payload 0 1 = 1) :
    ∃ j, (abortRecord p s).pen i.key = some j ∧ j.lateGt = i.lateGt.or (some s.bel.gt) ∧ j.state = i.state ∧
      j.late = i.late ++ parseRanges (p.payload.drop 16) (min 16 ((p.payload.length - 16) / 4)) ∧
      ChangesOnly [.fld] s (abortRecord p s) := by
  generalize notes : abortRecord p s = u
  simp only [abortRecord, home] at notes
  rw [← (if_neg (by simp [crc])).symm.trans notes, if_pos (show beAt p.payload 0 1 = abLate from late)]
  exact ⟨_, State.pen_changed _ pen rfl, rfl, rfl, rfl, State.modPen_changes (.refl _ s) (by decide)⟩

/-- An abort record of another status: the root issues the ABORT. -/
theorem abortRecord_of_other (other : beAt p.payload 0 1 ≠ 1) :
    ∃ dev origin ranks, abortRecord p s =
      issueAbort i.tag i.stepLo i.node.node (beAt p.payload 0 1) dev origin ranks s := by
  simp only [abortRecord, home]
  exact ⟨_, _, _, (if_neg (by simp [crc])).trans (if_neg other)⟩

end

/-! ## The ABORT -/

/-- The ABORT that a root issues leaves no Pen of its key and every other, and counts its status. -/
theorem issueAbort_ends (tag stepLo node status dev origin : Nat) (ranks : List Nat) (s : State) :
    let u := issueAbort tag stepLo node status dev origin ranks s
    (∀ j ∈ u.fld.insts, j.key ≠ (tag, stepLo, node)) ∧
    (∀ j ∈ s.fld.insts, j.key ≠ (tag, stepLo, node) → j ∈ u.fld.insts) ∧
    Tab.look 0 u.fld.abortSt status = min 0xFFFFFFFF (Tab.look 0 s.fld.abortSt status + 1) := by
  intro u
  dsimp only [u]
  rw [issueAbort_fld]
  refine ⟨fun j hj => ?_, fun j hj other => List.mem_filter.2 ⟨hj, by simpa using other⟩, Tab.look_edit_self ..⟩
  simpa using (List.mem_filter.1 hj).2

theorem advanceTo_fld (l : Nat) (s : State) : (advanceTo l s).fld = s.fld := advanceTo_frame l s .fld (by decide)

/-- PEN_LATE_ABORT comes one tick after the first LATE record and issues the ABORT with status LATE (R165). -/
theorem penLateAbort_of_dated {tag step g : Nat}
    (dated : s.fld.insts.find? (fun i => i.tag == tag && i.stepLo == step && i.isRoot && i.lateGt.isSome) = some i)
    (first : i.lateGt = some g) :
    ∃ dev origin ranks, penLateAbort tag step s =
      issueAbort tag step i.node.node 1 dev origin ranks (advanceTo (g + s.tickLen) s) := by
  simp only [penLateAbort, dated, first]
  exact ⟨_, _, _, rfl⟩

/-! ## An ABORT packet (R160, Table 6-10) -/

/-- The Pen is that of a packet's tag and step. -/
def PenInst.isFor (p : Packet) (i : PenInst) : Bool := i.tag == penTag p && i.stepLo == penStepLo p

theorem foldAbort_of_none (none : s.fld.insts.any (PenInst.isFor p) = false) : foldAbort p s = countStale s :=
  if_pos (by rw [Bool.not_eq_true']; exact none)

theorem foldAbort_of_some (some : s.fld.insts.any (PenInst.isFor p) = true) (crc : packetCrc p p.payload = p.crc) :
    foldAbort p s = s.modFld (fun l => { l with
      insts := l.insts.filter (fun i => !i.isFor p)
      abortSt := if penPkt p = 0 then Tab.edit 0 l.abortSt (beAt p.payload 0 1) sat32 else l.abortSt }) :=
  (if_neg (by rw [Bool.not_eq_true', Bool.not_eq_false]; exact some)).trans (if_neg (by simp [crc]))

end Sys2Proof.Machine
end

section
open Sys2Proof Sys2Proof.Machine

/-- Settles O20: a record at the root's home changes its Pen or has `issueAbort` end it, PEN_LATE_ABORT ends it the same way, and
an ABORT packet leaves the instances that are not its own. -/
theorem recordsAndAborts : Obligations.RecordsAndAborts := by
  unfold Obligations.RecordsAndAborts
  refine ⟨fun p i s wf live type crc home pen => ⟨fun late => ?_, fun abort late => ?_, fun abort other => ?_⟩,
    fun tag step g i s live dated first => ?_, ?_⟩
  · have taken : (takeInbox p s).penAtRoot p = some i := home
    rw [exec_lateRecord wf live type late, lateRecord_at_home taken crc]
    exact ⟨_, _, rfl, State.pen_changed _ (s := takeInbox p s) pen rfl, rfl,
      State.modPen_changes (takeInbox_changes (.refl _ s) (by decide)) (by decide)⟩
  · obtain ⟨j, pen', gt, state, ranks, frame⟩ := abortRecord_of_late (s := takeInbox p s) home crc pen late
    exact ⟨_, j, exec_abortRecord wf live type abort, pen', gt, state, ranks,
      (takeInbox_changes (.refl _ s) (by decide)).step frame (by decide)⟩
  · obtain ⟨dev, origin, ranks, issued⟩ := abortRecord_of_other (s := takeInbox p s) home crc other
    obtain ⟨gone, kept, count⟩ := issueAbort_ends i.tag i.stepLo i.node.node (beAt p.payload 0 1) dev origin ranks (takeInbox p s)
    rw [exec_abortRecord wf live type abort, issued]
    exact ⟨_, rfl, gone, kept, count, issueAbort_changes (takeInbox_changes (.refl _ s) (by decide)) (by decide)⟩
  · obtain ⟨dev, origin, ranks, issued⟩ := penLateAbort_of_dated dated first
    obtain ⟨gone, -, count⟩ := issueAbort_ends tag step i.node.node 1 dev origin ranks (advanceTo (g + s.tickLen) s)
    have key : i.key = (tag, step, i.node.node) := by
      have found := List.find?_some dated
      simp only [Bool.and_eq_true, beq_iff_eq] at found
      obtain ⟨⟨⟨rfl, rfl⟩, -⟩, -⟩ := found
      rfl
    rw [exec_penLateAbort live, issued, key]
    refine ⟨_, rfl, gone, ?_, ?_, issueAbort_changes ((advanceTo_frame _ s).mono (by decide)) (by decide)⟩
    · exact issueAbort_changes (parts := [.swc, .fld]) (.refl _ _) (by decide) .gt (by decide)
    · rw [count, advanceTo_fld]
  · intro p s wf live type crc mine
    have inbox : ChangesOnly [.fld, .inbox] s (takeInbox p s) := takeInbox_changes (.refl _ s) (by decide)
    rw [exec_foldAbort wf live type]
    cases any : s.fld.insts.any mine with
    | false =>
      rw [foldAbort_of_none (s := takeInbox p s) any]
      refine ⟨_, rfl, ?_, rfl, fun some => absurd some (by simp), countStale_changes inbox (by decide)⟩
      refine (List.filter_eq_self.2 fun i hi => ?_).symm
      rw [List.any_eq_false.1 any i hi |> Bool.eq_false_of_not_eq_true]
      rfl
    | true =>
      rw [foldAbort_of_some (s := takeInbox p s) any crc]
      refine ⟨_, rfl, rfl, rfl, fun _ part => ?_, inbox.modFld _ (by decide)⟩
      rw [State.modFld_fld]
      simp only [part]
      exact Tab.look_edit_self ..

end

section
/-! SUPPORT. Deadlines of a Pen (R145, R160, R164-R166, Table 6-10): what is judged when a deadline comes, and what each verdict
leaves. -/

namespace Sys2Proof.Machine

variable {s : State} {i : PenInst}

/-! ## The commands -/

section
variable (live : s.flt.fatal = none) (tag step node : Nat)
include live

theorem exec_arrivalWindow (c : Nat) :
    exec (.arrivalWindow tag step node c) s = .next (settleCore (arrivalExpire tag step node c s)) := by
  simp [exec, execArrivalWindow, State.isFatal, live]

theorem exec_chunkIncomplete (c n : Nat) :
    exec (.chunkIncomplete tag step node c n) s = .next (settleCore (chunkIncomplete tag step node c n s)) := by
  simp [exec, execChunkIncomplete, State.isFatal, live]

theorem exec_penDeadline : exec (.penDeadline tag step node) s = .next (settleCore (penDeadline tag step node s)) := by
  simp [exec, execPenDeadline, State.isFatal, live]

theorem exec_penAckDeadline : exec (.penAckDeadline tag step) s = .next (penAckDeadline tag step s) := by
  simp [exec, execPenAckDeadline, State.isFatal, live]

theorem exec_penAbortedExpire : exec (.penAbortedExpire tag step node) s = .next (penAbortedExpire tag step node s) := by
  simp [exec, execPenAbortedExpire, State.isFatal, live]

end

theorem State.devIndex_congr {s t : State} (h : t.glb = s.glb) : t.devIndex = s.devIndex := by
  rw [State.devIndex, h, State.devIndex]

/-! ## PEN_DEADLINE (R164) -/

/-- The inputs that have not delivered every chunk of this device. -/
def PenInst.lacking (i : PenInst) (dev : Nat) : List Nat :=
  (List.range i.node.inputs.length).filter (fun n => !(i.own dev).all (fun c => i.delivered c n))

/-- The deadline has come: the Pen is judged, and tallied where it is a level-0 node. -/
def State.judged (s : State) (i : PenInst) : State :=
  tallyPen i.key ((advanceTo ((i.tick + i.deadline) * s.tickLen) s).modPen i.key (fun x => { x with judged := true }))

theorem State.judged_changes (s : State) (i : PenInst) :
    ChangesOnly [.fld] (advanceTo ((i.tick + i.deadline) * s.tickLen) s) (s.judged i) :=
  tallyPen_changes (State.modPen_changes (.refl _ _) (by decide)) (by decide)

theorem State.judged_frame (s : State) (i : PenInst) : ChangesOnly (.fld :: timeParts) s (s.judged i) :=
  ((advanceTo_frame _ s).mono (by decide)).step (s.judged_changes i) (by decide)

theorem State.judged_gt (s : State) (i : PenInst) :
    (s.judged i).bel.gt = (advanceTo ((i.tick + i.deadline) * s.tickLen) s).bel.gt := s.judged_changes i .gt (by decide)

theorem State.judged_devIndex (s : State) (i : PenInst) : (s.judged i).devIndex = s.devIndex :=
  (State.devIndex_congr (s.judged_changes i .glb (by decide))).trans (advanceTo_devIndex ..)

theorem State.judged_pen (pen : s.pen i.key = some i) :
    ∃ b, (s.judged i).pen i.key = some { i with judged := true, tallied := b } :=
  tallyPen_pen (State.pen_changed _ ((State.pen_congr (advanceTo_fld ..) _).trans pen) rfl)

/-- No input that opened and then lacks chunks is a child (R167). -/
def PenInst.KeepsChildren (i : PenInst) (dev : Nat) : Prop :=
  ∀ n ∈ i.lacking dev, i.opens.contains n = true → ∃ r, i.node.inputs[n]? = some (.member r)

/-- Under EXCLUDE the inputs that lack chunks are left out, and their unfinished copies dropped (R166). -/
def PenInst.without (bad : List Nat) (i : PenInst) : PenInst :=
  { i with excl := bad, ins := i.ins.filter (fun e => e.2.good || !bad.contains (e.1 % 128 / 4)) }

theorem foldl_formOut_pen {k : Nat × Nat × Nat} (window : Bool) (l : List Nat) {s : State} {i : PenInst}
    (pen : s.pen k = some i) :
    ∃ outs, (l.foldl (fun s c => formOut k c window s) s).pen k = some { i with outs := outs } := by
  induction l generalizing s i with
  | nil => exact ⟨_, pen⟩
  | cons c l ih =>
    obtain ⟨outs, formed⟩ := formOut_pen c window pen
    obtain ⟨outs', rest⟩ := ih formed
    exact ⟨outs', rest⟩

theorem foldl_formOut_changes {k : Nat × Nat × Nat} (window : Bool) (l : List Nat) (s : State) :
    ChangesOnly [.fld] s (l.foldl (fun s c => formOut k c window s) s) :=
  .foldl _ (.refl _ s) fun _ _ h => formOut_changes h (by decide)

/-- What the exclusion of inputs leaves before the outputs are formed: their verdict stands in the Pen, and the root has the
ranks, or records of them are on their way to it (R166). -/
structure State.Excluded (s t : State) (i : PenInst) (bad : List Nat) : Prop where
  pen   : ∃ j, t.pen i.key = some j ∧ j.excl = bad ∧ j.judged = true
  frame : ChangesOnly [.fld, .swc] (s.judged i) t

/-- A deadline of an OPEN Pen where no child is lost: nothing lacks, or the Pen aborts LATE under WAIT (R165), or goes on
without the inputs that lack chunks under EXCLUDE (R166). -/
theorem penDeadline_cases (pen : s.pen i.key = some i) (opened : i.state = .opened) (open_ : i.judged = false)
    (kept : i.KeepsChildren s.devIndex) :
    (i.lacking s.devIndex = [] ∧ penDeadline i.tag i.stepLo i.node.node s = s.judged i) ∨
    (i.lacking s.devIndex ≠ [] ∧ i.msg.isExclude = false ∧
      ∃ ranks, penDeadline i.tag i.stepLo i.node.node s = openAbort i 1 ranks (s.judged i)) ∨
    (i.lacking s.devIndex ≠ [] ∧ i.msg.isExclude = true ∧ ∃ t, s.Excluded t i (i.lacking s.devIndex) ∧
      penDeadline i.tag i.stepLo i.node.node s =
        (i.own s.devIndex).foldl (fun t c => formOut i.key c false t) t) := by
  generalize out : penDeadline i.tag i.stepLo i.node.node s = u
  unfold penDeadline at out
  extract_lets k at out
  split at out
  next none => exact absurd (pen.symm.trans none) (by simp)
  next i' found =>
  obtain rfl : i = i' := Option.some.inj (pen.symm.trans found)
  rw [if_neg (by simp [opened, open_])] at out
  extract_lets v s1 own bad isChild lost s2 ranks s3 s4 at out
  have own_eq : own = i.own s.devIndex := congrArg i.own (advanceTo_devIndex ..)
  have bad_eq : bad = i.lacking s.devIndex := by
    dsimp only [bad]
    rw [own_eq, PenInst.lacking]
  have none_lost : lost = [] := List.filter_eq_nil_iff.2 fun n hn both => by
    obtain ⟨child, opens⟩ := Bool.and_eq_true_iff.1 both
    obtain ⟨r, member⟩ := kept n (bad_eq ▸ hn) opens
    simp [isChild, member] at child
  obtain ⟨b, judged⟩ := s.judged_pen pen
  rw [none_lost, if_neg (by simp)] at out
  rw [← bad_eq, ← out]
  split
  next all => exact .inl ⟨List.isEmpty_iff.1 all, rfl⟩
  next lacks =>
  replace lacks : bad ≠ [] := fun all => lacks (List.isEmpty_iff.2 all)
  split
  next exclude =>
    refine .inr (.inr ⟨lacks, exclude, s4, ?_, by rw [own_eq]; rfl⟩)
    have left : s3.pen i.key = some (({ i with judged := true, tallied := b } : PenInst).without bad) :=
      State.pen_changed (PenInst.without bad) judged rfl
    have frame : ChangesOnly [.fld, .swc] (s.judged i) s3 := State.modPen_changes (.refl _ _) (by decide)
    dsimp only [s4]
    split
    · exact ⟨⟨_, State.pen_changed _ left rfl, rfl, rfl⟩, State.modPen_changes frame (by decide)⟩
    · split
      · exact ⟨⟨_, left, rfl, rfl⟩, frame⟩
      · exact ⟨⟨_, (State.pen_congr (foldl_keeps (π := State.fld) (fun t r => inject_fld ..) _ _) _).trans left, rfl, rfl⟩,
          .foldl _ frame fun _ _ h => inject_changes h (by decide)⟩
  next wait => exact .inr (.inl ⟨lacks, by simpa using wait, _, rfl⟩)

end Sys2Proof.Machine
end

section
/-! SUPPORT. The recording of a fault reads nothing of the switching core's block (R348-R352). -/

namespace Sys2Proof.Machine

/-- The state with another switching core's block. -/
def State.onSwc (x : Swc) (s : State) : State := { s with swc := x }

variable (x : Swc) (s : State)

theorem signal_onSwc (v : Nat) : signal v (s.onSwc x) = (signal v s).onSwc x := by
  have host : (s.onSwc x).host = s.host := rfl
  unfold signal
  rw [host]
  split_ifs <;> rfl

theorem putFrame_onSwc (b : Nat) (f : BellFrame) (good : Bool) :
    putFrame b f good (s.onSwc x) = (putFrame b f good s).onSwc x := by
  cases f <;> rfl

theorem flushLane_onSwc (b : Nat) : flushLane b (s.onSwc x) = (flushLane b s).onSwc x := by
  unfold flushLane
  refine List.foldl_hom (State.onSwc x) (init := s.modBellPort b _) ?_
  exact fun t e => putFrame_onSwc ..

theorem bellSend_onSwc (b : Nat) (f : BellFrame) (good : Bool) :
    bellSend b f good (s.onSwc x) = (bellSend b f good s).onSwc x := by
  have serves : (s.onSwc x).bellServes b = s.bellServes b := rfl
  have held : (s.onSwc x).heldBack f = s.heldBack f := rfl
  unfold bellSend
  rw [serves, held]
  split_ifs
  · rfl
  · cases f
    case mark m => exact (congrArg _ (putFrame_onSwc ..)).trans (flushLane_onSwc ..)
    all_goals rfl
  · cases f
    case mark m => exact (congrArg _ (putFrame_onSwc ..)).trans (flushLane_onSwc ..)
    all_goals exact putFrame_onSwc ..

theorem bellSendFault_onSwc (f : FaultFrame) : bellSendFault f (s.onSwc x) = (bellSendFault f s).onSwc x := by
  have bel : (s.onSwc x).bel = s.bel := rfl
  unfold bellSendFault
  rw [bel, bellSend_onSwc]
  split_ifs <;> rfl

theorem flushFaults_onSwc : flushFaults (s.onSwc x) = (flushFaults s).onSwc x := by
  have path : (s.onSwc x).faultPath = s.faultPath := rfl
  have bel : (s.onSwc x).bel = s.bel := rfl
  unfold flushFaults
  rw [path, bel, List.foldl_hom (State.onSwc x) (g₁ := fun s f => bellSendFault f s)
    (fun s f => bellSendFault_onSwc x s f)]
  generalize s.bel.faultQ.foldl (fun s f => bellSendFault f s) s = t
  have cleared (f : Bel → Bel) : (t.onSwc x).modBel f = (t.modBel f).onSwc x := rfl
  rw [cleared]
  generalize t.modBel _ = t
  have bel : (t.onSwc x).bel = t.bel := rfl
  have dev : (t.onSwc x).devIndex = t.devIndex := rfl
  dsimp only
  rw [bel, dev, bellSendFault_onSwc]
  split_ifs <;> rfl

theorem queueFault_onSwc (f : FaultFrame) : queueFault f (s.onSwc x) = (queueFault f s).onSwc x := by
  have path : (s.onSwc x).faultPath = s.faultPath := rfl
  have bel : (s.onSwc x).bel = s.bel := rfl
  unfold queueFault
  dsimp only
  rw [path, bel, ← flushFaults_onSwc]
  split_ifs <;> rfl

theorem startPulse_onSwc (cls : Nat) (inj : Bool) : startPulse cls inj (s.onSwc x) = (startPulse cls inj s).onSwc x := by
  have flt : (s.onSwc x).flt = s.flt := rfl
  unfold startPulse
  rw [flt]
  split_ifs <;> rfl

theorem report_onSwc (e : FaultEvent) : report e (s.onSwc x) = (report e s).onSwc x := by
  unfold report
  rw [signal_onSwc]
  generalize signal (3 - e.cls) s = t
  have flt : (t.onSwc x).flt = t.flt := rfl
  dsimp only
  rw [flt]
  refine (congrArg (State.modFlt _) ?_ : _ = State.modFlt _ (State.onSwc x _))
  rw [← startPulse_onSwc]
  split_ifs
  · exact congrArg _ (queueFault_onSwc ..)
  · rfl

theorem enterFatal_onSwc (source : Nat) : enterFatal source (s.onSwc x) = (enterFatal source s).onSwc x := by
  have fatal : (s.onSwc x).isFatal = s.isFatal := rfl
  unfold enterFatal
  rw [fatal]
  split_ifs <;> rfl

theorem recordFault_onSwc (e : FaultEvent) : recordFault e (s.onSwc x) = (recordFault e s).onSwc x := by
  have bel : (s.onSwc x).bel = s.bel := rfl
  have counted (f : Flt → Flt) : (s.onSwc x).modFlt f = (s.modFlt f).onSwc x := rfl
  unfold recordFault
  dsimp only
  rw [bel, counted]
  generalize s.modFlt _ = t
  have attic : (t.onSwc x).attic = t.attic := rfl
  have dev : (t.onSwc x).devIndex = t.devIndex := rfl
  have opened (f : Attic → Attic) : (t.onSwc x).modAttic f = (t.modAttic f).onSwc x := rfl
  rw [attic, dev, opened, opened, report_onSwc]
  split_ifs
  · exact enterFatal_onSwc ..
  · exact enterFatal_onSwc ..
  · rfl
  · rfl

end Sys2Proof.Machine
end

section
/-! SUPPORT. A spent copy in the core's queues: one that an ABORT ends and that has no flit left (R113, R115). At the core's own egress
it is dropped by the first pump of `settleCore`; until then no operation of the core sees it. -/

namespace Sys2Proof.Machine

/-- A copy at the core's own egress that is to end in an ABORT. -/
def spentCopy (id : Nat) (p : Packet) : Waiting := { id := id, p := p, ing := 128, eg := 200, short := some 0 }

/-- Its buffer: closed, without a flit. -/
def spentBuf : Buf := { ing := 128, closed := true }

/-- The core's block with a spent copy before all others. -/
def Swc.withSpent (id : Nat) (p : Packet) (w : Swc) : Swc :=
  { w with voq := spentCopy id p :: w.voq, bufs := w.bufs ++ [(id, spentBuf)] }

/-- `t` is `s` with a spent copy whose ID is above all in use, and above the next `k` that the core will give. -/
structure Spent (id : Nat) (p : Packet) (k : Nat) (s t : State) : Prop where
  same : t = s.onSwc (s.swc.withSpent id p)
  voq  : ∀ w ∈ s.swc.voq, w.id < id
  bufs : ∀ e ∈ s.swc.bufs, e.1 < id
  next : s.swc.nextId + k ≤ id

variable {id k : Nat} {p : Packet} {s t : State}

theorem lookupInjection_swc (q : Packet) (s : State) : (lookupInjection q s).swc = s.swc :=
  lookupInjection_changes (parts := [.glb, .flt, .fatal, .attic, .bel, .rte, .bln, .host, .out]) (.refl _ s) (by decide)
    .swc (by decide)

/-! ## What reads the core's block -/

theorem Tab.mem_put {α : Type} [DecidableEq α] {d v : α} {n : Nat} {t : Tab α} {e : Nat × α} (h : e ∈ Tab.put d t n v) :
    e.1 = n ∨ e ∈ t := by
  unfold Tab.put at h
  split at h
  · exact .inr (Tab.mem_drop h)
  · exact (Tab.mem_add h).imp_left (congrArg Prod.fst)

theorem Tab.drop_append {α : Type} (n : Nat) (a b : Tab α) : Tab.drop n (a ++ b) = Tab.drop n a ++ Tab.drop n b := by
  induction a with
  | nil => rfl
  | cons e a ih => grind [Tab.drop]

/-- Below the last key an addition stays before it. -/
theorem Tab.add_append {α : Type} {n m : Nat} (lt : n < m) (v w : α) (a : Tab α) :
    Tab.add n v (a ++ [(m, w)]) = Tab.add n v a ++ [(m, w)] := by
  induction a with
  | nil => simp [Tab.add, lt]
  | cons e a ih => grind [Tab.add]

theorem Tab.put_append {α : Type} [DecidableEq α] {n m : Nat} (lt : n < m) (d v w : α) (a : Tab α) :
    Tab.put d (a ++ [(m, w)]) n v = Tab.put d a n v ++ [(m, w)] := by
  unfold Tab.put
  split
  · rw [Tab.drop_append]
    simp [Tab.drop, (Nat.ne_of_lt lt).symm]
  · exact Tab.add_append lt ..

theorem Tab.drop_of_lt {α : Type} {n : Nat} {a : Tab α} (lt : ∀ e ∈ a, e.1 < n) : Tab.drop n a = a := by
  induction a with
  | nil => rfl
  | cons e a ih => grind [Tab.drop]

theorem look_withSpent (w : Swc) {n : Nat} (lt : n < id) :
    Tab.look {} (w.withSpent id p).bufs n = Tab.look {} w.bufs n :=
  Tab.look_append_left _ _ _ _ (by simpa [Swc.withSpent] using (Nat.ne_of_lt lt).symm)

/-- Over the copies of another packet nothing is added. -/
theorem copies_withSpent (w : Swc) {n : Nat} (lt : n < id) :
    (w.withSpent id p).voq.filter (·.id == n) = w.voq.filter (·.id == n) := by
  simp [Swc.withSpent, spentCopy, (Nat.ne_of_lt lt).symm]

/-- Both sides of a test that sees no difference. -/
theorem Spent.ite {c : Prop} [Decidable c] {s' t' : State} (h : Spent id p k s t) (h' : Spent id p k s' t') :
    Spent id p k (if c then s else s') (if c then t else t') := by
  split <;> assumption

section
variable (h : Spent id p k s t)
include h

theorem Spent.buf {n : Nat} (lt : n < id) : t.buf n = s.buf n := by
  rw [h.same]
  exact look_withSpent s.swc lt

/-- A step that neither reads nor writes the core's block. -/
theorem Spent.apart {F : State → State} (blind : ∀ x s, F (s.onSwc x) = (F s).onSwc x) (keeps : (F s).swc = s.swc) :
    Spent id p k (F s) (F t) := by
  refine ⟨?_, keeps ▸ h.voq, keeps ▸ h.bufs, keeps ▸ h.next⟩
  rw [h.same, blind, keeps]

/-- A change of the core's block that leaves queues, buffers and IDs. -/
theorem Spent.modSwc {f : Swc → Swc} (beside : ∀ w : Swc, f (w.withSpent id p) = (f w).withSpent id p)
    (voq : ∀ w ∈ (f s.swc).voq, w.id < id) (bufs : ∀ e ∈ (f s.swc).bufs, e.1 < id) {m : Nat}
    (next : (f s.swc).nextId + m ≤ id) : Spent id p m (s.modSwc f) (t.modSwc f) := by
  refine ⟨?_, voq, bufs, next⟩
  rw [h.same]
  exact congrArg (fun x => (s.modSwc f).onSwc x) (beside s.swc)

theorem Spent.modCopies {c : Waiting → Bool} {f : Waiting → Waiting} (other : c (spentCopy id p) = false)
    (ids : ∀ w, c w = true → (f w).id = w.id ∨ (f w).id < id) : Spent id p k (s.modCopies c f) (t.modCopies c f) := by
  refine h.modSwc (fun w => ?_) ?_ h.bufs h.next
  · simp [Swc.withSpent, other]
  · rintro _ hw
    obtain ⟨e, he, rfl⟩ := List.mem_map.1 hw
    have below := h.voq e he
    split
    next hit => rcases ids e hit with same | lt
                · rwa [same]
                · exact lt
    next => exact below

theorem Spent.dropCopies {c : Waiting → Bool} (other : c (spentCopy id p) = false) :
    Spent id p k (s.dropCopies c) (t.dropCopies c) := by
  refine h.modSwc (fun w => ?_) (fun w hw => h.voq w (List.mem_of_mem_filter hw)) h.bufs h.next
  simp [Swc.withSpent, other]

theorem Spent.modSlot (n : Nat) (f : SlotReg → SlotReg) : Spent id p k (s.modSlot n f) (t.modSlot n f) := by
  obtain ⟨rfl, voq, bufs, next⟩ := h
  exact ⟨rfl, voq, bufs, next⟩

theorem Spent.freeFlits (n vc m : Nat) : Spent id p k (freeFlits n vc m s) (freeFlits n vc m t) := by
  obtain ⟨rfl, voq, bufs, next⟩ := h
  exact ⟨rfl, voq, bufs, next⟩

theorem Spent.dropBuf {n : Nat} (lt : n < id) : Spent id p k
    (s.modSwc (fun w => { w with bufs := Tab.drop n w.bufs })) (t.modSwc (fun w => { w with bufs := Tab.drop n w.bufs })) := by
  refine h.modSwc (fun w => ?_) h.voq (fun e he => h.bufs e (Tab.mem_drop he)) h.next
  simp [Swc.withSpent, Tab.drop_append, Tab.drop, (Nat.ne_of_lt lt).symm]

theorem Spent.putBuf {n m : Nat} (b : Buf) (lt : n < id) (next : Nat) (fits : next + m ≤ id) : Spent id p m
    (s.modSwc (fun w => { w with nextId := next, bufs := Tab.put {} w.bufs n b }))
    (t.modSwc (fun w => { w with nextId := next, bufs := Tab.put {} w.bufs n b })) := by
  refine h.modSwc (fun w => ?_) h.voq (fun e he => ?_) fits
  · simp [Swc.withSpent, Tab.put_append lt]
  · exact (Tab.mem_put he).elim (fun same => same ▸ lt) (h.bufs e)

theorem Spent.modBuf {n : Nat} (f : Buf → Buf) (lt : n < id) : Spent id p k (s.modBuf n f) (t.modBuf n f) := by
  refine h.modSwc (fun w => ?_) h.voq (fun e he => ?_) h.next
  · have look := look_withSpent (p := p) w lt
    simp only [Swc.withSpent, Tab.edit] at look ⊢
    rw [look, Tab.put_append lt]
  · exact (Tab.mem_put he).elim (fun same => same ▸ lt) (h.bufs e)

theorem Spent.settleBuf {n : Nat} (lt : n < id) : Spent id p k (settleBuf n s) (settleBuf n t) := by
  have copies : t.swc.voq.filter (·.id == n) = s.swc.voq.filter (·.id == n) := by
    rw [h.same]
    exact copies_withSpent s.swc lt
  have freed (m : Nat) : Spent id p k
      (if (s.buf n).ing < 64 then Machine.freeFlits (s.buf n).ing (s.buf n).vc m s else s)
      (if (s.buf n).ing < 64 then Machine.freeFlits (s.buf n).ing (s.buf n).vc m t else t) :=
    .ite (h.freeFlits ..) h
  unfold Machine.settleBuf
  rw [h.buf lt, copies]
  dsimp only
  refine .ite ?_ ?_
  · exact (freed _).dropBuf lt
  · exact (freed _).modBuf _ lt

/-! ## A copy leaves its ingress -/

theorem Spent.resolveTrack (q : Packet) : Spent id p k (resolveTrack q s) (resolveTrack q t) := by
  have pending : t.swc.pendDlv = s.swc.pendDlv := by rw [h.same]; rfl
  unfold Machine.resolveTrack
  rw [pending]
  obtain ⟨rfl, voq, bufs, next⟩ := h
  dsimp only
  split_ifs <;> exact ⟨rfl, voq, bufs, next⟩

theorem Spent.resolveCopy {w : Waiting} (lt : w.id < id) : Spent id p k (resolveCopy w s) (resolveCopy w t) := by
  have aborted : t.aborted w = s.aborted w := by rw [State.aborted, h.buf lt, State.aborted]
  unfold Machine.resolveCopy
  rw [aborted]
  exact .ite h (h.resolveTrack _)

theorem Spent.discardCopy {w : Waiting} (lt : w.id < id) : Spent id p k (discardCopy w s) (discardCopy w t) :=
  ((h.resolveCopy lt).dropCopies (by simp [Waiting.is, spentCopy, (Nat.ne_of_lt lt).symm])).settleBuf lt

theorem Spent.placeCopy {w : Waiting} (eg vc : Nat) (lt : w.id < id) :
    Spent id p k (placeCopy w eg vc s) (placeCopy w eg vc t) :=
  h.modCopies (by simp [Waiting.is, spentCopy, (Nat.ne_of_lt lt).symm]) fun _ _ => .inl rfl

theorem Spent.lookupInjection (q : Packet) : Spent id p k (lookupInjection q s) (lookupInjection q t) := by
  have blind (x : Swc) (s : State) : Machine.lookupInjection q (s.onSwc x) = (Machine.lookupInjection q s).onSwc x := by
    have armed : (s.onSwc x).armedFor = s.armedFor := rfl
    have flt : (s.onSwc x).flt = s.flt := rfl
    have used : useInjection false (s.onSwc x) = (useInjection false s).onSwc x := rfl
    unfold Machine.lookupInjection
    dsimp only
    rw [armed, flt, used, recordFault_onSwc, recordFault_onSwc]
    split_ifs <;> rfl
  exact h.apart blind (lookupInjection_swc ..)

end

end Sys2Proof.Machine
end

section
/-! SUPPORT. No copy is routed or released otherwise for a spent one (R125, R132, R133). -/

namespace Sys2Proof.Machine

variable {id k : Nat} {p : Packet} {s t : State}

section
variable (h : Spent id p k s t)
include h

theorem Spent.voq_eq : t.swc.voq = spentCopy id p :: s.swc.voq := by
  rw [h.same]
  rfl

theorem Spent.own_buf : t.buf id = spentBuf := by
  rw [h.same]
  exact (Tab.look_append _ _ _ _ fun e he => (Nat.ne_of_lt (h.bufs e he))).trans (if_pos rfl)

theorem Spent.depth : t.depth = s.depth := by
  funext n vc
  have flits (d : Nat) (w : Waiting) (hw : w ∈ s.swc.voq.filter (fun w => w.eg == n && w.vc == vc && !w.held)) :
      d + ((Tab.look {} t.swc.bufs w.id).flits.length - w.sent) = d + ((Tab.look {} s.swc.bufs w.id).flits.length - w.sent) :=
    congrArg (fun b : Buf => d + (b.flits.length - w.sent)) (h.buf (h.voq w (List.mem_of_mem_filter hw)))
  have own : (Tab.look {} t.swc.bufs (spentCopy id p).id).flits.length - (spentCopy id p).sent = 0 :=
    congrArg (fun b : Buf => b.flits.length - 0) h.own_buf
  have links : t.link n = s.link n := by rw [h.same]; rfl
  unfold State.depth
  rw [h.voq_eq, links, List.filter_cons, ← List.foldl_ext _ _ _ flits]
  split
  · rw [List.foldl_cons, own, Nat.add_zero]
  · rfl

theorem Spent.choose (ing inVc : Nat) (q : Packet) : t.choose ing inVc q = s.choose ing inVc q := by
  have deep : t.leastDeep = s.leastDeep := by
    have tie : t.swc.tie = s.swc.tie := by rw [h.same]; rfl
    unfold State.leastDeep
    rw [h.depth, tie]
  obtain ⟨rfl, -, -, -⟩ := h
  unfold State.choose
  rw [deep]
  rfl

theorem Spent.routeCopy {w : Waiting} (lt : w.id < id) : Spent id p k (routeCopy w s) (routeCopy w t) := by
  have looked := h.lookupInjection w.p
  unfold Machine.routeCopy
  dsimp only
  generalize Machine.lookupInjection w.p s = s at looked ⊢
  generalize Machine.lookupInjection w.p t = t at looked ⊢
  have bad : t.entryBad w.p = s.entryBad w.p := by rw [looked.same]; rfl
  have shut (n : Nat) : t.fencedSlot n = s.fencedSlot n := by rw [looked.same]; rfl
  rw [bad, looked.choose]
  refine .ite ((looked.modSlot ..).discardCopy lt) ?_
  split
  · exact (looked.modSlot ..).discardCopy lt
  · exact (looked.modSlot ..).discardCopy lt
  · rw [shut]
    exact .ite ((looked.modSlot ..).discardCopy lt) (looked.placeCopy _ _ lt)
  next n v detour _ =>
    have placed := looked.placeCopy n v lt
    generalize Machine.placeCopy w n v s = s at placed ⊢
    generalize Machine.placeCopy w n v t = t at placed ⊢
    have ordered : t.orderedClass w.p.cls.toNat = s.orderedClass w.p.cls.toNat := by rw [placed.same]; rfl
    rw [ordered]
    have tied : Spent id p k
        (if s.orderedClass w.p.cls.toNat then s
          else s.modSwc (fun x => { x with tie := Tab.put 0 x.tie w.ing ((n + 1) % 32) }))
        (if s.orderedClass w.p.cls.toNat then t
          else t.modSwc (fun x => { x with tie := Tab.put 0 x.tie w.ing ((n + 1) % 32) })) := by
      refine .ite placed (placed.modSwc (fun _ => ?_) placed.voq placed.bufs placed.next)
      rfl
    exact .ite (tied.apart (fun _ _ => rfl) rfl) tied

theorem Spent.releaseCopy {w : Waiting} (lt : w.id < id) : Spent id p k (releaseCopy w s) (releaseCopy w t) := by
  have replaced (w' : Waiting) (same : w'.id = w.id) :
      Spent id p k (s.modCopies (·.is w.id w.eg) (fun _ => w')) (t.modCopies (·.is w.id w.eg) (fun _ => w')) :=
    h.modCopies (by simp [Waiting.is, spentCopy, (Nat.ne_of_lt lt).symm]) fun _ _ => .inr (same ▸ lt)
  have rte : t.rte = s.rte := by rw [h.same]; rfl
  have out : t.outbound w.p = s.outbound w.p := by rw [h.same]; rfl
  have target : t.targetOf w.p.dst.toNat = s.targetOf w.p.dst.toNat := by rw [h.same]; rfl
  have admitted : t.swc.admitted = s.swc.admitted := by rw [h.same]; rfl
  have counted (n : Nat) {s t : State} (h : Spent id p k s t) : Spent id p k
      (s.modSwc (fun x => { x with admitted := Tab.edit 0 x.admitted n (· + 1), outstand := Tab.edit 0 x.outstand n (· + 1) }))
      (t.modSwc (fun x => { x with admitted := Tab.edit 0 x.admitted n (· + 1), outstand := Tab.edit 0 x.outstand n (· + 1) })) := by
    refine h.modSwc (fun _ => ?_) h.voq h.bufs h.next
    rfl
  unfold Machine.releaseCopy
  dsimp only
  rw [rte, out, target, admitted]
  generalize slotClass w.ing w.p.cls.toNat = n
  refine .ite ?_ ?_
  · refine Spent.routeCopy (counted n (replaced _ ?_)) lt
    rfl
  · refine Spent.routeCopy (replaced _ ?_) lt
    rfl

theorem Spent.mayGo {w : Waiting} (lt : w.id < id) : t.mayGo w = s.mayGo w := by
  have before : t.heldBefore w = s.heldBefore w := by
    unfold State.heldBefore
    rw [h.voq_eq, List.takeWhile_cons_of_pos (by simp [Waiting.is, spentCopy, (Nat.ne_of_lt lt).symm])]
    rfl
  have waiting : t.waitingFor = s.waitingFor := by rw [h.same]; rfl
  have out : t.outbound w.p = s.outbound w.p := by rw [h.same]; rfl
  unfold State.mayGo
  rw [before, waiting, out]

end

theorem Spent.releaseHeld (n : Nat) (h : Spent id p k s t) : Spent id p k (releaseHeld n s) (releaseHeld n t) := by
  induction n generalizing s t with
  | zero => exact h
  | succ n ih =>
    have found : t.swc.voq.find? (fun w => w.held && t.mayGo w) = s.swc.voq.find? (fun w => w.held && s.mayGo w) := by
      rw [h.voq_eq, List.find?_cons_of_neg (by simp [spentCopy])]
      exact List.find?_congr fun w hw => congrArg (w.held && ·) (h.mayGo (h.voq w hw))
    unfold Machine.releaseHeld
    rw [found]
    split
    next w first => exact ih (h.releaseCopy (h.voq w (List.mem_of_find?_eq_some first)))
    next => exact h

/-! ## Every release takes one copy from those that are held -/

/-- How many copies are held. -/
def State.heldCount (s : State) : Nat := s.swc.voq.countP (·.held)

theorem heldCount_placeCopy_le (w : Waiting) (eg vc : Nat) (s : State) : (placeCopy w eg vc s).heldCount ≤ s.heldCount := by
  refine (List.countP_map ..).trans_le (List.countP_mono_left fun e _ => ?_)
  dsimp only [Function.comp]
  split <;> simp

theorem heldCount_discardCopy_le (w : Waiting) (s : State) : (discardCopy w s).heldCount ≤ s.heldCount := by
  rw [State.heldCount, discardCopy_voq]
  exact List.Sublist.countP_le List.filter_sublist

theorem heldCount_routeCopy_le (w : Waiting) (s : State) : (routeCopy w s).heldCount ≤ s.heldCount := by
  have looked : (lookupInjection w.p s).heldCount = s.heldCount := by rw [State.heldCount, lookupInjection_swc]; rfl
  rw [← looked]
  unfold routeCopy
  dsimp only
  generalize lookupInjection w.p s = s
  split_ifs
  · exact heldCount_discardCopy_le ..
  · split
    · exact heldCount_discardCopy_le ..
    · exact heldCount_discardCopy_le ..
    · split_ifs
      · exact heldCount_discardCopy_le ..
      · exact heldCount_placeCopy_le ..
    · split_ifs <;> exact heldCount_placeCopy_le ..

/-- A held copy that is replaced by one that is not. -/
theorem heldCount_replaced_lt {w w' : Waiting} (free : w'.held = false) (mem : w ∈ s.swc.voq) (held : w.held = true) :
    (s.modCopies (·.is w.id w.eg) (fun _ => w')).heldCount < s.heldCount := by
  unfold State.heldCount State.modCopies State.modSwc
  rw [List.countP_map]
  obtain ⟨a, b, split⟩ := List.append_of_mem mem
  have fewer (l : List Waiting) : l.countP ((·.held) ∘ fun e => if e.is w.id w.eg then w' else e) ≤ l.countP (·.held) := by
    refine List.countP_mono_left fun e _ => ?_
    dsimp only [Function.comp]
    split <;> simp [free]
  have gone := fewer a
  have left := fewer b
  simp only [split, List.countP_append, List.countP_cons, Function.comp, Waiting.is, beq_self_eq_true, Bool.and_self,
    if_true, free, held] at gone left ⊢
  simp only [Bool.false_eq_true, if_false]
  omega

theorem heldCount_releaseCopy_lt {w : Waiting} (mem : w ∈ s.swc.voq) (held : w.held = true) :
    (releaseCopy w s).heldCount < s.heldCount := by
  unfold releaseCopy
  dsimp only
  split_ifs
  all_goals refine (heldCount_routeCopy_le ..).trans_lt ?_
  · exact heldCount_replaced_lt (s := s) rfl mem held
  · exact heldCount_replaced_lt rfl mem held

/-- With a turn for each held copy one turn more changes nothing. -/
theorem releaseHeld_succ {n : Nat} (enough : s.heldCount ≤ n) : releaseHeld (n + 1) s = releaseHeld n s := by
  induction n generalizing s with
  | zero =>
    have none : s.swc.voq.find? (fun w => w.held && s.mayGo w) = none := by
      have free := List.countP_eq_zero.1 (Nat.le_zero.1 enough)
      exact List.find?_eq_none.2 fun w hw => by simp [free w hw]
    unfold releaseHeld
    rw [none]
  | succ n ih =>
    rw [releaseHeld, releaseHeld]
    split
    next w first =>
      have meets := List.find?_some first
      obtain ⟨held, -⟩ := Bool.and_eq_true_iff.1 meets
      have lt := heldCount_releaseCopy_lt (List.mem_of_find?_eq_some first) held
      exact ih (by omega)
    next => rfl

/-- The turns that `settleCore` gives are enough, with the spent copy or without. -/
theorem Spent.releaseAll (h : Spent id p k s t) :
    Spent id p k (Machine.releaseHeld (s.swc.voq.length + 1) s) (Machine.releaseHeld (t.swc.voq.length + 1) t) := by
  rw [h.voq_eq, List.length_cons, ← releaseHeld_succ (s := s) (Nat.le_succ_of_le List.countP_le_length)]
  exact h.releaseHeld _

end Sys2Proof.Machine
end

section
/-! SUPPORT. The first pump of `settleCore` drops a spent copy, and nothing tells that it was there (R111, R134). -/

namespace Sys2Proof.Machine

variable {id k : Nat} {p : Packet} {s t : State}

theorem Spent.foldl {α : Type} {F : State → α → State} {l : List α} (h : Spent id p k s t)
    (turn : ∀ w ∈ l, ∀ {s t}, Spent id p k s t → Spent id p k (F s w) (F t w)) :
    Spent id p k (l.foldl F s) (l.foldl F t) := by
  induction l generalizing s t with
  | nil => exact h
  | cons w l ih =>
    exact ih (turn w (List.mem_cons_self ..) h) fun v hv => turn v (List.mem_cons_of_mem _ hv)

/-! ## Full acknowledgements leave -/

theorem Spent.less (h : Spent id p (k + 1) s t) : Spent id p k s t :=
  ⟨h.same, h.voq, h.bufs, Nat.le_of_succ_le h.next⟩

theorem Spent.enterInside {slot : Nat} {q : Packet} (h : Spent id p (k + 1) s t) (single : q.cls.toNat ≠ 2) :
    Spent id p k (enterInside slot q s) (enterInside slot q t) := by
  have lt : s.swc.nextId < id := by have := h.next; omega
  have fits : s.swc.nextId + 1 + k ≤ id := by have := h.next; omega
  have next : t.swc.nextId = s.swc.nextId := by rw [h.same]; rfl
  have stamped : stampPacket (sealPacket q q.payload) t = stampPacket (sealPacket q q.payload) s := by rw [h.same]; rfl
  have gt : t.bel.gt = s.bel.gt := by rw [h.same]; rfl
  have one : (sealPacket q q.payload).cls.toNat ≠ 2 := single
  unfold Machine.enterInside
  dsimp only
  rw [if_neg one, if_neg one, next, stamped, gt]
  have buffered := h.putBuf { ing := slot, vc := (sealPacket q q.payload).cls.toNat
                              need := flitCount (sealPacket q q.payload).len.toNat
                              flits := packetFlits (sealPacket q q.payload), closed := true } lt _ fits
  refine buffered.modSwc (fun _ => ?_) (fun w hw => ?_) buffered.bufs buffered.next
  · rfl
  · exact (List.mem_append.1 hw).elim (buffered.voq w) fun last => by rwa [List.mem_singleton.1 last]

theorem Spent.sendDlvAck (dev : Nat) (h : Spent id p (k + 1) s t) :
    Spent id p k (sendDlvAck dev s) (sendDlvAck dev t) := by
  have pending : t.swc.pendDlv = s.swc.pendDlv := by rw [h.same]; rfl
  have index : t.devIndex = s.devIndex := by rw [h.same]; rfl
  have key : t.topology = s.topology := by rw [h.same]; rfl
  unfold Machine.sendDlvAck
  dsimp only
  rw [pending, index, key]
  generalize (s.swc.pendDlv.filter (·.device == dev)).take 16 = es
  have taken : Spent id p (k + 1)
      (s.modSwc (fun w => { w with pendDlv := w.pendDlv.filter (fun e => !es.contains e) }))
      (t.modSwc (fun w => { w with pendDlv := w.pendDlv.filter (fun e => !es.contains e) })) := by
    refine h.modSwc (fun _ => ?_) h.voq h.bufs h.next
    rfl
  refine .ite h.less ?_
  generalize s.modSwc _ = s at taken ⊢
  generalize t.modSwc _ = t at taken ⊢
  have waiting : t.swc.waitIn = s.swc.waitIn := by rw [taken.same]; rfl
  unfold inject
  rw [waiting]
  refine .ite (taken.enterInside (show (0 : BitVec 3).toNat ≠ 2 by decide)) ?_
  refine taken.less.modSwc (fun _ => ?_) taken.voq taken.bufs taken.less.next
  rfl

theorem Spent.sendFullAcks (h : Spent id p s.swc.pendDlv.length s t) : Spent id p 0 (sendFullAcks s) (sendFullAcks t) := by
  have pending : t.swc.pendDlv = s.swc.pendDlv := by rw [h.same]; rfl
  unfold Machine.sendFullAcks
  rw [pending]
  generalize listed : s.swc.pendDlv.map (·.device) = l
  replace h : Spent id p l.length s t := by rwa [← listed, List.length_map]
  clear listed pending
  induction l generalizing s t with
  | nil => exact h
  | cons d l ih =>
    have pending : t.swc.pendDlv = s.swc.pendDlv := by rw [h.same]; rfl
    rw [List.foldl_cons, List.foldl_cons, pending]
    exact ih (.ite (h.sendDlvAck d) h.less)

/-! ## Copies cross and start -/

section
variable (h : Spent id p k s t)
include h

theorem Spent.crossCopy {w : Waiting} (lt : w.id < id) : Spent id p k (crossCopy w s) (crossCopy w t) := by
  have links : t.link = s.link := by rw [h.same]; rfl
  unfold Machine.crossCopy
  rw [links, h.buf lt]
  split
  next => exact h
  next here =>
    have inside : w.eg < 128 := by simp at here; omega
    have egress : t.atEgress w.eg = s.atEgress w.eg := by
      unfold State.atEgress
      rw [h.voq_eq, List.filter_cons_of_neg (by simp [spentCopy]; omega)]
    dsimp only
    rw [egress]
    refine .ite h (Spent.settleBuf (h.modCopies ?_ ?_) lt)
    · simp [Waiting.is, spentCopy, (Nat.ne_of_lt lt).symm]
    · exact fun _ _ => .inl rfl

theorem Spent.beginCopy {w : Waiting} (lt : w.id < id) : Spent id p k (beginCopy w s) (beginCopy w t) := by
  have closed : t.closeAt = s.closeAt := by rw [h.same]; rfl
  have paid : Spent id p k (payShaper w s) (payShaper w t) := by
    refine h.apart (fun x s => ?_) (payShaper_swc ..)
    unfold payShaper
    split <;> rfl
  unfold Machine.beginCopy
  rw [closed]
  refine paid.modCopies ?_ fun _ _ => .inl rfl
  simp [Waiting.is, spentCopy, (Nat.ne_of_lt lt).symm]

theorem Spent.meets (w : Waiting) : t.meets w = s.meets w := by
  have free : t.vcFree = s.vcFree := by
    funext eg vc
    unfold State.vcFree
    rw [h.voq_eq]
    rfl
  have overrun : t.overrunShuts = s.overrunShuts := by
    funext port v
    unfold State.overrunShuts
    dsimp only
    rw [h.voq_eq, List.any_cons, h.same]
    simp only [spentCopy, Bool.and_false, Bool.false_or]
    rfl
  have gate : t.gateFits = s.gateFits := by
    funext port v q
    unfold State.gateFits
    rw [overrun, h.same]
    rfl
  unfold State.meets
  rw [free, gate, h.same]
  rfl

theorem Spent.autoStart : Spent id p k (autoStart s) (autoStart t) := by
  unfold Machine.autoStart
  rw [h.voq_eq, List.foldl_cons, if_neg (by simp [spentCopy])]
  refine h.foldl fun w hw => ?_
  have lt := h.voq w hw
  clear hw h
  intro s t h
  have shut : t.fencedSlot w.eg = s.fencedSlot w.eg := by rw [h.same]; rfl
  rw [shut, h.meets]
  exact .ite (h.beginCopy lt) h

end

/-! ## The pump -/

/-- Without its copy the spent buffer goes too. -/
theorem Spent.settleBuf_own (h : Spent id p k s t) :
    Machine.settleBuf id (s.onSwc { s.swc with bufs := s.swc.bufs ++ [(id, spentBuf)] }) = s := by
  have buf : (s.onSwc { s.swc with bufs := s.swc.bufs ++ [(id, spentBuf)] }).buf id = spentBuf :=
    (Tab.look_append _ _ _ _ fun e he => Nat.ne_of_lt (h.bufs e he)).trans (if_pos rfl)
  have copies : s.swc.voq.filter (·.id == id) = [] :=
    List.filter_eq_nil_iff.2 fun w hw => by simp [Nat.ne_of_lt (h.voq w hw)]
  have bufs : Tab.drop id (s.swc.bufs ++ [(id, spentBuf)]) = s.swc.bufs := by
    rw [Tab.drop_append, Tab.drop_of_lt h.bufs]
    simp [Tab.drop]
  have queues (x : Swc) : (s.onSwc x).swc = x := rfl
  unfold Machine.settleBuf
  rw [buf]
  dsimp only
  rw [queues, copies, if_pos (by decide), if_neg (by decide)]
  simp [State.onSwc, State.modSwc, bufs]

theorem Spent.discardCopy_own (h : Spent id p k s t) : Machine.discardCopy (spentCopy id p) t = s := by
  have others : s.swc.voq.filter (fun e => !e.is id 200) = s.swc.voq :=
    List.filter_eq_self.2 fun w hw => by simp [Waiting.is, Nat.ne_of_lt (h.voq w hw)]
  have own : (spentCopy id p).is id 200 = true := by simp [Waiting.is, spentCopy]
  have ended : Machine.resolveCopy (spentCopy id p) t = t := if_pos rfl
  have dropped : t.dropCopies (·.is id 200) = s.onSwc { s.swc with bufs := s.swc.bufs ++ [(id, spentBuf)] } := by
    rw [h.same]
    simp [State.dropCopies, State.onSwc, State.modSwc, Swc.withSpent, own, others]
  unfold Machine.discardCopy
  rw [ended]
  exact (congrArg _ dropped).trans h.settleBuf_own

/-- The core drops the spent copy at its turn, and no packet arrives. -/
theorem Spent.pumpCopy_own (h : Spent id p k s t) : pumpCopy (spentCopy id p) t = s := by
  have buf : t.buf (spentCopy id p).id = spentBuf := h.own_buf
  have eg : (spentCopy id p).eg = 200 := rfl
  have ended : (spentBuf.closed || (spentCopy id p).short.isSome) = true := rfl
  unfold pumpCopy
  dsimp only
  rw [eg, if_neg (by decide), buf, if_pos ended, if_neg (by decide)]
  unfold arriveInside
  dsimp only
  rw [buf, h.discardCopy_own]
  rfl

theorem Spent.pump (h : Spent id p k s t) : Machine.pump t = Machine.pump s := by
  have crossed : Spent id p k (s.swc.voq.foldl (fun s w => Machine.crossCopy w s) s)
      (t.swc.voq.foldl (fun s w => Machine.crossCopy w s) t) := by
    have own : Machine.crossCopy (spentCopy id p) t = t := if_pos rfl
    rw [h.voq_eq, List.foldl_cons, own]
    exact h.foldl fun w hw _ _ h' => h'.crossCopy (h.voq w hw)
  have begun := crossed.autoStart
  unfold Machine.pump
  dsimp only
  generalize Machine.autoStart (s.swc.voq.foldl _ s) = s at begun ⊢
  generalize Machine.autoStart (t.swc.voq.foldl _ t) = t at begun ⊢
  rw [begun.voq_eq, List.foldl_cons, if_pos (by rfl), begun.pumpCopy_own]

/-- With an ID above all that the core still gives, `settleCore` goes as if the spent copy had never been. -/
theorem Spent.settleCore (h : Spent id p k s t)
    (above : (Machine.releaseHeld (s.swc.voq.length + 1) s).swc.pendDlv.length ≤ k) :
    Machine.settleCore t = Machine.settleCore s := by
  have released := h.releaseAll
  have bounded : Spent id p _ _ _ :=
    ⟨released.same, released.voq, released.bufs, (Nat.add_le_add_left above _).trans released.next⟩
  have sent := bounded.sendFullAcks.releaseAll
  unfold Machine.settleCore
  dsimp only
  rw [sent.pump]

end Sys2Proof.Machine
end

section
/-! SUPPORT. The RESEND of a child's chunk (R112, R162): its words, and a state with it in the core's queues that settles alike. -/

namespace Sys2Proof.Machine

/-- The RESEND itself. -/
def State.resendOf (s : State) (i : PenInst) (id c part : Nat) : Packet :=
  let d := match (treeOf i.policy i.arrival).find? (·.node == id) with | some n => deviceOf n c | none => 0
  { s.foldHeader (foldEid d) 0x14 1 i.tag id c 0 part true i.stepLo with payload := List.replicate 12 0 }

theorem sendResend_eq (i : PenInst) (id c part : Nat) (s : State) :
    sendResend i id c part s = inject (s.penSlot i.tag i.isFp64) (s.resendOf i id c part) s := rfl

/-- What its word 1 says (Table 6-3). -/
theorem State.resendOf_word (s : State) (i : PenInst) (id c part : Nat) (low : i.stepLo < 256) (few : part < 4) {q : Packet}
    (word : q.tsw1 = (s.resendOf i id c part).tsw1) : penChunk q = c % 1024 ∧ penNode q = true := by
  have value : q.tsw1.toNat = (c * 4194304 + 0 * 32768 + part * 8192 + 1 * 4096 + i.stepLo * 16) % 4294967296 := by
    rw [word]
    exact BitVec.toNat_ofNat ..
  rw [penChunk, penNode, bit, value, Nat.shiftRight_eq_div_pow, Nat.testBit_eq_decide_div_mod_eq]
  refine ⟨by omega, decide_eq_true (by omega)⟩

theorem Spent.intro (p : Packet) (s : State) (k : Nat) : ∃ id, Spent id p k s (s.onSwc (s.swc.withSpent id p)) := by
  let id := (s.swc.voq.map (·.id)).sum + (s.swc.bufs.map (·.1)).sum + s.swc.nextId + k + 1
  refine ⟨id, rfl, fun w hw => ?_, fun e he => ?_, by omega⟩
  · have := List.le_sum_of_mem (List.mem_map_of_mem (f := (·.id)) hw)
    omega
  · have := List.le_sum_of_mem (List.mem_map_of_mem (f := (·.1)) he)
    omega

/-- A RESEND that finds room is the last of the queues. One that waits in its unit (R112) is in none: there the state `u` is one with a
spent copy of it, which settles to the same by `Spent.settleCore`, though the model does not pass through it. -/
theorem resend_queued (i : PenInst) (id c part : Nat) (s : State) (low : i.stepLo < 256) (few : part < 4) :
    ∃ u, settleCore (sendResend i id c part s) = settleCore u ∧ ChangesOnly [.swc] s u ∧
      ∃ w ∈ u.swc.voq, w.p.ptype = 0x14 ∧ penChunk w.p = c % 1024 ∧ penNode w.p = true := by
  have sent := sendResend_changes (i := i) (id := id) (c := c) (part := part) (.refl _ s) (List.Subset.refl [Part.swc])
  have word (q : Packet) := s.resendOf_word i id c part low few (q := q)
  by_cases enters : (s.hasRoom (s.penSlot i.tag i.isFp64) (s.resendOf i id c part) &&
      !s.swc.waitIn.any (·.1 == s.penSlot i.tag i.isFp64)) = true
  · have queues := (enterInside_queues (s := s) (slot := s.penSlot i.tag i.isFp64) (p := s.resendOf i id c part)
      (show (1 : BitVec 3).toNat ≠ 2 by decide)).1
    have entered := (sendResend_eq i id c part s).trans (if_pos enters)
    refine ⟨_, rfl, sent, s.entering (s.penSlot i.tag i.isFp64) (s.resendOf i id c part), ?_, rfl, word _ rfl⟩
    rw [entered, queues]
    exact List.mem_append_right _ (List.mem_singleton_self _)
  · obtain ⟨n, spent⟩ := Spent.intro (s.resendOf i id c part) (sendResend i id c part s)
      (releaseHeld ((sendResend i id c part s).swc.voq.length + 1) (sendResend i id c part s)).swc.pendDlv.length
    exact ⟨_, (spent.settleCore le_rfl).symm, sent.set_swc _ (by decide), spentCopy n _, List.mem_cons_self .., rfl, word _ rfl⟩

end Sys2Proof.Machine
end

section
/-! SUPPORT. The other deadlines of a Pen (R145, R160, R162, R165) and TALLY_CLEAR (R172). -/

namespace Sys2Proof.Machine

variable {s : State} {i : PenInst}

/-- An abort of status LATE ends the Pen where this device is the root's home, and leaves it ABORTED elsewhere. -/
theorem openAbort_late_leaves {j : PenInst} (ranks : List Nat) (alive : i.state ≠ .aborted) (pen : s.pen i.key = some j) :
    if i.isRoot = true ∧ i.node.devices.head? = some s.devIndex then
      ∀ j ∈ (openAbort i 1 ranks s).fld.insts, j.key ≠ i.key
    else ∃ j, (openAbort i 1 ranks s).pen i.key = some j ∧ j.state = .aborted := by
  rw [openAbort, if_neg alive]
  extract_lets s1
  have fld := reportAbort_fld i.tag i.stepLo i.node i.arrival 1 ranks s1
  split
  next root =>
    replace fld := fld.trans (if_pos root)
    rw [fld]
    exact fun j hj => by simpa [PenInst.key] using (List.mem_filter.1 hj).2
  next other =>
    replace fld := fld.trans (if_neg other)
    exact ⟨_, (State.pen_congr fld _).trans (State.pen_changed _ pen rfl), rfl⟩

/-- The arrival window of a chunk ends and the next one starts (R145). -/
theorem arrivalExpire_of_open {tag step node c g : Nat} (pen : s.pen (tag, step, node) = some i) (opened : i.state = .opened)
    (window : Tab.look none i.windows c = some g) (unformed : i.formed c = false) :
    arrivalExpire tag step node c s = formOut (tag, step, node) c true
      ((advanceTo (g + i.policy.arrivalWindow) s).modPen (tag, step, node) (fun x => { x with
        windows := Tab.put none x.windows c (some (advanceTo (g + i.policy.arrivalWindow) s).bel.gt) })) := by
  simp [arrivalExpire, pen, window, opened, unformed]

/-- The time of a copy's first packet is forgotten. -/
def PenInst.untimed (k : Nat) (i : PenInst) : PenInst :=
  { i with ins := Tab.edit {} i.ins k (fun y => { y with firstGt := none }) }

/-- The timer of a child's chunk has run out (R162). -/
def State.timedOut (s : State) (i : PenInst) (k : Nat) : State :=
  (advanceTo ((i.copy k).firstGt.getD 0 + s.tickLen) s).modPen i.key (PenInst.untimed k)

theorem State.timedOut_pen (pen : s.pen i.key = some i) (k : Nat) : (s.timedOut i k).pen i.key = some (i.untimed k) :=
  State.pen_changed _ ((State.pen_congr (advanceTo_fld ..) _).trans pen) rfl

theorem State.timedOut_frame (s : State) (i : PenInst) (k : Nat) : ChangesOnly (.fld :: timeParts) s (s.timedOut i k) :=
  State.modPen_changes ((advanceTo_frame _ s).mono (by decide)) (by decide)

theorem chunkIncomplete_of_child {tag step node c n id part : Nat} (pen : s.pen (tag, step, node) = some i)
    (opened : i.state = .opened) (unformed : i.formed c = false) (child : i.node.inputs[n]? = some (.child id))
    (first : (List.range 4).find? (fun p => (i.copy (inKey c n p)).firstGt.isSome) = some part) :
    chunkIncomplete tag step node c n s = sendResend i id c part (s.timedOut i (inKey c n part)) := by
  have few : part < 4 := by simpa using List.mem_of_find?_eq_some first
  simp only [chunkIncomplete, pen, child, first]
  exact if_neg (by simp [opened, unformed]; omega)

/-- PEN_ABORTED_EXPIRE releases the Pen. -/
theorem penAbortedExpire_of_aborted {tag step node : Nat} (pen : s.pen (tag, step, node) = some i)
    (aborted : i.state = .aborted) :
    penAbortedExpire tag step node s = (advanceTo ((i.abortTick + 64) * s.tickLen) s).dropPen (tag, step, node) := by
  simp [penAbortedExpire, pen, aborted, State.key_of_pen pen]

/-- Members that have not acknowledged every chunk of this device. -/
def PenInst.silent (i : PenInst) (dev : Nat) : List Nat :=
  (List.range i.policy.members.length).filter (fun r => !(i.own dev).all (fun c => (Tab.look 0 i.acks r).testBit c))

/-- PEN_ACK_DEADLINE counts them, records 0x0406, which is no FT, and releases the Pen (R160). -/
theorem penAckDeadline_of_final {tag step : Nat}
    (final : s.fld.insts.find? (fun i => i.tag == tag && i.stepLo == step && i.isRoot && i.state == .final) = some i) :
    let t := penAckDeadline tag step s
    t.fld = { s.fld with ackTo := satAdd 0xFFFFFFFF s.fld.ackTo (i.silent s.devIndex).length
                         insts := s.fld.insts.filter (fun j => j.key != i.key) } ∧
    (∃ r ∈ t.attic.openRecs, r.source = 0x0406) ∧
    ChangesOnly (.fld :: timeParts ++ [.flt, .attic, .bel, .bln, .host, .out]) s t := by
  generalize out : penAckDeadline tag step s = t
  intro u
  unfold penAckDeadline at out
  simp -zeta only [final] at out
  extract_lets v all miss at out
  have missing : miss = (i.silent s.devIndex).length :=
    congrArg (fun d => (i.silent d).length) (advanceTo_devIndex ..)
  subst out
  have noted := recordFault_of_not_ft (e := {
    source := 0x0406, unit := v.penSlot tag i.isFp64, cls := 1, access := 0x0B, addr := tag, info := tag }) (by simp)
    (v.modFld (fun l => { l with ackTo := satAdd 0xFFFFFFFF l.ackTo miss }))
  refine ⟨?_, ?_, ?_⟩
  · simp only [u, State.dropPen, State.modFld_fld, recordFault_fld, missing, v, advanceTo_fld]
  · obtain ⟨r, hr, source, -⟩ := noted.opened
    exact ⟨r, hr, source⟩
  · refine State.dropPen_changes (.step ?_ noted.frame (by decide)) (by decide)
    exact ((advanceTo_frame _ s).mono (by decide)).modFld _ (by decide)

theorem exec_tallyClear (stage : 4 ≤ s.glb.stage) (live : s.flt.fatal = none) (free : s.flt.rstWaiting = none) :
    exec .tallyClear s = .next (tallyClear s) := by
  simp [exec, execTallyClear, onBlock, Nat.not_lt.2 stage, live, free]

end Sys2Proof.Machine
end

section
open Sys2Proof Sys2Proof.Machine

/-- Settles O21: each command goes on at the GT of its deadline, with the lemma of its one operation; `penDeadline_cases` says what a
verdict is, and `openAbort_late_leaves` what WAIT makes of it. The RESEND is queued where its slot has room; where it waits in its unit
(R112), the statement's state `u` is one that `resend_queued` builds: it settles to the same, but the model does not pass through it. -/
theorem penDeadlinesJudge : Obligations.PenDeadlinesJudge := by
  unfold Obligations.PenDeadlinesJudge
  refine ⟨fun tag step node i s live pen => ?_, fun tag step i s live final => ?_, fun s stage live free => ?_⟩
  · intro k
    obtain ⟨rfl, rfl, rfl⟩ : i.tag = tag ∧ i.stepLo = step ∧ i.node.node = node := by
      simpa [PenInst.key] using State.key_of_pen pen
    refine ⟨fun c g opened window unformed => ?_, fun c n id part low opened unformed child first => ?_,
      fun opened open_ => ?_, fun aborted => ?_⟩
    · intro u
      rw [exec_arrivalWindow live, arrivalExpire_of_open pen opened window unformed]
    · have few : part < 4 := by simpa using List.mem_of_find?_eq_some first
      obtain ⟨u, settles, frame, queued⟩ := resend_queued i id c part (s.timedOut i (inKey c n part)) low few
      rw [exec_chunkIncomplete live, chunkIncomplete_of_child pen opened unformed child first, settles]
      exact ⟨u, _, rfl, (State.pen_congr (frame .fld (by decide)) _).trans (s.timedOut_pen pen _),
        congrArg ChunkIn.firstGt (PenInst.copy_edit ..), frame .gt (by decide), queued,
        ((s.timedOut_frame i _).mono (by decide)).step frame (by decide)⟩
    · intro now bad
      have judged := s.judged_frame i
      obtain ⟨b, left⟩ := s.judged_pen pen
      refine ⟨fun all => ?_, fun lacks kept wait => ?_, fun lacks kept exclude => ?_⟩
      all_goals rw [exec_penDeadline live]
      · obtain ⟨-, out⟩ | ⟨some, -⟩ | ⟨some, -⟩ := penDeadline_cases pen opened open_
          (fun n hn => absurd (all ▸ hn : n ∈ []) (by simp))
        · exact ⟨_, _, by rw [out], s.judged_gt i, left, rfl, opened, rfl, judged⟩
        · exact absurd all some
        · exact absurd all some
      · obtain ⟨none, -⟩ | ⟨-, -, ranks, out⟩ | ⟨-, exclude, -⟩ := penDeadline_cases pen opened open_ kept
        · exact absurd none lacks
        · have abort := openAbort_late_leaves (i := i) ranks (by simp [opened]) left
          have frame : ChangesOnly (.fld :: .swc :: faultParts) (s.judged i) (openAbort i 1 ranks (s.judged i)) :=
            openAbort_changes (.refl _ _) (by decide)
          rw [State.judged_devIndex] at abort
          exact ⟨_, by rw [out], Eq.trans (frame .gt (by decide)) (s.judged_gt i), abort,
            (judged.mono (by decide)).step frame (by decide)⟩
        · exact absurd exclude (by simp [wait])
      · obtain ⟨none, -⟩ | ⟨-, wait, -⟩ | ⟨-, -, t, excluded, out⟩ := penDeadline_cases pen opened open_ kept
        · exact absurd none lacks
        · exact absurd exclude (by simp [wait])
        · obtain ⟨⟨j, pen', excl, verdict⟩, frame⟩ := excluded
          obtain ⟨outs, formed⟩ := foldl_formOut_pen false (i.own s.devIndex) pen'
          have all := frame.step (foldl_formOut_changes (k := i.key) false (i.own s.devIndex) t) (by decide)
          exact ⟨_, _, by rw [out], Eq.trans (all .gt (by decide)) (s.judged_gt i), formed, excl, verdict,
            (judged.mono (by decide)).step all (by decide)⟩
    · rw [exec_penAbortedExpire live, penAbortedExpire_of_aborted pen aborted]
      refine ⟨_, rfl, rfl, ?_, State.dropPen_changes ((advanceTo_frame _ s).mono (by decide)) (by decide)⟩
      rw [State.dropPen, State.modFld_fld, advanceTo_fld]
  · intro all
    obtain ⟨fld, recorded, frame⟩ := penAckDeadline_of_final final
    refine ⟨_, exec_penAckDeadline live tag step, fun j hj => ?_, congrArg Fld.ackTo fld, recorded, ?_,
      frame.mono (by decide)⟩
    · rw [fld] at hj
      simpa using (List.mem_filter.1 hj).2
    · exact Eq.trans (frame .fatal (by decide)) live
  · exact exec_tallyClear stage live free

end

section
/-! SUPPORT. How a Croft's operations leave it (R261, R262, R287, R288, R356): the rule of one Croft that changes while every
other Croft stays, and what checks, writes, flags and conflicts leave of it. -/

namespace Sys2Proof.Machine

/-! ## One Croft changes -/

/-- From `s` to `u` one Croft alone changes, and is left as `y`; the Tract flags are left as `tf`; beside the Crofts only the
parts `ps` change. -/
structure CroftLeft (k : Nat) (y : Croft) (tf : Tab Nat) (ps : List Part) (s u : State) : Prop where
  croft  : u.croft k = y
  others : ∀ j, j ≠ k → u.croft j = s.croft j
  tflags : u.crf.tflags = tf
  frame  : ChangesOnly (.crf :: ps) s u

theorem eccMark_of_unarmed {s : State} (h : s.flt.armed = none) (k key : Nat) : eccMark k key s = s := by
  simp [eccMark, State.armedFor_of_unarmed h]

/-- The Pantry after a word's writes: what lies beyond its end is not written (R261). -/
def Croft.written (ws : List (Nat × Bytes)) (y : Croft) : Croft :=
  { y with pantry := ws.foldl (fun m b => Memory.writeN m b.1 (b.2.take (pantrySize - b.1))) y.pantry }

/-- A word's effect: its writes, its conditions, its overflow blocks. -/
def Croft.effected (e : Effect) (y : Croft) : Croft :=
  { y.written e.writes with
    ovfBlocks := satAdd 0xFFFF y.ovfBlocks e.ovf, overflow := y.overflow || e.overflow
    invalid := y.invalid || e.invalid, nonfinite := y.nonfinite || e.nonfinite, histSat := y.histSat || e.histSat }

namespace CroftLeft

variable {k : Nat} {y : Croft} {tf : Tab Nat} {ps qs : List Part} {s u v : State}

theorem refl (k : Nat) (ps : List Part) (s : State) : CroftLeft k (s.croft k) s.crf.tflags ps s s :=
  ⟨rfl, fun _ _ => rfl, rfl, .refl _ _⟩

theorem modCroft (h : CroftLeft k y tf ps s u) {f : Croft → Croft} {z : Croft} (e : f y = z) :
    CroftLeft k z tf ps s (u.modCroft k f) where
  croft := by rw [State.modCroft_croft_self, h.croft, e]
  others j hj := by rw [State.modCroft_croft, if_neg hj, h.others j hj]
  tflags := h.tflags
  frame := h.frame.modCroft _ _ List.mem_cons_self

/-- An operation that does not touch the Crofts. -/
theorem outside (h : CroftLeft k y tf ps s u) (g : ChangesOnly qs u v) (away : Part.crf ∉ qs) (sub : qs ⊆ ps) :
    CroftLeft k y tf ps s v := by
  have crf : v.crf = u.crf := g .crf away
  refine ⟨?_, fun j hj => ?_, ?_, h.frame.step g (List.subset_cons_of_subset _ sub)⟩
  · rw [State.croft, crf]; exact h.croft
  · rw [State.croft, crf]; exact h.others j hj
  · rw [crf]; exact h.tflags

theorem tflagAdded (h : CroftLeft k y tf ps s u) (t i : Nat) (d : Int) :
    CroftLeft k y (Tab.put 0 tf (16 * t + i) (satFlag (Tab.look 0 tf (16 * t + i)) d)) ps s (addTflag t i d u) where
  croft := h.croft
  others := h.others
  tflags := by simp [addTflag, Crf.putTflag, h.tflags]
  frame := h.frame.modCrf _ List.mem_cons_self

/-- A read of words none of which is in error passes. -/
theorem checked (h : CroftLeft k y tf ps s u) (bad : y.badWords = []) (soft : y.softWords = []) (hit : Nat → Bool) :
    (checkKeys k hit u).1 = true ∧ CroftLeft k y tf ps s (checkKeys k hit u).2 := by
  simp only [checkKeys, h.croft, bad, soft, List.find?_nil, List.filter_nil, List.foldl_nil, true_and]
  exact h.modCroft (by rw [soft, List.filter_nil, ← soft])

/-- A word's accesses lose cycles to those under way, and nothing else comes of it (R262). -/
theorem conflicted (h : CroftLeft k y tf [.draws] s u) (e : Engine) (w : BitVec 256) :
    ∃ n, CroftLeft k { y with conflict := n } tf [.draws] s (wordConflicts k e w u) := by
  have drawn : CroftLeft k y tf [.draws] s u.draw.2 :=
    h.outside (ChangesOnly.drawn (ps := [.draws]) (.refl _ u) (by decide)) (by decide) (List.Subset.refl _)
  unfold wordConflicts
  split
  · exact ⟨_, h⟩
  unfold conflicts
  extract_lets rivals theirs n
  split
  · exact ⟨_, h⟩
  split
  · exact ⟨_, h⟩
  · exact ⟨_, drawn.modCroft rfl⟩

theorem pantryPut (h : CroftLeft k y tf [.draws] s u) (unarmed : s.flt.armed = none) (bad : y.badWords = [])
    (soft : y.softWords = []) (b : Nat × Bytes) :
    CroftLeft k (y.written [b]) tf [.draws] s (pantryPut k b.1 b.2 u) := by
  unfold Machine.pantryPut
  extract_lets bs keep
  split
  next none =>
    have same : y.written [b] = y := by
      simp only [Croft.written, List.foldl_cons, List.foldl_nil, List.isEmpty_iff.1 none, bs, Memory.writeN]
    rwa [same]
  next =>
    have flt : u.flt = s.flt := h.frame.flt_eq (by decide) (by decide)
    rw [eccMark_of_unarmed (by rw [State.modCroft_flt, flt, unarmed])]
    exact h.modCroft (by simp [Croft.written, bad, soft, bs])

theorem pantryPuts (h : CroftLeft k y tf [.draws] s u) (unarmed : s.flt.armed = none) (bad : y.badWords = [])
    (soft : y.softWords = []) (ws : List (Nat × Bytes)) :
    CroftLeft k (y.written ws) tf [.draws] s (ws.foldl (fun t b => Machine.pantryPut k b.1 b.2 t) u) := by
  induction ws generalizing y u with
  | nil => exact h
  | cons b r ih => exact ih (h.pantryPut unarmed bad soft b) bad soft

/-- With no word in error a word's effect takes place. -/
theorem effected (h : CroftLeft k y tf [.draws] s u) (unarmed : s.flt.armed = none) (bad : y.badWords = [])
    (soft : y.softWords = []) (e : Effect) :
    (applyEffect k e u).1 = true ∧ CroftLeft k (y.effected e) tf [.draws] s (applyEffect k e u).2 := by
  obtain ⟨ok, read⟩ := h.checked bad soft
    (fun key => e.reads.any (fun r => 0 < r.2 && r.1 / 8 ≤ key && key ≤ (r.1 + r.2 - 1) / 8))
  simp only [applyEffect, checkRanges, ok]
  exact ⟨rfl, (read.pantryPuts unarmed bad soft e.writes).modCroft rfl⟩

end CroftLeft

/-! ## Flags (R288) -/

section
variable (gt i v : Nat) (y : Croft)

theorem Croft.look_putFlag (j : Nat) : Tab.look 0 (y.putFlag gt i v).flags j = if j = i then v else Tab.look 0 y.flags j :=
  Tab.look_put ..

@[simp] theorem Croft.putFlag_pantry : (y.putFlag gt i v).pantry = y.pantry := rfl
@[simp] theorem Croft.putFlag_queue (e : Engine) : (y.putFlag gt i v).queue e = y.queue e := by cases e <;> rfl

end

theorem satFlag_one (v : Nat) : satFlag v 1 = min 0xFFFF (v + 1) := by
  unfold satFlag
  omega

/-! ## Queues (R286, R287) -/

section
variable (e : Engine) (l : List QWord) (y : Croft)

@[simp] theorem Croft.setQueue_queue_self : (y.setQueue e l).queue e = l := by cases e <;> rfl
theorem Croft.setQueue_queue_of_ne {f : Engine} (h : f ≠ e) : (y.setQueue e l).queue f = y.queue f := by
  cases e <;> cases f <;> simp [Croft.queue, Croft.setQueue] at h ⊢
@[simp] theorem Croft.setQueue_pantry : (y.setQueue e l).pantry = y.pantry := by cases e <;> rfl
@[simp] theorem Croft.setQueue_store : (y.setQueue e l).store = y.store := by cases e <;> rfl
@[simp] theorem Croft.setQueue_flags : (y.setQueue e l).flags = y.flags := by cases e <;> rfl
@[simp] theorem Croft.setQueue_prog : (y.setQueue e l).prog = y.prog := by cases e <;> rfl
@[simp] theorem Croft.setQueue_posts : (y.setQueue e l).posts = y.posts := by cases e <;> rfl
@[simp] theorem Croft.setQueue_step : (y.setQueue e l).step = y.step := by cases e <;> rfl
@[simp] theorem Croft.setQueue_active : (y.setQueue e l).active = y.active := by cases e <;> rfl
@[simp] theorem Croft.setQueue_shadow : (y.setQueue e l).shadow = y.shadow := by cases e <;> rfl
@[simp] theorem Croft.setQueue_lambda : (y.setQueue e l).lambda = y.lambda := by cases e <;> rfl
@[simp] theorem Croft.setQueue_nonfinite : (y.setQueue e l).nonfinite = y.nonfinite := by cases e <;> rfl
@[simp] theorem Croft.setQueue_invalid : (y.setQueue e l).invalid = y.invalid := by cases e <;> rfl
@[simp] theorem Croft.setQueue_overflow : (y.setQueue e l).overflow = y.overflow := by cases e <;> rfl
@[simp] theorem Croft.setQueue_histSat : (y.setQueue e l).histSat = y.histSat := by cases e <;> rfl
@[simp] theorem Croft.setQueue_ovfBlocks : (y.setQueue e l).ovfBlocks = y.ovfBlocks := by cases e <;> rfl

end

end Sys2Proof.Machine
end

section
/-! SUPPORT. Words that start (R180, R256, R258, R271, R282, R284, R290): MX, VX and FL words of a Croft, and what a word of
each engine leaves when it does. -/

namespace Sys2Proof.Machine

/-! ## Starting a word (R286-R288) -/

/-- The next word of an engine is marked as started. -/
def Croft.started (e : Engine) (gt : Nat) (y : Croft) : Croft :=
  { y.setQueue e (markDone (y.queue e)) with busyGt := gt }

theorem Croft.started_queue_self (e : Engine) (gt : Nat) (y : Croft) :
    (y.started e gt).queue e = markDone (y.queue e) := by cases e <;> rfl
theorem Croft.started_queue_of_ne {e f : Engine} (h : f ≠ e) (gt : Nat) (y : Croft) :
    (y.started e gt).queue f = y.queue f := by
  cases f <;> exact Croft.setQueue_queue_of_ne _ _ _ h

section
variable {c k : Nat} {e : Engine} {op : Nat} {q : QWord} {f : Nat → QWord → State → Bool × State} {s : State}
variable (phys : s.physOf c = some k) (works : s.works k = true)
include phys works

theorem startWord_of_idle (idle : (s.croft k).next e = none) : startWord c e op f s = s := by
  simp [startWord, phys, works, idle]

theorem startWord_of_blocked (next : (s.croft k).next e = some q)
    (blocked : isOp e op q.word = false ∨ s.waitMet k q.word = false) : startWord c e op f s = s := by
  rcases blocked with h | h <;> simp [startWord, phys, works, next, h]

variable (next : (s.croft k).next e = some q) (named : isOp e op q.word = true) (met : s.waitMet k q.word = true)
include next named met

theorem startWord_of_refused (refused : f k q s = (false, s)) : startWord c e op f s = s := by
  simp [startWord, phys, works, next, named, met, refused]

theorem startWord_of_went (went : (f k q s).1 = true) :
    startWord c e op f s = (f k q s).2.modCroft k (Croft.started e (f k q s).2.bel.gt) := by
  simp only [startWord, phys, works, next, named, met, went]
  rfl

theorem startWord_left {y : Croft} {tf : Tab Nat} {ps : List Part} (went : (f k q s).1 = true)
    (left : CroftLeft k y tf ps s (f k q s).2) : ∃ gt, CroftLeft k (y.started e gt) tf ps s (startWord c e op f s) := by
  rw [startWord_of_went phys works next named met went]
  exact ⟨_, left.modCroft rfl⟩

end

/-- The MX, VX and FL words with their engines and operations (Table 11-2); STEP is the decoder's (R271). -/
def computeWords (c : Nat) : List (Instr × Engine × Nat) :=
  [(.mxLoad c, .mx, 0), (.mxReuse c, .mx, 1), (.vxAdd c, .vx, 0), (.vxSub c, .vx, 1),
    (.vxMul c, .vx, 2), (.vxFma c, .vx, 3), (.vxMax c, .vx, 4), (.vxMin c, .vx, 5), (.vxExp c, .vx, 6),
    (.vxRecip c, .vx, 7), (.vxLsum c, .vx, 8), (.vxLmax c, .vx, 9), (.vxConvert c, .vx, 10), (.vxSplit c, .vx, 11),
    (.flNop c, .fl, 0), (.flSet c, .fl, 1), (.flAdd c, .fl, 2), (.flTadd c, .fl, 3), (.flBarrier c, .fl, 5)]

/-- What a word of an engine and operation does when it starts. -/
def wordAction (c : Nat) : Engine → Nat → Nat → QWord → State → Bool × State
  | .mx, 0 => mxLoad c
  | .mx, _ => mxReuse c
  | .fl, 1 => flWord flSetDo
  | .fl, 2 => flWord flAddDo
  | .fl, 3 => flWord flTaddDo
  | .fl, 5 => flWord flBarrierDo
  | .fl, _ => flWord (fun _ _ s => s)
  | _, op => vxWord op c

section
variable {c : Nat} {cmd : Instr} {e : Engine} {op : Nat} (listed : (cmd, e, op) ∈ computeWords c)
include listed

theorem exec_computeWord (hc : c < 4096) (s : State) :
    exec cmd s = .next (startWord c e op (wordAction c e op) s) := by
  simp only [computeWords, List.mem_cons, Prod.mk.injEq, List.not_mem_nil, or_false] at listed
  rcases listed with ⟨rfl, rfl, rfl⟩ | ⟨rfl, rfl, rfl⟩ | ⟨rfl, rfl, rfl⟩ | ⟨rfl, rfl, rfl⟩ | ⟨rfl, rfl, rfl⟩ |
    ⟨rfl, rfl, rfl⟩ | ⟨rfl, rfl, rfl⟩ | ⟨rfl, rfl, rfl⟩ | ⟨rfl, rfl, rfl⟩ | ⟨rfl, rfl, rfl⟩ | ⟨rfl, rfl, rfl⟩ |
    ⟨rfl, rfl, rfl⟩ | ⟨rfl, rfl, rfl⟩ | ⟨rfl, rfl, rfl⟩ | ⟨rfl, rfl, rfl⟩ | ⟨rfl, rfl, rfl⟩ | ⟨rfl, rfl, rfl⟩ |
    ⟨rfl, rfl, rfl⟩ | ⟨rfl, rfl, rfl⟩ <;> exact if_pos (decide_eq_true hc)

theorem op_of_mx (h : e = .mx) : op = 0 ∨ op = 1 := by
  subst h
  simpa [computeWords] using (List.mem_map_of_mem (f := Prod.snd) listed)

theorem op_of_fl (h : e = .fl) : op = 0 ∨ op = 1 ∨ op = 2 ∨ op = 3 ∨ op = 5 := by
  subst h
  simpa [computeWords] using (List.mem_map_of_mem (f := Prod.snd) listed)

end

/-! ## Array and vector words (R180, R256, R258) -/

/-- What streaming changes of a Croft beside the word's effect: its tiles, the activity of its array, the count of lost cycles. -/
structure ArrayState where
  active   : Option Tile
  shadow   : Option Tile
  ramp     : Nat
  lambda   : Nat
  restCc   : Option Nat
  lastMx   : Option (BitVec 256)
  conflict : Nat

/-- A Croft with these parts replaced. -/
def Croft.onArray (x : Croft) (a : ArrayState) : Croft :=
  { x with
    active := a.active, shadow := a.shadow, ramp := a.ramp, lambda := a.lambda, restCc := a.restCc, lastMx := a.lastMx
    conflict := a.conflict }

/-- These parts of a Croft. -/
def Croft.array (x : Croft) : ArrayState :=
  { active := x.active, shadow := x.shadow, ramp := x.ramp, lambda := x.lambda, restCc := x.restCc, lastMx := x.lastMx
    conflict := x.conflict }

theorem checkFails_of_unarmed {s : State} (h : s.flt.armed = none) (c k check : Nat) (q : QWord) :
    checkFails c k check q s = (false, s) := by
  simp [checkFails, State.armedFor_of_unarmed h]

/-- The effect of an MX word past a tile. -/
def State.mxEffect (s : State) (c k : Nat) (q : QWord) (t : Tile) : Effect :=
  Machine.mxEffect (s.rounder c q (compute q.word)) (compute q.word) (wRepeat q.word) t (s.croft k).pantry

/-- The effect of a VX word. -/
def State.vxEffect (s : State) (c k op : Nat) (q : QWord) : Effect :=
  let r := s.rounder c q (compute q.word)
  if op = 11 then splitEffect r (compute q.word) (wRepeat q.word) (s.croft k).pantry
  else Machine.vxEffect op r (compute q.word) (wRepeat q.word) (s.croft k).pantry

/-- A tile is resident and active; with three passes it is loaded twice (R256). -/
def Croft.loading (x : Compute) (t : Tile) (y : Croft) : Croft :=
  { y with active := some t, shadow := if x.passes = 3 then some t else y.active }

theorem mxLoad_of_unarmed {s : State} (unarmed : s.flt.armed = none) (c k : Nat) (q : QWord) :
    let x := compute q.word
    let t := loadTile x q.word (s.croft k).pantry
    let e := s.mxEffect c k q t
    mxLoad c k q s = applyEffect k { e with reads := e.reads ++ (x.opB 1 true).ranges }
      (wordConflicts k .mx q.word (rampUp k q.word (s.modCroft k (Croft.loading x t)))) := by
  simp only [mxLoad, checkFails_of_unarmed unarmed, State.mxEffect, Bool.false_eq_true, if_false]
  rfl

@[simp] theorem Croft.effected_queue (y : Croft) (a : ArrayState) (eff : Effect) (e : Engine) :
    ((y.onArray a).effected eff).queue e = y.queue e := by cases e <;> rfl

/-- An array or vector word goes ahead: its effect takes place, and beside it the array alone changes. -/
structure Computed (k : Nat) (eff : Effect) (a : ArrayState) (s : State) (r : Bool × State) : Prop where
  went : r.1 = true
  left : CroftLeft k (((s.croft k).onArray a).effected eff) s.crf.tflags [.draws] s r.2

section
variable {c k : Nat} {s : State} (q : QWord)
variable (unarmed : s.flt.armed = none) (bad : (s.croft k).badWords = []) (soft : (s.croft k).softWords = [])
include unarmed bad soft

theorem vxWord_computes (c op : Nat) : ∃ a, Computed k (s.vxEffect c k op q) a s (vxWord op c k q s) ∧
    a.active = (s.croft k).active ∧ a.shadow = (s.croft k).shadow := by
  obtain ⟨n, lost⟩ := (CroftLeft.refl k [.draws] s).conflicted .vx q.word
  obtain ⟨went, left⟩ := lost.effected unarmed bad soft (s.vxEffect c k op q)
  have run : vxWord op c k q s = applyEffect k (s.vxEffect c k op q) (wordConflicts k .vx q.word s) := by
    simp [vxWord, checkFails_of_unarmed unarmed, State.vxEffect]
  exact ⟨{ (s.croft k).array with conflict := n }, ⟨run ▸ went, run ▸ left⟩, rfl, rfl⟩

/-- The array ramps up and streams past the tile that is active. -/
theorem streams_computes {a : ArrayState} {t : State} (loaded : CroftLeft k ((s.croft k).onArray a) s.crf.tflags [.draws] s t)
    (eff : Effect) : ∃ b, Computed k eff b s (applyEffect k eff (wordConflicts k .mx q.word (rampUp k q.word t))) ∧
      b.active = a.active ∧ b.lambda = 8 := by
  have ramped : ∃ r, CroftLeft k ((s.croft k).onArray { a with ramp := r, lambda := 8, restCc := none, lastMx := some q.word })
      s.crf.tflags [.draws] s (rampUp k q.word t) := ⟨_, loaded.modCroft rfl⟩
  obtain ⟨r, ramped⟩ := ramped
  obtain ⟨n, lost⟩ := ramped.conflicted .mx q.word
  obtain ⟨went, left⟩ := lost.effected unarmed bad soft eff
  exact ⟨{ a with ramp := r, lambda := 8, restCc := none, lastMx := some q.word, conflict := n }, ⟨went, left⟩, rfl, rfl⟩

theorem mxLoad_computes (c : Nat) : ∃ a,
    Computed k (s.mxEffect c k q (loadTile (compute q.word) q.word (s.croft k).pantry)) a s (mxLoad c k q s) ∧
    a.active = some (loadTile (compute q.word) q.word (s.croft k).pantry) ∧ a.lambda = 8 := by
  have loaded (t : Tile) : CroftLeft k ((s.croft k).onArray { (s.croft k).array with active := some t, shadow := _ })
      s.crf.tflags [.draws] s (s.modCroft k (Croft.loading (compute q.word) t)) := (CroftLeft.refl k _ s).modCroft rfl
  obtain ⟨a, done, active, lambda⟩ := streams_computes q unarmed bad soft (loaded _) _
  rw [mxLoad_of_unarmed unarmed]
  exact ⟨a, ⟨done.went, done.left⟩, active, lambda⟩

theorem mxReuse_computes (c : Nat) {t : Tile} (active : (s.croft k).active = some t) : ∃ a,
    Computed k (s.mxEffect c k q t) a s (mxReuse c k q s) ∧ a.active = some t ∧ a.lambda = 8 := by
  obtain ⟨a, done, kept, lambda⟩ := streams_computes q unarmed bad soft (a := (s.croft k).array)
    (CroftLeft.refl k [.draws] s) (s.mxEffect c k q t)
  have run : mxReuse c k q s = applyEffect k (s.mxEffect c k q t) (wordConflicts k .mx q.word (rampUp k q.word s)) := by
    simp only [mxReuse, checkFails_of_unarmed unarmed, active]
    rfl
  exact ⟨a, ⟨run ▸ done.went, run ▸ done.left⟩, kept.trans active, lambda⟩

/-- The tile that an MX word streams past: LOAD's own, or the active one. -/
def State.tileOf (s : State) (k op : Nat) (w : BitVec 256) : Option Tile :=
  if op = 0 then some (loadTile (compute w) w (s.croft k).pantry) else (s.croft k).active

/-- The effect of an MX or VX word that starts; an MX word without a tile has none. -/
def State.HasEffect (s : State) (c k : Nat) (e : Engine) (op : Nat) (q : QWord) (eff : Effect) : Prop :=
  (e = .mx ∧ ∃ t, s.tileOf k op q.word = some t ∧ eff = s.mxEffect c k q t) ∨ (e = .vx ∧ eff = s.vxEffect c k op q)

theorem wordAction_computes {cmd : Instr} {e : Engine} {op : Nat} (listed : (cmd, e, op) ∈ computeWords c) {eff : Effect}
    (has : s.HasEffect c k e op q eff) : ∃ a, Computed k eff a s (wordAction c e op k q s) ∧
      (e = .mx → a.active = s.tileOf k op q.word ∧ a.lambda = 8) ∧
      (e = .vx → a.active = (s.croft k).active ∧ a.shadow = (s.croft k).shadow) := by
  rcases has with ⟨rfl, t, tile, rfl⟩ | ⟨rfl, rfl⟩
  · rcases op_of_mx listed rfl with rfl | rfl
    · obtain rfl : loadTile (compute q.word) q.word (s.croft k).pantry = t := Option.some.inj tile
      obtain ⟨a, done, active, lambda⟩ := mxLoad_computes q unarmed bad soft c
      exact ⟨a, done, fun _ => ⟨active, lambda⟩, nofun⟩
    · obtain ⟨a, done, active, lambda⟩ := mxReuse_computes q unarmed bad soft c tile
      exact ⟨a, done, fun _ => ⟨active.trans tile.symm, lambda⟩, nofun⟩
  · obtain ⟨a, done, active, shadow⟩ := vxWord_computes q unarmed bad soft c op
    exact ⟨a, done, nofun, fun _ => ⟨active, shadow⟩⟩

end

theorem mxReuse_of_untiled {c k : Nat} {q : QWord} {s : State} (unarmed : s.armedFor 2 (0x1000 + k) = false)
    (active : (s.croft k).active = none) : mxReuse c k q s = (false, s) := by
  simp [mxReuse, checkFails, unitCroft, unarmed, active]

/-! ## Flag words (R271, R282, R290) -/

/-- BARRIER arrives for a participant (R290). -/
theorem flBarrierDo_of_field {k : Nat} {q : QWord} {s : State} {f : Nat} {b : FieldBody} (field : s.fieldBody = some (f, b)) :
    flBarrierDo k q s = if k ∈ s.participants f then barrierArrive f k (flFlag q.word) s else s := by
  simp [flBarrierDo, field]

/-- What a flag word other than BARRIER leaves: its flag of the Croft, or of the Tract, is written. -/
theorem flWord_writes (k c op : Nat) (few : op = 0 ∨ op = 1 ∨ op = 2 ∨ op = 3 ∨ op = 5) (other : op ≠ 5) (q : QWord)
    (s : State) :
    ∃ y tf, (wordAction c .fl op k q s).1 = true ∧ CroftLeft k y tf [] s (wordAction c .fl op k q s).2 ∧
      y.pantry = (s.croft k).pantry ∧ (∀ e, y.queue e = (s.croft k).queue e) ∧
      (∀ j, Tab.look 0 y.flags j = if j = flFlag q.word ∧ op = 1 then flValue q.word
        else if j = flFlag q.word ∧ op = 2 then satFlag (Tab.look 0 (s.croft k).flags j) (toInt 16 (flValue q.word))
        else Tab.look 0 (s.croft k).flags j) ∧
      (∀ j, Tab.look 0 tf j = if j = 16 * (k / 136) + flFlag q.word ∧ op = 3
        then satFlag (Tab.look 0 s.crf.tflags j) (toInt 16 (flValue q.word)) else Tab.look 0 s.crf.tflags j) := by
  have here := CroftLeft.refl k [] s
  rcases few with rfl | rfl | rfl | rfl | rfl
  · exact ⟨_, _, rfl, here, rfl, fun _ => rfl, by simp, by simp⟩
  · exact ⟨_, _, rfl, here.modCroft rfl, rfl, Croft.putFlag_queue _ _ _ _, by simp [Croft.look_putFlag], by simp⟩
  · refine ⟨_, _, rfl, here.modCroft rfl, rfl, Croft.putFlag_queue _ _ _ _, fun j => ?_, by simp⟩
    by_cases hj : j = flFlag q.word <;> simp [Croft.look_putFlag, hj]
  · refine ⟨_, _, rfl, here.tflagAdded _ _ _, rfl, fun _ => rfl, by simp, fun j => ?_⟩
    by_cases hj : j = 16 * (k / 136) + flFlag q.word <;> simp [Tab.look_put, hj]
  · exact absurd rfl other

end Sys2Proof.Machine
end

section
/-! SUPPORT. Tick programs (R286, R287, R291, R292): a program that starts at a mark, a word that is issued, a word that retires. -/

namespace Sys2Proof.Machine

variable {c k : Nat} {s : State}

theorem exec_tickProgramStart (hc : c < 4096) (s : State) : exec (.tickProgramStart c) s = .next (tickStart c s) :=
  if_pos (decide_eq_true hc)
theorem exec_wordIssue (hc : c < 4096) (s : State) : exec (.wordIssue c) s = .next (wordIssue c s) :=
  if_pos (decide_eq_true hc)
theorem exec_wordRetire (hc : c < 4096) (e : Engine) (s : State) : exec (.wordRetire c e) s = .next (wordRetire c e s) :=
  if_pos (decide_eq_true hc)

/-! ## A word retires (R287) -/

/-- The signal of a word that retires raises its flag by one, saturating. -/
theorem CroftLeft.signalled {y : Croft} {tf : Tab Nat} {ps : List Part} {u : State} (h : CroftLeft k y tf ps s u)
    (w : BitVec 256) : ∃ z tg, CroftLeft k z tg ps s (signalWord k w u) ∧ z.pantry = y.pantry ∧
      (∀ e, z.queue e = y.queue e) ∧
      (∀ j, Tab.look 0 z.flags j = if wSigEn w ∧ ¬ wSigTract w ∧ j = wSigFlag w then min 0xFFFF (Tab.look 0 y.flags j + 1)
        else Tab.look 0 y.flags j) ∧
      (∀ j, Tab.look 0 tg j = if wSigEn w ∧ wSigTract w ∧ j = 16 * (k / 136) + wSigFlag w
        then min 0xFFFF (Tab.look 0 tf j + 1) else Tab.look 0 tf j) := by
  unfold signalWord
  split
  next off => exact ⟨y, tf, h, rfl, fun _ => rfl, by simp_all, by simp_all⟩
  split
  next on tract =>
    refine ⟨_, _, h.tflagAdded _ _ _, rfl, fun _ => rfl, by simp [tract], fun j => ?_⟩
    by_cases hj : j = 16 * (k / 136) + wSigFlag w <;> simp_all [Tab.look_put, satFlag_one]
  next on own =>
    refine ⟨_, _, h.modCroft rfl, rfl, Croft.putFlag_queue _ _ _ _, fun j => ?_, by simp [own]⟩
    by_cases hj : j = wSigFlag w <;> simp_all [Croft.look_putFlag, satFlag_one]

section
variable (phys : s.physOf c = some k) {e : Engine}
include phys

theorem wordRetire_of_empty (empty : (s.croft k).queue e = []) : wordRetire c e s = s := by
  simp [wordRetire, phys, empty]

variable {q : QWord} {rest : List QWord} (queued : (s.croft k).queue e = q :: rest)
include queued

theorem wordRetire_of_unstarted (done : q.done = false) (step : isStep q.word = false) : wordRetire c e s = s := by
  simp [wordRetire, phys, queued, done, step]

theorem wordRetire_of_done (works : s.works k = true) (done : q.done = true) : ∃ z tg,
    CroftLeft k z tg [] s (wordRetire c e s) ∧ z.pantry = (s.croft k).pantry ∧ z.queue e = rest ∧
    (∀ f, f ≠ e → z.queue f = (s.croft k).queue f) ∧
    (∀ j, Tab.look 0 z.flags j = if wSigEn q.word ∧ ¬ wSigTract q.word ∧ j = wSigFlag q.word
      then min 0xFFFF (Tab.look 0 (s.croft k).flags j + 1) else Tab.look 0 (s.croft k).flags j) ∧
    (∀ j, Tab.look 0 tg j = if wSigEn q.word ∧ wSigTract q.word ∧ j = 16 * (k / 136) + wSigFlag q.word
      then min 0xFFFF (Tab.look 0 s.crf.tflags j + 1) else Tab.look 0 s.crf.tflags j) := by
  generalize out : wordRetire c e s = u
  unfold wordRetire at out
  simp -zeta only [phys, queued, works, done] at out
  extract_lets t ready gt still v at out
  rw [if_neg (by simp)] at out
  obtain ⟨z, tg, signalled, pantry, queues, flags, tflags⟩ :=
    ((CroftLeft.refl k [] s).modCroft (f := fun x => x.setQueue e rest) rfl).signalled q.word
  have rested : ∃ r, CroftLeft k { z with restCc := r } tg [] s v := by
    unfold v
    split
    · exact ⟨_, signalled.modCroft rfl⟩
    · exact ⟨_, signalled⟩
  obtain ⟨r, rested⟩ := rested
  have ended : ∃ p, CroftLeft k { z with restCc := r, busyGt := gt, prog := p } tg [] s u := by
    rw [← out]
    cases run : z.prog with
    | none => exact ⟨none, rested.modCroft (by simp [run])⟩
    | some g =>
      by_cases last : (decide (g.len ≤ g.issued) && z.unretired.isEmpty) = true
      · exact ⟨none, rested.modCroft (by simp_all [Croft.unretired])⟩
      · exact ⟨some g, rested.modCroft (by simp_all [Croft.unretired])⟩
  obtain ⟨p, ended⟩ := ended
  have queue : ∀ f, Croft.queue { z with restCc := r, busyGt := gt, prog := p } f = z.queue f := by rintro ⟨⟩ <;> rfl
  refine ⟨_, tg, ended, ?_, ?_, fun f hf => ?_, fun j => ?_, tflags⟩
  · simp [pantry]
  · simp [queue, queues]
  · simp [queue, queues, Croft.setQueue_queue_of_ne, hf]
  · simp [flags]

end

/-! ## A word is issued (R271, R286) -/

/-- A Croft whose decoder has issued a word `w` to an engine. -/
def Croft.issued (x : Croft) (e : Engine) (g : Running) (gt : Nat) (w : BitVec 256) : Croft :=
  { x.setQueue e (x.queue e ++ [{ word := w, pos := g.issued, step := x.step }]) with
    step := if isStep w then x.step + BitVec.ofNat 32 (flDelta w) else x.step
    busyGt := gt, lastProg := g.index * 2 ^ 28 + (g.next % 2048 + 1) % 2048
    prog := some { g with next := g.next + 1, issued := g.issued + 1 } }

theorem Croft.issued_queue_self (x : Croft) (e : Engine) (g : Running) (gt : Nat) (w : BitVec 256) :
    (x.issued e g gt w).queue e = x.queue e ++ [{ word := w, pos := g.issued, step := x.step }] := by cases e <;> rfl
theorem Croft.issued_queue_of_ne {e f : Engine} (h : f ≠ e) (x : Croft) (g : Running) (gt : Nat) (w : BitVec 256) :
    (x.issued e g gt w).queue f = x.queue f := by
  cases f <;> exact Croft.setQueue_queue_of_ne _ _ _ h

theorem wordIssue_of_room {e : Engine} {g : Running} (phys : s.physOf c = some k) (works : s.works k = true)
    (prog : (s.croft k).prog = some g) (left : g.issued < g.len)
    (bad : (s.croft k).badWords = []) (soft : (s.croft k).softWords = [])
    (named : engineNamed (Tab.look 0 (s.croft k).store (g.next % 2048)) = some e)
    (room : (s.croft k).mayIssue e (g.next % 2048) = true) :
    ∃ gt, CroftLeft k ((s.croft k).issued e g gt (Tab.look 0 (s.croft k).store (g.next % 2048))) s.crf.tflags [] s
      (wordIssue c s) := by
  obtain ⟨ok, read⟩ := (CroftLeft.refl k [] s).checked bad soft (· == storeKey (g.next % 2048))
  simp only [wordIssue, phys, prog, named, works, Nat.not_le.2 left, room, ok]
  exact ⟨_, read.modCroft rfl⟩

/-! ## A program starts (R291, R292) -/

/-- Number of the next mark of the run that a Croft has not met (R292). -/
def State.nextEntry (s : State) (k : Nat) : Nat :=
  max (s.croft k).entries ((s.bel.gt - s.crf.launchGt + s.tickLen - 1) / s.tickLen)

/-- What the schedule of a Croft names for a mark of the run. -/
def State.scheduled (s : State) (k : Nat) (pl : CroftPlan) : Option (Nat × TickProgram) :=
  (pl.schedule.getD ((s.crf.runsBase + s.nextEntry k - (s.croft k).shift) % pl.schedule.length) none).bind
    (fun n => (pl.programs[n]?).map (fun p => (n, p)))

theorem Tab.look_filter {α : Type} (d : α) (keep : Nat → Bool) (t : Tab α) (j : Nat) :
    Tab.look d (t.filter (fun e => keep e.1)) j = if keep j then Tab.look d t j else d := by
  induction t with
  | nil => simp
  | cons e r ih =>
    rw [List.filter_cons]
    by_cases hj : e.1 = j
    · subst hj
      by_cases kept : keep e.1 = true <;> simp_all [Tab.look]
    · split <;> simp_all [Tab.look]

theorem advanceTo_crf (l : Nat) (s : State) : (advanceTo l s).crf = s.crf := advanceTo_frame l s .crf (by decide)
theorem advanceTo_croft (l : Nat) (s : State) (j : Nat) : (advanceTo l s).croft j = s.croft j := by
  rw [State.croft, advanceTo_crf, State.croft]

/-- GT of that mark; no earlier than now. -/
def State.entryGt (s : State) (k : Nat) : Nat := (advanceTo (s.crf.launchGt + s.nextEntry k * s.tickLen) s).bel.gt

/-- The Croft once it has met the mark. -/
def State.metCroft (s : State) (k : Nat) : Croft := { s.croft k with entries := s.nextEntry k + 1, busyGt := s.entryGt k }

/-- The state once the Croft has met the mark. -/
def State.metMark (s : State) (k : Nat) : State :=
  (advanceTo (s.crf.launchGt + s.nextEntry k * s.tickLen) s).modCroft k
    (fun x => { x with entries := s.nextEntry k + 1, busyGt := s.entryGt k })

theorem metMark_left (s : State) (k : Nat) : CroftLeft k (s.metCroft k) s.crf.tflags timeParts s (s.metMark k) :=
  ((CroftLeft.refl k _ s).outside (advanceTo_frame _ s) (by decide) (List.Subset.refl _)).modCroft rfl

/-- A mark that comes while a program runs is counted (R292). -/
def Croft.overrunAgain (x : Croft) : Croft := { x with overrun := sat32 x.overrun, overran := true }

/-- At a mark the flags 0-47 are zeroed (R291). -/
def Croft.cleared (x : Croft) : Croft := { x with flags := x.flags.filter (fun e => 48 ≤ e.1), lastMx := none }

/-- A program begins. -/
def Croft.beginning (n : Nat) (p : TickProgram) (x : Croft) : Croft :=
  { x with prog := some { index := n, next := p.entry, len := p.len }, lastProg := n * 2 ^ 28 + p.entry % 2048 }

section
variable {pl : CroftPlan} (phys : s.physOf c = some k) (works : s.works k = true) (plan : s.plan c = some pl)
  (running : s.crf.running = true) (unpaused : s.crf.paused = false) (own : (s.croft k).attn = false)
  (sched : pl.schedule ≠ [])
include phys works plan running unpaused own sched

theorem tickStart_of_idle (idle : (s.croft k).prog = none) : tickStart c s =
    match s.scheduled k pl with
    | none => (s.metMark k).modCroft k Croft.cleared
    | some (n, p) => ((s.metMark k).modCroft k Croft.cleared).modCroft k (Croft.beginning n p) := by
  have listed : pl.schedule.isEmpty = false := by simpa using sched
  simp only [tickStart, phys, plan, works, running, unpaused, own, listed, idle, advanceTo_crf, advanceTo_croft,
    State.modCroft_croft_self]
  rfl

theorem tickStart_of_busy {g : Running} (busy : (s.croft k).prog = some g) : ∃ addr, tickStart c s =
    if !(s.croft k).overran then
      recordFault { source := 0x0704, unit := 0x1000 + k, cls := 1, access := 0x0B, addr := addr }
        ((s.metMark k).modCroft k Croft.overrunAgain)
    else (s.metMark k).modCroft k Croft.overrunAgain := by
  have listed : pl.schedule.isEmpty = false := by simpa using sched
  refine ⟨(s.crf.runsBase + s.nextEntry k - (s.croft k).shift) % pl.schedule.length, ?_⟩
  simp only [tickStart, phys, plan, works, running, unpaused, own, listed, busy, advanceTo_crf, advanceTo_croft,
    State.modCroft_croft_self]
  rfl

theorem tickStart_left_of_idle (idle : (s.croft k).prog = none) : ∃ l, CroftLeft k { (s.metCroft k).cleared with
      prog := (s.scheduled k pl).map (fun n => { index := n.1, next := n.2.entry, len := n.2.len }), lastProg := l }
    s.crf.tflags timeParts s (tickStart c s) ∧ (tickStart c s).bel.gt = s.entryGt k := by
  have cleared := (metMark_left s k).modCroft (f := Croft.cleared) rfl
  rw [tickStart_of_idle phys works plan running unpaused own sched idle]
  cases s.scheduled k pl with
  | none =>
    rw [Option.map_none, ← (idle : (s.metCroft k).cleared.prog = none)]
    exact ⟨_, cleared, rfl⟩
  | some n => exact ⟨_, cleared.modCroft rfl, rfl⟩

theorem tickStart_left_of_busy (busy : (s.croft k).prog ≠ none) :
    CroftLeft k (s.metCroft k).overrunAgain s.crf.tflags (timeParts ++ faultParts) s (tickStart c s) ∧
    (tickStart c s).bel.gt = s.entryGt k ∧ ((s.croft k).overran = false →
      ∃ r ∈ (tickStart c s).attic.openRecs, r.source = 0x0704 ∧ r.unit = 0x1000 + k) := by
  obtain ⟨g, busy⟩ := Option.ne_none_iff_exists'.1 busy
  obtain ⟨addr, run⟩ := tickStart_of_busy phys works plan running unpaused own sched busy
  have counted := (metMark_left s k).modCroft (f := Croft.overrunAgain) rfl
  have wider : CroftLeft k (s.metCroft k).overrunAgain s.crf.tflags (timeParts ++ faultParts) s _ :=
    { counted with frame := counted.frame.mono (by decide) }
  rw [run]
  split
  next first =>
    have noted := recordFault_of_not_ft (e := {
      source := 0x0704, unit := 0x1000 + k, cls := 1, access := 0x0B, addr := addr }) (by simp)
      ((s.metMark k).modCroft k Croft.overrunAgain)
    exact ⟨wider.outside noted.frame (by decide) (by decide), noted.frame .gt (by decide), fun _ => noted.opened⟩
  next again => exact ⟨wider, rfl, fun first => absurd first (by simpa using again)⟩

end

end Sys2Proof.Machine
end

section
open Sys2Proof Sys2Proof.Machine

/-- Settles O30: each command leaves one Croft in a known way (`CroftLeft`). A mark is met by `tickStart_left_of_idle` and
`tickStart_left_of_busy`, a word is issued by `wordIssue_of_room` and retires by `wordRetire_of_done`; one that starts leaves its
effect by `wordAction_computes`, or its flag by `flWord_writes`. -/
theorem wordsIssueComputeAndRetire : Obligations.WordsIssueComputeAndRetire := by
  unfold Obligations.WordsIssueComputeAndRetire
  intro c k s hc phys works x others marked clean
  refine ⟨fun pl plan running unpaused own sched => ?_, fun g prog left ⟨unarmed, bad, soft⟩ => ?_, fun e q rest queued => ?_,
    fun e empty => ?_, fun e op cmd listed => ?_⟩
  · intro t i v
    have run := exec_tickProgramStart hc s
    by_cases idle : x.prog = none
    · obtain ⟨l, left, gt⟩ := tickStart_left_of_idle phys works plan running unpaused own sched idle
      refine ⟨_, run, by rw [left.croft]; rfl, gt, left.others, fun _ => ⟨fun j low => ?_, fun j high => ?_, ?_, left.frame⟩,
        fun busy => absurd idle busy⟩
      · rw [left.croft]
        exact (Tab.look_filter 0 (48 ≤ ·) x.flags j).trans (if_neg (by simpa using low))
      · rw [left.croft]
        exact (Tab.look_filter 0 (48 ≤ ·) x.flags j).trans (if_pos (by simpa using high))
      · rw [left.croft]
        change Option.map _ (s.scheduled k pl) = match s.scheduled k pl with | none => none | some (n, p) => _
        cases s.scheduled k pl <;> rfl
    · obtain ⟨left, gt, recorded⟩ := tickStart_left_of_busy phys works plan running unpaused own sched idle
      refine ⟨_, run, by rw [left.croft]; rfl, gt, left.others, fun none => absurd none idle,
        fun _ => ⟨?_, ?_, ?_, recorded, left.frame⟩⟩
      all_goals rw [left.croft]; rfl
  · intro i w e named short few clear
    have room : x.mayIssue e i = true := by simpa [Croft.mayIssue, short, few] using clear
    obtain ⟨gt, left⟩ := wordIssue_of_room phys works prog left bad soft named room
    refine ⟨_, exec_wordIssue hc s, ?_, fun f hf => ?_, ?_, ?_, ?_, ?_, left.others, left.frame⟩
    all_goals rw [left.croft]
    · exact Croft.issued_queue_self ..
    · exact Croft.issued_queue_of_ne hf ..
    · rfl
    · rfl
    · exact Croft.setQueue_pantry ..
    · exact Croft.setQueue_flags ..
  · refine ⟨fun done => ?_, fun done step => ?_⟩
    · obtain ⟨z, tg, left, pantry, own, queues, flags, tflags⟩ := wordRetire_of_done phys queued works done
      exact ⟨_, exec_wordRetire hc e s, left.croft ▸ own, left.croft ▸ queues, left.croft ▸ flags, left.tflags ▸ tflags,
        left.croft ▸ pantry, left.others, left.frame⟩
    · rw [exec_wordRetire hc, wordRetire_of_unstarted phys queued done step]
  · rw [exec_wordRetire hc, wordRetire_of_empty phys empty]
  · have run := exec_computeWord listed hc s
    refine ⟨fun idle => ?_, fun q next => ?_⟩
    · rw [run, startWord_of_idle phys works idle]
    refine ⟨fun blocked => ?_, fun named met => ?_⟩
    · rw [run, startWord_of_blocked phys works next blocked]
    intro tile
    refine ⟨?_, ?_, ?_, ?_⟩
    · rintro rfl untiled unarmed
      rcases op_of_mx listed rfl with rfl | rfl
      · exact nomatch untiled
      · rw [run, startWord_of_refused phys works next named met (f := wordAction c .mx 1) (mxReuse_of_untiled unarmed untiled)]
    · rintro ⟨unarmed, bad, soft⟩ eff which
      have has : s.HasEffect c k e op q eff := by
        rcases which with ⟨array, t, tiled, rfl⟩ | ⟨vector, other, rfl⟩ | ⟨vector, split, rfl⟩
        · exact .inl ⟨array, t, tiled, rfl⟩
        · exact .inr ⟨vector, (if_neg other).symm⟩
        · exact .inr ⟨vector, (if_pos split).symm⟩
      obtain ⟨a, done, array, vector⟩ := wordAction_computes q unarmed bad soft listed has
      obtain ⟨gt, left⟩ := startWord_left phys works next named met done.went done.left
      refine ⟨_, run, ⟨?_, fun f hf => ?_⟩, ?_, ?_, ?_, ?_, ?_, ?_, fun h => ?_, fun h => ?_, ?_, ?_, ?_, ?_, ?_, left.others,
        left.frame⟩
      all_goals rw [left.croft]
      · rw [Croft.started_queue_self, Croft.effected_queue]
      · rw [Croft.started_queue_of_ne hf, Croft.effected_queue]
      · exact Croft.setQueue_pantry ..
      · exact Croft.setQueue_nonfinite ..
      · exact Croft.setQueue_invalid ..
      · exact Croft.setQueue_overflow ..
      · exact Croft.setQueue_histSat ..
      · exact Croft.setQueue_ovfBlocks ..
      · obtain ⟨active, lambda⟩ := array h
        exact ⟨(Croft.setQueue_active ..).trans active, (Croft.setQueue_lambda ..).trans lambda⟩
      · obtain ⟨active, shadow⟩ := vector h
        exact ⟨(Croft.setQueue_active ..).trans active, (Croft.setQueue_shadow ..).trans shadow⟩
      · exact Croft.setQueue_flags ..
      · exact Croft.setQueue_store ..
      · exact Croft.setQueue_prog ..
      · exact Croft.setQueue_posts ..
      · exact Croft.setQueue_step ..
    · rintro rfl other
      obtain ⟨y, tf, went, kept, pantry, queues, flags, tflags⟩ := flWord_writes k c op (op_of_fl listed rfl) other q s
      obtain ⟨gt, left⟩ := startWord_left phys works next named met went kept
      refine ⟨_, run, ⟨?_, fun f hf => ?_⟩, ?_, fun j => ?_, fun j => ?_, left.others, left.frame⟩
      · rw [left.croft, Croft.started_queue_self, queues]
      · rw [left.croft, Croft.started_queue_of_ne hf, queues]
      · rw [left.croft]
        exact (Croft.setQueue_pantry ..).trans pantry
      · rw [left.croft]
        exact (congrArg (Tab.look 0 · j) (Croft.setQueue_flags ..)).trans (flags j)
      · rw [left.tflags]
        exact tflags j
    · rintro rfl rfl f b field v
      have arrived : (wordAction c .fl 5 k q s).2 = v := flBarrierDo_of_field field
      rw [run, startWord_of_went phys works next named met rfl, arrived]
      rfl

end

section
/-! SUPPORT. Tracts, pages, sessions and runs (R206, R207): what each reads after an update of another, and what
recording a fault, sending a packet or the passing of GT leaves of the Cellar. -/

namespace Sys2Proof.Machine

/-! ## Operations that leave the Cellar -/

theorem State.tract_congr {s t : State} (h : t.cel = s.cel) (v : Nat) : t.tract v = s.tract v := by
  rw [State.tract, h, State.tract]

theorem State.page_congr {s u : State} {t : Nat} (h : (u.tract t).pages = (s.tract t).pages) (g : Nat) :
    u.page t g = s.page t g := congrArg (fun p : Tab Desc => Tab.look ({} : Desc) p g) h

theorem State.sess_congr {s u : State} {t : Nat} (h : (u.tract t).sessions = (s.tract t).sessions) (sid : Nat) :
    u.sess t sid = s.sess t sid :=
  congrArg (fun p : Tab (Option Sess) => Tab.look none p sid) h

theorem State.run_congr {s u : State} {t : Nat} (h : (u.tract t).runs = (s.tract t).runs) (n : Nat) :
    u.run t n = s.run t n := congrArg (fun p : Tab (Option Run) => Tab.look none p n) h

@[simp] theorem recordFault_cel (e : FaultEvent) (s : State) : (recordFault e s).cel = s.cel :=
  (recordFault_changes (.refl _ s) (List.Subset.refl _)).cel_eq (by decide) (by decide)

@[simp] theorem recordFault_tract (e : FaultEvent) (s : State) (v : Nat) : (recordFault e s).tract v = s.tract v :=
  State.tract_congr (recordFault_cel e s) v

@[simp] theorem logRetired_cel (t g access : Nat) (s : State) : (logRetired t g access s).cel = s.cel := recordFault_cel ..

@[simp] theorem logRetired_tract (t g access : Nat) (s : State) (v : Nat) :
    (logRetired t g access s).tract v = s.tract v := recordFault_tract ..

@[simp] theorem useInjection_cel (stay : Bool) (s : State) : (useInjection stay s).cel = s.cel := rfl

@[simp] theorem inject_cel (slot : Nat) (p : Packet) (s : State) : (inject slot p s).cel = s.cel :=
  (inject_changes (.refl _ s) (List.Subset.refl _)).cel_eq (by decide) (by decide)

@[simp] theorem sendMirror_cel (dev sid mseq op layer off aux : Nat) (data : Bytes) (s : State) :
    (sendMirror dev sid mseq op layer off aux data s).cel = s.cel := inject_cel ..

@[simp] theorem advanceTo_cel (l : Nat) (s : State) : (advanceTo l s).cel = s.cel :=
  (advanceTo_frame l s).cel_eq (by decide) (by decide)

@[simp] theorem takeInbox_cel (p : Packet) (s : State) : (takeInbox p s).cel = s.cel := rfl

/-! ## Reads after updates -/

theorem State.modCel_tract {f : Cel → Cel} {s : State} (h : (f s.cel).tracts = s.cel.tracts) (v : Nat) :
    (s.modCel f).tract v = s.tract v := congrArg (fun c : Tab Tract => Tab.look ({} : Tract) c v) h

theorem State.modTract_tract_of_ne {t v : Nat} (h : v ≠ t) (f : Tract → Tract) (s : State) :
    (s.modTract t f).tract v = s.tract v := by
  rw [State.modTract_tract, if_neg h]

theorem State.modTract_page {f : Tract → Tract} (h : ∀ r, (f r).pages = r.pages) (v : Nat) (s : State) (t g : Nat) :
    (s.modTract v f).page t g = s.page t g := by
  refine State.page_congr ?_ g
  rw [State.modTract_tract]
  split
  · rename_i tv
    rw [h, tv]
  · rfl

theorem State.modTract_sess {f : Tract → Tract} (h : ∀ r, (f r).sessions = r.sessions) (v : Nat) (s : State) (t sid : Nat) :
    (s.modTract v f).sess t sid = s.sess t sid := by
  refine State.sess_congr ?_ sid
  rw [State.modTract_tract]
  split
  · rename_i tv
    rw [h, tv]
  · rfl

theorem State.modTract_run {f : Tract → Tract} (h : ∀ r, (f r).runs = r.runs) (v : Nat) (s : State) (t n : Nat) :
    (s.modTract v f).run t n = s.run t n := by
  refine State.run_congr ?_ n
  rw [State.modTract_tract]
  split
  · rename_i tv
    rw [h, tv]
  · rfl

theorem State.modPage_page (t g : Nat) (f : Desc → Desc) (s : State) (h : Nat) :
    (s.modPage t g f).page t h = if h = g then f (s.page t g) else s.page t h := by
  simp only [State.page, State.modPage, State.modTract_tract_self, Tab.look_edit]

@[simp] theorem State.modPage_page_self (t g : Nat) (f : Desc → Desc) (s : State) :
    (s.modPage t g f).page t g = f (s.page t g) := by rw [State.modPage_page, if_pos rfl]

theorem State.modPage_page_of_ne {t g h : Nat} (ne : h ≠ g) (f : Desc → Desc) (s : State) :
    (s.modPage t g f).page t h = s.page t h := by rw [State.modPage_page, if_neg ne]

/-- An update of a page touches of its Tract the pages alone. -/
theorem State.modPage_tract (t g : Nat) (f : Desc → Desc) (s : State) :
    (s.modPage t g f).tract t = { s.tract t with pages := Tab.edit {} (s.tract t).pages g f } :=
  State.modTract_tract_self ..

theorem State.modPage_tract_of_ne {t v : Nat} (h : v ≠ t) (g : Nat) (f : Desc → Desc) (s : State) :
    (s.modPage t g f).tract v = s.tract v := State.modTract_tract_of_ne h ..

theorem State.modRun_run (t n : Nat) (f : Run → Run) (s : State) (m : Nat) :
    (s.modRun t n f).run t m = if m = n then (s.run t n).map f else s.run t m := by
  simp only [State.run, State.modRun, State.modTract_tract_self, Tab.look_edit]

@[simp] theorem State.modRun_page (v n : Nat) (f : Run → Run) (s : State) (t g : Nat) :
    (s.modRun v n f).page t g = s.page t g := by simp [State.modRun, State.modTract_page]

theorem State.modSess_sess (t sid : Nat) (f : Sess → Sess) (s : State) (x : Nat) :
    (s.modSess t sid f).sess t x = if x = sid then (s.sess t sid).map f else s.sess t x := by
  simp only [State.sess, State.modSess, State.modTract_tract_self, Tab.look_edit]

@[simp] theorem State.modSess_sess_self (t sid : Nat) (f : Sess → Sess) (s : State) :
    (s.modSess t sid f).sess t sid = (s.sess t sid).map f := by rw [State.modSess_sess, if_pos rfl]

/-- An update of a session touches of its Tract the sessions alone. -/
theorem State.modSess_tract (t sid : Nat) (f : Sess → Sess) (s : State) :
    (s.modSess t sid f).tract t =
      { s.tract t with sessions := Tab.edit none (s.tract t).sessions sid (Option.map f) } :=
  State.modTract_tract_self ..

@[simp] theorem State.modSess_page (v sid : Nat) (f : Sess → Sess) (s : State) (t g : Nat) :
    (s.modSess v sid f).page t g = s.page t g := by simp [State.modSess, State.modTract_page]

@[simp] theorem State.modSess_run (v sid : Nat) (f : Sess → Sess) (s : State) (t n : Nat) :
    (s.modSess v sid f).run t n = s.run t n := by simp [State.modSess, State.modTract_run]

@[simp] theorem State.modPage_sess (v g : Nat) (f : Desc → Desc) (s : State) (t sid : Nat) :
    (s.modPage v g f).sess t sid = s.sess t sid := by simp [State.modPage, State.modTract_sess]

@[simp] theorem State.modRun_sess (v n : Nat) (f : Run → Run) (s : State) (t sid : Nat) :
    (s.modRun v n f).sess t sid = s.sess t sid := by simp [State.modRun, State.modTract_sess]

/-! ## Pages handled one after another -/

section
variable {t : Nat} {F : State → Nat → State} (apart : ∀ s g h, h ≠ g → (F s g).page t h = s.page t h)
include apart

theorem foldl_page_of_not_mem {l : List Nat} {h : Nat} (out : h ∉ l) (s : State) : (l.foldl F s).page t h = s.page t h := by
  induction l generalizing s with
  | nil => rfl
  | cons g r ih =>
    rw [List.foldl_cons, ih (List.not_mem_of_not_mem_cons out), apart _ _ _ (List.ne_of_not_mem_cons out)]

/-- What each step makes of its own page holds of every page of the list, where it holds on through further steps. -/
theorem foldl_page_of_mem {P Q : Desc → Prop} (own : ∀ s g, Q (s.page t g) → P ((F s g).page t g))
    (again : ∀ d, P d → Q d) {l : List Nat} {h : Nat} (mem : h ∈ l) {s : State} (start : Q (s.page t h)) :
    P ((l.foldl F s).page t h) := by
  induction l using List.reverseRecOn with
  | nil => cases mem
  | append_singleton r g ih =>
    have before : Q ((r.foldl F s).page t h) := by
      by_cases hr : h ∈ r
      · exact again _ (ih hr)
      · rwa [foldl_page_of_not_mem apart hr]
    rw [List.foldl_append, List.foldl_cons, List.foldl_nil]
    by_cases hg : h = g
    · subst hg
      exact own _ _ before
    · rw [apart _ _ _ hg]
      exact ih (by simpa [hg] using mem)

end

theorem mem_putUp {n x : Nat} {l : List Nat} : x ∈ putUp n l ↔ x = n ∨ x ∈ l := by
  induction l with
  | nil => simp [putUp]
  | cons m r ih =>
    rw [putUp]
    split
    · rw [List.mem_cons]
    · rw [List.mem_cons, ih, List.mem_cons, or_left_comm]

theorem mem_sortUp {x : Nat} {l : List Nat} : x ∈ sortUp l ↔ x ∈ l := by
  induction l with
  | nil => rfl
  | cons n r ih => rw [sortUp, List.foldr_cons, mem_putUp, List.mem_cons, ← ih, sortUp]

/-! ## Numbers of runs, pages that leave -/

/-- A table of `n` entries leaves one of the first `n + 1` numbers free. -/
theorem Tract.look_freeRun (r : Tract) : Tab.look none r.runs r.freeRun = none := by
  unfold Tract.freeRun
  cases found : (List.range (r.runs.length + 1)).find? (fun n => (Tab.look none r.runs n).isNone) with
  | some n => simpa using List.find?_some found
  | none =>
    have taken : List.range (r.runs.length + 1) ⊆ r.runs.map (·.1) := fun n hn => by
      have listed : Tab.look none r.runs n ≠ none := by
        simpa [Option.isNone_iff_eq_none] using List.find?_eq_none.1 found n hn
      exact List.mem_map.2 ⟨_, Tab.mem_of_look listed rfl, rfl⟩
    have few := (List.nodup_range.subperm taken).length_le
    simp at few

/-- A page that leaves is FREE, or RETIRED with RETIRE_PEND. -/
theorem leavePage_page (t g access : Nat) (s : State) (h : Nat) : (leavePage t g access s).page t h =
    if h = g then { lastPc := (s.page t g).lastPc, retirePend := (s.page t g).retirePend
                    state := if (s.page t g).retirePend then .retired else .free } else s.page t h := by
  rw [← State.modPage_page t g (fun d => { lastPc := d.lastPc, retirePend := d.retirePend
                                           state := if d.retirePend then .retired else .free })]
  unfold leavePage
  dsimp only
  split
  · exact State.page_congr (congrArg Tract.pages (logRetired_tract ..)) h
  · rfl

end Sys2Proof.Machine
end

section
/-! SUPPORT. SHARE, ADD_OWNER and RELEASE (Table 8-5): each operation in the cases that a run's owners meet. -/

namespace Sys2Proof.Machine

variable {t n sid : Nat} {s : State}

/-! ## The commands outside the fatal state -/

section
variable (ht : t < 32) (hs : sid < 0xFFFFFFFF) (live : s.flt.fatal = none)
include ht hs live

theorem exec_share {pfx : Nat} (hp : pfx < 0xFFFFFFFF) :
    exec (.share t pfx sid) s = .next (stkShare t pfx sid s).2 := by
  change execShare t pfx sid s = _
  simp [execShare, need, Wf.tract, Wf.session, ht, hs, hp, State.isFatal, live]

theorem exec_addOwner (hn : n < 0x10000) : exec (.addOwner t n sid) s = .next (stkAddOwner t n sid s).2 := by
  change execAddOwner t n sid s = _
  simp [execAddOwner, need, Wf.tract, Wf.session, Wf.run, ht, hs, hn, State.isFatal, live]

theorem exec_stkRelease (hn : n < 0x10000) : exec (.stkRelease t n sid) s = .next (stkRelease t n sid s).2 := by
  change execStkRelease t n sid s = _
  simp [execStkRelease, need, Wf.tract, Wf.session, Wf.run, ht, hs, hn, State.isFatal, live]

end

/-! ## What each does -/

/-- A page of a session becomes a page of its run. -/
def Desc.shareAs (n : Nat) (d : Desc) : Desc := { d with state := .shared, owner := nobody, run := n }

/-- The pages of a list are shared under a run number. -/
def sharePages (t n : Nat) (l : List Nat) (s : State) : State := l.foldl (fun u g => u.modPage t g (Desc.shareAs n)) s

/-- The run that SHARE opens. -/
def Sess.openedRun (pfx grafter : Nat) (x : Sess) : Run :=
  { pfx := pfx, owners := [pfx, grafter], pages := x.chains, tokens := Tab.look 0 x.counts 0, geo := x.geo }

theorem sharePages_page_of_mem {l : List Nat} {g : Nat} (mem : g ∈ l) (s : State) :
    ((sharePages t n l s).page t g).state = .shared ∧ ((sharePages t n l s).page t g).run = n :=
  foldl_page_of_mem (P := fun d => d.state = .shared ∧ d.run = n) (Q := fun _ => True)
    (fun _ _ _ ne => State.modPage_page_of_ne ne ..) (fun _ _ _ => by rw [State.modPage_page_self]; exact ⟨rfl, rfl⟩)
    (fun _ _ => trivial) mem trivial

theorem sharePages_page_of_not_mem {l : List Nat} {g : Nat} (out : g ∉ l) (s : State) :
    (sharePages t n l s).page t g = s.page t g :=
  foldl_page_of_not_mem (fun _ _ _ ne => State.modPage_page_of_ne ne ..) out s

theorem sharePages_tract_of_ne {v : Nat} (ne : v ≠ t) (l : List Nat) (s : State) :
    (sharePages t n l s).tract v = s.tract v :=
  foldl_keeps (π := fun u => u.tract v) (fun _ _ => State.modPage_tract_of_ne ne ..) l s

theorem stkShare_of_held {pfx : Nat} {x : Sess} (open_ : (s.tract t).fenced = false) (sess : s.sess t pfx = some x)
    (some_ : x.ownPages ≠ []) (held : ∀ g ∈ x.ownPages, (s.page t g).state = .held ∧ (s.page t g).owner = pfx)
    (runs : (s.tract t).runs.length < 65536) (roll : (s.tract t).roll + 2 ≤ 1048576) :
    (stkShare t pfx sid s).2 = ((sharePages t (s.tract t).freeRun x.ownPages s).modTract t (fun r =>
      { r with runs := Tab.add (s.tract t).freeRun (some (x.openedRun pfx sid)) r.runs })).modSess t pfx
        (fun x => { x with chains := [], ownRun := some (s.tract t).freeRun }) := by
  have all : x.ownPages.all (fun g => (s.page t g).state == .held && (s.page t g).owner == pfx) = true := by
    simpa using held
  simp only [stkShare, open_, sess, all, List.isEmpty_eq_false_iff.2 some_, Nat.not_le.2 runs, Nat.not_lt.2 roll]
  rfl

theorem stkAddOwner_of_shared {r : Run} (open_ : (s.tract t).fenced = false) (run : s.run t n = some r)
    (shared : ∀ g ∈ r.all, (s.page t g).state = .shared ∧ (s.page t g).run = n) (owners : r.owners.length < 65535)
    (roll : (s.tract t).roll + 1 ≤ 1048576) : (stkAddOwner t n sid s).2 =
      s.modRun t n (fun r => { r with owners := r.owners ++ [sid], lastOwner := nobody }) := by
  have all : r.all.all (fun g => (s.page t g).state == .shared && (s.page t g).run == n) = true := by
    simpa using shared
  simp only [stkAddOwner, open_, run, all, Nat.not_le.2 owners, Nat.not_lt.2 roll]
  rfl

section
variable {r : Run} (open_ : (s.tract t).fenced = false) (run : s.run t n = some r)
include open_ run

theorem stkRelease_of_several (owns : sid ∈ r.owners) (several : 1 < r.owners.length) : (stkRelease t n sid s).2 =
    s.modRun t n (fun x => { x with owners := r.owners.erase sid,
                                    lastOwner := match r.owners.erase sid with | [o] => o | _ => 0xFFFFFFFF }) := by
  simp only [stkRelease, open_, run, List.contains_iff_mem.2 owns, several]
  rfl

theorem stkRelease_of_stranger (owns : sid ∉ r.owners) : (stkRelease t n sid s).2 = countNlo t s := by
  simp [stkRelease, open_, run, owns]

/-- The last owner's RELEASE frees the pages in ascending order and closes the run. -/
theorem stkRelease_of_last (last : r.owners = [sid]) : (stkRelease t n sid s).2 =
    ((sortUp r.all).foldl (fun u g => leavePage t g 7 u) s).modTract t
      (fun x => { x with runs := Tab.drop n x.runs }) := by
  simp [stkRelease, open_, run, last]

end

/-- An update of a run leaves the Tract's pages and other runs. -/
theorem modRun_shown {r : Run} (run : s.run t n = some r) (f : Run → Run) : (s.modRun t n f).run t n = some (f r) ∧
    (∀ m, m ≠ n → (s.modRun t n f).run t m = s.run t m) ∧ (∀ g, (s.modRun t n f).page t g = s.page t g) ∧
    ∀ v, v ≠ t → (s.modRun t n f).tract v = s.tract v := by
  refine ⟨?_, fun m hm => ?_, fun g => State.modRun_page .., fun v hv => State.modTract_tract_of_ne hv ..⟩
  · rw [State.modRun_run, if_pos rfl, run, Option.map_some]
  · rw [State.modRun_run, if_neg hm]

/-- The pages of a run that closes leave; what they leave of its Tract is the pages alone. -/
theorem freedPages_page_of_mem {l : List Nat} {g : Nat} (mem : g ∈ l) (clear : (s.page t g).retirePend = false) :
    (((sortUp l).foldl (fun u g => leavePage t g 7 u) s).page t g).state = .free :=
  (foldl_page_of_mem (P := fun d => d.state = .free ∧ d.retirePend = false) (Q := fun d => d.retirePend = false)
    (fun _ _ _ ne => by rw [leavePage_page, if_neg ne])
    (fun u g q => by rw [leavePage_page, if_pos rfl]; simp [q]) (fun _ p => p.2) (mem_sortUp.2 mem) clear).1

theorem freedPages_page_of_not_mem {l : List Nat} {g : Nat} (out : g ∉ l) :
    ((sortUp l).foldl (fun u g => leavePage t g 7 u) s).page t g = s.page t g :=
  foldl_page_of_not_mem (fun _ _ _ ne => by rw [leavePage_page, if_neg ne]) (mt mem_sortUp.1 out) s

end Sys2Proof.Machine

open Sys2Proof Sys2Proof.Machine

/-- Settles O23, by what SHARE, ADD_OWNER and RELEASE make of the run in each of the cases; pages are shared and freed
one after another, each step at its own page. -/
theorem runsAreSharedAndReleased : Obligations.RunsAreSharedAndReleased := by
  unfold Obligations.RunsAreSharedAndReleased
  intro t sid s ht hs live open_
  refine ⟨fun pfx x hp sess some_ held runs roll => ?_, fun n r hn run => ⟨fun shared owners roll => ?_,
    fun owns several => ?_, fun owns => ?_, fun last => ?_⟩⟩
  · refine ⟨_, (s.tract t).freeRun, x.openedRun pfx sid, exec_share ht hs live hp, (s.tract t).look_freeRun, ?_, rfl, rfl, rfl,
      ?_, ?_, ?_, stkShare_changes (.refl _ s) (List.Subset.refl _)⟩
    all_goals rw [stkShare_of_held open_ sess some_ held runs roll]
    · rw [State.modSess_run, State.run, State.modTract_tract_self, Tab.look_add, if_pos rfl]
    · intro g hg
      rw [State.modSess_page, State.modTract_page fun r => by rfl]
      exact sharePages_page_of_mem hg s
    · intro g hg
      rw [State.modSess_page, State.modTract_page fun r => by rfl]
      exact sharePages_page_of_not_mem hg s
    · intro v hv
      rw [State.modSess, State.modTract_tract_of_ne hv, State.modTract_tract_of_ne hv, sharePages_tract_of_ne hv]
  · obtain ⟨here, others, pages, tracts⟩ := modRun_shown run
      (fun r => { r with owners := r.owners ++ [sid], lastOwner := nobody })
    rw [exec_addOwner ht hs live hn, stkAddOwner_of_shared open_ run shared owners roll]
    exact ⟨_, rfl, here, others, pages, tracts, State.modRun_changes (.refl _ s) (List.Subset.refl _)⟩
  · obtain ⟨here, others, pages, -⟩ := modRun_shown run (fun x => { x with
      owners := r.owners.erase sid, lastOwner := match r.owners.erase sid with | [o] => o | _ => 0xFFFFFFFF })
    rw [exec_stkRelease ht hs live hn, stkRelease_of_several open_ run owns several]
    exact ⟨_, rfl, here, others, pages, State.modRun_changes (.refl _ s) (List.Subset.refl _)⟩
  · rw [exec_stkRelease ht hs live hn, stkRelease_of_stranger open_ run owns]
    rfl
  · refine ⟨_, exec_stkRelease ht hs live hn, ?_, fun g hg clear => ?_, fun g hg => ?_,
      stkRelease_changes (.refl _ s) (by decide)⟩
    all_goals rw [stkRelease_of_last open_ run last]
    · rw [State.run, State.modTract_tract_self, Tab.look_drop, if_pos rfl]
    · rw [State.modTract_page fun r => by rfl]
      exact freedPages_page_of_mem hg clear
    · rw [State.modTract_page fun r => by rfl]
      exact freedPages_page_of_not_mem hg

end

section
/-! SUPPORT. Words of the stacks that fail (R214-R222): what a corrected error leaves, what the handling of an
uncorrectable word keeps of its record, what a fence leaves of a Tract and its Crofts. -/

namespace Sys2Proof.Machine

variable {t : Nat} {s : State}

/-! ## Corrected errors (R214) -/

/-- A corrected error counts in its Tract and its page. -/
theorem correctedError_cel (t off access : Nat) (inj : Bool) (s : State) : (correctedError t off access inj s).cel =
    ((s.modPage t (off / 65536) (fun d => { d with ce := satAdd 255 d.ce 1, lastPc := channelOf off })).modTract t
      (fun r => { r with ce := sat32 r.ce })).cel := recordFault_cel ..

theorem correctedError_noted (t off access : Nat) (inj : Bool) (s : State) :
    (∃ r ∈ (correctedError t off access inj s).attic.openRecs, r.source = 0x0501 ∧ r.unit = unitChannel t (channelOf off)) ∧
    (correctedError t off access inj s).flt.fatal = s.flt.fatal := by
  have noted := recordFault_of_not_ft
    (e := { source := 0x0501, unit := unitChannel t (channelOf off), cls := 1, access := access
            addr := cellarAddr t off, inj := inj }) (show 1 ≠ 3 by decide)
    ((s.modPage t (off / 65536) (fun d => { d with ce := satAdd 255 d.ce 1, lastPc := channelOf off })).modTract t
      (fun r => { r with ce := sat32 r.ce }))
  exact ⟨noted.opened, noted.frame .fatal (by decide)⟩

/-- A word that is written whole is neither correctable nor lost. -/
theorem freshWord_good (w : Nat) (s : State) : w ∉ (freshWord w s).cel.soft ∧ w ∉ (freshWord w s).cel.bad := by
  have unlisted : w ∉ (Tab.drop w s.cel.check).map (·.1) := fun h => by
    obtain ⟨e, he, rfl⟩ := List.mem_map.1 h
    exact Tab.ne_of_mem_drop he rfl
  refine ⟨fun h => unlisted (List.mem_of_mem_filter h), fun h => ?_⟩
  rcases List.mem_append.1 h with h | h
  · simpa using (List.mem_filter.1 h).2
  · exact unlisted (List.mem_of_mem_filter h)

/-! ## The record of a lost word through its handling -/

/-- The words found uncorrectable, and a Tract's count of them. -/
def State.lost (s : State) (t : Nat) : List Nat × Nat := (s.cel.ue, (s.tract t).ue)

theorem State.lost_congr {s u : State} (h : u.cel = s.cel) (t : Nat) : u.lost t = s.lost t := by
  rw [State.lost, State.tract_congr h, h, State.lost]

@[simp] theorem State.modTract_lost {v : Nat} {f : Tract → Tract} (h : ∀ r, (f r).ue = r.ue) (s : State) (t : Nat) :
    (s.modTract v f).lost t = s.lost t := by
  rw [State.lost, State.modTract_tract]
  split
  · rename_i hv
    rw [h, hv]
    rfl
  · rfl

theorem State.modPage_lost (v g : Nat) (f : Desc → Desc) (s : State) : (s.modPage v g f).lost t = s.lost t :=
  State.modTract_lost (fun r => by rfl) ..

theorem State.modSess_lost (v sid : Nat) (f : Sess → Sess) (s : State) : (s.modSess v sid f).lost t = s.lost t :=
  State.modTract_lost (fun r => by rfl) ..

theorem State.modRun_lost (v n : Nat) (f : Run → Run) (s : State) : (s.modRun v n f).lost t = s.lost t :=
  State.modTract_lost (fun r => by rfl) ..

theorem logRetired_lost (v g access : Nat) (s : State) : (logRetired v g access s).lost t = s.lost t :=
  State.lost_congr (logRetired_cel ..) t

theorem countNlo_lost (v : Nat) (s : State) : (countNlo v s).lost t = s.lost t := State.modTract_lost (fun r => by rfl) ..

theorem leavePage_lost (v g access : Nat) (s : State) : (leavePage v g access s).lost t = s.lost t := by
  unfold leavePage
  dsimp only
  split
  · rw [logRetired_lost, State.modPage_lost]
  · rw [State.modPage_lost]

theorem unlink_lost (v g : Nat) (chain : List Nat) (s : State) : (unlink v g chain s).lost t = s.lost t := by
  unfold unlink
  split
  · rw [State.modPage_lost]
  · rfl

theorem stkFree_lost (v g requester : Nat) (s : State) : (stkFree v g requester s).2.lost t = s.lost t := by
  unfold stkFree
  split
  · rfl
  · dsimp only
    split
    · split
      · rw [countNlo_lost]
      · rw [State.modSess_lost, leavePage_lost, unlink_lost]
    · split
      · split
        · split
          · dsimp only
            rw [State.modTract_lost (fun r => by rfl), State.modRun_lost, leavePage_lost, unlink_lost]
          · rw [State.modRun_lost, leavePage_lost, unlink_lost]
        · rw [countNlo_lost]
      · rw [countNlo_lost]
    · rw [State.lost_congr (recordFault_cel ..), State.modTract_lost (fun r => by rfl)]

theorem stkRelease_lost (v n requester : Nat) (s : State) : (stkRelease v n requester s).2.lost t = s.lost t := by
  unfold stkRelease
  split
  · rfl
  · split
    · rw [countNlo_lost]
    · split
      · rw [countNlo_lost]
      · split
        · exact State.modRun_lost ..
        · dsimp only
          rw [State.modTract_lost (fun r => by rfl)]
          exact foldl_keeps (π := (State.lost · t)) (fun u g => leavePage_lost ..) _ s

theorem freeSession_lost (v sid : Nat) (s : State) : (freeSession v sid s).lost t = s.lost t := by
  unfold freeSession
  split
  · rfl
  · dsimp only
    rw [State.modTract_lost (fun r => by rfl), foldl_keeps (π := (State.lost · t)) (fun u r => stkRelease_lost ..),
      foldl_keeps (π := (State.lost · t)) (fun u g => stkFree_lost ..)]

theorem partnerBreak_lost (v sid reason : Nat) (s : State) : (partnerBreak v sid reason s).lost t = s.lost t := by
  unfold partnerBreak
  split
  · rfl
  · rw [freeSession_lost, State.lost_congr (sendMirror_cel ..)]

theorem mirrorDamaged_lost (v g : Nat) (s : State) : (mirrorDamaged v g s).lost t = s.lost t := by
  unfold mirrorDamaged
  split
  · rfl
  · split
    · rw [partnerBreak_lost]
    · split
      · split
        · split
          · rfl
          · exact State.lost_congr (sendMirror_cel ..) t
        · rfl
      · rfl

theorem queueRow_lost (v pc g : Nat) (s : State) : (queueRow v pc g s).lost t = s.lost t :=
  State.modTract_lost (fun r => by split <;> rfl) ..

theorem retirePage_lost (v g access : Nat) (s : State) : (retirePage v g access s).lost t = s.lost t := by
  unfold retirePage
  split
  · split
    · rw [logRetired_lost, State.modPage_lost]
    · rw [State.modPage_lost]
  · rfl
  · rw [State.modPage_lost]

theorem repairFor_lost (v pc g access : Nat) (s : State) : (repairFor v pc g access s).lost t = s.lost t := by
  unfold repairFor
  split
  · rw [queueRow_lost]
  · rw [retirePage_lost]
    rfl

theorem retentionUe_cel (t off : Nat) (s : State) : (retentionUe t off s).cel = s.cel :=
  (retentionUe_changes (.refl _ s) (List.Subset.refl _)).cel_eq (by decide) (by decide)

/-! ## A fence (R222) -/

/-- A Tract as its fence leaves it. -/
def Tract.fence (r : Tract) : Tract :=
  { r with
    fenced := true, quiesce := false, repairing := false, repairQ := [], sessions := [], runs := [], reclaimQ := []
    mirOut := [], mirHeld := [], mirIn := [], early := [] }

/-- The state of a Tract's fence before its Crofts are fenced. -/
def lostTract (t : Nat) (s : State) : State :=
  let copies := (s.tract t).sessions.filterMap (fun e => (e.2.bind (·.copyOf)).map (fun p => (e.1, p)))
  foldTractLost t (copies.foldl (fun s e => sendMirror e.2 e.1 0 moBreak 0 0 4 [] s) s)

theorem lostTract_cel (t : Nat) (s : State) : (lostTract t s).cel = s.cel := by
  refine ((foldTractLost_changes (.refl _ _) (List.Subset.refl _)).cel_eq (by decide) (by decide)).trans ?_
  exact foldl_keeps (π := State.cel) (fun u e => sendMirror_cel ..) _ s

theorem fenceTract_of_open (open_ : (s.tract t).fenced = false) : fenceTract t s =
    (tractCrofts t).foldl (fun u k => fenceCroft k u) ((lostTract t s).modTract t Tract.fence) := by
  unfold fenceTract
  rw [if_neg (by simp [open_])]
  rfl

theorem fenceTract_cel (open_ : (s.tract t).fenced = false) : (fenceTract t s).cel = (s.modTract t Tract.fence).cel := by
  rw [fenceTract_of_open open_, foldl_keeps (π := State.cel) (g := fun u k => fenceCroft k u) (fun _ _ => rfl)]
  exact congrArg (fun c : Cel => { c with tracts := Tab.edit {} c.tracts t Tract.fence }) (lostTract_cel t s)

theorem fenceTract_tract (open_ : (s.tract t).fenced = false) : (fenceTract t s).tract t = (s.tract t).fence := by
  rw [State.tract_congr (fenceTract_cel open_), State.modTract_tract_self]

theorem fenceTract_tract_of_ne {v : Nat} (ne : v ≠ t) (open_ : (s.tract t).fenced = false) :
    (fenceTract t s).tract v = s.tract v := by
  rw [State.tract_congr (fenceTract_cel open_), State.modTract_tract_of_ne ne]

theorem foldl_fenceCroft {l : List Nat} {k : Nat} (mem : k ∈ l) (s : State) :
    ((l.foldl (fun u k => fenceCroft k u) s).croft k).fenced = true := by
  induction l using List.reverseRecOn with
  | nil => cases mem
  | append_singleton r j ih =>
    rw [List.foldl_append, List.foldl_cons, List.foldl_nil, fenceCroft, State.modCroft_croft]
    split
    · rfl
    · exact ih (by simp_all)

theorem fenceTract_croft (open_ : (s.tract t).fenced = false) {q : Nat} (hq : q < 136) :
    ((fenceTract t s).croft (136 * t + q)).fenced = true := by
  rw [fenceTract_of_open open_]
  exact foldl_fenceCroft (List.mem_map.2 ⟨q, List.mem_range.2 hq, rfl⟩) _

theorem fenceTract_lost (open_ : (s.tract t).fenced = false) : (fenceTract t s).lost t = s.lost t := by
  rw [State.lost_congr (fenceTract_cel open_), State.modTract_lost (fun r => by rfl)]

/-! ## An uncorrectable word (R217, R219) -/

/-- The word is held as bad and its Tract counts it. -/
def noteLost (t off : Nat) (s : State) : State :=
  (s.modCel (fun c => { c with ue := insertUp (cellarAddr t off / 32) c.ue })).modTract t
    (fun r => { r with ue := sat32 r.ue })

/-- The word's event (0x0504). -/
def lostEvent (t off : Nat) (scrub inj : Bool) : FaultEvent :=
  { source := 0x0504, unit := unitChannel t (channelOf off), cls := 2, access := if scrub then 5 else 1
    addr := cellarAddr t off, inj := inj }

/-- The word is noted and its event recorded; an access to the tables records the Tract's fence alone. -/
def recordLost (t off : Nat) (scrub inj : Bool) (s : State) : State :=
  if s.regionOf t (off / 65536) = .tables && !scrub then noteLost t off s
  else recordFault (lostEvent t off scrub inj) (noteLost t off s)

theorem recordLost_cel (t off : Nat) (scrub inj : Bool) (s : State) :
    (recordLost t off scrub inj s).cel = (noteLost t off s).cel := by
  unfold recordLost
  split
  · rfl
  · rw [recordFault_cel]

theorem noteLost_tract (t off : Nat) (s : State) :
    (noteLost t off s).tract t = { s.tract t with ue := sat32 (s.tract t).ue } := State.modTract_tract_self ..

theorem recordLost_tract (t off : Nat) (scrub inj : Bool) (s : State) :
    (recordLost t off scrub inj s).tract t = { s.tract t with ue := sat32 (s.tract t).ue } := by
  rw [State.tract_congr (recordLost_cel ..), noteLost_tract]

theorem recordLost_lost (t off : Nat) (scrub inj : Bool) (s : State) : (recordLost t off scrub inj s).lost t =
    (insertUp (cellarAddr t off / 32) s.cel.ue, sat32 (s.tract t).ue) := by
  rw [State.lost, recordLost_tract, recordLost_cel]
  rfl

/-- The fence of a Tract for a word of the Storekeeper's tables. -/
def tableLost (t off : Nat) (scrub inj : Bool) (s : State) : State :=
  fenceTract t ((recordFault { source := 0x0506, unit := unitTract t, cls := 2, access := if scrub then 5 else 1
                               addr := cellarAddr t off, inj := inj, fenced := true } s).modTract t
    (fun r => { r with tableUe := true }))

/-- A page of the pool that holds a lost word is damaged. -/
def pageLost (t off : Nat) (scrub : Bool) (s : State) : State :=
  mirrorDamaged t (off / 65536) (repairFor t (channelOf off) (off / 65536) (if scrub then 5 else 1)
    (s.modPage t (off / 65536) (fun d => { d with damaged := true, lastPc := channelOf off })))

/-- A lost word outside the tables and the pages of the pool in use queues its row, where its page is usable. -/
def rowLost (t off : Nat) (scrub : Bool) (s : State) : State :=
  repairFor t (channelOf off) (off / 65536) (if scrub then 5 else 1)
    (s.modPage t (off / 65536) (fun d => { d with lastPc := channelOf off }))

/-- What the handling of a lost word can do (Table 8-7): the Tract is fenced, or the page is damaged, or at most the row is
queued. -/
theorem ueAt_cases (open_ : (s.tract t).fenced = false) (off : Nat) (scrub inj : Bool) :
    (s.regionOf t (off / 65536) = .tables ∧ ueAt t off scrub inj s = tableLost t off scrub inj (recordLost t off scrub inj s)) ∨
    (s.regionOf t (off / 65536) = .pool ∧ ueAt t off scrub inj s = pageLost t off scrub (recordLost t off scrub inj s)) ∨
    (s.regionOf t (off / 65536) ≠ .tables ∧ (s.regionOf t (off / 65536) = .pool →
      (s.page t (off / 65536)).state = .retired ∨ (s.page t (off / 65536)).state = .free) ∧
      ∃ v, v.cel = (recordLost t off scrub inj s).cel ∧
        (ueAt t off scrub inj s = v ∨ ueAt t off scrub inj s = rowLost t off scrub v)) := by
  have noted : (noteLost t off s).regionOf t (off / 65536) = s.regionOf t (off / 65536) := rfl
  have page : (recordLost t off scrub inj s).page t (off / 65536) = s.page t (off / 65536) :=
    State.page_congr (by rw [recordLost_tract]) _
  unfold noteLost at noted
  have other (ht : s.regionOf t (off / 65536) ≠ .tables) (hp : s.regionOf t (off / 65536) ≠ .pool) :
      let v := if s.regionOf t (off / 65536) = .retention then retentionUe t off (recordLost t off scrub inj s)
        else recordLost t off scrub inj s
      ueAt t off scrub inj s = if firstUsable ≤ off / 65536 then rowLost t off scrub v else v := by
    cases region : s.regionOf t (off / 65536)
    case tables => exact absurd region ht
    case pool => exact absurd region hp
    all_goals
      simp only [ueAt, open_, noted, region, recordLost]
      rfl
  have kept : (if s.regionOf t (off / 65536) = .retention then retentionUe t off (recordLost t off scrub inj s)
        else recordLost t off scrub inj s).cel = (recordLost t off scrub inj s).cel := by
    split
    · rw [retentionUe_cel]
    · rfl
  by_cases ht : s.regionOf t (off / 65536) = .tables
  · refine .inl ⟨ht, ?_⟩
    simp only [ueAt, open_, noted, ht, recordLost]
    rfl
  · by_cases hp : s.regionOf t (off / 65536) = .pool
    · have run : ueAt t off scrub inj s = if (s.page t (off / 65536)).state = .retired ∨ (s.page t (off / 65536)).state = .free
          then rowLost t off scrub (recordLost t off scrub inj s) else pageLost t off scrub (recordLost t off scrub inj s) := by
        rw [← page]
        simp only [ueAt, open_, noted, hp, recordLost, Bool.or_eq_true, decide_eq_true_eq]
        rfl
      by_cases used : (s.page t (off / 65536)).state = .retired ∨ (s.page t (off / 65536)).state = .free
      · exact .inr (.inr ⟨ht, fun _ => used, _, rfl, .inr (run.trans (if_pos used))⟩)
      · exact .inr (.inl ⟨hp, run.trans (if_neg used)⟩)
    · refine .inr (.inr ⟨ht, fun h => absurd h hp, _, kept, ?_⟩)
      rw [other ht hp]
      split
      · exact .inr rfl
      · exact .inl rfl

/-- A lost word is held as bad and counted, whatever its region. -/
theorem ueAt_lost (open_ : (s.tract t).fenced = false) (off : Nat) (scrub inj : Bool) : (ueAt t off scrub inj s).lost t =
    (insertUp (cellarAddr t off / 32) s.cel.ue, sat32 (s.tract t).ue) := by
  have still : ((recordLost t off scrub inj s).tract t).fenced = false := by rw [recordLost_tract]; exact open_
  rw [← recordLost_lost t off scrub inj s]
  obtain ⟨-, run⟩ | ⟨-, run⟩ | ⟨-, -, v, kept, run | run⟩ := ueAt_cases open_ off scrub inj
  · rw [run, tableLost, fenceTract_lost, State.modTract_lost (fun r => by rfl), State.lost_congr (recordFault_cel ..)]
    rw [State.modTract_tract_self, recordFault_tract]
    exact still
  · rw [run, pageLost, mirrorDamaged_lost, repairFor_lost, State.modPage_lost]
  · rw [run, State.lost_congr kept]
  · rw [run, rowLost, repairFor_lost, State.modPage_lost, State.lost_congr kept]

theorem ueAt_bad (open_ : (s.tract t).fenced = false) (off : Nat) (scrub inj : Bool) :
    cellarAddr t off / 32 ∈ (ueAt t off scrub inj s).cel.bad := by
  have held : (ueAt t off scrub inj s).cel.ue = insertUp (cellarAddr t off / 32) s.cel.ue :=
    congrArg Prod.fst (ueAt_lost open_ off scrub inj)
  refine List.mem_append_left _ ?_
  rw [held]
  exact mem_insertUp ..

theorem ueAt_of_tables (open_ : (s.tract t).fenced = false) {off : Nat} (region : s.regionOf t (off / 65536) = .tables)
    (scrub inj : Bool) : ((ueAt t off scrub inj s).tract t).fenced = true ∧
      ((ueAt t off scrub inj s).tract t).tableUe = true := by
  obtain ⟨-, run⟩ | ⟨pool, -⟩ | ⟨outside, -⟩ := ueAt_cases open_ off scrub inj
  · have still : ((recordLost t off scrub inj s).tract t).fenced = false := by rw [recordLost_tract]; exact open_
    rw [run, tableLost, fenceTract_tract]
    · rw [State.modTract_tract_self]
      exact ⟨rfl, rfl⟩
    · rw [State.modTract_tract_self, recordFault_tract]
      exact still
  · simp [pool] at region
  · exact absurd region outside

/-- The repair of a page in use may mark it RETIRE_PEND, and nothing else of it. -/
theorem repairFor_page {g : Nat} (used : (s.page t g).state = .held) (pc access : Nat) :
    ∃ pend, (repairFor t pc g access s).page t g = { s.page t g with retirePend := pend } := by
  unfold repairFor
  split
  · refine ⟨_, State.page_congr ?_ g⟩
    rw [queueRow, State.modTract_tract_self]
    split <;> rfl
  · refine ⟨true, ?_⟩
    have same : (s.modCel (fun c => { c with lastRepair := 3 })).page t g = s.page t g := rfl
    simp only [retirePage, same, used]
    rw [State.modPage_page_self, same, used]

theorem mirrorDamaged_cel {g : Nat} (own : (s.page t g).mirrorPool = false) : (mirrorDamaged t g s).cel = s.cel := by
  unfold mirrorDamaged
  split
  · rfl
  · rw [if_neg (by simp [own])]
    split
    · split
      · split
        · rfl
        · rw [sendMirror_cel]
      · rfl
    · rfl

/-- A page of the own pool that is HELD is damaged by a lost word. -/
theorem ueAt_of_held (open_ : (s.tract t).fenced = false) {off : Nat} (region : s.regionOf t (off / 65536) = .pool)
    (held : (s.page t (off / 65536)).state = .held) (own : (s.page t (off / 65536)).mirrorPool = false) (scrub inj : Bool) :
    ((ueAt t off scrub inj s).page t (off / 65536)).damaged = true := by
  obtain ⟨tables, -⟩ | ⟨-, run⟩ | ⟨-, free, -⟩ := ueAt_cases open_ off scrub inj
  · simp [tables] at region
  · have page : (recordLost t off scrub inj s).page t (off / 65536) = s.page t (off / 65536) :=
      State.page_congr (by rw [recordLost_tract]) _
    have marked := State.modPage_page_self t (off / 65536)
      (fun d => { d with damaged := true, lastPc := channelOf off }) (recordLost t off scrub inj s)
    rw [page] at marked
    obtain ⟨pend, shown⟩ := repairFor_page ((congrArg Desc.state marked).trans held) (channelOf off) (if scrub then 5 else 1)
    rw [run, pageLost, State.page_congr (congrArg Tract.pages (State.tract_congr (mirrorDamaged_cel ?_) t)), shown, marked]
    rw [shown, marked]
    exact own
  · simp [held] at free
    exact absurd region free

/-! ## The commands outside the fatal state -/

section
variable {a : Nat} (ht : t < 32)
include ht

theorem exec_cellarScrub (ha : a < 0x1000000000) (found : WordCheck) :
    exec (.cellarScrub t a found) s = .next (scrub t a found s) := by
  change execCellarScrub t a found s = _
  simp [execCellarScrub, need, Wf.tract, Wf.cellar, ht, ha]

theorem exec_hbmChannelLost {pc : Option Nat} (hp : (match pc with | none => true | some c => decide (c < 64)) = true) :
    exec (.hbmChannelLost t pc) s = .next (channelLost t pc s) := by
  change execHbmChannelLost t pc s = _
  cases pc with
  | none => simp [execHbmChannelLost, need, Wf.tract, ht]
  | some c => simp_all [execHbmChannelLost, need, Wf.tract]

theorem exec_ue (ha : a < 0x1000000000) (live : s.flt.fatal = none) :
    exec (.ue t a) s = .next (settleCore (ueAt t a false false s)) := by
  change execUe t a s = _
  simp [execUe, need, Wf.tract, Wf.cellar, ht, ha, ueCmd, State.isFatal, live, Nat.mod_eq_of_lt ha]

end

section
variable {a : Nat} (ha : a < 0x1000000000) (live : s.flt.fatal = none) (open_ : (s.tract t).fenced = false)
include ha live open_

theorem scrub_of_lost : scrub t a .uncorrectable s =
    settleCore (ueAt t (a / 32 * 32) true (s.cel.bad.contains (cellarAddr t a / 32)) s) := by
  simp [scrub, State.isFatal, live, open_, Nat.mod_eq_of_lt ha]

theorem scrub_of_corrected (good : cellarAddr t a / 32 ∉ s.cel.bad) : scrub t a .corrected s =
    freshWord (cellarAddr t a / 32)
      (correctedError t (a / 32 * 32) 5 (s.cel.soft.contains (cellarAddr t a / 32)) s) := by
  simp [scrub, State.isFatal, live, open_, Nat.mod_eq_of_lt ha, good]

theorem scrub_of_clean (good : cellarAddr t a / 32 ∉ s.cel.bad) (clean : cellarAddr t a / 32 ∉ s.cel.soft) :
    scrub t a .clean s = s := by
  simp [scrub, State.isFatal, live, open_, Nat.mod_eq_of_lt ha, good, clean]

end

/-- The loss of a channel fences the Tract. -/
theorem channelLost_of_open (live : s.flt.fatal = none) (open_ : (s.tract t).fenced = false) (pc : Option Nat) :
    ∃ e : FaultEvent, channelLost t pc s = settleCore (fenceTract t (recordFault e s)) := by
  refine ⟨{ source := 0x0505, unit := pc.elim (unitTract t) (unitChannel t), cls := 2, fenced := true }, ?_⟩
  cases pc <;> simp [channelLost, State.isFatal, live, open_]

/-- A byte of a word lies in it. -/
theorem cellarAddr_word (t a : Nat) : cellarAddr t (a / 32 * 32) / 32 = cellarAddr t a / 32 := by
  unfold cellarAddr
  omega

end Sys2Proof.Machine

open Sys2Proof Sys2Proof.Machine

/-- Settles O24, by what a scrubbed word comes to and, for an uncorrectable one, by its region; the handling of a lost
word never takes it off the words held as bad. -/
theorem wordsAreCorrectedOrLost : Obligations.WordsAreCorrectedOrLost := by
  unfold Obligations.WordsAreCorrectedOrLost
  intro t a s ht ha live open_
  refine ⟨fun good clean => ?_, fun good => ?_, ?_, ?_, fun pc hp => ?_⟩
  · rw [exec_cellarScrub ht ha, scrub_of_clean ha live open_ good clean]
  · obtain ⟨⟨r, mem, source, unit⟩, fatal⟩ :=
      correctedError_noted t (a / 32 * 32) 5 (s.cel.soft.contains (cellarAddr t a / 32)) s
    obtain ⟨soft, bad⟩ := freshWord_good (cellarAddr t a / 32)
      (correctedError t (a / 32 * 32) 5 (s.cel.soft.contains (cellarAddr t a / 32)) s)
    rw [exec_cellarScrub ht ha, scrub_of_corrected ha live open_ good]
    refine ⟨_, rfl, soft, bad, ?_, ⟨r, mem, source, unit⟩, fatal.trans live,
      freshWord_changes (correctedError_changes (.refl _ s) (by decide)) (by decide)⟩
    change ((correctedError ..).tract t).ce = _
    rw [State.tract_congr (correctedError_cel ..), State.modTract_tract_self, State.modPage_tract]
    rfl
  · rw [exec_cellarScrub ht ha, scrub_of_lost ha live open_]
    refine ⟨_, rfl, ?_, ueAt_changes (.refl _ s) (by decide)⟩
    rw [← cellarAddr_word t a]
    exact ueAt_bad open_ ..
  · refine ⟨_, exec_ue ht ha live, ueAt_bad open_ .., congrArg Prod.snd (ueAt_lost open_ a false false),
      fun region held own => ueAt_of_held open_ region held own .., fun region => ueAt_of_tables open_ region ..,
      ueAt_changes (.refl _ s) (by decide)⟩
  · obtain ⟨e, run⟩ := channelLost_of_open live open_ pc
    have still : ((recordFault e s).tract t).fenced = false := by rw [recordFault_tract]; exact open_
    rw [exec_hbmChannelLost ht hp, run]
    refine ⟨_, rfl, ?_, ?_, ?_, fun q hq => fenceTract_croft still hq, fun u ne => ?_,
      fenceTract_changes (recordFault_changes (.refl _ s) (by decide)) (by decide)⟩
    · rw [fenceTract_tract still]; rfl
    · rw [fenceTract_tract still]; rfl
    · rw [fenceTract_tract still]; rfl
    · rw [fenceTract_tract_of_ne ne still, recordFault_tract]

end

section
/-! SUPPORT. Pages at their limit and the repair of rows (R211, R216, R220): a row is copied to the save area with its
code, so a word of the copy is correctable where its source was; what a list of repaired rows leaves. -/

namespace Sys2Proof.Machine

variable {t : Nat} {s : State}

/-! ## Memories -/

theorem Memory.readN_congr {m m' : Memory} {a b n : Nat} (h : ∀ i < n, Memory.read m (a + i) = Memory.read m' (b + i)) :
    Memory.readN m a n = Memory.readN m' b n :=
  List.map_congr_left fun i hi => h i (List.mem_range.1 hi)

theorem Memory.getD_readN (m : Memory) (a n : Nat) {i : Nat} (h : i < n) :
    (Memory.readN m a n).getD i 0 = Memory.read m (a + i) := by
  simp [Memory.readN, h]

/-- A byte after a copy of `n` bytes: the source's inside the copy, its own elsewhere. -/
theorem Memory.read_copy (m : Memory) (src dst n x : Nat) :
    Memory.read (Memory.writeN m dst (Memory.readN m src n)) x =
      if dst ≤ x ∧ x < dst + n then Memory.read m (src + (x - dst)) else Memory.read m x := by
  rw [Memory.read_writeN, Memory.length_readN]
  split
  · rw [Memory.getD_readN _ _ _ (by omega)]
  · rfl

/-! ## A row is copied with its code (R220) -/

/-- The word that stands at a word once 32 words are copied from `S` on to `D` on. -/
def copySource (S D x : Nat) : Nat := if D ≤ x ∧ x < D + 32 then S + (x - D) else x

theorem mem_insertUp_iff {n x : Nat} {l : List Nat} : x ∈ insertUp n l ↔ x = n ∨ x ∈ l := by
  induction l with
  | nil => simp [insertUp]
  | cons m r ih =>
    rw [insertUp]
    split
    · rw [List.mem_cons]
    · split
      · simp_all
      · rw [List.mem_cons, ih, List.mem_cons, or_left_comm]

/-- A word that is correctable has one erroneous byte and is not known to be lost. -/
theorem Cel.mem_soft (c : Cel) (w : Nat) : w ∈ c.soft ↔ c.verdict w = .corrected ∧ w ∉ c.ue := by
  simp only [Cel.soft, List.mem_filter, Bool.and_eq_true, decide_eq_true_eq, Bool.not_eq_true', List.contains_eq_mem, decide_eq_false_iff_not]
  refine ⟨fun h => h.2, fun h => ⟨?_, h⟩⟩
  have listed : Tab.look none c.check w ≠ none := fun none_ => by
    have := h.1
    rw [Cel.verdict, none_] at this
    cases this
  exact List.mem_map.2 ⟨_, Tab.mem_of_look listed rfl, rfl⟩

/-- One word's code goes with its copy. -/
def Cel.copyCode (S D : Nat) (c : Cel) (i : Nat) : Cel :=
  { c with check := Tab.put none c.check (D + i) (Tab.look none c.check (S + i))
           ue := if c.ue.contains (S + i) then insertUp (D + i) c.ue else c.ue.filter (· != D + i) }

theorem Cel.copyRow_eq (src dst : Nat) (c : Cel) : Cel.copyRow src dst c = (List.range 32).foldl
    (Cel.copyCode (src / 32) (dst / 32)) { c with mem := Memory.writeN c.mem dst (Memory.readN c.mem src 1024) } := rfl

theorem Cel.foldl_copyCode_rest (S D : Nat) (l : List Nat) (c : Cel) :
    (l.foldl (Cel.copyCode S D) c).mem = c.mem ∧ (l.foldl (Cel.copyCode S D) c).tracts = c.tracts := by
  induction l generalizing c with
  | nil => exact ⟨rfl, rfl⟩
  | cons i r ih => exact ih _

/-- After the code of `k` words has been copied; no source word is overwritten before its turn. -/
theorem Cel.foldl_copyCode {S D : Nat} (aligned : S % 32 = D % 32) (c : Cel) {k : Nat} (hk : k ≤ 32) (x : Nat) :
    let e := (List.range k).foldl (Cel.copyCode S D) c
    Tab.look none e.check x = Tab.look none c.check (if D ≤ x ∧ x < D + k then S + (x - D) else x) ∧
      (x ∈ e.ue ↔ (if D ≤ x ∧ x < D + k then S + (x - D) else x) ∈ c.ue) := by
  induction k generalizing x with
  | zero => simp [show ¬(D ≤ x ∧ x < D) by omega]
  | succ k ih =>
    obtain ⟨source, sourceUe⟩ := ih (by omega) (S + k)
    obtain ⟨here, hereUe⟩ := ih (by omega) x
    rw [if_neg (by omega)] at source sourceUe
    simp only [List.range_succ, List.foldl_append, List.foldl_cons, List.foldl_nil]
    generalize (List.range k).foldl (Cel.copyCode S D) c = e at source sourceUe here hereUe
    by_cases hx : x = D + k
    · subst hx
      rw [if_pos (by omega), Nat.add_sub_cancel_left]
      refine ⟨(Tab.look_put_self ..).trans source, ?_⟩
      rw [← sourceUe]
      by_cases lost : S + k ∈ e.ue <;> simp [Cel.copyCode, lost, mem_insertUp_iff]
    · simp only [show (D ≤ x ∧ x < D + (k + 1)) ↔ (D ≤ x ∧ x < D + k) by omega]
      refine ⟨?_, ?_⟩
      · rw [← here, Cel.copyCode, Tab.look_put, if_neg hx]
      · rw [← hereUe]
        by_cases lost : S + k ∈ e.ue <;> simp [Cel.copyCode, lost, mem_insertUp_iff, hx]

theorem Cel.copyRow_rest (src dst : Nat) (c : Cel) :
    (Cel.copyRow src dst c).mem = Memory.writeN c.mem dst (Memory.readN c.mem src 1024) ∧
      (Cel.copyRow src dst c).tracts = c.tracts := by
  rw [Cel.copyRow_eq]
  generalize Memory.writeN c.mem dst (Memory.readN c.mem src 1024) = m
  exact Cel.foldl_copyCode_rest (src / 32) (dst / 32) (List.range 32) { c with mem := m }

theorem Cel.copyRow_code {S D : Nat} (aligned : S % 32 = D % 32) (c : Cel) (w : Nat) :
    Tab.look none (Cel.copyRow (32 * S) (32 * D) c).check w = Tab.look none c.check (copySource S D w) ∧
      (w ∈ (Cel.copyRow (32 * S) (32 * D) c).ue ↔ copySource S D w ∈ c.ue) := by
  have code := Cel.foldl_copyCode aligned
    { c with mem := Memory.writeN c.mem (32 * D) (Memory.readN c.mem (32 * S) 1024) } (Nat.le_refl 32) w
  rw [Cel.copyRow_eq, Nat.mul_div_cancel_left S (by decide), Nat.mul_div_cancel_left D (by decide)]
  exact code

/-- A word of the copied row is correctable where its source was, and every other word where it was itself. -/
theorem Cel.mem_soft_copyRow {S D : Nat} (aligned : S % 32 = D % 32) (c : Cel) (w : Nat) :
    w ∈ (Cel.copyRow (32 * S) (32 * D) c).soft ↔ copySource S D w ∈ c.soft := by
  obtain ⟨code, ue⟩ := Cel.copyRow_code aligned c w
  obtain ⟨mem, -⟩ := Cel.copyRow_rest (32 * S) (32 * D) c
  have bytes : Memory.readN (Memory.writeN c.mem (32 * D) (Memory.readN c.mem (32 * S) 1024)) (w * 32) 32 =
      Memory.readN c.mem (copySource S D w * 32) 32 := Memory.readN_congr fun i hi => by
    rw [Memory.read_copy, copySource]
    by_cases inside : D ≤ w ∧ w < D + 32
    · rw [if_pos inside, if_pos (by omega), show 32 * S + (w * 32 + i - 32 * D) = (S + (w - D)) * 32 + i by omega]
    · rw [if_neg inside, if_neg (by omega)]
  rw [Cel.mem_soft, Cel.mem_soft, ue, Cel.verdict, Cel.verdict, code, mem, bytes]

/-! ## What a repair keeps -/

/-- The queue and the counts of a Tract's repair. -/
def State.repair (s : State) (t : Nat) : List (Nat × Nat) × Bool × Bool × Nat :=
  let r := s.tract t
  (r.repairQ, r.repairing, r.quiesce, r.repairs)

theorem correctedError_repair (off access : Nat) (inj : Bool) (s : State) :
    (correctedError t off access inj s).repair t = s.repair t := by
  rw [State.repair, State.tract_congr (correctedError_cel ..), State.modTract_tract_self, State.modPage_tract]
  rfl

theorem correctWords_kept (ws : List Nat) (s : State) : (correctWords t ws s).cel.mem = s.cel.mem ∧
    (correctWords t ws s).repair t = s.repair t ∧ (correctWords t ws s).flt.fatal = s.flt.fatal := by
  have kept := foldl_keeps (π := fun u => (u.cel.mem, u.repair t, u.flt.fatal))
    (g := fun u w => freshWord w (correctedError t (w * 32 % 2 ^ 36) 1 true u)) (fun u w => by
      have mem : (freshWord w (correctedError t (w * 32 % 2 ^ 36) 1 true u)).cel.mem = u.cel.mem :=
        (congrArg Cel.mem (correctedError_cel t (w * 32 % 2 ^ 36) 1 true u)).trans rfl
      have repair : (freshWord w (correctedError t (w * 32 % 2 ^ 36) 1 true u)).repair t = u.repair t :=
        correctedError_repair ..
      have fatal : (freshWord w (correctedError t (w * 32 % 2 ^ 36) 1 true u)).flt.fatal = u.flt.fatal :=
        (correctedError_noted ..).2
      rw [mem, repair, fatal]) (ws.filter s.cel.soft.contains) s
  exact ⟨congrArg (·.1) kept, congrArg (·.2.1) kept, congrArg (·.2.2) kept⟩

theorem correctWords_of_clean {ws : List Nat} (clean : ∀ w ∈ ws, w ∉ s.cel.soft) : correctWords t ws s = s := by
  have none_ : ws.filter s.cel.soft.contains = [] := by simpa [List.filter_eq_nil_iff] using clean
  rw [correctWords, none_, List.foldl_nil]

/-- Where a row of a Tract begins. -/
def rowAddr (t : Nat) (e : Nat × Nat) : Nat := cellarAddr t (e.2 * 65536 + e.1 * 1024)

/-- Where the first row of a repair is saved. -/
def savedAddr (t : Nat) : Nat := cellarAddr t saveArea

/-- The first word of a row, and of the save area. -/
def rowWord (t : Nat) (e : Nat × Nat) : Nat := 32 * (t * 2 ^ 26 + e.2 * 64 + e.1)
def savedWord (t i : Nat) : Nat := 32 * (t * 2 ^ 26 + 0x4490 * 64 + i)

theorem rowAddr_eq (t : Nat) (e : Nat × Nat) : rowAddr t e = 32 * rowWord t e := by
  unfold rowAddr cellarAddr rowWord
  omega

theorem savedAddr_eq (t i : Nat) : cellarAddr t (saveArea + 1024 * i) = 32 * savedWord t i := by
  unfold cellarAddr saveArea savedWord
  omega

theorem savedWord_eq (t i : Nat) : 32 * savedWord t i = savedAddr t + 1024 * i := by
  unfold savedAddr cellarAddr saveArea savedWord
  omega

theorem mem_wordsOf_row {e : Nat × Nat} {w : Nat} : w ∈ wordsOf t (e.2 * 65536 + e.1 * 1024) 1024 ↔
    rowWord t e ≤ w ∧ w < rowWord t e + 32 := by
  have first : cellarAddr t (e.2 * 65536 + e.1 * 1024) = 32 * rowWord t e := rowAddr_eq t e
  have count : (32 * rowWord t e + 1024 - 1) / 32 + 1 - rowWord t e = 32 := by omega
  have word : 32 * rowWord t e / 32 = rowWord t e := by omega
  simp only [wordsOf, first, word, count]
  rw [if_neg (by decide)]
  simp only [List.mem_map, List.mem_range]
  exact ⟨fun ⟨i, hi, h⟩ => by omega, fun h => ⟨w - rowWord t e, by omega, by omega⟩⟩

/-! ## One row -/

theorem copyRow_eq (e : Nat × Nat) (i : Nat) (s : State) : copyRow t (e.2 * 65536 + e.1 * 1024) i s =
    (correctWords t (wordsOf t (e.2 * 65536 + e.1 * 1024) 1024) s).modCel
      (Cel.copyRow (rowAddr t e) (32 * savedWord t i)) := by
  rw [copyRow, savedAddr_eq, rowAddr]

theorem copyRow_mem (e : Nat × Nat) (i : Nat) (s : State) : (copyRow t (e.2 * 65536 + e.1 * 1024) i s).cel.mem =
    Memory.writeN s.cel.mem (32 * savedWord t i) (Memory.readN s.cel.mem (rowAddr t e) 1024) := by
  rw [copyRow_eq, State.modCel_cel, (Cel.copyRow_rest ..).1, (correctWords_kept ..).1]

theorem copyRow_repair (e : Nat × Nat) (i : Nat) (s : State) :
    (copyRow t (e.2 * 65536 + e.1 * 1024) i s).repair t = s.repair t := by
  rw [copyRow_eq, State.repair, State.modCel_tract (Cel.copyRow_rest ..).2, ← State.repair, (correctWords_kept ..).2.1]

theorem copyRow_fatal (e : Nat × Nat) (i : Nat) (s : State) :
    (copyRow t (e.2 * 65536 + e.1 * 1024) i s).flt.fatal = s.flt.fatal := by
  rw [copyRow_eq, State.modCel_flt, (correctWords_kept ..).2.2]

/-- A row that passes its check counts, shows LAST_REPAIR 1 and is recorded; bytes, codes and pages stay. -/
theorem rowRepaired_passed (e : Nat × Nat) (s : State) : let u := rowRepaired t e false s
    u.cel.mem = s.cel.mem ∧ u.cel.soft = s.cel.soft ∧ (∀ g, u.page t g = s.page t g) ∧ u.cel.lastRepair = 1 ∧
      u.repair t = ((s.repair t).1, (s.repair t).2.1, (s.repair t).2.2.1, min 0xFFFF ((s.repair t).2.2.2 + 1)) ∧
      (∃ r ∈ u.attic.openRecs, r.source = 0x0503) ∧ u.flt.fatal = s.flt.fatal := by
  have noted := recordFault_of_not_ft
    (e := { source := 0x0503, unit := unitChannel t e.1, cls := 1, access := 5
            addr := cellarAddr t (e.2 * 65536 + e.1 * 1024) }) (show 1 ≠ 3 by decide) s
  obtain ⟨r, mem, source, -⟩ := noted.opened
  have cel := recordFault_cel
    { source := 0x0503, unit := unitChannel t e.1, cls := 1, access := 5
      addr := cellarAddr t (e.2 * 65536 + e.1 * 1024) } s
  simp only [rowRepaired, Bool.false_eq_true, if_false]
  generalize recordFault _ s = v at noted mem cel
  have tract : v.tract t = s.tract t := State.tract_congr cel t
  have same : v.cel.mem = s.cel.mem ∧ v.cel.soft = s.cel.soft := by
    rw [cel]
    exact ⟨rfl, rfl⟩
  refine ⟨same.1, same.2, fun g => ?_, rfl, ?_, ⟨r, mem, source⟩,
    noted.frame .fatal (by decide)⟩
  · rw [State.page_congr (congrArg Tract.pages (State.modCel_tract rfl t)), State.modTract_page fun r => by rfl]
    exact State.page_congr (congrArg Tract.pages tract) g
  · rw [State.repair, State.modCel_tract rfl, State.modTract_tract_self, tract]
    rfl

/-! ## The rows of a repair -/

/-- Rows that all pass their check, one after another. -/
def repairRows (t : Nat) (rows : List (Nat × Nat)) (s : State) : State :=
  rows.zipIdx.foldl (fun u e => repairRow t e.2 e.1 false u) s

theorem repairRows_concat (rows : List (Nat × Nat)) (e : Nat × Nat) (s : State) :
    repairRows t (rows ++ [e]) s = repairRow t rows.length e false (repairRows t rows s) := by
  simp [repairRows, List.zipIdx_append]

theorem repairDone_of_passed (live : s.flt.fatal = none) (open_ : (s.tract t).fenced = false)
    (quiet : (s.tract t).quiesce = true) (busy : (s.tract t).repairing = true) : repairDone t [] s =
      (repairRows t ((s.tract t).repairQ.take 16) s).modTract t
        (fun r => { r with repairQ := r.repairQ.drop 16, repairing := false }) := by
  simp [repairDone, State.isFatal, live, open_, quiet, busy, repairRows]

/-- A row outside the save area. -/
def outsideSave (e : Nat × Nat) : Prop := e.1 < 64 ∧ (e.2 < 0x4490 ∨ 0x44A0 ≤ e.2)

/-- What the repair of rows that pass leaves: their bytes in the save area and no other byte, the counts, the record. -/
structure RowsRepaired (t : Nat) (rows : List (Nat × Nat)) (s u : State) : Prop where
  beside : ∀ a, a < savedAddr t ∨ savedAddr t + 1024 * rows.length ≤ a → Memory.read u.cel.mem a = Memory.read s.cel.mem a
  saved  : (∀ e ∈ rows, outsideSave e) → ∀ i e, rows[i]? = some e → ∀ x < 1024,
    Memory.read u.cel.mem (savedAddr t + 1024 * i + x) = Memory.read s.cel.mem (rowAddr t e + x)
  repair : u.repair t = ((s.repair t).1, (s.repair t).2.1, (s.repair t).2.2.1, min 0xFFFF ((s.repair t).2.2.2 + rows.length))
  last   : rows ≠ [] → u.cel.lastRepair = 1 ∧ ∃ r ∈ u.attic.openRecs, r.source = 0x0503
  fatal  : u.flt.fatal = s.flt.fatal

/-- The bytes of a row outside the save area lie before it or beyond its 16 rows. -/
theorem rowAddr_outside {e : Nat × Nat} (out : outsideSave e) {x : Nat} (hx : x < 1024) :
    rowAddr t e + x < savedAddr t ∨ savedAddr t + 1024 * 16 ≤ rowAddr t e + x := by
  obtain ⟨pc, below | above⟩ := out <;> unfold rowAddr savedAddr cellarAddr saveArea <;> omega

theorem repairRows_repaired {rows : List (Nat × Nat)} (few : rows.length ≤ 16) (bound : (s.tract t).repairs ≤ 0xFFFF) :
    RowsRepaired t rows s (repairRows t rows s) := by
  induction rows using List.reverseRecOn with
  | nil =>
    refine ⟨fun _ _ => rfl, fun _ i e h => by simp at h, ?_, fun h => absurd rfl h, rfl⟩
    change s.repair t = _
    simp only [State.repair, List.length_nil, Nat.add_zero, Nat.min_eq_right bound]
  | append_singleton rows e ih =>
    rw [List.length_append, List.length_singleton] at few
    obtain ⟨beside, saved, repair, -, fatal⟩ := ih (by omega)
    rw [repairRows_concat, repairRow]
    generalize repairRows t rows s = v at beside saved repair fatal
    have copied := copyRow_mem (t := t) e rows.length v
    have copyKept := copyRow_repair (t := t) e rows.length v
    have copyFatal := copyRow_fatal (t := t) e rows.length v
    generalize copyRow t (e.2 * 65536 + e.1 * 1024) rows.length v = w at copied copyKept copyFatal
    obtain ⟨mem, -, -, lastRepair, counted, record, keptFatal⟩ := rowRepaired_passed (t := t) e w
    have read (a : Nat) : Memory.read (rowRepaired t e false w).cel.mem a =
        if savedAddr t + 1024 * rows.length ≤ a ∧ a < savedAddr t + 1024 * rows.length + 1024
        then Memory.read v.cel.mem (rowAddr t e + (a - (savedAddr t + 1024 * rows.length)))
        else Memory.read v.cel.mem a := by
      rw [mem, copied, savedWord_eq, Memory.read_copy]
    refine ⟨fun a out => ?_, fun outside i f at_ x hx => ?_, ?_, fun _ => ⟨lastRepair, record⟩,
      keptFatal.trans (copyFatal.trans fatal)⟩
    · rw [List.length_append, List.length_singleton] at out
      rw [read, if_neg (by omega), beside a (by omega)]
    · rcases Nat.lt_trichotomy i rows.length with before | here | beyond
      · rw [List.getElem?_append_left before] at at_
        rw [read, if_neg (by omega)]
        exact saved (fun e he => outside e (List.mem_append_left _ he)) i f at_ x hx
      · subst here
        obtain rfl : e = f := by simpa using at_
        have apart := rowAddr_outside (t := t) (outside e (by simp)) hx
        rw [read, if_pos (by omega), show rowAddr t e + (savedAddr t + 1024 * rows.length + x -
          (savedAddr t + 1024 * rows.length)) = rowAddr t e + x by omega, beside _ (by omega)]
      · rw [List.getElem?_eq_none (by rw [List.length_append, List.length_singleton]; omega)] at at_
        cases at_
    · rw [counted, copyKept, repair, List.length_append, List.length_singleton]
      simp only [Prod.mk.injEq, true_and]
      omega

/-- A word of a list of rows that has no correctable word still has none after one of them is copied, and no page
changes. -/
theorem repairRow_clean {rows : List (Nat × Nat)} {e : Nat × Nat} (mem : e ∈ rows) (i : Nat)
    (clean : ∀ f ∈ rows, ∀ w ∈ wordsOf t (f.2 * 65536 + f.1 * 1024) 1024, w ∉ s.cel.soft) :
    (∀ f ∈ rows, ∀ w ∈ wordsOf t (f.2 * 65536 + f.1 * 1024) 1024, w ∉ (repairRow t i e false s).cel.soft) ∧
      ∀ g, (repairRow t i e false s).page t g = s.page t g := by
  obtain ⟨-, soft, pages, -⟩ := rowRepaired_passed (t := t) e (copyRow t (e.2 * 65536 + e.1 * 1024) i s)
  have copy : copyRow t (e.2 * 65536 + e.1 * 1024) i s =
      s.modCel (Cel.copyRow (32 * rowWord t e) (32 * savedWord t i)) := by
    rw [copyRow, correctWords_of_clean (clean e mem), savedAddr_eq, ← rowAddr_eq, rowAddr]
  rw [copy] at soft pages
  rw [repairRow, copy]
  refine ⟨fun f hf w hw marked => ?_, fun g => ?_⟩
  · rw [soft, State.modCel_cel, Cel.mem_soft_copyRow (by unfold rowWord savedWord; omega), copySource] at marked
    split at marked
    · exact clean e mem _ (mem_wordsOf_row.2 (by omega)) marked
    · exact clean f hf w hw marked
  · rw [pages]
    exact State.page_congr (congrArg Tract.pages (State.modCel_tract (Cel.copyRow_rest ..).2 t)) g

theorem repairRows_clean {all rows : List (Nat × Nat)} (sub : rows ⊆ all)
    (clean : ∀ e ∈ all, ∀ w ∈ wordsOf t (e.2 * 65536 + e.1 * 1024) 1024, w ∉ s.cel.soft) :
    (∀ e ∈ all, ∀ w ∈ wordsOf t (e.2 * 65536 + e.1 * 1024) 1024, w ∉ (repairRows t rows s).cel.soft) ∧
      ∀ g, (repairRows t rows s).page t g = s.page t g := by
  induction rows using List.reverseRecOn with
  | nil => exact ⟨clean, fun _ => rfl⟩
  | append_singleton rows e ih =>
    obtain ⟨before, pages⟩ := ih fun f hf => sub (List.mem_append_left _ hf)
    obtain ⟨after, own⟩ := repairRow_clean (sub (List.mem_append_right rows (List.mem_singleton_self e))) rows.length before
    rw [repairRows_concat]
    exact ⟨after, fun g => (own g).trans (pages g)⟩

end Sys2Proof.Machine
end

section
/-! SUPPORT. CE_LIMIT, CEL_REPAIR and a quiesce (R211, R216, R220, R228): each command in the cases it meets. -/

namespace Sys2Proof.Machine

variable {t : Nat} {s : State}

/-! ## The commands -/

section
variable (ht : t < 32)
include ht

theorem exec_ceLimit {g : Nat} (hg : g < 0x100000) (s : State) : exec (.ceLimit t g) s = .next (ceLimit t g s) := by
  change execCeLimit t g s = _
  simp [execCeLimit, need, Wf.tract, Wf.page, ht, hg]

theorem exec_repairQueue {pc g : Nat} (hp : pc < 64) (hg : g < 0x100000) (stage : 4 ≤ s.glb.stage)
    (live : s.flt.fatal = none) (free : s.flt.rstWaiting = none) :
    exec (.repairQueue t pc g) s = .next (repairQueue t pc g s) := by
  change execRepairQueue t pc g s = _
  simp [execRepairQueue, need, Wf.tract, Wf.page, ht, hp, hg, onBlock, live, free, Nat.not_lt.2 stage]

theorem exec_repairQuiesceStart (s : State) : exec (.repairQuiesceStart t) s = .next (quiesceStart t s) := by
  change execRepairQuiesceStart t s = _
  simp [execRepairQuiesceStart, need, Wf.tract, ht]

theorem exec_repairDone (l : List Nat) (s : State) : exec (.repairDone t l) s = .next (repairDone t l s) := by
  change execRepairDone t l s = _
  simp [execRepairDone, need, Wf.tract, ht]

theorem exec_quiesceEnd (s : State) : exec (.quiesceEnd t) s = .next (quiesceEnd t s) := by
  change execQuiesceEnd t s = _
  simp [execQuiesceEnd, need, Wf.tract, ht]

end

/-! ## A page at its limit -/

/-- A row that fits is in the queue. -/
theorem mem_queueRow {pc g : Nat} (fits : s.rowFits t pc g = true) : (pc, g) ∈ ((queueRow t pc g s).tract t).repairQ := by
  rw [queueRow, State.modTract_tract_self]
  by_cases listed : (pc, g) ∈ (s.tract t).repairQ
  · simp [listed]
  · have room : (s.tract t).repairQ.length < 16 := by simpa [State.rowFits, listed] using fits
    simp [listed, Nat.not_le.2 room]

theorem queueRow_page (pc g : Nat) (s : State) (h : Nat) : (queueRow t pc g s).page t h = s.page t h :=
  State.modTract_page (fun r => by split <;> rfl) ..

theorem retirePage_of_free {g : Nat} (free : (s.page t g).state = .free) (pool : s.inPool t g = true) (access : Nat) :
    retirePage t g access s = logRetired t g access (s.modPage t g (fun d => { d with state := .retired })) := by
  simp [retirePage, free, pool]

theorem retirePage_of_retired {g : Nat} (retired : (s.page t g).state = .retired) (access : Nat) :
    retirePage t g access s = s := by
  simp [retirePage, retired]

theorem retirePage_of_used {g : Nat} (kept : (s.page t g).state ≠ .retired)
    (used : (s.page t g).state ≠ .free ∨ s.inPool t g = false) (access : Nat) :
    retirePage t g access s = s.modPage t g (fun d => { d with retirePend := true }) := by
  unfold retirePage
  cases state : (s.page t g).state with
  | free => simp_all
  | retired => exact absurd state kept
  | held => rfl
  | shared => rfl

section
variable (live : s.flt.fatal = none) (open_ : (s.tract t).fenced = false)
include live open_

theorem ceLimit_of_room {g : Nat} (auto : s.cel.autoRepair = true) (spare : s.spareLeft t (s.page t g).lastPc g = true) :
    ceLimit t g s = if s.rowFits t (s.page t g).lastPc g = true
      then (queueRow t (s.page t g).lastPc g s).modPage t g (fun d => { d with ce := 0 }) else s := by
  simp [ceLimit, State.isFatal, live, open_, auto, spare]

theorem ceLimit_of_no_spare {g : Nat} (none_ : s.cel.autoRepair = false ∨ s.spareLeft t (s.page t g).lastPc g = false) :
    ceLimit t g s = retirePage t g 5 s := by
  rcases none_ with none_ | none_ <;> simp [ceLimit, State.isFatal, live, open_, none_]

theorem repairQueue_of_open (pc g : Nat) : repairQueue t pc g s = if s.spareLeft t pc g = true then queueRow t pc g s
    else s.modCel (fun c => { c with lastRepair := 3 }) := by
  simp [repairQueue, State.isFatal, live, open_]

/-! ## A quiesce -/

theorem quiesceStart_of_waiting (idle : (s.tract t).quiesce = false) (waits : (s.tract t).repairQ ≠ [])
    (unheld : ∀ i ∈ s.fld.insts, i.tract ≠ t) : quiesceStart t s =
      let u := advanceTo (s.markAt s.bel.gt) s
      u.modTract t (fun r => { r with quiesce := true, repairing := true, quietFrom := u.tickNow }) := by
  have none_ : s.fld.insts.any (·.tract == t) = false := by simpa using unheld
  simp [quiesceStart, State.isFatal, live, open_, idle, waits, none_]

omit open_ in
/-- The end of a quiesce at the mark `v`, before the packets that waited are taken. -/
theorem quiesceEnd_of_repaired (quiet : (s.tract t).quiesce = true) (idle : (s.tract t).repairing = false) :
    let v := advanceTo (s.markAt s.bel.gt) s
    quiesceEnd t s = settleCore ((s.tract t).mirIn.foldl (fun x p => fromPrimary p x)
      ((fallBehind t (v.keptMarks t) v).modTract t (fun r =>
        { r with quiesce := false, quietTicks := satAdd 0xFFFF 0 (v.tickNow - (s.tract t).quietFrom), mirIn := [] }))) := by
  simp [quiesceEnd, State.isFatal, live, quiet, idle]

end

theorem State.keptMarks_of_stopped (h : s.crf.running = false ∨ s.crf.paused = true) : s.keptMarks t = 0 := by
  rcases h with h | h <;> simp [State.keptMarks, h]

/-- Every Croft of the Tract falls behind, and no other. -/
theorem mem_fallBehind {n : Nat} {e : Nat × Croft} (mem : e ∈ s.crf.crofts) :
    (e.1, if e.1 / 136 = t then { e.2 with shift := e.2.shift + n } else e.2) ∈ (fallBehind t n s).crf.crofts := by
  refine List.mem_map.2 ⟨e, mem, ?_⟩
  split <;> rfl

end Sys2Proof.Machine

open Sys2Proof Sys2Proof.Machine

/-- Settles O25. A page at its limit is settled by what waits for it; the rows of a repair by induction on their list: a
row is copied with its code to a place of its own in the save area, and counts once. -/
theorem pagesRetireAndRowsRepair : Obligations.PagesRetireAndRowsRepair := by
  unfold Obligations.PagesRetireAndRowsRepair
  intro t s ht live open_
  refine ⟨fun g hg => ⟨fun auto spare => ⟨fun fits => ?_, fun full => ?_⟩, fun none_ => ⟨fun free pool => ?_,
    fun retired => ?_, fun kept used => ?_⟩⟩, fun pc g hp hg stage free => ?_, fun idle waits unheld => ?_,
    fun quiet busy bound => ?_, fun quiet idle => ?_⟩
  · rw [exec_ceLimit ht hg, ceLimit_of_room live open_ auto spare, if_pos fits]
    refine ⟨_, rfl, ?_, ?_, ChangesOnly.modPage _ _ _ (queueRow_changes (.refl _ s) (List.Subset.refl _)) (by decide)⟩
    · rw [State.modPage_page_self, queueRow_page]
    · rw [State.modPage_tract]
      exact mem_queueRow fits
  · rw [exec_ceLimit ht hg, ceLimit_of_room live open_ auto spare, if_neg (by simp [full])]
  · rw [exec_ceLimit ht hg, ceLimit_of_no_spare live open_ none_, retirePage_of_free free pool]
    refine ⟨_, rfl, ?_, ?_, logRetired_changes (ChangesOnly.modPage _ _ _ (.refl _ s) (by decide)) (by decide)⟩
    · rw [State.page_congr (congrArg Tract.pages (logRetired_tract ..)), State.modPage_page_self]
    · obtain ⟨r, mem, source, -⟩ := (recordFault_of_not_ft (e := {
        source := 0x0502, unit := unitChannel t _, cls := 1, access := 5, addr := _ }) (show 1 ≠ 3 by decide) _).opened
      exact ⟨r, mem, source⟩
  · rw [exec_ceLimit ht hg, ceLimit_of_no_spare live open_ none_, retirePage_of_retired retired]
  · rw [exec_ceLimit ht hg, ceLimit_of_no_spare live open_ none_, retirePage_of_used kept used]
  · rw [exec_repairQueue ht hp hg stage live free, repairQueue_of_open live open_]
  · rw [exec_repairQuiesceStart ht, quiesceStart_of_waiting live open_ idle waits unheld]
  · have few : ((s.tract t).repairQ.take 16).length = min 16 (s.tract t).repairQ.length := List.length_take
    obtain ⟨beside, saved, repair, last, fatal⟩ :=
      repairRows_repaired (rows := (s.tract t).repairQ.take 16) (by omega) bound
    rw [exec_repairDone ht]
    refine ⟨_, rfl, ?_⟩
    have frame := repairDone_changes (t := t) (failedRows := [])
      (parts := .cel :: .mem :: faultParts) (.refl _ s) (by decide)
    rw [repairDone_of_passed live open_ quiet busy] at frame ⊢
    have cleanPages := repairRows_clean (t := t) (s := s) (List.Subset.refl ((s.tract t).repairQ.take 16))
    generalize repairRows t ((s.tract t).repairQ.take 16) s = u at beside saved repair last fatal frame cleanPages
    simp only [State.repair, Prod.mk.injEq] at repair
    obtain ⟨queue, -, still, count⟩ := repair
    rw [State.modTract_tract_self]
    refine ⟨rfl, still.trans quiet, congrArg (List.drop 16) queue, ?_, fun waits => last ?_, beside,
      fun out i e at_ => Memory.readN_congr (saved out i e at_), fun clean g => ?_, fatal.trans live, frame⟩
    · rw [← few]
      exact count
    · simpa using waits
    · rw [State.modTract_page fun r => by rfl]
      exact (cleanPages clean).2 g
  · intro v
    have cel : v.cel = s.cel := advanceTo_cel ..
    have crf : v.crf = s.crf := advanceTo_crf ..
    have frame : ChangesOnly timeParts s v := advanceTo_frame _ s
    rw [exec_quiesceEnd ht, quiesceEnd_of_repaired live quiet idle]
    refine ⟨_, rfl, ?_, ?_, ?_, rfl, fun e mem => mem_fallBehind (crf ▸ mem), fun stopped =>
      State.keptMarks_of_stopped (crf ▸ stopped),
      ChangesOnly.modTract _ _ (fallBehind_changes (frame.mono (by decide)) (by decide)) (by decide)⟩
    all_goals rw [State.modTract_tract_self]
    rw [satAdd, Nat.zero_add]

end

section
/-! SUPPORT. Writes to a stack (R214, R235): whatever they meet, they leave the sessions, and FILL and DAMAGED of every page. -/

namespace Sys2Proof.Machine

variable {t : Nat} {s : State}

/-! ## Sessions and pages through writes -/

/-- A Tract's sessions, and FILL and DAMAGED of its pages. -/
def State.kept (s : State) (t : Nat) : (Nat → Option Sess) × (Nat → Nat × Bool) :=
  (s.sess t, fun g => ((s.page t g).fill, (s.page t g).damaged))

theorem State.kept_congr {s u : State} (h : u.tract t = s.tract t) : u.kept t = s.kept t := by
  refine Prod.ext (funext fun sid => State.sess_congr (congrArg Tract.sessions h) sid) (funext fun g => ?_)
  simp only [State.kept, State.page, h]

theorem State.modTract_kept {f : Tract → Tract} (hs : ∀ r, (f r).sessions = r.sessions) (hp : ∀ r, (f r).pages = r.pages)
    (v : Nat) (s : State) : (s.modTract v f).kept t = s.kept t := by
  refine Prod.ext (funext fun sid => State.modTract_sess hs ..) (funext fun g => ?_)
  simp only [State.kept, State.modTract_page hp]

theorem State.modPage_kept {f : Desc → Desc} (h : ∀ d, (f d).fill = d.fill ∧ (f d).damaged = d.damaged) (v g : Nat)
    (s : State) : (s.modPage v g f).kept t = s.kept t := by
  by_cases tv : t = v
  · subst tv
    refine Prod.ext (funext fun sid => State.modPage_sess ..) (funext fun x => ?_)
    simp only [State.kept, State.modPage_page]
    split
    · rename_i here
      rw [(h _).1, (h _).2, here]
    · rfl
  · exact State.kept_congr (State.modPage_tract_of_ne tv ..)

theorem correctedError_kept (v off access : Nat) (inj : Bool) (s : State) :
    (correctedError v off access inj s).kept t = s.kept t := by
  rw [State.kept_congr (State.tract_congr (correctedError_cel ..) t),
    State.modTract_kept (fun r => by rfl) (fun r => by rfl), State.modPage_kept fun d => ⟨by rfl, by rfl⟩]

theorem freshWord_tract (w : Nat) (s : State) : (freshWord w s).tract t = s.tract t := State.modCel_tract rfl t

theorem eccInjection_tract (v w : Nat) (s : State) : (eccInjection v w s).tract t = s.tract t := by
  unfold eccInjection
  dsimp only
  split
  · rfl
  · exact State.modCel_tract rfl t

theorem eccInjection_mem (v w : Nat) (s : State) : (eccInjection v w s).cel.mem = s.cel.mem := by
  unfold eccInjection
  dsimp only
  split <;> rfl

/-- A word's part of a range is left as it is, or stored after what its merge corrects. -/
theorem writeWord_cases (v off : Nat) (data : Bytes) (w : Nat) (s : State) :
    (∃ e : FaultEvent, e.cls = 2 ∧
      writeWord v off data w s = recordFault e (s.modTract v (fun r => { r with ue := sat32 r.ue }))) ∨
    ∃ u, (u = s ∨ ∃ o, u = correctedError v o 3 true s) ∧ writeWord v off data w s =
      eccInjection v w (freshWord w (u.modCel (fun c => { c with
        mem := Memory.writeN c.mem (partLow (cellarAddr v off) w) (partBytes (cellarAddr v off) data w) }))) := by
  unfold writeWord partLow partBytes partLow
  dsimp only
  split
  · refine .inl ⟨_, ?_, rfl⟩
    rfl
  · split
    · exact .inr ⟨_, .inr ⟨_, rfl⟩, rfl⟩
    · exact .inr ⟨s, .inl rfl, rfl⟩

theorem writeWord_kept (v off : Nat) (data : Bytes) (w : Nat) (s : State) : (writeWord v off data w s).kept t = s.kept t := by
  obtain ⟨e, -, run⟩ | ⟨u, lead, run⟩ := writeWord_cases v off data w s
  · rw [run, State.kept_congr (recordFault_tract ..), State.modTract_kept (fun r => by rfl) (fun r => by rfl)]
  · rw [run, State.kept_congr (eccInjection_tract ..), State.kept_congr (freshWord_tract ..),
      State.kept_congr (State.modCel_tract rfl t)]
    obtain rfl | ⟨o, rfl⟩ := lead
    · rfl
    · rw [correctedError_kept]

theorem cellWrite_kept (v off : Nat) (data : Bytes) (s : State) : (cellWrite v off data s).kept t = s.kept t := by
  unfold cellWrite
  split
  · rfl
  · exact foldl_keeps (π := (State.kept · t)) (fun u w => writeWord_kept ..) _ s

theorem writeStream_kept (v : Nat) (chain : List Nat) (g : Geometry) (off : Nat) (data : Bytes) (s : State) :
    (writeStream v chain g off data s).kept t = s.kept t := by
  unfold writeStream
  generalize streamRange chain g off data.length = l
  induction l generalizing data s with
  | nil => rfl
  | cons p r ih => exact (ih _ _).trans (cellWrite_kept ..)

end Sys2Proof.Machine
end

section
/-! SUPPORT. The partner's side of a mirror (R224-R226): what each operation that applies a copy leaves of how far its
session has come, and what a packet of a primary comes to. -/

namespace Sys2Proof.Machine

variable {t sid : Nat} {p : Packet} {s : State}

/-! ## How far a copy has come -/

/-- The MSEQ that a session's copy has applied, and the copies ahead of it. -/
def State.progress (s : State) (t sid : Nat) : Option (Option Nat × Tab (Option Packet)) :=
  (s.sess t sid).map (fun e => (e.applied, e.ahead))

theorem State.progress_congr {s u : State} (h : u.sess t sid = s.sess t sid) : u.progress t sid = s.progress t sid := by
  rw [State.progress, h, State.progress]

theorem State.progress_of_cel {s u : State} (h : u.cel = s.cel) : u.progress t sid = s.progress t sid :=
  State.progress_congr (State.sess_congr (congrArg Tract.sessions (State.tract_congr h t)) sid)

theorem State.modTract_progress {f : Tract → Tract} (h : ∀ r, (f r).sessions = r.sessions) (v : Nat) (s : State) :
    (s.modTract v f).progress t sid = s.progress t sid := State.progress_congr (State.modTract_sess h ..)

theorem State.modPage_progress (v g : Nat) (f : Desc → Desc) (s : State) :
    (s.modPage v g f).progress t sid = s.progress t sid := State.progress_congr (State.modPage_sess ..)

theorem State.modRun_progress (v n : Nat) (f : Run → Run) (s : State) :
    (s.modRun v n f).progress t sid = s.progress t sid := State.progress_congr (State.modRun_sess ..)

theorem State.modSess_progress {f : Sess → Sess} (h : ∀ e, (f e).applied = e.applied ∧ (f e).ahead = e.ahead) (x : Nat)
    (s : State) : (s.modSess t x f).progress t sid = s.progress t sid := by
  rw [State.progress, State.modSess_sess, State.progress]
  split
  · rename_i here
    rw [here, Option.map_map]
    exact congrArg (Option.map · (s.sess t x)) (funext fun e => Prod.ext (h e).1 (h e).2)
  · rfl

/-! ## The Storekeeper's operations -/

theorem grantPage_progress (mirror : Bool) (x : Nat) (e : Nat × Nat) (s : State) :
    (grantPage t x mirror e s).progress t sid = s.progress t sid := by
  unfold grantPage
  dsimp only
  rw [State.modSess_progress fun e => ⟨by rfl, by rfl⟩, State.modPage_progress]
  split
  · split
    · rw [State.modPage_progress]
    · rfl
  · rfl

theorem stkAlloc_progress (x : Nat) (mirror : Bool) (layers : List Nat) (s : State) :
    (stkAlloc t x mirror layers s).2.progress t sid = s.progress t sid := by
  have injected : (bitmapInjection t s).progress t sid = s.progress t sid := State.progress_of_cel
    ((bitmapInjection_changes (.refl _ s) (List.Subset.refl _)).cel_eq (by decide) (by decide))
  unfold stkAlloc
  split
  · rfl
  · dsimp only
    split
    · rw [State.modTract_progress fun r => by rfl, injected]
    · exact (foldl_keeps (π := fun u => u.progress t sid) (fun u e => grantPage_progress ..) _ _).trans injected

theorem leavePage_progress (g access : Nat) (s : State) : (leavePage t g access s).progress t sid = s.progress t sid := by
  unfold leavePage
  dsimp only
  split
  · rw [State.progress_of_cel (logRetired_cel ..), State.modPage_progress]
  · rw [State.modPage_progress]

theorem stkShare_progress (pfx grafter : Nat) (s : State) :
    (stkShare t pfx grafter s).2.progress t sid = s.progress t sid := by
  unfold stkShare
  split
  · rfl
  · split
    · rfl
    · dsimp only
      split
      · rfl
      · split
        · rfl
        · dsimp only
          rw [State.modSess_progress fun e => ⟨by rfl, by rfl⟩, State.modTract_progress fun r => by rfl]
          exact foldl_keeps (π := fun u => u.progress t sid) (fun u g => State.modPage_progress ..) _ s

theorem stkAddOwner_progress (n grafter : Nat) (s : State) :
    (stkAddOwner t n grafter s).2.progress t sid = s.progress t sid := by
  unfold stkAddOwner
  split
  · rfl
  · split
    · rfl
    · split
      · rfl
      · split
        · rfl
        · rw [State.modRun_progress]

theorem stkRelease_progress (n requester : Nat) (s : State) :
    (stkRelease t n requester s).2.progress t sid = s.progress t sid := by
  unfold stkRelease countNlo
  split
  · rfl
  · split
    · rw [State.modTract_progress fun r => by rfl]
    · split
      · rw [State.modTract_progress fun r => by rfl]
      · split
        · exact State.modRun_progress ..
        · dsimp only
          rw [State.modTract_progress fun r => by rfl]
          exact foldl_keeps (π := fun u => u.progress t sid) (fun u g => leavePage_progress ..) _ s

/-! ## Streams, grafts, closes -/

theorem writeStream_progress (chain : List Nat) (g : Geometry) (off : Nat) (data : Bytes) (s : State) :
    (writeStream t chain g off data s).progress t sid = s.progress t sid :=
  State.progress_congr (congrFun (congrArg Prod.fst (writeStream_kept (t := t) ..)) sid)

theorem setFill_progress (chain : List Nat) (g : Geometry) (n : Nat) (s : State) :
    (setFill t chain g n s).progress t sid = s.progress t sid :=
  foldl_keeps (π := fun u => u.progress t sid) (fun _ _ => State.modPage_progress ..) _ s

theorem growStream_progress (x layer : Nat) (mirror : Bool) (off : Nat) (data : Bytes) (s : State) :
    (growStream t x layer mirror off data s).2.progress t sid = s.progress t sid := by
  unfold growStream
  split
  · rfl
  · rename_i e _
    dsimp only
    generalize alloc : (if pagesFor e.geo ((off + data.length + recordBytes e.geo - 1) / recordBytes e.geo) ≤
      (Tab.look [] e.chains layer).length then (stOk, s) else _) = r
    have start : r.2.progress t sid = s.progress t sid := by
      rw [← alloc]
      split
      · rfl
      · rw [stkAlloc_progress]
    obtain ⟨code, u⟩ := r
    dsimp only at start ⊢
    split
    · exact start
    · rw [State.modSess_progress fun e => ⟨by rfl, by rfl⟩, setFill_progress, writeStream_progress, start]

/-- SHARE or ADD_OWNER of a GRAFT, by whether `pfx` can become a run. -/
def joinRun (t x pfx : Nat) (first : Bool) (s : State) : Nat × State :=
  if first then stkShare t pfx x s
  else match s.runOf t pfx with
    | some n => stkAddOwner t n x s
    | none => (stNotShareable, s)

/-- The run's place in the grafting session's context. -/
def placeRun (t x pfx : Nat) (first : Bool) (r : Nat × State) : Nat × Nat × State :=
  if r.1 ≠ stOk then (r.1, 0, r.2)
  else match r.2.runOf t pfx with
  | none => (stNotShareable, 0, r.2)
  | some n =>
    let tokens := ((r.2.run t n).getD {}).tokens
    (stOk, tokens, (r.2.modSess t pfx (fun e => if first then { e with state := .frozen } else e)).modSess t x (fun e =>
      { e with
        grafts := e.grafts ++ [{ run := n, pfx := pfx, off := e.offNext, tokens := tokens }]
        offNext := e.offNext + tokens }))

theorem graftRun_eq (t x pfx : Nat) (s : State) :
    ∃ first, graftRun t x pfx s = placeRun t x pfx first (joinRun t x pfx first s) := ⟨_, rfl⟩

theorem joinRun_progress (x pfx : Nat) (first : Bool) (s : State) :
    (joinRun t x pfx first s).2.progress t sid = s.progress t sid := by
  unfold joinRun
  split
  · rw [stkShare_progress]
  · split
    · rw [stkAddOwner_progress]
    · rfl

theorem placeRun_progress (x pfx : Nat) (first : Bool) (r : Nat × State) :
    (placeRun t x pfx first r).2.2.progress t sid = r.2.progress t sid := by
  unfold placeRun
  split
  · rfl
  · split
    · rfl
    · dsimp only
      rw [State.modSess_progress fun e => ⟨by rfl, by rfl⟩,
        State.modSess_progress fun e => by split <;> exact ⟨rfl, rfl⟩]

theorem graftRun_progress (x pfx : Nat) (s : State) : (graftRun t x pfx s).2.2.progress t sid = s.progress t sid := by
  obtain ⟨first, run⟩ := graftRun_eq t x pfx s
  rw [run, placeRun_progress, joinRun_progress]

theorem releaseRun_progress (x pfx : Nat) (s : State) : (releaseRun t x pfx s).2.progress t sid = s.progress t sid := by
  unfold releaseRun
  split
  · rfl
  · dsimp only
    split
    · rw [State.modSess_progress fun e => ⟨by rfl, by rfl⟩, stkRelease_progress]
    · rw [stkRelease_progress]

theorem closeSession_progress (x : Nat) (s : State) : (closeSession t x s).progress t sid = s.progress t sid := by
  unfold closeSession
  rw [State.modTract_progress fun r => by rfl, State.modSess_progress fun e => ⟨by rfl, by rfl⟩]

/-! ## A copy is applied -/

theorem freeSession_gone (s : State) : (freeSession t sid s).sess t sid = none := by
  unfold freeSession
  split
  · assumption
  · dsimp only
    rw [State.sess, State.modTract_tract_self, Tab.look_drop, if_pos rfl]

theorem partnerBreak_of_copy {d : Nat} {e : Sess} (sess : s.sess t sid = some e) (copy : e.copyOf = some d) (reason : Nat) :
    partnerBreak t sid reason s = freeSession t sid (sendMirror d sid 0 moBreak 0 0 reason [] s) := by
  simp [partnerBreak, sess, copy]

theorem partnerBreak_progress (reason : Nat) (s : State) : (partnerBreak t sid reason s).progress t sid = s.progress t sid ∨
    (partnerBreak t sid reason s).sess t sid = none := by
  unfold partnerBreak
  split
  · exact .inl rfl
  · exact .inr (freeSession_gone _)

/-- A copy that is applied leaves the sequence as it is, or its session is gone. -/
theorem applyCopy_progress (p : Packet) (s : State) : (applyCopy t sid p s).progress t sid = s.progress t sid ∨
    (applyCopy t sid p s).sess t sid = none := by
  unfold applyCopy
  dsimp only
  split
  · have grown := growStream_progress (t := t) (sid := sid) sid (mirLayer p) true (mirOff p) (mirBody p) s
    split
    · exact .inl grown
    · exact (partnerBreak_progress ..).imp_left (·.trans grown)
  · split
    · exact .inl (graftRun_progress ..)
    · split
      · exact .inl (releaseRun_progress ..)
      · exact .inl (closeSession_progress ..)

theorem ackMirror_cel (t sid : Nat) (s : State) : (ackMirror t sid s).cel = s.cel := by
  unfold ackMirror
  split
  · rfl
  · split
    · rw [sendMirror_cel]
    · rfl

theorem ackMirror_sess (t sid : Nat) (s : State) (v x : Nat) : (ackMirror t sid s).sess v x = s.sess v x :=
  State.sess_congr (congrArg Tract.sessions (State.tract_congr (ackMirror_cel ..) v)) x

theorem State.progress_eq_some {e : Sess} (sess : s.sess t sid = some e) : s.progress t sid = some (e.applied, e.ahead) := by
  rw [State.progress, sess, Option.map_some]

/-- With no copy ahead nothing more is applied. -/
theorem applyInOrder_of_none (n : Nat) {x : Option Nat} (at_ : s.progress t sid = some (x, [])) :
    (applyInOrder t sid n s).progress t sid = some (x, []) := by
  cases n with
  | zero => exact at_
  | succ n =>
    cases sess : s.sess t sid with
    | none => simp [State.progress, sess] at at_
    | some e =>
      have ahead : e.ahead = [] := by simpa [State.progress, sess] using (at_ ▸ rfl : (s.progress t sid).map (·.2) = some [])
      simp only [applyInOrder, sess, ahead, Tab.look_nil, List.isEmpty_nil, if_true]
      rw [State.modSess_progress fun e => ⟨by rfl, by rfl⟩, at_]

theorem applyInOrder_of_gone (n : Nat) (gone : s.sess t sid = none) : applyInOrder t sid n s = s := by
  cases n with
  | zero => rfl
  | succ n => simp [applyInOrder, gone]

/-- The next copy of a session with none waiting is applied. -/
theorem applyInOrder_of_next {e : Sess} (sess : s.sess t sid = some e)
    (ahead : e.ahead = Tab.put none [] ((e.applied.getD 0 + 1) % 2 ^ 32) (some p)) (n : Nat) :
    (applyInOrder t sid (n + 1) s).sess t sid = none ∨
      (applyInOrder t sid (n + 1) s).progress t sid = some (some ((e.applied.getD 0 + 1) % 2 ^ 32), []) := by
  have front : Tab.look none e.ahead ((e.applied.getD 0 + 1) % 2 ^ 32) = some p := by rw [ahead, Tab.look_put_self]
  have rest : Tab.drop ((e.applied.getD 0 + 1) % 2 ^ 32) e.ahead = [] := by
    rw [ahead]
    simp [Tab.put, Tab.add, Tab.drop]
  simp only [applyInOrder, sess, front]
  generalize noted : s.modSess t sid _ = u
  have at_ : u.progress t sid = some (some ((e.applied.getD 0 + 1) % 2 ^ 32), []) := by
    rw [← noted, State.progress, State.modSess_sess_self, sess, Option.map_some, Option.map_some, rest]
  rcases applyCopy_progress (t := t) (sid := sid) p u with kept | gone
  · exact .inr (applyInOrder_of_none n (kept.trans at_))
  · rw [applyInOrder_of_gone n gone]
    exact .inl gone

/-! ## What comes of a packet of a primary -/

theorem takeCopy_of_absent (absent : s.sess (homeTract p.tsw0.toNat) p.tsw0.toNat = none) :
    takeCopy p s = s.modTract (homeTract p.tsw0.toNat) (fun r => { r with early := r.early ++ [(s.tickNow, p)] }) := by
  simp [takeCopy, absent]

theorem takeCopy_of_stranger {e : Sess} (sess : s.sess (homeTract p.tsw0.toNat) p.tsw0.toNat = some e)
    (stranger : e.copyOf ≠ some (p.src.toNat % 16384)) : takeCopy p s = rejectMirror s := by
  simp [takeCopy, sess, stranger]

/-- The next MSEQ is none that has been applied. -/
theorem seqLe_next (a : Nat) : seqLe ((a + 1) % 2 ^ 32) a = false := by
  unfold seqLe
  rw [decide_eq_false_iff_not]
  omega

theorem takeCopy_of_next {e : Sess} (sess : s.sess (homeTract p.tsw0.toNat) p.tsw0.toNat = some e)
    (own : e.copyOf = some (p.src.toNat % 16384)) (none_ : e.ahead = [])
    (next : p.tsw1.toNat = (e.applied.getD 0 + 1) % 2 ^ 32) :
    (takeCopy p s).sess (homeTract p.tsw0.toNat) p.tsw0.toNat = none ∨
      (takeCopy p s).progress (homeTract p.tsw0.toNat) p.tsw0.toNat = some (some p.tsw1.toNat, []) := by
  have waits : (s.modSess (homeTract p.tsw0.toNat) p.tsw0.toNat (fun e => { e with
      ahead := Tab.put none e.ahead p.tsw1.toNat (some p), gapTick := e.gapTick.or (some s.tickNow) })).sess
        (homeTract p.tsw0.toNat) p.tsw0.toNat =
      some { e with ahead := Tab.put none e.ahead p.tsw1.toNat (some p), gapTick := e.gapTick.or (some s.tickNow) } := by
    rw [State.modSess_sess_self, sess, Option.map_some]
  have taken := applyInOrder_of_next waits (p := p) (by rw [none_, next]) (e.ahead.length + 1)
  rw [← next] at taken
  unfold takeCopy
  simp only [sess, own, bne_self_eq_false, Bool.false_eq_true, if_false, next ▸ seqLe_next (e.applied.getD 0)]
  generalize applyInOrder _ _ _ _ = u at taken
  split
  · split
    · exact taken
    · rw [State.progress_of_cel (ackMirror_cel ..), ackMirror_sess]
      exact taken
  · exact taken

end Sys2Proof.Machine
end

section
/-! SUPPORT. A packet of a primary (R224-R226): what lets it in, and what its OPEN makes of a session that is not there. -/

namespace Sys2Proof.Machine

variable {p : Packet} {s : State}

/-- A mirror packet whose header and end-to-end CRC are good. -/
structure MirrorGood (op : Nat) (p : Packet) : Prop where
  wf    : Wf.packet p = true
  cls   : p.cls = 5
  ptype : p.ptype = 0x40
  op    : mirOp p = op
  crc   : packetCrc p p.payload = p.crc
  long  : 16 ≤ p.payload.length
  some  : p.tsw0.toNat ≠ 0xFFFFFFFF

/-- Each of the commands of a primary takes packets of its own OP. -/
theorem exec_request {c : Instr} {op : Nat} (listed : (c, op) ∈ [(Instr.mirrorOpen p, 1), (.mirrorData p, 2),
    (.mirrorGraft p, 3), (.mirrorRelease p, 4), (.mirrorClose p, 5), (.mirrorFetch p, 7)]) (wf : Wf.packet p = true)
    (s : State) : exec c s = .next (mirrorTakes op false fromPrimary p s) := by
  have run : exec c s = need (Wf.packet p) (mirrorTakes op false fromPrimary p s) := by
    simp only [List.mem_cons, Prod.mk.injEq, List.not_mem_nil, or_false] at listed
    rcases listed with ⟨rfl, rfl⟩ | ⟨rfl, rfl⟩ | ⟨rfl, rfl⟩ | ⟨rfl, rfl⟩ | ⟨rfl, rfl⟩ | ⟨rfl, rfl⟩ <;> rfl
  rw [run, need, if_pos wf]

/-- Good packets pass the checks of the header; replies need their partner, requests their primary. -/
theorem mirrorTakes_of_good {op : Nat} (good : MirrorGood op p) (live : s.flt.fatal = none) (reply : Bool)
    (f : Packet → State → State) : mirrorTakes op reply f p s =
      if reply then (if (takeInbox p s).fromPartner p then settleCore (f p (takeInbox p s)) else rejectMirror (takeInbox p s))
      else if !((s.part (homeTract p.tsw0.toNat)).partnersIn.getD []).contains (p.src.toNat % 16384)
      then rejectMirror (takeInbox p s)
      else if (s.tract (homeTract p.tsw0.toNat)).fenced then takeInbox p s
      else if (s.tract (homeTract p.tsw0.toNat)).quiesce
      then (takeInbox p s).modTract (homeTract p.tsw0.toNat) (fun r => { r with mirIn := r.mirIn ++ [p] })
      else settleCore (f p (takeInbox p s)) := by
  obtain ⟨-, cls, ptype, op_, crc, long, some_⟩ := good
  have here : (takeInbox p s).part = s.part := rfl
  have there : (takeInbox p s).tract = s.tract := rfl
  simp [mirrorTakes, State.isFatal, live, cls, ptype, op_, crc, Nat.not_lt.2 long, some_, nobody, here, there]

theorem rejectMirror_shown (p : Packet) (s : State) :
    (rejectMirror (takeInbox p s)).cel = { s.cel with mirRej := min 0xFFFFFFFF (s.cel.mirRej + 1) } ∧
      ChangesOnly [.cel, .inbox] s (rejectMirror (takeInbox p s)) :=
  ⟨rfl, rejectMirror_changes (takeInbox_changes (.refl _ s) (by decide)) (by decide)⟩

/-- A session's entry as its OPEN makes it; its geometry is free. -/
def openedCopy (p : Packet) (s : State) : Sess :=
  { geo := (freeGeometry s).1, copyOf := some (p.src.toNat % 16384), applied := some 0 }

/-- The entry is made and acknowledged, before the copies that were early are taken. -/
def openCopy (p : Packet) (s : State) : State :=
  ackMirror (homeTract p.tsw0.toNat) p.tsw0.toNat ((freeGeometry s).2.modTract (homeTract p.tsw0.toNat)
    (fun r => { r with sessions := Tab.add p.tsw0.toNat (some (openedCopy p s)) r.sessions }))

theorem openCopy_tract (p : Packet) (s : State) (v : Nat) : (openCopy p s).tract v =
    if v = homeTract p.tsw0.toNat
    then { s.tract v with sessions := Tab.add p.tsw0.toNat (some (openedCopy p s)) (s.tract v).sessions } else s.tract v := by
  rw [openCopy, State.tract_congr (ackMirror_cel ..), State.modTract_tract]
  split
  · rename_i here
    rw [here]
    rfl
  · rfl

/-- OPEN of a session that is not there, with room and no copy ahead of it. -/
theorem applyOpen_of_new (absent : s.sess (homeTract p.tsw0.toNat) p.tsw0.toNat = none)
    (room : (s.tract (homeTract p.tsw0.toNat)).sessions.length < 262144) (total : s.sessTotal < 4194304)
    (early : ∀ x ∈ (s.tract (homeTract p.tsw0.toNat)).early, x.2.tsw0.toNat ≠ p.tsw0.toNat) :
    ∃ f : Tract → Tract, (∀ r, (f r).sessions = r.sessions) ∧
      applyOpen p s = (openCopy p s).modTract (homeTract p.tsw0.toNat) f := by
  have none_ : ((openCopy p s).tract (homeTract p.tsw0.toNat)).early.filter (fun e =>
      e.2.tsw0.toNat == p.tsw0.toNat && e.2.src.toNat % 16384 == p.src.toNat % 16384) = [] := by
    rw [openCopy_tract, if_pos rfl, List.filter_eq_nil_iff]
    intro x hx
    simp [early x hx]
  unfold openCopy openedCopy at none_ ⊢
  refine ⟨fun r => { r with early := r.early.filter (fun e =>
    !(e.2.tsw0.toNat == p.tsw0.toNat && e.2.src.toNat % 16384 == p.src.toNat % 16384)) }, fun r => rfl, ?_⟩
  simp only [applyOpen, absent, Option.isSome_none, Bool.false_eq_true, if_false, Nat.not_le.2 room, Nat.not_le.2 total,
    decide_false, Bool.or_false, none_, List.foldl_nil]

end Sys2Proof.Machine

open Sys2Proof Sys2Proof.Machine

/-- Settles O26: the checks that let a packet in come first; OPEN, FETCH and the further copies then part by their OP, and
the next copy of a session with none waiting is applied at once. -/
theorem mirrorPartnerTakesCopies : Obligations.MirrorPartnerTakesCopies := by
  unfold Obligations.MirrorPartnerTakesCopies
  intro c op p s wf live listed cls ptype op_ crc long some_ sid t dev known rejected
  have good : MirrorGood op p := ⟨wf, cls, ptype, op_, crc, long, some_⟩
  have run := (exec_request listed wf s).trans (congrArg Host.Outcome.next (mirrorTakes_of_good good live false fromPrimary))
  simp only [Bool.false_eq_true, if_false] at run
  refine ⟨fun unknown => ?_, fun is fenced => ?_, fun is open_ quiet => ?_, fun is open_ idle => ?_⟩
  · refine ⟨_, run.trans (congrArg Host.Outcome.next (if_pos ?_)), rejectMirror_shown p s⟩
    simpa [known] using unknown
  all_goals rw [if_neg (by simpa [known] using is)] at run
  · rw [run, if_pos fenced]
  · rw [run, if_neg (by simp [t, sid] at open_; simp [open_]), if_pos quiet]
  · rw [if_neg (by simpa using open_), if_neg (by simpa using idle)] at run
    refine ⟨fun isOpen absent room total early => ?_, fun isFetch => ?_, fun notOpen notFetch => ⟨?_, fun absent => ?_,
      fun e sess stranger => ?_, fun e sess own none_ next => ?_⟩⟩
    · obtain ⟨f, kept, made⟩ := applyOpen_of_new (p := p) (s := takeInbox p s) absent room total early
      have frame : ChangesOnly [.cel, .swc, .inbox, .draws] s (openCopy p (takeInbox p s)) :=
        ackMirror_changes (ChangesOnly.modTract _ _ (freeGeometry_changes (takeInbox_changes (.refl _ s) (by decide))
          (by decide)) (by decide)) (by decide)
      rw [run, fromPrimary, if_pos (show mirOp p = moOpen from op_.trans isOpen), made]
      refine ⟨_, openedCopy p (takeInbox p s), rfl, ?_, rfl, rfl, rfl, fun v ne => ?_, ChangesOnly.modTract _ _ frame (by decide)⟩
      · rw [State.modTract_sess kept, State.sess, openCopy_tract, if_pos rfl, Tab.look_add, if_pos rfl]
      · rw [State.modTract_tract_of_ne ne, openCopy_tract, if_neg ne]
        rfl
    · rw [run, fromPrimary, if_neg (show mirOp p ≠ moOpen by rw [op_, isFetch]; decide),
        if_pos (show mirOp p = moFetch from op_.trans isFetch)]
    · rw [run, fromPrimary, if_neg (op_ ▸ notOpen), if_neg (op_ ▸ notFetch)]
    · exact takeCopy_of_absent absent
    · rw [takeCopy_of_stranger (s := takeInbox p s) sess stranger]
      exact rejectMirror_shown p s
    · refine (takeCopy_of_next (s := takeInbox p s) sess own none_ next).imp_right fun at_ => ?_
      obtain ⟨f, found, shown⟩ := Option.map_eq_some_iff.1 at_
      exact ⟨f, found, congrArg Prod.fst shown⟩

end

section
/-! SUPPORT. Bytes through writes to a stack (R214, R235): they depend on the Cellar, an armed injection and the fatal state
alone, and no byte outside the range changes. -/

namespace Sys2Proof.Machine

variable {s u : State}

/-! ## What a write depends on -/

/-- Two states whose Cellars, armed injections and fatal states are the same. -/
structure SameStacks (s u : State) : Prop where
  cel   : u.cel = s.cel
  armed : u.flt.armed = s.flt.armed
  fatal : u.flt.fatal = s.flt.fatal

theorem startPulse_armed (cls : Nat) (inj : Bool) (s : State) : (startPulse cls inj s).flt.armed = s.flt.armed := by
  unfold startPulse
  split <;> rfl

theorem queueFault_armed (f : FaultFrame) (s : State) : (queueFault f s).flt.armed = s.flt.armed := by
  obtain ⟨n, same⟩ := queueFault_flt f s
  rw [same]

theorem report_armed (e : FaultEvent) (s : State) : (report e s).flt.armed = s.flt.armed := by
  have signalled := (signal_changes (parts := [.host, .out]) (v := 3 - e.cls) (.refl _ s) (List.Subset.refl _)).flt_eq
    (by decide) (by decide)
  unfold report
  dsimp only
  rw [State.modFlt_flt, startPulse_armed]
  split
  · rw [queueFault_armed, signalled]
  · rw [signalled]

/-- A fault that is not FT leaves an injection armed. -/
theorem recordFault_armed {e : FaultEvent} (h : e.cls ≠ 3) (s : State) : (recordFault e s).flt.armed = s.flt.armed := by
  unfold recordFault
  dsimp only
  rw [if_neg h]
  change (if s.attic.openRecs.any (·.is e.source e.unit) = true then _ else _ : State).flt.armed = _
  split
  · rfl
  · rw [report_armed]
    rfl

namespace SameStacks

theorem modCel (h : SameStacks s u) (f : Cel → Cel) : SameStacks (s.modCel f) (u.modCel f) :=
  ⟨congrArg f h.cel, h.armed, h.fatal⟩

theorem modTract (h : SameStacks s u) (t : Nat) (f : Tract → Tract) : SameStacks (s.modTract t f) (u.modTract t f) := h.modCel _

theorem recordFault {e : FaultEvent} (h : SameStacks s u) (ft : e.cls ≠ 3) :
    SameStacks (Machine.recordFault e s) (Machine.recordFault e u) := by
  refine ⟨?_, ?_, ?_⟩
  · rw [recordFault_cel, recordFault_cel, h.cel]
  · rw [recordFault_armed ft, recordFault_armed ft, h.armed]
  · rw [(recordFault_of_not_ft ft u).frame .fatal (by decide), (recordFault_of_not_ft ft s).frame .fatal (by decide), h.fatal]

theorem correctedError (h : SameStacks s u) (t off access : Nat) (inj : Bool) :
    SameStacks (Machine.correctedError t off access inj s) (Machine.correctedError t off access inj u) := by
  unfold Machine.correctedError
  exact ((h.modTract t _).modTract t _).recordFault (by simp)

theorem eccInjection (h : SameStacks s u) (t w : Nat) : SameStacks (Machine.eccInjection t w s) (Machine.eccInjection t w u) := by
  have armedFor : u.armedFor 0 (unitTract t) = s.armedFor 0 (unitTract t) := by
    rw [State.armedFor, h.armed, State.armedFor]
  have used : SameStacks (useInjection false s) (useInjection false u) := by
    refine ⟨h.cel, ?_, h.fatal⟩
    simp only [useInjection, State.modFlt_flt, h.armed]
  unfold Machine.eccInjection
  dsimp only
  rw [armedFor, h.armed]
  split
  · exact h
  · exact used.modCel _

theorem writeWord (h : SameStacks s u) (t off : Nat) (data : Bytes) (w : Nat) :
    SameStacks (Machine.writeWord t off data w s) (Machine.writeWord t off data w u) := by
  unfold Machine.writeWord
  dsimp only
  rw [h.cel]
  split
  · exact (h.modTract t _).recordFault (by simp)
  · refine ((SameStacks.modCel ?_ _).modCel _).eccInjection t w
    split
    · exact h.correctedError ..
    · exact h

theorem writeWords (h : SameStacks s u) (t off : Nat) (data : Bytes) (ws : List Nat) : SameStacks
    (ws.foldl (fun v w => Machine.writeWord t off data w v) s) (ws.foldl (fun v w => Machine.writeWord t off data w v) u) := by
  induction ws generalizing s u with
  | nil => exact h
  | cons w r ih =>
    rw [List.foldl_cons, List.foldl_cons]
    exact ih (h.writeWord ..)

theorem cellWrite (h : SameStacks s u) (t off : Nat) (data : Bytes) :
    SameStacks (Machine.cellWrite t off data s) (Machine.cellWrite t off data u) := by
  have fatal : u.isFatal = s.isFatal := by rw [State.isFatal, h.fatal, State.isFatal]
  unfold Machine.cellWrite
  rw [fatal, State.tract_congr h.cel]
  split
  · exact h
  · exact h.writeWords ..

theorem writeStream (h : SameStacks s u) (t : Nat) (chain : List Nat) (g : Geometry) (off : Nat) (data : Bytes) :
    SameStacks (Machine.writeStream t chain g off data s) (Machine.writeStream t chain g off data u) := by
  unfold Machine.writeStream
  generalize streamRange chain g off data.length = l
  induction l generalizing data s u with
  | nil => exact h
  | cons p r ih => exact ih (h.cellWrite ..) _

end SameStacks

/-! ## Bytes outside the range -/

theorem correctedError_mem (t off access : Nat) (inj : Bool) (s : State) :
    (correctedError t off access inj s).cel.mem = s.cel.mem := by
  rw [correctedError_cel]
  rfl

theorem freshWord_mem (w : Nat) (s : State) : (freshWord w s).cel.mem = s.cel.mem := rfl

/-- An address outside a range of a Tract's stack. -/
def Beside (t off n x : Nat) : Prop := x < cellarAddr t off ∨ cellarAddr t off + n ≤ x

theorem byteAt_of_beside {t off x : Nat} {data : Bytes} (h : Beside t off data.length x) :
    byteAt (cellarAddr t off) data x = none := by
  unfold byteAt
  split
  · rename_i above
    exact List.getElem?_eq_none (by have := h.resolve_left (Nat.not_lt.2 above); omega)
  · rfl

theorem writeWord_beside {t off x : Nat} {data : Bytes} (h : Beside t off data.length x) (w : Nat) (s : State) :
    Memory.read (writeWord t off data w s).cel.mem x = Memory.read s.cel.mem x := by
  obtain ⟨e, -, run⟩ | ⟨v, lead, run⟩ := writeWord_cases t off data w s
  · rw [run, recordFault_cel]
    rfl
  · have start : v.cel.mem = s.cel.mem := by
      obtain rfl | ⟨o, rfl⟩ := lead
      · rfl
      · exact correctedError_mem ..
    rw [run, eccInjection_mem, freshWord_mem, State.modCel_cel, read_writePart, byteAt_of_beside h, ite_self,
      Option.getD_none, start]

theorem writeWords_beside {t off x : Nat} {data : Bytes} (h : Beside t off data.length x) (ws : List Nat) (s : State) :
    Memory.read (ws.foldl (fun v w => writeWord t off data w v) s).cel.mem x = Memory.read s.cel.mem x := by
  induction ws generalizing s with
  | nil => rfl
  | cons w r ih => rw [List.foldl_cons, ih, writeWord_beside h]

theorem cellWrite_beside {t off x : Nat} {data : Bytes} (h : Beside t off data.length x) (s : State) :
    Memory.read (cellWrite t off data s).cel.mem x = Memory.read s.cel.mem x := by
  unfold cellWrite
  split
  · rfl
  · exact writeWords_beside h _ s

theorem writeStream_beside {t off x : Nat} {chain : List Nat} {g : Geometry} {data : Bytes}
    (h : ∀ q ∈ streamRange chain g off data.length, Beside t q.1 q.2 x) (s : State) :
    Memory.read (writeStream t chain g off data s).cel.mem x = Memory.read s.cel.mem x := by
  unfold writeStream
  generalize streamRange chain g off data.length = l at h
  induction l generalizing data s with
  | nil => rfl
  | cons p r ih =>
    have first : Beside t p.1 (data.take p.2).length x := by
      refine (h p List.mem_cons_self).imp_right fun above => ?_
      have short := List.length_take_le p.2 data
      omega
    exact (ih _ (fun q hq => h q (List.mem_cons_of_mem _ hq))).trans (cellWrite_beside first s)

end Sys2Proof.Machine
end

section
/-! SUPPORT. The primary's side of a mirror (R225-R227, R251): copies and responses that leave, a mirror that breaks, a page
fetched back, and promotion. -/

namespace Sys2Proof.Machine

variable {t sid : Nat} {p : Packet} {s : State} {e : Sess}

/-! ## Copies and responses that wait -/

/-- What no copy that leaves touches. -/
theorem drainHeld_keeps {α : Type} {π : State → α} (cel : ∀ u v : State, v.cel = u.cel → π v = π u)
    (tract : ∀ (f : Tract → Tract) (u : State), (∀ r, (f r).sessions = r.sessions) → π (u.modTract t f) = π u)
    (dev n : Nat) (s : State) : π (drainHeld t dev n s) = π s := by
  induction n generalizing s with
  | zero => rfl
  | succ n ih =>
    unfold drainHeld
    split
    · rfl
    · split
      · unfold putCopy
        rw [ih, cel _ _ (inject_cel ..), tract _ _ fun r => by rfl, tract _ _ fun r => by rfl]
      · rfl

theorem drainHeld_sess (dev n : Nat) (s : State) (x : Nat) : (drainHeld t dev n s).sess t x = s.sess t x :=
  drainHeld_keeps (π := fun u => u.sess t x)
    (fun _ _ same => State.sess_congr (congrArg Tract.sessions (State.tract_congr same t)) x)
    (fun _ _ h => State.modTract_sess h ..) dev n s

theorem drainHeld_mirBroken (dev n : Nat) (s : State) : (drainHeld t dev n s).cel.mirBroken = s.cel.mirBroken :=
  drainHeld_keeps (π := fun u => u.cel.mirBroken) (fun _ _ same => by rw [same]) (fun _ _ _ => rfl) dev n s

theorem drainHeld_of_idle (h : (s.tract t).mirHeld = []) (dev n : Nat) : drainHeld t dev n s = s := by
  cases n with
  | zero => rfl
  | succ n => simp [drainHeld, h]

theorem drainHeld_attic (dev n : Nat) (s : State) : (drainHeld t dev n s).attic = s.attic :=
  drainHeld_changes (.refl _ s) (List.Subset.refl _) .attic (by decide)

theorem releaseHeldResponses_cel (c : HeldResp → Bool) (f : Packet → Packet) (s : State) :
    (releaseHeldResponses t c f s).cel = s.cel :=
  (releaseHeldResponses_changes (.refl _ s) (List.Subset.refl _)).cel_eq (by decide) (by decide)

theorem releaseHeldResponses_attic (c : HeldResp → Bool) (f : Packet → Packet) (s : State) :
    (releaseHeldResponses t c f s).attic = s.attic :=
  releaseHeldResponses_changes (.refl _ s) (List.Subset.refl _) .attic (by decide)

/-- The responses that meet the test are no longer held. -/
theorem releaseHeldResponses_held (c : HeldResp → Bool) (f : Packet → Packet) (s : State) :
    ((releaseHeldResponses t c f s).attn t).held = (s.attn t).held.filter (fun h => !c h) := by
  have sent (h : HeldResp) (u : State) : (h.pkts.foldl (fun u q => inject h.slot (f q) u) u).ats = u.ats :=
    foldl_keeps (π := State.ats) (g := fun u q => inject h.slot (f q) u)
      (fun u _ => inject_changes (.refl _ u) (List.Subset.refl _) .ats (by decide)) _ u
  unfold releaseHeldResponses
  dsimp only
  rw [State.attn, foldl_keeps (π := State.ats) (fun u h => sent h u)]
  exact congrArg AtsTract.held (State.modAtsTract_attn_self ..)

theorem releaseHeldResponses_none_left (f : Packet → Packet) (s : State) :
    ∀ h ∈ ((releaseHeldResponses t (·.sid == sid) f s).attn t).held, h.sid ≠ sid := by
  intro h hh
  rw [releaseHeldResponses_held] at hh
  simpa using (List.mem_filter.1 hh).2

/-! ## ACK -/

/-- The acknowledged MSEQ is noted, and the copies it covers are no longer outstanding. -/
def ackNoted (p : Packet) (s : State) : State :=
  (s.modSess (homeTract p.tsw0.toNat) p.tsw0.toNat (fun e => { e with acked := some (mirAux p) })).modTract
    (homeTract p.tsw0.toNat)
    (fun r => { r with mirOut := r.mirOut.filter (fun c => !(c.sid == p.tsw0.toNat && seqLe c.mseq (mirAux p))) })

theorem mirrorAck_cel (p : Packet) (s : State) :
    ∃ dev n, (mirrorAck p s).cel = (drainHeld (homeTract p.tsw0.toNat) dev n (ackNoted p s)).cel :=
  ⟨_, _, releaseHeldResponses_cel ..⟩

theorem mirrorAck_sess (p : Packet) (s : State) : (mirrorAck p s).sess (homeTract p.tsw0.toNat) p.tsw0.toNat =
    (s.sess (homeTract p.tsw0.toNat) p.tsw0.toNat).map (fun e => { e with acked := some (mirAux p) }) := by
  obtain ⟨dev, n, cel⟩ := mirrorAck_cel p s
  rw [State.sess_congr (congrArg Tract.sessions (State.tract_congr cel _)), drainHeld_sess, ackNoted,
    State.modTract_sess fun r => by rfl, State.modSess_sess_self]

theorem mirrorAck_mirOut (idle : (s.tract (homeTract p.tsw0.toNat)).mirHeld = []) :
    ((mirrorAck p s).tract (homeTract p.tsw0.toNat)).mirOut = (s.tract (homeTract p.tsw0.toNat)).mirOut.filter
      (fun c => !(c.sid == p.tsw0.toNat && seqLe c.mseq (mirAux p))) := by
  obtain ⟨dev, n, cel⟩ := mirrorAck_cel p s
  have still : ((ackNoted p s).tract (homeTract p.tsw0.toNat)).mirHeld = [] := by
    rw [ackNoted, State.modTract_tract_self, State.modSess_tract, idle]
  rw [State.tract_congr cel, drainHeld_of_idle still, ackNoted, State.modTract_tract_self, State.modSess_tract]

/-! ## A mirror breaks (R226) -/

/-- Where no mirror breaks. -/
theorem breakMirror_of_absent (absent : s.sess t sid = none) : breakMirror t sid s = s := by simp [breakMirror, absent]

/-- The session is noted as unmirrored, its break is counted and recorded, and none of its copies is outstanding. -/
def breakNoted (t sid : Nat) (s : State) : State :=
  (recordFault { source := 0x0507, unit := unitTract t, cls := 1, addr := sid }
    ((s.modSess t sid (fun e => { e with broken := true })).modCel (fun c => { c with mirBroken := sat32 c.mirBroken }))).modTract
      t (fun r => { r with mirOut := r.mirOut.filter (·.sid != sid), mirHeld := r.mirHeld.filter (fun e => e.2.tsw0.toNat != sid) })

theorem breakMirror_of_whole (sess : s.sess t sid = some e) (mirrored : e.mirror.isSome = true) (whole : e.broken = false) :
    ∃ dev n, breakMirror t sid s =
      releaseHeldResponses t (·.sid == sid) markLost (drainHeld t dev n (breakNoted t sid s)) := by
  refine ⟨e.mirror.getD 0, ((breakNoted t sid s).tract t).mirHeld.length, ?_⟩
  simp only [breakMirror, sess, whole, Option.isNone_eq_false_iff.2 mirrored, Bool.or_self, Bool.false_eq_true, if_false]
  rfl

theorem breakMirror_broken (sess : s.sess t sid = some e) (mirrored : e.mirror.isSome = true) (whole : e.broken = false) :
    (breakMirror t sid s).sess t sid = some { e with broken := true } ∧
      (breakMirror t sid s).cel.mirBroken = min 0xFFFFFFFF (s.cel.mirBroken + 1) ∧
      (∀ h ∈ ((breakMirror t sid s).attn t).held, h.sid ≠ sid) ∧
      ∃ r ∈ (breakMirror t sid s).attic.openRecs, r.source = 0x0507 := by
  obtain ⟨dev, n, run⟩ := breakMirror_of_whole sess mirrored whole
  rw [run]
  refine ⟨?_, ?_, releaseHeldResponses_none_left _ _, ?_⟩
  · rw [State.sess_congr (congrArg Tract.sessions (State.tract_congr (releaseHeldResponses_cel ..) t)), drainHeld_sess,
      breakNoted, State.modTract_sess fun r => by rfl,
      State.sess_congr (congrArg Tract.sessions (recordFault_tract ..)),
      State.sess_congr (congrArg Tract.sessions (State.modCel_tract rfl t)), State.modSess_sess_self, sess, Option.map_some]
  · rw [releaseHeldResponses_cel, drainHeld_mirBroken]
    change (recordFault _ _).cel.mirBroken = _
    rw [recordFault_cel]
    rfl
  · rw [releaseHeldResponses_attic, drainHeld_attic]
    obtain ⟨r, listed, source, -⟩ := (recordFault_of_not_ft
      (e := { source := 0x0507, unit := unitTract t, cls := 1, addr := sid }) (show 1 ≠ 3 by decide)
      ((s.modSess t sid (fun e => { e with broken := true })).modCel (fun c => { c with mirBroken := sat32 c.mirBroken }))).opened
    exact ⟨r, listed, source⟩

/-! ## FETCH_DATA (R226) -/

/-- Nothing is fetched for a page that is not damaged. -/
theorem mirrorFetchData_of_whole (sess : s.sess (homeTract p.tsw0.toNat) p.tsw0.toNat = some e)
    (whole : ((s.chainOf (homeTract p.tsw0.toNat) p.tsw0.toNat (mirLayer p))[mirOff p /
      (tokensPerPage e.geo * recordBytes e.geo)]?).all (fun g => !(s.page (homeTract p.tsw0.toNat) g).damaged) = true) :
    mirrorFetchData p s = s := by
  simp only [mirrorFetchData, sess]
  split
  · rfl
  · rename_i g found
    rw [found, Option.all_some] at whole
    rw [if_pos whole]

/-- The bytes are written, and with the last piece the damage ends. -/
theorem mirrorFetchData_of_damaged {g : Nat} (sess : s.sess (homeTract p.tsw0.toNat) p.tsw0.toNat = some e)
    (found : (s.chainOf (homeTract p.tsw0.toNat) p.tsw0.toNat (mirLayer p))[mirOff p /
      (tokensPerPage e.geo * recordBytes e.geo)]? = some g)
    (damaged : (s.page (homeTract p.tsw0.toNat) g).damaged = true) :
    let span := tokensPerPage e.geo * recordBytes e.geo
    let u := writeStream (homeTract p.tsw0.toNat) (s.chainOf (homeTract p.tsw0.toNat) p.tsw0.toNat (mirLayer p)) e.geo
      (mirOff p) (mirBody p) s
    ((mirrorFetchData p s).page (homeTract p.tsw0.toNat) g).damaged =
        !decide (mirOff p / span * span + (s.page (homeTract p.tsw0.toNat) g).fill * 64 ≤ mirOff p + (mirBody p).length) ∧
      (mirrorFetchData p s).cel.mem = u.cel.mem := by
  intro span u
  have kept : ((u.page (homeTract p.tsw0.toNat) g).fill, (u.page (homeTract p.tsw0.toNat) g).damaged) =
      ((s.page (homeTract p.tsw0.toNat) g).fill, (s.page (homeTract p.tsw0.toNat) g).damaged) :=
    congrFun (congrArg Prod.snd (writeStream_kept (t := homeTract p.tsw0.toNat) ..)) g
  obtain ⟨fill, still⟩ := Prod.mk.inj kept
  simp only [mirrorFetchData, sess, found, damaged, Bool.not_true, Bool.false_eq_true, if_false]
  change (State.page (if mirOff p / span * span + (u.page _ g).fill * 64 ≤ _ then _ else u) _ g).damaged = _ ∧
    (State.cel (if mirOff p / span * span + (u.page _ g).fill * 64 ≤ _ then _ else u)).mem = _
  rw [fill]
  split
  · rename_i last
    rw [State.modPage_page_self, decide_eq_true last]
    exact ⟨rfl, rfl⟩
  · rename_i more
    rw [still, damaged, decide_eq_false more]
    exact ⟨rfl, rfl⟩

end Sys2Proof.Machine
end

section
/-! SUPPORT. Promotion (R227): what each Tract's table of sessions becomes. -/

namespace Sys2Proof.Machine

variable {s : State}

/-- A table changed under some of its numbers. -/
theorem Tab.look_map_under {α : Type} {d : α} {f : α → α} (h : f d = d) (under : Nat → Bool) (t : Tab α) (k : Nat) :
    Tab.look d (t.map (fun e => if under e.1 then (e.1, f e.2) else e)) k =
      if under k then f (Tab.look d t k) else Tab.look d t k := by
  induction t with
  | nil => simp [h]
  | cons e r ih =>
    rw [List.map_cons, Tab.look, apply_ite Prod.fst, ite_self, apply_ite Prod.snd, ih, Tab.look]
    by_cases here : e.1 = k
    · simp [here]
    · simp [here]

/-- Each Tract of a list changed alike. -/
theorem foldl_modTract (f : Tract → Tract) {l : List Nat} (distinct : l.Nodup) (s : State) (t : Nat) :
    (l.foldl (fun u v => u.modTract v f) s).tract t = if t ∈ l then f (s.tract t) else s.tract t := by
  induction l generalizing s with
  | nil => rfl
  | cons v r ih =>
    obtain ⟨out, rest⟩ := List.nodup_cons.1 distinct
    rw [List.foldl_cons, ih rest, State.modTract_tract]
    by_cases here : t = v
    · subst here
      simp [out]
    · simp [here]

/-- The numbers of the sessions that are copies of lost primaries. -/
def Tract.orphans (lost : List Nat) (r : Tract) : List Nat :=
  (r.sessions.filter (fun e => ((e.2.bind (·.copyOf)).map lost.contains) == some true)).map (·.1)

/-- A copy that is an own session. -/
def Sess.own (x : Sess) : Sess := { x with copyOf := none, applied := none, ahead := [], gapTick := none }

/-- A Tract whose orphans are own sessions, in the own pool. -/
def Tract.promoted (lost : List Nat) (r : Tract) : Tract :=
  { r with
    sessions := r.sessions.map (fun e => if (r.orphans lost).contains e.1 then (e.1, e.2.map Sess.own) else e)
    pages := r.pages.map (fun e =>
      let theirs := match e.2.state with
        | .shared => match Tab.look none r.runs e.2.run with
          | some x => x.owners.any (r.orphans lost).contains
          | none => false
        | _ => (r.orphans lost).contains e.2.owner
      if e.2.mirrorPool && theirs then (e.1, { e.2 with mirror := false, mirrorPool := false }) else e) }

theorem mirrorPromote_of_lost (lost : s.cel.promote ≠ []) : mirrorPromote s =
    (List.range 32).foldl (fun u t => u.modTract t (Tract.promoted s.cel.promote))
      ((advanceTo (s.markAt s.bel.gt) s).modCel (fun c => { c with promote := [] })) := by
  unfold mirrorPromote
  dsimp only
  rw [if_neg (by simpa using lost)]
  rfl

/-- At the mark every Tract is promoted, and nothing waits for promotion any more. -/
theorem mirrorPromote_done (lost : s.cel.promote ≠ []) : (mirrorPromote s).cel.promote = [] ∧
    (mirrorPromote s).bel.gt = (advanceTo (s.markAt s.bel.gt) s).bel.gt ∧
    ∀ t < 32, ∀ sid, (mirrorPromote s).sess t sid = if ((s.tract t).orphans s.cel.promote).contains sid
      then (s.sess t sid).map Sess.own else s.sess t sid := by
  rw [mirrorPromote_of_lost lost]
  refine ⟨?_, ?_, fun t lt sid => ?_⟩
  · exact foldl_keeps (π := fun u => u.cel.promote) (fun _ _ => by rfl) ..
  · exact foldl_keeps (π := fun u => u.bel.gt) (fun _ _ => by rfl) ..
  · have start : ((advanceTo (s.markAt s.bel.gt) s).modCel (fun c => { c with promote := [] })).tract t = s.tract t := by
      rw [State.modCel_tract rfl, State.tract_congr (advanceTo_cel ..)]
    rw [State.sess, foldl_modTract _ List.nodup_range, if_pos (List.mem_range.2 lt), start]
    exact Tab.look_map_under rfl _ (s.tract t).sessions sid

/-- A session that is a copy of a lost primary is among the orphans. -/
theorem mem_orphans {t sid d : Nat} {e : Sess} {lost : List Nat} (sess : s.sess t sid = some e) (copy : e.copyOf = some d)
    (named : d ∈ lost) : sid ∈ (s.tract t).orphans lost := by
  refine List.mem_map.2 ⟨(sid, some e), List.mem_filter.2 ⟨Tab.mem_of_look (by simp) sess, ?_⟩, rfl⟩
  simp [copy, named]

/-- In a table in canonical form, only such a session is. -/
theorem copyOf_of_mem_orphans {t sid : Nat} {e : Sess} {lost : List Nat} (wf : Tab.wf none (s.tract t).sessions = true)
    (sess : s.sess t sid = some e) (mem : sid ∈ (s.tract t).orphans lost) : ∃ d ∈ lost, e.copyOf = some d := by
  obtain ⟨⟨k, x⟩, listed, rfl⟩ := List.mem_map.1 mem
  obtain ⟨there, orphan⟩ := List.mem_filter.1 listed
  obtain rfl : x = some e := (Tab.look_of_mem wf there).symm.trans sess
  cases copy : e.copyOf with
  | none => simp [copy] at orphan
  | some d => exact ⟨d, by simpa [copy] using orphan, rfl⟩

end Sys2Proof.Machine
end

section
/-! SUPPORT. Replies of a partner and the time limits of a mirror (R224-R227): what each command comes to. -/

namespace Sys2Proof.Machine

variable {p : Packet} {s : State} {t sid : Nat} {e : Sess}

/-- A reply from the partner of an unbroken mirror comes from its partner. -/
theorem fromPartner_of_mirror (sess : s.sess (homeTract p.tsw0.toNat) p.tsw0.toNat = some e)
    (partner : e.mirror = some (p.src.toNat % 16384)) (whole : e.broken = false) : s.fromPartner p = true := by
  simp [State.fromPartner, sess, partner, whole]

/-- Each of the commands of a partner takes replies of its own OP. -/
theorem exec_reply {c : Instr} {op : Nat} {f : Packet → State → State} (run : ∀ s, exec c s =
    need (Wf.packet p) (mirrorTakes op true f p s)) (good : MirrorGood op p) (live : s.flt.fatal = none)
    (partner : s.fromPartner p = true) : exec c s = .next (settleCore (f p (takeInbox p s))) := by
  have there : (takeInbox p s).fromPartner p = true := partner
  rw [run, need, if_pos good.wf, mirrorTakes_of_good good live, if_pos rfl, if_pos there]

theorem exec_mirrorWaitExpire (ht : t < 32) (live : s.flt.fatal = none) :
    exec (.mirrorWaitExpire t sid) s = .next (settleCore (mirrorWaitExpire t sid s)) := by
  change execMirrorWaitExpire t sid s = _
  simp [execMirrorWaitExpire, need, Wf.tract, ht, State.isFatal, live]

theorem exec_mirrorGapTimeout (ht : t < 32) (live : s.flt.fatal = none) :
    exec (.mirrorGapTimeout t sid) s = .next (settleCore (mirrorGapTimeout t sid s)) := by
  change execMirrorGapTimeout t sid s = _
  simp [execMirrorGapTimeout, need, Wf.tract, ht, State.isFatal, live]

theorem exec_mirrorPromoteRequest {d : Nat} (hd : d < 16384) (live : s.flt.fatal = none) (stage : 4 ≤ s.glb.stage)
    (free : s.flt.rstWaiting = none) : exec (.mirrorPromoteRequest d) s = .next (promoteRequest d s) := by
  change execMirrorPromoteRequest d s = _
  simp [execMirrorPromoteRequest, need, Wf.device, hd, onBlock, live, free, Nat.not_lt.2 stage]

theorem exec_mirrorPromote (live : s.flt.fatal = none) : exec .mirrorPromote s = .next (mirrorPromote s) := by
  change execMirrorPromote s = _
  simp [execMirrorPromote, State.isFatal, live]

theorem advanceTo_sess (l : Nat) (s : State) (t sid : Nat) : (advanceTo l s).sess t sid = s.sess t sid :=
  State.sess_congr (congrArg Tract.sessions (State.tract_congr (advanceTo_cel ..) t)) sid

theorem releaseHeldResponses_gt (c : HeldResp → Bool) (f : Packet → Packet) (s : State) :
    (releaseHeldResponses t c f s).bel.gt = s.bel.gt :=
  releaseHeldResponses_changes (.refl _ s) (List.Subset.refl _) .gt (by decide)

theorem breakMirror_gt (t sid : Nat) (s : State) : (breakMirror t sid s).bel.gt = s.bel.gt :=
  breakMirror_changes (.refl _ s) (List.Subset.refl _) .gt (by decide)

/-- A response that has waited MIRROR_WAIT breaks its mirror. -/
theorem mirrorWaitExpire_of_held {h : HeldResp} (held : (s.attn t).held.find? (·.sid == sid) = some h) :
    mirrorWaitExpire t sid s = releaseHeldResponses t (·.sid == sid) markLost
      (breakMirror t sid (advanceTo ((h.tick + s.cel.wait) * s.tickLen) s)) := by
  simp [mirrorWaitExpire, held]

/-- Copies held ahead of their OPEN for MIRROR_WAIT. -/
theorem mirrorGapTimeout_of_early {x : Nat × Packet} (absent : s.sess t sid = none)
    (early : (s.tract t).early.find? (fun e => e.2.tsw0.toNat == sid) = some x) :
    mirrorGapTimeout t sid s = sendMirror (x.2.src.toNat % 16384) sid 0 moBreak 0 0 2 []
      ((advanceTo ((x.1 + s.cel.wait) * s.tickLen) s).modTract t (fun r => { r with
        early := r.early.filter (fun e => e.2.tsw0.toNat != sid) })) := by
  simp only [mirrorGapTimeout, absent, early]

/-- A gap unfilled for MIRROR_WAIT. -/
theorem mirrorGapTimeout_of_gap {g d : Nat} (sess : s.sess t sid = some e) (gap : e.gapTick = some g)
    (copy : e.copyOf = some d) (ahead : e.ahead ≠ []) :
    mirrorGapTimeout t sid s = partnerBreak t sid 2 (advanceTo ((g + s.cel.wait) * s.tickLen) s) := by
  simp [mirrorGapTimeout, sess, gap, copy, ahead]

end Sys2Proof.Machine

open Sys2Proof Sys2Proof.Machine

/-- Settles O27: a reply that passes the checks acts on its session alone; the limits act at their GT; at the mark each
Tract's copies of lost primaries become own sessions. -/
theorem mirrorPrimaryHearsItsPartner : Obligations.MirrorPrimaryHearsItsPartner := by
  unfold Obligations.MirrorPrimaryHearsItsPartner
  refine ⟨?_, ?_, ?_⟩
  · intro p e s wf live cls ptype crc long some_ sid t _ sess partner whole
    have good {op : Nat} (op_ : mirOp p = op) : MirrorGood op p := ⟨wf, cls, ptype, op_, crc, long, some_⟩
    have heard : s.fromPartner p = true := fromPartner_of_mirror sess partner whole
    have there : (takeInbox p s).sess t sid = some e := sess
    refine ⟨fun op_ => ?_, fun op_ => ?_, fun op_ undamaged => ?_, fun g op_ => ?_⟩
    · refine ⟨_, _, exec_reply (fun _ => rfl) (good op_) live heard, ?_, rfl, fun idle => ?_,
        mirrorAck_changes (takeInbox_changes (.refl _ s) (by decide)) (by decide)⟩
      · rw [mirrorAck_sess, there, Option.map_some]
      · exact mirrorAck_mirOut (s := takeInbox p s) idle
    · obtain ⟨broken, counted, held, noted⟩ := breakMirror_broken there (Option.isSome_of_eq_some partner) whole
      exact ⟨_, _, exec_reply (fun _ => rfl) (good op_) live heard, broken, rfl, counted, held, noted,
        breakMirror_changes (takeInbox_changes (.refl _ s) (by decide)) (by decide)⟩
    · refine ⟨takeInbox p s, ?_, takeInbox_changes (.refl _ s) (by decide)⟩
      rw [exec_reply (fun _ => rfl) (good op_) live heard, mirrorFetchData_of_whole there undamaged]
    · intro span chain found damaged
      obtain ⟨ends, bytes⟩ := mirrorFetchData_of_damaged (s := takeInbox p s) there found damaged
      have same : (writeStream t chain e.geo (mirOff p) (mirBody p) (takeInbox p s)).cel.mem =
          (writeStream t chain e.geo (mirOff p) (mirBody p) s).cel.mem :=
        congrArg Cel.mem (SameStacks.writeStream (s := s) (u := takeInbox p s) ⟨rfl, rfl, rfl⟩ ..).cel
      refine ⟨_, exec_reply (fun _ => rfl) (good op_) live heard, ends, bytes.trans same, fun a beside => ?_,
        mirrorFetchData_changes (takeInbox_changes (.refl _ s) (by decide)) (by decide)⟩
      rw [bytes.trans same, writeStream_beside beside]
  · intro t sid s ht live
    refine ⟨fun h e held sess mirrored whole => ?_, fun h held absent => ?_, fun x absent early => ?_,
      fun e g d sess gap copy ahead => ?_⟩
    · rw [exec_mirrorWaitExpire ht live, mirrorWaitExpire_of_held held]
      refine ⟨_, { e with broken := true }, rfl, ?_, rfl, ?_, releaseHeldResponses_none_left _ _, ?_⟩
      · rw [State.sess_congr (congrArg Tract.sessions (State.tract_congr (releaseHeldResponses_cel ..) t)),
          (breakMirror_broken ((advanceTo_sess ..).trans sess) mirrored whole).1]
      · rw [releaseHeldResponses_gt, breakMirror_gt]
      · exact releaseHeldResponses_changes (breakMirror_changes ((advanceTo_frame _ s).mono (by decide)) (by decide))
          (by decide)
    · rw [exec_mirrorWaitExpire ht live, mirrorWaitExpire_of_held held,
        breakMirror_of_absent ((advanceTo_sess ..).trans absent)]
      exact ⟨_, rfl, releaseHeldResponses_gt .., releaseHeldResponses_none_left _ _,
        releaseHeldResponses_changes ((advanceTo_frame _ s).mono (by decide)) (by decide)⟩
    · rw [exec_mirrorGapTimeout ht live, mirrorGapTimeout_of_early absent early]
      refine ⟨_, rfl, ?_, ?_, ?_⟩
      · rw [State.tract_congr (sendMirror_cel ..), State.modTract_tract_self, State.tract_congr (advanceTo_cel ..)]
      · exact sendMirror_changes (.refl _ _) (List.Subset.refl _) .gt (by decide)
      · exact sendMirror_changes (ChangesOnly.modTract _ _ ((advanceTo_frame _ s).mono (by decide)) (by decide)) (by decide)
    · rw [exec_mirrorGapTimeout ht live, mirrorGapTimeout_of_gap sess gap copy ahead]
      refine ⟨_, rfl, ?_, ?_, ?_⟩
      · rw [partnerBreak_of_copy ((advanceTo_sess ..).trans sess) copy, freeSession_gone]
      · exact partnerBreak_changes (.refl _ _) (List.Subset.refl _) .gt (by decide)
      · exact partnerBreak_changes ((advanceTo_frame _ s).mono (by decide)) (by decide)
  · intro d s hd live
    refine ⟨fun stage free => exec_mirrorPromoteRequest hd live stage free, fun named => ?_⟩
    obtain ⟨cleared, at_, promoted⟩ := mirrorPromote_done (s := s) (List.ne_nil_of_mem named)
    refine ⟨_, exec_mirrorPromote live, cleared, at_, fun t sid e lt sess copy => ?_, fun t sid e lt wf sess other => ?_,
      mirrorPromote_changes (.refl _ s) (by decide)⟩
    · have orphan := List.contains_iff_mem.2 (mem_orphans sess copy named)
      rw [promoted t lt, if_pos orphan, sess]
      exact ⟨_, rfl, rfl, rfl, rfl, rfl⟩
    · rw [promoted t lt, if_neg, sess]
      intro orphan
      obtain ⟨x, lost, copy⟩ := copyOf_of_mem_orphans wf sess (List.contains_iff_mem.1 orphan)
      exact other x lost copy

end

section
/-! SUPPORT. Batches (R243, R248, R359): what a Tract's oldest batch leaves when it is computed, and what a batch whose
Crofts hang leaves. -/

namespace Sys2Proof.Machine

variable {t : Nat} {s : State}

/-! ## The commands outside the fatal state -/

section
variable (ht : t < 32) (live : s.flt.fatal = none)
include ht live

theorem exec_attentionBatch : exec (.attentionBatch t) s = .next (settleCore (attentionBatch t s)) := by
  change execAttentionBatch t s = _
  simp [execAttentionBatch, need, Wf.tract, ht, State.isFatal, live]

theorem exec_batchLate : exec (.batchLate t) s = .next (batchLate t s) := by
  change execBatchLate t s = _
  simp [execBatchLate, need, Wf.tract, ht, State.isFatal, live]

theorem exec_batchHung {cs : List Nat} (named : cs.all Wf.physCroft = true) :
    exec (.batchHung t cs) s = .next (settleCore (batchHung t cs s)) := by
  change execBatchHung t cs s = _
  rw [execBatchHung, named]
  simp [need, Wf.tract, ht, State.isFatal, live]

theorem exec_reclaim : exec (.reclaim t) s = .next (reclaim t s) := by
  change execReclaim t s = _
  simp [execReclaim, need, Wf.tract, ht, State.isFatal, live]

end

/-! ## The oldest batch -/

theorem State.attn_congr {u : State} (h : u.ats = s.ats) (v : Nat) : u.attn v = s.attn v := by
  rw [State.attn, h, State.attn]

theorem advanceTo_attn (l : Nat) (s : State) (v : Nat) : (advanceTo l s).attn v = s.attn v :=
  State.attn_congr (advanceTo_frame l s .ats (by decide)) v

theorem rollMeters_batch (s : State) : ((rollMeters t s).attn t).batch = (s.attn t).batch := by
  unfold rollMeters
  dsimp only
  split
  · rfl
  · rw [State.modAtsTract_attn_self]

/-- A Tract holds these requests and no other in its queue. -/
def State.setBatch (s : State) (t : Nat) (left : List Admitted) : State :=
  s.modAtsTract t (fun a => { a with batch := left })

theorem State.setBatch_batch (left : List Admitted) : ((s.setBatch t left).attn t).batch = left := by
  rw [State.setBatch, State.modAtsTract_attn_self]

section
variable {r : Admitted} {rest : List Admitted} (queue : (s.attn t).batch = r :: rest)
include queue

theorem takeBatch_of_cons : takeBatch t s = ((s.attn t).batch.filter (·.tick == r.tick),
    s.setBatch t ((s.attn t).batch.filter (·.tick != r.tick))) := by
  have left : (s.attn t).batch.filter (·.tick != r.tick) =
      (Tab.look ({} : AtsTract) s.ats.tracts t).batch.filter (·.tick != r.tick) := rfl
  rw [left]
  simp only [takeBatch, queue]
  rfl

/-- Its requests are answered in the order of their admission (R243). -/
theorem attentionBatch_of_cons : attentionBatch t s =
    ((s.attn t).batch.filter (·.tick == r.tick)).foldl (fun x q => computeRequest t q x)
      ((rollMeters t (advanceTo ((r.tick + 1) * s.tickLen) s)).setBatch t
        ((s.attn t).batch.filter (·.tick != r.tick))) := by
  have same : ((rollMeters t (advanceTo ((r.tick + 1) * s.tickLen) s)).attn t).batch = (s.attn t).batch := by
    rw [rollMeters_batch, advanceTo_attn]
  simp only [attentionBatch, queue]
  rw [takeBatch_of_cons (same.trans queue), same, queue]

theorem batchLate_of_cons : batchLate t s = recordFault
    { source := 0x0603, unit := unitTract t, cls := 1, access := 0x0B, addr := r.tick % 2 ^ 32 }
    (advanceTo ((r.tick + 2) * s.tickLen) s) := by simp only [batchLate, queue]

/-- A late batch is recorded at its mark, and stays (R359). -/
theorem batchLate_shown (live : s.flt.fatal = none) :
    (∃ f ∈ (batchLate t s).attic.openRecs, f.source = 0x0603 ∧ f.unit = 0x2200 + t) ∧ (batchLate t s).ats = s.ats ∧
      (batchLate t s).bel.gt = (advanceTo ((r.tick + 2) * s.tickLen) s).bel.gt ∧ (batchLate t s).flt.fatal = none := by
  have noted := recordFault_of_not_ft
    (e := { source := 0x0603, unit := unitTract t, cls := 1, access := 0x0B, addr := r.tick % 2 ^ 32 }) (show 1 ≠ 3 by decide)
    (advanceTo ((r.tick + 2) * s.tickLen) s)
  have time := advanceTo_frame ((r.tick + 2) * s.tickLen) s
  rw [batchLate_of_cons queue]
  exact ⟨noted.opened, (time .ats (by decide)).trans (noted.frame .ats (by decide)), noted.frame .gt (by decide),
    Eq.trans ((time .fatal (by decide)).trans (noted.frame .fatal (by decide))) live⟩

end

/-- No free value enters a request that no Croft lost in this tick can have carried (R252). -/
theorem computeRequest_of_calm {q : Admitted} (calm : q.type ≠ 0x23 ∨ s.attnLost t = false) :
    computeRequest t q s = answerRequest t false q s := by
  unfold computeRequest
  exact if_neg (by rcases calm with h | h <;> simp [rqAttend, h])

/-! ## What an answer leaves -/

theorem State.modAts_attn {f : Ats → Ats} (h : (f s.ats).tracts = s.ats.tracts) (v : Nat) : (s.modAts f).attn v = s.attn v :=
  congrArg (fun c : Tab AtsTract => Tab.look ({} : AtsTract) c v) h

theorem countReply_batch (r : Reply) (s : State) : ((countReply t r s).attn t).batch = (s.attn t).batch := by
  unfold countReply
  dsimp only
  split
  · rw [State.modAts_attn rfl, State.modAtsTract_attn_self]
  · rw [State.modAtsTract_attn_self]

/-- A reply that is a refusal is counted. -/
def countRefusal (t : Nat) (a : Reply) (s : State) : State :=
  if a.status = atOk || a.status = atDamaged || a.status = atFault then s else countReply t a s

/-- The response of a mirrored session that changed is held. -/
def holdResponse (t : Nat) (r : Admitted) (pkts : List Packet) (s : State) : State :=
  let e := s.sess t r.key.session
  let h : HeldResp := {
    sid := r.key.session, mseq := (e.map (·.mseq)).getD 0, tick := s.tickNow, slot := r.slot, pkts := pkts
    partner := (e.bind (·.mirror)).getD 0, space := asmSpace r.body.length }
  s.modAtsTract t (fun x => { x with held := x.held ++ [h] })

/-- The response of a request leaves, or is held. -/
def respond (t : Nat) (r : Admitted) (a : Reply) (s : State) : State :=
  let live := match s.sess t r.key.session with | some x => x.mirror.isSome && !x.broken | none => false
  let pkts := s.replyPackets r.key r.hdr a r.tick
  if live && changes r a then holdResponse t r pkts s else pkts.foldl (fun s p => inject r.slot p s) s

theorem answerRequest_eq (hung : Bool) (r : Admitted) (s : State) : answerRequest t hung r s =
    respond t r (doRequest t r hung s).1 (countRefusal t (doRequest t r hung s).1 (doRequest t r hung s).2) := rfl

theorem respond_cases (r : Admitted) (a : Reply) (s : State) :
    (∃ pkts, respond t r a s = holdResponse t r pkts s) ∨
      ∃ pkts : List Packet, respond t r a s = pkts.foldl (fun s p => inject r.slot p s) s := by
  unfold respond
  dsimp only
  split_ifs
  · exact .inl ⟨_, rfl⟩
  · exact .inr ⟨_, rfl⟩

theorem countRefusal_changes (a : Reply) (s : State) : ChangesOnly [.ats] s (countRefusal t a s) :=
  .ite_any (.refl _ s) (countReply_changes (.refl _ s) (List.Subset.refl _))

theorem respond_changes (r : Admitted) (a : Reply) (s : State) : ChangesOnly [.swc, .ats] s (respond t r a s) := by
  obtain ⟨pkts, run⟩ | ⟨pkts, run⟩ := respond_cases (t := t) r a s
  · rw [run]
    exact .modAtsTract _ _ (.refl _ s) (by decide)
  · rw [run]
    exact ChangesOnly.foldl (f := fun s p => inject r.slot p s) pkts (.refl _ s) fun _ _ h => inject_changes h (by decide)

/-- The queue of a Tract stays as it is while a request is answered. -/
theorem answerRequest_batch (hung : Bool) (r : Admitted) (s : State) :
    ((answerRequest t hung r s).attn t).batch = (s.attn t).batch := by
  have done : (doRequest t r hung s).2.ats = s.ats := doRequest_changes (.refl _ s) (List.Subset.refl _) .ats (by decide)
  have counted (a : Reply) (u : State) : ((countRefusal t a u).attn t).batch = (u.attn t).batch := by
    unfold countRefusal
    split
    · rfl
    · rw [countReply_batch]
  have answered (a : Reply) (u : State) : ((respond t r a u).attn t).batch = (u.attn t).batch := by
    obtain ⟨pkts, run⟩ | ⟨pkts, run⟩ := respond_cases (t := t) r a u
    · rw [run, holdResponse, State.modAtsTract_attn_self]
    · rw [run, State.attn_congr (foldl_keeps (π := State.ats) (g := fun s p => inject r.slot p s)
        (fun v p => inject_changes (.refl _ v) (List.Subset.refl _) .ats (by decide)) _ u)]
  rw [answerRequest_eq, answered, counted, State.attn_congr done]

/-! ## A batch whose Crofts hang (R359) -/

/-- What an ATTEND on hung Crofts leaves: its appends alone. -/
theorem doAttend_of_hung (sid : Nat) (e : Sess) (b : Bytes) (s : State) :
    (doAttend t sid e true b s).2 = if (parsePart rqAttend b).napp = 0 then s
      else (doAppend t sid e rqAttend (parsePart rqAttend b) b s).2 := by
  unfold doAttend
  dsimp only
  generalize appended : (if (parsePart rqAttend b).napp = 0 then
    (({ value := Tab.look 0 e.counts (parsePart rqAttend b).layer } : Reply), s) else _) = p
  rw [if_pos rfl, apply_ite Prod.snd, ite_self, ← appended, apply_ite Prod.snd]

/-- On hung Crofts no word of a stack is read: no Croft and no Pen changes. -/
theorem doRequest_hung_changes (r : Admitted) (s : State) :
    ChangesOnly [.glb, .flt, .fatal, .attic, .bel, .swc, .cel, .mem, .bln, .host, .out] s (doRequest t r true s).2 := by
  have start := ChangesOnly.refl [.glb, .flt, .fatal, .attic, .bel, .swc, .cel, .mem, .bln, .host, .out] s
  unfold doRequest
  dsimp only
  split
  · exact start
  · split
    · exact doOpen_changes start (by decide)
    · split
      · exact start
      · refine .ite_snd start (.ite_snd (doClose_changes start (by decide)) (.ite_snd start ?_))
        split
        · exact start
        · refine .ite_snd (doAppend_changes start (by decide)) (.ite_snd ?_ (.ite_snd (doGraft_changes start (by decide))
            (doRelease_changes start (by decide))))
          rw [doAttend_of_hung]
          exact .ite_any start (doAppend_changes start (by decide))

theorem answerRequest_hung_changes (r : Admitted) (s : State) :
    ChangesOnly [.glb, .flt, .fatal, .attic, .bel, .swc, .cel, .mem, .ats, .bln, .host, .out] s (answerRequest t true r s) := by
  rw [answerRequest_eq]
  exact (((doRequest_hung_changes r s).mono (by decide)).step (countRefusal_changes _ _) (by decide)).step
    (respond_changes _ _ _) (by decide)

/-- The hung batch has been answered at its GT. -/
def hungAnswered (t : Nat) (r : Admitted) (s : State) : State :=
  ((s.attn t).batch.filter (·.tick == r.tick)).foldl (fun x q => answerRequest t true q x)
    ((advanceTo ((r.tick + 6) * s.tickLen) s).setBatch t ((s.attn t).batch.filter (·.tick != r.tick)))

/-- The named Crofts that serve a Tract's attention. -/
def State.hungCrofts (s : State) (t : Nat) (cs : List Nat) : List Nat :=
  cs.filter (fun k => (tractCrofts t).contains k && (s.croft k).attn)

/-- The event of a hung batch (0x0604). -/
def hungEvent (t : Nat) (r : Admitted) : FaultEvent :=
  { source := 0x0604, unit := unitTract t, cls := 2, access := 0x0B, addr := r.tick % 2 ^ 32, fenced := true }

theorem batchHung_of_cons {r : Admitted} {rest : List Admitted} (queue : (s.attn t).batch = r :: rest) (cs : List Nat) :
    ∃ req, batchHung t cs s = requestCapsule req (recordFault (hungEvent t r)
      (((hungAnswered t r s).hungCrofts t cs).foldl (fun u k => hangCroft k u) (hungAnswered t r s))) := by
  have same : ((advanceTo ((r.tick + 6) * s.tickLen) s).attn t).batch = (s.attn t).batch := by rw [advanceTo_attn]
  unfold hungAnswered
  simp only [batchHung, queue]
  rw [takeBatch_of_cons (same.trans queue), same, queue]
  exact ⟨_, rfl⟩

theorem hungAnswered_changes (r : Admitted) (s : State) :
    ChangesOnly ([.swc, .cel, .mem, .ats] ++ timeParts ++ faultParts) s (hungAnswered t r s) :=
  .foldl _ (.modAtsTract _ _ ((advanceTo_frame _ s).mono (by decide)) (by decide))
    fun q u h => h.step (answerRequest_hung_changes q u) (by decide)

theorem hungAnswered_batch (r : Admitted) (s : State) :
    ((hungAnswered t r s).attn t).batch = (s.attn t).batch.filter (·.tick != r.tick) := by
  rw [hungAnswered, foldl_keeps (π := fun u => (u.attn t).batch) (fun u q => answerRequest_batch true q u),
    State.setBatch_batch]

theorem hungAnswered_gt (r : Admitted) (s : State) :
    (hungAnswered t r s).bel.gt = (advanceTo ((r.tick + 6) * s.tickLen) s).bel.gt :=
  foldl_keeps (π := fun u => u.bel.gt) (g := fun x q => answerRequest t true q x)
    (fun u q => answerRequest_hung_changes q u .gt (by decide)) _ _

theorem hangCrofts_changes (l : List Nat) (s : State) :
    ChangesOnly [.crf] s (l.foldl (fun u k => hangCroft k u) s) :=
  .foldl _ (.refl _ s) fun _ _ h => hangCroft_changes h (by decide)

/-- Every Croft of a list is fenced as hung. -/
theorem foldl_hangCroft {l : List Nat} {k : Nat} (mem : k ∈ l) (s : State) :
    ((l.foldl (fun u k => hangCroft k u) s).croft k).fenced = true ∧
      ((l.foldl (fun u k => hangCroft k u) s).croft k).hung = true := by
  induction l using List.reverseRecOn with
  | nil => cases mem
  | append_singleton r j ih =>
    rw [List.foldl_append, List.foldl_cons, List.foldl_nil, hangCroft, State.modCroft_croft]
    split
    · exact ⟨rfl, rfl⟩
    · exact ih (by simp_all)

theorem requestCapsule_openRecs (r : CapsuleReq) (s : State) :
    (requestCapsule r s).attic.openRecs = s.attic.openRecs := by
  unfold requestCapsule
  rw [State.modAttic_attic]
  repeat' split
  all_goals rfl

theorem mem_hungCrofts {cs : List Nat} {k : Nat} (named : k ∈ cs) (here : k / 136 = t) (attn : (s.croft k).attn = true) :
    k ∈ s.hungCrofts t cs := by
  have mine : k ∈ tractCrofts t := List.mem_map.2 ⟨k % 136, List.mem_range.2 (Nat.mod_lt _ (by decide)), by omega⟩
  simp [State.hungCrofts, named, mine, attn]

/-- A hung batch has left the queue at its GT; its Crofts are fenced as hung, and its record is open. -/
theorem batchHung_shown {r : Admitted} {rest : List Admitted} (queue : (s.attn t).batch = r :: rest) (cs : List Nat) :
    ((batchHung t cs s).attn t).batch = (s.attn t).batch.filter (·.tick != r.tick) ∧
    (batchHung t cs s).bel.gt = (advanceTo ((r.tick + 6) * s.tickLen) s).bel.gt ∧
    (∀ k ∈ cs, k / 136 = t → (s.croft k).attn = true →
      ((batchHung t cs s).croft k).fenced = true ∧ ((batchHung t cs s).croft k).hung = true) ∧
    ∃ f ∈ (batchHung t cs s).attic.openRecs, f.source = 0x0604 ∧ f.unit = 0x2200 + t := by
  obtain ⟨req, run⟩ := batchHung_of_cons queue cs
  rw [run]
  generalize crofts : (hungAnswered t r s).hungCrofts t cs = l
  have hangs := hangCrofts_changes l (hungAnswered t r s)
  have noted := recordFault_of_not_ft (e := hungEvent t r) (show 2 ≠ 3 by decide)
    (l.foldl (fun u k => hangCroft k u) (hungAnswered t r s))
  refine ⟨?_, ?_, fun k named here attn => ?_, ?_⟩
  · rw [← hungAnswered_batch r s]
    exact congrArg AtsTract.batch (State.attn_congr ((hangs .ats (by decide)).trans (noted.frame .ats (by decide))) t)
  · rw [← hungAnswered_gt (t := t) r s]
    exact (hangs .gt (by decide)).trans (noted.frame .gt (by decide))
  · have crf : (hungAnswered t r s).crf = s.crf := hungAnswered_changes r s .crf (by decide)
    have mem : k ∈ l := by
      rw [← crofts]
      refine mem_hungCrofts named here ?_
      rw [State.croft, crf]
      exact attn
    have same : (recordFault (hungEvent t r) (l.foldl (fun u k => hangCroft k u) (hungAnswered t r s))).crf =
        (l.foldl (fun u k => hangCroft k u) (hungAnswered t r s)).crf := noted.frame .crf (by decide)
    change (Tab.look ({} : Croft) (recordFault _ _).crf.crofts k).fenced = true ∧
      (Tab.look ({} : Croft) (recordFault _ _).crf.crofts k).hung = true
    rw [same]
    exact foldl_hangCroft mem _
  · rw [requestCapsule_openRecs]
    exact noted.opened

end Sys2Proof.Machine
end

section
/-! SUPPORT. Reclaim (R208, R242): what freeing a session's pages and runs leaves of its Tract, and its pages one after
another. -/

namespace Sys2Proof.Machine

variable {t sid : Nat} {s : State}

/-! ## What freeing a session leaves -/

/-- Operations for a session leave other Tracts, other sessions, the fence and the queue of sessions to reclaim. -/
structure OthersKept (t sid : Nat) (s u : State) : Prop where
  tract  : ∀ v, v ≠ t → u.tract v = s.tract v
  sess   : ∀ j, j ≠ sid → u.sess t j = s.sess t j
  fenced : (u.tract t).fenced = (s.tract t).fenced
  queue  : (u.tract t).reclaimQ = (s.tract t).reclaimQ

namespace OthersKept

theorem refl (t sid : Nat) (s : State) : OthersKept t sid s s := ⟨fun _ _ => rfl, fun _ _ => rfl, rfl, rfl⟩

theorem trans {u w : State} (h : OthersKept t sid s u) (g : OthersKept t sid u w) : OthersKept t sid s w :=
  ⟨fun v hv => (g.tract v hv).trans (h.tract v hv), fun j hj => (g.sess j hj).trans (h.sess j hj),
    g.fenced.trans h.fenced, g.queue.trans h.queue⟩

theorem of_cel {u : State} (h : u.cel = s.cel) : OthersKept t sid s u :=
  ⟨fun v _ => State.tract_congr h v, fun j _ => State.sess_congr (congrArg Tract.sessions (State.tract_congr h t)) j,
    congrArg Tract.fenced (State.tract_congr h t), congrArg Tract.reclaimQ (State.tract_congr h t)⟩

theorem modTract {f : Tract → Tract} (sess : ∀ r j, j ≠ sid → Tab.look none (f r).sessions j = Tab.look none r.sessions j)
    (rest : ∀ r, (f r).fenced = r.fenced ∧ (f r).reclaimQ = r.reclaimQ) (s : State) : OthersKept t sid s (s.modTract t f) := by
  refine ⟨fun v hv => State.modTract_tract_of_ne hv .., fun j hj => ?_, ?_, ?_⟩
  · rw [State.sess, State.modTract_tract_self]
    exact sess _ j hj
  · rw [State.modTract_tract_self, (rest _).1]
  · rw [State.modTract_tract_self, (rest _).2]

theorem modPage (g : Nat) (f : Desc → Desc) (s : State) : OthersKept t sid s (s.modPage t g f) :=
  modTract (fun _ _ _ => by rfl) (fun _ => ⟨by rfl, by rfl⟩) s

theorem modRun (n : Nat) (f : Run → Run) (s : State) : OthersKept t sid s (s.modRun t n f) :=
  modTract (fun _ _ _ => by rfl) (fun _ => ⟨by rfl, by rfl⟩) s

theorem modSess (f : Sess → Sess) (s : State) : OthersKept t sid s (s.modSess t sid f) :=
  modTract (fun _ _ hj => Tab.look_edit_of_ne _ _ _ _ _ hj) (fun _ => ⟨by rfl, by rfl⟩) s

theorem foldl {α : Type} {F : State → α → State} (h : ∀ u x, OthersKept t sid u (F u x)) (l : List α) (s : State) :
    OthersKept t sid s (l.foldl F s) := by
  induction l generalizing s with
  | nil => exact refl t sid s
  | cons x r ih => exact (h s x).trans (ih _)

theorem leavePage (g access : Nat) (s : State) : OthersKept t sid s (leavePage t g access s) := by
  unfold Machine.leavePage
  dsimp only
  split
  · exact (modPage g _ s).trans (of_cel (logRetired_cel ..))
  · exact modPage g _ s

theorem unlink (g : Nat) (chain : List Nat) (s : State) : OthersKept t sid s (unlink t g chain s) := by
  unfold Machine.unlink
  split
  · exact modPage _ _ s
  · exact refl t sid s

theorem countNlo (s : State) : OthersKept t sid s (countNlo t s) :=
  modTract (fun _ _ _ => by rfl) (fun _ => ⟨by rfl, by rfl⟩) s

theorem stkFree (g : Nat) (s : State) : OthersKept t sid s (stkFree t g sid s).2 := by
  have left (chain : List Nat) : OthersKept t sid s (Machine.leavePage t g 6 (Machine.unlink t g chain s)) :=
    (unlink g chain s).trans (leavePage g 6 _)
  unfold Machine.stkFree
  split
  · exact refl t sid s
  · dsimp only
    split
    · split
      · exact countNlo s
      · exact (left _).trans (modSess _ _)
    · split
      · split
        · split
          · exact ((left _).trans (modRun _ _ _)).trans
              (modTract (fun _ _ _ => by rfl) (fun _ => ⟨by rfl, by rfl⟩) _)
          · exact (left _).trans (modRun _ _ _)
        · exact countNlo s
      · exact countNlo s
    · exact (modTract (fun _ _ _ => by rfl) (fun _ => ⟨by rfl, by rfl⟩) s).trans (of_cel (recordFault_cel ..))

theorem stkRelease (n : Nat) (s : State) : OthersKept t sid s (stkRelease t n sid s).2 := by
  unfold Machine.stkRelease
  split
  · exact refl t sid s
  · split
    · exact countNlo s
    · split
      · exact countNlo s
      · split
        · exact modRun _ _ s
        · exact (foldl (fun u g => leavePage g 7 u) _ s).trans
            (modTract (fun _ _ _ => by rfl) (fun _ => ⟨by rfl, by rfl⟩) _)

theorem freeSession (s : State) : OthersKept t sid s (freeSession t sid s) := by
  unfold Machine.freeSession
  split
  · exact refl t sid s
  · refine ((foldl (fun u g => stkFree g u) _ s).trans (foldl (fun u n => stkRelease n u) _ _)).trans
      (modTract (fun r j hj => ?_) (fun _ => ⟨by rfl, by rfl⟩) _)
    rw [Tab.look_drop, if_neg hj]

end OthersKept

/-! ## Own pages, one after another -/

/-- A page taken out of every chain leaves no page in a chain that was not there. -/
theorem look_dropPage_subset (g : Nat) (chains : Tab (List Nat)) (l : Nat) :
    Tab.look [] (dropPage g chains) l ⊆ Tab.look [] chains l := by
  suffices ∀ (ks : List (Nat × List Nat)) (c : Tab (List Nat)),
      Tab.look [] (ks.foldl (fun c e => Tab.edit [] c e.1 (fun l => l.filter (· != g))) c) l ⊆ Tab.look [] c l from
    this chains chains
  intro ks
  induction ks with
  | nil => exact fun c => List.Subset.refl _
  | cons e r ih =>
    refine fun c => List.Subset.trans (ih _) ?_
    rw [Tab.look_edit]
    split
    · rename_i here
      exact here ▸ List.filter_subset_self _
    · exact List.Subset.refl _

theorem unlink_sess (g : Nat) (chain : List Nat) (s : State) (j : Nat) : (unlink t g chain s).sess t j = s.sess t j := by
  unfold unlink
  split
  · rw [State.modPage_sess]
  · rfl

theorem leavePage_sess (g access : Nat) (s : State) (j : Nat) : (leavePage t g access s).sess t j = s.sess t j := by
  unfold leavePage
  dsimp only
  split
  · rw [State.sess_congr (congrArg Tract.sessions (logRetired_tract ..)), State.modPage_sess]
  · rw [State.modPage_sess]

/-- Unlinking a page from its chain touches no page outside the chain, and of the others NEXT alone. -/
theorem unlink_page (t g : Nat) (chain : List Nat) (s : State) (h : Nat) :
    ∃ n, (unlink t g chain s).page t h = { s.page t h with next := n } ∧ (h ∉ chain → n = (s.page t h).next) := by
  unfold unlink
  split
  · rename_i p before
    rw [State.modPage_page]
    split
    · rename_i here
      refine ⟨_, by rw [here], fun out => absurd ?_ out⟩
      exact here ▸ (List.takeWhile_sublist _).mem (List.mem_of_getLast? before)
    · exact ⟨_, rfl, fun _ => rfl⟩
  · exact ⟨_, rfl, fun _ => rfl⟩

/-- A page that a session holds alone. -/
def Desc.heldBy (sid : Nat) (d : Desc) : Prop := d.state = .held ∧ d.owner = sid ∧ d.retirePend = false

/-- FREE of a page that its session holds. -/
theorem stkFree_of_held {g : Nat} (open_ : (s.tract t).fenced = false) (held : (s.page t g).heldBy sid) :
    (stkFree t g sid s).2 = (leavePage t g 6 (unlink t g (Tab.look [] ((s.sess t sid).getD {}).chains (s.page t g).layer) s)).modSess
      t sid (fun x => { x with chains := dropPage g x.chains }) := by
  obtain ⟨state, owner, -⟩ := held
  simp [stkFree, open_, state, owner]

/-- A session's own pages while they are freed: those of `rest` are still held, the others are free, no page outside has
changed, and no chain holds one. -/
structure Freeing (t sid : Nat) (own rest : List Nat) (s₀ s : State) : Prop where
  open_   : (s.tract t).fenced = false
  held    : ∀ g ∈ rest, (s.page t g).heldBy sid
  freed   : ∀ g ∈ own, g ∉ rest → (s.page t g).state = .free
  outside : ∀ g, g ∉ own → s.page t g = s₀.page t g
  chains  : ∀ l, Tab.look [] ((s.sess t sid).getD {}).chains l ⊆ own

/-- One page more is free. -/
theorem Freeing.step {own rest : List Nat} {s₀ : State} {g : Nat} (h : Freeing t sid own (g :: rest) s₀ s)
    (mem : g ∈ own) (fresh : g ∉ rest) : Freeing t sid own rest s₀ (stkFree t g sid s).2 := by
  have held := h.held g List.mem_cons_self
  have pages (x : Nat) : ∃ n, (stkFree t g sid s).2.page t x =
      (if x = g then { lastPc := (s.page t g).lastPc, state := .free } else { s.page t x with next := n }) ∧
        (x ∉ own → n = (s.page t x).next) := by
    obtain ⟨n, unlinked, out⟩ := unlink_page t g (Tab.look [] ((s.sess t sid).getD {}).chains (s.page t g).layer) s x
    refine ⟨n, ?_, fun hx => out fun mem => hx (h.chains _ mem)⟩
    rw [stkFree_of_held h.open_ held, State.modSess_page, leavePage_page]
    by_cases here : x = g
    · subst here
      rw [if_pos rfl, if_pos rfl, unlinked]
      simp [held.2.2]
    · rw [if_neg here, if_neg here, unlinked]
  refine ⟨?_, fun x hx => ?_, fun x hx out => ?_, fun x hx => ?_, fun l => ?_⟩
  · rw [(OthersKept.stkFree (sid := sid) g s).fenced, h.open_]
  · obtain ⟨n, page, -⟩ := pages x
    rw [page, if_neg (ne_of_mem_of_not_mem hx fresh)]
    exact h.held x (List.mem_cons_of_mem _ hx)
  · obtain ⟨n, page, -⟩ := pages x
    rw [page]
    split
    · rfl
    · rename_i ne
      exact h.freed x hx (by simp [ne, out])
  · obtain ⟨n, page, same⟩ := pages x
    rw [page, if_neg (ne_of_mem_of_not_mem mem hx).symm, same hx]
    exact h.outside x hx
  · rw [stkFree_of_held h.open_ held, State.modSess_sess_self, leavePage_sess, unlink_sess]
    cases there : s.sess t sid with
    | none => exact List.nil_subset _
    | some x =>
      have before := h.chains l
      rw [there] at before
      exact List.Subset.trans (look_dropPage_subset g x.chains l) before

theorem Freeing.all {own rest : List Nat} {s₀ : State} (h : Freeing t sid own rest s₀ s) (sub : rest ⊆ own)
    (distinct : rest.Nodup) : Freeing t sid own [] s₀ (rest.foldl (fun u g => (stkFree t g sid u).2) s) := by
  induction rest generalizing s with
  | nil => exact h
  | cons g r ih =>
    obtain ⟨fresh, rest⟩ := List.nodup_cons.1 distinct
    exact ih (h.step (sub List.mem_cons_self) fresh) (List.subset_of_cons_subset sub) rest

/-- Every chain of a session holds own pages. -/
theorem Sess.look_chains_subset (e : Sess) (l : Nat) : Tab.look [] e.chains l ⊆ e.ownPages := by
  intro g mem
  have listed := Tab.mem_of_look (d := []) (List.ne_nil_of_mem mem) (t := e.chains) (k := l) rfl
  exact List.mem_flatMap.2 ⟨_, listed, mem⟩

/-- A session without runs whose pages it holds alone: they are free when it is gone, and no other page changes. -/
theorem freeSession_pages {e : Sess} (open_ : (s.tract t).fenced = false) (sess : s.sess t sid = some e)
    (held : ∀ g ∈ e.ownPages, (s.page t g).heldBy sid) (distinct : e.ownPages.Nodup) (grafts : e.grafts = [])
    (run : e.ownRun = none) : (∀ g ∈ e.ownPages, ((freeSession t sid s).page t g).state = .free) ∧
      ∀ g, g ∉ e.ownPages → (freeSession t sid s).page t g = s.page t g := by
  have start : Freeing t sid e.ownPages e.ownPages s s := by
    refine ⟨open_, held, fun _ mem out => absurd mem out, fun _ _ => rfl, fun l => ?_⟩
    rw [sess]
    exact e.look_chains_subset l
  have done := start.all (List.Subset.refl _) distinct
  simp only [freeSession, sess, grafts, run, List.map_nil, Option.toList_none, List.append_nil, List.foldl_nil]
  refine ⟨fun g mem => ?_, fun g out => ?_⟩
  · rw [State.modTract_page fun r => by rfl]
    exact done.freed g mem List.not_mem_nil
  · rw [State.modTract_page fun r => by rfl]
    exact done.outside g out

theorem reclaim_of_cons {rest : List Nat} (queue : (s.tract t).reclaimQ = sid :: rest) (open_ : (s.tract t).fenced = false) :
    reclaim t s = freeSession t sid (s.modTract t (fun r => { r with reclaimQ := rest })) := by
  simp [reclaim, queue, open_]

/-- The session at the head of the queue is gone with its place (R242); pages that it alone held are free. -/
theorem reclaim_shown {e : Sess} {rest : List Nat} (queue : (s.tract t).reclaimQ = sid :: rest)
    (open_ : (s.tract t).fenced = false) (sess : s.sess t sid = some e) :
    ((reclaim t s).tract t).reclaimQ = rest ∧ (reclaim t s).sess t sid = none ∧
    (∀ j, j ≠ sid → (reclaim t s).sess t j = s.sess t j) ∧ (∀ v, v ≠ t → (reclaim t s).tract v = s.tract v) ∧
    ((∀ g ∈ e.ownPages, (s.page t g).heldBy sid) → e.ownPages.Nodup → e.grafts = [] → e.ownRun = none →
      (∀ g ∈ e.ownPages, ((reclaim t s).page t g).state = .free) ∧
        ∀ g, g ∉ e.ownPages → (reclaim t s).page t g = s.page t g) := by
  rw [reclaim_of_cons queue open_]
  generalize next : s.modTract t (fun r => { r with reclaimQ := rest }) = v
  have there : v.sess t sid = some e := by rw [← next, State.modTract_sess fun r => by rfl, sess]
  have page (g : Nat) : v.page t g = s.page t g := by rw [← next, State.modTract_page fun r => by rfl]
  have still : (v.tract t).fenced = false := by rw [← next, State.modTract_tract_self, open_]
  have kept := OthersKept.freeSession (t := t) (sid := sid) v
  refine ⟨?_, freeSession_gone v, fun j hj => ?_, fun w hw => ?_, fun held distinct grafts run => ?_⟩
  · rw [kept.queue, ← next, State.modTract_tract_self]
  · rw [kept.sess j hj, ← next, State.modTract_sess fun r => by rfl]
  · rw [kept.tract w hw, ← next, State.modTract_tract_of_ne hw]
  · obtain ⟨freed, outside⟩ := freeSession_pages still there (fun g mem => by rw [page]; exact held g mem) distinct grafts run
    exact ⟨freed, fun g out => (outside g out).trans (page g)⟩

end Sys2Proof.Machine
end

section
/-! SUPPORT. The effects of requests (Table 9-8): what the mirror's copies and a stream that grows leave of a session, and
what each request finds and makes of it. -/

namespace Sys2Proof.Machine

variable {t sid : Nat} {s : State}

/-! ## Mirror copies (R224) -/

/-- A copy that leaves, or waits, is numbered in its session; of its Tract it touches the mirror's queues besides. -/
theorem sendCopy_cases (t sid op layer off aux : Nat) (data : Bytes) (s : State) : sendCopy t sid op layer off aux data s = s ∨
    ∃ m f, (∀ r : Tract, (f r).sessions = r.sessions ∧ (f r).reclaimQ = r.reclaimQ) ∧
      (sendCopy t sid op layer off aux data s).cel = ((s.modSess t sid (fun e => { e with mseq := m })).modTract t f).cel := by
  unfold sendCopy
  split
  · exact .inl rfl
  · split
    · exact .inl rfl
    · split
      · exact .inl rfl
      · dsimp only
        generalize (if op = moOpen then 0 else _) = m
        split
        · refine .inr ⟨m, _, ?_, rfl⟩
          exact fun r => ⟨rfl, rfl⟩
        · refine .inr ⟨m, _, ?_, inject_cel ..⟩
          exact fun r => ⟨rfl, rfl⟩

/-- Of the sessions a copy changes the MSEQ of its own alone. -/
theorem sendCopy_sess (t sid op layer off aux : Nat) (data : Bytes) (s : State) :
    ∃ m : Sess → Nat, ∀ x, (sendCopy t sid op layer off aux data s).sess t x =
      if x = sid then (s.sess t sid).map (fun e => { e with mseq := m e }) else s.sess t x := by
  obtain run | ⟨m, f, kept, cel⟩ := sendCopy_cases t sid op layer off aux data s
  · refine ⟨Sess.mseq, fun x => ?_⟩
    rw [run]
    split
    · rename_i here
      rw [here]
      exact (Option.map_id' ..).symm
    · rfl
  · refine ⟨fun _ => m, fun x => ?_⟩
    rw [State.sess_congr (congrArg Tract.sessions (State.tract_congr cel t)), State.modTract_sess fun r => (kept r).1,
      State.modSess_sess]

theorem sendCopy_reclaimQ (t sid op layer off aux : Nat) (data : Bytes) (s : State) :
    ((sendCopy t sid op layer off aux data s).tract t).reclaimQ = (s.tract t).reclaimQ := by
  obtain run | ⟨m, f, kept, cel⟩ := sendCopy_cases t sid op layer off aux data s
  · rw [run]
  · rw [State.tract_congr cel, State.modTract_tract_self, (kept _).2, State.modSess_tract]

/-- No copy leaves a session that has no mirror. -/
theorem sendCopy_of_alone {e : Sess} (sess : s.sess t sid = some e) (alone : e.mirror = none) (op layer off aux : Nat)
    (data : Bytes) : sendCopy t sid op layer off aux data s = s := by
  simp [sendCopy, sess, alone]

/-! ## OPEN and CLOSE -/

theorem doOpen_of_found {e : Sess} (sess : s.sess t sid = some e) (own : e.copyOf = none) (b : Bytes) :
    doOpen t sid b s = ({ status := 3, detail := if e.state = .closing then 1 else 0 }, s) := by
  by_cases closing : e.state = .closing
  · simp [doOpen, sess, own, closing, atExists, ofBool]
  · simp [doOpen, sess, own, closing, atExists, ofBool]

/-- A session without a mirror is opened. -/
theorem doOpen_of_room {b : Bytes} (absent : s.sess t sid = none) (room : (s.tract t).sessions.length < 262144)
    (total : s.sessTotal < 4194304) (alone : beAt b 15 1 % 2 = 0) : doOpen t sid b s =
      ({}, s.modTract t (fun r => { r with sessions := Tab.add sid (some { geo := parseGeometry b }) r.sessions })) := by
  have single : bit (beAt b 15 1) 0 = false := by simp [bit, alone]
  have made : (s.modTract t (fun r => { r with sessions := Tab.add sid (some { geo := parseGeometry b }) r.sessions })).sess t sid =
      some { geo := parseGeometry b } := by
    rw [State.sess, State.modTract_tract_self, Tab.look_add, if_pos rfl]
  simp [doOpen, absent, single, Nat.not_le.2 room, Nat.not_le.2 total, sendCopy_of_alone made rfl]

theorem doClose_of_closing {e : Sess} (closing : e.state = .closing) : doClose t sid e s = ({ status := 3, detail := 1 }, s) := by
  simp [doClose, closing, atExists]

theorem doClose_of_live {e : Sess} (live : e.state ≠ .closing) : doClose t sid e s =
    ({ value := e.ownPages.length }, closeSession t sid (sendCopy t sid moClose 0 0 0 [] s)) := by
  simp [doClose, live]

/-- The session that closes is the last in the reclaim queue; its chains and all other sessions stay. -/
theorem closed_shown {e : Sess} (sess : s.sess t sid = some e) :
    (∃ f, (closeSession t sid (sendCopy t sid moClose 0 0 0 [] s)).sess t sid = some f ∧ f.state = .closing ∧ f.chains = e.chains) ∧
      ((closeSession t sid (sendCopy t sid moClose 0 0 0 [] s)).tract t).reclaimQ = (s.tract t).reclaimQ ++ [sid] ∧
      ∀ j, j ≠ sid → (closeSession t sid (sendCopy t sid moClose 0 0 0 [] s)).sess t j = s.sess t j := by
  obtain ⟨m, sent⟩ := sendCopy_sess t sid moClose 0 0 0 [] s
  unfold closeSession
  refine ⟨⟨{ e with mseq := m e, state := .closing }, ?_, rfl, rfl⟩, ?_, fun j hj => ?_⟩
  · rw [State.modTract_sess fun r => by rfl, State.modSess_sess_self, sent, if_pos rfl, sess]
    rfl
  · rw [State.modTract_tract_self, State.modSess_tract, sendCopy_reclaimQ]
  · rw [State.modTract_sess fun r => by rfl, State.modSess_sess, if_neg hj, sent, if_neg hj]

/-! ## APPEND -/

/-- What an allocation leaves of a session: all but its chains. -/
theorem stkAlloc_sess {α : Type} {φ : Sess → α} (h : ∀ e c, φ { e with chains := c } = φ e) (mirror : Bool)
    (layers : List Nat) (s : State) : ((stkAlloc t sid mirror layers s).2.sess t sid).map φ = (s.sess t sid).map φ := by
  have injected : (bitmapInjection t s).sess t sid = s.sess t sid := by
    have same := (bitmapInjection_changes (t := t) (.refl _ s) (List.Subset.refl _)).cel_eq (by decide) (by decide)
    exact State.sess_congr (congrArg Tract.sessions (State.tract_congr same t)) sid
  have granted (e : Nat × Nat) (u : State) : ((grantPage t sid mirror e u).sess t sid).map φ = (u.sess t sid).map φ := by
    unfold grantPage
    dsimp only
    rw [State.modSess_sess_self, State.modPage_sess, Option.map_map]
    refine (congrArg (Option.map · _) (funext fun x => h x _ : _ = φ)).trans ?_
    split
    · split
      · rw [State.modPage_sess]
      · rfl
    · rfl
  unfold stkAlloc
  split
  · rfl
  · dsimp only
    split
    · rw [State.modTract_sess fun r => by rfl, injected]
    · rw [foldl_keeps (π := fun u => (u.sess t sid).map φ) (fun u e => granted e u), injected]

theorem writeStream_sess (chain : List Nat) (g : Geometry) (off : Nat) (data : Bytes) (s : State) (x : Nat) :
    (writeStream t chain g off data s).sess t x = s.sess t x :=
  congrFun (congrArg Prod.fst (writeStream_kept (t := t) t chain g off data s)) x

theorem setFill_sess (chain : List Nat) (g : Geometry) (n : Nat) (s : State) (x : Nat) :
    (setFill t chain g n s).sess t x = s.sess t x :=
  foldl_keeps (π := fun u => u.sess t x) (fun _ _ => State.modPage_sess ..) _ s

/-- State and counts of a session after its stream has grown, where the store takes the bytes. -/
theorem growStream_shown {e : Sess} (sess : s.sess t sid = some e) (layer : Nat) (mirror : Bool) (off : Nat) (data : Bytes) :
    (growStream t sid layer mirror off data s).1 ≠ stOk ∨
      ((growStream t sid layer mirror off data s).2.sess t sid).map (fun f => (f.state, f.counts)) =
        some (.active, Tab.put 0 e.counts layer ((off + data.length) / recordBytes e.geo)) := by
  simp only [growStream, sess]
  generalize alloc : (if pagesFor e.geo ((off + data.length + recordBytes e.geo - 1) / recordBytes e.geo) ≤
    (Tab.look [] e.chains layer).length then (stOk, s) else _) = r
  have counts : (r.2.sess t sid).map Sess.counts = some e.counts := by
    rw [← alloc]
    split
    · rw [sess, Option.map_some]
    · rw [stkAlloc_sess fun _ _ => by rfl, sess, Option.map_some]
  split
  · rename_i refused
    exact .inl refused
  · right
    obtain ⟨f, there, same⟩ := Option.map_eq_some_iff.1 counts
    rw [State.modSess_sess_self, setFill_sess, writeStream_sess, there, Option.map_some, Option.map_some, same]

/-- DATA copies leave the state and the counts of their session. -/
theorem sendData_sess (layer off : Nat) (data : Bytes) (s : State) :
    ((sendData t sid layer off data s).sess t sid).map (fun f => (f.state, f.counts)) =
      (s.sess t sid).map (fun f => (f.state, f.counts)) := by
  unfold sendData
  refine foldl_keeps (π := fun u => (u.sess t sid).map (fun f => (f.state, f.counts))) (fun u e => ?_) _ s
  obtain ⟨m, sent⟩ := sendCopy_sess t sid moData layer e.1 0 e.2 u
  rw [sent, if_pos rfl, Option.map_map]
  rfl

/-- The records of a good APPEND fill its message (Table 9-5). -/
theorem records_length_of_good {b : Bytes} {g : Geometry} (good : badDetail 0x22 b (some g) = none) :
    ((b.drop 16).take ((parsePart 0x22 b).napp * recordBytes g)).length = (parsePart 0x22 b).napp * recordBytes g := by
  have wanted : wantedLen 0x22 g (parsePart 0x22 b) = 16 + (parsePart 0x22 b).napp * recordBytes g := by
    simp [wantedLen, recordsAt, parsePart, rqAppend]
  have len : b.length = wantedLen 0x22 g (parsePart 0x22 b) := by
    by_contra other
    simp [badDetail, rqOpen, rqClose, rqGraft, rqRelease, rqAppend, rqAttend, other] at good
    split_ifs at good
  simp [len, wanted]

section
variable {e : Sess} {b : Bytes}

theorem doAppend_of_frozen (frozen : e.state = .frozen) (q : AppendPart) :
    doAppend t sid e 0x22 q b s = ({ status := 5, detail := 1 }, s) := by
  simp [doAppend, frozen, atBadState]

theorem doAppend_of_elsewhere {q : AppendPart} (live : e.state ≠ .frozen) (elsewhere : q.start ≠ Tab.look 0 e.counts q.layer) :
    doAppend t sid e 0x22 q b s = ({ status := 6, value := Tab.look 0 e.counts q.layer }, s) := by
  simp [doAppend, live, elsewhere, atPosition]

/-- What growing a stream comes to for an APPEND. -/
def appendDone (t sid : Nat) (q : AppendPart) (off : Nat) (data : Bytes) (grown : Nat × State) : Reply × State :=
  if grown.1 ≠ stOk then ({ status := atStore, detail := grown.1 }, grown.2)
  else ({ value := q.start + q.napp }, sendData t sid q.layer off data grown.2)

theorem doAppend_of_end {q : AppendPart} (live : e.state ≠ .frozen) (here : q.start = Tab.look 0 e.counts q.layer) :
    let off := q.start * recordBytes e.geo
    let data := (b.drop 16).take (q.napp * recordBytes e.geo)
    doAppend t sid e 0x22 q b s = appendDone t sid q off data (growStream t sid q.layer false off data s) := by
  have other : (e.state == .frozen) = false := by simpa using live
  simp only [doAppend, other, ← here, ne_eq, not_true_eq_false, if_false, Bool.false_eq_true]
  rfl

/-- An APPEND at the end of its layer: the store refuses it, or the count has risen by its tokens. -/
theorem doAppend_shown (sess : s.sess t sid = some e) (live : e.state ≠ .frozen) (good : badDetail 0x22 b (some e.geo) = none)
    (here : (parsePart 0x22 b).start = Tab.look 0 e.counts (parsePart 0x22 b).layer) (some_ : 0 < recordBytes e.geo) :
    ∃ a x, doAppend t sid e 0x22 (parsePart 0x22 b) b s = (a, x) ∧ (a.status = 7 ∨
      (a.status = 0 ∧ a.value = (parsePart 0x22 b).start + (parsePart 0x22 b).napp ∧ ∃ f, x.sess t sid = some f ∧
        f.state = .active ∧ f.counts = Tab.put 0 e.counts (parsePart 0x22 b).layer
          ((parsePart 0x22 b).start + (parsePart 0x22 b).napp))) := by
  refine ⟨_, _, (doAppend_of_end live here).trans Prod.mk.eta.symm, ?_⟩
  have grown := growStream_shown sess (parsePart 0x22 b).layer false ((parsePart 0x22 b).start * recordBytes e.geo)
    ((b.drop 16).take ((parsePart 0x22 b).napp * recordBytes e.geo))
  rw [records_length_of_good good, ← Nat.add_mul, Nat.mul_div_cancel _ some_] at grown
  unfold appendDone
  split
  · exact .inl rfl
  · rename_i taken
    obtain ⟨f, there, shown⟩ := Option.map_eq_some_iff.1 ((sendData_sess ..).trans (grown.resolve_left taken))
    obtain ⟨active, counts⟩ := Prod.mk.inj shown
    exact .inr ⟨rfl, rfl, f, there, active, counts⟩

end

/-! ## Requests -/

section
variable {r : Admitted} {hung : Bool} (open_ : (s.tract t).fenced = false)
include open_

theorem doRequest_of_open (type : r.type = 0x20) : doRequest t r hung s = doOpen t r.key.session r.body s := by
  simp [doRequest, open_, type, rqOpen]

theorem doRequest_of_absent (other : r.type ≠ 0x20) (absent : s.sess t r.key.session = none) :
    doRequest t r hung s = ({ status := 2 }, s) := by
  simp [doRequest, open_, other, rqOpen, absent, atNoSession]

theorem doRequest_of_copy {e : Sess} (sess : s.sess t r.key.session = some e) (copy : e.copyOf ≠ none) :
    doRequest t r hung s = ({ status := 2 }, s) := by
  have held : e.copyOf.isSome = true := Option.isSome_iff_ne_none.2 copy
  simp [doRequest, doOpen, open_, sess, held, atNoSession]

section
variable {e : Sess} (sess : s.sess t r.key.session = some e) (own : e.copyOf = none)
include sess own

theorem doRequest_of_close (type : r.type = 0x21) : doRequest t r hung s = doClose t r.key.session e s := by
  simp [doRequest, open_, sess, own, type, rqOpen, rqClose]

theorem doRequest_of_closing (notOpen : r.type ≠ 0x20) (notClose : r.type ≠ 0x21) (closing : e.state = .closing) :
    doRequest t r hung s = ({ status := 4, detail := 7 }, s) := by
  simp [doRequest, open_, sess, own, notOpen, notClose, closing, rqOpen, rqClose, atBadRequest]

section
variable (live : e.state ≠ .closing) (good : badDetail r.type r.body (some e.geo) = none)
include live good

theorem doRequest_of_append (type : r.type = 0x22) :
    doRequest t r hung s = doAppend t r.key.session e 0x22 (parsePart 0x22 r.body) r.body s := by
  simp [doRequest, open_, sess, own, live, type, type ▸ good, rqOpen, rqClose, rqAppend]

theorem doRequest_of_release (type : r.type = 0x25) :
    doRequest t r hung s = doRelease t r.key.session (beAt r.body 8 4) s := by
  simp [doRequest, open_, sess, own, live, type, type ▸ good, rqOpen, rqClose, rqAppend, rqAttend, rqGraft]

end
end
end

theorem doRelease_of_stranger {e : Sess} {pfx : Nat} (sess : s.sess t sid = some e) (stranger : ∀ g ∈ e.grafts, g.pfx ≠ pfx) :
    doRelease t sid pfx s = ({ status := 0x12 }, s) := by
  have none_ : e.grafts.find? (·.pfx == pfx) = none := by simpa using stranger
  simp [doRelease, releaseRun, sess, none_, atNotHeld]

end Sys2Proof.Machine
end

section
open Sys2Proof Sys2Proof.Machine

/-- Settles O29: a batch that is computed, late or hung, by what its queue, its requests and its Crofts become; RECLAIM, by
the session's pages freed one after another; a request, by the session that it finds. -/
theorem batchesTakeEffectInOrder : Obligations.BatchesTakeEffectInOrder := by
  unfold Obligations.BatchesTakeEffectInOrder
  refine ⟨fun t s ht live => ?_, fun t r s open_ => ?_⟩
  · refine ⟨fun idle => ?_, fun r rest queue => ⟨?_, fun q x calm => ?_, ?_, fun cs named => ?_⟩, fun idle => ?_,
      fun sid rest e queue open_ sess => ?_⟩
    · refine ⟨?_, ?_, fun cs named => ?_⟩
      · rw [exec_attentionBatch ht live, attentionBatch, idle]
      · rw [exec_batchLate ht live, batchLate, idle]
      · rw [exec_batchHung ht live named, batchHung, idle]
    · refine ⟨_, rfl, ?_⟩
      rw [exec_attentionBatch ht live, attentionBatch_of_cons queue]
      rfl
    · exact computeRequest_of_calm calm
    · obtain ⟨noted, queued, at_, still⟩ := batchLate_shown queue live
      exact ⟨_, exec_batchLate ht live, noted, queued, at_, still, batchLate_changes (.refl _ s) (by decide)⟩
    · obtain ⟨left, at_, hung, noted⟩ := batchHung_shown queue cs
      exact ⟨_, exec_batchHung ht live named, left, at_, hung, noted⟩
    · rw [exec_reclaim ht live, reclaim, idle]
    · obtain ⟨queued, gone, others, tracts, pages⟩ := reclaim_shown queue open_ sess
      exact ⟨_, exec_reclaim ht live, queued, gone, others, tracts, pages, reclaim_changes (.refl _ s) (by decide)⟩
  · refine ⟨fun type absent room total alone => ?_, fun absent other => ?_, fun e sess => ⟨fun copy => ?_, fun own =>
      ⟨fun type => ?_, fun type closing => ?_, fun type live => ?_, fun notOpen notClose closing => ?_,
        fun live good => ⟨fun type frozen => ?_, fun type warm => ⟨fun elsewhere => ?_, fun here some_ => ?_⟩,
          fun type stranger => ?_⟩⟩⟩⟩
    · refine ⟨_, (doRequest_of_open open_ type).trans (doOpen_of_room absent room total alone), ?_, fun j hj => ?_,
        fun v hv => State.modTract_tract_of_ne hv .., .modTract _ _ (.refl _ s) (by decide)⟩
      · rw [State.sess, State.modTract_tract_self, Tab.look_add, if_pos rfl]
      · rw [State.sess, State.modTract_tract_self, Tab.look_add, if_neg hj]
        rfl
    · exact doRequest_of_absent open_ other absent
    · exact doRequest_of_copy open_ sess copy
    · exact (doRequest_of_open open_ type).trans (doOpen_of_found sess own _)
    · exact (doRequest_of_close open_ sess own type).trans (doClose_of_closing closing)
    · obtain ⟨⟨f, there, closing, chains⟩, queue, others⟩ := closed_shown sess
      exact ⟨_, f, (doRequest_of_close open_ sess own type).trans (doClose_of_live live), there, closing, chains, queue, others⟩
    · exact doRequest_of_closing open_ sess own notOpen notClose closing
    · exact (doRequest_of_append open_ sess own live good type).trans (doAppend_of_frozen frozen _)
    · exact (doRequest_of_append open_ sess own live good type).trans (doAppend_of_elsewhere warm elsewhere)
    · obtain ⟨a, x, run, shown⟩ := doAppend_shown (s := s) sess warm (type ▸ good) here some_
      refine ⟨a, x, (doRequest_of_append open_ sess own live good type).trans run, shown.imp_right ?_⟩
      rintro ⟨ok, value, f, there, active, counts⟩
      refine ⟨ok, value, f, there, active, ?_, fun l hl => ?_⟩
      · rw [counts, Tab.look_put_self]
      · rw [counts, Tab.look_put, if_neg hl]
    · exact (doRequest_of_release open_ sess own live good type).trans (doRelease_of_stranger sess stranger)

end

section
/-! SUPPORT. Words and packets that write to a Pantry, to a program store or to a stack (R261, R264, R269): what each such
operation leaves of the Croft, whatever other parts of the state have changed before it. -/

namespace Sys2Proof.Machine

/-! ## What a Croft's operations leave, whatever else has changed -/

/-- The code words of a list that a write to `[a, a + n)` of the Pantry does not make whole again (R356). -/
def keptWords (a n : Nat) (l : List Nat) : List Nat := l.filter (fun key => !(a ≤ 8 * key && 8 * key + 8 ≤ a + n))

theorem keptWords_zero (a : Nat) (l : List Nat) : keptWords a 0 l = l := by
  refine List.filter_eq_self.2 fun key _ => ?_
  simp only [Bool.not_eq_true', Bool.and_eq_false_iff, decide_eq_false_iff_not]
  omega

/-- A string has been written to the Pantry, and the code words in it are whole. -/
def Croft.stored (a : Nat) (bs : Bytes) (y : Croft) : Croft :=
  { y with
    pantry := Memory.writeN y.pantry a bs
    softWords := keptWords a bs.length y.softWords, badWords := keptWords a bs.length y.badWords }

theorem Croft.stored_nil (a : Nat) (y : Croft) : y.stored a [] = y := by
  simp only [Croft.stored, List.length_nil, keptWords_zero, Memory.writeN]

/-- The next word of an engine has been marked, and the queues of the other engines stay (R287). -/
def Marked (k : Nat) (e : Engine) (s u : State) : Prop :=
  (u.croft k).queue e = markDone ((s.croft k).queue e) ∧ ∀ f, f ≠ e → (u.croft k).queue f = (s.croft k).queue f

namespace CroftLeft

variable {k : Nat} {y : Croft} {tf : Tab Nat} {ps qs : List Part} {s u : State}

theorem mono (h : CroftLeft k y tf ps s u) (sub : ps ⊆ qs) : CroftLeft k y tf qs s u :=
  { h with frame := h.frame.mono (List.cons_subset_cons _ sub) }

/-- A word that has started, and whose effect leaves the queues, is marked. -/
theorem marked {e : Engine} {gt : Nat} (h : CroftLeft k (y.started e gt) tf ps s u)
    (queues : ∀ f, y.queue f = (s.croft k).queue f) : Marked k e s u := by
  refine ⟨?_, fun f other => ?_⟩
  · rw [h.croft, Croft.started_queue_self, queues]
  · rw [h.croft, Croft.started_queue_of_ne other, queues]

/-- Accesses lose cycles to the words under way, and nothing else comes of it (R262). -/
theorem lost (h : CroftLeft k y tf ps s u) (free : Part.draws ∈ ps) (e : Engine) (mine : List Nat) :
    ∃ n, CroftLeft k { y with conflict := n } tf ps s (conflicts k e mine u) := by
  have drawn : CroftLeft k y tf ps s u.draw.2 :=
    h.outside (ChangesOnly.drawn (ps := [.draws]) (.refl _ u) (by decide)) (by decide) (by simpa using free)
  unfold conflicts
  extract_lets rivals theirs n
  split
  · exact ⟨_, h⟩
  split
  · exact ⟨_, h⟩
  · exact ⟨_, drawn.modCroft rfl⟩

/-- With no injection armed a write to the Pantry stores what lies within it. -/
theorem stores (h : CroftLeft k y tf ps s u) (flt : u.flt.armed = none) (a : Nat) (bs : Bytes) :
    CroftLeft k (y.stored a (bs.take (pantrySize - a))) tf ps s (Machine.pantryPut k a bs u) := by
  unfold Machine.pantryPut
  extract_lets cut keep
  split
  next none => rwa [show bs.take (pantrySize - a) = [] from List.isEmpty_iff.1 none, Croft.stored_nil]
  next =>
    rw [eccMark_of_unarmed (by rw [State.modCroft_flt, flt])]
    exact h.modCroft rfl

/-- What the fabric port receives is stored where it fits (R261, R262). -/
theorem portStores (h : CroftLeft k y tf ps s u) (free : Part.draws ∈ ps) (flt : u.flt.armed = none) {a : Nat} {bs : Bytes}
    (fits : a + bs.length ≤ pantrySize) :
    ∃ n, CroftLeft k (Croft.stored a bs { y with conflict := n }) tf ps s (portPut k a bs u) := by
  obtain ⟨n, lost⟩ := h.lost free .fp (linesOf a bs.length)
  have armed : (conflicts k .fp (linesOf a bs.length) u).flt = u.flt :=
    (conflicts_changes (parts := [.crf, .draws]) (.refl _ u) (by decide)).flt_eq (by decide) (by decide)
  have stored := lost.stores (by rw [armed, flt]) a bs
  rw [List.take_of_length_le (by omega)] at stored
  exact ⟨n, stored⟩

/-- A word starts by its reads: with no word of the Croft in error they pass, and cycles are lost at most (R262). -/
theorem word_reads (bad : (s.croft k).badWords = []) (soft : (s.croft k).softWords = []) (e : Engine) (w : BitVec 256)
    (rs : List (Nat × Nat)) : ∃ n v, checkRanges k rs (wordConflicts k e w s) = (true, v) ∧
      CroftLeft k { s.croft k with conflict := n } s.crf.tflags [.draws] s v := by
  obtain ⟨n, lost⟩ := (CroftLeft.refl k [.draws] s).conflicted e w
  obtain ⟨ok, read⟩ := lost.checked bad soft _
  exact ⟨n, _, Prod.ext ok rfl, read⟩

end CroftLeft
end Sys2Proof.Machine
end

section
/-! SUPPORT. The mover (R264, R265, R280, R285): its runs one after the other, each reading what the ones before it wrote. -/

namespace Sys2Proof.Machine

/-! ## What a mover word works on -/

/-- The bytes that a mover word reads and writes: those of its Croft's Pantry, those of the stacks, the program store. -/
abbrev MoverCells := Memory × Memory × Tab (BitVec 256)

/-- The bytes of the run at a source offset. -/
def MoverCells.fetch (z : MoverCells) (t : Nat) (m : Mover) (off : Int) : Bytes :=
  if m.srcSpace = 0 then Memory.readN z.1 off.toNat m.run else Memory.readN z.2.1 (cellarAddr t off.toNat) m.run

/-- A run is written at a destination offset. -/
def MoverCells.place (z : MoverCells) (t space : Nat) (off : Int) (b : Bytes) : MoverCells :=
  if space = 0 then (Memory.writeN z.1 off.toNat b, z.2)
  else if space = 1 then (z.1, Memory.writeN z.2.1 (cellarAddr t off.toNat) b, z.2.2)
  else (z.1, z.2.1, (words32 (b.length / 32) b).zipIdx.foldl
    (fun f w => Tab.put 0 f ((off.toNat / 32 + w.2) % 2048) w.1) z.2.2)

/-- A run lies in the Pantry, or in pages granted to Crofts (R265). -/
def State.reaches (s : State) (t n space : Nat) (a : Int) : Prop :=
  0 ≤ a ∧ if space = 0 then a + n ≤ 0x60000
    else s.granted t (a.toNat / 65536) = true ∧ s.granted t ((a.toNat + n - 1) / 65536) = true

/-- A run may be written: it lies in the Pantry or in granted pages of a Tract that is not fenced, or is of the store. -/
def State.lands (s : State) (t n space : Nat) (a : Int) : Prop :=
  (if space ≤ 1 then s.reaches t n space a else 0 ≤ a) ∧ (space = 1 → (s.tract t).fenced = false)

/-- A Croft of which a mover word has changed the cells; cycles are lost. -/
def Croft.moved (lost : Nat) (z : MoverCells) (x : Croft) : Croft :=
  { x with conflict := lost, pantry := z.1, store := z.2.2 }

/-- Since `s` a mover word has gone ahead on Croft `k`, which left the cells `z`. -/
structure Moving (k : Nat) (s : State) (z : MoverCells) (u : State) : Prop where
  left   : ∃ n, CroftLeft k ((s.croft k).moved n z) s.crf.tflags [.cel, .mem, .draws] s u
  tracts : ∀ v, u.tract v = s.tract v
  bad    : u.cel.bad = []
  soft   : u.cel.soft = []
  mem    : ∀ a, Memory.read u.cel.mem a = Memory.read z.2.1 a

/-! ## Pages granted to Crofts (R265) -/

theorem State.granted_congr {s u : State} (img : u.img = s.img) (t g : Nat) : u.granted t g = s.granted t g := by
  have part : u.part t = s.part t := by rw [State.part, State.fieldBody_congr img, State.part]
  have region : u.regionOf t g = s.regionOf t g := by
    unfold State.regionOf State.poolEnd
    rw [part]
  rw [State.granted, region, State.granted]

/-- A granted page is none of the pool, and lies above the tables. -/
theorem State.page_of_granted {s : State} {t g : Nat} (h : s.granted t g = true) :
    s.inPool t g = false ∧ 0x44A0 ≤ g := by
  have work : s.regionOf t g = .work := by simp_all [State.granted]
  unfold State.regionOf at work
  unfold State.inPool
  grind

/-- Bytes in two granted pages are memory, and none of them is of a damaged page. -/
theorem readStack_of_granted {u : State} (bad : u.cel.bad = []) (soft : u.cel.soft = []) {t off n : Nat}
    (low : u.granted t (off / 65536) = true) (high : u.granted t ((off + n - 1) / 65536) = true) (few : n ≤ 65536) :
    readStack t off n u = (some (Memory.readN u.cel.mem (cellarAddr t off) n), u) := by
  obtain ⟨lowPool, above⟩ := State.page_of_granted low
  obtain ⟨highPool, -⟩ := State.page_of_granted high
  have sound : u.damagedIn t off n = false := by
    simp only [State.damagedIn, Bool.and_eq_false_iff, List.any_eq_false, List.mem_map, List.mem_range]
    refine .inr ?_
    rintro g ⟨i, hi, rfl⟩
    have ends : off / 65536 + i = off / 65536 ∨ off / 65536 + i = (off + n - 1) / 65536 := by omega
    rcases ends with e | e <;> simp [e, lowPool, highPool]
  rw [readStack_clean t off n u sound soft bad, stackBytes_memory u t off n (by omega)]

/-! ## What a run reads and writes -/

@[simp] theorem MoverCells.length_fetch (z : MoverCells) (t : Nat) (m : Mover) (off : Int) :
    (z.fetch t m off).length = m.run := by
  unfold MoverCells.fetch
  split <;> exact Memory.length_readN ..

/-- A string that stands from an address on is what has been written there. -/
theorem read_writeN_byteAt (m : Memory) (a : Nat) (data : Bytes) (x : Nat) :
    Memory.read (Memory.writeN m a data) x = (byteAt a data x).getD (Memory.read m x) := by
  rw [Memory.read_writeN]
  unfold byteAt
  by_cases h : a ≤ x
  · by_cases h' : x - a < data.length
    · rw [if_pos ⟨h, by omega⟩, if_pos h, List.getD_eq_getElem?_getD, List.getElem?_eq_getElem h']
      rfl
    · rw [if_neg (by omega), if_pos h, List.getElem?_eq_none (by omega)]
      rfl
  · rw [if_neg (by omega), if_neg h]
    rfl

/-- The offsets of a run that lies in the Pantry. -/
theorem State.reaches_pantry {s : State} {t n : Nat} {a : Int} (h : s.reaches t n 0 a) :
    0 ≤ a ∧ a.toNat + n ≤ pantrySize := by
  obtain ⟨low, high⟩ := h
  rw [if_pos rfl] at high
  exact ⟨low, by unfold pantrySize; omega⟩

theorem State.reaches_stack {s : State} {t n space : Nat} (stack : space ≠ 0) {a : Int} (h : s.reaches t n space a) :
    0 ≤ a ∧ s.granted t (a.toNat / 65536) = true ∧ s.granted t ((a.toNat + n - 1) / 65536) = true := by
  obtain ⟨low, pages⟩ := h
  exact ⟨low, (if_neg stack ▸ pages :)⟩

namespace Moving

variable {k : Nat} {s u v : State} {z : MoverCells}

theorem flt (h : Moving k s z u) : u.flt = s.flt := by
  obtain ⟨n, left⟩ := h.left
  exact left.frame.flt_eq (by decide) (by decide)

theorem granted (h : Moving k s z u) (t g : Nat) : u.granted t g = s.granted t g := by
  obtain ⟨n, left⟩ := h.left
  exact State.granted_congr (left.frame.img_eq (by decide) (by decide)) t g

theorem pantry (h : Moving k s z u) : (u.croft k).pantry = z.1 := by
  obtain ⟨n, left⟩ := h.left
  rw [left.croft, Croft.moved]

/-- What changes Crofts alone. -/
theorem ofCroft (h : Moving k s z u) (cel : v.cel = u.cel) {y : MoverCells} (mem : y.2.1 = z.2.1)
    (left : ∃ n, CroftLeft k ((s.croft k).moved n y) s.crf.tflags [.cel, .mem, .draws] s v) : Moving k s y v where
  left := left
  tracts w := (State.tract_congr cel w).trans (h.tracts w)
  bad := by rw [cel, h.bad]
  soft := by rw [cel, h.soft]
  mem a := by rw [cel, h.mem, mem]

theorem drawn (h : Moving k s z u) (n : Nat) : Moving k s z (u.drawBytes n).2 := by
  obtain ⟨m, left⟩ := h.left
  exact h.ofCroft (v := (u.drawBytes n).2) rfl rfl
    ⟨m, left.outside (qs := [.draws]) (.drawnBytes n (.refl _ u) (by decide)) (by decide) (by decide)⟩

/-- A run is read; what lies in the Pantry or in granted pages is what has been written so far. -/
theorem read (h : Moving k s z u) (m : Mover) (few : m.run ≤ 65536) (off : Int) :
    ∃ b v, moverRead k m.srcSpace off m.run u = (some b, v) ∧ Moving k s z v ∧
      (s.reaches (k / 136) m.run m.srcSpace off → b = z.fetch (k / 136) m off) := by
  unfold moverRead
  dsimp only
  split
  next space =>
    rw [space]
    split
    next inside => exact ⟨_, _, rfl, h, fun _ => by rw [MoverCells.fetch, if_pos space, h.pantry]⟩
    next outside =>
      refine ⟨_, _, rfl, h.drawn _, fun there => ?_⟩
      obtain ⟨low, high⟩ := State.reaches_pantry there
      exact absurd (by simp [low, high]) outside
  next space =>
    split
    next inside =>
      simp only [Bool.and_eq_true, decide_eq_true_eq] at inside
      obtain ⟨⟨-, low⟩, high⟩ := inside
      refine ⟨_, _, readStack_of_granted h.bad h.soft low high few, h, fun _ => ?_⟩
      rw [MoverCells.fetch, if_neg space]
      exact List.map_congr_left fun i _ => h.mem _
    next outside =>
      refine ⟨_, _, rfl, h.drawn _, fun there => ?_⟩
      obtain ⟨low, pages⟩ := State.reaches_stack space there
      rw [← h.granted, ← h.granted] at pages
      exact absurd (by simp [low, pages]) outside

section
variable (bad : (s.croft k).badWords = []) (soft : (s.croft k).softWords = [])
include bad soft

/-- Reads of the Pantry pass. -/
theorem checked (h : Moving k s z u) (rs : List (Nat × Nat)) :
    ∃ v, checkRanges k rs u = (true, v) ∧ Moving k s z v := by
  obtain ⟨n, left⟩ := h.left
  obtain ⟨ok, read⟩ := left.checked bad soft _
  refine ⟨_, Prod.ext ok rfl, h.ofCroft ?_ rfl ⟨n, read⟩⟩
  simp [checkRanges, checkKeys, left.croft, Croft.moved, bad, soft]

variable (unarmed : s.flt.armed = none)
include unarmed

theorem pantryPut (h : Moving k s z u) (a : Nat) (bs : Bytes) :
    Moving k s (Memory.writeN z.1 a (bs.take (pantrySize - a)), z.2) (pantryPut k a bs u) := by
  obtain ⟨n, left⟩ := h.left
  have stored := left.stores (by rw [h.flt, unarmed]) a bs
  refine h.ofCroft ?_ rfl ⟨n, ?_⟩
  · unfold Machine.pantryPut
    dsimp only
    split
    · rfl
    · rw [eccMark_of_unarmed (by rw [State.modCroft_flt, h.flt, unarmed])]
      rfl
  · simpa only [Croft.stored, Croft.moved, bad, soft, keptWords, List.filter_nil] using stored

theorem storePut (h : Moving k s z u) (i : Nat) (w : BitVec 256) :
    Moving k s (z.1, z.2.1, Tab.put 0 z.2.2 (i % 2048) w) (storePut k i w u) := by
  obtain ⟨n, left⟩ := h.left
  unfold Machine.storePut
  dsimp only
  rw [eccMark_of_unarmed (by rw [State.modCroft_flt, h.flt, unarmed])]
  refine h.ofCroft ?_ ?_ ⟨n, left.modCroft ?_⟩
  · rfl
  · rfl
  · simp only [Croft.moved, bad, soft, List.filter_nil]

/-- A run is written where it may be. -/
theorem write (live : s.flt.fatal = none) (h : Moving k s z u) (space : Nat) (off : Int) (b : Bytes) :
    ∃ y, Moving k s y (moverWrite k space off b u) ∧
      (s.lands (k / 136) b.length space off → y = z.place (k / 136) space off b) := by
  unfold moverWrite MoverCells.place
  dsimp only
  split
  next below =>
    refine ⟨z, h, fun there => absurd below ?_⟩
    obtain ⟨place, -⟩ := there
    split at place
    · exact Int.not_lt.2 place.1
    · exact Int.not_lt.2 place
  split
  next space =>
    refine ⟨_, h.pantryPut bad soft unarmed _ _, fun there => ?_⟩
    subst space
    obtain ⟨-, fits⟩ := State.reaches_pantry ((if_pos (Nat.zero_le 1) ▸ there.1 :))
    rw [List.take_of_length_le (by omega)]
  split
  next space =>
    subst space
    split
    next inside =>
      by_cases fenced : (u.tract (k / 136)).fenced = true
      · refine ⟨z, by rwa [cellWrite, fenced, Bool.or_true, if_pos rfl], fun there => ?_⟩
        rw [h.tracts, there.2 rfl] at fenced
        exact nomatch fenced
      · have wrote := cellWrite_written (by rw [h.flt, unarmed]) h.bad h.soft (by rw [h.flt, live])
          (by simpa using fenced) off.toNat b
        obtain ⟨n, left⟩ := h.left
        refine ⟨(z.1, Memory.writeN z.2.1 (cellarAddr (k / 136) off.toNat) b, z.2.2),
          ⟨⟨n, left.outside wrote.frame (by decide) (by decide)⟩, fun v => (wrote.tracts v).trans (h.tracts v),
          wrote.bad, wrote.soft, fun a => ?_⟩, fun _ => rfl⟩
        rw [wrote.read, read_writeN_byteAt, h.mem]
    next outside =>
      refine ⟨z, h, fun there => ?_⟩
      obtain ⟨-, pages⟩ := State.reaches_stack Nat.one_ne_zero ((if_pos (Nat.le_refl 1) ▸ there.1 :))
      rw [← h.granted, ← h.granted] at pages
      exact absurd (by simp [pages]) outside
  next =>
    refine ⟨_, ?_, fun _ => rfl⟩
    exact List.foldl_rel (r := fun (u : State) (f : Tab (BitVec 256)) => Moving k s (z.1, z.2.1, f) u) h
      fun w _ v f moved => moved.storePut bad soft unarmed _ _

variable (live : s.flt.fatal = none)
include live

/-- Runs move one after the other (R285). -/
theorem moves {m : Mover} (few : m.run ≤ 65536) (runs : List (Int × Int)) (h : Moving k s z u) :
    ∃ y, Moving k s y (moveEach k m m.run runs u) ∧
      ((∀ r ∈ runs, s.reaches (k / 136) m.run m.srcSpace r.1 ∧ s.lands (k / 136) m.run m.dstSpace r.2) →
        y = runs.foldl (fun z r => z.place (k / 136) m.dstSpace r.2 (z.fetch (k / 136) m r.1)) z) := by
  induction runs generalizing z u with
  | nil => exact ⟨z, h, fun _ => rfl⟩
  | cons r rest ih =>
    obtain ⟨t, ok, passed⟩ := h.checked bad soft (if m.srcSpace = 0 && decide (0 ≤ r.1) then [(r.1.toNat, m.run)] else [])
    obtain ⟨b, v, run, read, fetched⟩ := passed.read m few r.1
    obtain ⟨y, wrote, placed⟩ := read.write bad soft unarmed live m.dstSpace r.2 b
    obtain ⟨e, moved, all⟩ := ih wrote
    have step : moveEach k m m.run (r :: rest) u = moveEach k m m.run rest (moverWrite k m.dstSpace r.2 b v) := by
      simp only [moveEach, ok, run, Bool.not_true, Bool.false_eq_true, if_false]
    refine ⟨e, step ▸ moved, fun there => ?_⟩
    obtain ⟨source, target⟩ := there r List.mem_cons_self
    obtain rfl := fetched source
    rw [all fun r hr => there r (List.mem_cons_of_mem _ hr), placed (by rwa [MoverCells.length_fetch])]
    rfl

/-- One string is written over every run. -/
theorem fills (space : Nat) (b : Bytes) (runs : List (Int × Int)) (h : Moving k s z u) :
    ∃ y, Moving k s y (runs.foldl (fun u r => moverWrite k space r.2 b u) u) ∧
      ((∀ r ∈ runs, s.lands (k / 136) b.length space r.2) →
        y = runs.foldl (fun z r => z.place (k / 136) space r.2 b) z) := by
  induction runs generalizing z u with
  | nil => exact ⟨z, h, fun _ => rfl⟩
  | cons r rest ih =>
    obtain ⟨y, wrote, placed⟩ := h.write bad soft unarmed live space r.2 b
    obtain ⟨e, moved, all⟩ := ih wrote
    refine ⟨e, moved, fun there => ?_⟩
    rw [all fun r hr => there r (List.mem_cons_of_mem _ hr), placed (there r List.mem_cons_self)]
    rfl

end
end Moving

/-! ## The words of the mover (R280, R285) -/

/-- The mover words with their operations (Table 11-2). -/
def moverWords (c : Nat) : List (Instr × Nat) :=
  [(.mvCopy c, 0), (.mvTranspose c, 1), (.mvGather c, 2), (.mvScatter c, 3), (.mvFill c, 4), (.mvOverlay c, 5)]

/-- What a mover word does when it starts. -/
def moverAction : Nat → Nat → QWord → State → Bool × State
  | 2 => mvGather
  | 3 => mvScatter
  | 4 => mvFill
  | _ => mvWalk

theorem exec_moverWord {c : Nat} {cmd : Instr} {op : Nat} (listed : (cmd, op) ∈ moverWords c) (hc : c < 4096) (s : State) :
    exec cmd s = .next (startWord c .mv op (moverAction op) s) := by
  simp only [moverWords, List.mem_cons, Prod.mk.injEq, List.not_mem_nil, or_false] at listed
  rcases listed with ⟨rfl, rfl⟩ | ⟨rfl, rfl⟩ | ⟨rfl, rfl⟩ | ⟨rfl, rfl⟩ | ⟨rfl, rfl⟩ | ⟨rfl, rfl⟩ <;>
    exact if_pos (decide_eq_true hc)

theorem mover_run_le (w : BitVec 256) : (mover w).run ≤ 65536 := by
  have : wbits w 115 104 < 2 ^ 12 := Nat.mod_lt _ (by decide)
  change wbits w 115 104 + 1 ≤ 65536
  omega

/-- The runs of a mover word: those of the index list for GATHER and SCATTER, else those of R285. -/
def State.moverRuns (s : State) (k op : Nat) (w : BitVec 256) : List (Int × Int) :=
  let m := mover w
  let index (a i : Nat) : Int := (beNat (Memory.readN (s.croft k).pantry (a + 4 * i) 4) : Int)
  if op = 2 then (List.range (wRepeat w)).map (fun i =>
    ((m.src : Int) + index (gatherIdx w) i * (m.s1 * m.srcUnit), (m.dst : Int) + (i * m.run : Nat)))
  else if op = 3 then (List.range (wRepeat w)).map (fun i =>
    ((m.src : Int) + (i * m.run : Nat), (m.dst : Int) + index (scatterIdx w) i * (m.d1 * m.dstUnit)))
  else Machine.moverRuns m (wRepeat w)

/-- FILL's 8 bytes over the length of a run. -/
def State.pattern (s : State) (k : Nat) (m : Mover) : Bytes :=
  (List.range m.run).map (fun i => (Memory.readN (s.croft k).pantry m.src 8).getD (i % 8) 0)

/-- One run of a mover word: FILL's pattern, or what its source holds by then, goes to its destination. -/
def State.moveRun (s : State) (k op : Nat) (m : Mover) (z : MoverCells) (r : Int × Int) : MoverCells :=
  z.place (k / 136) m.dstSpace r.2 (if op = 4 then s.pattern k m else z.fetch (k / 136) m r.1)

/-- The cells before a mover word. -/
def State.moverCells (s : State) (k : Nat) : MoverCells := ((s.croft k).pantry, s.cel.mem, (s.croft k).store)

/-- A mover word goes ahead; where its runs lie in what Crofts may read and write, it moves them all. -/
structure Moves (k op : Nat) (w : BitVec 256) (s : State) (r : Bool × State) : Prop where
  went : r.1 = true
  left : ∃ z, Moving k s z r.2 ∧
    ((∀ e ∈ s.moverRuns k op w, (op = 4 ∨ s.reaches (k / 136) (mover w).run (mover w).srcSpace e.1) ∧
        s.lands (k / 136) (mover w).run (mover w).dstSpace e.2) →
      z = (s.moverRuns k op w).foldl (s.moveRun k op (mover w)) (s.moverCells k))

/-- The indices of a list with their numbers. -/
theorem State.map_indices {α : Type} (s : State) (k a n : Nat) (h : Nat → Nat → α) :
    (s.indices k a n).zipIdx.map (fun e => h e.1 e.2) =
      (List.range n).map (fun i => h (beNat (Memory.readN (s.croft k).pantry (a + 4 * i) 4)) i) :=
  List.ext_getElem (by simp [State.indices]) fun i _ _ => by simp [State.indices]

section
variable {k : Nat} {s : State} (bad : (s.croft k).badWords = []) (soft : (s.croft k).softWords = [])
  (unarmed : s.flt.armed = none) (live : s.flt.fatal = none) (good : s.cel.bad = []) (sound : s.cel.soft = [])
include bad soft good sound

/-- A mover word begins by reading its list or pattern, which changes none of its cells. -/
theorem moving_begins (w : BitVec 256) (rs : List (Nat × Nat)) :
    ∃ v, checkRanges k rs (wordConflicts k .mv w s) = (true, v) ∧ Moving k s (s.moverCells k) v := by
  obtain ⟨n, v, ok, left⟩ := CroftLeft.word_reads bad soft .mv w rs
  have cel := left.frame.cel_eq (by decide) (by decide)
  exact ⟨v, ok, ⟨n, left.mono (by decide)⟩, State.tract_congr cel, by rw [cel, good], by rw [cel, sound],
    fun a => by rw [cel]; rfl⟩

include unarmed live

/-- Every word but FILL moves runs from their sources. -/
theorem moveRuns_moves {op : Nat} (other : op ≠ 4) (w : BitVec 256) (idx : List (Nat × Nat)) :
    Moves k op w s (moveRuns k w (mover w).run idx (s.moverRuns k op w) s) := by
  obtain ⟨v, ok, begun⟩ := moving_begins bad soft good sound w idx
  obtain ⟨z, moved, all⟩ := begun.moves bad soft unarmed live (mover_run_le w) (s.moverRuns k op w)
  refine ⟨rfl, z, by simpa [moveRuns, ok] using moved, fun there => (all fun r hr => ?_).trans ?_⟩
  · obtain ⟨source, target⟩ := there r hr
    exact ⟨source.resolve_left other, target⟩
  · exact congrArg (fun f => List.foldl f (s.moverCells k) (s.moverRuns k op w))
      (funext₂ fun z r => by rw [State.moveRun, if_neg other])

theorem mvFill_moves (q : QWord) : Moves k 4 q.word s (mvFill k q s) := by
  obtain ⟨v, ok, begun⟩ := moving_begins bad soft good sound q.word [((mover q.word).src, 8)]
  obtain ⟨z, moved, all⟩ := begun.fills bad soft unarmed live (mover q.word).dstSpace (s.pattern k (mover q.word))
    (s.moverRuns k 4 q.word)
  have run : mvFill k q s = (true, (s.moverRuns k 4 q.word).foldl
      (fun u r => moverWrite k (mover q.word).dstSpace r.2 (s.pattern k (mover q.word)) u) v) := by
    simp only [mvFill, ok, begun.pantry]
    rfl
  rw [run]
  refine ⟨rfl, z, moved, fun there => (all fun r hr => ?_).trans rfl⟩
  rw [State.pattern, List.length_map, List.length_range]
  exact (there r hr).2

theorem moverAction_moves {c : Nat} {cmd : Instr} {op : Nat} (listed : (cmd, op) ∈ moverWords c) (q : QWord) :
    Moves k op q.word s (moverAction op k q s) := by
  simp only [moverWords, List.mem_cons, Prod.mk.injEq, List.not_mem_nil, or_false] at listed
  have walk (op : Nat) (plain : op ≠ 2 ∧ op ≠ 3) (other : op ≠ 4) : Moves k op q.word s (mvWalk k q s) := by
    have moves := moveRuns_moves bad soft unarmed live good sound other q.word []
    rwa [State.moverRuns, if_neg plain.1, if_neg plain.2] at moves
  rcases listed with ⟨-, rfl⟩ | ⟨-, rfl⟩ | ⟨-, rfl⟩ | ⟨-, rfl⟩ | ⟨-, rfl⟩ | ⟨-, rfl⟩
  · exact walk 0 (by decide) (by decide)
  · exact walk 1 (by decide) (by decide)
  · have run : mvGather k q s = moveRuns k q.word (mover q.word).run [(gatherIdx q.word, 4 * wRepeat q.word)]
        (s.moverRuns k 2 q.word) s :=
      congrArg (moveRuns k q.word _ _ · s) (s.map_indices k (gatherIdx q.word) (wRepeat q.word) fun v i =>
        (((mover q.word).src : Int) + (v : Int) * ((mover q.word).s1 * (mover q.word).srcUnit),
          ((mover q.word).dst : Int) + (i * (mover q.word).run : Nat)))
    exact (run ▸ moveRuns_moves bad soft unarmed live good sound (by decide) q.word _ :)
  · have run : mvScatter k q s = moveRuns k q.word (mover q.word).run [(scatterIdx q.word, 4 * wRepeat q.word)]
        (s.moverRuns k 3 q.word) s :=
      congrArg (moveRuns k q.word _ _ · s) (s.map_indices k (scatterIdx q.word) (wRepeat q.word) fun v i =>
        (((mover q.word).src : Int) + (i * (mover q.word).run : Nat),
          ((mover q.word).dst : Int) + (v : Int) * ((mover q.word).d1 * (mover q.word).dstUnit)))
    exact (run ▸ moveRuns_moves bad soft unarmed live good sound (by decide) q.word _ :)
  · exact mvFill_moves bad soft unarmed live good sound q
  · exact walk 5 (by decide) (by decide)

end

/-- A mover word is marked; the flags and the receives of its Croft stay, and no other Croft changes. -/
def MoverKept (k : Nat) (s u : State) : Prop :=
  Marked k .mv s u ∧ (u.croft k).flags = (s.croft k).flags ∧ (u.croft k).posts = (s.croft k).posts ∧
  (∀ j, j ≠ k → u.croft j = s.croft j) ∧ ChangesOnly [.crf, .cel, .mem, .draws] s u

/-- The cells of a Croft after a mover word. -/
def HoldsCells (k : Nat) (z : MoverCells) (u : State) : Prop :=
  (u.croft k).pantry = z.1 ∧ (∀ a, Memory.read u.cel.mem a = Memory.read z.2.1 a) ∧ (u.croft k).store = z.2.2

/-- A mover word that has gone ahead is marked, and leaves the cells that its runs left. -/
theorem Moves.started {c k op : Nat} {q : QWord} {f : Nat → QWord → State → Bool × State} {s : State}
    (h : Moves k op q.word s (f k q s)) (phys : s.physOf c = some k) (works : s.works k = true)
    (next : (s.croft k).next .mv = some q) (named : isOp .mv op q.word = true) (met : s.waitMet k q.word = true) :
    MoverKept k s (startWord c .mv op f s) ∧
    ((∀ e ∈ s.moverRuns k op q.word, (op = 4 ∨ s.reaches (k / 136) (mover q.word).run (mover q.word).srcSpace e.1) ∧
        s.lands (k / 136) (mover q.word).run (mover q.word).dstSpace e.2) →
      HoldsCells k ((s.moverRuns k op q.word).foldl (s.moveRun k op (mover q.word)) (s.moverCells k))
        (startWord c .mv op f s)) := by
  obtain ⟨went, z, moving, all⟩ := h
  obtain ⟨n, moved⟩ := moving.left
  rw [startWord_of_went phys works next named met went]
  have left := moved.modCroft (f := Croft.started .mv (f k q s).2.bel.gt) rfl
  refine ⟨⟨left.marked (by rintro ⟨⟩ <;> rfl), ?_, ?_, left.others, left.frame⟩, fun there => ?_⟩
  · rw [left.croft]
    rfl
  · rw [left.croft]
    rfl
  · rw [← all there, HoldsCells, left.croft]
    exact ⟨rfl, moving.mem, rfl⟩

end Sys2Proof.Machine
end

section
/-! SUPPORT. The fabric port (R268 to R270, R281): sending reads nothing of the Crofts and takes no free values, so a word's
packets enter the core alike whether its reads have lost cycles or not. -/

namespace Sys2Proof.Machine

/-! ## What sending depends on -/

/-- The state with another switching core, other Crofts and other free values. -/
def State.sending (s : State) (w : Swc) (x : Crf) (d : Nat) : State := { s with swc := w, crf := x, draws := d }

/-- A Croft's packet that is not replicated changes the core alone, whatever the Crofts and the free values are. -/
theorem croftSend_sending {p : Packet} (single : p.cls.toNat ≠ 2) (c : Nat) (s : State) (w : Swc) (x : Crf) (d : Nat) :
    croftSend c p (s.sending w x d) = s.sending (croftSend c p (s.sending w s.crf s.draws)).swc x d := by
  have may : (s.sending w x d).mayCroftSend p = (s.sending w s.crf s.draws).mayCroftSend p := rfl
  have room : (s.sending w x d).hasRoom (cellarSlotOfCroft c) p =
    (s.sending w s.crf s.draws).hasRoom (cellarSlotOfCroft c) p := rfl
  have sealed : (sealPacket p p.payload).cls.toNat ≠ 2 := single
  have core (y : Crf) (n : Nat) : (s.sending w y n).swc = w := rfl
  simp only [croftSend, inject, enterInside, if_neg sealed, may, room, core]
  split
  · split <;> rfl
  · rfl

/-- `y` is `z` but for the Crofts and free values of `v`, and `z` is `s` but for the switching core. -/
def SentAlike (s v z y : State) : Prop := ∃ w, z = s.sending w s.crf s.draws ∧ y = s.sending w v.crf v.draws

theorem ChangesOnly.eq_sending {s v : State} (h : ChangesOnly [.crf, .draws] s v) : v = s.sending s.swc v.crf v.draws := by
  have flt := h.flt_eq (by decide) (by decide)
  have bel := h.bel_eq (by decide) (by decide)
  have cel := h.cel_eq (by decide) (by decide)
  have img := h.img_eq (by decide) (by decide)
  cases v
  cases s
  simp only [State.sending, State.mk.injEq]
  refine ⟨h .pending ?_, h .fuses ?_, h .glb ?_, flt, h .attic ?_, bel, h .clock ?_, h .shapers ?_, h .gates ?_,
    h .swc ?_, h .rte ?_, h .fld ?_, cel, h .ats ?_, trivial, img, h .lnk ?_, h .bln ?_, h .sec ?_, h .thm ?_, h .host ?_,
    h .pins ?_, h .inbox ?_, h .out ?_, trivial⟩ <;> decide

namespace SentAlike

variable {s v z y : State}

theorem start (h : ChangesOnly [.crf, .draws] s v) : SentAlike s v s v := ⟨s.swc, rfl, h.eq_sending⟩

/-- One packet of a Croft. -/
theorem send (h : SentAlike s v z y) {cls : Nat} (single : (BitVec.ofNat 3 cls).toNat ≠ 2) (c : Nat) (x : Port) (order : Bool)
    (tsw1 : Nat) (body : Bytes) : SentAlike s v (croftSend c (s.croftPacket x cls order tsw1 body) z)
      (croftSend c (y.croftPacket x cls order tsw1 body) y) := by
  obtain ⟨w, rfl, rfl⟩ := h
  have sent := croftSend_sending (p := s.croftPacket x cls order tsw1 body) single c s w
  exact ⟨_, sent _ _, sent _ _⟩

theorem swc (h : SentAlike s v z y) : y.swc = z.swc := by
  obtain ⟨w, rfl, rfl⟩ := h
  rfl

theorem frame (h : SentAlike s v z y) (begun : ChangesOnly [.crf, .draws] s v) : ChangesOnly [.swc] v y := by
  obtain ⟨w, rfl, rfl⟩ := h
  have sent := (ChangesOnly.refl [.swc] v).set_swc w (by decide)
  rw [begun.eq_sending] at sent ⊢
  exact sent

/-- What a word has made of its Croft stays while its packets go out. -/
theorem left (h : SentAlike s v z y) {k : Nat} {x : Croft} (begun : CroftLeft k x s.crf.tflags [.draws] s v) :
    CroftLeft k x s.crf.tflags [.swc, .draws] s y :=
  (begun.mono (by decide)).outside (h.frame begun.frame) (by decide) (by decide)

end SentAlike

/-! ## The words of the fabric port -/

section
variable {c k : Nat} {q : QWord} {s : State}

theorem exec_fpSend (hc : c < 4096) (live : s.isFatal = false) :
    exec (.fpSend c) s = .next (settleCore (startWord c .fp 0 (fpSend c) s)) :=
  (if_pos (decide_eq_true hc)).trans (congrArg _ (if_neg (by simp [live])))
theorem exec_fpPenOpen (hc : c < 4096) (live : s.isFatal = false) :
    exec (.fpPenOpen c) s = .next (settleCore (startWord c .fp 2 (fpPenOpen c) s)) :=
  (if_pos (decide_eq_true hc)).trans (congrArg _ (if_neg (by simp [live])))
theorem exec_fpPenSend (hc : c < 4096) (live : s.isFatal = false) :
    exec (.fpPenSend c) s = .next (settleCore (startWord c .fp 3 (fpPenSend c) s)) :=
  (if_pos (decide_eq_true hc)).trans (congrArg _ (if_neg (by simp [live])))
theorem exec_fpPost (hc : c < 4096) (s : State) : exec (.fpPost c) s = .next (startWord c .fp 1 fpPost s) :=
  if_pos (decide_eq_true hc)

/-- A Croft of which a port word has changed the tags of requests and the posted result buffers; cycles are lost. -/
def Croft.ported (lost : Nat) (requests : List Nat) (pens : List PenPost) (x : Croft) : Croft :=
  { x with conflict := lost, requests := requests, pens := pens }

/-- A port word goes ahead: it leaves its Croft as `y`, and the switching core as sending its packets from `s` on does. -/
structure PortSent (k : Nat) (y : Croft) (z : State) (s : State) (r : Bool × State) : Prop where
  went : r.1 = true
  left : CroftLeft k y s.crf.tflags [.swc, .draws] s r.2
  swc  : r.2.swc = z.swc

theorem PortSent.modCroft {y x : Croft} {z v : State} (h : PortSent k y z s (true, v)) {f : Croft → Croft} (e : f y = x) :
    PortSent k x z s (true, v.modCroft k f) := ⟨rfl, h.left.modCroft e, h.swc⟩

theorem SentAlike.sent {v y z : State} (h : SentAlike s v z y) {x : Croft} (begun : CroftLeft k x s.crf.tflags [.draws] s v) :
    PortSent k x z s (true, y) := ⟨rfl, h.left begun, h.swc⟩

/-- A port word reads its message, with cycles lost at most. -/
theorem port_reads (bad : (s.croft k).badWords = []) (soft : (s.croft k).softWords = []) (w : BitVec 256)
    (rs : List (Nat × Nat)) : ∃ n v, checkRanges k rs (wordConflicts k .fp w s) = (true, v) ∧
      (v.croft k).pantry = (s.croft k).pantry ∧
      CroftLeft k ((s.croft k).ported n (s.croft k).requests (s.croft k).pens) s.crf.tflags [.draws] s v := by
  obtain ⟨n, v, ok, read⟩ := CroftLeft.word_reads bad soft .fp w rs
  exact ⟨n, v, ok, by rw [read.croft], read⟩

/-- CLASS of SEND's packets: DATA, or an attention request (R268). -/
def sendClass (p : Port) : Nat := if p.ptype = 0x40 then 5 else 3

/-- TSW1 of SEND's packets: that of the word, or the request's origin with the number of the packet and of the last. -/
def sendTsw1 (c : Nat) (p : Port) (last i : Nat) : Nat :=
  if p.ptype = 0x40 then p.tsw1 else c * 2 ^ 20 + p.tsw1 / 65536 % 16 * 2 ^ 16 + i * 2 ^ 8 + last

/-- A chunk of PEN_SEND: its data packets and its closing packet (Table 6-2). -/
def penPackets (m : Memory) (p : Port) (per i : Nat) : List Bytes :=
  let shape := chunkShape per
  let data := Memory.readN m (p.buf + i * per) per
  let scales := Memory.readN m (p.aux + i * shape.2.2) shape.2.2
  let closer : Trailer := { crc := BitVec.ofNat 32 (crc32c (data ++ scales)), count := 1 }
  groupsOf shape.2.1 shape.1 data ++ [scales ++ trailerBytes closer]

/-- TSW1 of a packet of PEN_SEND's chunk `i`. -/
def penTsw1 (p : Port) (i j : Nat) : Nat := (p.tsw1 / 2 ^ 22 + i) % 1024 * 2 ^ 22 + j * 2 ^ 15 + p.tsw1 % 2 ^ 15

section
variable (bad : (s.croft k).badWords = []) (soft : (s.croft k).softWords = []) {p : Port} (word : portWord q.word = p)
include bad soft word

section
variable {body : Bytes} (held : Memory.readN (s.croft k).pantry p.buf p.len = body)
include held

/-- SEND (R268): a request keeps its tag. -/
theorem fpSend_sent (c : Nat) : ∃ n, PortSent k
    ((s.croft k).ported n (if p.ptype = 0x40 then (s.croft k).requests
      else insertUp (p.tsw1 / 65536 % 16) (s.croft k).requests) (s.croft k).pens)
    ((pieces body).zipIdx.foldl (fun z e => croftSend c (s.croftPacket p (sendClass p) (p.order && e.2 == 0)
      (sendTsw1 c p ((pieces body).length - 1) e.2) e.1) z) s) s (fpSend c k q s) := by
  obtain ⟨n, v, ok, same, read⟩ := port_reads bad soft q.word [(p.buf, p.len)]
  have sent := (List.foldl_rel (l := (pieces body).zipIdx) (SentAlike.start read.frame) fun e _ z y alike =>
    alike.send (cls := sendClass p) (by unfold sendClass; split <;> decide) c p (p.order && e.2 == 0)
      (sendTsw1 c p ((pieces body).length - 1) e.2) e.1).sent read
  refine ⟨n, ?_⟩
  by_cases plain : p.ptype = 0x40
  · simp only [sendClass, sendTsw1, if_pos plain] at sent ⊢
    simpa [fpSend, word, ok, same, held, plain] using sent
  · simp only [sendClass, sendTsw1, if_neg plain] at sent ⊢
    have kept := sent.modCroft
      (x := (s.croft k).ported n (insertUp (p.tsw1 / 65536 % 16) (s.croft k).requests) (s.croft k).pens)
      (f := fun y => { y with requests := insertUp (p.tsw1 / 65536 % 16) y.requests }) rfl
    simpa [fpSend, word, ok, same, held, plain, Nat.shiftRight_eq_div_pow] using kept

/-- PEN_OPEN (R270, R281): the result buffer is posted, and the message goes out. -/
theorem fpPenOpen_sent (c : Nat) : ∃ n r, PortSent k { s.croft k with conflict := n, pens := (s.croft k).pens ++ [r] }
      ((pieces body).zipIdx.foldl (fun z e => croftSend c (s.croftPacket p 1 (p.order && e.2 == 0) p.tsw1 e.1) z) s)
      s (fpPenOpen c k q s) ∧
    r.tag = p.tsw0 / 65536 ∧ r.rank = p.tsw0 % 65536 ∧ r.buf = p.aux ∧ r.flag = p.rxFlag ∧ r.committed = 0 := by
  obtain ⟨n, v, ok, same, read⟩ := port_reads bad soft q.word [(p.buf, p.len)]
  have posted (r : PenPost) : CroftLeft k ((s.croft k).ported n (s.croft k).requests ((s.croft k).pens ++ [r])) s.crf.tflags
      [.draws] s (v.modCroft k (fun y => { y with pens := y.pens ++ [r] })) := read.modCroft rfl
  have sent (r : PenPost) := (List.foldl_rel (l := (pieces body).zipIdx) (SentAlike.start (posted r).frame)
    fun e _ z y alike => alike.send (cls := 1) (by decide) c p (p.order && e.2 == 0) p.tsw1 e.1).sent (posted r)
  simp only [fpPenOpen, word, ok, same, held]
  exact ⟨n, _, sent _, Nat.shiftRight_eq_div_pow .., rfl, rfl, rfl, rfl⟩

end

/-- PEN_SEND (R149, R169): every chunk goes out as its data packets and its closing packet. -/
theorem fpPenSend_sent (c : Nat) : ∃ n, PortSent k ((s.croft k).ported n (s.croft k).requests (s.croft k).pens)
    ((List.range (wRepeat q.word)).foldl (fun z i =>
      (penPackets (s.croft k).pantry p (p.len / max 1 (wRepeat q.word)) i).zipIdx.foldl (fun z e =>
        croftSend c (s.croftPacket p 1 (p.order && i == 0 && e.2 == 0) (penTsw1 p i e.2) e.1) z) z) s)
    s (fpPenSend c k q s) := by
  obtain ⟨n, v, ok, same, read⟩ := port_reads bad soft q.word [(p.buf, p.len), 
    (p.aux, (chunkShape (p.len / max 1 (wRepeat q.word))).2.2 * wRepeat q.word)]
  have sent := (List.foldl_rel (l := List.range (wRepeat q.word)) (SentAlike.start read.frame) fun i _ _ _ alike =>
    List.foldl_rel (l := (penPackets (s.croft k).pantry p (p.len / max 1 (wRepeat q.word)) i).zipIdx) alike fun e _ _ _ alike =>
      alike.send (cls := 1) (by decide) c p (p.order && i == 0 && e.2 == 0) (penTsw1 p i e.2) e.1).sent read
  have run : fpPenSend c k q s = (true, (List.range (wRepeat q.word)).foldl (fun y i =>
      (penPackets (s.croft k).pantry p (p.len / max 1 (wRepeat q.word)) i).zipIdx.foldl (fun y e =>
        croftSend c (y.croftPacket p 1 (p.order && i == 0 && e.2 == 0) (penTsw1 p i e.2) e.1) y) y) v) := by
    simp only [fpPenSend, word, ok, same, penTsw1, Nat.shiftRight_eq_div_pow]
    rfl
  exact ⟨n, run ▸ sent⟩

end

/-- The receive that a POST word adds (R269). -/
def Port.post (p : Port) : Post :=
  { response := p.ptype == 0x30, tag := if p.ptype == 0x30 then p.tsw1 / 65536 % 16 else p.tsw0 / 65536
    buf := p.buf, len := p.len, flag := p.rxFlag }

/-- Receives of the kind of a POST word that are outstanding reach its limit (R290). -/
def Croft.postsFull (x : Croft) (p : Port) : Prop :=
  (if p.ptype == 0x30 then 16 else 32) ≤ (x.posts.filter (·.response == (p.ptype == 0x30))).length

theorem fpPost_of_full (full : (s.croft k).postsFull (portWord q.word)) : fpPost k q s = (false, s) := if_pos full

/-- The Croft with the receive of a POST word. -/
def Croft.posting (p : Port) (x : Croft) : Croft := { x with posts := x.posts ++ [p.post] }

theorem fpPost_of_room (room : ¬ (s.croft k).postsFull (portWord q.word)) : (fpPost k q s).1 = true ∧
    CroftLeft k ((s.croft k).posting (portWord q.word)) s.crf.tflags [] s (fpPost k q s).2 := by
  have run : fpPost k q s = (true, s.modCroft k (Croft.posting (portWord q.word))) := by
    refine (if_neg room).trans ?_
    unfold Croft.posting
    simp only [Port.post, Nat.shiftRight_eq_div_pow]
  rw [run]
  exact ⟨rfl, (CroftLeft.refl k [] s).modCroft rfl⟩

/-- A port word is marked; the Pantry, the flags and the receives of its Croft stay, and no other Croft changes. -/
def PortKept (k : Nat) (s u : State) : Prop :=
  Marked k .fp s u ∧ (u.croft k).pantry = (s.croft k).pantry ∧ (u.croft k).flags = (s.croft k).flags ∧
  (u.croft k).posts = (s.croft k).posts ∧ (∀ j, j ≠ k → u.croft j = s.croft j) ∧ ChangesOnly [.crf, .swc, .draws] s u

section
variable {op : Nat} {f : Nat → QWord → State → Bool × State} (phys : s.physOf c = some k) (works : s.works k = true)
  (next : (s.croft k).next .fp = some q) (named : isOp .fp op q.word = true) (met : s.waitMet k q.word = true)
include phys works next named met

/-- A port word that has gone ahead is marked, and leaves what its action left. -/
theorem PortSent.started {n : Nat} {requests : List Nat} {pens : List PenPost} {z : State}
    (h : PortSent k ((s.croft k).ported n requests pens) z s (f k q s)) :
    PortKept k s (startWord c .fp op f s) ∧ ((startWord c .fp op f s).croft k).pens = pens ∧
      ((startWord c .fp op f s).croft k).requests = requests ∧ (startWord c .fp op f s).swc = z.swc := by
  rw [startWord_of_went phys works next named met h.went]
  have left := h.left.modCroft (f := Croft.started .fp (f k q s).2.bel.gt) rfl
  refine ⟨⟨left.marked (by rintro ⟨⟩ <;> rfl), ?_, ?_, ?_, left.others, left.frame⟩, ?_, ?_, h.swc⟩
  all_goals rw [left.croft]; rfl

end

end
end Sys2Proof.Machine
end

section
/-! SUPPORT. Receiving (R169, R269): what a packet for a Croft leaves of it, landed or dropped. -/

namespace Sys2Proof.Machine

variable {c k : Nat} {p : Packet} {s u : State} {y : Croft} {tf : Tab Nat} {ps : List Part}

/-! ## Which packets are a Croft's -/

/-- The packets that a Croft takes (R268, R269): DATA of an endpoint, a response to its request, a packet of a Pen. -/
def ForCroft (c : Nat) (p : Packet) : Prop :=
  (p.cls = 5 ∧ p.ptype = 0x40 ∧ p.src.toNat < 0xF0000 ∧ p.tsw0.toNat % 4096 = c) ∨
    (p.cls = 4 ∧ p.ptype = 0x30 ∧ p.tsw1.toNat / 2 ^ 20 = c) ∨ p.cls = 2

theorem exec_croftRxPacket (hc : c < 4096) (wf : Wf.packet p = true) (live : s.isFatal = false) :
    exec (.croftRxPacket c p) s = .next (settleCore (croftRx c p s)) :=
  (if_pos (by simp [Wf.croft, hc, wf])).trans (congrArg _ (if_neg (by simp [live])))

theorem ForCroft.taken (mine : ForCroft c p) :
    (p.cls == 5 && p.ptype == 0x40 && p.src.toNat < 0xF0000 && p.tsw0.toNat % 4096 == c ||
      p.cls == 4 && p.ptype == 0x30 && p.tsw1.toNat >>> 20 == c || p.cls == 2) = true := by
  rw [Nat.shiftRight_eq_div_pow]
  rcases mine with ⟨cls, type, src, home⟩ | ⟨cls, type, home⟩ | cls
  · simp [cls, type, src, home]
  · subst home
    simp [cls, type]
  · simp [cls]

theorem croftRx_of_corrupt (mine : ForCroft c p) (live : s.isFatal = false) (crc : packetCrc p p.payload ≠ p.crc) :
    croftRx c p s = takeInbox p s := by
  unfold croftRx
  rw [live, mine.taken]
  simp [crc]

/-- What a packet that is taken is to its Croft goes by its CLASS. -/
theorem croftRx_of_cls (mine : ForCroft c p) (works : s.works k = true) (phys : s.physOf c = some k)
    (crc : packetCrc p p.payload = p.crc) :
    (p.cls = 5 → croftRx c p s = rxData k p (takeInbox p s)) ∧
      (p.cls = 4 → croftRx c p s = rxResponse k p (takeInbox p s)) ∧
      (p.cls = 2 → croftRx c p s = rxPen c k p (takeInbox p s)) := by
  have live : s.isFatal = false := by simp_all [State.works]
  have free : ((takeInbox p s).croft k).fenced = false := show (s.croft k).fenced = false by simp_all [State.works]
  have here : (takeInbox p s).physOf c = some k := phys
  unfold croftRx
  rw [live, mine.taken]
  simp only [here, free, crc]
  refine ⟨fun cls => ?_, fun cls => ?_, fun cls => ?_⟩ <;> rw [cls] <;> simp

theorem taken_left (p : Packet) (k : Nat) (s : State) :
    CroftLeft k (s.croft k) s.crf.tflags [.inbox] s (takeInbox p s) :=
  (CroftLeft.refl k _ s).outside (takeInbox_changes (.refl _ s) (List.Subset.refl _)) (by decide) (List.Subset.refl _)

/-! ## Posted receives -/

theorem setPost_none_posts (r : Post) (y : Croft) : (setPost r none y).posts = y.posts.erase r := by
  simp [setPost, List.erase_eq_eraseIdx]

theorem mem_setAt {α : Type} {l : List α} {i : Nat} (h : i < l.length) (x : α) : x ∈ setAt l i x := by
  induction l generalizing i with
  | nil => cases h
  | cons a l ih =>
    cases i with
    | zero => exact List.mem_cons_self
    | succ i => exact List.mem_cons_of_mem _ (ih (Nat.lt_of_succ_lt_succ h))

theorem mem_setPost_some {r : Post} (h : r ∈ y.posts) (x : Post) : x ∈ (setPost r (some x) y).posts :=
  mem_setAt (List.idxOf_lt_length_of_mem h) x

/-! ## What a packet leaves -/

theorem CroftLeft.dropped (h : CroftLeft k y tf ps s u) :
    CroftLeft k { y with rxDrop := min 0xFFFFFFFF (y.rxDrop + 1) } tf ps s (countRxDrop k u) := h.modCroft rfl

/-- A receive that is complete ends and raises its flag. -/
def Croft.ended (gt : Nat) (r : Post) (y : Croft) : Croft :=
  (setPost r none y).putFlag gt r.flag (satFlag (Tab.look 0 y.flags r.flag) 1)

/-- A request is answered: its tag is free. -/
def Croft.answered (tag : Nat) (y : Croft) : Croft := { y with requests := y.requests.filter (· != tag) }

theorem Croft.ended_posts (gt : Nat) (r : Post) (y : Croft) : (y.ended gt r).posts = y.posts.erase r := setPost_none_posts r y

theorem Croft.ended_flag (gt : Nat) (r : Post) (y : Croft) :
    Tab.look 0 (y.ended gt r).flags r.flag = min 0xFFFF (Tab.look 0 y.flags r.flag + 1) := by
  rw [Croft.ended, Croft.look_putFlag, if_pos rfl, satFlag_one]

/-- A packet has landed in the Pantry; cycles are lost at most. -/
def Croft.landed (lost a : Nat) (bs : Bytes) (y : Croft) : Croft := Croft.stored a bs { y with conflict := lost }

theorem CroftLeft.lands (h : CroftLeft k y tf [.inbox, .draws] s u) (unarmed : s.flt.armed = none) {a : Nat} {bs : Bytes}
    (fits : a + bs.length ≤ pantrySize) : ∃ n, CroftLeft k (y.landed n a bs) tf [.inbox, .draws] s (portPut k a bs u) :=
  h.portStores (by decide) (by rw [h.frame.flt_eq (by decide) (by decide), unarmed]) fits

section
variable (unarmed : s.flt.armed = none) (left : CroftLeft k y tf [.inbox, .draws] s u)
include unarmed left

/-- A DATA packet within its posted buffer (R269): the receive ends where it is the last, else it stands with the new range. -/
theorem rxData_lands {r : Post} (found : y.posts.find? (fun r => !r.response && r.tag == p.tsw0.toNat / 65536) = some r)
    (fits : p.tsw1.toNat + p.payload.length ≤ r.len) (whole : p.tsw0.toNat / 4096 % 16 = 0)
    (inside : r.buf + r.len ≤ pantrySize) :
    let got := r.got ++ [(p.tsw1.toNat, p.payload.length)]
    ∃ n gt, CroftLeft k
      (if covers got r.len = true then (y.landed n (r.buf + p.tsw1.toNat) p.payload).ended gt r
        else setPost r (some { r with got := got }) (y.landed n (r.buf + p.tsw1.toNat) p.payload))
      tf [.inbox, .draws] s (rxData k p u) := by
  intro got
  obtain ⟨n, put⟩ := left.lands unarmed (a := r.buf + p.tsw1.toNat) (bs := p.payload) (by omega)
  have run : rxData k p u = if covers got r.len then
        addFlag k r.flag 1 ((portPut k (r.buf + p.tsw1.toNat) p.payload u).modCroft k (setPost r none))
      else (portPut k (r.buf + p.tsw1.toNat) p.payload u).modCroft k (setPost r (some { r with got := got })) := by
    unfold rxData
    simp only [left.croft, Nat.shiftRight_eq_div_pow, found]
    exact if_neg (by simp [fits, whole])
  rw [run]
  split
  · exact ⟨n, _, (put.modCroft rfl).modCroft rfl⟩
  · exact ⟨n, 0, put.modCroft rfl⟩

/-- A DATA packet that lands, by the fields of its Croft: the bytes, the receive and its flag (R269, R288). -/
theorem rxData_landed {r : Post} (found : y.posts.find? (fun r => !r.response && r.tag == p.tsw0.toNat / 65536) = some r)
    (fits : p.tsw1.toNat + p.payload.length ≤ r.len) (whole : p.tsw0.toNat / 4096 % 16 = 0)
    (inside : r.buf + r.len ≤ pantrySize) :
    let x := (rxData k p u).croft k
    let got := r.got ++ [(p.tsw1.toNat, p.payload.length)]
    x.pantry = Memory.writeN y.pantry (r.buf + p.tsw1.toNat) p.payload ∧
      (covers got r.len = true → x.posts = y.posts.erase r ∧
        Tab.look 0 x.flags r.flag = min 0xFFFF (Tab.look 0 y.flags r.flag + 1)) ∧
      (covers got r.len = false → x.flags = y.flags ∧ { r with got := got } ∈ x.posts) ∧ x.rxDrop = y.rxDrop ∧
      (∀ j, j ≠ k → (rxData k p u).croft j = s.croft j) ∧ ChangesOnly [.crf, .inbox, .draws] s (rxData k p u) := by
  obtain ⟨n, gt, left⟩ := rxData_lands unarmed left found fits whole inside
  refine ⟨?_, fun all => ?_, fun some_ => ?_, ?_, left.others, left.frame⟩
  all_goals rw [left.croft]
  · split <;> rfl
  · rw [if_pos all]
    exact ⟨Croft.ended_posts .., Croft.ended_flag ..⟩
  · rw [if_neg (ne_true_of_eq_false some_)]
    exact ⟨rfl, mem_setPost_some (List.mem_of_find?_eq_some found) _⟩
  · split <;> rfl

/-- A packet of a response within its posted buffer (R269): with the last one the receive ends and the request is answered. -/
theorem rxResponse_lands {r : Post} (found : y.posts.find? (fun r => r.response && r.tag == p.tsw1.toNat / 65536 % 16) = some r)
    (fits : 4096 * (p.tsw1.toNat / 256 % 256) + p.payload.length ≤ r.len) (inside : r.buf + r.len ≤ pantrySize)
    {got : List (Nat × Nat)} (next : (if r.got.contains (p.tsw1.toNat / 256 % 256, 1) then r.got
      else r.got ++ [(p.tsw1.toNat / 256 % 256, 1)]) = got) :
    let pkt := p.tsw1.toNat / 256 % 256
    let last := p.tsw1.toNat % 256
    ∃ n gt, CroftLeft k
      (if covers got (last + 1) = true
        then ((y.landed n (r.buf + 4096 * pkt) p.payload).answered (p.tsw1.toNat / 65536 % 16)).ended gt r
        else setPost r (some { r with got := got, total := some (last + 1) }) (y.landed n (r.buf + 4096 * pkt) p.payload))
      tf [.inbox, .draws] s (rxResponse k p u) := by
  intro pkt last
  obtain ⟨n, put⟩ := left.lands unarmed (a := r.buf + 4096 * pkt) (bs := p.payload) (by omega)
  have run : rxResponse k p u = if covers got (last + 1) then
        addFlag k r.flag 1 (((portPut k (r.buf + 4096 * pkt) p.payload u).modCroft k (setPost r none)).modCroft k
          (Croft.answered (p.tsw1.toNat / 65536 % 16)))
      else (portPut k (r.buf + 4096 * pkt) p.payload u).modCroft k
        (setPost r (some { r with got := got, total := some (last + 1) })) := by
    unfold rxResponse
    simp only [left.croft, Nat.shiftRight_eq_div_pow, found, next]
    exact if_neg (Nat.not_lt.2 fits)
  rw [run]
  split
  · exact ⟨n, _, ((put.modCroft rfl).modCroft rfl).modCroft rfl⟩
  · exact ⟨n, 0, put.modCroft rfl⟩

/-- A packet of a response that lands, by the fields of its Croft (R269, R288). -/
theorem rxResponse_landed {r : Post}
    (found : y.posts.find? (fun r => r.response && r.tag == p.tsw1.toNat / 65536 % 16) = some r)
    (fits : 4096 * (p.tsw1.toNat / 256 % 256) + p.payload.length ≤ r.len) (inside : r.buf + r.len ≤ pantrySize)
    {got : List (Nat × Nat)} (next : (if r.got.contains (p.tsw1.toNat / 256 % 256, 1) then r.got
      else r.got ++ [(p.tsw1.toNat / 256 % 256, 1)]) = got) :
    let x := (rxResponse k p u).croft k
    x.pantry = Memory.writeN y.pantry (r.buf + 4096 * (p.tsw1.toNat / 256 % 256)) p.payload ∧
      (covers got (p.tsw1.toNat % 256 + 1) = true → x.posts = y.posts.erase r ∧
        x.requests = y.requests.filter (· != p.tsw1.toNat / 65536 % 16) ∧
        Tab.look 0 x.flags r.flag = min 0xFFFF (Tab.look 0 y.flags r.flag + 1)) ∧
      (covers got (p.tsw1.toNat % 256 + 1) = false → x.flags = y.flags ∧ x.requests = y.requests) ∧
      x.rxDrop = y.rxDrop ∧ (∀ j, j ≠ k → (rxResponse k p u).croft j = s.croft j) ∧
      ChangesOnly [.crf, .inbox, .draws] s (rxResponse k p u) := by
  obtain ⟨n, gt, left⟩ := rxResponse_lands unarmed left found fits inside next
  refine ⟨?_, fun all => ?_, fun some_ => ?_, ?_, left.others, left.frame⟩
  all_goals rw [left.croft]
  · split <;> rfl
  · rw [if_pos all]
    exact ⟨Croft.ended_posts .., rfl, Croft.ended_flag ..⟩
  · rw [if_neg (ne_true_of_eq_false some_)]
    exact ⟨rfl, rfl⟩
  · split <;> rfl

/-- A data packet of a RESULT lands in the Pen's buffer (R169, R281). -/
theorem rxPen_lands {r : PenPost} (c : Nat)
    (found : y.pens.find? (fun r => r.tag == penTag p && r.stepLo == penStepLo p) = some r) (type : p.ptype = 0x12)
    (chunk : penChunk p < r.chunks) (data : penPkt p < dataPackets r.fmt) (whole : p.payload.length = dataLen r.fmt)
    (open_ : r.committed.testBit (penChunk p) = false) {dest : Nat}
    (at_ : dest = r.buf + penChunk p * (dataPackets r.fmt * dataLen r.fmt) + penPkt p * dataLen r.fmt)
    (inside : dest + p.payload.length ≤ pantrySize) :
    ∃ n pens, CroftLeft k { y.landed n dest p.payload with pens := pens } tf [.inbox, .draws] s (rxPen c k p u) := by
  obtain ⟨n, put⟩ := left.lands unarmed inside
  have run : rxPen c k p u = (portPut k dest p.payload u).modPenPost k r
      (fun x => some { x with data := Tab.edit 0 x.data (penChunk p) (· ||| 2 ^ penPkt p) }) := by
    simp only [rxPen, left.croft, found, type, beq_self_eq_true, if_true, rxResult, at_]
    rw [if_neg (by simp; omega), if_neg (by simp [open_]), if_pos data, if_neg (not_not.2 whole)]
  rw [run]
  exact ⟨n, _, put.modCroft rfl⟩

end

/-! ## Packets that are dropped -/

section
variable (left : CroftLeft k y tf ps s u)
include left

theorem rxData_of_stranger (none_ : y.posts.find? (fun r => !r.response && r.tag == p.tsw0.toNat / 65536) = none) :
    rxData k p u = countRxDrop k u := by
  simp only [rxData, left.croft, Nat.shiftRight_eq_div_pow, none_]

theorem rxData_of_long {r : Post} (found : y.posts.find? (fun r => !r.response && r.tag == p.tsw0.toNat / 65536) = some r)
    (long : r.len < p.tsw1.toNat + p.payload.length) : rxData k p u = countRxDrop k u := by
  simp only [rxData, left.croft, Nat.shiftRight_eq_div_pow, found]
  exact if_pos (by simp [long])

theorem rxResponse_of_long {r : Post}
    (found : y.posts.find? (fun r => r.response && r.tag == p.tsw1.toNat / 65536 % 16) = some r)
    (long : r.len < 4096 * (p.tsw1.toNat / 256 % 256) + p.payload.length) : rxResponse k p u = countRxDrop k u := by
  simp only [rxResponse, left.croft, Nat.shiftRight_eq_div_pow, found]
  exact if_pos long

theorem rxPen_of_stranger (c : Nat)
    (none_ : y.pens.find? (fun r => r.tag == penTag p && r.stepLo == penStepLo p) = none) :
    rxPen c k p u = countRxDrop k u := by
  simp only [rxPen, left.croft, none_]

end

end Sys2Proof.Machine
end

section
/-! SUPPORT. The stall sentinel (R303): a stalled Croft is fenced as hung at its mark, recorded, and its capsule is asked
for. -/

namespace Sys2Proof.Machine

/-! ## Capsules through a recording (R348, R360) -/

theorem Attic.putRecord_failed (a : Attic) (r : FaultRec) : (a.putRecord r).failed = a.failed := by
  unfold Attic.putRecord
  split <;> rfl

theorem Attic.putRecord_writing (a : Attic) (r : FaultRec) : (a.putRecord r).writing = a.writing := by
  unfold Attic.putRecord
  split <;> rfl

theorem Attic.openRecord_capsules (a : Attic) (r : FaultRec) :
    (a.openRecord r).failed = a.failed ∧ (a.openRecord r).writing = a.writing := by
  unfold Attic.openRecord
  dsimp only
  rw [Attic.putRecord_failed, Attic.putRecord_writing]
  split
  · split
    · exact ⟨Attic.putRecord_failed .., Attic.putRecord_writing ..⟩
    · exact ⟨rfl, rfl⟩
  · exact ⟨rfl, rfl⟩

/-- Recording a fault that is not FT leaves the capsules of the Attic. -/
theorem recordFault_capsules {e : FaultEvent} (uc : e.cls ≠ 3) (s : State) :
    (recordFault e s).attic.failed = s.attic.failed ∧ (recordFault e s).attic.writing = s.attic.writing := by
  unfold recordFault
  dsimp only
  rw [if_neg uc, State.modFlt_attic]
  by_cases merged : s.attic.openRecs.any (·.is e.source e.unit) = true
  · rw [if_pos merged]
    exact ⟨rfl, rfl⟩
  · rw [if_neg merged, report_attic]
    exact Attic.openRecord_capsules ..

theorem requestCapsule_writing {r : CapsuleReq} {s : State} (works : s.attic.failed = false) (idle : s.attic.writing = none) :
    (requestCapsule r s).attic.writing = some r := by
  simp [requestCapsule, works, idle]

/-! ## CROFT_HUNG -/

theorem exec_croftHung {c : Nat} (hc : c < 4096) (s : State) : exec (.croftHung c) s = .next (croftHung c s) :=
  if_pos (decide_eq_true hc)

section
variable {c k : Nat} {s : State} (phys : s.physOf c = some k)
include phys

theorem croftHung_of_running (running : s.waitedOn k = none ∨ s.stalled k = false) : croftHung c s = s := by
  unfold croftHung
  rcases running with none_ | moves
  · simp [phys, none_]
  · cases waits : s.waitedOn k <;> simp [phys, waits, moves]

/-- The mark at which a Croft that stays stalled is hung. -/
def State.hungGt (s : State) (k : Nat) : Nat :=
  let ticks := match s.fieldBody with | some (_, b) => b.sentinel | none => 4
  max (((s.quietSince k + s.tickLen - 1) / s.tickLen + ticks) * s.tickLen) (s.markAt s.bel.gt)

/-- The event of a hung Croft (0x0705). -/
def hungCroftEvent (k w : Nat) : FaultEvent :=
  { source := 0x0705, unit := unitCroft k, cls := 2, access := 0x0B, addr := w, fenced := true }

section
variable {w : Nat} (works : s.works k = true) (waits : s.waitedOn k = some w) (stalled : s.stalled k = true)
include works waits stalled

theorem croftHung_of_stalled : ∃ req, croftHung c s =
      requestCapsule req (recordFault (hungCroftEvent k w) (hangCroft k (advanceTo (s.hungGt k) s))) ∧
    req.cause = 1 ∧ req.crofts.head? = some c := by
  simp only [croftHung, phys, waits, works, stalled]
  exact ⟨_, rfl, rfl, rfl⟩

/-- A Croft that is hung is fenced and stops where it stood; the fault is recorded, and the capsule is under way where the
Attic is free. -/
theorem croftHung_left : ∃ tick, CroftLeft k { s.croft k with fenced := true, hung := true, fencedTick := tick } s.crf.tflags
      (timeParts ++ faultParts) s (croftHung c s) ∧
    (∃ r ∈ (croftHung c s).attic.openRecs, r.source = 0x0705 ∧ r.unit = 0x1000 + k) ∧
    (croftHung c s).bel.gt = (advanceTo (s.hungGt k) s).bel.gt ∧
    (s.attic.failed = false → s.attic.writing = none →
      ∃ r, (croftHung c s).attic.writing = some r ∧ r.cause = 1 ∧ r.crofts.head? = some c) := by
  obtain ⟨req, run, cause, first⟩ := croftHung_of_stalled phys works waits stalled
  have uc : (hungCroftEvent k w).cls ≠ 3 := show 2 ≠ 3 by decide
  have noted := recordFault_of_not_ft uc (hangCroft k (advanceTo (s.hungGt k) s))
  have attic : (advanceTo (s.hungGt k) s).attic = s.attic := advanceTo_frame _ s .attic (by decide)
  have hung : CroftLeft k { s.croft k with
      fenced := true, hung := true, fencedTick := some (advanceTo (s.hungGt k) s).tickNow } s.crf.tflags
      (timeParts ++ faultParts) s (hangCroft k (advanceTo (s.hungGt k) s)) :=
    ((CroftLeft.refl k _ s).outside (advanceTo_frame _ s) (by decide) (by decide)).modCroft rfl
  rw [run]
  refine ⟨_, (hung.outside noted.frame (by decide) (by decide)).outside (qs := [.attic])
    (requestCapsule_changes (.refl _ _) (List.Subset.refl _)) (by decide) (by decide), ?_, ?_,
    fun sound idle => ⟨req, ?_, cause, first⟩⟩
  · rw [requestCapsule_openRecs]
    exact noted.opened
  · exact noted.frame .gt (by decide)
  · obtain ⟨failed, writing⟩ := recordFault_capsules uc (hangCroft k (advanceTo (s.hungGt k) s))
    exact requestCapsule_writing (failed.trans (attic ▸ sound)) (writing.trans (attic ▸ idle))

end

end

end Sys2Proof.Machine
end

section
open Sys2Proof Sys2Proof.Machine

/-- Settles O31: a mover word leaves the cells of its runs moved in order (`moverAction_moves`), a port word sends as from the
state before it (`PortSent`), a packet lands or is dropped by the receive that it finds, and a stalled Croft is hung. -/
theorem moversPortsAndReceives : Obligations.MoversPortsAndReceives := by
  unfold Obligations.MoversPortsAndReceives
  intro c k s hc phys works x t others marked clean
  have live : s.isFatal = false := by simp_all [State.works]
  have fatal : s.flt.fatal = none := by simpa [State.isFatal] using live
  refine ⟨fun op cmd q listed => ⟨fun idle => ?_, fun next blocked => ?_, fun next named met calm => ?_⟩,
    fun q next met unarmed bad soft => ?_, fun p wf => ?_, fun w waits stalled => ?_, fun running => ?_⟩
  · rw [exec_moverWord listed hc, startWord_of_idle phys works idle]
  · rw [exec_moverWord listed hc, startWord_of_blocked phys works next blocked]
  · intro m rep index runs lies move
    obtain ⟨unarmed, bad, soft, good, sound⟩ := calm
    obtain ⟨⟨word, flags, posts, alone, frame⟩, cells⟩ :=
      (moverAction_moves bad soft unarmed fatal good sound listed q).started phys works next named met
    exact ⟨_, exec_moverWord listed hc s, word, flags, posts, alone, frame,
      fun source target open_ => cells fun r hr => ⟨source r hr, target r hr, open_⟩⟩
  · intro p kept body tag
    refine ⟨fun named => ?_, fun named => ?_, fun named => ?_, fun named => ⟨fun few => ?_, fun full => ?_⟩⟩
    · obtain ⟨n, sent⟩ := fpSend_sent bad soft (p := p) rfl (body := body) rfl c
      exact ⟨_, exec_fpSend hc live, sent.started phys works next named met⟩
    · obtain ⟨n, r, sent, tagged, rank, buf, flag, fresh⟩ := fpPenOpen_sent bad soft (p := p) rfl (body := body) rfl c
      obtain ⟨word, pens, -, swc⟩ := sent.started phys works next named met
      exact ⟨_, r, exec_fpPenOpen hc live, word, pens, tagged, rank, buf, flag, fresh, swc⟩
    · obtain ⟨n, sent⟩ := fpPenSend_sent bad soft (p := p) rfl c
      exact ⟨_, exec_fpPenSend hc live, sent.started phys works next named met⟩
    · obtain ⟨went, posted⟩ := fpPost_of_room (k := k) (s := s) (q := q) (Nat.not_le.2 few)
      obtain ⟨gt, left⟩ := startWord_left phys works next named met went posted
      refine ⟨_, exec_fpPost hc s, left.marked (by rintro ⟨⟩ <;> rfl), ?_, ?_, left.others, left.frame⟩
      all_goals rw [left.croft]; rfl
    · rw [exec_fpPost hc, startWord_of_refused phys works next named met (f := fpPost) (fpPost_of_full (Nat.not_lt.1 full))]
  · intro data answer n drops mine asked
    have run := exec_croftRxPacket hc wf live
    have taken := (taken_left p k s).mono (qs := [.inbox, .draws]) (by decide)
    have dropped (drop : croftRx c p s = countRxDrop k (takeInbox p s)) : drops := by
      have left := (taken_left p k s).dropped
      exact ⟨_, run.trans (by rw [drop]), left.croft, left.others, left.frame⟩
    refine ⟨fun kind crc => ?_, fun kind crc => ?_, fun kind crc => ?_, fun cls crc => ?_⟩
    · rw [run, croftRx_of_corrupt kind live crc]
    · obtain ⟨byCls, -, -⟩ := croftRx_of_cls (.inl kind) works phys crc
      have rx := byCls kind.1
      refine ⟨fun none_ => dropped (rx.trans (rxData_of_stranger taken none_)),
        fun r found long => dropped (rx.trans (rxData_of_long taken found long)),
        fun r found fits whole inside unarmed => ⟨_, rx ▸ run, rxData_landed unarmed taken found fits whole inside⟩⟩
    · obtain ⟨-, byCls, -⟩ := croftRx_of_cls (.inr (.inl kind)) works phys crc
      have rx := byCls kind.1
      exact ⟨fun r found long => dropped (rx.trans (rxResponse_of_long taken found long)),
        fun r found fits inside unarmed => ⟨_, rx ▸ run, rxResponse_landed unarmed taken found fits inside rfl⟩⟩
    · obtain ⟨-, -, byCls⟩ := croftRx_of_cls (.inr (.inr cls)) works phys crc
      have rx := byCls cls
      refine ⟨fun none_ => dropped (rx.trans (rxPen_of_stranger taken c none_)),
        fun r found type chunk data whole open_ unarmed inside => ?_⟩
      obtain ⟨m, pens, left⟩ := rxPen_lands unarmed taken c found type chunk data whole open_ rfl inside
      refine ⟨_, rx ▸ run, ?_, ?_, ?_, left.others, left.frame⟩
      all_goals rw [left.croft]; rfl
  · obtain ⟨tick, left, recorded, gt, capsule⟩ := croftHung_left phys works waits stalled
    refine ⟨_, exec_croftHung hc s, ?_, ?_, ?_, ?_, left.others, recorded, gt, capsule, left.frame⟩
    all_goals rw [left.croft]
  · rw [exec_croftHung hc, croftHung_of_running phys running]

end
